-- ==== Sys2Proof/Word.lean ====
section
/-! DEFINITION. Sys2Proof/Word.lean: the machine's word types (01 R16, 02 R27, 06 R158, 10 R290). -/

namespace Sys2Proof

/-- A command word, an s- or a-register. -/
abbrev Word := BitVec 64
/-- A capability (05 R129). -/
abbrev Cap := BitVec 128
/-- A vector register or queue entry: lane j of row i in bits 32(64i + j) upward (05 R139, 06 R158). -/
abbrev VReg := BitVec 32768
/-- A mask register: bit (i, j) at 64i + j. -/
abbrev MReg := BitVec 1024
/-- An accumulator tile: element (i, j) in bits 32(16i + j) upward (07 R194). -/
abbrev Tile32 := BitVec 8192
/-- A cache line, a granule or an NMU register: 64 bytes. -/
abbrev Line := BitVec 512

end Sys2Proof
end

