-- ==== Sys2Proof/Syntax.lean ====
section
/-! DEFINITION. Sys2Proof/Syntax.lean: the instructions and events of the TV-41, one constructor per row of
spec/opcode_table.json. A word of an engine carries a header `h` (its wait and signal bytes and the SCP and PMT prefixes
that precede it, 02 R30, R41); its other operands are the fields of its operand format (02 R35), each a natural number;
a signed immediate is held as its 64-bit two's complement value, IMX extension included (02 R42). Near-memory
instructions hold the fields of 10 R291. An event carries what its occurrence is about: a tile number, a column, the
number of a thing in flight, or the value that comes from outside. -/

namespace Sys2Proof

/-- The wait byte, the signal byte and the prefixes of a command word. `scp` holds bits 4:0 of an SCP prefix (scope in
bits 1:0, order in bits 4:2); `pmt` holds bits 1:0 of a PMT prefix (02 R30, R41). -/
structure Hdr where
  wait : Nat
  sig : Nat
  scp : Option Nat
  pmt : Option Nat
deriving DecidableEq, Repr

/-- A header without wait, signal and prefixes. -/
def Hdr.plain : Hdr := ⟨0, 0, none, none⟩

inductive Instr where
  /-- Prefix that supplies 40 further immediate bits to the next word (R42). -/
  | imx (h : Hdr) (ext : Nat)
  /-- Prefix that gives the next word a scope and a memory order (R329). -/
  | scp (h : Hdr) (scope order : Nat)
  /-- Prefix that permits a poison sink or a poison clear in the next word (R322). -/
  | pmt (h : Hdr) (sink clear : Nat)
  /-- Performs its wait and sends its signal, in any class (R50). -/
  | nop (h : Hdr)
  -- ctl words
  /-- Control-core 64-bit add of two s-registers (R104). -/
  | add (h : Hdr) (d a b : Nat)
  /-- Control-core 64-bit subtract (R104). -/
  | sub (h : Hdr) (d a b : Nat)
  /-- Control-core low 64 bits of a product, landing after 3 tc (R104). -/
  | mul (h : Hdr) (d a b : Nat)
  /-- Control-core high 64 bits of the 128-bit product, signed or unsigned by x (R104). -/
  | mulh (h : Hdr) (d a b x : Nat)
  /-- Control-core division per R70 on the port's divider, trapping on zero when TSTATE.dz is 1 (R106). -/
  | div (h : Hdr) (d a b x : Nat)
  /-- Control-core remainder per R70 on the port's divider (R106). -/
  | rem (h : Hdr) (d a b x : Nat)
  /-- Control-core bitwise AND (R104). -/
  | and (h : Hdr) (d a b : Nat)
  /-- Control-core bitwise OR (R104). -/
  | or (h : Hdr) (d a b : Nat)
  /-- Control-core bitwise XOR (R104). -/
  | xor (h : Hdr) (d a b : Nat)
  /-- Control-core a AND NOT b (R104). -/
  | andn (h : Hdr) (d a b : Nat)
  /-- Control-core left shift by a register count (R104). -/
  | shl (h : Hdr) (d a b : Nat)
  /-- Control-core logical or arithmetic right shift by a register count (R104). -/
  | shr (h : Hdr) (d a b x : Nat)
  /-- Control-core rotate right by b[5:0] (R104). -/
  | rot (h : Hdr) (d a b : Nat)
  /-- Control-core signed or unsigned minimum (R104). -/
  | min (h : Hdr) (d a b x : Nat)
  /-- Control-core signed or unsigned maximum (R104). -/
  | max (h : Hdr) (d a b x : Nat)
  /-- Control-core count of leading zero bits (R104). -/
  | clz (h : Hdr) (d a : Nat)
  /-- Control-core count of trailing zero bits (R104). -/
  | ctz (h : Hdr) (d a : Nat)
  /-- Control-core population count (R104). -/
  | popc (h : Hdr) (d a : Nat)
  /-- Control-core add of an immediate (R105). -/
  | addi (h : Hdr) (d a imm : Nat)
  /-- Control-core multiply by an immediate (R105). -/
  | muli (h : Hdr) (d a imm : Nat)
  /-- Control-core AND with an immediate (R105). -/
  | andi (h : Hdr) (d a imm : Nat)
  /-- Control-core OR with an immediate (R105). -/
  | ori (h : Hdr) (d a imm : Nat)
  /-- Control-core XOR with an immediate (R105). -/
  | xori (h : Hdr) (d a imm : Nat)
  /-- Control-core left shift by an immediate count (R105). -/
  | shli (h : Hdr) (d a n : Nat)
  /-- Control-core logical or arithmetic right shift by an immediate count (R105). -/
  | shri (h : Hdr) (d a n arith : Nat)
  /-- Control-core load of a sign-extended or IMX-extended immediate, clean (R105). -/
  | li (h : Hdr) (d imm : Nat)
  /-- Sign-extends the low n bits of a register (R107). -/
  | sext (h : Hdr) (d a n : Nat)
  /-- Extracts a bit field zero-extended (R107). -/
  | ext (h : Hdr) (d a pos width : Nat)
  /-- Extracts a bit field sign-extended (R107). -/
  | exts (h : Hdr) (d a pos width : Nat)
  /-- Inserts the low bits of a into a field of the tied destination (R107). -/
  | ins (h : Hdr) (d a pos width : Nat)
  /-- Funnel shift of a above b right by n (R107). -/
  | fsh (h : Hdr) (d a b n : Nat)
  /-- Writes 1 when the selected signed or unsigned comparison holds (R108). -/
  | cmp (h : Hdr) (d a b cond : Nat)
  /-- Writes 1 when a equals the immediate (R108). -/
  | seqi (h : Hdr) (d a imm : Nat)
  /-- Writes 1 when a is signed less than the immediate (R108). -/
  | slti (h : Hdr) (d a imm : Nat)
  /-- Writes 1 when a is unsigned less than the immediate (R108). -/
  | sltui (h : Hdr) (d a imm : Nat)
  /-- Selects a or b by a condition register, poisoning rather than trapping (R108). -/
  | sel (h : Hdr) (d a b c : Nat)
  /-- Conditional or unconditional branch relative to the word (R110). -/
  | b (h : Hdr) (cond a off : Nat)
  /-- Jumps to a register plus immediate (R110). -/
  | jmp (h : Hdr) (a imm : Nat)
  /-- Writes the link to s31 and branches (R110). -/
  | call (h : Hdr) (off : Nat)
  /-- Writes the link to sD and jumps to a register plus immediate (R110). -/
  | callr (h : Hdr) (d a imm : Nat)
  /-- Returns to the address held in s31 (R110). -/
  | ret (h : Hdr)
  /-- Decrements a counter and branches while the result is nonzero (R110). -/
  | loop (h : Hdr) (a off : Nat)
  /-- Computes the stateless counter-based random function of a counter and key (R112). -/
  | crng (h : Hdr) (d a b : Nat)
  /-- Places a slot in an engine's ring that runs a resident routine a given number of times (R115). -/
  | fork (h : Hdr) (eng routine cnt : Nat)
  /-- Pushes one command word onto an engine's ring, holding until a slot is free (R114). -/
  | ringp (h : Hdr) (d a eng : Nat)
  /-- Pushes two command words onto a ring in one step (R114). -/
  | ringp2 (h : Hdr) (d a b eng : Nat)
  /-- Returns a ring's head, tail, free count and idle and stopped bits (R117). -/
  | ringq (h : Hdr) (d eng : Nat)
  /-- Sets a semaphore count, leaving its poison (R118). -/
  | semset (h : Hdr) (n v : Nat)
  /-- Reads a semaphore's status value (R118). -/
  | semrd (h : Hdr) (n d : Nat)
  /-- Reads the status of the token queue between two engines (R118). -/
  | tokrd (h : Hdr) (prod cons d : Nat)
  /-- Maps a barrier handle onto a barrier slot (R118). -/
  | bhmap (h : Hdr) (slot n : Nat)
  /-- Writes one field of the matrix engine's shadow loop-nest table (R121). -/
  | mtwr (h : Hdr) (level field a : Nat)
  /-- Reads a system register into an s-register (R101). -/
  | sysrd (h : Hdr) (d reg : Nat)
  /-- Writes a system register from an s-register (R101). -/
  | syswr (h : Hdr) (a reg : Nat)
  /-- Stops issue of context 0 and ends the task once all engines, writes and handlers are done (R122). -/
  | done (h : Hdr)
  /-- Ends a handler context once its pending writes land and returns it to dormant (R123). -/
  | hend (h : Hdr)
  /-- Reads the status or configuration of a synchronisation object (R319). -/
  | synrd (h : Hdr) (d cfg kind col foreign idx : Nat)
  /-- Clears an object's poison field, optionally resetting its count, under a clear permit (R321). -/
  | scrub (h : Hdr) (kind col foreign idx rst : Nat)
  /-- Poisons an object with a given cause and the issuing tile's origin (R320). -/
  | poison (h : Hdr) (kind col foreign idx cause : Nat)
  /-- Initialises a tile-scope barrier slot with a target (R310). -/
  | binitTile (h : Hdr) (slot target : Nat)
  /-- Initialises a column-scope barrier slot at its home record (R313). -/
  | binitCol (h : Hdr) (slot target : Nat)
  /-- Initialises a device-scope barrier slot at its home record in a named column (R313). -/
  | binitDev (h : Hdr) (slot target home : Nat)
  /-- Writes a completion word's value and status with system release by default (R316). -/
  | cwpost (h : Hdr) (n a : Nat)
  /-- Holds the control-core context until earlier reads return and earlier effects are complete at the scope (R334). -/
  | ctlFence (h : Hdr)
  /-- Writes back every dirty line of named bank-store cache ways (R137). -/
  | bsflush (h : Hdr) (col foreign first count : Nat)
  /-- Writes back and invalidates every line of named bank-store cache ways (R137). -/
  | bsinv (h : Hdr) (col foreign first count : Nat)
  /-- Changes BSPLIT in every column of the grant, zeroing ways that change role (R138). -/
  | bspset (h : Hdr) (d n : Nat)
  /-- Submits a launch of a registered sheaf with release order, optionally naming a completion word (R379). -/
  | launch (h : Hdr) (sheaf cwen cw : Nat)
  /-- Stops a tile of the context in place, holding its snapshot (R384). -/
  | preemptStop (h : Hdr) (col row : Nat)
  /-- Resumes a tile stopped in place (R384). -/
  | preemptResume (h : Hdr) (col row : Nat)
  /-- Reads a snapshot register of a stopped or saved tile (R385). -/
  | snaprd (h : Hdr) (d n row col : Nat)
  /-- Edits the RW fields of a snapshot register of a stopped or saved tile (R385). -/
  | snapwr (h : Hdr) (a n row col : Nat)
  /-- Saves a stopped tile to its checkpoint slot and scrubs it, keeping its site reserved (R387). -/
  | ctxsave (h : Hdr) (col row full : Nat)
  /-- Restores a saved task onto its own site and resumes it (R389). -/
  | ctxrest (h : Hdr) (col row : Nat)
  /-- Ends the task as DONE does, then scrubs the tile and zeroes the context's column scratch there (R388). -/
  | ctxscrub (h : Hdr)
  /-- Tears down the issuing context with a given cause (R394). -/
  | ctxkill (h : Hdr) (cause : Nat)
  /-- Loads translation entries of the partition from a table image in the named columns (R404). -/
  | tld (h : Hdr) (d a b : Nat)
  /-- Reads half of a translation entry of the partition (R410). -/
  | trde (h : Hdr) (d a b x : Nat)
  /-- Makes a not-present-trap page present from the reserve pool, zero-filled (R406). -/
  | tmap (h : Hdr) (d a b : Nat)
  /-- Makes a page not present, optionally returning its frame to the pool (R409). -/
  | tunmap (h : Hdr) (d a st ret : Nat)
  /-- Shoots down a virtual range in every column, optionally through peers, to state 1 or invalid (R408). -/
  | tshd (h : Hdr) (d a b sys inv : Nat)
  /-- Probes the translation of an address without fault (R411). -/
  | tprb (h : Hdr) (d a : Nat)
  /-- Raises a trap with a program-chosen cause (R426). -/
  | trap (h : Hdr) (v code : Nat)
  /-- Returns from a trap level to TEPC of that level (R427). -/
  | tret (h : Hdr)
  /-- Stores a run of s-registers through the level's save-area capability (R428). -/
  | tspill (h : Hdr) (f l off : Nat)
  /-- Loads a run of s-registers through the level's save-area capability (R428). -/
  | tfill (h : Hdr) (f l off : Nat)
  /-- Runs the self-test of an engine on request (R437). -/
  | stest (h : Hdr) (d eng part : Nat)
  /-- Reads word 0 or word 1 of an error-log entry (R436). -/
  | errrd (h : Hdr) (d idx hi : Nat)
  /-- Reads the error-log status word, optionally emptying the log (R436). -/
  | errrdSt (h : Hdr) (d clr : Nat)
  -- acc words
  /-- Loads 4 KiB into a load-queue entry (R140). -/
  | ldq (h : Hdr) (q c index scale disp : Nat)
  /-- Loads up to 16 strided rows into a load-queue entry (R141). -/
  | ldqs (h : Hdr) (q c ab astr len rows disp : Nat)
  /-- Gathers up to 16 rows through an index list into a load-queue entry (R142). -/
  | ldqg (h : Hdr) (q c cl al ab len rows : Nat)
  /-- Writes the head store-queue entry to 4 KiB of memory (R140). -/
  | stq (h : Hdr) (q c index scale disp : Nat)
  /-- Writes the head store-queue entry as strided rows (R141). -/
  | stqs (h : Hdr) (q c ab astr len rows disp : Nat)
  /-- Scatters the head store-queue entry through an index list (R142). -/
  | stqg (h : Hdr) (q c cl al ab len rows : Nat)
  /-- Loads one byte zero-extended (R146). -/
  | ldb (h : Hdr) (d a imm : Nat)
  /-- Loads two bytes zero-extended (R146). -/
  | ldh (h : Hdr) (d a imm : Nat)
  /-- Loads four bytes zero-extended (R146). -/
  | ldw (h : Hdr) (d a imm : Nat)
  /-- Loads eight bytes (R146). -/
  | ldd (h : Hdr) (d a imm : Nat)
  /-- Stores one byte (R146). -/
  | stb (h : Hdr) (d a imm : Nat)
  /-- Stores two bytes (R146). -/
  | sth (h : Hdr) (d a imm : Nat)
  /-- Stores four bytes (R146). -/
  | stw (h : Hdr) (d a imm : Nat)
  /-- Stores eight bytes (R146). -/
  | std (h : Hdr) (d a imm : Nat)
  /-- Loads a capability with its tag from own scratchpad (R146). -/
  | cld (h : Hdr) (d a imm : Nat)
  /-- Stores a capability with its tag to own scratchpad (R146). -/
  | cst (h : Hdr) (d a imm : Nat)
  /-- Advances a capability's base by b and shortens its length (R145). -/
  | cder (h : Hdr) (d a b : Nat)
  /-- Sets a capability's length to b (R145). -/
  | cderLen (h : Hdr) (d a b : Nat)
  /-- Masks a capability's permissions (R145). -/
  | cperm (h : Hdr) (d a mask : Nat)
  /-- Reads one field of a capability (R145). -/
  | cget (h : Hdr) (d a f : Nat)
  /-- Tests a capability's tag, permissions and length (R145). -/
  | ctest (h : Hdr) (d a b need : Nat)
  /-- Access-core add (R144). -/
  | aadd (h : Hdr) (d a b : Nat)
  /-- Access-core subtract (R144). -/
  | asub (h : Hdr) (d a b : Nat)
  /-- Access-core add of an immediate (R144). -/
  | aaddi (h : Hdr) (d a imm : Nat)
  /-- Access-core multiply by an immediate (R144). -/
  | amuli (h : Hdr) (d a imm : Nat)
  /-- Access-core left shift by an immediate (R144). -/
  | ashli (h : Hdr) (d a n : Nat)
  /-- Access-core AND with an immediate (R144). -/
  | aandi (h : Hdr) (d a imm : Nat)
  /-- Access-core load immediate, clean (R144). -/
  | ali (h : Hdr) (d imm : Nat)
  /-- Installs a ring descriptor once the engine is idle and resets head and tail (R157). -/
  | rdset (h : Hdr) (eng a : Nat)
  /-- Reads a ring descriptor (R157). -/
  | rdget (h : Hdr) (eng d : Nat)
  /-- Holds the next word until every earlier access of the access core is performed (R148). -/
  | mark (h : Hdr)
  /-- Atomic wrapping add at the executing unit (R150). -/
  | amoadd (h : Hdr) (d a b w : Nat)
  /-- Atomic FP32 add rounded RNE (R150). -/
  | amofadd (h : Hdr) (d a b w : Nat)
  /-- Atomic signed or unsigned minimum (R150). -/
  | amomin (h : Hdr) (d a b w u : Nat)
  /-- Atomic signed or unsigned maximum (R150). -/
  | amomax (h : Hdr) (d a b w u : Nat)
  /-- Atomic AND (R150). -/
  | amoand (h : Hdr) (d a b w : Nat)
  /-- Atomic OR (R150). -/
  | amoor (h : Hdr) (d a b w : Nat)
  /-- Atomic XOR (R150). -/
  | amoxor (h : Hdr) (d a b w : Nat)
  /-- Atomic swap (R150). -/
  | amoswp (h : Hdr) (d a b w : Nat)
  /-- Atomic compare-and-swap against a[d] (R150). -/
  | amocas (h : Hdr) (d a b w : Nat)
  /-- Checks a location and arms a monitor, holding issue until a change or timeout (R152). -/
  | mwait (h : Hdr) (d a b k : Nat)
  /-- Posts a put of scratchpad data to a tile or peer, optionally incrementing a remote semaphore (R153). -/
  | putr (h : Hdr) (cs cd so dof ln sen sem : Nat)
  /-- Posts a put that starts a handler on the target tile (R153). -/
  | puth (h : Hdr) (cs cd so dof ln ha arg : Nat)
  /-- Posts a remote element-wise reduce into a target (R153). -/
  | rred (h : Hdr) (cs cd so dof cnt op ty sen sem : Nat)
  /-- Pushes a value at the bottom of a deque by its owner (R156). -/
  | dqpush (h : Hdr) (dq v st col foreign : Nat)
  /-- Pops a value from the bottom of a deque by its owner (R156). -/
  | dqpop (h : Hdr) (dq v st col foreign : Nat)
  /-- Steals a value from the top of a deque (R156). -/
  | dqsteal (h : Hdr) (dq v st col foreign : Nat)
  /-- Invalidates the L1 line holding an address (R149). -/
  | l1inv (h : Hdr) (c index scale disp : Nat)
  /-- Invalidates every L1 line (R149). -/
  | l1inva (h : Hdr)
  /-- Prefetches a line into L1 or a granule into the home bank store (R149). -/
  | pref (h : Hdr) (q c index scale disp : Nat)
  /-- Discards head entries of a queue (R143). -/
  | qdrop (h : Hdr) (q n : Nat)
  /-- Reads a queue's filled and allocated counts and head poison (R143). -/
  | qrd (h : Hdr) (d q : Nat)
  /-- Orders the access core's later accesses after earlier ones at a scope (R334). -/
  | accFence (h : Hdr)
  -- vec words
  /-- Vector floating add (R173). -/
  | vadd (h : Hdr) (d a b ty rnd sat : Nat)
  /-- Vector floating subtract (R173). -/
  | vsub (h : Hdr) (d a b ty rnd sat : Nat)
  /-- Vector floating multiply (R173). -/
  | vmul (h : Hdr) (d a b ty rnd sat : Nat)
  /-- Vector fused multiply-add into the tied destination (R173). -/
  | vfma (h : Hdr) (d a b ty rnd sat : Nat)
  /-- Vector fused multiply-subtract from the tied destination (R173). -/
  | vfms (h : Hdr) (d a b ty rnd sat : Nat)
  /-- Vector correctly rounded division (R173). -/
  | vdiv (h : Hdr) (d a b ty rnd sat : Nat)
  /-- Vector floating minimum per R79 (R173). -/
  | vmin (h : Hdr) (d a b ty : Nat)
  /-- Vector floating maximum per R79 (R173). -/
  | vmax (h : Hdr) (d a b ty : Nat)
  /-- Vector floating absolute value (R173). -/
  | vabs (h : Hdr) (d a ty : Nat)
  /-- Vector floating negation (R173). -/
  | vneg (h : Hdr) (d a ty : Nat)
  /-- Vector correctly rounded square root (R173). -/
  | vsqrt (h : Hdr) (d a ty rnd sat : Nat)
  /-- Vector correctly rounded reciprocal square root (R173). -/
  | vrsq (h : Hdr) (d a ty rnd sat : Nat)
  /-- Vector correctly rounded reciprocal (R173). -/
  | vrcp (h : Hdr) (d a ty rnd sat : Nat)
  /-- Vector e to the x, correctly rounded (R174). -/
  | vexp (h : Hdr) (d a ty : Nat)
  /-- Vector 2 to the x (R174). -/
  | vexp2 (h : Hdr) (d a ty : Nat)
  /-- Vector natural logarithm (R174). -/
  | vlog (h : Hdr) (d a ty : Nat)
  /-- Vector base-2 logarithm (R174). -/
  | vlog2 (h : Hdr) (d a ty : Nat)
  /-- Vector hyperbolic tangent (R174). -/
  | vtanh (h : Hdr) (d a ty : Nat)
  /-- Vector logistic sigmoid (R174). -/
  | vsigm (h : Hdr) (d a ty : Nat)
  /-- Vector GELU (R174). -/
  | vgelu (h : Hdr) (d a ty : Nat)
  /-- Vector SiLU (R174). -/
  | vsilu (h : Hdr) (d a ty : Nat)
  /-- Vector sine (R174). -/
  | vsin (h : Hdr) (d a ty : Nat)
  /-- Vector cosine (R174). -/
  | vcos (h : Hdr) (d a ty : Nat)
  /-- Vector error function (R174). -/
  | verf (h : Hdr) (d a ty : Nat)
  /-- Vector integer add, wrapping or saturating (R175). -/
  | viadd (h : Hdr) (d a b ty sat : Nat)
  /-- Vector integer subtract (R175). -/
  | visub (h : Hdr) (d a b ty sat : Nat)
  /-- Vector integer low-half multiply (R175). -/
  | vimul (h : Hdr) (d a b ty sat : Nat)
  /-- Vector integer high-half multiply (R175). -/
  | vimulh (h : Hdr) (d a b ty : Nat)
  /-- Vector integer multiply-add into the tied destination (R175). -/
  | vimad (h : Hdr) (d a b ty sat : Nat)
  /-- Vector integer absolute value (R175). -/
  | viabs (h : Hdr) (d a ty sat : Nat)
  /-- Vector integer minimum (R175). -/
  | vimin (h : Hdr) (d a b ty : Nat)
  /-- Vector integer maximum (R175). -/
  | vimax (h : Hdr) (d a b ty : Nat)
  /-- Vector bitwise AND of lanes (R176). -/
  | vand (h : Hdr) (d a b : Nat)
  /-- Vector bitwise OR (R176). -/
  | vor (h : Hdr) (d a b : Nat)
  /-- Vector bitwise XOR (R176). -/
  | vxor (h : Hdr) (d a b : Nat)
  /-- Vector a AND NOT b (R176). -/
  | vandn (h : Hdr) (d a b : Nat)
  /-- Vector element left shift by element counts (R176). -/
  | vshl (h : Hdr) (d a b ty : Nat)
  /-- Vector element right shift by element counts (R176). -/
  | vshr (h : Hdr) (d a b ty arith : Nat)
  /-- Vector element left shift by an immediate (R176). -/
  | vshli (h : Hdr) (d a n ty : Nat)
  /-- Vector element right shift by an immediate (R176). -/
  | vshri (h : Hdr) (d a n ty arith : Nat)
  /-- Vector per-lane bit-field extract (R177). -/
  | vext (h : Hdr) (d a b sg : Nat)
  /-- Vector per-lane bit-field insert into the tied destination (R177). -/
  | vins (h : Hdr) (d a b : Nat)
  /-- Vector per-lane funnel shift (R177). -/
  | vfsh (h : Hdr) (d a b n : Nat)
  /-- Vector per-lane population count (R177). -/
  | vpopc (h : Hdr) (d a : Nat)
  /-- Vector per-lane leading-zero count (R177). -/
  | vclz (h : Hdr) (d a : Nat)
  /-- Vector conversion of slot 0 of each lane between types (R178). -/
  | vcvt (h : Hdr) (d a dt ty rnd sat : Nat)
  /-- Packs slot 0 of two sources into a pair of slots of the tied destination (R179). -/
  | vpack (h : Hdr) (d a b ty hs : Nat)
  /-- Unpacks one slot into slot 0 (R179). -/
  | vunpk (h : Hdr) (d a sl ty : Nat)
  /-- Quantises FP32 blocks to an MX format with scales (R180). -/
  | vqnt (h : Hdr) (d a b ty : Nat)
  /-- Dequantises MX elements and scales to FP32 (R180). -/
  | vdqnt (h : Hdr) (d a b ty : Nat)
  /-- Compares two vectors into a mask (R181). -/
  | vcmp (h : Hdr) (d a b ty cond : Nat)
  /-- Compares I32 lanes with an immediate into a mask (R181). -/
  | vcmpi (h : Hdr) (d a cond imm : Nat)
  /-- Selects lanes of a or b by a mask (R182). -/
  | vsel (h : Hdr) (d a b n : Nat)
  /-- Clamps the tied destination between lo and hi (R182). -/
  | vclamp (h : Hdr) (d a b ty : Nat)
  /-- Mask AND (R183). -/
  | mand (h : Hdr) (d a b : Nat)
  /-- Mask OR (R183). -/
  | mor (h : Hdr) (d a b : Nat)
  /-- Mask XOR (R183). -/
  | mxor (h : Hdr) (d a b : Nat)
  /-- Mask NOT (R183). -/
  | mnot (h : Hdr) (d a : Nat)
  /-- Counts the set bits of each mask row into lane 0 (R183). -/
  | mpopc (h : Hdr) (d a : Nat)
  /-- Sets a mask from a row set and a lane count (R183). -/
  | mset (h : Hdr) (d rs n : Nat)
  /-- Vector register move (R184). -/
  | vmov (h : Hdr) (d a : Nat)
  /-- Broadcasts an immediate to every lane (R184). -/
  | vsplat (h : Hdr) (d imm : Nat)
  /-- Broadcasts lane n of each row (R184). -/
  | vbcr (h : Hdr) (d a n : Nat)
  /-- Broadcasts row n down each lane (R184). -/
  | vbcc (h : Hdr) (d a n : Nat)
  /-- Rotates lanes within each row (R184). -/
  | vrotr (h : Hdr) (d a n : Nat)
  /-- Rotates rows within each lane (R184). -/
  | vrotc (h : Hdr) (d a n : Nat)
  /-- Permutes lanes of each row by an index vector (R184). -/
  | vperm (h : Hdr) (d a b : Nat)
  /-- Looks up elements of a register by 10-bit indices (R184). -/
  | vlut (h : Hdr) (d a b : Nat)
  /-- Reduces each row in a fixed pairwise tree into lane 0 (R186). -/
  | vredr (h : Hdr) (d a op ty rnd sat : Nat)
  /-- Reduces each lane down the rows into row 0 (R186). -/
  | vredc (h : Hdr) (d a op ty rnd sat : Nat)
  /-- Sequential scan along rows or down lanes (R186). -/
  | vscan (h : Hdr) (d a op axis ty rnd sat : Nat)
  /-- Transposes four 16 by 16 blocks (R184). -/
  | vtrn (h : Hdr) (d a : Nat)
  /-- Copies an accumulator tile into a quarter of a vector register (R185). -/
  | vmovfa (h : Hdr) (d a q : Nat)
  /-- Copies a quarter of a vector register into an accumulator tile (R185). -/
  | vmovta (h : Hdr) (d a q : Nat)
  /-- Sets the rotating register regions and zeroes their bases (R170). -/
  | vrotset (h : Hdr) (n m : Nat)
  /-- Closes a software-pipelined loop, rotating the region bases (R171). -/
  | vloop (h : Hdr) (cnt off : Nat)
  /-- Updates a running base-2 softmax state per row from INT32 logits (R189). -/
  | expmax (h : Hdr) (d a new : Nat)
  /-- Normalises logits by an EXPMAX state (R190). -/
  | expnrm (h : Hdr) (d a b : Nat)
  /-- Merges a batch of active lanes into Welford statistics per row (R191). -/
  | vwelu (h : Hdr) (d a : Nat)
  /-- Merges two Welford states per row (R191). -/
  | vwelm (h : Hdr) (d a : Nat)
  /-- Sets token-exit mask rows whose confidence reaches a threshold (R192). -/
  | conft (h : Hdr) (d a thr : Nat)
  /-- Per-lane counter-based random numbers (R188). -/
  | vrng (h : Hdr) (d a b : Nat)
  /-- Writes each lane's position index (R184). -/
  | vidx (h : Hdr) (d : Nat)
  /-- Writes the index and value of the greatest active element of each row (R187). -/
  | vargmx (h : Hdr) (d a ty : Nat)
  /-- Expands a mask into all-ones or zero lanes (R183). -/
  | mtov (h : Hdr) (d a : Nat)
  /-- Sets a mask bit for each nonzero lane (R183). -/
  | vtom (h : Hdr) (d a : Nat)
  -- mtx words
  /-- Runs the active loop nest of matrix steps into accumulator tiles (R207). -/
  | mgo (h : Hdr) (ra rb fa fb acc kel aoff boff : Nat)
  /-- Runs one accumulator tile through one K run (R207). -/
  | mgos (h : Hdr) (ra rb fa fb acc kel aoff boff : Nat)
  /-- Opens a replay window over a run of tiles, copying them and the row mask (R219). -/
  | mtstart (h : Hdr) (d n : Nat)
  /-- Closes the replay window, releasing held flags and signals (R220). -/
  | mtend (h : Hdr)
  /-- Sets the matrix row mask from an immediate (R201). -/
  | mtsel (h : Hdr) (rs : Nat)
  /-- Sets the matrix row mask from lane 0 of a popped load-queue entry (R201). -/
  | mtselLq (h : Hdr) (d : Nat)
  /-- Fills a store-queue entry with the shadow or active table or the ring descriptors (R215). -/
  | mtrd (h : Hdr) (sel q : Nat)
  /-- Configures an operand ring's base and slot count (R199). -/
  | mringSet (h : Hdr) (k nslots base : Nat)
  /-- Advances an operand ring's head (R199). -/
  | mringAdv (h : Hdr) (k n : Nat)
  /-- Sets an operand ring's compression mode and metadata base (R200). -/
  | mspmeta (h : Hdr) (k mode metabase : Nat)
  /-- Zeroes a run of accumulator tiles and clears their poison (R211). -/
  | mtzero (h : Hdr) (d n : Nat)
  /-- Loads up to four tiles from a popped queue entry (R212). -/
  | maccld (h : Hdr) (d a n : Nat)
  /-- Stores up to four tiles into a store-queue entry (R212). -/
  | maccst (h : Hdr) (d a n : Nat)
  /-- Adds two accumulator tiles element by element (R214). -/
  | maccadd (h : Hdr) (d a b ty rnd sat : Nat)
  /-- Scales an accumulator tile by an FP32 immediate (R214). -/
  | mscale (h : Hdr) (d a f : Nat)
  /-- Converts tiles to a type into a store-queue entry (R213). -/
  | mcvt (h : Hdr) (d a n ty rnd sat : Nat)
  /-- Reads EFLAG.MTX into a store-queue entry and clears masked bits (R215). -/
  | mflag (h : Hdr) (d mask : Nat)
  /-- Reads replay-window status into a store-queue entry (R215). -/
  | mrstat (h : Hdr) (d clr : Nat)
  -- xbr words
  /-- Sets depth, qexp and encoding of a run of arrays (R236). -/
  | xcfg (h : Hdr) (a depth qexp enc n : Nat)
  /-- Sets the row-group mask of a run of arrays (R236). -/
  | xmask (h : Hdr) (a n rg : Nat)
  /-- Defines a crossbar group of chains of arrays (R238). -/
  | xgrp (h : Hdr) (g first nk nn : Nat)
  /-- Configures a crossbar input or output ring (R239). -/
  | xringSet (h : Hdr) (k out nslots base : Nat)
  /-- Advances a crossbar ring's head (R239). -/
  | xringAdv (h : Hdr) (k out n : Nat)
  /-- Loads the crossbar vector mask from a scratchpad image (R239). -/
  | xringVmask (h : Hdr) (base : Nat)
  /-- Multiplies input vectors by a group's arrays and writes products to the output ring (R240). -/
  | xmvm (h : Hdr) (g i o inoff outoff nvec route vm : Nat)
  /-- Multiplies input vectors by a group's arrays and adds products into the output ring (R240). -/
  | xmvma (h : Hdr) (g i o inoff outoff nvec route vm : Nat)
  /-- Writes an array's clip bits to scratchpad, optionally clearing them (R246). -/
  | xclip (h : Hdr) (a clr off : Nat)
  /-- Writes an array's status record to scratchpad (R247). -/
  | xstat (h : Hdr) (a off : Nat)
  /-- Writes an array's code-sum registers to scratchpad (R246). -/
  | xcsum (h : Hdr) (a off : Nat)
  /-- Marks a run of arrays private to the context (R248). -/
  | xpriv (h : Hdr) (a n : Nat)
  /-- Releases a run of arrays owned by the context (R248). -/
  | xprivRel (h : Hdr) (a n : Nat)
  /-- Applies one raising program pulse to selected cells of a row group (R257). -/
  | xprogSet (h : Hdr) (a g amp sel : Nat)
  /-- Applies one lowering program pulse to selected cells of a row group (R257). -/
  | xprogRst (h : Hdr) (a g amp sel : Nat)
  /-- Verifies cells against the code image and sets V and code sums (R258). -/
  | xvfy (h : Hdr) (a g ng rep : Nat)
  /-- Programs cells to their targets within a pulse budget, optionally remapping failing columns (R258). -/
  | xsteep (h : Hdr) (a g ng p rm rep : Nat)
  /-- Maps a logical column onto the lowest free spare column (R261). -/
  | xremap (h : Hdr) (a col : Nat)
  /-- Takes one reference measurement and applies the drift lapse rule (R263). -/
  | xrefMeas (h : Hdr) (a : Nat)
  /-- Takes one reference measurement and sets it as the baseline (R263). -/
  | xrefBase (h : Hdr) (a : Nat)
  /-- Programs the reference columns and sets the baseline (R263). -/
  | xrefProg (h : Hdr) (a : Nat)
  /-- Sets the automatic measurement interval of a run of arrays (R264). -/
  | xdrift (h : Hdr) (a n k clr : Nat)
  /-- Applies calibration vectors and fits per-column offset and gain (R265). -/
  | xcal (h : Hdr) (a : Nat)
  /-- Writes the per-column offset table from scratchpad (R266). -/
  | xoffw (h : Hdr) (a src : Nat)
  /-- Writes the per-column gain table from scratchpad (R266). -/
  | xgainw (h : Hdr) (a src : Nat)
  /-- Issues a certificate to an array after its checks and a measurement (R269). -/
  | xcert (h : Hdr) (a dth lk ebank : Nat)
  /-- Writes an array's sealed certificate record to scratchpad (R270). -/
  | xcrd (h : Hdr) (a dst : Nat)
  /-- Loads a sealed certificate record into a matching array (R270). -/
  | xcld (h : Hdr) (a src : Nat)
  /-- Sets fallback policy off, optionally the shadow-copy address (R271). -/
  | xfallOff (h : Hdr) (a n setptr ptr : Nat)
  /-- Sets fallback policy manual (R271). -/
  | xfallMan (h : Hdr) (a n setptr ptr : Nat)
  /-- Sets fallback policy auto (R271). -/
  | xfallAuto (h : Hdr) (a n setptr ptr : Nat)
  /-- Sets the audit rate and code-image address of a run of arrays (R272). -/
  | xaudit (h : Hdr) (a n rate setptr ptr : Nat)
  /-- Copies cell codes, logical or physical, into scratchpad (R273). -/
  | xrd (h : Hdr) (a g ng phys dst : Nat)
  /-- Resets every cell and the calibration state of an array (R274). -/
  | xerase (h : Hdr) (a : Nat)
  /-- Erases an array and also clears its remap table and uncertifiable mark (R274). -/
  | xeraseRt (h : Hdr) (a : Nat)
  -- cpy words
  /-- Copies len bytes between capabilities (R286). -/
  | cpy (h : Hdr) (rec desc : Nat)
  /-- Copies strided rows (R286). -/
  | cpys (h : Hdr) (rec desc : Nat)
  /-- Gathers rows through an index list (R286). -/
  | cpyg (h : Hdr) (rec desc : Nat)
  /-- Scatters rows through an index list (R286). -/
  | cpygSct (h : Hdr) (rec desc : Nat)
  /-- Copies a matrix transposed (R286). -/
  | cpyt (h : Hdr) (rec desc : Nat)
  /-- Copies while NMUs apply a fixed or user transform (R287). -/
  | cpyx (h : Hdr) (rec desc : Nat)
  /-- Fills a range with a 64-bit pattern (R286). -/
  | fill (h : Hdr) (rec desc : Nat)
  /-- Orders later copy accesses of named classes after earlier ones (R284). -/
  | sbar (h : Hdr) (mask : Nat)
  /-- Brings device-memory lines into the home bank store (R286). -/
  | pfch (h : Hdr) (rec desc : Nat)
  /-- Computes CRC-32C over a range into the completion record (R286). -/
  | chksum (h : Hdr) (rec desc : Nat)
  /-- Sets the completion-record area once no command is in flight (R278). -/
  | crec (h : Hdr) (base : Nat)
  /-- Writes the copy engine's status to scratchpad (R295). -/
  | cstat (h : Hdr) (rec dst : Nat)
  /-- Holds issue until every earlier copy command is complete (R285). -/
  | cdrain (h : Hdr)
  /-- Checks and loads an NMU program into a context slot (R292). -/
  | nmuld (h : Hdr) (rec src slot n : Nat)
  /-- Writes an NMU channel's status for the context to scratchpad (R295). -/
  | nmustat (h : Hdr) (rec dst ch : Nat)
  /-- Gathers key-value tokens through block tables, waiting on PENDING slots (R297). -/
  | kvgWait (h : Hdr) (rec desc : Nat)
  /-- Gathers key-value tokens, writing zeros and a bitmap for PENDING slots (R297). -/
  | kvgMask (h : Hdr) (rec desc : Nat)
  /-- Copies device-memory ciphertext to host memory (R298). -/
  | kvout (h : Hdr) (rec desc : Nat)
  /-- Copies host-memory ciphertext back into device memory (R298). -/
  | kvin (h : Hdr) (rec desc : Nat)
  /-- Stores key-value tokens through block tables into VALID slots (R367). -/
  | kvst (h : Hdr) (rec desc : Nat)
  /-- Marks skipped-layer slots PENDING and queues backfill requests for marked rows (R363). -/
  | bfq (h : Hdr) (rec desc img : Nat)
  /-- Installs the context's backfill table once it has no queued requests (R365). -/
  | bfctlLoad (h : Hdr) (rec desc : Nat)
  /-- Writes the context's backfill status record (R366). -/
  | bfctlStat (h : Hdr) (rec dst : Nat)
  /-- Waits until the context's queued backfill requests have left the queue (R365). -/
  | bfctlDrain (h : Hdr) (rec : Nat)
  /-- Pauses the context's backfill in the column (R365). -/
  | bfctlPause (h : Hdr) (rec : Nat)
  /-- Clears the context's backfill pause (R365). -/
  | bfctlRun (h : Hdr) (rec : Nat)
  -- near-memory instructions
  /-- NMU typed add (R291). -/
  | nadd (d a b rnd sat ty : Nat)
  /-- NMU typed subtract (R291). -/
  | nsub (d a b rnd sat ty : Nat)
  /-- NMU typed multiply (R291). -/
  | nmul (d a b rnd sat ty : Nat)
  /-- NMU typed fused multiply-add into d (R291). -/
  | nfma (d a b rnd sat ty : Nat)
  /-- NMU typed minimum (R291). -/
  | nmin (d a b rnd sat ty : Nat)
  /-- NMU typed maximum (R291). -/
  | nmax (d a b rnd sat ty : Nat)
  /-- NMU typed absolute value (R291). -/
  | nabs (d a rnd sat ty : Nat)
  /-- NMU typed negation (R291). -/
  | nneg (d a rnd sat ty : Nat)
  /-- NMU element equality into all-ones or zero (R291). -/
  | ncmpeq (d a b rnd sat ty : Nat)
  /-- NMU element less-than (R291). -/
  | ncmplt (d a b rnd sat ty : Nat)
  /-- NMU element less-or-equal (R291). -/
  | ncmple (d a b rnd sat ty : Nat)
  /-- NMU bitwise select by a mask register (R291). -/
  | nsel (d a b m : Nat)
  /-- NMU bitwise AND (R291). -/
  | nand (d a b : Nat)
  /-- NMU bitwise OR (R291). -/
  | nor (d a b : Nat)
  /-- NMU bitwise XOR (R291). -/
  | nxor (d a b : Nat)
  /-- NMU per-lane left shift (R291). -/
  | nshl (d a n : Nat)
  /-- NMU per-lane logical or arithmetic right shift (R291). -/
  | nshr (d a n arith : Nat)
  /-- NMU narrowing or widening conversion of a part (R291). -/
  | ncvt (d a p sfrom rnd sat sto : Nat)
  /-- NMU broadcast of one lane (R291). -/
  | nbcst (d a n : Nat)
  /-- NMU load of a zero-extended immediate into every lane (R291). -/
  | nli (d imm : Nat)
  /-- NMU load of an immediate into bits 31:11 of every lane (R291). -/
  | nlih (d imm : Nat)
  /-- NMU register move (R291). -/
  | nmov (d a : Nat)
  /-- NMU tree sum of a register into lane 0 (R291). -/
  | nrsum (d a rnd sat ty : Nat)
  /-- NMU tree minimum into lane 0 (R291). -/
  | nrmin (d a rnd sat ty : Nat)
  /-- NMU tree maximum into lane 0 (R291). -/
  | nrmax (d a rnd sat ty : Nat)
  /-- NMU load of the next 64 bytes of the IN or AUX stream (R291). -/
  | nld (d st : Nat)
  /-- NMU append of low bytes of a register to OUT (R291). -/
  | nst (a sz : Nat)
  /-- NMU load of the parameter block (R291). -/
  | nldp (d : Nat)
  /-- NMU advance of the IN stream (R291). -/
  | nskip (n : Nat)
  /-- NMU outer counted loop over the following body (R291). -/
  | nloop1 (len cnt : Nat)
  /-- NMU inner counted loop inside an NLOOP1 body (R291). -/
  | nloop2 (len cnt : Nat)
  /-- Ends the NMU run (R291). -/
  | nend
  /-- NMU no operation (R291). -/
  | nnop
  /-- NMU correctly rounded reciprocal (R291). -/
  | nrcp (d a rnd sat ty : Nat)
  /-- NMU clamp of d between a and b (R291). -/
  | nclamp (d a b rnd sat ty : Nat)
  /-- NMU scale by a power of two from lane 0 of b (R291). -/
  | nscl (d a b rnd sat ty : Nat)
  /-- NMU largest absolute element into lane 0 (R291). -/
  | nramax (d a rnd sat ty : Nat)
  /-- NMU element not-equal (R291). -/
  | ncmpne (d a b rnd sat ty : Nat)
  /-- NMU a AND NOT b (R291). -/
  | nandn (d a b : Nat)
  /-- NMU byte shuffle by indices (R291). -/
  | nshuf (d a b : Nat)
  -- events
  /-- Delivers the lowest pending engine fault to context 0 as a level-1 trap (R424). -/
  | engineFaultDelivery (t : Nat)
  /-- Restarts a stopped engine at its reported group from the kept copy (R425). -/
  | efltRst (t e : Nat)
  /-- Discards a stopped engine's reported group and restarts it after the group (R425). -/
  | efltSkip (t e : Nat)
  /-- A pending register, mask, tile or flag write lands at its issue plus latency (R97). -/
  | pendingWriteLands (id : Nat)
  /-- A clean token push waiting at a full queue takes effect once a pop makes room (R32). -/
  | tokenPushTakesEffect (t q : Nat)
  /-- Starts the lowest enabled dormant handler context on the head handler-queue entry (R125). -/
  | handlerStart (t : Nat)
  /-- The receive unit writes a put's or reduce's granules, increments the remote semaphore and queues a handler (R154). -/
  | putDelivery (id : Nat)
  /-- A handler put refused by a full handler queue is retried after 64 bc (R154). -/
  | puthRetry (id : Nat)
  /-- A barrier arrival is performed at a column- or device-scope home record (R313). -/
  | homeArrival (id : Nat)
  /-- A home record's new gen or poison field reaches a participant's local slot and releases its waiters (R313). -/
  | homeUpdate (id : Nat)
  /-- A write of a different value to an armed address wakes its MWAIT (R152). -/
  | monitorWake (t v : Nat)
  /-- An MWAIT's timeout of 2^(k+5) tc expires (R152). -/
  | mwaitTimeout (t : Nat)
  /-- An MWAIT finding all monitors armed repeats its check-and-arm after 64 bc (R317). -/
  | monitorRetry (t : Nat)
  /-- One 16 by 16 matrix step starts, reading its slots, computing R87 or R88 for active rows (R208). -/
  | matrixStep (t : Nat)
  /-- A crossbar command starts its array work at a frame tc, reading inputs and resolving routes (R233). -/
  | arrayWorkStart (t k : Nat)
  /-- A crossbar vector's output rows land and its clip bits and flags are set (R233). -/
  | vectorRowsLand (t k : Nat)
  /-- A digital-route block is computed in a free matrix step slot from the shadow copy (R242). -/
  | digitalRouteStep (t k : Nat)
  /-- The matrix engine recomputes F for an audited operation and compares it with the delivered values (R245). -/
  | audit (t k : Nat)
  /-- An audit unfinished 16,384 tc after its operation blocks new MTX commands (R245). -/
  | auditOverdue (t : Nat)
  /-- An array's automatic reference measurement falls due and runs (R264). -/
  | automaticMeasurement (t a : Nat)
  /-- A copy command's unit translates, reads and writes, advancing progress (R281). -/
  | copyUnit (t k : Nat)
  /-- An NMU executes a transform or program over one unit (R290). -/
  | nmuRun (ch : Nat)
  /-- A parity mismatch aborts an NMU run before its writes and ends the command poisoned (R299). -/
  | nmuParityAbort (ch : Nat)
  /-- The backfill engine chooses a batch and computes K and V projections of one layer (R356). -/
  | backfillBatch (c : Nat)
  /-- Backfill writes a layer's entries then moves their codes PENDING to FILLED (R357). -/
  | backfillLayerComplete (c : Nat)
  /-- A residue or parity checker flags a pipeline error; the engine freezes and replays (R431). -/
  | checkerMismatch (t u fails : Nat)
  /-- A targeted self-test ends with a transient or lasting verdict (R432). -/
  | selfTestVerdict (t u fail : Nat)
  /-- An uncorrectable SRAM error poisons its holder and is logged (R430). -/
  | sramUncorrectableError (t holder idx : Nat)
  /-- A fetch of a CIM word with an uncorrectable error raises 0x14 (R434). -/
  | cimUncorrectableFetch (t ctx : Nat)
  /-- An uncorrectable HBM4 read enters its sector in the controller's record (R323). -/
  | hbmUncorrectableRead (pa : Nat)
  /-- A waiting fault record is written once the host fault queue has space (R402). -/
  | faultRecordWrite
  /-- A launch reaches the dispatcher and is accepted with the next acceptance number (R379). -/
  | launchAcceptance (id : Nat)
  /-- The dispatcher reads a host submission entry and launches or refuses it (R451). -/
  | submissionEntryRead
  /-- The dispatcher binds the highest-priority ready node, point or gang to the lowest eligible free tile (R375). -/
  | bindingDecision
  /-- A waiting node's pass count reaches 1,024 and its current priority rises (R376). -/
  | priorityPromotion (l k : Nat)
  /-- A bind message sets the tile's state and streams its image, ending when the entry word issues (R380). -/
  | taskBind (id : Nat)
  /-- A node completes once its tasks and writes are done, enabling dependants (R344). -/
  | nodeCompletion (l k : Nat)
  /-- A waiting DONE completes when rings, engines, writes and handlers are idle and the tile reports completion (R122). -/
  | doneCompletion (t : Nat)
  /-- A column's stall wire falls and everything frozen resumes in one tc (R393). -/
  | stallWireFall (c holder : Nat)
  /-- Host write of a column's replay register rechecks held accesses up to a sequence number (R403). -/
  | replay (c n : Nat)
  /-- Host write with go starts the refill walker reloading named entries from the image (R405). -/
  | refill (c v : Nat)
  /-- Host doorbell write advancing the submission ring tail (R451). -/
  | sqdb (v : Nat)
  /-- Host write to a BAR0 register without behaviour of its own (R450). -/
  | registerWrite (off v : Nat)
  /-- Mailbox request creating a context from its record, partitions, key grant and deques (R369). -/
  | createContext
  /-- Mailbox request tearing a context down with reason host (R454). -/
  | tearDownContext
  /-- Mailbox request unwrapping and loading a matter key into a slot (R457). -/
  | loadMatterKeySlot
  /-- Mailbox request clearing a matter-key slot (R454). -/
  | clearMatterKeySlot
  /-- Mailbox request loading an object's matching variant and registering its sheaves (R66). -/
  | loadObject
  /-- Mailbox request adding frames to a context's reserve pool (R455). -/
  | fillReservePool
  /-- Mailbox request zeroing a quarantined frame and clearing its bitmap bit (R401). -/
  | clearQuarantine
  /-- Mailbox request moving a page's home column (R455). -/
  | movePageHome
  /-- Mailbox request producing a signed attestation quote (R459). -/
  | attestationQuote
  /-- Mailbox request with an unknown opcode, refused with 0x0146 (R454). -/
  | mboxUnknownOpcode
  /-- Cold reset runs the boot stages from ROM verification to training (R456). -/
  | coldReset
  /-- Warm reset repeats boot stages 3 to 5 keeping bank stores powered (R444). -/
  | warmReset
  /-- A function finishes training or certificate reload and its READY bit rises (R448). -/
  | functionReady (f : Nat)
  /-- Management processor re-applies repair and clears a column's retained-unverified mark (R444). -/
  | repairReapplied (c : Nat)
  /-- A culm flit fails CRC, is retried and after 8 retries delivered poisoned (R438). -/
  | flitCrcFailure (c sh wire id : Nat)
  /-- A wire reaches 16 attributed failures within 2^20 bc and is declared failed (R438). -/
  | wireFailureDeclared (c sh wire : Nat)
  /-- Under a stall hold, maps a failed wire onto a spare or degrades the sheath (R440). -/
  | softRepair (c : Nat)
  /-- Switches a spare SRAM row or column into a bank-store way, or retires the way (R445). -/
  | bankStoreSpareSwitch (c way isCol bad : Nat)
  /-- Every 1 ms the bank temperatures set refresh intervals and stack throttling (R446). -/
  | hbmTemperatureRead (temps : List Nat)
  /-- A channel's refresh interval expires and a refresh burst blocks it (R446). -/
  | refreshBurst (ch : Nat)
  /-- Every 1 ms the power governor measures module power and chooses columns to throttle (R460). -/
  | governorMeasurement (watts : Nat)
  /-- The governor raises or lowers a throttled column's stall wire within each 3,600 tc period (R460). -/
  | governorThrottlePeriod (c up : Nat)
  /-- The tile die reaches 110 °C and binding stops (R449). -/
  | thermalStopBinding
  /-- The tile die reaches 125 °C and the package is taken off power (R449). -/
  | thermalPowerOff
  /-- A peer flit fails CRC and is retried, marking the port failed after 8 failures (R453). -/
  | peerFlitCrcFailure (p : Nat)
  /-- A peer fails to acknowledge a shoot-down within 65,536 bc and its port is fenced (R408). -/
  | peerShootdownTimeout (p : Nat)
  /-- A reduce packet arriving on a peer port is executed at its receive side (R453). -/
  | peerReduceReceive (p pa op ty : Nat) (vals : List Nat)
  /-- An engine decodes the all-zero word or a word whose opcode is unassigned in its class and raises 0x01 or 0x02 (R47). -/
  | wordNotAnInstruction (w : Nat)
  /-- A control-core fetch at or beyond CIMLEN, including a branch target or handler entry there, raises 0x0A with TEPC and TVAL holding the program counter (R95). -/
  | fetchBeyondCimImage (t ctx : Nat)
  /-- A load, queue load, store or atomic returns from its executing unit after a variable or unbounded time, writing its register or filling its queue entry and sending its signal, or ending with 0x59 on a host error completion (R127). -/
  | accessResponse (id : Nat)
  /-- A host or peer read or write of this device's memory arrives and is performed at HBM as a memory-end access, writing back and invalidating home lines and waking monitors (R342). -/
  | inboundMemoryAccess (pa : Nat) (bytes : List Nat)
  /-- A shoot-down sent by a peer's TSHD.SYS arrives, the management processor applies it to the linked context's entries and returns an acknowledgement (R408). -/
  | peerShootdownRequest (p ctx base len inv : Nat)
  /-- A peer's acknowledgement of this device's system shoot-down arrives and joins the counted tree, letting TSHD complete (R408). -/
  | peerShootdownAcknowledgement (p : Nat)
  /-- After the entry word issues, further CIM and ring-image words arrive from device memory and release fetches held on them (R380). -/
  | imageStream (t : Nat)
  /-- A calibration word's array time ends, or XCAL's fit finishes in matrix step slots, and the word's effect lands and its signal is sent (R252). -/
  | calibrationWordComplete (t k : Nat)
  /-- An SRAM array meets a correctable error, corrects it and counts it as transient in the error log (R430). -/
  | sramCorrectableError (t u : Nat)
deriving DecidableEq, Repr

end Sys2Proof
end

