-- ==== Sys2Proof/WellFormed.lean ====
section
/-! DEFINITION. Sys2Proof/WellFormed.lean: which instructions a word of the given class can say: field widths, register
specifiers (02 R38, R39), the modifier values and limits of each description, the wait and signal bytes (R31) and the
prefixes each word accepts (R42, R43, R52 to R56, 12 R330). -/

namespace Sys2Proof

/-- The register a specifier slot accepts, the modifier values an instruction defines, or the limits of an operand. -/
inductive Chk where
  | any
  | mods (vs : List Nat)
  | rng (lo hi : Nat)
  | regS | regA | regC | regQ | regLq | regSq | lqIx | sqIx
  | vSrcSt | vSrc | vDstSt | vDst | vTied | vReg | mReg | accReg | nReg
deriving DecidableEq, Repr

/-- A specifier is valid for its slot (02 R38, R39; 06 R165). -/
def Chk.okReg (c : Chk) (v : Nat) : Bool :=
  match c with
  | .any | .mods _ | .rng _ _ => true
  | .regS => decide (v < 32)
  | .regA => decide (v < 32)
  | .regC => decide (64 ≤ v ∧ v < 80)
  | .regQ => decide (1024 ≤ v ∧ v < 1030)
  | .regLq => decide (1024 ≤ v ∧ v < 1028)
  | .regSq => decide (1028 ≤ v ∧ v < 1030)
  | .lqIx => decide (v < 4)
  | .sqIx => decide (4 ≤ v ∧ v < 6)
  | .vSrcSt => decide (v < 1028 ∨ v = 1030 ∨ (1032 ≤ v ∧ v < 1040))
  | .vSrc => decide (v < 1028 ∨ v = 1030)
  | .vDstSt => decide (v < 1024 ∨ (1028 ≤ v ∧ v < 1031) ∨ (1032 ≤ v ∧ v < 1040))
  | .vDst => decide (v < 1024 ∨ (1028 ≤ v ∧ v < 1031))
  | .vTied => decide (v < 1024 ∨ v = 1030)
  | .vReg => decide (v < 1024)
  | .mReg => decide (1088 ≤ v ∧ v < 1152)
  | .accReg => decide (1152 ≤ v ∧ v < 1216)
  | .nReg => decide (v < 24)

/-- A modifier field holds a value the instruction defines (R29 check 6). -/
def Chk.okMod (c : Chk) (v : Nat) : Bool :=
  match c with
  | .mods vs => vs.contains v
  | _ => true

/-- An operand lies within its limits (R29 check 8). -/
def Chk.okRng (c : Chk) (v : Nat) : Bool :=
  match c with
  | .rng lo hi => decide (lo ≤ v ∧ v ≤ hi)
  | _ => true

/-- The 64-bit value `v` is the sign extension of an `n`-bit field. -/
def fitsS (n v : Nat) : Bool :=
  decide (v < 2 ^ 64) && (decide (v < 2 ^ (n - 1)) || decide (2 ^ 64 - 2 ^ (n - 1) ≤ v))

/-- The engine classes with the ids of 01 R16. -/
inductive Engine where
  | ctl | acc | vec | mtx | xbr | cpy
deriving DecidableEq, Repr

def Engine.id : Engine → Nat
  | .ctl => 0 | .acc => 1 | .vec => 2 | .mtx => 3 | .xbr => 4 | .cpy => 5

/-- A wait or signal byte is valid in a word of engine `own` (R30, R31). -/
def syncByteOk (own b : Nat) : Bool :=
  let k := b / 32
  let n := b % 32
  decide (b < 256) &&
  (if k = 0 then decide (n = 0) else if k = 1 then decide (n ≤ 5 ∧ n ≠ own) else decide (k ≤ 4))

/-- A system-register number that is assigned (04 R102; 06 R160; 16 R417). -/
def sysAssigned (n : Nat) : Bool :=
  decide (n ≤ 4 ∨ n = 8 ∨ n = 9 ∨ (0x10 ≤ n ∧ n ≤ 0x15) ∨ n = 0x18 ∨ (0x80 ≤ n ∧ n ≤ 0x8A) ∨ (0x90 ≤ n ∧ n ≤ 0x96)
    ∨ (0x100 ≤ n ∧ n ≤ 0x11F))

/-- A snapshot-register number listed in 14 R382. -/
def snapAssigned (n : Nat) : Bool :=
  decide (n ≤ 5 ∨ (0x10 ≤ n ∧ n ≤ 0x14) ∨ (0x18 ≤ n ∧ n ≤ 0x1A) ∨ (0x20 ≤ n ∧ n ≤ 0x28) ∨ (0x30 ≤ n ∧ n ≤ 0x35)
    ∨ (0x40 ≤ n ∧ n ≤ 0x37F) ∨ (0x380 ≤ n ∧ n ≤ 0x383))

/-- The index of a synchronisation object lies in the range of its kind (11 R318). -/
def objIndexOk (kind idx : Nat) : Bool :=
  match kind with
  | 0 => decide (idx < 64)
  | 1 => decide (idx < 64 ∧ idx / 8 ≤ 5 ∧ idx % 8 ≤ 5 ∧ idx / 8 ≠ idx % 8)
  | 2 => true
  | 3 => decide (idx < 32)
  | _ => decide (idx < 256)

/-- Width of an element of a packing type code (06 R179). -/
def elemWidth (ty : Nat) : Nat :=
  match ty with
  | 3 | 7 | 8 => 16
  | 5 | 11 => 4
  | 1 | 2 | 9 | 10 => 8
  | _ => 32

/-- Rounding and saturation modifiers that a reduction uses (06 R186): rounding for floating types, saturation for
floating types and for an integer add; an unused subfield is zero (02 R37). -/
def redModOk (ty op rnd sat : Nat) : Bool :=
  if ty = 0 then decide (rnd = 0) && (decide (sat = 0) || decide (op = 0)) else true

/-- Tile number of an accumulator specifier. -/
def accIdx (v : Nat) : Nat := v - 1152

/-- Bytes of an element of an NMU type code (10 R287). -/
def nmuBytes (t : Nat) : Nat :=
  match t with
  | 0 | 4 => 4
  | 1 => 2
  | _ => 1

/-- The part number of NCVT lies below the number of parts (10 R291). -/
def ncvtPartOk (p sfrom sto : Nat) : Bool :=
  decide (p * min (nmuBytes sfrom) (nmuBytes sto) < max (nmuBytes sfrom) (nmuBytes sto))

/-- The header of a word: valid bytes, and only prefixes the word accepts. `orders` lists the SCP orders, empty when the
word accepts no SCP; `pmts` lists the PMT values (1 sink, 2 clear). -/
def Hdr.ok (own : Nat) (orders pmts : List Nat) (h : Hdr) : Bool :=
  syncByteOk own h.wait && syncByteOk own h.sig &&
  (match h.scp with
   | none => true
   | some v => decide (v < 32) && orders.contains (v / 4)) &&
  (match h.pmt with
   | none => true
   | some v => pmts.contains v)

def instrOk (cls : Engine) : Instr → Bool
  | .imx h ext => decide (h = Hdr.plain) && decide (ext < 2 ^ 40)
  | .scp h scope order => decide (h = Hdr.plain) && decide (scope < 4) && decide (order ≤ 4)
  | .pmt h sink clear => decide (h = Hdr.plain) && decide (sink < 2) && decide (clear < 2) && decide (sink + clear ≠ 0)
  | .nop h => h.ok cls.id [] []
  | .add h d a b =>
      decide (cls = .ctl) && h.ok 0 [] [] && decide (d < 2048) && Chk.okReg .regS d && decide (a < 2048) &&
      Chk.okReg .regS a && decide (b < 2048) && Chk.okReg .regS b
  | .sub h d a b =>
      decide (cls = .ctl) && h.ok 0 [] [] && decide (d < 2048) && Chk.okReg .regS d && decide (a < 2048) &&
      Chk.okReg .regS a && decide (b < 2048) && Chk.okReg .regS b
  | .mul h d a b =>
      decide (cls = .ctl) && h.ok 0 [] [] && decide (d < 2048) && Chk.okReg .regS d && decide (a < 2048) &&
      Chk.okReg .regS a && decide (b < 2048) && Chk.okReg .regS b
  | .mulh h d a b x =>
      decide (cls = .ctl) && h.ok 0 [] [] && decide (d < 2048) && Chk.okReg .regS d && decide (a < 2048) &&
      Chk.okReg .regS a && decide (b < 2048) && Chk.okReg .regS b && decide (x < 128) && [0, 1, 2].contains x
  | .div h d a b x =>
      decide (cls = .ctl) && h.ok 0 [] [] && decide (d < 2048) && Chk.okReg .regS d && decide (a < 2048) &&
      Chk.okReg .regS a && decide (b < 2048) && Chk.okReg .regS b && decide (x < 128) && [0, 1].contains x
  | .rem h d a b x =>
      decide (cls = .ctl) && h.ok 0 [] [] && decide (d < 2048) && Chk.okReg .regS d && decide (a < 2048) &&
      Chk.okReg .regS a && decide (b < 2048) && Chk.okReg .regS b && decide (x < 128) && [0, 1].contains x
  | .and h d a b =>
      decide (cls = .ctl) && h.ok 0 [] [] && decide (d < 2048) && Chk.okReg .regS d && decide (a < 2048) &&
      Chk.okReg .regS a && decide (b < 2048) && Chk.okReg .regS b
  | .or h d a b =>
      decide (cls = .ctl) && h.ok 0 [] [] && decide (d < 2048) && Chk.okReg .regS d && decide (a < 2048) &&
      Chk.okReg .regS a && decide (b < 2048) && Chk.okReg .regS b
  | .xor h d a b =>
      decide (cls = .ctl) && h.ok 0 [] [] && decide (d < 2048) && Chk.okReg .regS d && decide (a < 2048) &&
      Chk.okReg .regS a && decide (b < 2048) && Chk.okReg .regS b
  | .andn h d a b =>
      decide (cls = .ctl) && h.ok 0 [] [] && decide (d < 2048) && Chk.okReg .regS d && decide (a < 2048) &&
      Chk.okReg .regS a && decide (b < 2048) && Chk.okReg .regS b
  | .shl h d a b =>
      decide (cls = .ctl) && h.ok 0 [] [] && decide (d < 2048) && Chk.okReg .regS d && decide (a < 2048) &&
      Chk.okReg .regS a && decide (b < 2048) && Chk.okReg .regS b
  | .shr h d a b x =>
      decide (cls = .ctl) && h.ok 0 [] [] && decide (d < 2048) && Chk.okReg .regS d && decide (a < 2048) &&
      Chk.okReg .regS a && decide (b < 2048) && Chk.okReg .regS b && decide (x < 128) && [0, 1].contains x
  | .rot h d a b =>
      decide (cls = .ctl) && h.ok 0 [] [] && decide (d < 2048) && Chk.okReg .regS d && decide (a < 2048) &&
      Chk.okReg .regS a && decide (b < 2048) && Chk.okReg .regS b
  | .min h d a b x =>
      decide (cls = .ctl) && h.ok 0 [] [] && decide (d < 2048) && Chk.okReg .regS d && decide (a < 2048) &&
      Chk.okReg .regS a && decide (b < 2048) && Chk.okReg .regS b && decide (x < 128) && [0, 1].contains x
  | .max h d a b x =>
      decide (cls = .ctl) && h.ok 0 [] [] && decide (d < 2048) && Chk.okReg .regS d && decide (a < 2048) &&
      Chk.okReg .regS a && decide (b < 2048) && Chk.okReg .regS b && decide (x < 128) && [0, 1].contains x
  | .clz h d a =>
      decide (cls = .ctl) && h.ok 0 [] [] && decide (d < 2048) && Chk.okReg .regS d && decide (a < 2048) &&
      Chk.okReg .regS a
  | .ctz h d a =>
      decide (cls = .ctl) && h.ok 0 [] [] && decide (d < 2048) && Chk.okReg .regS d && decide (a < 2048) &&
      Chk.okReg .regS a
  | .popc h d a =>
      decide (cls = .ctl) && h.ok 0 [] [] && decide (d < 2048) && Chk.okReg .regS d && decide (a < 2048) &&
      Chk.okReg .regS a
  | .addi h d a imm =>
      decide (cls = .ctl) && h.ok 0 [] [] && decide (d < 2048) && Chk.okReg .regS d && decide (a < 2048) &&
      Chk.okReg .regS a && fitsS 58 imm
  | .muli h d a imm =>
      decide (cls = .ctl) && h.ok 0 [] [] && decide (d < 2048) && Chk.okReg .regS d && decide (a < 2048) &&
      Chk.okReg .regS a && fitsS 58 imm
  | .andi h d a imm =>
      decide (cls = .ctl) && h.ok 0 [] [] && decide (d < 2048) && Chk.okReg .regS d && decide (a < 2048) &&
      Chk.okReg .regS a && fitsS 58 imm
  | .ori h d a imm =>
      decide (cls = .ctl) && h.ok 0 [] [] && decide (d < 2048) && Chk.okReg .regS d && decide (a < 2048) &&
      Chk.okReg .regS a && fitsS 58 imm
  | .xori h d a imm =>
      decide (cls = .ctl) && h.ok 0 [] [] && decide (d < 2048) && Chk.okReg .regS d && decide (a < 2048) &&
      Chk.okReg .regS a && fitsS 58 imm
  | .shli h d a n =>
      decide (cls = .ctl) && h.ok 0 [] [] && decide (d < 2048) && Chk.okReg .regS d && decide (a < 2048) &&
      Chk.okReg .regS a && decide (n < 64)
  | .shri h d a n arith =>
      decide (cls = .ctl) && h.ok 0 [] [] && decide (d < 2048) && Chk.okReg .regS d && decide (a < 2048) &&
      Chk.okReg .regS a && decide (n < 64) && decide (arith < 2)
  | .li h d imm => decide (cls = .ctl) && h.ok 0 [] [] && decide (d < 2048) && Chk.okReg .regS d && fitsS 64 imm
  | .sext h d a n =>
      decide (cls = .ctl) && h.ok 0 [] [] && decide (d < 2048) && Chk.okReg .regS d && decide (a < 2048) &&
      Chk.okReg .regS a && decide (n < 128) && decide (1 ≤ n ∧ n ≤ 64)
  | .ext h d a pos width =>
      decide (cls = .ctl) && h.ok 0 [] [] && decide (d < 2048) && Chk.okReg .regS d && decide (a < 2048) &&
      Chk.okReg .regS a && decide (pos < 64) && decide (width < 128) && decide (1 ≤ width ∧ width ≤ 64) &&
      decide (pos + width ≤ 64)
  | .exts h d a pos width =>
      decide (cls = .ctl) && h.ok 0 [] [] && decide (d < 2048) && Chk.okReg .regS d && decide (a < 2048) &&
      Chk.okReg .regS a && decide (pos < 64) && decide (width < 128) && decide (1 ≤ width ∧ width ≤ 64) &&
      decide (pos + width ≤ 64)
  | .ins h d a pos width =>
      decide (cls = .ctl) && h.ok 0 [] [] && decide (d < 2048) && Chk.okReg .regS d && decide (a < 2048) &&
      Chk.okReg .regS a && decide (pos < 64) && decide (width < 128) && decide (1 ≤ width ∧ width ≤ 64) &&
      decide (pos + width ≤ 64)
  | .fsh h d a b n =>
      decide (cls = .ctl) && h.ok 0 [] [] && decide (d < 2048) && Chk.okReg .regS d && decide (a < 2048) &&
      Chk.okReg .regS a && decide (b < 2048) && Chk.okReg .regS b && decide (n < 64)
  | .cmp h d a b cond =>
      decide (cls = .ctl) && h.ok 0 [] [] && decide (d < 2048) && Chk.okReg .regS d && decide (a < 2048) &&
      Chk.okReg .regS a && decide (b < 2048) && Chk.okReg .regS b && decide (cond < 128) &&
      [0, 1, 2, 3, 4, 5].contains cond
  | .seqi h d a imm =>
      decide (cls = .ctl) && h.ok 0 [] [] && decide (d < 2048) && Chk.okReg .regS d && decide (a < 2048) &&
      Chk.okReg .regS a && fitsS 58 imm
  | .slti h d a imm =>
      decide (cls = .ctl) && h.ok 0 [] [] && decide (d < 2048) && Chk.okReg .regS d && decide (a < 2048) &&
      Chk.okReg .regS a && fitsS 58 imm
  | .sltui h d a imm =>
      decide (cls = .ctl) && h.ok 0 [] [] && decide (d < 2048) && Chk.okReg .regS d && decide (a < 2048) &&
      Chk.okReg .regS a && fitsS 58 imm
  | .sel h d a b c =>
      decide (cls = .ctl) && h.ok 0 [] [] && decide (d < 2048) && Chk.okReg .regS d && decide (a < 2048) &&
      Chk.okReg .regS a && decide (b < 2048) && Chk.okReg .regS b && decide (c < 32)
  | .b h cond a off =>
      decide (cls = .ctl) && h.ok 0 [] [] && decide (cond < 32) && [0, 1, 2, 3, 4, 5, 6].contains cond &&
      decide (a < 2048) && Chk.okReg .regS a && fitsS 24 off && decide (cond ≠ 0 ∨ a = 0)
  | .jmp h a imm => decide (cls = .ctl) && h.ok 0 [] [] && decide (a < 2048) && Chk.okReg .regS a && fitsS 58 imm
  | .call h off => decide (cls = .ctl) && h.ok 0 [] [] && fitsS 24 off
  | .callr h d a imm =>
      decide (cls = .ctl) && h.ok 0 [] [] && decide (d < 2048) && Chk.okReg .regS d && decide (a < 2048) &&
      Chk.okReg .regS a && fitsS 58 imm
  | .ret h => decide (cls = .ctl) && h.ok 0 [] []
  | .loop h a off =>
      decide (cls = .ctl) && h.ok 0 [] [] && decide (a < 2048) && Chk.okReg .regS a && fitsS 24 off && decide (1 ≤ a)
  | .crng h d a b =>
      decide (cls = .ctl) && h.ok 0 [] [] && decide (d < 2048) && Chk.okReg .regS d && decide (a < 2048) &&
      Chk.okReg .regS a && decide (b < 2048) && Chk.okReg .regS b
  | .fork h eng routine cnt =>
      decide (cls = .ctl) && h.ok 0 [] [] && decide (eng < 256) && decide (1 ≤ eng ∧ eng ≤ 5) &&
      decide (routine < 65536) && decide (cnt < 4096)
  | .ringp h d a eng =>
      decide (cls = .ctl) && h.ok 0 [] [] && decide (d < 2048) && Chk.okReg .regS d && decide (a < 2048) &&
      Chk.okReg .regS a && decide (eng < 8) && decide (1 ≤ eng ∧ eng ≤ 5)
  | .ringp2 h d a b eng =>
      decide (cls = .ctl) && h.ok 0 [] [] && decide (d < 2048) && Chk.okReg .regS d && decide (a < 2048) &&
      Chk.okReg .regS a && decide (b < 2048) && Chk.okReg .regS b && decide (eng < 8) && decide (1 ≤ eng ∧ eng ≤ 5)
  | .ringq h d eng =>
      decide (cls = .ctl) && h.ok 0 [] [] && decide (d < 2048) && Chk.okReg .regS d && decide (eng < 8) &&
      decide (1 ≤ eng ∧ eng ≤ 5)
  | .semset h n v =>
      decide (cls = .ctl) && h.ok 0 [] [] && decide (n < 1024) && decide (0 ≤ n ∧ n ≤ 63) && decide (v < 2 ^ 64) &&
      decide (0 ≤ v ∧ v ≤ 65535)
  | .semrd h n d =>
      decide (cls = .ctl) && h.ok 0 [] [] && decide (n < 1024) && decide (0 ≤ n ∧ n ≤ 63) && decide (d < 32)
  | .tokrd h prod cons d =>
      decide (cls = .ctl) && h.ok 0 [] [] && decide (prod < 8) && decide (0 ≤ prod ∧ prod ≤ 5) &&
      decide (cons < 8) && decide (0 ≤ cons ∧ cons ≤ 5) && decide (d < 32) && decide (prod ≠ cons)
  | .bhmap h slot n => decide (cls = .ctl) && h.ok 0 [] [] && decide (slot < 1024) && decide (n < 32)
  | .mtwr h level field a =>
      decide (cls = .ctl) && h.ok 0 [] [] && decide (level < 8) && decide (0 ≤ level ∧ level ≤ 5) &&
      decide (field < 32) && decide (0 ≤ field ∧ field ≤ 7) && decide (a < 32)
  | .sysrd h d reg =>
      decide (cls = .ctl) && h.ok 0 [] [] && decide (d < 2048) && Chk.okReg .regS d && fitsS 64 reg &&
      decide (0 ≤ reg ∧ reg ≤ 4095) && decide (sysAssigned reg)
  | .syswr h a reg =>
      decide (cls = .ctl) && h.ok 0 [] [] && decide (a < 2048) && Chk.okReg .regS a && fitsS 64 reg &&
      decide (0 ≤ reg ∧ reg ≤ 4095) && decide (sysAssigned reg)
  | .done h => decide (cls = .ctl) && h.ok 0 [] [] && decide (h.sig = 0)
  | .hend h => decide (cls = .ctl) && h.ok 0 [] [] && decide (h.wait = 0)
  | .synrd h d cfg kind col foreign idx =>
      decide (cls = .ctl) && h.ok 0 [] [] && decide (d < 32) && decide (cfg < 2) && decide (kind < 8) &&
      [0, 1, 2, 3, 4, 5].contains kind && decide (col < 16) && decide (foreign < 2) && decide (idx < 1024) &&
      decide ((kind = 4 ∨ foreign = 0) ∧ (foreign = 1 ∨ col = 0)) &&
      decide ((cfg = 0 ∨ 2 ≤ kind) ∧ objIndexOk kind idx)
  | .scrub h kind col foreign idx rst =>
      decide (cls = .ctl) && h.ok 0 [] [2] && decide (kind < 8) && [0, 1, 2, 3, 4, 5].contains kind &&
      decide (col < 16) && decide (foreign < 2) && decide (idx < 1024) && decide (rst < 2) &&
      decide ((kind = 4 ∨ foreign = 0) ∧ (foreign = 1 ∨ col = 0)) && decide (objIndexOk kind idx)
  | .poison h kind col foreign idx cause =>
      decide (cls = .ctl) && h.ok 0 [0, 2, 4] [] && decide (kind < 8) && [0, 1, 2, 3, 4, 5].contains kind &&
      decide (col < 16) && decide (foreign < 2) && decide (idx < 1024) && decide (cause < 256) &&
      decide (1 ≤ cause ∧ cause ≤ 255) && decide ((kind = 4 ∨ foreign = 0) ∧ (foreign = 1 ∨ col = 0)) &&
      decide (objIndexOk kind idx)
  | .binitTile h slot target =>
      decide (cls = .ctl) && h.ok 0 [] [] && decide (slot < 1024) && decide (target < 65536) &&
      decide (1 ≤ target ∧ target ≤ 65535)
  | .binitCol h slot target =>
      decide (cls = .ctl) && h.ok 0 [] [] && decide (slot < 1024) && decide (target < 65536) &&
      decide (1 ≤ target ∧ target ≤ 65535)
  | .binitDev h slot target home =>
      decide (cls = .ctl) && h.ok 0 [] [] && decide (slot < 1024) && decide (target < 65536) &&
      decide (1 ≤ target ∧ target ≤ 65535) && decide (home < 16)
  | .cwpost h n a =>
      decide (cls = .ctl) && h.ok 0 [0, 2, 4] [] && decide (n < 1024) && decide (0 ≤ n ∧ n ≤ 255) && decide (a < 32)
  | .ctlFence h => decide (cls = .ctl) && h.ok 0 [1, 2, 3, 4] []
  | .bsflush h col foreign first count =>
      decide (cls = .ctl) && h.ok 0 [] [] && decide (col < 16) && decide (foreign < 2) && decide (first < 32) &&
      decide (count < 32) && decide (1 ≤ count ∧ count ≤ 31) && decide (foreign = 1 ∨ col = 0)
  | .bsinv h col foreign first count =>
      decide (cls = .ctl) && h.ok 0 [] [] && decide (col < 16) && decide (foreign < 2) && decide (first < 32) &&
      decide (count < 32) && decide (1 ≤ count ∧ count ≤ 31) && decide (foreign = 1 ∨ col = 0)
  | .bspset h d n => decide (cls = .ctl) && h.ok 0 [] [] && decide (d < 2048) && Chk.okReg .regS d && decide (n < 32)
  | .launch h sheaf cwen cw =>
      decide (cls = .ctl) && h.ok 0 [0, 2, 4] [] && decide (sheaf < 1024) && decide (cwen < 2) &&
      decide (cw < 256) && decide (cwen = 1 ∨ cw = 0)
  | .preemptStop h col row => decide (cls = .ctl) && h.ok 0 [] [] && decide (col < 16) && decide (row < 16)
  | .preemptResume h col row => decide (cls = .ctl) && h.ok 0 [] [] && decide (col < 16) && decide (row < 16)
  | .snaprd h d n row col =>
      decide (cls = .ctl) && h.ok 0 [] [] && decide (d < 2048) && Chk.okReg .regS d && decide (n < 4096) &&
      decide (row < 16) && decide (col < 16) && decide (snapAssigned n)
  | .snapwr h a n row col =>
      decide (cls = .ctl) && h.ok 0 [] [] && decide (a < 2048) && Chk.okReg .regS a && decide (n < 4096) &&
      decide (row < 16) && decide (col < 16) && decide (snapAssigned n)
  | .ctxsave h col row full =>
      decide (cls = .ctl) && h.ok 0 [] [] && decide (col < 16) && decide (row < 16) && decide (full < 2)
  | .ctxrest h col row => decide (cls = .ctl) && h.ok 0 [] [] && decide (col < 16) && decide (row < 16)
  | .ctxscrub h => decide (cls = .ctl) && h.ok 0 [] []
  | .ctxkill h cause =>
      decide (cls = .ctl) && h.ok 0 [] [] && decide (cause < 256) && decide (1 ≤ cause ∧ cause ≤ 255)
  | .tld h d a b =>
      decide (cls = .ctl) && h.ok 0 [] [] && decide (d < 2048) && Chk.okReg .regS d && decide (a < 2048) &&
      Chk.okReg .regS a && decide (b < 2048) && Chk.okReg .regS b
  | .trde h d a b x =>
      decide (cls = .ctl) && h.ok 0 [] [] && decide (d < 2048) && Chk.okReg .regS d && decide (a < 2048) &&
      Chk.okReg .regS a && decide (b < 2048) && Chk.okReg .regS b && decide (x < 2)
  | .tmap h d a b =>
      decide (cls = .ctl) && h.ok 0 [] [] && decide (d < 2048) && Chk.okReg .regS d && decide (a < 2048) &&
      Chk.okReg .regS a && decide (b < 2048) && Chk.okReg .regS b
  | .tunmap h d a st ret =>
      decide (cls = .ctl) && h.ok 0 [] [] && decide (d < 2048) && Chk.okReg .regS d && decide (a < 2048) &&
      Chk.okReg .regS a && decide (st < 4) && [1, 2].contains st && decide (ret < 2)
  | .tshd h d a b sys inv =>
      decide (cls = .ctl) && h.ok 0 [] [] && decide (d < 2048) && Chk.okReg .regS d && decide (a < 2048) &&
      Chk.okReg .regS a && decide (b < 2048) && Chk.okReg .regS b && decide (sys < 2) && decide (inv < 2)
  | .tprb h d a =>
      decide (cls = .ctl) && h.ok 0 [] [] && decide (d < 2048) && Chk.okReg .regS d && decide (a < 2048) &&
      Chk.okReg .regS a
  | .trap h v code =>
      decide (cls = .ctl) && h.ok 0 [] [] && decide (v < 2048) && Chk.okReg .regS v && decide (code < 256) &&
      decide (96 ≤ code ∧ code ≤ 255)
  | .tret h => decide (cls = .ctl) && h.ok 0 [] []
  | .tspill h f l off =>
      decide (cls = .ctl) && h.ok 0 [] [] && decide (f < 2048) && Chk.okReg .regS f && decide (l < 2048) &&
      Chk.okReg .regS l && fitsS 58 off && decide (f ≤ l ∧ off < 2 ^ 63)
  | .tfill h f l off =>
      decide (cls = .ctl) && h.ok 0 [] [] && decide (f < 2048) && Chk.okReg .regS f && decide (l < 2048) &&
      Chk.okReg .regS l && fitsS 58 off && decide (f ≤ l ∧ off < 2 ^ 63)
  | .stest h d eng part =>
      decide (cls = .ctl) && h.ok 0 [] [] && decide (d < 2048) && Chk.okReg .regS d && decide (eng < 8) &&
      decide (0 ≤ eng ∧ eng ≤ 5) && decide (part < 4) && decide (eng = 2 ∨ part = 0)
  | .errrd h d idx hi =>
      decide (cls = .ctl) && h.ok 0 [] [] && decide (d < 2048) && Chk.okReg .regS d && decide (idx < 16) &&
      decide (hi < 2)
  | .errrdSt h d clr =>
      decide (cls = .ctl) && h.ok 0 [] [] && decide (d < 2048) && Chk.okReg .regS d && decide (clr < 2)
  | .ldq h q c index scale disp =>
      decide (cls = .acc) && h.ok 1 [0, 1, 4] [] && decide (q < 16) && Chk.okReg .lqIx q && decide (c < 16) &&
      decide (index < 32) && decide (scale < 8) && [0, 1, 2, 3, 4, 7].contains scale && fitsS 64 disp &&
      decide (scale ≠ 7 ∨ index = 0)
  | .ldqs h q c ab astr len rows disp =>
      decide (cls = .acc) && h.ok 1 [0, 1, 4] [] && decide (q < 16) && Chk.okReg .lqIx q && decide (c < 16) &&
      decide (ab < 32) && decide (astr < 32) && decide (len < 4) && decide (rows < 16) && fitsS 16 disp
  | .ldqg h q c cl al ab len rows =>
      decide (cls = .acc) && h.ok 1 [0, 1, 4] [] && decide (q < 16) && Chk.okReg .lqIx q && decide (c < 16) &&
      decide (cl < 16) && decide (al < 32) && decide (ab < 32) && decide (len < 4) && decide (rows < 16)
  | .stq h q c index scale disp =>
      decide (cls = .acc) && h.ok 1 [0, 2, 4] [1] && decide (q < 16) && Chk.okReg .sqIx q && decide (c < 16) &&
      decide (index < 32) && decide (scale < 8) && [0, 1, 2, 3, 4, 7].contains scale && fitsS 64 disp &&
      decide (scale ≠ 7 ∨ index = 0)
  | .stqs h q c ab astr len rows disp =>
      decide (cls = .acc) && h.ok 1 [0, 2, 4] [1] && decide (q < 16) && Chk.okReg .sqIx q && decide (c < 16) &&
      decide (ab < 32) && decide (astr < 32) && decide (len < 4) && decide (rows < 16) && fitsS 16 disp
  | .stqg h q c cl al ab len rows =>
      decide (cls = .acc) && h.ok 1 [0, 2, 4] [1] && decide (q < 16) && Chk.okReg .sqIx q && decide (c < 16) &&
      decide (cl < 16) && decide (al < 32) && decide (ab < 32) && decide (len < 4) && decide (rows < 16)
  | .ldb h d a imm =>
      decide (cls = .acc) && h.ok 1 [0, 1, 4] [] && decide (d < 2048) && Chk.okReg .regA d && decide (a < 2048) &&
      Chk.okReg .regC a && fitsS 58 imm
  | .ldh h d a imm =>
      decide (cls = .acc) && h.ok 1 [0, 1, 4] [] && decide (d < 2048) && Chk.okReg .regA d && decide (a < 2048) &&
      Chk.okReg .regC a && fitsS 58 imm
  | .ldw h d a imm =>
      decide (cls = .acc) && h.ok 1 [0, 1, 4] [] && decide (d < 2048) && Chk.okReg .regA d && decide (a < 2048) &&
      Chk.okReg .regC a && fitsS 58 imm
  | .ldd h d a imm =>
      decide (cls = .acc) && h.ok 1 [0, 1, 4] [] && decide (d < 2048) && Chk.okReg .regA d && decide (a < 2048) &&
      Chk.okReg .regC a && fitsS 58 imm
  | .stb h d a imm =>
      decide (cls = .acc) && h.ok 1 [0, 2, 4] [1] && decide (d < 2048) && Chk.okReg .regA d && decide (a < 2048) &&
      Chk.okReg .regC a && fitsS 58 imm
  | .sth h d a imm =>
      decide (cls = .acc) && h.ok 1 [0, 2, 4] [1] && decide (d < 2048) && Chk.okReg .regA d && decide (a < 2048) &&
      Chk.okReg .regC a && fitsS 58 imm
  | .stw h d a imm =>
      decide (cls = .acc) && h.ok 1 [0, 2, 4] [1] && decide (d < 2048) && Chk.okReg .regA d && decide (a < 2048) &&
      Chk.okReg .regC a && fitsS 58 imm
  | .std h d a imm =>
      decide (cls = .acc) && h.ok 1 [0, 2, 4] [1] && decide (d < 2048) && Chk.okReg .regA d && decide (a < 2048) &&
      Chk.okReg .regC a && fitsS 58 imm
  | .cld h d a imm =>
      decide (cls = .acc) && h.ok 1 [0, 1, 4] [] && decide (d < 2048) && Chk.okReg .regC d && decide (a < 2048) &&
      Chk.okReg .regC a && fitsS 58 imm
  | .cst h d a imm =>
      decide (cls = .acc) && h.ok 1 [0, 2, 4] [] && decide (d < 2048) && Chk.okReg .regC d && decide (a < 2048) &&
      Chk.okReg .regC a && fitsS 58 imm
  | .cder h d a b =>
      decide (cls = .acc) && h.ok 1 [] [] && decide (d < 2048) && Chk.okReg .regC d && decide (a < 2048) &&
      Chk.okReg .regC a && decide (b < 2048) && Chk.okReg .regA b
  | .cderLen h d a b =>
      decide (cls = .acc) && h.ok 1 [] [] && decide (d < 2048) && Chk.okReg .regC d && decide (a < 2048) &&
      Chk.okReg .regC a && decide (b < 2048) && Chk.okReg .regA b
  | .cperm h d a mask =>
      decide (cls = .acc) && h.ok 1 [] [] && decide (d < 2048) && Chk.okReg .regC d && decide (a < 2048) &&
      Chk.okReg .regC a && decide (mask < 4096)
  | .cget h d a f =>
      decide (cls = .acc) && h.ok 1 [] [] && decide (d < 2048) && Chk.okReg .regA d && decide (a < 2048) &&
      Chk.okReg .regC a && decide (f < 128) && [0, 1, 2, 3, 4].contains f
  | .ctest h d a b need =>
      decide (cls = .acc) && h.ok 1 [] [] && decide (d < 2048) && Chk.okReg .regA d && decide (a < 2048) &&
      Chk.okReg .regC a && decide (b < 2048) && Chk.okReg .regA b && decide (need < 8)
  | .aadd h d a b =>
      decide (cls = .acc) && h.ok 1 [] [] && decide (d < 2048) && Chk.okReg .regA d && decide (a < 2048) &&
      Chk.okReg .regA a && decide (b < 2048) && Chk.okReg .regA b
  | .asub h d a b =>
      decide (cls = .acc) && h.ok 1 [] [] && decide (d < 2048) && Chk.okReg .regA d && decide (a < 2048) &&
      Chk.okReg .regA a && decide (b < 2048) && Chk.okReg .regA b
  | .aaddi h d a imm =>
      decide (cls = .acc) && h.ok 1 [] [] && decide (d < 2048) && Chk.okReg .regA d && decide (a < 2048) &&
      Chk.okReg .regA a && fitsS 58 imm
  | .amuli h d a imm =>
      decide (cls = .acc) && h.ok 1 [] [] && decide (d < 2048) && Chk.okReg .regA d && decide (a < 2048) &&
      Chk.okReg .regA a && fitsS 58 imm
  | .ashli h d a n =>
      decide (cls = .acc) && h.ok 1 [] [] && decide (d < 2048) && Chk.okReg .regA d && decide (a < 2048) &&
      Chk.okReg .regA a && decide (n < 64)
  | .aandi h d a imm =>
      decide (cls = .acc) && h.ok 1 [] [] && decide (d < 2048) && Chk.okReg .regA d && decide (a < 2048) &&
      Chk.okReg .regA a && fitsS 58 imm
  | .ali h d imm => decide (cls = .acc) && h.ok 1 [] [] && decide (d < 2048) && Chk.okReg .regA d && fitsS 64 imm
  | .rdset h eng a =>
      decide (cls = .acc) && h.ok 1 [] [] && decide (eng < 8) && decide (2 ≤ eng ∧ eng ≤ 5) && decide (a < 32)
  | .rdget h eng d =>
      decide (cls = .acc) && h.ok 1 [] [] && decide (eng < 8) && decide (2 ≤ eng ∧ eng ≤ 5) && decide (d < 32)
  | .mark h => decide (cls = .acc) && h.ok 1 [0, 1, 2, 3, 4] []
  | .amoadd h d a b w =>
      decide (cls = .acc) && h.ok 1 [0, 1, 2, 3, 4] [] && decide (d < 2048) && Chk.okReg .regA d &&
      decide (a < 2048) && Chk.okReg .regC a && decide (b < 2048) && Chk.okReg .regA b && decide (w < 2)
  | .amofadd h d a b w =>
      decide (cls = .acc) && h.ok 1 [0, 1, 2, 3, 4] [] && decide (d < 2048) && Chk.okReg .regA d &&
      decide (a < 2048) && Chk.okReg .regC a && decide (b < 2048) && Chk.okReg .regA b && decide (w < 2) &&
      [1].contains w
  | .amomin h d a b w u =>
      decide (cls = .acc) && h.ok 1 [0, 1, 2, 3, 4] [] && decide (d < 2048) && Chk.okReg .regA d &&
      decide (a < 2048) && Chk.okReg .regC a && decide (b < 2048) && Chk.okReg .regA b && decide (w < 2) &&
      decide (u < 2)
  | .amomax h d a b w u =>
      decide (cls = .acc) && h.ok 1 [0, 1, 2, 3, 4] [] && decide (d < 2048) && Chk.okReg .regA d &&
      decide (a < 2048) && Chk.okReg .regC a && decide (b < 2048) && Chk.okReg .regA b && decide (w < 2) &&
      decide (u < 2)
  | .amoand h d a b w =>
      decide (cls = .acc) && h.ok 1 [0, 1, 2, 3, 4] [] && decide (d < 2048) && Chk.okReg .regA d &&
      decide (a < 2048) && Chk.okReg .regC a && decide (b < 2048) && Chk.okReg .regA b && decide (w < 2)
  | .amoor h d a b w =>
      decide (cls = .acc) && h.ok 1 [0, 1, 2, 3, 4] [] && decide (d < 2048) && Chk.okReg .regA d &&
      decide (a < 2048) && Chk.okReg .regC a && decide (b < 2048) && Chk.okReg .regA b && decide (w < 2)
  | .amoxor h d a b w =>
      decide (cls = .acc) && h.ok 1 [0, 1, 2, 3, 4] [] && decide (d < 2048) && Chk.okReg .regA d &&
      decide (a < 2048) && Chk.okReg .regC a && decide (b < 2048) && Chk.okReg .regA b && decide (w < 2)
  | .amoswp h d a b w =>
      decide (cls = .acc) && h.ok 1 [0, 1, 2, 3, 4] [] && decide (d < 2048) && Chk.okReg .regA d &&
      decide (a < 2048) && Chk.okReg .regC a && decide (b < 2048) && Chk.okReg .regA b && decide (w < 2)
  | .amocas h d a b w =>
      decide (cls = .acc) && h.ok 1 [0, 1, 2, 3, 4] [] && decide (d < 2048) && Chk.okReg .regA d &&
      decide (a < 2048) && Chk.okReg .regC a && decide (b < 2048) && Chk.okReg .regA b && decide (w < 2)
  | .mwait h d a b k =>
      decide (cls = .acc) && h.ok 1 [0, 1, 4] [] && decide (d < 2048) && Chk.okReg .regA d && decide (a < 2048) &&
      Chk.okReg .regC a && decide (b < 2048) && Chk.okReg .regA b && decide (k < 16)
  | .putr h cs cd so dof ln sen sem =>
      decide (cls = .acc) && h.ok 1 [0, 2, 4] [1] && decide (cs < 16) && decide (cd < 16) && decide (so < 32) &&
      decide (dof < 32) && decide (ln < 32) && decide (sen < 2) && decide (sem < 64)
  | .puth h cs cd so dof ln ha arg =>
      decide (cls = .acc) && h.ok 1 [0, 2, 4] [1] && decide (cs < 16) && decide (cd < 16) && decide (so < 32) &&
      decide (dof < 32) && decide (ln < 32) && decide (ha < 32) && decide (arg < 32)
  | .rred h cs cd so dof cnt op ty sen sem =>
      decide (cls = .acc) && h.ok 1 [0, 2, 4] [1] && decide (cs < 16) && decide (cd < 16) && decide (so < 32) &&
      decide (dof < 32) && decide (cnt < 32) && decide (op < 8) && [0, 1, 2, 3, 4, 5].contains op &&
      decide (ty < 4) && [0, 1, 2].contains ty && decide (sen < 2) && decide (sem < 64) && decide (ty ≠ 1 ∨ op ≤ 2)
  | .dqpush h dq v st col foreign =>
      decide (cls = .acc) && h.ok 1 [0, 1, 2, 3, 4] [] && decide (dq < 256) && decide (v < 32) && decide (st < 32) &&
      decide (col < 16) && decide (foreign < 2) && decide (foreign = 1 ∨ col = 0) && decide (v ≠ st)
  | .dqpop h dq v st col foreign =>
      decide (cls = .acc) && h.ok 1 [0, 1, 2, 3, 4] [] && decide (dq < 256) && decide (v < 32) && decide (st < 32) &&
      decide (col < 16) && decide (foreign < 2) && decide (foreign = 1 ∨ col = 0) && decide (v ≠ st)
  | .dqsteal h dq v st col foreign =>
      decide (cls = .acc) && h.ok 1 [0, 1, 2, 3, 4] [] && decide (dq < 256) && decide (v < 32) && decide (st < 32) &&
      decide (col < 16) && decide (foreign < 2) && decide (foreign = 1 ∨ col = 0) && decide (v ≠ st)
  | .l1inv h c index scale disp =>
      decide (cls = .acc) && h.ok 1 [] [] && decide (c < 16) && decide (index < 32) && decide (scale < 8) &&
      [0, 1, 2, 3, 4, 7].contains scale && fitsS 64 disp && decide (scale ≠ 7 ∨ index = 0)
  | .l1inva h => decide (cls = .acc) && h.ok 1 [] []
  | .pref h q c index scale disp =>
      decide (cls = .acc) && h.ok 1 [0] [] && decide (q < 16) && [0, 1].contains q && decide (c < 16) &&
      decide (index < 32) && decide (scale < 8) && [0, 1, 2, 3, 4, 7].contains scale && fitsS 64 disp &&
      decide (scale ≠ 7 ∨ index = 0)
  | .qdrop h q n => decide (cls = .acc) && h.ok 1 [] [] && decide (q < 2048) && Chk.okReg .regQ q && decide (n < 4)
  | .qrd h d q =>
      decide (cls = .acc) && h.ok 1 [] [] && decide (d < 2048) && Chk.okReg .regA d && decide (q < 2048) &&
      Chk.okReg .regQ q
  | .accFence h => decide (cls = .acc) && h.ok 1 [1, 2, 3, 4] []
  | .vadd h d a b ty rnd sat =>
      decide (cls = .vec) && h.ok 2 [] [] && decide (d < 2048) && Chk.okReg .vDstSt d && decide (a < 2048) &&
      Chk.okReg .vSrcSt a && decide (b < 2048) && Chk.okReg .vSrcSt b && decide (ty < 16) && [6, 7].contains ty &&
      decide (rnd < 4) && decide (sat < 2)
  | .vsub h d a b ty rnd sat =>
      decide (cls = .vec) && h.ok 2 [] [] && decide (d < 2048) && Chk.okReg .vDstSt d && decide (a < 2048) &&
      Chk.okReg .vSrcSt a && decide (b < 2048) && Chk.okReg .vSrcSt b && decide (ty < 16) && [6, 7].contains ty &&
      decide (rnd < 4) && decide (sat < 2)
  | .vmul h d a b ty rnd sat =>
      decide (cls = .vec) && h.ok 2 [] [] && decide (d < 2048) && Chk.okReg .vDstSt d && decide (a < 2048) &&
      Chk.okReg .vSrcSt a && decide (b < 2048) && Chk.okReg .vSrcSt b && decide (ty < 16) && [6, 7].contains ty &&
      decide (rnd < 4) && decide (sat < 2)
  | .vfma h d a b ty rnd sat =>
      decide (cls = .vec) && h.ok 2 [] [] && decide (d < 2048) && Chk.okReg .vTied d && decide (a < 2048) &&
      Chk.okReg .vSrcSt a && decide (b < 2048) && Chk.okReg .vSrcSt b && decide (ty < 16) && [6, 7].contains ty &&
      decide (rnd < 4) && decide (sat < 2)
  | .vfms h d a b ty rnd sat =>
      decide (cls = .vec) && h.ok 2 [] [] && decide (d < 2048) && Chk.okReg .vTied d && decide (a < 2048) &&
      Chk.okReg .vSrcSt a && decide (b < 2048) && Chk.okReg .vSrcSt b && decide (ty < 16) && [6, 7].contains ty &&
      decide (rnd < 4) && decide (sat < 2)
  | .vdiv h d a b ty rnd sat =>
      decide (cls = .vec) && h.ok 2 [] [] && decide (d < 2048) && Chk.okReg .vDstSt d && decide (a < 2048) &&
      Chk.okReg .vSrcSt a && decide (b < 2048) && Chk.okReg .vSrcSt b && decide (ty < 16) && [6, 7].contains ty &&
      decide (rnd < 4) && decide (sat < 2)
  | .vmin h d a b ty =>
      decide (cls = .vec) && h.ok 2 [] [] && decide (d < 2048) && Chk.okReg .vDstSt d && decide (a < 2048) &&
      Chk.okReg .vSrcSt a && decide (b < 2048) && Chk.okReg .vSrcSt b && decide (ty < 16) && [6, 7].contains ty
  | .vmax h d a b ty =>
      decide (cls = .vec) && h.ok 2 [] [] && decide (d < 2048) && Chk.okReg .vDstSt d && decide (a < 2048) &&
      Chk.okReg .vSrcSt a && decide (b < 2048) && Chk.okReg .vSrcSt b && decide (ty < 16) && [6, 7].contains ty
  | .vabs h d a ty =>
      decide (cls = .vec) && h.ok 2 [] [] && decide (d < 2048) && Chk.okReg .vDstSt d && decide (a < 2048) &&
      Chk.okReg .vSrcSt a && decide (ty < 16) && [6, 7].contains ty
  | .vneg h d a ty =>
      decide (cls = .vec) && h.ok 2 [] [] && decide (d < 2048) && Chk.okReg .vDstSt d && decide (a < 2048) &&
      Chk.okReg .vSrcSt a && decide (ty < 16) && [6, 7].contains ty
  | .vsqrt h d a ty rnd sat =>
      decide (cls = .vec) && h.ok 2 [] [] && decide (d < 2048) && Chk.okReg .vDstSt d && decide (a < 2048) &&
      Chk.okReg .vSrcSt a && decide (ty < 16) && [6, 7].contains ty && decide (rnd < 4) && decide (sat < 2)
  | .vrsq h d a ty rnd sat =>
      decide (cls = .vec) && h.ok 2 [] [] && decide (d < 2048) && Chk.okReg .vDstSt d && decide (a < 2048) &&
      Chk.okReg .vSrcSt a && decide (ty < 16) && [6, 7].contains ty && decide (rnd < 4) && decide (sat < 2)
  | .vrcp h d a ty rnd sat =>
      decide (cls = .vec) && h.ok 2 [] [] && decide (d < 2048) && Chk.okReg .vDstSt d && decide (a < 2048) &&
      Chk.okReg .vSrcSt a && decide (ty < 16) && [6, 7].contains ty && decide (rnd < 4) && decide (sat < 2)
  | .vexp h d a ty =>
      decide (cls = .vec) && h.ok 2 [] [] && decide (d < 2048) && Chk.okReg .vDstSt d && decide (a < 2048) &&
      Chk.okReg .vSrcSt a && decide (ty < 16) && [6, 7].contains ty
  | .vexp2 h d a ty =>
      decide (cls = .vec) && h.ok 2 [] [] && decide (d < 2048) && Chk.okReg .vDstSt d && decide (a < 2048) &&
      Chk.okReg .vSrcSt a && decide (ty < 16) && [6, 7].contains ty
  | .vlog h d a ty =>
      decide (cls = .vec) && h.ok 2 [] [] && decide (d < 2048) && Chk.okReg .vDstSt d && decide (a < 2048) &&
      Chk.okReg .vSrcSt a && decide (ty < 16) && [6, 7].contains ty
  | .vlog2 h d a ty =>
      decide (cls = .vec) && h.ok 2 [] [] && decide (d < 2048) && Chk.okReg .vDstSt d && decide (a < 2048) &&
      Chk.okReg .vSrcSt a && decide (ty < 16) && [6, 7].contains ty
  | .vtanh h d a ty =>
      decide (cls = .vec) && h.ok 2 [] [] && decide (d < 2048) && Chk.okReg .vDstSt d && decide (a < 2048) &&
      Chk.okReg .vSrcSt a && decide (ty < 16) && [6, 7].contains ty
  | .vsigm h d a ty =>
      decide (cls = .vec) && h.ok 2 [] [] && decide (d < 2048) && Chk.okReg .vDstSt d && decide (a < 2048) &&
      Chk.okReg .vSrcSt a && decide (ty < 16) && [6, 7].contains ty
  | .vgelu h d a ty =>
      decide (cls = .vec) && h.ok 2 [] [] && decide (d < 2048) && Chk.okReg .vDstSt d && decide (a < 2048) &&
      Chk.okReg .vSrcSt a && decide (ty < 16) && [6, 7].contains ty
  | .vsilu h d a ty =>
      decide (cls = .vec) && h.ok 2 [] [] && decide (d < 2048) && Chk.okReg .vDstSt d && decide (a < 2048) &&
      Chk.okReg .vSrcSt a && decide (ty < 16) && [6, 7].contains ty
  | .vsin h d a ty =>
      decide (cls = .vec) && h.ok 2 [] [] && decide (d < 2048) && Chk.okReg .vDstSt d && decide (a < 2048) &&
      Chk.okReg .vSrcSt a && decide (ty < 16) && [6, 7].contains ty
  | .vcos h d a ty =>
      decide (cls = .vec) && h.ok 2 [] [] && decide (d < 2048) && Chk.okReg .vDstSt d && decide (a < 2048) &&
      Chk.okReg .vSrcSt a && decide (ty < 16) && [6, 7].contains ty
  | .verf h d a ty =>
      decide (cls = .vec) && h.ok 2 [] [] && decide (d < 2048) && Chk.okReg .vDstSt d && decide (a < 2048) &&
      Chk.okReg .vSrcSt a && decide (ty < 16) && [6, 7].contains ty
  | .viadd h d a b ty sat =>
      decide (cls = .vec) && h.ok 2 [] [] && decide (d < 2048) && Chk.okReg .vDstSt d && decide (a < 2048) &&
      Chk.okReg .vSrcSt a && decide (b < 2048) && Chk.okReg .vSrcSt b && decide (ty < 16) &&
      [0, 1, 2, 3].contains ty && decide (sat < 2)
  | .visub h d a b ty sat =>
      decide (cls = .vec) && h.ok 2 [] [] && decide (d < 2048) && Chk.okReg .vDstSt d && decide (a < 2048) &&
      Chk.okReg .vSrcSt a && decide (b < 2048) && Chk.okReg .vSrcSt b && decide (ty < 16) &&
      [0, 1, 2, 3].contains ty && decide (sat < 2)
  | .vimul h d a b ty sat =>
      decide (cls = .vec) && h.ok 2 [] [] && decide (d < 2048) && Chk.okReg .vDstSt d && decide (a < 2048) &&
      Chk.okReg .vSrcSt a && decide (b < 2048) && Chk.okReg .vSrcSt b && decide (ty < 16) &&
      [0, 1, 2, 3].contains ty && decide (sat < 2)
  | .vimulh h d a b ty =>
      decide (cls = .vec) && h.ok 2 [] [] && decide (d < 2048) && Chk.okReg .vDstSt d && decide (a < 2048) &&
      Chk.okReg .vSrcSt a && decide (b < 2048) && Chk.okReg .vSrcSt b && decide (ty < 16) && [0, 1, 2, 3].contains ty
  | .vimad h d a b ty sat =>
      decide (cls = .vec) && h.ok 2 [] [] && decide (d < 2048) && Chk.okReg .vTied d && decide (a < 2048) &&
      Chk.okReg .vSrcSt a && decide (b < 2048) && Chk.okReg .vSrcSt b && decide (ty < 16) &&
      [0, 1, 2, 3].contains ty && decide (sat < 2)
  | .viabs h d a ty sat =>
      decide (cls = .vec) && h.ok 2 [] [] && decide (d < 2048) && Chk.okReg .vDstSt d && decide (a < 2048) &&
      Chk.okReg .vSrcSt a && decide (ty < 16) && [0, 1, 3].contains ty && decide (sat < 2)
  | .vimin h d a b ty =>
      decide (cls = .vec) && h.ok 2 [] [] && decide (d < 2048) && Chk.okReg .vDstSt d && decide (a < 2048) &&
      Chk.okReg .vSrcSt a && decide (b < 2048) && Chk.okReg .vSrcSt b && decide (ty < 16) && [0, 1, 2, 3].contains ty
  | .vimax h d a b ty =>
      decide (cls = .vec) && h.ok 2 [] [] && decide (d < 2048) && Chk.okReg .vDstSt d && decide (a < 2048) &&
      Chk.okReg .vSrcSt a && decide (b < 2048) && Chk.okReg .vSrcSt b && decide (ty < 16) && [0, 1, 2, 3].contains ty
  | .vand h d a b =>
      decide (cls = .vec) && h.ok 2 [] [] && decide (d < 2048) && Chk.okReg .vDstSt d && decide (a < 2048) &&
      Chk.okReg .vSrcSt a && decide (b < 2048) && Chk.okReg .vSrcSt b
  | .vor h d a b =>
      decide (cls = .vec) && h.ok 2 [] [] && decide (d < 2048) && Chk.okReg .vDstSt d && decide (a < 2048) &&
      Chk.okReg .vSrcSt a && decide (b < 2048) && Chk.okReg .vSrcSt b
  | .vxor h d a b =>
      decide (cls = .vec) && h.ok 2 [] [] && decide (d < 2048) && Chk.okReg .vDstSt d && decide (a < 2048) &&
      Chk.okReg .vSrcSt a && decide (b < 2048) && Chk.okReg .vSrcSt b
  | .vandn h d a b =>
      decide (cls = .vec) && h.ok 2 [] [] && decide (d < 2048) && Chk.okReg .vDstSt d && decide (a < 2048) &&
      Chk.okReg .vSrcSt a && decide (b < 2048) && Chk.okReg .vSrcSt b
  | .vshl h d a b ty =>
      decide (cls = .vec) && h.ok 2 [] [] && decide (d < 2048) && Chk.okReg .vDstSt d && decide (a < 2048) &&
      Chk.okReg .vSrcSt a && decide (b < 2048) && Chk.okReg .vSrcSt b && decide (ty < 16) && [0, 1, 2, 3].contains ty
  | .vshr h d a b ty arith =>
      decide (cls = .vec) && h.ok 2 [] [] && decide (d < 2048) && Chk.okReg .vDstSt d && decide (a < 2048) &&
      Chk.okReg .vSrcSt a && decide (b < 2048) && Chk.okReg .vSrcSt b && decide (ty < 16) &&
      [0, 1, 2, 3].contains ty && decide (arith < 2) && decide (arith = 0 ∨ ty ≠ 2)
  | .vshli h d a n ty =>
      decide (cls = .vec) && h.ok 2 [] [] && decide (d < 2048) && Chk.okReg .vDstSt d && decide (a < 2048) &&
      Chk.okReg .vSrcSt a && decide (n < 64) && decide (ty < 16) && [0, 1, 2, 3].contains ty
  | .vshri h d a n ty arith =>
      decide (cls = .vec) && h.ok 2 [] [] && decide (d < 2048) && Chk.okReg .vDstSt d && decide (a < 2048) &&
      Chk.okReg .vSrcSt a && decide (n < 64) && decide (ty < 16) && [0, 1, 2, 3].contains ty && decide (arith < 2) &&
      decide (arith = 0 ∨ ty ≠ 2)
  | .vext h d a b sg =>
      decide (cls = .vec) && h.ok 2 [] [] && decide (d < 2048) && Chk.okReg .vDstSt d && decide (a < 2048) &&
      Chk.okReg .vSrcSt a && decide (b < 2048) && Chk.okReg .vSrcSt b && decide (sg < 2)
  | .vins h d a b =>
      decide (cls = .vec) && h.ok 2 [] [] && decide (d < 2048) && Chk.okReg .vTied d && decide (a < 2048) &&
      Chk.okReg .vSrcSt a && decide (b < 2048) && Chk.okReg .vSrcSt b
  | .vfsh h d a b n =>
      decide (cls = .vec) && h.ok 2 [] [] && decide (d < 2048) && Chk.okReg .vDstSt d && decide (a < 2048) &&
      Chk.okReg .vSrcSt a && decide (b < 2048) && Chk.okReg .vSrcSt b && decide (n < 32)
  | .vpopc h d a =>
      decide (cls = .vec) && h.ok 2 [] [] && decide (d < 2048) && Chk.okReg .vDstSt d && decide (a < 2048) &&
      Chk.okReg .vSrcSt a
  | .vclz h d a =>
      decide (cls = .vec) && h.ok 2 [] [] && decide (d < 2048) && Chk.okReg .vDstSt d && decide (a < 2048) &&
      Chk.okReg .vSrcSt a
  | .vcvt h d a dt ty rnd sat =>
      decide (cls = .vec) && h.ok 2 [] [] && decide (d < 2048) && Chk.okReg .vDstSt d && decide (a < 2048) &&
      Chk.okReg .vSrcSt a && decide (dt < 16) && [0, 1, 2, 3, 5, 6, 7, 8, 9, 10, 11, 12].contains dt &&
      decide (ty < 16) && [0, 1, 2, 3, 5, 6, 7, 8, 9, 10, 11, 12].contains ty && decide (rnd < 4) && decide (sat < 2)
  | .vpack h d a b ty hs =>
      decide (cls = .vec) && h.ok 2 [] [] && decide (d < 2048) && Chk.okReg .vTied d && decide (a < 2048) &&
      Chk.okReg .vSrc a && decide (b < 2048) && Chk.okReg .vSrc b && decide (ty < 16) &&
      [1, 2, 3, 5, 7, 8, 9, 10, 11].contains ty && decide (hs < 4) && decide ((2 * hs + 1) < 32 / elemWidth ty)
  | .vunpk h d a sl ty =>
      decide (cls = .vec) && h.ok 2 [] [] && decide (d < 2048) && Chk.okReg .vDst d && decide (a < 2048) &&
      Chk.okReg .vSrc a && decide (sl < 8) && decide (ty < 16) && [1, 2, 3, 5, 7, 8, 9, 10, 11].contains ty &&
      decide (sl < 32 / elemWidth ty)
  | .vqnt h d a b ty =>
      decide (cls = .vec) && h.ok 2 [] [] && decide (d < 2048) && Chk.okReg .vDst d && decide (a < 2048) &&
      Chk.okReg .vSrc a && decide (b < 2048) && Chk.okReg .vDst b && decide (ty < 16) && [1, 9, 10, 11].contains ty
  | .vdqnt h d a b ty =>
      decide (cls = .vec) && h.ok 2 [] [] && decide (d < 2048) && Chk.okReg .vDst d && decide (a < 2048) &&
      Chk.okReg .vSrc a && decide (b < 2048) && Chk.okReg .vSrc b && decide (ty < 16) && [1, 9, 10, 11].contains ty
  | .vcmp h d a b ty cond =>
      decide (cls = .vec) && h.ok 2 [] [] && decide (d < 2048) && Chk.okReg .mReg d && decide (a < 2048) &&
      Chk.okReg .vSrcSt a && decide (b < 2048) && Chk.okReg .vSrcSt b && decide (ty < 16) && [0, 6].contains ty &&
      decide (cond < 8) && [0, 1, 2, 3, 4, 5].contains cond
  | .vcmpi h d a cond imm =>
      decide (cls = .vec) && h.ok 2 [] [] && decide (d < 2048) && Chk.okReg .mReg d && decide (a < 2048) &&
      Chk.okReg .vSrcSt a && decide (cond < 8) && [0, 1, 2, 3, 4, 5].contains cond && fitsS 32 imm
  | .vsel h d a b n =>
      decide (cls = .vec) && h.ok 2 [] [] && decide (d < 2048) && Chk.okReg .vDstSt d && decide (a < 2048) &&
      Chk.okReg .vSrcSt a && decide (b < 2048) && Chk.okReg .vSrcSt b && decide (n < 64)
  | .vclamp h d a b ty =>
      decide (cls = .vec) && h.ok 2 [] [] && decide (d < 2048) && Chk.okReg .vTied d && decide (a < 2048) &&
      Chk.okReg .vSrc a && decide (b < 2048) && Chk.okReg .vSrc b && decide (ty < 16) && [0, 6].contains ty
  | .mand h d a b =>
      decide (cls = .vec) && h.ok 2 [] [] && decide (d < 2048) && Chk.okReg .mReg d && decide (a < 2048) &&
      Chk.okReg .mReg a && decide (b < 2048) && Chk.okReg .mReg b
  | .mor h d a b =>
      decide (cls = .vec) && h.ok 2 [] [] && decide (d < 2048) && Chk.okReg .mReg d && decide (a < 2048) &&
      Chk.okReg .mReg a && decide (b < 2048) && Chk.okReg .mReg b
  | .mxor h d a b =>
      decide (cls = .vec) && h.ok 2 [] [] && decide (d < 2048) && Chk.okReg .mReg d && decide (a < 2048) &&
      Chk.okReg .mReg a && decide (b < 2048) && Chk.okReg .mReg b
  | .mnot h d a =>
      decide (cls = .vec) && h.ok 2 [] [] && decide (d < 2048) && Chk.okReg .mReg d && decide (a < 2048) &&
      Chk.okReg .mReg a
  | .mpopc h d a =>
      decide (cls = .vec) && h.ok 2 [] [] && decide (d < 2048) && Chk.okReg .vDst d && decide (a < 2048) &&
      Chk.okReg .mReg a
  | .mset h d rs n =>
      decide (cls = .vec) && h.ok 2 [] [] && decide (d < 2048) && Chk.okReg .mReg d && decide (rs < 65536) &&
      decide (n < 128) && decide (0 ≤ n ∧ n ≤ 64)
  | .vmov h d a =>
      decide (cls = .vec) && h.ok 2 [] [] && decide (d < 2048) && Chk.okReg .vDstSt d && decide (a < 2048) &&
      Chk.okReg .vSrcSt a
  | .vsplat h d imm => decide (cls = .vec) && h.ok 2 [] [] && decide (d < 2048) && Chk.okReg .vDstSt d && fitsS 64 imm
  | .vbcr h d a n =>
      decide (cls = .vec) && h.ok 2 [] [] && decide (d < 2048) && Chk.okReg .vDst d && decide (a < 2048) &&
      Chk.okReg .vSrc a && decide (n < 64)
  | .vbcc h d a n =>
      decide (cls = .vec) && h.ok 2 [] [] && decide (d < 2048) && Chk.okReg .vDst d && decide (a < 2048) &&
      Chk.okReg .vSrc a && decide (n < 16)
  | .vrotr h d a n =>
      decide (cls = .vec) && h.ok 2 [] [] && decide (d < 2048) && Chk.okReg .vDst d && decide (a < 2048) &&
      Chk.okReg .vSrc a && decide (n < 64)
  | .vrotc h d a n =>
      decide (cls = .vec) && h.ok 2 [] [] && decide (d < 2048) && Chk.okReg .vDst d && decide (a < 2048) &&
      Chk.okReg .vSrc a && decide (n < 16)
  | .vperm h d a b =>
      decide (cls = .vec) && h.ok 2 [] [] && decide (d < 2048) && Chk.okReg .vDst d && decide (a < 2048) &&
      Chk.okReg .vSrc a && decide (b < 2048) && Chk.okReg .vSrc b
  | .vlut h d a b =>
      decide (cls = .vec) && h.ok 2 [] [] && decide (d < 2048) && Chk.okReg .vDst d && decide (a < 2048) &&
      Chk.okReg .vSrc a && decide (b < 2048) && Chk.okReg .vSrc b
  | .vredr h d a op ty rnd sat =>
      decide (cls = .vec) && h.ok 2 [] [] && decide (d < 2048) && Chk.okReg .vDst d && decide (a < 2048) &&
      Chk.okReg .vSrc a && decide (op < 8) && [0, 1, 2, 3, 4, 5].contains op && decide (ty < 16) &&
      [0, 6, 7].contains ty && decide (rnd < 4) && decide (sat < 2) &&
      decide ((op ≤ 2 ∨ ty = 0) ∧ redModOk ty op rnd sat)
  | .vredc h d a op ty rnd sat =>
      decide (cls = .vec) && h.ok 2 [] [] && decide (d < 2048) && Chk.okReg .vDst d && decide (a < 2048) &&
      Chk.okReg .vSrc a && decide (op < 8) && [0, 1, 2, 3, 4, 5].contains op && decide (ty < 16) &&
      [0, 6, 7].contains ty && decide (rnd < 4) && decide (sat < 2) &&
      decide ((op ≤ 2 ∨ ty = 0) ∧ redModOk ty op rnd sat)
  | .vscan h d a op axis ty rnd sat =>
      decide (cls = .vec) && h.ok 2 [] [] && decide (d < 2048) && Chk.okReg .vDst d && decide (a < 2048) &&
      Chk.okReg .vSrc a && decide (op < 8) && [0, 1, 2, 3, 4, 5].contains op && decide (axis < 2) &&
      decide (ty < 16) && [0, 6, 7].contains ty && decide (rnd < 4) && decide (sat < 2) &&
      decide ((op ≤ 2 ∨ ty = 0) ∧ redModOk ty op rnd sat)
  | .vtrn h d a =>
      decide (cls = .vec) && h.ok 2 [] [] && decide (d < 2048) && Chk.okReg .vDst d && decide (a < 2048) &&
      Chk.okReg .vSrc a
  | .vmovfa h d a q =>
      decide (cls = .vec) && h.ok 2 [] [] && decide (d < 2048) && Chk.okReg .vReg d && decide (a < 2048) &&
      Chk.okReg .accReg a && decide (q < 4)
  | .vmovta h d a q =>
      decide (cls = .vec) && h.ok 2 [] [] && decide (d < 2048) && Chk.okReg .accReg d && decide (a < 2048) &&
      Chk.okReg .vSrc a && decide (q < 4)
  | .vrotset h n m =>
      decide (cls = .vec) && h.ok 2 [] [] && decide (n < 128) && decide (0 ≤ n ∧ n ≤ 64) && decide (m < 16) &&
      decide (0 ≤ m ∧ m ≤ 8)
  | .vloop h cnt off =>
      decide (cls = .vec) && h.ok 2 [] [] && decide (cnt < 2048) && decide (1 ≤ cnt ∧ cnt ≤ 2047) && fitsS 24 off
  | .expmax h d a new =>
      decide (cls = .vec) && h.ok 2 [] [] && decide (d < 2048) && Chk.okReg .vTied d && decide (a < 2048) &&
      Chk.okReg .vSrc a && decide (new < 2)
  | .expnrm h d a b =>
      decide (cls = .vec) && h.ok 2 [] [] && decide (d < 2048) && Chk.okReg .vDst d && decide (a < 2048) &&
      Chk.okReg .vSrc a && decide (b < 2048) && Chk.okReg .vSrc b
  | .vwelu h d a =>
      decide (cls = .vec) && h.ok 2 [] [] && decide (d < 2048) && Chk.okReg .vTied d && decide (a < 2048) &&
      Chk.okReg .vSrc a
  | .vwelm h d a =>
      decide (cls = .vec) && h.ok 2 [] [] && decide (d < 2048) && Chk.okReg .vTied d && decide (a < 2048) &&
      Chk.okReg .vSrc a
  | .conft h d a thr =>
      decide (cls = .vec) && h.ok 2 [] [] && decide (d < 2048) && Chk.okReg .mReg d && decide (a < 2048) &&
      Chk.okReg .vSrc a && fitsS 58 thr
  | .vrng h d a b =>
      decide (cls = .vec) && h.ok 2 [] [] && decide (d < 2048) && Chk.okReg .vDst d && decide (a < 2048) &&
      Chk.okReg .vSrc a && decide (b < 2048) && Chk.okReg .vSrc b
  | .vidx h d => decide (cls = .vec) && h.ok 2 [] [] && decide (d < 2048) && Chk.okReg .vDst d
  | .vargmx h d a ty =>
      decide (cls = .vec) && h.ok 2 [] [] && decide (d < 2048) && Chk.okReg .vDst d && decide (a < 2048) &&
      Chk.okReg .vSrc a && decide (ty < 16) && [0, 6].contains ty
  | .mtov h d a =>
      decide (cls = .vec) && h.ok 2 [] [] && decide (d < 2048) && Chk.okReg .vDst d && decide (a < 2048) &&
      Chk.okReg .mReg a
  | .vtom h d a =>
      decide (cls = .vec) && h.ok 2 [] [] && decide (d < 2048) && Chk.okReg .mReg d && decide (a < 2048) &&
      Chk.okReg .vSrc a
  | .mgo h ra rb fa fb acc kel aoff boff =>
      decide (cls = .mtx) && h.ok 3 [] [] && decide (ra < 8) && decide (rb < 8) && decide (fa < 16) &&
      [0, 1, 2, 3, 4, 5].contains fa && decide (fb < 16) && [0, 1, 2, 3, 4, 5].contains fb && decide (acc < 64) &&
      decide (kel < 262144) && decide (1 ≤ kel ∧ kel ≤ 262143) && decide (aoff < 256) && decide (boff < 256)
  | .mgos h ra rb fa fb acc kel aoff boff =>
      decide (cls = .mtx) && h.ok 3 [] [] && decide (ra < 8) && decide (rb < 8) && decide (fa < 16) &&
      [0, 1, 2, 3, 4, 5].contains fa && decide (fb < 16) && [0, 1, 2, 3, 4, 5].contains fb && decide (acc < 64) &&
      decide (kel < 262144) && decide (1 ≤ kel ∧ kel ≤ 262143) && decide (aoff < 256) && decide (boff < 256)
  | .mtstart h d n =>
      decide (cls = .mtx) && h.ok 3 [] [] && decide (d < 2048) && Chk.okReg .accReg d && decide (n < 16) &&
      decide (accIdx d + n + 1 ≤ 64)
  | .mtend h => decide (cls = .mtx) && h.ok 3 [] []
  | .mtsel h rs => decide (cls = .mtx) && h.ok 3 [] [] && decide (rs < 65536)
  | .mtselLq h d => decide (cls = .mtx) && h.ok 3 [] [] && decide (d < 2048) && Chk.okReg .regLq d
  | .mtrd h sel q =>
      decide (cls = .mtx) && h.ok 3 [] [] && decide (sel < 4) && [0, 1, 2].contains sel && decide (q < 2)
  | .mringSet h k nslots base =>
      decide (cls = .mtx) && h.ok 3 [] [] && decide (k < 256) && decide (0 ≤ k ∧ k ≤ 7) && decide (nslots < 128) &&
      decide (1 ≤ nslots ∧ nslots ≤ 64) && decide (base < 128) && decide (base + nslots ≤ 128)
  | .mringAdv h k n =>
      decide (cls = .mtx) && h.ok 3 [] [] && decide (k < 256) && decide (0 ≤ k ∧ k ≤ 7) && decide (n < 256)
  | .mspmeta h k mode metabase =>
      decide (cls = .mtx) && h.ok 3 [] [] && decide (k < 256) && decide (0 ≤ k ∧ k ≤ 7) && decide (mode < 4) &&
      [0, 1, 2].contains mode && decide (metabase < 256)
  | .mtzero h d n =>
      decide (cls = .mtx) && h.ok 3 [] [] && decide (d < 2048) && Chk.okReg .accReg d && decide (n < 128) &&
      decide (1 ≤ n ∧ n ≤ 64) && decide (accIdx d + n ≤ 64)
  | .maccld h d a n =>
      decide (cls = .mtx) && h.ok 3 [] [] && decide (d < 2048) && Chk.okReg .accReg d && decide (a < 2048) &&
      Chk.okReg .regLq a && decide (n < 4) && decide (accIdx d + n + 1 ≤ 64)
  | .maccst h d a n =>
      decide (cls = .mtx) && h.ok 3 [] [] && decide (d < 2048) && Chk.okReg .regSq d && decide (a < 2048) &&
      Chk.okReg .accReg a && decide (n < 4) && decide (accIdx a + n + 1 ≤ 64)
  | .maccadd h d a b ty rnd sat =>
      decide (cls = .mtx) && h.ok 3 [] [] && decide (d < 2048) && Chk.okReg .accReg d && decide (a < 2048) &&
      Chk.okReg .accReg a && decide (b < 2048) && Chk.okReg .accReg b && decide (ty < 16) && [6].contains ty &&
      decide (rnd < 4) && decide (sat < 2)
  | .mscale h d a f =>
      decide (cls = .mtx) && h.ok 3 [] [] && decide (d < 2048) && Chk.okReg .accReg d && decide (a < 2048) &&
      Chk.okReg .accReg a && fitsS 58 f
  | .mcvt h d a n ty rnd sat =>
      decide (cls = .mtx) && h.ok 3 [] [] && decide (d < 2048) && Chk.okReg .regSq d && decide (a < 2048) &&
      Chk.okReg .accReg a && decide (n < 4) && decide (ty < 16) && [0, 1, 6, 7, 8, 9, 10].contains ty &&
      decide (rnd < 4) && decide (sat < 2) && decide (accIdx a + n + 1 ≤ 64)
  | .mflag h d mask =>
      decide (cls = .mtx) && h.ok 3 [] [] && decide (d < 2048) && Chk.okReg .regSq d && decide (mask < 128)
  | .mrstat h d clr =>
      decide (cls = .mtx) && h.ok 3 [] [] && decide (d < 2048) && Chk.okReg .regSq d && decide (clr < 2)
  | .xcfg h a depth qexp enc n =>
      decide (cls = .xbr) && h.ok 4 [] [] && decide (a < 256) && decide (0 ≤ a ∧ a ≤ 159) && decide (depth < 4) &&
      [0, 1, 2].contains depth && decide (qexp < 8) && decide (0 ≤ qexp ∧ qexp ≤ 5) && decide (enc < 2) &&
      decide (n < 256) && decide (a + n ≤ 159)
  | .xmask h a n rg =>
      decide (cls = .xbr) && h.ok 4 [] [] && decide (a < 256) && decide (0 ≤ a ∧ a ≤ 159) && decide (n < 256) &&
      decide (rg < 256) && decide (a + n ≤ 159)
  | .xgrp h g first nk nn =>
      decide (cls = .xbr) && h.ok 4 [] [] && decide (g < 256) && decide (0 ≤ g ∧ g ≤ 31) && decide (first < 256) &&
      decide (0 ≤ first ∧ first ≤ 159) && decide (nk < 16) && decide (0 ≤ nk ∧ nk ≤ 7) && decide (nn < 256) &&
      decide (0 ≤ nn ∧ nn ≤ 159) && decide (first + (nk + 1) * (nn + 1) ≤ 160)
  | .xringSet h k out nslots base =>
      decide (cls = .xbr) && h.ok 4 [] [] && decide (k < 4) && decide (out < 2) && decide (nslots < 128) &&
      decide (1 ≤ nslots ∧ nslots ≤ 32) && decide (base < 128) && decide (base + (2 + 2 * out) * nslots ≤ 128)
  | .xringAdv h k out n =>
      decide (cls = .xbr) && h.ok 4 [] [] && decide (k < 4) && decide (out < 2) && decide (n < 256)
  | .xringVmask h base => decide (cls = .xbr) && h.ok 4 [] [] && decide (base < 128)
  | .xmvm h g i o inoff outoff nvec route vm =>
      decide (cls = .xbr) && h.ok 4 [] [] && decide (g < 256) && decide (0 ≤ g ∧ g ≤ 31) && decide (i < 4) &&
      decide (o < 4) && decide (inoff < 256) && decide (outoff < 256) && decide (nvec < 16) && decide (route < 4) &&
      [0, 1, 2].contains route && decide (vm < 2)
  | .xmvma h g i o inoff outoff nvec route vm =>
      decide (cls = .xbr) && h.ok 4 [] [] && decide (g < 256) && decide (0 ≤ g ∧ g ≤ 31) && decide (i < 4) &&
      decide (o < 4) && decide (inoff < 256) && decide (outoff < 256) && decide (nvec < 16) && decide (route < 4) &&
      [0, 1, 2].contains route && decide (vm < 2)
  | .xclip h a clr off =>
      decide (cls = .xbr) && h.ok 4 [] [] && decide (a < 256) && decide (0 ≤ a ∧ a ≤ 159) && decide (clr < 2) &&
      decide (off < 8192)
  | .xstat h a off =>
      decide (cls = .xbr) && h.ok 4 [] [] && decide (a < 256) && decide (0 ≤ a ∧ a ≤ 159) && decide (off < 8192)
  | .xcsum h a off =>
      decide (cls = .xbr) && h.ok 4 [] [] && decide (a < 256) && decide (0 ≤ a ∧ a ≤ 159) && decide (off < 128) &&
      decide (0 ≤ off ∧ off ≤ 126)
  | .xpriv h a n =>
      decide (cls = .xbr) && h.ok 4 [] [] && decide (a < 256) && decide (0 ≤ a ∧ a ≤ 159) && decide (n < 256) &&
      decide (a + n ≤ 159)
  | .xprivRel h a n =>
      decide (cls = .xbr) && h.ok 4 [] [] && decide (a < 256) && decide (0 ≤ a ∧ a ≤ 159) && decide (n < 256) &&
      decide (a + n ≤ 159)
  | .xprogSet h a g amp sel =>
      decide (cls = .xbr) && h.ok 4 [] [] && decide (a < 256) && decide (0 ≤ a ∧ a ≤ 159) && decide (g < 8) &&
      decide (amp < 16) && decide (sel < 128) && decide (0 ≤ sel ∧ sel ≤ 124)
  | .xprogRst h a g amp sel =>
      decide (cls = .xbr) && h.ok 4 [] [] && decide (a < 256) && decide (0 ≤ a ∧ a ≤ 159) && decide (g < 8) &&
      decide (amp < 16) && decide (sel < 128) && decide (0 ≤ sel ∧ sel ≤ 124)
  | .xvfy h a g ng rep =>
      decide (cls = .xbr) && h.ok 4 [] [] && decide (a < 256) && decide (0 ≤ a ∧ a ≤ 159) && decide (g < 8) &&
      decide (ng < 8) && decide (rep < 512) && decide (g + ng ≤ 7)
  | .xsteep h a g ng p rm rep =>
      decide (cls = .xbr) && h.ok 4 [] [] && decide (a < 256) && decide (0 ≤ a ∧ a ≤ 159) && decide (g < 8) &&
      decide (ng < 8) && decide (p < 32) && decide (rm < 2) && decide (rep < 512) &&
      decide (g + ng ≤ 7 ∧ (rm = 0 ∨ g = 0 ∧ ng = 7))
  | .xremap h a col =>
      decide (cls = .xbr) && h.ok 4 [] [] && decide (a < 256) && decide (0 ≤ a ∧ a ≤ 159) && decide (col < 512)
  | .xrefMeas h a => decide (cls = .xbr) && h.ok 4 [] [] && decide (a < 256) && decide (0 ≤ a ∧ a ≤ 159)
  | .xrefBase h a => decide (cls = .xbr) && h.ok 4 [] [] && decide (a < 256) && decide (0 ≤ a ∧ a ≤ 159)
  | .xrefProg h a => decide (cls = .xbr) && h.ok 4 [] [] && decide (a < 256) && decide (0 ≤ a ∧ a ≤ 159)
  | .xdrift h a n k clr =>
      decide (cls = .xbr) && h.ok 4 [] [] && decide (a < 256) && decide (0 ≤ a ∧ a ≤ 159) && decide (n < 256) &&
      decide (k < 16) && decide (clr < 2) && decide (a + n ≤ 159)
  | .xcal h a => decide (cls = .xbr) && h.ok 4 [] [] && decide (a < 256) && decide (0 ≤ a ∧ a ≤ 159)
  | .xoffw h a src =>
      decide (cls = .xbr) && h.ok 4 [] [] && decide (a < 256) && decide (0 ≤ a ∧ a ≤ 159) && decide (src < 512)
  | .xgainw h a src =>
      decide (cls = .xbr) && h.ok 4 [] [] && decide (a < 256) && decide (0 ≤ a ∧ a ≤ 159) && decide (src < 512)
  | .xcert h a dth lk ebank =>
      decide (cls = .xbr) && h.ok 4 [] [] && decide (a < 256) && decide (0 ≤ a ∧ a ≤ 159) && decide (dth < 256) &&
      decide (1 ≤ dth ∧ dth ≤ 255) && decide (lk < 64) && decide (10 ≤ lk ∧ lk ≤ 48) && decide (ebank < 2 ^ 32)
  | .xcrd h a dst =>
      decide (cls = .xbr) && h.ok 4 [] [] && decide (a < 256) && decide (0 ≤ a ∧ a ≤ 159) && decide (dst < 128)
  | .xcld h a src =>
      decide (cls = .xbr) && h.ok 4 [] [] && decide (a < 256) && decide (0 ≤ a ∧ a ≤ 159) && decide (src < 128)
  | .xfallOff h a n setptr ptr =>
      decide (cls = .xbr) && h.ok 4 [] [] && decide (a < 256) && decide (0 ≤ a ∧ a ≤ 159) && decide (n < 256) &&
      decide (setptr < 2) && decide (ptr < 2 ^ 40) && decide (setptr = 1 ∨ ptr = 0) && decide (a + n ≤ 159)
  | .xfallMan h a n setptr ptr =>
      decide (cls = .xbr) && h.ok 4 [] [] && decide (a < 256) && decide (0 ≤ a ∧ a ≤ 159) && decide (n < 256) &&
      decide (setptr < 2) && decide (ptr < 2 ^ 40) && decide (setptr = 1 ∨ ptr = 0) && decide (a + n ≤ 159)
  | .xfallAuto h a n setptr ptr =>
      decide (cls = .xbr) && h.ok 4 [] [] && decide (a < 256) && decide (0 ≤ a ∧ a ≤ 159) && decide (n < 256) &&
      decide (setptr < 2) && decide (ptr < 2 ^ 40) && decide (setptr = 1 ∨ ptr = 0) && decide (a + n ≤ 159)
  | .xaudit h a n rate setptr ptr =>
      decide (cls = .xbr) && h.ok 4 [] [] && decide (a < 256) && decide (0 ≤ a ∧ a ≤ 159) && decide (n < 256) &&
      decide (rate < 1048576) && decide (setptr < 2) && decide (ptr < 2 ^ 40) && decide (setptr = 1 ∨ ptr = 0) &&
      decide (a + n ≤ 159)
  | .xrd h a g ng phys dst =>
      decide (cls = .xbr) && h.ok 4 [] [] && decide (a < 256) && decide (0 ≤ a ∧ a ≤ 159) && decide (g < 8) &&
      decide (ng < 8) && decide (phys < 2) && decide (dst < 128) &&
      decide (g + ng ≤ 7 ∧ dst * 4096 + (16384 + 16384 * phys) * (ng + 1) ≤ 524288)
  | .xerase h a => decide (cls = .xbr) && h.ok 4 [] [] && decide (a < 256) && decide (0 ≤ a ∧ a ≤ 159)
  | .xeraseRt h a => decide (cls = .xbr) && h.ok 4 [] [] && decide (a < 256) && decide (0 ≤ a ∧ a ≤ 159)
  | .cpy h rec desc =>
      decide (cls = .cpy) && h.ok 5 [0, 1, 2, 3, 4] [1] && decide (rec < 256) && decide (0 ≤ rec ∧ rec ≤ 64) &&
      decide (desc < 4096)
  | .cpys h rec desc =>
      decide (cls = .cpy) && h.ok 5 [0, 1, 2, 3, 4] [1] && decide (rec < 256) && decide (0 ≤ rec ∧ rec ≤ 64) &&
      decide (desc < 4096)
  | .cpyg h rec desc =>
      decide (cls = .cpy) && h.ok 5 [0, 1, 2, 3, 4] [1] && decide (rec < 256) && decide (0 ≤ rec ∧ rec ≤ 64) &&
      decide (desc < 4096)
  | .cpygSct h rec desc =>
      decide (cls = .cpy) && h.ok 5 [0, 1, 2, 3, 4] [1] && decide (rec < 256) && decide (0 ≤ rec ∧ rec ≤ 64) &&
      decide (desc < 4096)
  | .cpyt h rec desc =>
      decide (cls = .cpy) && h.ok 5 [0, 1, 2, 3, 4] [1] && decide (rec < 256) && decide (0 ≤ rec ∧ rec ≤ 64) &&
      decide (desc < 4096)
  | .cpyx h rec desc =>
      decide (cls = .cpy) && h.ok 5 [0, 1, 2, 3, 4] [1] && decide (rec < 256) && decide (0 ≤ rec ∧ rec ≤ 64) &&
      decide (desc < 4096)
  | .fill h rec desc =>
      decide (cls = .cpy) && h.ok 5 [0, 1, 2, 3, 4] [1] && decide (rec < 256) && decide (0 ≤ rec ∧ rec ≤ 64) &&
      decide (desc < 4096)
  | .sbar h mask => decide (cls = .cpy) && h.ok 5 [0] [] && decide (mask < 8) && decide (1 ≤ mask ∧ mask ≤ 7)
  | .pfch h rec desc =>
      decide (cls = .cpy) && h.ok 5 [0] [] && decide (rec < 256) && decide (0 ≤ rec ∧ rec ≤ 64) &&
      decide (desc < 4096)
  | .chksum h rec desc =>
      decide (cls = .cpy) && h.ok 5 [] [] && decide (rec < 256) && decide (0 ≤ rec ∧ rec ≤ 64) && decide (desc < 4096)
  | .crec h base => decide (cls = .cpy) && h.ok 5 [] [] && decide (base < 128)
  | .cstat h rec dst =>
      decide (cls = .cpy) && h.ok 5 [] [] && decide (rec < 256) && decide (0 ≤ rec ∧ rec ≤ 64) && decide (dst < 4096)
  | .cdrain h => decide (cls = .cpy) && h.ok 5 [] []
  | .nmuld h rec src slot n =>
      decide (cls = .cpy) && h.ok 5 [] [] && decide (rec < 256) && decide (0 ≤ rec ∧ rec ≤ 64) &&
      decide (src < 4096) && decide (slot < 8) && decide (n < 128)
  | .nmustat h rec dst ch =>
      decide (cls = .cpy) && h.ok 5 [] [] && decide (rec < 256) && decide (0 ≤ rec ∧ rec ≤ 64) &&
      decide (dst < 4096) && decide (ch < 256)
  | .kvgWait h rec desc =>
      decide (cls = .cpy) && h.ok 5 [0, 1, 2, 3, 4] [] && decide (rec < 256) && decide (0 ≤ rec ∧ rec ≤ 64) &&
      decide (desc < 4096)
  | .kvgMask h rec desc =>
      decide (cls = .cpy) && h.ok 5 [0, 1, 2, 3, 4] [] && decide (rec < 256) && decide (0 ≤ rec ∧ rec ≤ 64) &&
      decide (desc < 4096)
  | .kvout h rec desc =>
      decide (cls = .cpy) && h.ok 5 [0, 1, 2, 3, 4] [1] && decide (rec < 256) && decide (0 ≤ rec ∧ rec ≤ 64) &&
      decide (desc < 4096)
  | .kvin h rec desc =>
      decide (cls = .cpy) && h.ok 5 [0, 1, 2, 3, 4] [] && decide (rec < 256) && decide (0 ≤ rec ∧ rec ≤ 64) &&
      decide (desc < 4096)
  | .kvst h rec desc =>
      decide (cls = .cpy) && h.ok 5 [0, 1, 2, 3, 4] [] && decide (rec < 256) && decide (0 ≤ rec ∧ rec ≤ 64) &&
      decide (desc < 4096)
  | .bfq h rec desc img =>
      decide (cls = .cpy) && h.ok 5 [0, 1, 2, 3, 4] [] && decide (rec < 256) && decide (0 ≤ rec ∧ rec ≤ 64) &&
      decide (desc < 4096) && decide (img < 128)
  | .bfctlLoad h rec desc =>
      decide (cls = .cpy) && h.ok 5 [] [] && decide (rec < 256) && decide (0 ≤ rec ∧ rec ≤ 64) && decide (desc < 4096)
  | .bfctlStat h rec dst =>
      decide (cls = .cpy) && h.ok 5 [] [] && decide (rec < 256) && decide (0 ≤ rec ∧ rec ≤ 64) && decide (dst < 128)
  | .bfctlDrain h rec => decide (cls = .cpy) && h.ok 5 [] [] && decide (rec < 256) && decide (0 ≤ rec ∧ rec ≤ 64)
  | .bfctlPause h rec => decide (cls = .cpy) && h.ok 5 [] [] && decide (rec < 256) && decide (0 ≤ rec ∧ rec ≤ 64)
  | .bfctlRun h rec => decide (cls = .cpy) && h.ok 5 [] [] && decide (rec < 256) && decide (0 ≤ rec ∧ rec ≤ 64)
  | .nadd d a b rnd sat ty =>
      decide (d < 32) && Chk.okReg .nReg d && decide (a < 32) && Chk.okReg .nReg a && decide (b < 32) &&
      Chk.okReg .nReg b && decide (rnd < 4) && decide (sat < 2) && decide (ty < 8) && decide (0 ≤ ty ∧ ty ≤ 4)
  | .nsub d a b rnd sat ty =>
      decide (d < 32) && Chk.okReg .nReg d && decide (a < 32) && Chk.okReg .nReg a && decide (b < 32) &&
      Chk.okReg .nReg b && decide (rnd < 4) && decide (sat < 2) && decide (ty < 8) && decide (0 ≤ ty ∧ ty ≤ 4)
  | .nmul d a b rnd sat ty =>
      decide (d < 32) && Chk.okReg .nReg d && decide (a < 32) && Chk.okReg .nReg a && decide (b < 32) &&
      Chk.okReg .nReg b && decide (rnd < 4) && decide (sat < 2) && decide (ty < 8) && decide (0 ≤ ty ∧ ty ≤ 4)
  | .nfma d a b rnd sat ty =>
      decide (d < 32) && Chk.okReg .nReg d && decide (a < 32) && Chk.okReg .nReg a && decide (b < 32) &&
      Chk.okReg .nReg b && decide (rnd < 4) && decide (sat < 2) && decide (ty < 8) && decide (0 ≤ ty ∧ ty ≤ 4)
  | .nmin d a b rnd sat ty =>
      decide (d < 32) && Chk.okReg .nReg d && decide (a < 32) && Chk.okReg .nReg a && decide (b < 32) &&
      Chk.okReg .nReg b && decide (rnd < 4) && decide (sat < 2) && decide (ty < 8) && decide (0 ≤ ty ∧ ty ≤ 4)
  | .nmax d a b rnd sat ty =>
      decide (d < 32) && Chk.okReg .nReg d && decide (a < 32) && Chk.okReg .nReg a && decide (b < 32) &&
      Chk.okReg .nReg b && decide (rnd < 4) && decide (sat < 2) && decide (ty < 8) && decide (0 ≤ ty ∧ ty ≤ 4)
  | .nabs d a rnd sat ty =>
      decide (d < 32) && Chk.okReg .nReg d && decide (a < 32) && Chk.okReg .nReg a && decide (rnd < 4) &&
      decide (sat < 2) && decide (ty < 8) && decide (0 ≤ ty ∧ ty ≤ 4)
  | .nneg d a rnd sat ty =>
      decide (d < 32) && Chk.okReg .nReg d && decide (a < 32) && Chk.okReg .nReg a && decide (rnd < 4) &&
      decide (sat < 2) && decide (ty < 8) && decide (0 ≤ ty ∧ ty ≤ 4)
  | .ncmpeq d a b rnd sat ty =>
      decide (d < 32) && Chk.okReg .nReg d && decide (a < 32) && Chk.okReg .nReg a && decide (b < 32) &&
      Chk.okReg .nReg b && decide (rnd < 4) && decide (sat < 2) && decide (ty < 8) && decide (0 ≤ ty ∧ ty ≤ 4)
  | .ncmplt d a b rnd sat ty =>
      decide (d < 32) && Chk.okReg .nReg d && decide (a < 32) && Chk.okReg .nReg a && decide (b < 32) &&
      Chk.okReg .nReg b && decide (rnd < 4) && decide (sat < 2) && decide (ty < 8) && decide (0 ≤ ty ∧ ty ≤ 4)
  | .ncmple d a b rnd sat ty =>
      decide (d < 32) && Chk.okReg .nReg d && decide (a < 32) && Chk.okReg .nReg a && decide (b < 32) &&
      Chk.okReg .nReg b && decide (rnd < 4) && decide (sat < 2) && decide (ty < 8) && decide (0 ≤ ty ∧ ty ≤ 4)
  | .nsel d a b m =>
      decide (d < 32) && Chk.okReg .nReg d && decide (a < 32) && Chk.okReg .nReg a && decide (b < 32) &&
      Chk.okReg .nReg b && decide (m < 32) && Chk.okReg .nReg m
  | .nand d a b =>
      decide (d < 32) && Chk.okReg .nReg d && decide (a < 32) && Chk.okReg .nReg a && decide (b < 32) &&
      Chk.okReg .nReg b
  | .nor d a b =>
      decide (d < 32) && Chk.okReg .nReg d && decide (a < 32) && Chk.okReg .nReg a && decide (b < 32) &&
      Chk.okReg .nReg b
  | .nxor d a b =>
      decide (d < 32) && Chk.okReg .nReg d && decide (a < 32) && Chk.okReg .nReg a && decide (b < 32) &&
      Chk.okReg .nReg b
  | .nshl d a n => decide (d < 32) && Chk.okReg .nReg d && decide (a < 32) && Chk.okReg .nReg a && decide (n < 32)
  | .nshr d a n arith =>
      decide (d < 32) && Chk.okReg .nReg d && decide (a < 32) && Chk.okReg .nReg a && decide (n < 32) &&
      decide (arith < 2)
  | .ncvt d a p sfrom rnd sat sto =>
      decide (d < 32) && Chk.okReg .nReg d && decide (a < 32) && Chk.okReg .nReg a && decide (p < 8) &&
      decide (sfrom < 8) && decide (0 ≤ sfrom ∧ sfrom ≤ 4) && decide (rnd < 4) && decide (sat < 2) &&
      decide (sto < 8) && decide (0 ≤ sto ∧ sto ≤ 4) && ncvtPartOk p sfrom sto
  | .nbcst d a n => decide (d < 32) && Chk.okReg .nReg d && decide (a < 32) && Chk.okReg .nReg a && decide (n < 16)
  | .nli d imm => decide (d < 32) && Chk.okReg .nReg d && decide (imm < 2 ^ 21)
  | .nlih d imm => decide (d < 32) && Chk.okReg .nReg d && decide (imm < 2 ^ 21)
  | .nmov d a => decide (d < 32) && Chk.okReg .nReg d && decide (a < 32) && Chk.okReg .nReg a
  | .nrsum d a rnd sat ty =>
      decide (d < 32) && Chk.okReg .nReg d && decide (a < 32) && Chk.okReg .nReg a && decide (rnd < 4) &&
      decide (sat < 2) && decide (ty < 8) && decide (0 ≤ ty ∧ ty ≤ 4)
  | .nrmin d a rnd sat ty =>
      decide (d < 32) && Chk.okReg .nReg d && decide (a < 32) && Chk.okReg .nReg a && decide (rnd < 4) &&
      decide (sat < 2) && decide (ty < 8) && decide (0 ≤ ty ∧ ty ≤ 4)
  | .nrmax d a rnd sat ty =>
      decide (d < 32) && Chk.okReg .nReg d && decide (a < 32) && Chk.okReg .nReg a && decide (rnd < 4) &&
      decide (sat < 2) && decide (ty < 8) && decide (0 ≤ ty ∧ ty ≤ 4)
  | .nld d st => decide (d < 32) && Chk.okReg .nReg d && decide (st < 2)
  | .nst a sz => decide (a < 32) && Chk.okReg .nReg a && decide (sz < 4) && decide (0 ≤ sz ∧ sz ≤ 2)
  | .nldp d => decide (d < 32) && Chk.okReg .nReg d
  | .nskip n => decide (n < 64)
  | .nloop1 len cnt => decide (len < 32) && decide (cnt < 2048)
  | .nloop2 len cnt => decide (len < 32) && decide (cnt < 2048)
  | .nend => true
  | .nnop => true
  | .nrcp d a rnd sat ty =>
      decide (d < 32) && Chk.okReg .nReg d && decide (a < 32) && Chk.okReg .nReg a && decide (rnd < 4) &&
      decide (sat < 2) && decide (ty < 8) && decide (0 ≤ ty ∧ ty ≤ 1)
  | .nclamp d a b rnd sat ty =>
      decide (d < 32) && Chk.okReg .nReg d && decide (a < 32) && Chk.okReg .nReg a && decide (b < 32) &&
      Chk.okReg .nReg b && decide (rnd < 4) && decide (sat < 2) && decide (ty < 8) && decide (0 ≤ ty ∧ ty ≤ 4)
  | .nscl d a b rnd sat ty =>
      decide (d < 32) && Chk.okReg .nReg d && decide (a < 32) && Chk.okReg .nReg a && decide (b < 32) &&
      Chk.okReg .nReg b && decide (rnd < 4) && decide (sat < 2) && decide (ty < 8) && decide (0 ≤ ty ∧ ty ≤ 3)
  | .nramax d a rnd sat ty =>
      decide (d < 32) && Chk.okReg .nReg d && decide (a < 32) && Chk.okReg .nReg a && decide (rnd < 4) &&
      decide (sat < 2) && decide (ty < 8) && decide (0 ≤ ty ∧ ty ≤ 4)
  | .ncmpne d a b rnd sat ty =>
      decide (d < 32) && Chk.okReg .nReg d && decide (a < 32) && Chk.okReg .nReg a && decide (b < 32) &&
      Chk.okReg .nReg b && decide (rnd < 4) && decide (sat < 2) && decide (ty < 8) && decide (0 ≤ ty ∧ ty ≤ 4)
  | .nandn d a b =>
      decide (d < 32) && Chk.okReg .nReg d && decide (a < 32) && Chk.okReg .nReg a && decide (b < 32) &&
      Chk.okReg .nReg b
  | .nshuf d a b =>
      decide (d < 32) && Chk.okReg .nReg d && decide (a < 32) && Chk.okReg .nReg a && decide (b < 32) &&
      Chk.okReg .nReg b
  | .engineFaultDelivery _ => true
  | .efltRst _ _ => true
  | .efltSkip _ _ => true
  | .pendingWriteLands _ => true
  | .tokenPushTakesEffect _ _ => true
  | .handlerStart _ => true
  | .putDelivery _ => true
  | .puthRetry _ => true
  | .homeArrival _ => true
  | .homeUpdate _ => true
  | .monitorWake _ _ => true
  | .mwaitTimeout _ => true
  | .monitorRetry _ => true
  | .matrixStep _ => true
  | .arrayWorkStart _ _ => true
  | .vectorRowsLand _ _ => true
  | .digitalRouteStep _ _ => true
  | .audit _ _ => true
  | .auditOverdue _ => true
  | .automaticMeasurement _ _ => true
  | .copyUnit _ _ => true
  | .nmuRun _ => true
  | .nmuParityAbort _ => true
  | .backfillBatch _ => true
  | .backfillLayerComplete _ => true
  | .checkerMismatch _ _ _ => true
  | .selfTestVerdict _ _ _ => true
  | .sramUncorrectableError _ _ _ => true
  | .cimUncorrectableFetch _ _ => true
  | .hbmUncorrectableRead _ => true
  | .faultRecordWrite => true
  | .launchAcceptance _ => true
  | .submissionEntryRead => true
  | .bindingDecision => true
  | .priorityPromotion _ _ => true
  | .taskBind _ => true
  | .nodeCompletion _ _ => true
  | .doneCompletion _ => true
  | .stallWireFall _ _ => true
  | .replay _ _ => true
  | .refill _ _ => true
  | .sqdb _ => true
  | .registerWrite _ _ => true
  | .createContext => true
  | .tearDownContext => true
  | .loadMatterKeySlot => true
  | .clearMatterKeySlot => true
  | .loadObject => true
  | .fillReservePool => true
  | .clearQuarantine => true
  | .movePageHome => true
  | .attestationQuote => true
  | .mboxUnknownOpcode => true
  | .coldReset => true
  | .warmReset => true
  | .functionReady _ => true
  | .repairReapplied _ => true
  | .flitCrcFailure _ _ _ _ => true
  | .wireFailureDeclared _ _ _ => true
  | .softRepair _ => true
  | .bankStoreSpareSwitch _ _ _ _ => true
  | .hbmTemperatureRead _ => true
  | .refreshBurst _ => true
  | .governorMeasurement _ => true
  | .governorThrottlePeriod _ _ => true
  | .thermalStopBinding => true
  | .thermalPowerOff => true
  | .peerFlitCrcFailure _ => true
  | .peerShootdownTimeout _ => true
  | .peerReduceReceive _ _ _ _ _ => true
  | .wordNotAnInstruction _ => true
  | .fetchBeyondCimImage _ _ => true
  | .accessResponse _ => true
  | .inboundMemoryAccess _ _ => true
  | .peerShootdownRequest _ _ _ _ _ => true
  | .peerShootdownAcknowledgement _ => true
  | .imageStream _ => true
  | .calibrationWordComplete _ _ => true
  | .sramCorrectableError _ _ => true

/-- The instruction can be said in a word of class `cls`. -/
abbrev WellFormed (cls : Engine) (i : Instr) : Prop := instrOk cls i = true

end Sys2Proof
end

