-- ==== Sys2Proof/Decode.lean ====
section
/-! DEFINITION. Sys2Proof/Decode.lean: the words of 02 R27 to R56 and the near-memory instructions of 10 R291, read and
written. A table row gives a word's opcode, format, fixed fields and operand fields with their checks; `decode` makes the
checks of R29 in their order; `encode` writes the words of a well-formed instruction from the same table. -/

namespace Sys2Proof

/-- An operand field: `w` bits from bit `lo` of the operand field, extended upward by `ew` bits from bit `elo` of an IMX
prefix; `sg` sign-extends the whole to 64 bits (02 R35, R42). -/
structure Fld where
  lo : Nat
  w : Nat
  elo : Nat
  ew : Nat
  sg : Bool
  chk : Chk

/-- Operand formats of 02 R35. -/
inductive Fmt where
  | rrr | rri | ri | br | mem | syn | cmd | none
deriving DecidableEq, Repr

/-- The formats that accept IMX (02 R42). -/
def Fmt.takesImx : Fmt → Bool
  | .rri | .ri | .mem | .syn | .cmd => true
  | .rrr | .br | .none => false

/-- What a word accepts: SCP orders (12 R330), PMT values (1 sink, 2 clear), and whether it is supervisor-only. -/
structure Accepts where
  orders : List Nat
  pmts : List Nat
  sup : Bool

structure Row where
  op : Nat
  fmt : Fmt
  sub : List (Nat × Nat × Nat)
  acc : Accepts
  flds : List Fld
  x6 : List Nat → Bool
  x8 : List Nat → Bool
  build : Hdr → List Nat → Instr

structure NmuRow where
  op : Nat
  flds : List Fld
  x : List Nat → Bool
  build : List Nat → Instr

/-- The value of `w` bits of `x` from bit `lo`. -/
def bitsAt (x lo w : Nat) : Nat := x / 2 ^ lo % 2 ^ w

/-- Sign extension of an `n`-bit value to 64 bits, as a natural number. -/
def signExt (n v : Nat) : Nat := if v < 2 ^ (n - 1) then v else v + (2 ^ 64 - 2 ^ n)

/-- The operand a field holds, without (`none`) or with an IMX prefix of extension `e`. -/
def Fld.value (f : Fld) (opnd : Nat) (imx : Option Nat) : Nat :=
  match imx with
  | none => if f.sg then signExt f.w (bitsAt opnd f.lo f.w) else bitsAt opnd f.lo f.w
  | some e =>
    let v := bitsAt opnd f.lo f.w + 2 ^ f.w * bitsAt e f.elo f.ew
    if f.sg then signExt (f.w + f.ew) v else v

/-- The bits of the word that a field's operand fills. -/
def Fld.low (f : Fld) (v : Nat) : Nat := v % 2 ^ f.w * 2 ^ f.lo

/-- The bits of an IMX prefix that a field's operand fills. -/
def Fld.high (f : Fld) (v : Nat) : Nat := v / 2 ^ f.w % 2 ^ f.ew * 2 ^ f.elo

/-- Field by field, the bits of the word. -/
def packLow : List Fld → List Nat → Nat
  | f :: fs, v :: vs => f.low v + packLow fs vs
  | _, _ => 0

/-- Field by field, the bits of an IMX prefix. -/
def packHigh : List Fld → List Nat → Nat
  | f :: fs, v :: vs => f.high v + packHigh fs vs
  | _, _ => 0

/-- The fixed fields that select among the rows of one opcode. -/
def packSub : List (Nat × Nat × Nat) → Nat
  | [] => 0
  | (lo, _, v) :: ss => v * 2 ^ lo + packSub ss

def subMatches (sub : List (Nat × Nat × Nat)) (opnd : Nat) : Bool :=
  sub.all fun (lo, w, v) => bitsAt opnd lo w == v

/-- Every bit of the operand field that is neither an operand nor a fixed field is zero. -/
def reservedZero (r : Row) (opnd : Nat) (imx : Option Nat) : Bool :=
  let lows := r.flds.foldr (fun f a => bitsAt opnd f.lo f.w * 2 ^ f.lo + a) 0
  let highs := match imx with
    | none => true
    | some e => e == r.flds.foldr (fun f a => bitsAt e f.elo f.ew * 2 ^ f.elo + a) 0
  opnd == lows + packSub r.sub && highs


/-- Encodings of the ctl words, part 1. -/
noncomputable def ctlRows1 : List Row := [
  ⟨0x1, .rrr, [], ⟨[], [], false⟩,
    [⟨29, 11, 0, 0, false, .regS⟩, ⟨18, 11, 0, 0, false, .regS⟩, ⟨7, 11, 0, 0, false, .regS⟩],
    fun _ => true, fun _ => true,
    fun h v => .add h (v.getD 0 0) (v.getD 1 0) (v.getD 2 0)⟩,
  ⟨0x2, .rrr, [], ⟨[], [], false⟩,
    [⟨29, 11, 0, 0, false, .regS⟩, ⟨18, 11, 0, 0, false, .regS⟩, ⟨7, 11, 0, 0, false, .regS⟩],
    fun _ => true, fun _ => true,
    fun h v => .sub h (v.getD 0 0) (v.getD 1 0) (v.getD 2 0)⟩,
  ⟨0x3, .rrr, [], ⟨[], [], false⟩,
    [⟨29, 11, 0, 0, false, .regS⟩, ⟨18, 11, 0, 0, false, .regS⟩, ⟨7, 11, 0, 0, false, .regS⟩],
    fun _ => true, fun _ => true,
    fun h v => .mul h (v.getD 0 0) (v.getD 1 0) (v.getD 2 0)⟩,
  ⟨0x4, .rrr, [], ⟨[], [], false⟩,
    [⟨29, 11, 0, 0, false, .regS⟩, ⟨18, 11, 0, 0, false, .regS⟩, ⟨7, 11, 0, 0, false, .regS⟩, ⟨0, 7, 0, 0, false, .mods [0, 1, 2]⟩],
    fun _ => true, fun _ => true,
    fun h v => .mulh h (v.getD 0 0) (v.getD 1 0) (v.getD 2 0) (v.getD 3 0)⟩,
  ⟨0x5, .rrr, [], ⟨[], [], false⟩,
    [⟨29, 11, 0, 0, false, .regS⟩, ⟨18, 11, 0, 0, false, .regS⟩, ⟨7, 11, 0, 0, false, .regS⟩, ⟨0, 7, 0, 0, false, .mods [0, 1]⟩],
    fun _ => true, fun _ => true,
    fun h v => .div h (v.getD 0 0) (v.getD 1 0) (v.getD 2 0) (v.getD 3 0)⟩,
  ⟨0x6, .rrr, [], ⟨[], [], false⟩,
    [⟨29, 11, 0, 0, false, .regS⟩, ⟨18, 11, 0, 0, false, .regS⟩, ⟨7, 11, 0, 0, false, .regS⟩, ⟨0, 7, 0, 0, false, .mods [0, 1]⟩],
    fun _ => true, fun _ => true,
    fun h v => .rem h (v.getD 0 0) (v.getD 1 0) (v.getD 2 0) (v.getD 3 0)⟩,
  ⟨0x7, .rrr, [], ⟨[], [], false⟩,
    [⟨29, 11, 0, 0, false, .regS⟩, ⟨18, 11, 0, 0, false, .regS⟩, ⟨7, 11, 0, 0, false, .regS⟩],
    fun _ => true, fun _ => true,
    fun h v => .and h (v.getD 0 0) (v.getD 1 0) (v.getD 2 0)⟩,
  ⟨0x8, .rrr, [], ⟨[], [], false⟩,
    [⟨29, 11, 0, 0, false, .regS⟩, ⟨18, 11, 0, 0, false, .regS⟩, ⟨7, 11, 0, 0, false, .regS⟩],
    fun _ => true, fun _ => true,
    fun h v => .or h (v.getD 0 0) (v.getD 1 0) (v.getD 2 0)⟩,
  ⟨0x9, .rrr, [], ⟨[], [], false⟩,
    [⟨29, 11, 0, 0, false, .regS⟩, ⟨18, 11, 0, 0, false, .regS⟩, ⟨7, 11, 0, 0, false, .regS⟩],
    fun _ => true, fun _ => true,
    fun h v => .xor h (v.getD 0 0) (v.getD 1 0) (v.getD 2 0)⟩,
  ⟨0xa, .rrr, [], ⟨[], [], false⟩,
    [⟨29, 11, 0, 0, false, .regS⟩, ⟨18, 11, 0, 0, false, .regS⟩, ⟨7, 11, 0, 0, false, .regS⟩],
    fun _ => true, fun _ => true,
    fun h v => .andn h (v.getD 0 0) (v.getD 1 0) (v.getD 2 0)⟩,
  ⟨0xb, .rrr, [], ⟨[], [], false⟩,
    [⟨29, 11, 0, 0, false, .regS⟩, ⟨18, 11, 0, 0, false, .regS⟩, ⟨7, 11, 0, 0, false, .regS⟩],
    fun _ => true, fun _ => true,
    fun h v => .shl h (v.getD 0 0) (v.getD 1 0) (v.getD 2 0)⟩,
  ⟨0xc, .rrr, [], ⟨[], [], false⟩,
    [⟨29, 11, 0, 0, false, .regS⟩, ⟨18, 11, 0, 0, false, .regS⟩, ⟨7, 11, 0, 0, false, .regS⟩, ⟨0, 7, 0, 0, false, .mods [0, 1]⟩],
    fun _ => true, fun _ => true,
    fun h v => .shr h (v.getD 0 0) (v.getD 1 0) (v.getD 2 0) (v.getD 3 0)⟩,
  ⟨0xd, .rrr, [], ⟨[], [], false⟩,
    [⟨29, 11, 0, 0, false, .regS⟩, ⟨18, 11, 0, 0, false, .regS⟩, ⟨7, 11, 0, 0, false, .regS⟩],
    fun _ => true, fun _ => true,
    fun h v => .rot h (v.getD 0 0) (v.getD 1 0) (v.getD 2 0)⟩,
  ⟨0xe, .rrr, [], ⟨[], [], false⟩,
    [⟨29, 11, 0, 0, false, .regS⟩, ⟨18, 11, 0, 0, false, .regS⟩, ⟨7, 11, 0, 0, false, .regS⟩, ⟨0, 7, 0, 0, false, .mods [0, 1]⟩],
    fun _ => true, fun _ => true,
    fun h v => .min h (v.getD 0 0) (v.getD 1 0) (v.getD 2 0) (v.getD 3 0)⟩,
  ⟨0xf, .rrr, [], ⟨[], [], false⟩,
    [⟨29, 11, 0, 0, false, .regS⟩, ⟨18, 11, 0, 0, false, .regS⟩, ⟨7, 11, 0, 0, false, .regS⟩, ⟨0, 7, 0, 0, false, .mods [0, 1]⟩],
    fun _ => true, fun _ => true,
    fun h v => .max h (v.getD 0 0) (v.getD 1 0) (v.getD 2 0) (v.getD 3 0)⟩,
  ⟨0x10, .rrr, [], ⟨[], [], false⟩,
    [⟨29, 11, 0, 0, false, .regS⟩, ⟨18, 11, 0, 0, false, .regS⟩],
    fun _ => true, fun _ => true,
    fun h v => .clz h (v.getD 0 0) (v.getD 1 0)⟩,
  ⟨0x11, .rrr, [], ⟨[], [], false⟩,
    [⟨29, 11, 0, 0, false, .regS⟩, ⟨18, 11, 0, 0, false, .regS⟩],
    fun _ => true, fun _ => true,
    fun h v => .ctz h (v.getD 0 0) (v.getD 1 0)⟩,
  ⟨0x12, .rrr, [], ⟨[], [], false⟩,
    [⟨29, 11, 0, 0, false, .regS⟩, ⟨18, 11, 0, 0, false, .regS⟩],
    fun _ => true, fun _ => true,
    fun h v => .popc h (v.getD 0 0) (v.getD 1 0)⟩,
  ⟨0x13, .rri, [], ⟨[], [], false⟩,
    [⟨29, 11, 0, 0, false, .regS⟩, ⟨18, 11, 0, 0, false, .regS⟩, ⟨0, 18, 0, 40, true, .any⟩],
    fun _ => true, fun _ => true,
    fun h v => .addi h (v.getD 0 0) (v.getD 1 0) (v.getD 2 0)⟩,
  ⟨0x14, .rri, [], ⟨[], [], false⟩,
    [⟨29, 11, 0, 0, false, .regS⟩, ⟨18, 11, 0, 0, false, .regS⟩, ⟨0, 18, 0, 40, true, .any⟩],
    fun _ => true, fun _ => true,
    fun h v => .muli h (v.getD 0 0) (v.getD 1 0) (v.getD 2 0)⟩,
  ⟨0x15, .rri, [], ⟨[], [], false⟩,
    [⟨29, 11, 0, 0, false, .regS⟩, ⟨18, 11, 0, 0, false, .regS⟩, ⟨0, 18, 0, 40, true, .any⟩],
    fun _ => true, fun _ => true,
    fun h v => .andi h (v.getD 0 0) (v.getD 1 0) (v.getD 2 0)⟩,
  ⟨0x16, .rri, [], ⟨[], [], false⟩,
    [⟨29, 11, 0, 0, false, .regS⟩, ⟨18, 11, 0, 0, false, .regS⟩, ⟨0, 18, 0, 40, true, .any⟩],
    fun _ => true, fun _ => true,
    fun h v => .ori h (v.getD 0 0) (v.getD 1 0) (v.getD 2 0)⟩,
  ⟨0x17, .rri, [], ⟨[], [], false⟩,
    [⟨29, 11, 0, 0, false, .regS⟩, ⟨18, 11, 0, 0, false, .regS⟩, ⟨0, 18, 0, 40, true, .any⟩],
    fun _ => true, fun _ => true,
    fun h v => .xori h (v.getD 0 0) (v.getD 1 0) (v.getD 2 0)⟩,
  ⟨0x18, .rri, [], ⟨[], [], false⟩,
    [⟨29, 11, 0, 0, false, .regS⟩, ⟨18, 11, 0, 0, false, .regS⟩, ⟨0, 6, 0, 0, false, .any⟩],
    fun _ => true, fun _ => true,
    fun h v => .shli h (v.getD 0 0) (v.getD 1 0) (v.getD 2 0)⟩]

/-- Encodings of the ctl words, part 2. -/
noncomputable def ctlRows2 : List Row := [
  ⟨0x19, .rri, [], ⟨[], [], false⟩,
    [⟨29, 11, 0, 0, false, .regS⟩, ⟨18, 11, 0, 0, false, .regS⟩, ⟨0, 6, 0, 0, false, .any⟩, ⟨6, 1, 0, 0, false, .any⟩],
    fun _ => true, fun _ => true,
    fun h v => .shri h (v.getD 0 0) (v.getD 1 0) (v.getD 2 0) (v.getD 3 0)⟩,
  ⟨0x1a, .ri, [], ⟨[], [], false⟩,
    [⟨29, 11, 0, 0, false, .regS⟩, ⟨0, 29, 0, 35, true, .any⟩],
    fun _ => true, fun _ => true,
    fun h v => .li h (v.getD 0 0) (v.getD 1 0)⟩,
  ⟨0x1b, .rri, [], ⟨[], [], false⟩,
    [⟨29, 11, 0, 0, false, .regS⟩, ⟨18, 11, 0, 0, false, .regS⟩, ⟨0, 7, 0, 0, false, .rng 1 64⟩],
    fun _ => true, fun _ => true,
    fun h v => .sext h (v.getD 0 0) (v.getD 1 0) (v.getD 2 0)⟩,
  ⟨0x1c, .rri, [], ⟨[], [], false⟩,
    [⟨29, 11, 0, 0, false, .regS⟩, ⟨18, 11, 0, 0, false, .regS⟩, ⟨0, 6, 0, 0, false, .any⟩, ⟨6, 7, 0, 0, false, .rng 1 64⟩],
    fun _ => true, fun v => decide ((v.getD 2 0) + (v.getD 3 0) ≤ 64),
    fun h v => .ext h (v.getD 0 0) (v.getD 1 0) (v.getD 2 0) (v.getD 3 0)⟩,
  ⟨0x1d, .rri, [], ⟨[], [], false⟩,
    [⟨29, 11, 0, 0, false, .regS⟩, ⟨18, 11, 0, 0, false, .regS⟩, ⟨0, 6, 0, 0, false, .any⟩, ⟨6, 7, 0, 0, false, .rng 1 64⟩],
    fun _ => true, fun v => decide ((v.getD 2 0) + (v.getD 3 0) ≤ 64),
    fun h v => .exts h (v.getD 0 0) (v.getD 1 0) (v.getD 2 0) (v.getD 3 0)⟩,
  ⟨0x1e, .rri, [], ⟨[], [], false⟩,
    [⟨29, 11, 0, 0, false, .regS⟩, ⟨18, 11, 0, 0, false, .regS⟩, ⟨0, 6, 0, 0, false, .any⟩, ⟨6, 7, 0, 0, false, .rng 1 64⟩],
    fun _ => true, fun v => decide ((v.getD 2 0) + (v.getD 3 0) ≤ 64),
    fun h v => .ins h (v.getD 0 0) (v.getD 1 0) (v.getD 2 0) (v.getD 3 0)⟩,
  ⟨0x1f, .rrr, [], ⟨[], [], false⟩,
    [⟨29, 11, 0, 0, false, .regS⟩, ⟨18, 11, 0, 0, false, .regS⟩, ⟨7, 11, 0, 0, false, .regS⟩, ⟨0, 6, 0, 0, false, .any⟩],
    fun _ => true, fun _ => true,
    fun h v => .fsh h (v.getD 0 0) (v.getD 1 0) (v.getD 2 0) (v.getD 3 0)⟩,
  ⟨0x20, .rrr, [], ⟨[], [], false⟩,
    [⟨29, 11, 0, 0, false, .regS⟩, ⟨18, 11, 0, 0, false, .regS⟩, ⟨7, 11, 0, 0, false, .regS⟩, ⟨0, 7, 0, 0, false, .mods [0, 1, 2, 3, 4, 5]⟩],
    fun _ => true, fun _ => true,
    fun h v => .cmp h (v.getD 0 0) (v.getD 1 0) (v.getD 2 0) (v.getD 3 0)⟩,
  ⟨0x21, .rri, [], ⟨[], [], false⟩,
    [⟨29, 11, 0, 0, false, .regS⟩, ⟨18, 11, 0, 0, false, .regS⟩, ⟨0, 18, 0, 40, true, .any⟩],
    fun _ => true, fun _ => true,
    fun h v => .seqi h (v.getD 0 0) (v.getD 1 0) (v.getD 2 0)⟩,
  ⟨0x22, .rri, [], ⟨[], [], false⟩,
    [⟨29, 11, 0, 0, false, .regS⟩, ⟨18, 11, 0, 0, false, .regS⟩, ⟨0, 18, 0, 40, true, .any⟩],
    fun _ => true, fun _ => true,
    fun h v => .slti h (v.getD 0 0) (v.getD 1 0) (v.getD 2 0)⟩,
  ⟨0x23, .rri, [], ⟨[], [], false⟩,
    [⟨29, 11, 0, 0, false, .regS⟩, ⟨18, 11, 0, 0, false, .regS⟩, ⟨0, 18, 0, 40, true, .any⟩],
    fun _ => true, fun _ => true,
    fun h v => .sltui h (v.getD 0 0) (v.getD 1 0) (v.getD 2 0)⟩,
  ⟨0x24, .rrr, [], ⟨[], [], false⟩,
    [⟨29, 11, 0, 0, false, .regS⟩, ⟨18, 11, 0, 0, false, .regS⟩, ⟨7, 11, 0, 0, false, .regS⟩, ⟨0, 5, 0, 0, false, .any⟩],
    fun _ => true, fun _ => true,
    fun h v => .sel h (v.getD 0 0) (v.getD 1 0) (v.getD 2 0) (v.getD 3 0)⟩,
  ⟨0x25, .br, [], ⟨[], [], false⟩,
    [⟨35, 5, 0, 0, false, .mods [0, 1, 2, 3, 4, 5, 6]⟩, ⟨24, 11, 0, 0, false, .regS⟩, ⟨0, 24, 0, 0, true, .any⟩],
    fun v => decide ((v.getD 0 0) ≠ 0 ∨ (v.getD 1 0) = 0), fun _ => true,
    fun h v => .b h (v.getD 0 0) (v.getD 1 0) (v.getD 2 0)⟩,
  ⟨0x26, .rri, [], ⟨[], [], false⟩,
    [⟨18, 11, 0, 0, false, .regS⟩, ⟨0, 18, 0, 40, true, .any⟩],
    fun _ => true, fun _ => true,
    fun h v => .jmp h (v.getD 0 0) (v.getD 1 0)⟩,
  ⟨0x27, .br, [], ⟨[], [], false⟩,
    [⟨0, 24, 0, 0, true, .any⟩],
    fun _ => true, fun _ => true,
    fun h v => .call h (v.getD 0 0)⟩,
  ⟨0x28, .rri, [], ⟨[], [], false⟩,
    [⟨29, 11, 0, 0, false, .regS⟩, ⟨18, 11, 0, 0, false, .regS⟩, ⟨0, 18, 0, 40, true, .any⟩],
    fun _ => true, fun _ => true,
    fun h v => .callr h (v.getD 0 0) (v.getD 1 0) (v.getD 2 0)⟩,
  ⟨0x29, .none, [], ⟨[], [], false⟩,
    [],
    fun _ => true, fun _ => true,
    fun h _ => .ret h⟩,
  ⟨0x2a, .br, [], ⟨[], [], false⟩,
    [⟨24, 11, 0, 0, false, .regS⟩, ⟨0, 24, 0, 0, true, .any⟩],
    fun _ => true, fun v => decide (1 ≤ (v.getD 0 0)),
    fun h v => .loop h (v.getD 0 0) (v.getD 1 0)⟩,
  ⟨0x2b, .rrr, [], ⟨[], [], false⟩,
    [⟨29, 11, 0, 0, false, .regS⟩, ⟨18, 11, 0, 0, false, .regS⟩, ⟨7, 11, 0, 0, false, .regS⟩],
    fun _ => true, fun _ => true,
    fun h v => .crng h (v.getD 0 0) (v.getD 1 0) (v.getD 2 0)⟩,
  ⟨0x2c, .cmd, [], ⟨[], [], false⟩,
    [⟨32, 8, 0, 0, false, .rng 1 5⟩, ⟨0, 16, 0, 0, false, .any⟩, ⟨16, 12, 0, 0, false, .any⟩],
    fun _ => true, fun _ => true,
    fun h v => .fork h (v.getD 0 0) (v.getD 1 0) (v.getD 2 0)⟩,
  ⟨0x2d, .rrr, [(3, 1, 0)], ⟨[], [], false⟩,
    [⟨29, 11, 0, 0, false, .regS⟩, ⟨18, 11, 0, 0, false, .regS⟩, ⟨0, 3, 0, 0, false, .rng 1 5⟩],
    fun _ => true, fun _ => true,
    fun h v => .ringp h (v.getD 0 0) (v.getD 1 0) (v.getD 2 0)⟩,
  ⟨0x2d, .rrr, [(3, 1, 1)], ⟨[], [], false⟩,
    [⟨29, 11, 0, 0, false, .regS⟩, ⟨18, 11, 0, 0, false, .regS⟩, ⟨7, 11, 0, 0, false, .regS⟩, ⟨0, 3, 0, 0, false, .rng 1 5⟩],
    fun _ => true, fun _ => true,
    fun h v => .ringp2 h (v.getD 0 0) (v.getD 1 0) (v.getD 2 0) (v.getD 3 0)⟩,
  ⟨0x2e, .rrr, [], ⟨[], [], false⟩,
    [⟨29, 11, 0, 0, false, .regS⟩, ⟨0, 3, 0, 0, false, .rng 1 5⟩],
    fun _ => true, fun _ => true,
    fun h v => .ringq h (v.getD 0 0) (v.getD 1 0)⟩,
  ⟨0x2f, .syn, [], ⟨[], [], false⟩,
    [⟨30, 10, 0, 0, false, .rng 0 63⟩, ⟨0, 30, 0, 34, false, .rng 0 65535⟩],
    fun _ => true, fun _ => true,
    fun h v => .semset h (v.getD 0 0) (v.getD 1 0)⟩]

/-- Encodings of the ctl words, part 3. -/
noncomputable def ctlRows3 : List Row := [
  ⟨0x30, .syn, [], ⟨[], [], false⟩,
    [⟨30, 10, 0, 0, false, .rng 0 63⟩, ⟨0, 5, 0, 0, false, .any⟩],
    fun _ => true, fun _ => true,
    fun h v => .semrd h (v.getD 0 0) (v.getD 1 0)⟩,
  ⟨0x31, .syn, [], ⟨[], [], false⟩,
    [⟨33, 3, 0, 0, false, .rng 0 5⟩, ⟨30, 3, 0, 0, false, .rng 0 5⟩, ⟨0, 5, 0, 0, false, .any⟩],
    fun _ => true, fun v => decide ((v.getD 0 0) ≠ (v.getD 1 0)),
    fun h v => .tokrd h (v.getD 0 0) (v.getD 1 0) (v.getD 2 0)⟩,
  ⟨0x32, .syn, [], ⟨[], [], false⟩,
    [⟨30, 10, 0, 0, false, .any⟩, ⟨0, 5, 0, 0, false, .any⟩],
    fun _ => true, fun _ => true,
    fun h v => .bhmap h (v.getD 0 0) (v.getD 1 0)⟩,
  ⟨0x33, .cmd, [], ⟨[], [], false⟩,
    [⟨32, 3, 0, 0, false, .rng 0 5⟩, ⟨35, 5, 0, 0, false, .rng 0 7⟩, ⟨0, 5, 0, 0, false, .any⟩],
    fun _ => true, fun _ => true,
    fun h v => .mtwr h (v.getD 0 0) (v.getD 1 0) (v.getD 2 0)⟩,
  ⟨0x34, .ri, [], ⟨[], [], false⟩,
    [⟨29, 11, 0, 0, false, .regS⟩, ⟨0, 29, 0, 35, true, .rng 0 4095⟩],
    fun _ => true, fun v => decide (sysAssigned (v.getD 1 0)),
    fun h v => .sysrd h (v.getD 0 0) (v.getD 1 0)⟩,
  ⟨0x35, .ri, [], ⟨[], [], false⟩,
    [⟨29, 11, 0, 0, false, .regS⟩, ⟨0, 29, 0, 35, true, .rng 0 4095⟩],
    fun _ => true, fun v => decide (sysAssigned (v.getD 1 0)),
    fun h v => .syswr h (v.getD 0 0) (v.getD 1 0)⟩,
  ⟨0x36, .none, [], ⟨[], [], false⟩,
    [],
    fun _ => true, fun _ => true,
    fun h _ => .done h⟩,
  ⟨0x37, .none, [], ⟨[], [], false⟩,
    [],
    fun _ => true, fun _ => true,
    fun h _ => .hend h⟩,
  ⟨0x38, .syn, [], ⟨[], [], false⟩,
    [⟨0, 5, 0, 0, false, .any⟩, ⟨8, 1, 0, 0, false, .any⟩, ⟨5, 3, 0, 0, false, .mods [0, 1, 2, 3, 4, 5]⟩, ⟨9, 4, 0, 0, false, .any⟩, ⟨13, 1, 0, 0, false, .any⟩, ⟨30, 10, 0, 0, false, .any⟩],
    fun v => decide (((v.getD 2 0) = 4 ∨ (v.getD 4 0) = 0) ∧ ((v.getD 4 0) = 1 ∨ (v.getD 3 0) = 0)), fun v => decide (((v.getD 1 0) = 0 ∨ 2 ≤ (v.getD 2 0)) ∧ objIndexOk (v.getD 2 0) (v.getD 5 0)),
    fun h v => .synrd h (v.getD 0 0) (v.getD 1 0) (v.getD 2 0) (v.getD 3 0) (v.getD 4 0) (v.getD 5 0)⟩,
  ⟨0x39, .syn, [], ⟨[], [2], false⟩,
    [⟨5, 3, 0, 0, false, .mods [0, 1, 2, 3, 4, 5]⟩, ⟨9, 4, 0, 0, false, .any⟩, ⟨13, 1, 0, 0, false, .any⟩, ⟨30, 10, 0, 0, false, .any⟩, ⟨14, 1, 0, 0, false, .any⟩],
    fun v => decide (((v.getD 0 0) = 4 ∨ (v.getD 2 0) = 0) ∧ ((v.getD 2 0) = 1 ∨ (v.getD 1 0) = 0)), fun v => decide (objIndexOk (v.getD 0 0) (v.getD 3 0)),
    fun h v => .scrub h (v.getD 0 0) (v.getD 1 0) (v.getD 2 0) (v.getD 3 0) (v.getD 4 0)⟩,
  ⟨0x3a, .syn, [], ⟨[0, 2, 4], [], false⟩,
    [⟨5, 3, 0, 0, false, .mods [0, 1, 2, 3, 4, 5]⟩, ⟨9, 4, 0, 0, false, .any⟩, ⟨13, 1, 0, 0, false, .any⟩, ⟨30, 10, 0, 0, false, .any⟩, ⟨14, 8, 0, 0, false, .rng 1 255⟩],
    fun v => decide (((v.getD 0 0) = 4 ∨ (v.getD 2 0) = 0) ∧ ((v.getD 2 0) = 1 ∨ (v.getD 1 0) = 0)), fun v => decide (objIndexOk (v.getD 0 0) (v.getD 3 0)),
    fun h v => .poison h (v.getD 0 0) (v.getD 1 0) (v.getD 2 0) (v.getD 3 0) (v.getD 4 0)⟩,
  ⟨0x3b, .syn, [(16, 2, 0)], ⟨[], [], false⟩,
    [⟨30, 10, 0, 0, false, .any⟩, ⟨0, 16, 0, 0, false, .rng 1 65535⟩],
    fun _ => true, fun _ => true,
    fun h v => .binitTile h (v.getD 0 0) (v.getD 1 0)⟩,
  ⟨0x3b, .syn, [(16, 2, 1)], ⟨[], [], false⟩,
    [⟨30, 10, 0, 0, false, .any⟩, ⟨0, 16, 0, 0, false, .rng 1 65535⟩],
    fun _ => true, fun _ => true,
    fun h v => .binitCol h (v.getD 0 0) (v.getD 1 0)⟩,
  ⟨0x3b, .syn, [(16, 2, 2)], ⟨[], [], false⟩,
    [⟨30, 10, 0, 0, false, .any⟩, ⟨0, 16, 0, 0, false, .rng 1 65535⟩, ⟨18, 4, 0, 0, false, .any⟩],
    fun _ => true, fun _ => true,
    fun h v => .binitDev h (v.getD 0 0) (v.getD 1 0) (v.getD 2 0)⟩,
  ⟨0x3c, .syn, [], ⟨[0, 2, 4], [], false⟩,
    [⟨30, 10, 0, 0, false, .rng 0 255⟩, ⟨0, 5, 0, 0, false, .any⟩],
    fun _ => true, fun _ => true,
    fun h v => .cwpost h (v.getD 0 0) (v.getD 1 0)⟩,
  ⟨0x3d, .none, [], ⟨[1, 2, 3, 4], [], false⟩,
    [],
    fun _ => true, fun _ => true,
    fun h _ => .ctlFence h⟩,
  ⟨0x3e, .cmd, [], ⟨[], [], true⟩,
    [⟨32, 4, 0, 0, false, .any⟩, ⟨36, 1, 0, 0, false, .any⟩, ⟨0, 5, 0, 0, false, .any⟩, ⟨5, 5, 0, 0, false, .rng 1 31⟩],
    fun v => decide ((v.getD 1 0) = 1 ∨ (v.getD 0 0) = 0), fun _ => true,
    fun h v => .bsflush h (v.getD 0 0) (v.getD 1 0) (v.getD 2 0) (v.getD 3 0)⟩,
  ⟨0x3f, .cmd, [], ⟨[], [], true⟩,
    [⟨32, 4, 0, 0, false, .any⟩, ⟨36, 1, 0, 0, false, .any⟩, ⟨0, 5, 0, 0, false, .any⟩, ⟨5, 5, 0, 0, false, .rng 1 31⟩],
    fun v => decide ((v.getD 1 0) = 1 ∨ (v.getD 0 0) = 0), fun _ => true,
    fun h v => .bsinv h (v.getD 0 0) (v.getD 1 0) (v.getD 2 0) (v.getD 3 0)⟩,
  ⟨0x40, .ri, [], ⟨[], [], true⟩,
    [⟨29, 11, 0, 0, false, .regS⟩, ⟨0, 5, 0, 0, false, .any⟩],
    fun _ => true, fun _ => true,
    fun h v => .bspset h (v.getD 0 0) (v.getD 1 0)⟩,
  ⟨0x41, .cmd, [], ⟨[0, 2, 4], [], false⟩,
    [⟨0, 10, 0, 0, false, .any⟩, ⟨23, 1, 0, 0, false, .any⟩, ⟨15, 8, 0, 0, false, .any⟩],
    fun v => decide ((v.getD 1 0) = 1 ∨ (v.getD 2 0) = 0), fun _ => true,
    fun h v => .launch h (v.getD 0 0) (v.getD 1 0) (v.getD 2 0)⟩,
  ⟨0x42, .cmd, [(0, 1, 0)], ⟨[], [], true⟩,
    [⟨32, 4, 0, 0, false, .any⟩, ⟨8, 4, 0, 0, false, .any⟩],
    fun _ => true, fun _ => true,
    fun h v => .preemptStop h (v.getD 0 0) (v.getD 1 0)⟩,
  ⟨0x42, .cmd, [(0, 1, 1)], ⟨[], [], true⟩,
    [⟨32, 4, 0, 0, false, .any⟩, ⟨8, 4, 0, 0, false, .any⟩],
    fun _ => true, fun _ => true,
    fun h v => .preemptResume h (v.getD 0 0) (v.getD 1 0)⟩,
  ⟨0x43, .ri, [], ⟨[], [], true⟩,
    [⟨29, 11, 0, 0, false, .regS⟩, ⟨0, 12, 0, 0, false, .any⟩, ⟨12, 4, 0, 0, false, .any⟩, ⟨16, 4, 0, 0, false, .any⟩],
    fun _ => true, fun v => decide (snapAssigned (v.getD 1 0)),
    fun h v => .snaprd h (v.getD 0 0) (v.getD 1 0) (v.getD 2 0) (v.getD 3 0)⟩,
  ⟨0x44, .ri, [], ⟨[], [], true⟩,
    [⟨29, 11, 0, 0, false, .regS⟩, ⟨0, 12, 0, 0, false, .any⟩, ⟨12, 4, 0, 0, false, .any⟩, ⟨16, 4, 0, 0, false, .any⟩],
    fun _ => true, fun v => decide (snapAssigned (v.getD 1 0)),
    fun h v => .snapwr h (v.getD 0 0) (v.getD 1 0) (v.getD 2 0) (v.getD 3 0)⟩]

/-- Encodings of the ctl words, part 4. -/
noncomputable def ctlRows4 : List Row := [
  ⟨0x45, .cmd, [], ⟨[], [], true⟩,
    [⟨32, 4, 0, 0, false, .any⟩, ⟨8, 4, 0, 0, false, .any⟩, ⟨0, 1, 0, 0, false, .any⟩],
    fun _ => true, fun _ => true,
    fun h v => .ctxsave h (v.getD 0 0) (v.getD 1 0) (v.getD 2 0)⟩,
  ⟨0x46, .cmd, [], ⟨[], [], true⟩,
    [⟨32, 4, 0, 0, false, .any⟩, ⟨8, 4, 0, 0, false, .any⟩],
    fun _ => true, fun _ => true,
    fun h v => .ctxrest h (v.getD 0 0) (v.getD 1 0)⟩,
  ⟨0x47, .none, [], ⟨[], [], true⟩,
    [],
    fun _ => true, fun _ => true,
    fun h _ => .ctxscrub h⟩,
  ⟨0x48, .ri, [], ⟨[], [], true⟩,
    [⟨0, 8, 0, 0, false, .rng 1 255⟩],
    fun _ => true, fun _ => true,
    fun h v => .ctxkill h (v.getD 0 0)⟩,
  ⟨0x49, .rrr, [], ⟨[], [], true⟩,
    [⟨29, 11, 0, 0, false, .regS⟩, ⟨18, 11, 0, 0, false, .regS⟩, ⟨7, 11, 0, 0, false, .regS⟩],
    fun _ => true, fun _ => true,
    fun h v => .tld h (v.getD 0 0) (v.getD 1 0) (v.getD 2 0)⟩,
  ⟨0x4a, .rrr, [], ⟨[], [], true⟩,
    [⟨29, 11, 0, 0, false, .regS⟩, ⟨18, 11, 0, 0, false, .regS⟩, ⟨7, 11, 0, 0, false, .regS⟩, ⟨0, 1, 0, 0, false, .any⟩],
    fun _ => true, fun _ => true,
    fun h v => .trde h (v.getD 0 0) (v.getD 1 0) (v.getD 2 0) (v.getD 3 0)⟩,
  ⟨0x4b, .rrr, [], ⟨[], [], true⟩,
    [⟨29, 11, 0, 0, false, .regS⟩, ⟨18, 11, 0, 0, false, .regS⟩, ⟨7, 11, 0, 0, false, .regS⟩],
    fun _ => true, fun _ => true,
    fun h v => .tmap h (v.getD 0 0) (v.getD 1 0) (v.getD 2 0)⟩,
  ⟨0x4c, .rrr, [], ⟨[], [], true⟩,
    [⟨29, 11, 0, 0, false, .regS⟩, ⟨18, 11, 0, 0, false, .regS⟩, ⟨0, 2, 0, 0, false, .mods [1, 2]⟩, ⟨2, 1, 0, 0, false, .any⟩],
    fun _ => true, fun _ => true,
    fun h v => .tunmap h (v.getD 0 0) (v.getD 1 0) (v.getD 2 0) (v.getD 3 0)⟩,
  ⟨0x4d, .rrr, [], ⟨[], [], true⟩,
    [⟨29, 11, 0, 0, false, .regS⟩, ⟨18, 11, 0, 0, false, .regS⟩, ⟨7, 11, 0, 0, false, .regS⟩, ⟨0, 1, 0, 0, false, .any⟩, ⟨1, 1, 0, 0, false, .any⟩],
    fun _ => true, fun _ => true,
    fun h v => .tshd h (v.getD 0 0) (v.getD 1 0) (v.getD 2 0) (v.getD 3 0) (v.getD 4 0)⟩,
  ⟨0x4e, .rrr, [], ⟨[], [], false⟩,
    [⟨29, 11, 0, 0, false, .regS⟩, ⟨18, 11, 0, 0, false, .regS⟩],
    fun _ => true, fun _ => true,
    fun h v => .tprb h (v.getD 0 0) (v.getD 1 0)⟩,
  ⟨0x4f, .ri, [], ⟨[], [], false⟩,
    [⟨29, 11, 0, 0, false, .regS⟩, ⟨0, 8, 0, 0, false, .rng 96 255⟩],
    fun _ => true, fun _ => true,
    fun h v => .trap h (v.getD 0 0) (v.getD 1 0)⟩,
  ⟨0x50, .none, [], ⟨[], [], false⟩,
    [],
    fun _ => true, fun _ => true,
    fun h _ => .tret h⟩,
  ⟨0x51, .rri, [], ⟨[], [], false⟩,
    [⟨29, 11, 0, 0, false, .regS⟩, ⟨18, 11, 0, 0, false, .regS⟩, ⟨0, 18, 0, 40, true, .any⟩],
    fun _ => true, fun v => decide ((v.getD 0 0) ≤ (v.getD 1 0) ∧ (v.getD 2 0) < 2 ^ 63),
    fun h v => .tspill h (v.getD 0 0) (v.getD 1 0) (v.getD 2 0)⟩,
  ⟨0x52, .rri, [], ⟨[], [], false⟩,
    [⟨29, 11, 0, 0, false, .regS⟩, ⟨18, 11, 0, 0, false, .regS⟩, ⟨0, 18, 0, 40, true, .any⟩],
    fun _ => true, fun v => decide ((v.getD 0 0) ≤ (v.getD 1 0) ∧ (v.getD 2 0) < 2 ^ 63),
    fun h v => .tfill h (v.getD 0 0) (v.getD 1 0) (v.getD 2 0)⟩,
  ⟨0x53, .ri, [], ⟨[], [], true⟩,
    [⟨29, 11, 0, 0, false, .regS⟩, ⟨0, 3, 0, 0, false, .rng 0 5⟩, ⟨3, 2, 0, 0, false, .any⟩],
    fun _ => true, fun v => decide ((v.getD 1 0) = 2 ∨ (v.getD 2 0) = 0),
    fun h v => .stest h (v.getD 0 0) (v.getD 1 0) (v.getD 2 0)⟩,
  ⟨0x54, .ri, [(5, 1, 0)], ⟨[], [], true⟩,
    [⟨29, 11, 0, 0, false, .regS⟩, ⟨0, 4, 0, 0, false, .any⟩, ⟨4, 1, 0, 0, false, .any⟩],
    fun _ => true, fun _ => true,
    fun h v => .errrd h (v.getD 0 0) (v.getD 1 0) (v.getD 2 0)⟩,
  ⟨0x54, .ri, [(5, 1, 1)], ⟨[], [], true⟩,
    [⟨29, 11, 0, 0, false, .regS⟩, ⟨6, 1, 0, 0, false, .any⟩],
    fun _ => true, fun _ => true,
    fun h v => .errrdSt h (v.getD 0 0) (v.getD 1 0)⟩]

/-- Encodings of the ctl words (02 R52 to R56 and the chapters they name). -/
noncomputable def ctlRows : List Row := ctlRows1 ++ ctlRows2 ++ ctlRows3 ++ ctlRows4

/-- Encodings of the acc words, part 1. -/
noncomputable def accRows1 : List Row := [
  ⟨0x1, .mem, [], ⟨[0, 1, 4], [], false⟩,
    [⟨36, 4, 0, 0, false, .lqIx⟩, ⟨32, 4, 0, 0, false, .any⟩, ⟨27, 5, 0, 0, false, .any⟩, ⟨24, 3, 0, 0, false, .mods [0, 1, 2, 3, 4, 7]⟩, ⟨0, 24, 0, 40, true, .any⟩],
    fun v => decide ((v.getD 3 0) ≠ 7 ∨ (v.getD 2 0) = 0), fun _ => true,
    fun h v => .ldq h (v.getD 0 0) (v.getD 1 0) (v.getD 2 0) (v.getD 3 0) (v.getD 4 0)⟩,
  ⟨0x2, .cmd, [], ⟨[0, 1, 4], [], false⟩,
    [⟨36, 4, 0, 0, false, .lqIx⟩, ⟨32, 4, 0, 0, false, .any⟩, ⟨27, 5, 0, 0, false, .any⟩, ⟨22, 5, 0, 0, false, .any⟩, ⟨20, 2, 0, 0, false, .any⟩, ⟨16, 4, 0, 0, false, .any⟩, ⟨0, 16, 0, 0, true, .any⟩],
    fun _ => true, fun _ => true,
    fun h v => .ldqs h (v.getD 0 0) (v.getD 1 0) (v.getD 2 0) (v.getD 3 0) (v.getD 4 0) (v.getD 5 0) (v.getD 6 0)⟩,
  ⟨0x3, .cmd, [], ⟨[0, 1, 4], [], false⟩,
    [⟨36, 4, 0, 0, false, .lqIx⟩, ⟨32, 4, 0, 0, false, .any⟩, ⟨28, 4, 0, 0, false, .any⟩, ⟨23, 5, 0, 0, false, .any⟩, ⟨18, 5, 0, 0, false, .any⟩, ⟨16, 2, 0, 0, false, .any⟩, ⟨12, 4, 0, 0, false, .any⟩],
    fun _ => true, fun _ => true,
    fun h v => .ldqg h (v.getD 0 0) (v.getD 1 0) (v.getD 2 0) (v.getD 3 0) (v.getD 4 0) (v.getD 5 0) (v.getD 6 0)⟩,
  ⟨0x4, .mem, [], ⟨[0, 2, 4], [1], false⟩,
    [⟨36, 4, 0, 0, false, .sqIx⟩, ⟨32, 4, 0, 0, false, .any⟩, ⟨27, 5, 0, 0, false, .any⟩, ⟨24, 3, 0, 0, false, .mods [0, 1, 2, 3, 4, 7]⟩, ⟨0, 24, 0, 40, true, .any⟩],
    fun v => decide ((v.getD 3 0) ≠ 7 ∨ (v.getD 2 0) = 0), fun _ => true,
    fun h v => .stq h (v.getD 0 0) (v.getD 1 0) (v.getD 2 0) (v.getD 3 0) (v.getD 4 0)⟩,
  ⟨0x5, .cmd, [], ⟨[0, 2, 4], [1], false⟩,
    [⟨36, 4, 0, 0, false, .sqIx⟩, ⟨32, 4, 0, 0, false, .any⟩, ⟨27, 5, 0, 0, false, .any⟩, ⟨22, 5, 0, 0, false, .any⟩, ⟨20, 2, 0, 0, false, .any⟩, ⟨16, 4, 0, 0, false, .any⟩, ⟨0, 16, 0, 0, true, .any⟩],
    fun _ => true, fun _ => true,
    fun h v => .stqs h (v.getD 0 0) (v.getD 1 0) (v.getD 2 0) (v.getD 3 0) (v.getD 4 0) (v.getD 5 0) (v.getD 6 0)⟩,
  ⟨0x6, .cmd, [], ⟨[0, 2, 4], [1], false⟩,
    [⟨36, 4, 0, 0, false, .sqIx⟩, ⟨32, 4, 0, 0, false, .any⟩, ⟨28, 4, 0, 0, false, .any⟩, ⟨23, 5, 0, 0, false, .any⟩, ⟨18, 5, 0, 0, false, .any⟩, ⟨16, 2, 0, 0, false, .any⟩, ⟨12, 4, 0, 0, false, .any⟩],
    fun _ => true, fun _ => true,
    fun h v => .stqg h (v.getD 0 0) (v.getD 1 0) (v.getD 2 0) (v.getD 3 0) (v.getD 4 0) (v.getD 5 0) (v.getD 6 0)⟩,
  ⟨0x7, .rri, [], ⟨[0, 1, 4], [], false⟩,
    [⟨29, 11, 0, 0, false, .regA⟩, ⟨18, 11, 0, 0, false, .regC⟩, ⟨0, 18, 0, 40, true, .any⟩],
    fun _ => true, fun _ => true,
    fun h v => .ldb h (v.getD 0 0) (v.getD 1 0) (v.getD 2 0)⟩,
  ⟨0x8, .rri, [], ⟨[0, 1, 4], [], false⟩,
    [⟨29, 11, 0, 0, false, .regA⟩, ⟨18, 11, 0, 0, false, .regC⟩, ⟨0, 18, 0, 40, true, .any⟩],
    fun _ => true, fun _ => true,
    fun h v => .ldh h (v.getD 0 0) (v.getD 1 0) (v.getD 2 0)⟩,
  ⟨0x9, .rri, [], ⟨[0, 1, 4], [], false⟩,
    [⟨29, 11, 0, 0, false, .regA⟩, ⟨18, 11, 0, 0, false, .regC⟩, ⟨0, 18, 0, 40, true, .any⟩],
    fun _ => true, fun _ => true,
    fun h v => .ldw h (v.getD 0 0) (v.getD 1 0) (v.getD 2 0)⟩,
  ⟨0xa, .rri, [], ⟨[0, 1, 4], [], false⟩,
    [⟨29, 11, 0, 0, false, .regA⟩, ⟨18, 11, 0, 0, false, .regC⟩, ⟨0, 18, 0, 40, true, .any⟩],
    fun _ => true, fun _ => true,
    fun h v => .ldd h (v.getD 0 0) (v.getD 1 0) (v.getD 2 0)⟩,
  ⟨0xb, .rri, [], ⟨[0, 2, 4], [1], false⟩,
    [⟨29, 11, 0, 0, false, .regA⟩, ⟨18, 11, 0, 0, false, .regC⟩, ⟨0, 18, 0, 40, true, .any⟩],
    fun _ => true, fun _ => true,
    fun h v => .stb h (v.getD 0 0) (v.getD 1 0) (v.getD 2 0)⟩,
  ⟨0xc, .rri, [], ⟨[0, 2, 4], [1], false⟩,
    [⟨29, 11, 0, 0, false, .regA⟩, ⟨18, 11, 0, 0, false, .regC⟩, ⟨0, 18, 0, 40, true, .any⟩],
    fun _ => true, fun _ => true,
    fun h v => .sth h (v.getD 0 0) (v.getD 1 0) (v.getD 2 0)⟩,
  ⟨0xd, .rri, [], ⟨[0, 2, 4], [1], false⟩,
    [⟨29, 11, 0, 0, false, .regA⟩, ⟨18, 11, 0, 0, false, .regC⟩, ⟨0, 18, 0, 40, true, .any⟩],
    fun _ => true, fun _ => true,
    fun h v => .stw h (v.getD 0 0) (v.getD 1 0) (v.getD 2 0)⟩,
  ⟨0xe, .rri, [], ⟨[0, 2, 4], [1], false⟩,
    [⟨29, 11, 0, 0, false, .regA⟩, ⟨18, 11, 0, 0, false, .regC⟩, ⟨0, 18, 0, 40, true, .any⟩],
    fun _ => true, fun _ => true,
    fun h v => .std h (v.getD 0 0) (v.getD 1 0) (v.getD 2 0)⟩,
  ⟨0xf, .rri, [], ⟨[0, 1, 4], [], false⟩,
    [⟨29, 11, 0, 0, false, .regC⟩, ⟨18, 11, 0, 0, false, .regC⟩, ⟨0, 18, 0, 40, true, .any⟩],
    fun _ => true, fun _ => true,
    fun h v => .cld h (v.getD 0 0) (v.getD 1 0) (v.getD 2 0)⟩,
  ⟨0x10, .rri, [], ⟨[0, 2, 4], [], false⟩,
    [⟨29, 11, 0, 0, false, .regC⟩, ⟨18, 11, 0, 0, false, .regC⟩, ⟨0, 18, 0, 40, true, .any⟩],
    fun _ => true, fun _ => true,
    fun h v => .cst h (v.getD 0 0) (v.getD 1 0) (v.getD 2 0)⟩,
  ⟨0x11, .rrr, [(0, 7, 0)], ⟨[], [], false⟩,
    [⟨29, 11, 0, 0, false, .regC⟩, ⟨18, 11, 0, 0, false, .regC⟩, ⟨7, 11, 0, 0, false, .regA⟩],
    fun _ => true, fun _ => true,
    fun h v => .cder h (v.getD 0 0) (v.getD 1 0) (v.getD 2 0)⟩,
  ⟨0x11, .rrr, [(0, 7, 1)], ⟨[], [], false⟩,
    [⟨29, 11, 0, 0, false, .regC⟩, ⟨18, 11, 0, 0, false, .regC⟩, ⟨7, 11, 0, 0, false, .regA⟩],
    fun _ => true, fun _ => true,
    fun h v => .cderLen h (v.getD 0 0) (v.getD 1 0) (v.getD 2 0)⟩,
  ⟨0x12, .rri, [], ⟨[], [], false⟩,
    [⟨29, 11, 0, 0, false, .regC⟩, ⟨18, 11, 0, 0, false, .regC⟩, ⟨0, 12, 0, 0, false, .any⟩],
    fun _ => true, fun _ => true,
    fun h v => .cperm h (v.getD 0 0) (v.getD 1 0) (v.getD 2 0)⟩,
  ⟨0x13, .rrr, [], ⟨[], [], false⟩,
    [⟨29, 11, 0, 0, false, .regA⟩, ⟨18, 11, 0, 0, false, .regC⟩, ⟨0, 7, 0, 0, false, .mods [0, 1, 2, 3, 4]⟩],
    fun _ => true, fun _ => true,
    fun h v => .cget h (v.getD 0 0) (v.getD 1 0) (v.getD 2 0)⟩,
  ⟨0x14, .rrr, [], ⟨[], [], false⟩,
    [⟨29, 11, 0, 0, false, .regA⟩, ⟨18, 11, 0, 0, false, .regC⟩, ⟨7, 11, 0, 0, false, .regA⟩, ⟨0, 3, 0, 0, false, .any⟩],
    fun _ => true, fun _ => true,
    fun h v => .ctest h (v.getD 0 0) (v.getD 1 0) (v.getD 2 0) (v.getD 3 0)⟩,
  ⟨0x15, .rrr, [], ⟨[], [], false⟩,
    [⟨29, 11, 0, 0, false, .regA⟩, ⟨18, 11, 0, 0, false, .regA⟩, ⟨7, 11, 0, 0, false, .regA⟩],
    fun _ => true, fun _ => true,
    fun h v => .aadd h (v.getD 0 0) (v.getD 1 0) (v.getD 2 0)⟩,
  ⟨0x16, .rrr, [], ⟨[], [], false⟩,
    [⟨29, 11, 0, 0, false, .regA⟩, ⟨18, 11, 0, 0, false, .regA⟩, ⟨7, 11, 0, 0, false, .regA⟩],
    fun _ => true, fun _ => true,
    fun h v => .asub h (v.getD 0 0) (v.getD 1 0) (v.getD 2 0)⟩,
  ⟨0x17, .rri, [], ⟨[], [], false⟩,
    [⟨29, 11, 0, 0, false, .regA⟩, ⟨18, 11, 0, 0, false, .regA⟩, ⟨0, 18, 0, 40, true, .any⟩],
    fun _ => true, fun _ => true,
    fun h v => .aaddi h (v.getD 0 0) (v.getD 1 0) (v.getD 2 0)⟩]

/-- Encodings of the acc words, part 2. -/
noncomputable def accRows2 : List Row := [
  ⟨0x18, .rri, [], ⟨[], [], false⟩,
    [⟨29, 11, 0, 0, false, .regA⟩, ⟨18, 11, 0, 0, false, .regA⟩, ⟨0, 18, 0, 40, true, .any⟩],
    fun _ => true, fun _ => true,
    fun h v => .amuli h (v.getD 0 0) (v.getD 1 0) (v.getD 2 0)⟩,
  ⟨0x19, .rri, [], ⟨[], [], false⟩,
    [⟨29, 11, 0, 0, false, .regA⟩, ⟨18, 11, 0, 0, false, .regA⟩, ⟨0, 6, 0, 0, false, .any⟩],
    fun _ => true, fun _ => true,
    fun h v => .ashli h (v.getD 0 0) (v.getD 1 0) (v.getD 2 0)⟩,
  ⟨0x1a, .rri, [], ⟨[], [], false⟩,
    [⟨29, 11, 0, 0, false, .regA⟩, ⟨18, 11, 0, 0, false, .regA⟩, ⟨0, 18, 0, 40, true, .any⟩],
    fun _ => true, fun _ => true,
    fun h v => .aandi h (v.getD 0 0) (v.getD 1 0) (v.getD 2 0)⟩,
  ⟨0x1b, .ri, [], ⟨[], [], false⟩,
    [⟨29, 11, 0, 0, false, .regA⟩, ⟨0, 29, 0, 35, true, .any⟩],
    fun _ => true, fun _ => true,
    fun h v => .ali h (v.getD 0 0) (v.getD 1 0)⟩,
  ⟨0x1c, .cmd, [], ⟨[], [], false⟩,
    [⟨32, 3, 0, 0, false, .rng 2 5⟩, ⟨0, 5, 0, 0, false, .any⟩],
    fun _ => true, fun _ => true,
    fun h v => .rdset h (v.getD 0 0) (v.getD 1 0)⟩,
  ⟨0x1d, .cmd, [], ⟨[], [], false⟩,
    [⟨32, 3, 0, 0, false, .rng 2 5⟩, ⟨0, 5, 0, 0, false, .any⟩],
    fun _ => true, fun _ => true,
    fun h v => .rdget h (v.getD 0 0) (v.getD 1 0)⟩,
  ⟨0x1e, .none, [], ⟨[0, 1, 2, 3, 4], [], false⟩,
    [],
    fun _ => true, fun _ => true,
    fun h _ => .mark h⟩,
  ⟨0x1f, .rrr, [], ⟨[0, 1, 2, 3, 4], [], false⟩,
    [⟨29, 11, 0, 0, false, .regA⟩, ⟨18, 11, 0, 0, false, .regC⟩, ⟨7, 11, 0, 0, false, .regA⟩, ⟨0, 1, 0, 0, false, .any⟩],
    fun _ => true, fun _ => true,
    fun h v => .amoadd h (v.getD 0 0) (v.getD 1 0) (v.getD 2 0) (v.getD 3 0)⟩,
  ⟨0x20, .rrr, [], ⟨[0, 1, 2, 3, 4], [], false⟩,
    [⟨29, 11, 0, 0, false, .regA⟩, ⟨18, 11, 0, 0, false, .regC⟩, ⟨7, 11, 0, 0, false, .regA⟩, ⟨0, 1, 0, 0, false, .mods [1]⟩],
    fun _ => true, fun _ => true,
    fun h v => .amofadd h (v.getD 0 0) (v.getD 1 0) (v.getD 2 0) (v.getD 3 0)⟩,
  ⟨0x21, .rrr, [], ⟨[0, 1, 2, 3, 4], [], false⟩,
    [⟨29, 11, 0, 0, false, .regA⟩, ⟨18, 11, 0, 0, false, .regC⟩, ⟨7, 11, 0, 0, false, .regA⟩, ⟨0, 1, 0, 0, false, .any⟩, ⟨1, 1, 0, 0, false, .any⟩],
    fun _ => true, fun _ => true,
    fun h v => .amomin h (v.getD 0 0) (v.getD 1 0) (v.getD 2 0) (v.getD 3 0) (v.getD 4 0)⟩,
  ⟨0x22, .rrr, [], ⟨[0, 1, 2, 3, 4], [], false⟩,
    [⟨29, 11, 0, 0, false, .regA⟩, ⟨18, 11, 0, 0, false, .regC⟩, ⟨7, 11, 0, 0, false, .regA⟩, ⟨0, 1, 0, 0, false, .any⟩, ⟨1, 1, 0, 0, false, .any⟩],
    fun _ => true, fun _ => true,
    fun h v => .amomax h (v.getD 0 0) (v.getD 1 0) (v.getD 2 0) (v.getD 3 0) (v.getD 4 0)⟩,
  ⟨0x23, .rrr, [], ⟨[0, 1, 2, 3, 4], [], false⟩,
    [⟨29, 11, 0, 0, false, .regA⟩, ⟨18, 11, 0, 0, false, .regC⟩, ⟨7, 11, 0, 0, false, .regA⟩, ⟨0, 1, 0, 0, false, .any⟩],
    fun _ => true, fun _ => true,
    fun h v => .amoand h (v.getD 0 0) (v.getD 1 0) (v.getD 2 0) (v.getD 3 0)⟩,
  ⟨0x24, .rrr, [], ⟨[0, 1, 2, 3, 4], [], false⟩,
    [⟨29, 11, 0, 0, false, .regA⟩, ⟨18, 11, 0, 0, false, .regC⟩, ⟨7, 11, 0, 0, false, .regA⟩, ⟨0, 1, 0, 0, false, .any⟩],
    fun _ => true, fun _ => true,
    fun h v => .amoor h (v.getD 0 0) (v.getD 1 0) (v.getD 2 0) (v.getD 3 0)⟩,
  ⟨0x25, .rrr, [], ⟨[0, 1, 2, 3, 4], [], false⟩,
    [⟨29, 11, 0, 0, false, .regA⟩, ⟨18, 11, 0, 0, false, .regC⟩, ⟨7, 11, 0, 0, false, .regA⟩, ⟨0, 1, 0, 0, false, .any⟩],
    fun _ => true, fun _ => true,
    fun h v => .amoxor h (v.getD 0 0) (v.getD 1 0) (v.getD 2 0) (v.getD 3 0)⟩,
  ⟨0x26, .rrr, [], ⟨[0, 1, 2, 3, 4], [], false⟩,
    [⟨29, 11, 0, 0, false, .regA⟩, ⟨18, 11, 0, 0, false, .regC⟩, ⟨7, 11, 0, 0, false, .regA⟩, ⟨0, 1, 0, 0, false, .any⟩],
    fun _ => true, fun _ => true,
    fun h v => .amoswp h (v.getD 0 0) (v.getD 1 0) (v.getD 2 0) (v.getD 3 0)⟩,
  ⟨0x27, .rrr, [], ⟨[0, 1, 2, 3, 4], [], false⟩,
    [⟨29, 11, 0, 0, false, .regA⟩, ⟨18, 11, 0, 0, false, .regC⟩, ⟨7, 11, 0, 0, false, .regA⟩, ⟨0, 1, 0, 0, false, .any⟩],
    fun _ => true, fun _ => true,
    fun h v => .amocas h (v.getD 0 0) (v.getD 1 0) (v.getD 2 0) (v.getD 3 0)⟩,
  ⟨0x28, .rrr, [], ⟨[0, 1, 4], [], false⟩,
    [⟨29, 11, 0, 0, false, .regA⟩, ⟨18, 11, 0, 0, false, .regC⟩, ⟨7, 11, 0, 0, false, .regA⟩, ⟨0, 4, 0, 0, false, .any⟩],
    fun _ => true, fun _ => true,
    fun h v => .mwait h (v.getD 0 0) (v.getD 1 0) (v.getD 2 0) (v.getD 3 0)⟩,
  ⟨0x29, .cmd, [], ⟨[0, 2, 4], [1], false⟩,
    [⟨36, 4, 0, 0, false, .any⟩, ⟨32, 4, 0, 0, false, .any⟩, ⟨27, 5, 0, 0, false, .any⟩, ⟨22, 5, 0, 0, false, .any⟩, ⟨17, 5, 0, 0, false, .any⟩, ⟨16, 1, 0, 0, false, .any⟩, ⟨10, 6, 0, 0, false, .any⟩],
    fun _ => true, fun _ => true,
    fun h v => .putr h (v.getD 0 0) (v.getD 1 0) (v.getD 2 0) (v.getD 3 0) (v.getD 4 0) (v.getD 5 0) (v.getD 6 0)⟩,
  ⟨0x2a, .cmd, [], ⟨[0, 2, 4], [1], false⟩,
    [⟨36, 4, 0, 0, false, .any⟩, ⟨32, 4, 0, 0, false, .any⟩, ⟨27, 5, 0, 0, false, .any⟩, ⟨22, 5, 0, 0, false, .any⟩, ⟨17, 5, 0, 0, false, .any⟩, ⟨12, 5, 0, 0, false, .any⟩, ⟨7, 5, 0, 0, false, .any⟩],
    fun _ => true, fun _ => true,
    fun h v => .puth h (v.getD 0 0) (v.getD 1 0) (v.getD 2 0) (v.getD 3 0) (v.getD 4 0) (v.getD 5 0) (v.getD 6 0)⟩,
  ⟨0x2b, .cmd, [], ⟨[0, 2, 4], [1], false⟩,
    [⟨36, 4, 0, 0, false, .any⟩, ⟨32, 4, 0, 0, false, .any⟩, ⟨27, 5, 0, 0, false, .any⟩, ⟨22, 5, 0, 0, false, .any⟩, ⟨17, 5, 0, 0, false, .any⟩, ⟨14, 3, 0, 0, false, .mods [0, 1, 2, 3, 4, 5]⟩, ⟨12, 2, 0, 0, false, .mods [0, 1, 2]⟩, ⟨11, 1, 0, 0, false, .any⟩, ⟨5, 6, 0, 0, false, .any⟩],
    fun v => decide ((v.getD 6 0) ≠ 1 ∨ (v.getD 5 0) ≤ 2), fun _ => true,
    fun h v => .rred h (v.getD 0 0) (v.getD 1 0) (v.getD 2 0) (v.getD 3 0) (v.getD 4 0) (v.getD 5 0) (v.getD 6 0) (v.getD 7 0) (v.getD 8 0)⟩,
  ⟨0x2c, .syn, [], ⟨[0, 1, 2, 3, 4], [], false⟩,
    [⟨30, 8, 0, 0, false, .any⟩, ⟨0, 5, 0, 0, false, .any⟩, ⟨5, 5, 0, 0, false, .any⟩, ⟨10, 4, 0, 0, false, .any⟩, ⟨14, 1, 0, 0, false, .any⟩],
    fun v => decide ((v.getD 4 0) = 1 ∨ (v.getD 3 0) = 0), fun v => decide ((v.getD 1 0) ≠ (v.getD 2 0)),
    fun h v => .dqpush h (v.getD 0 0) (v.getD 1 0) (v.getD 2 0) (v.getD 3 0) (v.getD 4 0)⟩,
  ⟨0x2d, .syn, [], ⟨[0, 1, 2, 3, 4], [], false⟩,
    [⟨30, 8, 0, 0, false, .any⟩, ⟨0, 5, 0, 0, false, .any⟩, ⟨5, 5, 0, 0, false, .any⟩, ⟨10, 4, 0, 0, false, .any⟩, ⟨14, 1, 0, 0, false, .any⟩],
    fun v => decide ((v.getD 4 0) = 1 ∨ (v.getD 3 0) = 0), fun v => decide ((v.getD 1 0) ≠ (v.getD 2 0)),
    fun h v => .dqpop h (v.getD 0 0) (v.getD 1 0) (v.getD 2 0) (v.getD 3 0) (v.getD 4 0)⟩,
  ⟨0x2e, .syn, [], ⟨[0, 1, 2, 3, 4], [], false⟩,
    [⟨30, 8, 0, 0, false, .any⟩, ⟨0, 5, 0, 0, false, .any⟩, ⟨5, 5, 0, 0, false, .any⟩, ⟨10, 4, 0, 0, false, .any⟩, ⟨14, 1, 0, 0, false, .any⟩],
    fun v => decide ((v.getD 4 0) = 1 ∨ (v.getD 3 0) = 0), fun v => decide ((v.getD 1 0) ≠ (v.getD 2 0)),
    fun h v => .dqsteal h (v.getD 0 0) (v.getD 1 0) (v.getD 2 0) (v.getD 3 0) (v.getD 4 0)⟩,
  ⟨0x2f, .mem, [], ⟨[], [], false⟩,
    [⟨32, 4, 0, 0, false, .any⟩, ⟨27, 5, 0, 0, false, .any⟩, ⟨24, 3, 0, 0, false, .mods [0, 1, 2, 3, 4, 7]⟩, ⟨0, 24, 0, 40, true, .any⟩],
    fun v => decide ((v.getD 2 0) ≠ 7 ∨ (v.getD 1 0) = 0), fun _ => true,
    fun h v => .l1inv h (v.getD 0 0) (v.getD 1 0) (v.getD 2 0) (v.getD 3 0)⟩]

/-- Encodings of the acc words, part 3. -/
noncomputable def accRows3 : List Row := [
  ⟨0x30, .none, [], ⟨[], [], false⟩,
    [],
    fun _ => true, fun _ => true,
    fun h _ => .l1inva h⟩,
  ⟨0x31, .mem, [], ⟨[0], [], false⟩,
    [⟨36, 4, 0, 0, false, .mods [0, 1]⟩, ⟨32, 4, 0, 0, false, .any⟩, ⟨27, 5, 0, 0, false, .any⟩, ⟨24, 3, 0, 0, false, .mods [0, 1, 2, 3, 4, 7]⟩, ⟨0, 24, 0, 40, true, .any⟩],
    fun v => decide ((v.getD 3 0) ≠ 7 ∨ (v.getD 2 0) = 0), fun _ => true,
    fun h v => .pref h (v.getD 0 0) (v.getD 1 0) (v.getD 2 0) (v.getD 3 0) (v.getD 4 0)⟩,
  ⟨0x32, .rrr, [], ⟨[], [], false⟩,
    [⟨29, 11, 0, 0, false, .regQ⟩, ⟨0, 2, 0, 0, false, .any⟩],
    fun _ => true, fun _ => true,
    fun h v => .qdrop h (v.getD 0 0) (v.getD 1 0)⟩,
  ⟨0x33, .rrr, [], ⟨[], [], false⟩,
    [⟨29, 11, 0, 0, false, .regA⟩, ⟨18, 11, 0, 0, false, .regQ⟩],
    fun _ => true, fun _ => true,
    fun h v => .qrd h (v.getD 0 0) (v.getD 1 0)⟩,
  ⟨0x34, .none, [], ⟨[1, 2, 3, 4], [], false⟩,
    [],
    fun _ => true, fun _ => true,
    fun h _ => .accFence h⟩]

/-- Encodings of the acc words (02 R52 to R56 and the chapters they name). -/
noncomputable def accRows : List Row := accRows1 ++ accRows2 ++ accRows3

/-- Encodings of the vec words, part 1. -/
noncomputable def vecRows1 : List Row := [
  ⟨0x1, .rrr, [], ⟨[], [], false⟩,
    [⟨29, 11, 0, 0, false, .vDstSt⟩, ⟨18, 11, 0, 0, false, .vSrcSt⟩, ⟨7, 11, 0, 0, false, .vSrcSt⟩, ⟨0, 4, 0, 0, false, .mods [6, 7]⟩, ⟨4, 2, 0, 0, false, .any⟩, ⟨6, 1, 0, 0, false, .any⟩],
    fun _ => true, fun _ => true,
    fun h v => .vadd h (v.getD 0 0) (v.getD 1 0) (v.getD 2 0) (v.getD 3 0) (v.getD 4 0) (v.getD 5 0)⟩,
  ⟨0x2, .rrr, [], ⟨[], [], false⟩,
    [⟨29, 11, 0, 0, false, .vDstSt⟩, ⟨18, 11, 0, 0, false, .vSrcSt⟩, ⟨7, 11, 0, 0, false, .vSrcSt⟩, ⟨0, 4, 0, 0, false, .mods [6, 7]⟩, ⟨4, 2, 0, 0, false, .any⟩, ⟨6, 1, 0, 0, false, .any⟩],
    fun _ => true, fun _ => true,
    fun h v => .vsub h (v.getD 0 0) (v.getD 1 0) (v.getD 2 0) (v.getD 3 0) (v.getD 4 0) (v.getD 5 0)⟩,
  ⟨0x3, .rrr, [], ⟨[], [], false⟩,
    [⟨29, 11, 0, 0, false, .vDstSt⟩, ⟨18, 11, 0, 0, false, .vSrcSt⟩, ⟨7, 11, 0, 0, false, .vSrcSt⟩, ⟨0, 4, 0, 0, false, .mods [6, 7]⟩, ⟨4, 2, 0, 0, false, .any⟩, ⟨6, 1, 0, 0, false, .any⟩],
    fun _ => true, fun _ => true,
    fun h v => .vmul h (v.getD 0 0) (v.getD 1 0) (v.getD 2 0) (v.getD 3 0) (v.getD 4 0) (v.getD 5 0)⟩,
  ⟨0x4, .rrr, [], ⟨[], [], false⟩,
    [⟨29, 11, 0, 0, false, .vTied⟩, ⟨18, 11, 0, 0, false, .vSrcSt⟩, ⟨7, 11, 0, 0, false, .vSrcSt⟩, ⟨0, 4, 0, 0, false, .mods [6, 7]⟩, ⟨4, 2, 0, 0, false, .any⟩, ⟨6, 1, 0, 0, false, .any⟩],
    fun _ => true, fun _ => true,
    fun h v => .vfma h (v.getD 0 0) (v.getD 1 0) (v.getD 2 0) (v.getD 3 0) (v.getD 4 0) (v.getD 5 0)⟩,
  ⟨0x5, .rrr, [], ⟨[], [], false⟩,
    [⟨29, 11, 0, 0, false, .vTied⟩, ⟨18, 11, 0, 0, false, .vSrcSt⟩, ⟨7, 11, 0, 0, false, .vSrcSt⟩, ⟨0, 4, 0, 0, false, .mods [6, 7]⟩, ⟨4, 2, 0, 0, false, .any⟩, ⟨6, 1, 0, 0, false, .any⟩],
    fun _ => true, fun _ => true,
    fun h v => .vfms h (v.getD 0 0) (v.getD 1 0) (v.getD 2 0) (v.getD 3 0) (v.getD 4 0) (v.getD 5 0)⟩,
  ⟨0x6, .rrr, [], ⟨[], [], false⟩,
    [⟨29, 11, 0, 0, false, .vDstSt⟩, ⟨18, 11, 0, 0, false, .vSrcSt⟩, ⟨7, 11, 0, 0, false, .vSrcSt⟩, ⟨0, 4, 0, 0, false, .mods [6, 7]⟩, ⟨4, 2, 0, 0, false, .any⟩, ⟨6, 1, 0, 0, false, .any⟩],
    fun _ => true, fun _ => true,
    fun h v => .vdiv h (v.getD 0 0) (v.getD 1 0) (v.getD 2 0) (v.getD 3 0) (v.getD 4 0) (v.getD 5 0)⟩,
  ⟨0x7, .rrr, [], ⟨[], [], false⟩,
    [⟨29, 11, 0, 0, false, .vDstSt⟩, ⟨18, 11, 0, 0, false, .vSrcSt⟩, ⟨7, 11, 0, 0, false, .vSrcSt⟩, ⟨0, 4, 0, 0, false, .mods [6, 7]⟩],
    fun _ => true, fun _ => true,
    fun h v => .vmin h (v.getD 0 0) (v.getD 1 0) (v.getD 2 0) (v.getD 3 0)⟩,
  ⟨0x8, .rrr, [], ⟨[], [], false⟩,
    [⟨29, 11, 0, 0, false, .vDstSt⟩, ⟨18, 11, 0, 0, false, .vSrcSt⟩, ⟨7, 11, 0, 0, false, .vSrcSt⟩, ⟨0, 4, 0, 0, false, .mods [6, 7]⟩],
    fun _ => true, fun _ => true,
    fun h v => .vmax h (v.getD 0 0) (v.getD 1 0) (v.getD 2 0) (v.getD 3 0)⟩,
  ⟨0x9, .rrr, [], ⟨[], [], false⟩,
    [⟨29, 11, 0, 0, false, .vDstSt⟩, ⟨18, 11, 0, 0, false, .vSrcSt⟩, ⟨0, 4, 0, 0, false, .mods [6, 7]⟩],
    fun _ => true, fun _ => true,
    fun h v => .vabs h (v.getD 0 0) (v.getD 1 0) (v.getD 2 0)⟩,
  ⟨0xa, .rrr, [], ⟨[], [], false⟩,
    [⟨29, 11, 0, 0, false, .vDstSt⟩, ⟨18, 11, 0, 0, false, .vSrcSt⟩, ⟨0, 4, 0, 0, false, .mods [6, 7]⟩],
    fun _ => true, fun _ => true,
    fun h v => .vneg h (v.getD 0 0) (v.getD 1 0) (v.getD 2 0)⟩,
  ⟨0xb, .rrr, [], ⟨[], [], false⟩,
    [⟨29, 11, 0, 0, false, .vDstSt⟩, ⟨18, 11, 0, 0, false, .vSrcSt⟩, ⟨0, 4, 0, 0, false, .mods [6, 7]⟩, ⟨4, 2, 0, 0, false, .any⟩, ⟨6, 1, 0, 0, false, .any⟩],
    fun _ => true, fun _ => true,
    fun h v => .vsqrt h (v.getD 0 0) (v.getD 1 0) (v.getD 2 0) (v.getD 3 0) (v.getD 4 0)⟩,
  ⟨0xc, .rrr, [], ⟨[], [], false⟩,
    [⟨29, 11, 0, 0, false, .vDstSt⟩, ⟨18, 11, 0, 0, false, .vSrcSt⟩, ⟨0, 4, 0, 0, false, .mods [6, 7]⟩, ⟨4, 2, 0, 0, false, .any⟩, ⟨6, 1, 0, 0, false, .any⟩],
    fun _ => true, fun _ => true,
    fun h v => .vrsq h (v.getD 0 0) (v.getD 1 0) (v.getD 2 0) (v.getD 3 0) (v.getD 4 0)⟩,
  ⟨0xd, .rrr, [], ⟨[], [], false⟩,
    [⟨29, 11, 0, 0, false, .vDstSt⟩, ⟨18, 11, 0, 0, false, .vSrcSt⟩, ⟨0, 4, 0, 0, false, .mods [6, 7]⟩, ⟨4, 2, 0, 0, false, .any⟩, ⟨6, 1, 0, 0, false, .any⟩],
    fun _ => true, fun _ => true,
    fun h v => .vrcp h (v.getD 0 0) (v.getD 1 0) (v.getD 2 0) (v.getD 3 0) (v.getD 4 0)⟩,
  ⟨0xe, .rrr, [], ⟨[], [], false⟩,
    [⟨29, 11, 0, 0, false, .vDstSt⟩, ⟨18, 11, 0, 0, false, .vSrcSt⟩, ⟨0, 4, 0, 0, false, .mods [6, 7]⟩],
    fun _ => true, fun _ => true,
    fun h v => .vexp h (v.getD 0 0) (v.getD 1 0) (v.getD 2 0)⟩,
  ⟨0xf, .rrr, [], ⟨[], [], false⟩,
    [⟨29, 11, 0, 0, false, .vDstSt⟩, ⟨18, 11, 0, 0, false, .vSrcSt⟩, ⟨0, 4, 0, 0, false, .mods [6, 7]⟩],
    fun _ => true, fun _ => true,
    fun h v => .vexp2 h (v.getD 0 0) (v.getD 1 0) (v.getD 2 0)⟩,
  ⟨0x10, .rrr, [], ⟨[], [], false⟩,
    [⟨29, 11, 0, 0, false, .vDstSt⟩, ⟨18, 11, 0, 0, false, .vSrcSt⟩, ⟨0, 4, 0, 0, false, .mods [6, 7]⟩],
    fun _ => true, fun _ => true,
    fun h v => .vlog h (v.getD 0 0) (v.getD 1 0) (v.getD 2 0)⟩,
  ⟨0x11, .rrr, [], ⟨[], [], false⟩,
    [⟨29, 11, 0, 0, false, .vDstSt⟩, ⟨18, 11, 0, 0, false, .vSrcSt⟩, ⟨0, 4, 0, 0, false, .mods [6, 7]⟩],
    fun _ => true, fun _ => true,
    fun h v => .vlog2 h (v.getD 0 0) (v.getD 1 0) (v.getD 2 0)⟩,
  ⟨0x12, .rrr, [], ⟨[], [], false⟩,
    [⟨29, 11, 0, 0, false, .vDstSt⟩, ⟨18, 11, 0, 0, false, .vSrcSt⟩, ⟨0, 4, 0, 0, false, .mods [6, 7]⟩],
    fun _ => true, fun _ => true,
    fun h v => .vtanh h (v.getD 0 0) (v.getD 1 0) (v.getD 2 0)⟩,
  ⟨0x13, .rrr, [], ⟨[], [], false⟩,
    [⟨29, 11, 0, 0, false, .vDstSt⟩, ⟨18, 11, 0, 0, false, .vSrcSt⟩, ⟨0, 4, 0, 0, false, .mods [6, 7]⟩],
    fun _ => true, fun _ => true,
    fun h v => .vsigm h (v.getD 0 0) (v.getD 1 0) (v.getD 2 0)⟩,
  ⟨0x14, .rrr, [], ⟨[], [], false⟩,
    [⟨29, 11, 0, 0, false, .vDstSt⟩, ⟨18, 11, 0, 0, false, .vSrcSt⟩, ⟨0, 4, 0, 0, false, .mods [6, 7]⟩],
    fun _ => true, fun _ => true,
    fun h v => .vgelu h (v.getD 0 0) (v.getD 1 0) (v.getD 2 0)⟩,
  ⟨0x15, .rrr, [], ⟨[], [], false⟩,
    [⟨29, 11, 0, 0, false, .vDstSt⟩, ⟨18, 11, 0, 0, false, .vSrcSt⟩, ⟨0, 4, 0, 0, false, .mods [6, 7]⟩],
    fun _ => true, fun _ => true,
    fun h v => .vsilu h (v.getD 0 0) (v.getD 1 0) (v.getD 2 0)⟩,
  ⟨0x16, .rrr, [], ⟨[], [], false⟩,
    [⟨29, 11, 0, 0, false, .vDstSt⟩, ⟨18, 11, 0, 0, false, .vSrcSt⟩, ⟨0, 4, 0, 0, false, .mods [6, 7]⟩],
    fun _ => true, fun _ => true,
    fun h v => .vsin h (v.getD 0 0) (v.getD 1 0) (v.getD 2 0)⟩,
  ⟨0x17, .rrr, [], ⟨[], [], false⟩,
    [⟨29, 11, 0, 0, false, .vDstSt⟩, ⟨18, 11, 0, 0, false, .vSrcSt⟩, ⟨0, 4, 0, 0, false, .mods [6, 7]⟩],
    fun _ => true, fun _ => true,
    fun h v => .vcos h (v.getD 0 0) (v.getD 1 0) (v.getD 2 0)⟩,
  ⟨0x18, .rrr, [], ⟨[], [], false⟩,
    [⟨29, 11, 0, 0, false, .vDstSt⟩, ⟨18, 11, 0, 0, false, .vSrcSt⟩, ⟨0, 4, 0, 0, false, .mods [6, 7]⟩],
    fun _ => true, fun _ => true,
    fun h v => .verf h (v.getD 0 0) (v.getD 1 0) (v.getD 2 0)⟩]

/-- Encodings of the vec words, part 2. -/
noncomputable def vecRows2 : List Row := [
  ⟨0x19, .rrr, [], ⟨[], [], false⟩,
    [⟨29, 11, 0, 0, false, .vDstSt⟩, ⟨18, 11, 0, 0, false, .vSrcSt⟩, ⟨7, 11, 0, 0, false, .vSrcSt⟩, ⟨0, 4, 0, 0, false, .mods [0, 1, 2, 3]⟩, ⟨6, 1, 0, 0, false, .any⟩],
    fun _ => true, fun _ => true,
    fun h v => .viadd h (v.getD 0 0) (v.getD 1 0) (v.getD 2 0) (v.getD 3 0) (v.getD 4 0)⟩,
  ⟨0x1a, .rrr, [], ⟨[], [], false⟩,
    [⟨29, 11, 0, 0, false, .vDstSt⟩, ⟨18, 11, 0, 0, false, .vSrcSt⟩, ⟨7, 11, 0, 0, false, .vSrcSt⟩, ⟨0, 4, 0, 0, false, .mods [0, 1, 2, 3]⟩, ⟨6, 1, 0, 0, false, .any⟩],
    fun _ => true, fun _ => true,
    fun h v => .visub h (v.getD 0 0) (v.getD 1 0) (v.getD 2 0) (v.getD 3 0) (v.getD 4 0)⟩,
  ⟨0x1b, .rrr, [], ⟨[], [], false⟩,
    [⟨29, 11, 0, 0, false, .vDstSt⟩, ⟨18, 11, 0, 0, false, .vSrcSt⟩, ⟨7, 11, 0, 0, false, .vSrcSt⟩, ⟨0, 4, 0, 0, false, .mods [0, 1, 2, 3]⟩, ⟨6, 1, 0, 0, false, .any⟩],
    fun _ => true, fun _ => true,
    fun h v => .vimul h (v.getD 0 0) (v.getD 1 0) (v.getD 2 0) (v.getD 3 0) (v.getD 4 0)⟩,
  ⟨0x1c, .rrr, [], ⟨[], [], false⟩,
    [⟨29, 11, 0, 0, false, .vDstSt⟩, ⟨18, 11, 0, 0, false, .vSrcSt⟩, ⟨7, 11, 0, 0, false, .vSrcSt⟩, ⟨0, 4, 0, 0, false, .mods [0, 1, 2, 3]⟩],
    fun _ => true, fun _ => true,
    fun h v => .vimulh h (v.getD 0 0) (v.getD 1 0) (v.getD 2 0) (v.getD 3 0)⟩,
  ⟨0x1d, .rrr, [], ⟨[], [], false⟩,
    [⟨29, 11, 0, 0, false, .vTied⟩, ⟨18, 11, 0, 0, false, .vSrcSt⟩, ⟨7, 11, 0, 0, false, .vSrcSt⟩, ⟨0, 4, 0, 0, false, .mods [0, 1, 2, 3]⟩, ⟨6, 1, 0, 0, false, .any⟩],
    fun _ => true, fun _ => true,
    fun h v => .vimad h (v.getD 0 0) (v.getD 1 0) (v.getD 2 0) (v.getD 3 0) (v.getD 4 0)⟩,
  ⟨0x1e, .rrr, [], ⟨[], [], false⟩,
    [⟨29, 11, 0, 0, false, .vDstSt⟩, ⟨18, 11, 0, 0, false, .vSrcSt⟩, ⟨0, 4, 0, 0, false, .mods [0, 1, 3]⟩, ⟨6, 1, 0, 0, false, .any⟩],
    fun _ => true, fun _ => true,
    fun h v => .viabs h (v.getD 0 0) (v.getD 1 0) (v.getD 2 0) (v.getD 3 0)⟩,
  ⟨0x1f, .rrr, [], ⟨[], [], false⟩,
    [⟨29, 11, 0, 0, false, .vDstSt⟩, ⟨18, 11, 0, 0, false, .vSrcSt⟩, ⟨7, 11, 0, 0, false, .vSrcSt⟩, ⟨0, 4, 0, 0, false, .mods [0, 1, 2, 3]⟩],
    fun _ => true, fun _ => true,
    fun h v => .vimin h (v.getD 0 0) (v.getD 1 0) (v.getD 2 0) (v.getD 3 0)⟩,
  ⟨0x20, .rrr, [], ⟨[], [], false⟩,
    [⟨29, 11, 0, 0, false, .vDstSt⟩, ⟨18, 11, 0, 0, false, .vSrcSt⟩, ⟨7, 11, 0, 0, false, .vSrcSt⟩, ⟨0, 4, 0, 0, false, .mods [0, 1, 2, 3]⟩],
    fun _ => true, fun _ => true,
    fun h v => .vimax h (v.getD 0 0) (v.getD 1 0) (v.getD 2 0) (v.getD 3 0)⟩,
  ⟨0x21, .rrr, [], ⟨[], [], false⟩,
    [⟨29, 11, 0, 0, false, .vDstSt⟩, ⟨18, 11, 0, 0, false, .vSrcSt⟩, ⟨7, 11, 0, 0, false, .vSrcSt⟩],
    fun _ => true, fun _ => true,
    fun h v => .vand h (v.getD 0 0) (v.getD 1 0) (v.getD 2 0)⟩,
  ⟨0x22, .rrr, [], ⟨[], [], false⟩,
    [⟨29, 11, 0, 0, false, .vDstSt⟩, ⟨18, 11, 0, 0, false, .vSrcSt⟩, ⟨7, 11, 0, 0, false, .vSrcSt⟩],
    fun _ => true, fun _ => true,
    fun h v => .vor h (v.getD 0 0) (v.getD 1 0) (v.getD 2 0)⟩,
  ⟨0x23, .rrr, [], ⟨[], [], false⟩,
    [⟨29, 11, 0, 0, false, .vDstSt⟩, ⟨18, 11, 0, 0, false, .vSrcSt⟩, ⟨7, 11, 0, 0, false, .vSrcSt⟩],
    fun _ => true, fun _ => true,
    fun h v => .vxor h (v.getD 0 0) (v.getD 1 0) (v.getD 2 0)⟩,
  ⟨0x24, .rrr, [], ⟨[], [], false⟩,
    [⟨29, 11, 0, 0, false, .vDstSt⟩, ⟨18, 11, 0, 0, false, .vSrcSt⟩, ⟨7, 11, 0, 0, false, .vSrcSt⟩],
    fun _ => true, fun _ => true,
    fun h v => .vandn h (v.getD 0 0) (v.getD 1 0) (v.getD 2 0)⟩,
  ⟨0x25, .rrr, [], ⟨[], [], false⟩,
    [⟨29, 11, 0, 0, false, .vDstSt⟩, ⟨18, 11, 0, 0, false, .vSrcSt⟩, ⟨7, 11, 0, 0, false, .vSrcSt⟩, ⟨0, 4, 0, 0, false, .mods [0, 1, 2, 3]⟩],
    fun _ => true, fun _ => true,
    fun h v => .vshl h (v.getD 0 0) (v.getD 1 0) (v.getD 2 0) (v.getD 3 0)⟩,
  ⟨0x26, .rrr, [], ⟨[], [], false⟩,
    [⟨29, 11, 0, 0, false, .vDstSt⟩, ⟨18, 11, 0, 0, false, .vSrcSt⟩, ⟨7, 11, 0, 0, false, .vSrcSt⟩, ⟨0, 4, 0, 0, false, .mods [0, 1, 2, 3]⟩, ⟨4, 1, 0, 0, false, .any⟩],
    fun v => decide ((v.getD 4 0) = 0 ∨ (v.getD 3 0) ≠ 2), fun _ => true,
    fun h v => .vshr h (v.getD 0 0) (v.getD 1 0) (v.getD 2 0) (v.getD 3 0) (v.getD 4 0)⟩,
  ⟨0x27, .rri, [], ⟨[], [], false⟩,
    [⟨29, 11, 0, 0, false, .vDstSt⟩, ⟨18, 11, 0, 0, false, .vSrcSt⟩, ⟨0, 6, 0, 0, false, .any⟩, ⟨6, 4, 0, 0, false, .mods [0, 1, 2, 3]⟩],
    fun _ => true, fun _ => true,
    fun h v => .vshli h (v.getD 0 0) (v.getD 1 0) (v.getD 2 0) (v.getD 3 0)⟩,
  ⟨0x28, .rri, [], ⟨[], [], false⟩,
    [⟨29, 11, 0, 0, false, .vDstSt⟩, ⟨18, 11, 0, 0, false, .vSrcSt⟩, ⟨0, 6, 0, 0, false, .any⟩, ⟨6, 4, 0, 0, false, .mods [0, 1, 2, 3]⟩, ⟨10, 1, 0, 0, false, .any⟩],
    fun v => decide ((v.getD 4 0) = 0 ∨ (v.getD 3 0) ≠ 2), fun _ => true,
    fun h v => .vshri h (v.getD 0 0) (v.getD 1 0) (v.getD 2 0) (v.getD 3 0) (v.getD 4 0)⟩,
  ⟨0x29, .rrr, [], ⟨[], [], false⟩,
    [⟨29, 11, 0, 0, false, .vDstSt⟩, ⟨18, 11, 0, 0, false, .vSrcSt⟩, ⟨7, 11, 0, 0, false, .vSrcSt⟩, ⟨0, 1, 0, 0, false, .any⟩],
    fun _ => true, fun _ => true,
    fun h v => .vext h (v.getD 0 0) (v.getD 1 0) (v.getD 2 0) (v.getD 3 0)⟩,
  ⟨0x2a, .rrr, [], ⟨[], [], false⟩,
    [⟨29, 11, 0, 0, false, .vTied⟩, ⟨18, 11, 0, 0, false, .vSrcSt⟩, ⟨7, 11, 0, 0, false, .vSrcSt⟩],
    fun _ => true, fun _ => true,
    fun h v => .vins h (v.getD 0 0) (v.getD 1 0) (v.getD 2 0)⟩,
  ⟨0x2b, .rrr, [], ⟨[], [], false⟩,
    [⟨29, 11, 0, 0, false, .vDstSt⟩, ⟨18, 11, 0, 0, false, .vSrcSt⟩, ⟨7, 11, 0, 0, false, .vSrcSt⟩, ⟨0, 5, 0, 0, false, .any⟩],
    fun _ => true, fun _ => true,
    fun h v => .vfsh h (v.getD 0 0) (v.getD 1 0) (v.getD 2 0) (v.getD 3 0)⟩,
  ⟨0x2c, .rrr, [], ⟨[], [], false⟩,
    [⟨29, 11, 0, 0, false, .vDstSt⟩, ⟨18, 11, 0, 0, false, .vSrcSt⟩],
    fun _ => true, fun _ => true,
    fun h v => .vpopc h (v.getD 0 0) (v.getD 1 0)⟩,
  ⟨0x2d, .rrr, [], ⟨[], [], false⟩,
    [⟨29, 11, 0, 0, false, .vDstSt⟩, ⟨18, 11, 0, 0, false, .vSrcSt⟩],
    fun _ => true, fun _ => true,
    fun h v => .vclz h (v.getD 0 0) (v.getD 1 0)⟩,
  ⟨0x2e, .rrr, [], ⟨[], [], false⟩,
    [⟨29, 11, 0, 0, false, .vDstSt⟩, ⟨18, 11, 0, 0, false, .vSrcSt⟩, ⟨7, 4, 0, 0, false, .mods [0, 1, 2, 3, 5, 6, 7, 8, 9, 10, 11, 12]⟩, ⟨0, 4, 0, 0, false, .mods [0, 1, 2, 3, 5, 6, 7, 8, 9, 10, 11, 12]⟩, ⟨4, 2, 0, 0, false, .any⟩, ⟨6, 1, 0, 0, false, .any⟩],
    fun _ => true, fun _ => true,
    fun h v => .vcvt h (v.getD 0 0) (v.getD 1 0) (v.getD 2 0) (v.getD 3 0) (v.getD 4 0) (v.getD 5 0)⟩,
  ⟨0x2f, .rrr, [], ⟨[], [], false⟩,
    [⟨29, 11, 0, 0, false, .vTied⟩, ⟨18, 11, 0, 0, false, .vSrc⟩, ⟨7, 11, 0, 0, false, .vSrc⟩, ⟨0, 4, 0, 0, false, .mods [1, 2, 3, 5, 7, 8, 9, 10, 11]⟩, ⟨4, 2, 0, 0, false, .any⟩],
    fun _ => true, fun v => decide ((2 * (v.getD 4 0) + 1) < 32 / elemWidth (v.getD 3 0)),
    fun h v => .vpack h (v.getD 0 0) (v.getD 1 0) (v.getD 2 0) (v.getD 3 0) (v.getD 4 0)⟩,
  ⟨0x30, .rrr, [], ⟨[], [], false⟩,
    [⟨29, 11, 0, 0, false, .vDst⟩, ⟨18, 11, 0, 0, false, .vSrc⟩, ⟨7, 3, 0, 0, false, .any⟩, ⟨0, 4, 0, 0, false, .mods [1, 2, 3, 5, 7, 8, 9, 10, 11]⟩],
    fun _ => true, fun v => decide ((v.getD 2 0) < 32 / elemWidth (v.getD 3 0)),
    fun h v => .vunpk h (v.getD 0 0) (v.getD 1 0) (v.getD 2 0) (v.getD 3 0)⟩]

/-- Encodings of the vec words, part 3. -/
noncomputable def vecRows3 : List Row := [
  ⟨0x31, .rrr, [], ⟨[], [], false⟩,
    [⟨29, 11, 0, 0, false, .vDst⟩, ⟨18, 11, 0, 0, false, .vSrc⟩, ⟨7, 11, 0, 0, false, .vDst⟩, ⟨0, 4, 0, 0, false, .mods [1, 9, 10, 11]⟩],
    fun _ => true, fun _ => true,
    fun h v => .vqnt h (v.getD 0 0) (v.getD 1 0) (v.getD 2 0) (v.getD 3 0)⟩,
  ⟨0x32, .rrr, [], ⟨[], [], false⟩,
    [⟨29, 11, 0, 0, false, .vDst⟩, ⟨18, 11, 0, 0, false, .vSrc⟩, ⟨7, 11, 0, 0, false, .vSrc⟩, ⟨0, 4, 0, 0, false, .mods [1, 9, 10, 11]⟩],
    fun _ => true, fun _ => true,
    fun h v => .vdqnt h (v.getD 0 0) (v.getD 1 0) (v.getD 2 0) (v.getD 3 0)⟩,
  ⟨0x33, .rrr, [], ⟨[], [], false⟩,
    [⟨29, 11, 0, 0, false, .mReg⟩, ⟨18, 11, 0, 0, false, .vSrcSt⟩, ⟨7, 11, 0, 0, false, .vSrcSt⟩, ⟨0, 4, 0, 0, false, .mods [0, 6]⟩, ⟨4, 3, 0, 0, false, .mods [0, 1, 2, 3, 4, 5]⟩],
    fun _ => true, fun _ => true,
    fun h v => .vcmp h (v.getD 0 0) (v.getD 1 0) (v.getD 2 0) (v.getD 3 0) (v.getD 4 0)⟩,
  ⟨0x34, .rri, [], ⟨[], [], false⟩,
    [⟨29, 11, 0, 0, false, .mReg⟩, ⟨18, 11, 0, 0, false, .vSrcSt⟩, ⟨15, 3, 0, 0, false, .mods [0, 1, 2, 3, 4, 5]⟩, ⟨0, 15, 0, 17, true, .any⟩],
    fun _ => true, fun _ => true,
    fun h v => .vcmpi h (v.getD 0 0) (v.getD 1 0) (v.getD 2 0) (v.getD 3 0)⟩,
  ⟨0x35, .rrr, [], ⟨[], [], false⟩,
    [⟨29, 11, 0, 0, false, .vDstSt⟩, ⟨18, 11, 0, 0, false, .vSrcSt⟩, ⟨7, 11, 0, 0, false, .vSrcSt⟩, ⟨0, 6, 0, 0, false, .any⟩],
    fun _ => true, fun _ => true,
    fun h v => .vsel h (v.getD 0 0) (v.getD 1 0) (v.getD 2 0) (v.getD 3 0)⟩,
  ⟨0x36, .rrr, [], ⟨[], [], false⟩,
    [⟨29, 11, 0, 0, false, .vTied⟩, ⟨18, 11, 0, 0, false, .vSrc⟩, ⟨7, 11, 0, 0, false, .vSrc⟩, ⟨0, 4, 0, 0, false, .mods [0, 6]⟩],
    fun _ => true, fun _ => true,
    fun h v => .vclamp h (v.getD 0 0) (v.getD 1 0) (v.getD 2 0) (v.getD 3 0)⟩,
  ⟨0x37, .rrr, [], ⟨[], [], false⟩,
    [⟨29, 11, 0, 0, false, .mReg⟩, ⟨18, 11, 0, 0, false, .mReg⟩, ⟨7, 11, 0, 0, false, .mReg⟩],
    fun _ => true, fun _ => true,
    fun h v => .mand h (v.getD 0 0) (v.getD 1 0) (v.getD 2 0)⟩,
  ⟨0x38, .rrr, [], ⟨[], [], false⟩,
    [⟨29, 11, 0, 0, false, .mReg⟩, ⟨18, 11, 0, 0, false, .mReg⟩, ⟨7, 11, 0, 0, false, .mReg⟩],
    fun _ => true, fun _ => true,
    fun h v => .mor h (v.getD 0 0) (v.getD 1 0) (v.getD 2 0)⟩,
  ⟨0x39, .rrr, [], ⟨[], [], false⟩,
    [⟨29, 11, 0, 0, false, .mReg⟩, ⟨18, 11, 0, 0, false, .mReg⟩, ⟨7, 11, 0, 0, false, .mReg⟩],
    fun _ => true, fun _ => true,
    fun h v => .mxor h (v.getD 0 0) (v.getD 1 0) (v.getD 2 0)⟩,
  ⟨0x3a, .rrr, [], ⟨[], [], false⟩,
    [⟨29, 11, 0, 0, false, .mReg⟩, ⟨18, 11, 0, 0, false, .mReg⟩],
    fun _ => true, fun _ => true,
    fun h v => .mnot h (v.getD 0 0) (v.getD 1 0)⟩,
  ⟨0x3b, .rrr, [], ⟨[], [], false⟩,
    [⟨29, 11, 0, 0, false, .vDst⟩, ⟨18, 11, 0, 0, false, .mReg⟩],
    fun _ => true, fun _ => true,
    fun h v => .mpopc h (v.getD 0 0) (v.getD 1 0)⟩,
  ⟨0x3c, .ri, [], ⟨[], [], false⟩,
    [⟨29, 11, 0, 0, false, .mReg⟩, ⟨0, 16, 0, 0, false, .any⟩, ⟨16, 7, 0, 0, false, .rng 0 64⟩],
    fun _ => true, fun _ => true,
    fun h v => .mset h (v.getD 0 0) (v.getD 1 0) (v.getD 2 0)⟩,
  ⟨0x3d, .rrr, [], ⟨[], [], false⟩,
    [⟨29, 11, 0, 0, false, .vDstSt⟩, ⟨18, 11, 0, 0, false, .vSrcSt⟩],
    fun _ => true, fun _ => true,
    fun h v => .vmov h (v.getD 0 0) (v.getD 1 0)⟩,
  ⟨0x3e, .ri, [], ⟨[], [], false⟩,
    [⟨29, 11, 0, 0, false, .vDstSt⟩, ⟨0, 29, 0, 35, true, .any⟩],
    fun _ => true, fun _ => true,
    fun h v => .vsplat h (v.getD 0 0) (v.getD 1 0)⟩,
  ⟨0x3f, .rrr, [], ⟨[], [], false⟩,
    [⟨29, 11, 0, 0, false, .vDst⟩, ⟨18, 11, 0, 0, false, .vSrc⟩, ⟨0, 6, 0, 0, false, .any⟩],
    fun _ => true, fun _ => true,
    fun h v => .vbcr h (v.getD 0 0) (v.getD 1 0) (v.getD 2 0)⟩,
  ⟨0x40, .rrr, [], ⟨[], [], false⟩,
    [⟨29, 11, 0, 0, false, .vDst⟩, ⟨18, 11, 0, 0, false, .vSrc⟩, ⟨0, 4, 0, 0, false, .any⟩],
    fun _ => true, fun _ => true,
    fun h v => .vbcc h (v.getD 0 0) (v.getD 1 0) (v.getD 2 0)⟩,
  ⟨0x41, .rrr, [], ⟨[], [], false⟩,
    [⟨29, 11, 0, 0, false, .vDst⟩, ⟨18, 11, 0, 0, false, .vSrc⟩, ⟨0, 6, 0, 0, false, .any⟩],
    fun _ => true, fun _ => true,
    fun h v => .vrotr h (v.getD 0 0) (v.getD 1 0) (v.getD 2 0)⟩,
  ⟨0x42, .rrr, [], ⟨[], [], false⟩,
    [⟨29, 11, 0, 0, false, .vDst⟩, ⟨18, 11, 0, 0, false, .vSrc⟩, ⟨0, 4, 0, 0, false, .any⟩],
    fun _ => true, fun _ => true,
    fun h v => .vrotc h (v.getD 0 0) (v.getD 1 0) (v.getD 2 0)⟩,
  ⟨0x43, .rrr, [], ⟨[], [], false⟩,
    [⟨29, 11, 0, 0, false, .vDst⟩, ⟨18, 11, 0, 0, false, .vSrc⟩, ⟨7, 11, 0, 0, false, .vSrc⟩],
    fun _ => true, fun _ => true,
    fun h v => .vperm h (v.getD 0 0) (v.getD 1 0) (v.getD 2 0)⟩,
  ⟨0x44, .rrr, [], ⟨[], [], false⟩,
    [⟨29, 11, 0, 0, false, .vDst⟩, ⟨18, 11, 0, 0, false, .vSrc⟩, ⟨7, 11, 0, 0, false, .vSrc⟩],
    fun _ => true, fun _ => true,
    fun h v => .vlut h (v.getD 0 0) (v.getD 1 0) (v.getD 2 0)⟩,
  ⟨0x45, .rrr, [], ⟨[], [], false⟩,
    [⟨29, 11, 0, 0, false, .vDst⟩, ⟨18, 11, 0, 0, false, .vSrc⟩, ⟨7, 3, 0, 0, false, .mods [0, 1, 2, 3, 4, 5]⟩, ⟨0, 4, 0, 0, false, .mods [0, 6, 7]⟩, ⟨4, 2, 0, 0, false, .any⟩, ⟨6, 1, 0, 0, false, .any⟩],
    fun v => decide (((v.getD 2 0) ≤ 2 ∨ (v.getD 3 0) = 0) ∧ redModOk (v.getD 3 0) (v.getD 2 0) (v.getD 4 0) (v.getD 5 0)), fun _ => true,
    fun h v => .vredr h (v.getD 0 0) (v.getD 1 0) (v.getD 2 0) (v.getD 3 0) (v.getD 4 0) (v.getD 5 0)⟩,
  ⟨0x46, .rrr, [], ⟨[], [], false⟩,
    [⟨29, 11, 0, 0, false, .vDst⟩, ⟨18, 11, 0, 0, false, .vSrc⟩, ⟨7, 3, 0, 0, false, .mods [0, 1, 2, 3, 4, 5]⟩, ⟨0, 4, 0, 0, false, .mods [0, 6, 7]⟩, ⟨4, 2, 0, 0, false, .any⟩, ⟨6, 1, 0, 0, false, .any⟩],
    fun v => decide (((v.getD 2 0) ≤ 2 ∨ (v.getD 3 0) = 0) ∧ redModOk (v.getD 3 0) (v.getD 2 0) (v.getD 4 0) (v.getD 5 0)), fun _ => true,
    fun h v => .vredc h (v.getD 0 0) (v.getD 1 0) (v.getD 2 0) (v.getD 3 0) (v.getD 4 0) (v.getD 5 0)⟩,
  ⟨0x47, .rrr, [], ⟨[], [], false⟩,
    [⟨29, 11, 0, 0, false, .vDst⟩, ⟨18, 11, 0, 0, false, .vSrc⟩, ⟨7, 3, 0, 0, false, .mods [0, 1, 2, 3, 4, 5]⟩, ⟨10, 1, 0, 0, false, .any⟩, ⟨0, 4, 0, 0, false, .mods [0, 6, 7]⟩, ⟨4, 2, 0, 0, false, .any⟩, ⟨6, 1, 0, 0, false, .any⟩],
    fun v => decide (((v.getD 2 0) ≤ 2 ∨ (v.getD 4 0) = 0) ∧ redModOk (v.getD 4 0) (v.getD 2 0) (v.getD 5 0) (v.getD 6 0)), fun _ => true,
    fun h v => .vscan h (v.getD 0 0) (v.getD 1 0) (v.getD 2 0) (v.getD 3 0) (v.getD 4 0) (v.getD 5 0) (v.getD 6 0)⟩,
  ⟨0x48, .rrr, [], ⟨[], [], false⟩,
    [⟨29, 11, 0, 0, false, .vDst⟩, ⟨18, 11, 0, 0, false, .vSrc⟩],
    fun _ => true, fun _ => true,
    fun h v => .vtrn h (v.getD 0 0) (v.getD 1 0)⟩]

/-- Encodings of the vec words, part 4. -/
noncomputable def vecRows4 : List Row := [
  ⟨0x49, .rrr, [], ⟨[], [], false⟩,
    [⟨29, 11, 0, 0, false, .vReg⟩, ⟨18, 11, 0, 0, false, .accReg⟩, ⟨0, 2, 0, 0, false, .any⟩],
    fun _ => true, fun _ => true,
    fun h v => .vmovfa h (v.getD 0 0) (v.getD 1 0) (v.getD 2 0)⟩,
  ⟨0x4a, .rrr, [], ⟨[], [], false⟩,
    [⟨29, 11, 0, 0, false, .accReg⟩, ⟨18, 11, 0, 0, false, .vSrc⟩, ⟨0, 2, 0, 0, false, .any⟩],
    fun _ => true, fun _ => true,
    fun h v => .vmovta h (v.getD 0 0) (v.getD 1 0) (v.getD 2 0)⟩,
  ⟨0x4b, .ri, [], ⟨[], [], false⟩,
    [⟨0, 7, 0, 0, false, .rng 0 64⟩, ⟨7, 4, 0, 0, false, .rng 0 8⟩],
    fun _ => true, fun _ => true,
    fun h v => .vrotset h (v.getD 0 0) (v.getD 1 0)⟩,
  ⟨0x4c, .br, [], ⟨[], [], false⟩,
    [⟨24, 11, 0, 0, false, .rng 1 2047⟩, ⟨0, 24, 0, 0, true, .any⟩],
    fun _ => true, fun _ => true,
    fun h v => .vloop h (v.getD 0 0) (v.getD 1 0)⟩,
  ⟨0x4d, .rrr, [], ⟨[], [], false⟩,
    [⟨29, 11, 0, 0, false, .vTied⟩, ⟨18, 11, 0, 0, false, .vSrc⟩, ⟨0, 1, 0, 0, false, .any⟩],
    fun _ => true, fun _ => true,
    fun h v => .expmax h (v.getD 0 0) (v.getD 1 0) (v.getD 2 0)⟩,
  ⟨0x4e, .rrr, [], ⟨[], [], false⟩,
    [⟨29, 11, 0, 0, false, .vDst⟩, ⟨18, 11, 0, 0, false, .vSrc⟩, ⟨7, 11, 0, 0, false, .vSrc⟩],
    fun _ => true, fun _ => true,
    fun h v => .expnrm h (v.getD 0 0) (v.getD 1 0) (v.getD 2 0)⟩,
  ⟨0x4f, .rrr, [], ⟨[], [], false⟩,
    [⟨29, 11, 0, 0, false, .vTied⟩, ⟨18, 11, 0, 0, false, .vSrc⟩],
    fun _ => true, fun _ => true,
    fun h v => .vwelu h (v.getD 0 0) (v.getD 1 0)⟩,
  ⟨0x50, .rrr, [], ⟨[], [], false⟩,
    [⟨29, 11, 0, 0, false, .vTied⟩, ⟨18, 11, 0, 0, false, .vSrc⟩],
    fun _ => true, fun _ => true,
    fun h v => .vwelm h (v.getD 0 0) (v.getD 1 0)⟩,
  ⟨0x51, .rri, [], ⟨[], [], false⟩,
    [⟨29, 11, 0, 0, false, .mReg⟩, ⟨18, 11, 0, 0, false, .vSrc⟩, ⟨0, 18, 0, 40, true, .any⟩],
    fun _ => true, fun _ => true,
    fun h v => .conft h (v.getD 0 0) (v.getD 1 0) (v.getD 2 0)⟩,
  ⟨0x52, .rrr, [], ⟨[], [], false⟩,
    [⟨29, 11, 0, 0, false, .vDst⟩, ⟨18, 11, 0, 0, false, .vSrc⟩, ⟨7, 11, 0, 0, false, .vSrc⟩],
    fun _ => true, fun _ => true,
    fun h v => .vrng h (v.getD 0 0) (v.getD 1 0) (v.getD 2 0)⟩,
  ⟨0x53, .rrr, [], ⟨[], [], false⟩,
    [⟨29, 11, 0, 0, false, .vDst⟩],
    fun _ => true, fun _ => true,
    fun h v => .vidx h (v.getD 0 0)⟩,
  ⟨0x54, .rrr, [], ⟨[], [], false⟩,
    [⟨29, 11, 0, 0, false, .vDst⟩, ⟨18, 11, 0, 0, false, .vSrc⟩, ⟨0, 4, 0, 0, false, .mods [0, 6]⟩],
    fun _ => true, fun _ => true,
    fun h v => .vargmx h (v.getD 0 0) (v.getD 1 0) (v.getD 2 0)⟩,
  ⟨0x55, .rrr, [], ⟨[], [], false⟩,
    [⟨29, 11, 0, 0, false, .vDst⟩, ⟨18, 11, 0, 0, false, .mReg⟩],
    fun _ => true, fun _ => true,
    fun h v => .mtov h (v.getD 0 0) (v.getD 1 0)⟩,
  ⟨0x56, .rrr, [], ⟨[], [], false⟩,
    [⟨29, 11, 0, 0, false, .mReg⟩, ⟨18, 11, 0, 0, false, .vSrc⟩],
    fun _ => true, fun _ => true,
    fun h v => .vtom h (v.getD 0 0) (v.getD 1 0)⟩]

/-- Encodings of the vec words (02 R52 to R56 and the chapters they name). -/
noncomputable def vecRows : List Row := vecRows1 ++ vecRows2 ++ vecRows3 ++ vecRows4

/-- Encodings of the mtx words, part 1. -/
noncomputable def mtxRows1 : List Row := [
  ⟨0x1, .cmd, [], ⟨[], [], false⟩,
    [⟨37, 3, 0, 0, false, .any⟩, ⟨34, 3, 0, 0, false, .any⟩, ⟨28, 4, 0, 0, false, .mods [0, 1, 2, 3, 4, 5]⟩, ⟨24, 4, 0, 0, false, .mods [0, 1, 2, 3, 4, 5]⟩, ⟨18, 6, 0, 0, false, .any⟩, ⟨0, 18, 0, 0, false, .rng 1 262143⟩, ⟨0, 0, 0, 8, false, .any⟩, ⟨0, 0, 8, 8, false, .any⟩],
    fun _ => true, fun _ => true,
    fun h v => .mgo h (v.getD 0 0) (v.getD 1 0) (v.getD 2 0) (v.getD 3 0) (v.getD 4 0) (v.getD 5 0) (v.getD 6 0) (v.getD 7 0)⟩,
  ⟨0x2, .cmd, [], ⟨[], [], false⟩,
    [⟨37, 3, 0, 0, false, .any⟩, ⟨34, 3, 0, 0, false, .any⟩, ⟨28, 4, 0, 0, false, .mods [0, 1, 2, 3, 4, 5]⟩, ⟨24, 4, 0, 0, false, .mods [0, 1, 2, 3, 4, 5]⟩, ⟨18, 6, 0, 0, false, .any⟩, ⟨0, 18, 0, 0, false, .rng 1 262143⟩, ⟨0, 0, 0, 8, false, .any⟩, ⟨0, 0, 8, 8, false, .any⟩],
    fun _ => true, fun _ => true,
    fun h v => .mgos h (v.getD 0 0) (v.getD 1 0) (v.getD 2 0) (v.getD 3 0) (v.getD 4 0) (v.getD 5 0) (v.getD 6 0) (v.getD 7 0)⟩,
  ⟨0x3, .ri, [], ⟨[], [], false⟩,
    [⟨29, 11, 0, 0, false, .accReg⟩, ⟨0, 4, 0, 0, false, .any⟩],
    fun _ => true, fun v => decide (accIdx (v.getD 0 0) + (v.getD 1 0) + 1 ≤ 64),
    fun h v => .mtstart h (v.getD 0 0) (v.getD 1 0)⟩,
  ⟨0x4, .none, [], ⟨[], [], false⟩,
    [],
    fun _ => true, fun _ => true,
    fun h _ => .mtend h⟩,
  ⟨0x5, .ri, [(29, 11, 0)], ⟨[], [], false⟩,
    [⟨0, 16, 0, 0, false, .any⟩],
    fun _ => true, fun _ => true,
    fun h v => .mtsel h (v.getD 0 0)⟩,
  ⟨0x5, .ri, [], ⟨[], [], false⟩,
    [⟨29, 11, 0, 0, false, .regLq⟩],
    fun _ => true, fun _ => true,
    fun h v => .mtselLq h (v.getD 0 0)⟩,
  ⟨0x6, .cmd, [], ⟨[], [], false⟩,
    [⟨32, 2, 0, 0, false, .mods [0, 1, 2]⟩, ⟨0, 1, 0, 0, false, .any⟩],
    fun _ => true, fun _ => true,
    fun h v => .mtrd h (v.getD 0 0) (v.getD 1 0)⟩,
  ⟨0x7, .cmd, [(30, 2, 0)], ⟨[], [], false⟩,
    [⟨32, 8, 0, 0, false, .rng 0 7⟩, ⟨16, 7, 0, 0, false, .rng 1 64⟩, ⟨0, 7, 0, 0, false, .any⟩],
    fun _ => true, fun v => decide ((v.getD 2 0) + (v.getD 1 0) ≤ 128),
    fun h v => .mringSet h (v.getD 0 0) (v.getD 1 0) (v.getD 2 0)⟩,
  ⟨0x7, .cmd, [(30, 2, 1)], ⟨[], [], false⟩,
    [⟨32, 8, 0, 0, false, .rng 0 7⟩, ⟨0, 8, 0, 0, false, .any⟩],
    fun _ => true, fun _ => true,
    fun h v => .mringAdv h (v.getD 0 0) (v.getD 1 0)⟩,
  ⟨0x8, .cmd, [], ⟨[], [], false⟩,
    [⟨32, 8, 0, 0, false, .rng 0 7⟩, ⟨30, 2, 0, 0, false, .mods [0, 1, 2]⟩, ⟨0, 8, 0, 0, false, .any⟩],
    fun _ => true, fun _ => true,
    fun h v => .mspmeta h (v.getD 0 0) (v.getD 1 0) (v.getD 2 0)⟩,
  ⟨0x9, .ri, [], ⟨[], [], false⟩,
    [⟨29, 11, 0, 0, false, .accReg⟩, ⟨0, 7, 0, 0, false, .rng 1 64⟩],
    fun _ => true, fun v => decide (accIdx (v.getD 0 0) + (v.getD 1 0) ≤ 64),
    fun h v => .mtzero h (v.getD 0 0) (v.getD 1 0)⟩,
  ⟨0xa, .rrr, [], ⟨[], [], false⟩,
    [⟨29, 11, 0, 0, false, .accReg⟩, ⟨18, 11, 0, 0, false, .regLq⟩, ⟨0, 2, 0, 0, false, .any⟩],
    fun _ => true, fun v => decide (accIdx (v.getD 0 0) + (v.getD 2 0) + 1 ≤ 64),
    fun h v => .maccld h (v.getD 0 0) (v.getD 1 0) (v.getD 2 0)⟩,
  ⟨0xb, .rrr, [], ⟨[], [], false⟩,
    [⟨29, 11, 0, 0, false, .regSq⟩, ⟨18, 11, 0, 0, false, .accReg⟩, ⟨0, 2, 0, 0, false, .any⟩],
    fun _ => true, fun v => decide (accIdx (v.getD 1 0) + (v.getD 2 0) + 1 ≤ 64),
    fun h v => .maccst h (v.getD 0 0) (v.getD 1 0) (v.getD 2 0)⟩,
  ⟨0xc, .rrr, [], ⟨[], [], false⟩,
    [⟨29, 11, 0, 0, false, .accReg⟩, ⟨18, 11, 0, 0, false, .accReg⟩, ⟨7, 11, 0, 0, false, .accReg⟩, ⟨0, 4, 0, 0, false, .mods [6]⟩, ⟨4, 2, 0, 0, false, .any⟩, ⟨6, 1, 0, 0, false, .any⟩],
    fun _ => true, fun _ => true,
    fun h v => .maccadd h (v.getD 0 0) (v.getD 1 0) (v.getD 2 0) (v.getD 3 0) (v.getD 4 0) (v.getD 5 0)⟩,
  ⟨0xd, .rri, [], ⟨[], [], false⟩,
    [⟨29, 11, 0, 0, false, .accReg⟩, ⟨18, 11, 0, 0, false, .accReg⟩, ⟨0, 18, 0, 40, true, .any⟩],
    fun _ => true, fun _ => true,
    fun h v => .mscale h (v.getD 0 0) (v.getD 1 0) (v.getD 2 0)⟩,
  ⟨0xe, .rrr, [], ⟨[], [], false⟩,
    [⟨29, 11, 0, 0, false, .regSq⟩, ⟨18, 11, 0, 0, false, .accReg⟩, ⟨7, 2, 0, 0, false, .any⟩, ⟨0, 4, 0, 0, false, .mods [0, 1, 6, 7, 8, 9, 10]⟩, ⟨4, 2, 0, 0, false, .any⟩, ⟨6, 1, 0, 0, false, .any⟩],
    fun _ => true, fun v => decide (accIdx (v.getD 1 0) + (v.getD 2 0) + 1 ≤ 64),
    fun h v => .mcvt h (v.getD 0 0) (v.getD 1 0) (v.getD 2 0) (v.getD 3 0) (v.getD 4 0) (v.getD 5 0)⟩,
  ⟨0xf, .ri, [], ⟨[], [], false⟩,
    [⟨29, 11, 0, 0, false, .regSq⟩, ⟨0, 7, 0, 0, false, .any⟩],
    fun _ => true, fun _ => true,
    fun h v => .mflag h (v.getD 0 0) (v.getD 1 0)⟩,
  ⟨0x10, .ri, [], ⟨[], [], false⟩,
    [⟨29, 11, 0, 0, false, .regSq⟩, ⟨0, 1, 0, 0, false, .any⟩],
    fun _ => true, fun _ => true,
    fun h v => .mrstat h (v.getD 0 0) (v.getD 1 0)⟩]

/-- Encodings of the mtx words (02 R52 to R56 and the chapters they name). -/
noncomputable def mtxRows : List Row := mtxRows1

/-- Encodings of the xbr words, part 1. -/
noncomputable def xbrRows1 : List Row := [
  ⟨0x1, .cmd, [], ⟨[], [], false⟩,
    [⟨32, 8, 0, 0, false, .rng 0 159⟩, ⟨30, 2, 0, 0, false, .mods [0, 1, 2]⟩, ⟨27, 3, 0, 0, false, .rng 0 5⟩, ⟨26, 1, 0, 0, false, .any⟩, ⟨18, 8, 0, 0, false, .any⟩],
    fun _ => true, fun v => decide ((v.getD 0 0) + (v.getD 4 0) ≤ 159),
    fun h v => .xcfg h (v.getD 0 0) (v.getD 1 0) (v.getD 2 0) (v.getD 3 0) (v.getD 4 0)⟩,
  ⟨0x2, .cmd, [], ⟨[], [], false⟩,
    [⟨32, 8, 0, 0, false, .rng 0 159⟩, ⟨24, 8, 0, 0, false, .any⟩, ⟨0, 8, 0, 0, false, .any⟩],
    fun _ => true, fun v => decide ((v.getD 0 0) + (v.getD 1 0) ≤ 159),
    fun h v => .xmask h (v.getD 0 0) (v.getD 1 0) (v.getD 2 0)⟩,
  ⟨0x3, .cmd, [], ⟨[], [], false⟩,
    [⟨32, 8, 0, 0, false, .rng 0 31⟩, ⟨24, 8, 0, 0, false, .rng 0 159⟩, ⟨20, 4, 0, 0, false, .rng 0 7⟩, ⟨12, 8, 0, 0, false, .rng 0 159⟩],
    fun _ => true, fun v => decide ((v.getD 1 0) + ((v.getD 2 0) + 1) * ((v.getD 3 0) + 1) ≤ 160),
    fun h v => .xgrp h (v.getD 0 0) (v.getD 1 0) (v.getD 2 0) (v.getD 3 0)⟩,
  ⟨0x4, .cmd, [(30, 2, 0)], ⟨[], [], false⟩,
    [⟨32, 2, 0, 0, false, .any⟩, ⟨34, 1, 0, 0, false, .any⟩, ⟨16, 7, 0, 0, false, .rng 1 32⟩, ⟨0, 7, 0, 0, false, .any⟩],
    fun _ => true, fun v => decide ((v.getD 3 0) + (2 + 2 * (v.getD 1 0)) * (v.getD 2 0) ≤ 128),
    fun h v => .xringSet h (v.getD 0 0) (v.getD 1 0) (v.getD 2 0) (v.getD 3 0)⟩,
  ⟨0x4, .cmd, [(30, 2, 1)], ⟨[], [], false⟩,
    [⟨32, 2, 0, 0, false, .any⟩, ⟨34, 1, 0, 0, false, .any⟩, ⟨0, 8, 0, 0, false, .any⟩],
    fun _ => true, fun _ => true,
    fun h v => .xringAdv h (v.getD 0 0) (v.getD 1 0) (v.getD 2 0)⟩,
  ⟨0x4, .cmd, [(30, 2, 2)], ⟨[], [], false⟩,
    [⟨0, 7, 0, 0, false, .any⟩],
    fun _ => true, fun _ => true,
    fun h v => .xringVmask h (v.getD 0 0)⟩,
  ⟨0x5, .cmd, [], ⟨[], [], false⟩,
    [⟨32, 8, 0, 0, false, .rng 0 31⟩, ⟨30, 2, 0, 0, false, .any⟩, ⟨28, 2, 0, 0, false, .any⟩, ⟨20, 8, 0, 0, false, .any⟩, ⟨12, 8, 0, 0, false, .any⟩, ⟨8, 4, 0, 0, false, .any⟩, ⟨6, 2, 0, 0, false, .mods [0, 1, 2]⟩, ⟨5, 1, 0, 0, false, .any⟩],
    fun _ => true, fun _ => true,
    fun h v => .xmvm h (v.getD 0 0) (v.getD 1 0) (v.getD 2 0) (v.getD 3 0) (v.getD 4 0) (v.getD 5 0) (v.getD 6 0) (v.getD 7 0)⟩,
  ⟨0x6, .cmd, [], ⟨[], [], false⟩,
    [⟨32, 8, 0, 0, false, .rng 0 31⟩, ⟨30, 2, 0, 0, false, .any⟩, ⟨28, 2, 0, 0, false, .any⟩, ⟨20, 8, 0, 0, false, .any⟩, ⟨12, 8, 0, 0, false, .any⟩, ⟨8, 4, 0, 0, false, .any⟩, ⟨6, 2, 0, 0, false, .mods [0, 1, 2]⟩, ⟨5, 1, 0, 0, false, .any⟩],
    fun _ => true, fun _ => true,
    fun h v => .xmvma h (v.getD 0 0) (v.getD 1 0) (v.getD 2 0) (v.getD 3 0) (v.getD 4 0) (v.getD 5 0) (v.getD 6 0) (v.getD 7 0)⟩,
  ⟨0x7, .cmd, [], ⟨[], [], false⟩,
    [⟨32, 8, 0, 0, false, .rng 0 159⟩, ⟨31, 1, 0, 0, false, .any⟩, ⟨0, 13, 0, 0, false, .any⟩],
    fun _ => true, fun _ => true,
    fun h v => .xclip h (v.getD 0 0) (v.getD 1 0) (v.getD 2 0)⟩,
  ⟨0x8, .cmd, [], ⟨[], [], false⟩,
    [⟨32, 8, 0, 0, false, .rng 0 159⟩, ⟨0, 13, 0, 0, false, .any⟩],
    fun _ => true, fun _ => true,
    fun h v => .xstat h (v.getD 0 0) (v.getD 1 0)⟩,
  ⟨0x9, .cmd, [], ⟨[], [], false⟩,
    [⟨32, 8, 0, 0, false, .rng 0 159⟩, ⟨0, 7, 0, 0, false, .rng 0 126⟩],
    fun _ => true, fun _ => true,
    fun h v => .xcsum h (v.getD 0 0) (v.getD 1 0)⟩,
  ⟨0xa, .cmd, [(23, 1, 1)], ⟨[], [], true⟩,
    [⟨32, 8, 0, 0, false, .rng 0 159⟩, ⟨24, 8, 0, 0, false, .any⟩],
    fun _ => true, fun v => decide ((v.getD 0 0) + (v.getD 1 0) ≤ 159),
    fun h v => .xpriv h (v.getD 0 0) (v.getD 1 0)⟩,
  ⟨0xa, .cmd, [(23, 1, 0)], ⟨[], [], true⟩,
    [⟨32, 8, 0, 0, false, .rng 0 159⟩, ⟨24, 8, 0, 0, false, .any⟩],
    fun _ => true, fun v => decide ((v.getD 0 0) + (v.getD 1 0) ≤ 159),
    fun h v => .xprivRel h (v.getD 0 0) (v.getD 1 0)⟩,
  ⟨0xb, .cmd, [(24, 1, 0)], ⟨[], [], true⟩,
    [⟨32, 8, 0, 0, false, .rng 0 159⟩, ⟨29, 3, 0, 0, false, .any⟩, ⟨25, 4, 0, 0, false, .any⟩, ⟨17, 7, 0, 0, false, .rng 0 124⟩],
    fun _ => true, fun _ => true,
    fun h v => .xprogSet h (v.getD 0 0) (v.getD 1 0) (v.getD 2 0) (v.getD 3 0)⟩,
  ⟨0xb, .cmd, [(24, 1, 1)], ⟨[], [], true⟩,
    [⟨32, 8, 0, 0, false, .rng 0 159⟩, ⟨29, 3, 0, 0, false, .any⟩, ⟨25, 4, 0, 0, false, .any⟩, ⟨17, 7, 0, 0, false, .rng 0 124⟩],
    fun _ => true, fun _ => true,
    fun h v => .xprogRst h (v.getD 0 0) (v.getD 1 0) (v.getD 2 0) (v.getD 3 0)⟩,
  ⟨0xc, .cmd, [], ⟨[], [], true⟩,
    [⟨32, 8, 0, 0, false, .rng 0 159⟩, ⟨29, 3, 0, 0, false, .any⟩, ⟨26, 3, 0, 0, false, .any⟩, ⟨0, 9, 0, 0, false, .any⟩],
    fun _ => true, fun v => decide ((v.getD 1 0) + (v.getD 2 0) ≤ 7),
    fun h v => .xvfy h (v.getD 0 0) (v.getD 1 0) (v.getD 2 0) (v.getD 3 0)⟩,
  ⟨0xd, .cmd, [], ⟨[], [], true⟩,
    [⟨32, 8, 0, 0, false, .rng 0 159⟩, ⟨29, 3, 0, 0, false, .any⟩, ⟨26, 3, 0, 0, false, .any⟩, ⟨21, 5, 0, 0, false, .any⟩, ⟨20, 1, 0, 0, false, .any⟩, ⟨0, 9, 0, 0, false, .any⟩],
    fun _ => true, fun v => decide ((v.getD 1 0) + (v.getD 2 0) ≤ 7 ∧ ((v.getD 4 0) = 0 ∨ (v.getD 1 0) = 0 ∧ (v.getD 2 0) = 7)),
    fun h v => .xsteep h (v.getD 0 0) (v.getD 1 0) (v.getD 2 0) (v.getD 3 0) (v.getD 4 0) (v.getD 5 0)⟩,
  ⟨0xe, .cmd, [], ⟨[], [], true⟩,
    [⟨32, 8, 0, 0, false, .rng 0 159⟩, ⟨0, 9, 0, 0, false, .any⟩],
    fun _ => true, fun _ => true,
    fun h v => .xremap h (v.getD 0 0) (v.getD 1 0)⟩,
  ⟨0xf, .cmd, [(30, 2, 0)], ⟨[], [], true⟩,
    [⟨32, 8, 0, 0, false, .rng 0 159⟩],
    fun _ => true, fun _ => true,
    fun h v => .xrefMeas h (v.getD 0 0)⟩,
  ⟨0xf, .cmd, [(30, 2, 1)], ⟨[], [], true⟩,
    [⟨32, 8, 0, 0, false, .rng 0 159⟩],
    fun _ => true, fun _ => true,
    fun h v => .xrefBase h (v.getD 0 0)⟩,
  ⟨0xf, .cmd, [(30, 2, 2)], ⟨[], [], true⟩,
    [⟨32, 8, 0, 0, false, .rng 0 159⟩],
    fun _ => true, fun _ => true,
    fun h v => .xrefProg h (v.getD 0 0)⟩,
  ⟨0x10, .cmd, [], ⟨[], [], true⟩,
    [⟨32, 8, 0, 0, false, .rng 0 159⟩, ⟨24, 8, 0, 0, false, .any⟩, ⟨20, 4, 0, 0, false, .any⟩, ⟨0, 1, 0, 0, false, .any⟩],
    fun _ => true, fun v => decide ((v.getD 0 0) + (v.getD 1 0) ≤ 159),
    fun h v => .xdrift h (v.getD 0 0) (v.getD 1 0) (v.getD 2 0) (v.getD 3 0)⟩,
  ⟨0x11, .cmd, [], ⟨[], [], true⟩,
    [⟨32, 8, 0, 0, false, .rng 0 159⟩],
    fun _ => true, fun _ => true,
    fun h v => .xcal h (v.getD 0 0)⟩,
  ⟨0x12, .cmd, [], ⟨[], [], true⟩,
    [⟨32, 8, 0, 0, false, .rng 0 159⟩, ⟨0, 9, 0, 0, false, .any⟩],
    fun _ => true, fun _ => true,
    fun h v => .xoffw h (v.getD 0 0) (v.getD 1 0)⟩]

/-- Encodings of the xbr words, part 2. -/
noncomputable def xbrRows2 : List Row := [
  ⟨0x13, .cmd, [], ⟨[], [], true⟩,
    [⟨32, 8, 0, 0, false, .rng 0 159⟩, ⟨0, 9, 0, 0, false, .any⟩],
    fun _ => true, fun _ => true,
    fun h v => .xgainw h (v.getD 0 0) (v.getD 1 0)⟩,
  ⟨0x14, .cmd, [], ⟨[], [], true⟩,
    [⟨32, 8, 0, 0, false, .rng 0 159⟩, ⟨24, 8, 0, 0, false, .rng 1 255⟩, ⟨18, 6, 0, 0, false, .rng 10 48⟩, ⟨0, 0, 0, 32, false, .any⟩],
    fun _ => true, fun _ => true,
    fun h v => .xcert h (v.getD 0 0) (v.getD 1 0) (v.getD 2 0) (v.getD 3 0)⟩,
  ⟨0x15, .cmd, [], ⟨[], [], true⟩,
    [⟨32, 8, 0, 0, false, .rng 0 159⟩, ⟨0, 7, 0, 0, false, .any⟩],
    fun _ => true, fun _ => true,
    fun h v => .xcrd h (v.getD 0 0) (v.getD 1 0)⟩,
  ⟨0x16, .cmd, [], ⟨[], [], true⟩,
    [⟨32, 8, 0, 0, false, .rng 0 159⟩, ⟨0, 7, 0, 0, false, .any⟩],
    fun _ => true, fun _ => true,
    fun h v => .xcld h (v.getD 0 0) (v.getD 1 0)⟩,
  ⟨0x17, .cmd, [(22, 2, 0)], ⟨[], [], true⟩,
    [⟨32, 8, 0, 0, false, .rng 0 159⟩, ⟨24, 8, 0, 0, false, .any⟩, ⟨21, 1, 0, 0, false, .any⟩, ⟨0, 0, 0, 40, false, .any⟩],
    fun v => decide ((v.getD 2 0) = 1 ∨ (v.getD 3 0) = 0), fun v => decide ((v.getD 0 0) + (v.getD 1 0) ≤ 159),
    fun h v => .xfallOff h (v.getD 0 0) (v.getD 1 0) (v.getD 2 0) (v.getD 3 0)⟩,
  ⟨0x17, .cmd, [(22, 2, 1)], ⟨[], [], true⟩,
    [⟨32, 8, 0, 0, false, .rng 0 159⟩, ⟨24, 8, 0, 0, false, .any⟩, ⟨21, 1, 0, 0, false, .any⟩, ⟨0, 0, 0, 40, false, .any⟩],
    fun v => decide ((v.getD 2 0) = 1 ∨ (v.getD 3 0) = 0), fun v => decide ((v.getD 0 0) + (v.getD 1 0) ≤ 159),
    fun h v => .xfallMan h (v.getD 0 0) (v.getD 1 0) (v.getD 2 0) (v.getD 3 0)⟩,
  ⟨0x17, .cmd, [(22, 2, 2)], ⟨[], [], true⟩,
    [⟨32, 8, 0, 0, false, .rng 0 159⟩, ⟨24, 8, 0, 0, false, .any⟩, ⟨21, 1, 0, 0, false, .any⟩, ⟨0, 0, 0, 40, false, .any⟩],
    fun v => decide ((v.getD 2 0) = 1 ∨ (v.getD 3 0) = 0), fun v => decide ((v.getD 0 0) + (v.getD 1 0) ≤ 159),
    fun h v => .xfallAuto h (v.getD 0 0) (v.getD 1 0) (v.getD 2 0) (v.getD 3 0)⟩,
  ⟨0x18, .cmd, [], ⟨[], [], true⟩,
    [⟨32, 8, 0, 0, false, .rng 0 159⟩, ⟨24, 8, 0, 0, false, .any⟩, ⟨4, 20, 0, 0, false, .any⟩, ⟨3, 1, 0, 0, false, .any⟩, ⟨0, 0, 0, 40, false, .any⟩],
    fun v => decide ((v.getD 3 0) = 1 ∨ (v.getD 4 0) = 0), fun v => decide ((v.getD 0 0) + (v.getD 1 0) ≤ 159),
    fun h v => .xaudit h (v.getD 0 0) (v.getD 1 0) (v.getD 2 0) (v.getD 3 0) (v.getD 4 0)⟩,
  ⟨0x19, .cmd, [], ⟨[], [], true⟩,
    [⟨32, 8, 0, 0, false, .rng 0 159⟩, ⟨29, 3, 0, 0, false, .any⟩, ⟨26, 3, 0, 0, false, .any⟩, ⟨25, 1, 0, 0, false, .any⟩, ⟨18, 7, 0, 0, false, .any⟩],
    fun _ => true, fun v => decide ((v.getD 1 0) + (v.getD 2 0) ≤ 7 ∧ (v.getD 4 0) * 4096 + (16384 + 16384 * (v.getD 3 0)) * ((v.getD 2 0) + 1) ≤ 524288),
    fun h v => .xrd h (v.getD 0 0) (v.getD 1 0) (v.getD 2 0) (v.getD 3 0) (v.getD 4 0)⟩,
  ⟨0x1a, .cmd, [(31, 1, 0)], ⟨[], [], true⟩,
    [⟨32, 8, 0, 0, false, .rng 0 159⟩],
    fun _ => true, fun _ => true,
    fun h v => .xerase h (v.getD 0 0)⟩,
  ⟨0x1a, .cmd, [(31, 1, 1)], ⟨[], [], true⟩,
    [⟨32, 8, 0, 0, false, .rng 0 159⟩],
    fun _ => true, fun _ => true,
    fun h v => .xeraseRt h (v.getD 0 0)⟩]

/-- Encodings of the xbr words (02 R52 to R56 and the chapters they name). -/
noncomputable def xbrRows : List Row := xbrRows1 ++ xbrRows2

/-- Encodings of the cpy words, part 1. -/
noncomputable def cpyRows1 : List Row := [
  ⟨0x1, .cmd, [], ⟨[0, 1, 2, 3, 4], [1], false⟩,
    [⟨32, 8, 0, 0, false, .rng 0 64⟩, ⟨20, 12, 0, 0, false, .any⟩],
    fun _ => true, fun _ => true,
    fun h v => .cpy h (v.getD 0 0) (v.getD 1 0)⟩,
  ⟨0x2, .cmd, [], ⟨[0, 1, 2, 3, 4], [1], false⟩,
    [⟨32, 8, 0, 0, false, .rng 0 64⟩, ⟨20, 12, 0, 0, false, .any⟩],
    fun _ => true, fun _ => true,
    fun h v => .cpys h (v.getD 0 0) (v.getD 1 0)⟩,
  ⟨0x3, .cmd, [(0, 1, 0)], ⟨[0, 1, 2, 3, 4], [1], false⟩,
    [⟨32, 8, 0, 0, false, .rng 0 64⟩, ⟨20, 12, 0, 0, false, .any⟩],
    fun _ => true, fun _ => true,
    fun h v => .cpyg h (v.getD 0 0) (v.getD 1 0)⟩,
  ⟨0x3, .cmd, [(0, 1, 1)], ⟨[0, 1, 2, 3, 4], [1], false⟩,
    [⟨32, 8, 0, 0, false, .rng 0 64⟩, ⟨20, 12, 0, 0, false, .any⟩],
    fun _ => true, fun _ => true,
    fun h v => .cpygSct h (v.getD 0 0) (v.getD 1 0)⟩,
  ⟨0x4, .cmd, [], ⟨[0, 1, 2, 3, 4], [1], false⟩,
    [⟨32, 8, 0, 0, false, .rng 0 64⟩, ⟨20, 12, 0, 0, false, .any⟩],
    fun _ => true, fun _ => true,
    fun h v => .cpyt h (v.getD 0 0) (v.getD 1 0)⟩,
  ⟨0x5, .cmd, [], ⟨[0, 1, 2, 3, 4], [1], false⟩,
    [⟨32, 8, 0, 0, false, .rng 0 64⟩, ⟨20, 12, 0, 0, false, .any⟩],
    fun _ => true, fun _ => true,
    fun h v => .cpyx h (v.getD 0 0) (v.getD 1 0)⟩,
  ⟨0x6, .cmd, [], ⟨[0, 1, 2, 3, 4], [1], false⟩,
    [⟨32, 8, 0, 0, false, .rng 0 64⟩, ⟨20, 12, 0, 0, false, .any⟩],
    fun _ => true, fun _ => true,
    fun h v => .fill h (v.getD 0 0) (v.getD 1 0)⟩,
  ⟨0x7, .cmd, [], ⟨[0], [], false⟩,
    [⟨0, 3, 0, 0, false, .rng 1 7⟩],
    fun _ => true, fun _ => true,
    fun h v => .sbar h (v.getD 0 0)⟩,
  ⟨0x8, .cmd, [], ⟨[0], [], false⟩,
    [⟨32, 8, 0, 0, false, .rng 0 64⟩, ⟨20, 12, 0, 0, false, .any⟩],
    fun _ => true, fun _ => true,
    fun h v => .pfch h (v.getD 0 0) (v.getD 1 0)⟩,
  ⟨0x9, .cmd, [], ⟨[], [], false⟩,
    [⟨32, 8, 0, 0, false, .rng 0 64⟩, ⟨20, 12, 0, 0, false, .any⟩],
    fun _ => true, fun _ => true,
    fun h v => .chksum h (v.getD 0 0) (v.getD 1 0)⟩,
  ⟨0xa, .cmd, [], ⟨[], [], false⟩,
    [⟨0, 7, 0, 0, false, .any⟩],
    fun _ => true, fun _ => true,
    fun h v => .crec h (v.getD 0 0)⟩,
  ⟨0xb, .cmd, [], ⟨[], [], false⟩,
    [⟨32, 8, 0, 0, false, .rng 0 64⟩, ⟨20, 12, 0, 0, false, .any⟩],
    fun _ => true, fun _ => true,
    fun h v => .cstat h (v.getD 0 0) (v.getD 1 0)⟩,
  ⟨0xc, .cmd, [], ⟨[], [], false⟩,
    [],
    fun _ => true, fun _ => true,
    fun h _ => .cdrain h⟩,
  ⟨0xd, .cmd, [], ⟨[], [], false⟩,
    [⟨32, 8, 0, 0, false, .rng 0 64⟩, ⟨20, 12, 0, 0, false, .any⟩, ⟨16, 3, 0, 0, false, .any⟩, ⟨0, 7, 0, 0, false, .any⟩],
    fun _ => true, fun _ => true,
    fun h v => .nmuld h (v.getD 0 0) (v.getD 1 0) (v.getD 2 0) (v.getD 3 0)⟩,
  ⟨0xe, .cmd, [], ⟨[], [], false⟩,
    [⟨32, 8, 0, 0, false, .rng 0 64⟩, ⟨20, 12, 0, 0, false, .any⟩, ⟨0, 8, 0, 0, false, .any⟩],
    fun _ => true, fun _ => true,
    fun h v => .nmustat h (v.getD 0 0) (v.getD 1 0) (v.getD 2 0)⟩,
  ⟨0xf, .cmd, [(0, 1, 0)], ⟨[0, 1, 2, 3, 4], [], false⟩,
    [⟨32, 8, 0, 0, false, .rng 0 64⟩, ⟨20, 12, 0, 0, false, .any⟩],
    fun _ => true, fun _ => true,
    fun h v => .kvgWait h (v.getD 0 0) (v.getD 1 0)⟩,
  ⟨0xf, .cmd, [(0, 1, 1)], ⟨[0, 1, 2, 3, 4], [], false⟩,
    [⟨32, 8, 0, 0, false, .rng 0 64⟩, ⟨20, 12, 0, 0, false, .any⟩],
    fun _ => true, fun _ => true,
    fun h v => .kvgMask h (v.getD 0 0) (v.getD 1 0)⟩,
  ⟨0x10, .cmd, [], ⟨[0, 1, 2, 3, 4], [1], false⟩,
    [⟨32, 8, 0, 0, false, .rng 0 64⟩, ⟨20, 12, 0, 0, false, .any⟩],
    fun _ => true, fun _ => true,
    fun h v => .kvout h (v.getD 0 0) (v.getD 1 0)⟩,
  ⟨0x11, .cmd, [], ⟨[0, 1, 2, 3, 4], [], false⟩,
    [⟨32, 8, 0, 0, false, .rng 0 64⟩, ⟨20, 12, 0, 0, false, .any⟩],
    fun _ => true, fun _ => true,
    fun h v => .kvin h (v.getD 0 0) (v.getD 1 0)⟩,
  ⟨0x12, .cmd, [], ⟨[0, 1, 2, 3, 4], [], false⟩,
    [⟨32, 8, 0, 0, false, .rng 0 64⟩, ⟨20, 12, 0, 0, false, .any⟩],
    fun _ => true, fun _ => true,
    fun h v => .kvst h (v.getD 0 0) (v.getD 1 0)⟩,
  ⟨0x13, .cmd, [], ⟨[0, 1, 2, 3, 4], [], false⟩,
    [⟨32, 8, 0, 0, false, .rng 0 64⟩, ⟨20, 12, 0, 0, false, .any⟩, ⟨0, 7, 0, 0, false, .any⟩],
    fun _ => true, fun _ => true,
    fun h v => .bfq h (v.getD 0 0) (v.getD 1 0) (v.getD 2 0)⟩,
  ⟨0x14, .cmd, [(0, 3, 0)], ⟨[], [], false⟩,
    [⟨32, 8, 0, 0, false, .rng 0 64⟩, ⟨20, 12, 0, 0, false, .any⟩],
    fun _ => true, fun _ => true,
    fun h v => .bfctlLoad h (v.getD 0 0) (v.getD 1 0)⟩,
  ⟨0x14, .cmd, [(0, 3, 1)], ⟨[], [], false⟩,
    [⟨32, 8, 0, 0, false, .rng 0 64⟩, ⟨13, 7, 0, 0, false, .any⟩],
    fun _ => true, fun _ => true,
    fun h v => .bfctlStat h (v.getD 0 0) (v.getD 1 0)⟩,
  ⟨0x14, .cmd, [(0, 3, 2)], ⟨[], [], false⟩,
    [⟨32, 8, 0, 0, false, .rng 0 64⟩],
    fun _ => true, fun _ => true,
    fun h v => .bfctlDrain h (v.getD 0 0)⟩]

/-- Encodings of the cpy words, part 2. -/
noncomputable def cpyRows2 : List Row := [
  ⟨0x14, .cmd, [(0, 3, 3)], ⟨[], [], false⟩,
    [⟨32, 8, 0, 0, false, .rng 0 64⟩],
    fun _ => true, fun _ => true,
    fun h v => .bfctlPause h (v.getD 0 0)⟩,
  ⟨0x14, .cmd, [(0, 3, 4)], ⟨[], [], false⟩,
    [⟨32, 8, 0, 0, false, .rng 0 64⟩],
    fun _ => true, fun _ => true,
    fun h v => .bfctlRun h (v.getD 0 0)⟩]

/-- Encodings of the cpy words (02 R52 to R56 and the chapters they name). -/
noncomputable def cpyRows : List Row := cpyRows1 ++ cpyRows2

/-- Encodings of the near-memory instructions (10 R291). -/
noncomputable def nmuRows1 : List NmuRow := [
  ⟨0x1, [⟨21, 5, 0, 0, false, .nReg⟩, ⟨16, 5, 0, 0, false, .nReg⟩, ⟨11, 5, 0, 0, false, .nReg⟩, ⟨3, 2, 0, 0, false, .any⟩, ⟨5, 1, 0, 0, false, .any⟩, ⟨0, 3, 0, 0, false, .rng 0 4⟩], fun _ => true,
    fun v => .nadd (v.getD 0 0) (v.getD 1 0) (v.getD 2 0) (v.getD 3 0) (v.getD 4 0) (v.getD 5 0)⟩,
  ⟨0x2, [⟨21, 5, 0, 0, false, .nReg⟩, ⟨16, 5, 0, 0, false, .nReg⟩, ⟨11, 5, 0, 0, false, .nReg⟩, ⟨3, 2, 0, 0, false, .any⟩, ⟨5, 1, 0, 0, false, .any⟩, ⟨0, 3, 0, 0, false, .rng 0 4⟩], fun _ => true,
    fun v => .nsub (v.getD 0 0) (v.getD 1 0) (v.getD 2 0) (v.getD 3 0) (v.getD 4 0) (v.getD 5 0)⟩,
  ⟨0x3, [⟨21, 5, 0, 0, false, .nReg⟩, ⟨16, 5, 0, 0, false, .nReg⟩, ⟨11, 5, 0, 0, false, .nReg⟩, ⟨3, 2, 0, 0, false, .any⟩, ⟨5, 1, 0, 0, false, .any⟩, ⟨0, 3, 0, 0, false, .rng 0 4⟩], fun _ => true,
    fun v => .nmul (v.getD 0 0) (v.getD 1 0) (v.getD 2 0) (v.getD 3 0) (v.getD 4 0) (v.getD 5 0)⟩,
  ⟨0x4, [⟨21, 5, 0, 0, false, .nReg⟩, ⟨16, 5, 0, 0, false, .nReg⟩, ⟨11, 5, 0, 0, false, .nReg⟩, ⟨3, 2, 0, 0, false, .any⟩, ⟨5, 1, 0, 0, false, .any⟩, ⟨0, 3, 0, 0, false, .rng 0 4⟩], fun _ => true,
    fun v => .nfma (v.getD 0 0) (v.getD 1 0) (v.getD 2 0) (v.getD 3 0) (v.getD 4 0) (v.getD 5 0)⟩,
  ⟨0x5, [⟨21, 5, 0, 0, false, .nReg⟩, ⟨16, 5, 0, 0, false, .nReg⟩, ⟨11, 5, 0, 0, false, .nReg⟩, ⟨3, 2, 0, 0, false, .any⟩, ⟨5, 1, 0, 0, false, .any⟩, ⟨0, 3, 0, 0, false, .rng 0 4⟩], fun _ => true,
    fun v => .nmin (v.getD 0 0) (v.getD 1 0) (v.getD 2 0) (v.getD 3 0) (v.getD 4 0) (v.getD 5 0)⟩,
  ⟨0x6, [⟨21, 5, 0, 0, false, .nReg⟩, ⟨16, 5, 0, 0, false, .nReg⟩, ⟨11, 5, 0, 0, false, .nReg⟩, ⟨3, 2, 0, 0, false, .any⟩, ⟨5, 1, 0, 0, false, .any⟩, ⟨0, 3, 0, 0, false, .rng 0 4⟩], fun _ => true,
    fun v => .nmax (v.getD 0 0) (v.getD 1 0) (v.getD 2 0) (v.getD 3 0) (v.getD 4 0) (v.getD 5 0)⟩,
  ⟨0x7, [⟨21, 5, 0, 0, false, .nReg⟩, ⟨16, 5, 0, 0, false, .nReg⟩, ⟨3, 2, 0, 0, false, .any⟩, ⟨5, 1, 0, 0, false, .any⟩, ⟨0, 3, 0, 0, false, .rng 0 4⟩], fun _ => true,
    fun v => .nabs (v.getD 0 0) (v.getD 1 0) (v.getD 2 0) (v.getD 3 0) (v.getD 4 0)⟩,
  ⟨0x8, [⟨21, 5, 0, 0, false, .nReg⟩, ⟨16, 5, 0, 0, false, .nReg⟩, ⟨3, 2, 0, 0, false, .any⟩, ⟨5, 1, 0, 0, false, .any⟩, ⟨0, 3, 0, 0, false, .rng 0 4⟩], fun _ => true,
    fun v => .nneg (v.getD 0 0) (v.getD 1 0) (v.getD 2 0) (v.getD 3 0) (v.getD 4 0)⟩,
  ⟨0x9, [⟨21, 5, 0, 0, false, .nReg⟩, ⟨16, 5, 0, 0, false, .nReg⟩, ⟨11, 5, 0, 0, false, .nReg⟩, ⟨3, 2, 0, 0, false, .any⟩, ⟨5, 1, 0, 0, false, .any⟩, ⟨0, 3, 0, 0, false, .rng 0 4⟩], fun _ => true,
    fun v => .ncmpeq (v.getD 0 0) (v.getD 1 0) (v.getD 2 0) (v.getD 3 0) (v.getD 4 0) (v.getD 5 0)⟩,
  ⟨0xa, [⟨21, 5, 0, 0, false, .nReg⟩, ⟨16, 5, 0, 0, false, .nReg⟩, ⟨11, 5, 0, 0, false, .nReg⟩, ⟨3, 2, 0, 0, false, .any⟩, ⟨5, 1, 0, 0, false, .any⟩, ⟨0, 3, 0, 0, false, .rng 0 4⟩], fun _ => true,
    fun v => .ncmplt (v.getD 0 0) (v.getD 1 0) (v.getD 2 0) (v.getD 3 0) (v.getD 4 0) (v.getD 5 0)⟩,
  ⟨0xb, [⟨21, 5, 0, 0, false, .nReg⟩, ⟨16, 5, 0, 0, false, .nReg⟩, ⟨11, 5, 0, 0, false, .nReg⟩, ⟨3, 2, 0, 0, false, .any⟩, ⟨5, 1, 0, 0, false, .any⟩, ⟨0, 3, 0, 0, false, .rng 0 4⟩], fun _ => true,
    fun v => .ncmple (v.getD 0 0) (v.getD 1 0) (v.getD 2 0) (v.getD 3 0) (v.getD 4 0) (v.getD 5 0)⟩,
  ⟨0xc, [⟨21, 5, 0, 0, false, .nReg⟩, ⟨16, 5, 0, 0, false, .nReg⟩, ⟨11, 5, 0, 0, false, .nReg⟩, ⟨0, 5, 0, 0, false, .nReg⟩], fun _ => true,
    fun v => .nsel (v.getD 0 0) (v.getD 1 0) (v.getD 2 0) (v.getD 3 0)⟩,
  ⟨0xd, [⟨21, 5, 0, 0, false, .nReg⟩, ⟨16, 5, 0, 0, false, .nReg⟩, ⟨11, 5, 0, 0, false, .nReg⟩], fun _ => true,
    fun v => .nand (v.getD 0 0) (v.getD 1 0) (v.getD 2 0)⟩,
  ⟨0xe, [⟨21, 5, 0, 0, false, .nReg⟩, ⟨16, 5, 0, 0, false, .nReg⟩, ⟨11, 5, 0, 0, false, .nReg⟩], fun _ => true,
    fun v => .nor (v.getD 0 0) (v.getD 1 0) (v.getD 2 0)⟩,
  ⟨0xf, [⟨21, 5, 0, 0, false, .nReg⟩, ⟨16, 5, 0, 0, false, .nReg⟩, ⟨11, 5, 0, 0, false, .nReg⟩], fun _ => true,
    fun v => .nxor (v.getD 0 0) (v.getD 1 0) (v.getD 2 0)⟩,
  ⟨0x10, [⟨21, 5, 0, 0, false, .nReg⟩, ⟨16, 5, 0, 0, false, .nReg⟩, ⟨0, 5, 0, 0, false, .any⟩], fun _ => true,
    fun v => .nshl (v.getD 0 0) (v.getD 1 0) (v.getD 2 0)⟩,
  ⟨0x11, [⟨21, 5, 0, 0, false, .nReg⟩, ⟨16, 5, 0, 0, false, .nReg⟩, ⟨0, 5, 0, 0, false, .any⟩, ⟨5, 1, 0, 0, false, .any⟩], fun _ => true,
    fun v => .nshr (v.getD 0 0) (v.getD 1 0) (v.getD 2 0) (v.getD 3 0)⟩,
  ⟨0x12, [⟨21, 5, 0, 0, false, .nReg⟩, ⟨16, 5, 0, 0, false, .nReg⟩, ⟨11, 3, 0, 0, false, .any⟩, ⟨0, 3, 0, 0, false, .rng 0 4⟩, ⟨3, 2, 0, 0, false, .any⟩, ⟨5, 1, 0, 0, false, .any⟩, ⟨6, 3, 0, 0, false, .rng 0 4⟩], fun v => ncvtPartOk (v.getD 2 0) (v.getD 3 0) (v.getD 6 0),
    fun v => .ncvt (v.getD 0 0) (v.getD 1 0) (v.getD 2 0) (v.getD 3 0) (v.getD 4 0) (v.getD 5 0) (v.getD 6 0)⟩,
  ⟨0x13, [⟨21, 5, 0, 0, false, .nReg⟩, ⟨16, 5, 0, 0, false, .nReg⟩, ⟨0, 4, 0, 0, false, .any⟩], fun _ => true,
    fun v => .nbcst (v.getD 0 0) (v.getD 1 0) (v.getD 2 0)⟩,
  ⟨0x14, [⟨21, 5, 0, 0, false, .nReg⟩, ⟨0, 21, 0, 0, false, .any⟩], fun _ => true,
    fun v => .nli (v.getD 0 0) (v.getD 1 0)⟩]

noncomputable def nmuRows2 : List NmuRow := [
  ⟨0x15, [⟨21, 5, 0, 0, false, .nReg⟩, ⟨0, 21, 0, 0, false, .any⟩], fun _ => true,
    fun v => .nlih (v.getD 0 0) (v.getD 1 0)⟩,
  ⟨0x16, [⟨21, 5, 0, 0, false, .nReg⟩, ⟨16, 5, 0, 0, false, .nReg⟩], fun _ => true,
    fun v => .nmov (v.getD 0 0) (v.getD 1 0)⟩,
  ⟨0x17, [⟨21, 5, 0, 0, false, .nReg⟩, ⟨16, 5, 0, 0, false, .nReg⟩, ⟨3, 2, 0, 0, false, .any⟩, ⟨5, 1, 0, 0, false, .any⟩, ⟨0, 3, 0, 0, false, .rng 0 4⟩], fun _ => true,
    fun v => .nrsum (v.getD 0 0) (v.getD 1 0) (v.getD 2 0) (v.getD 3 0) (v.getD 4 0)⟩,
  ⟨0x18, [⟨21, 5, 0, 0, false, .nReg⟩, ⟨16, 5, 0, 0, false, .nReg⟩, ⟨3, 2, 0, 0, false, .any⟩, ⟨5, 1, 0, 0, false, .any⟩, ⟨0, 3, 0, 0, false, .rng 0 4⟩], fun _ => true,
    fun v => .nrmin (v.getD 0 0) (v.getD 1 0) (v.getD 2 0) (v.getD 3 0) (v.getD 4 0)⟩,
  ⟨0x19, [⟨21, 5, 0, 0, false, .nReg⟩, ⟨16, 5, 0, 0, false, .nReg⟩, ⟨3, 2, 0, 0, false, .any⟩, ⟨5, 1, 0, 0, false, .any⟩, ⟨0, 3, 0, 0, false, .rng 0 4⟩], fun _ => true,
    fun v => .nrmax (v.getD 0 0) (v.getD 1 0) (v.getD 2 0) (v.getD 3 0) (v.getD 4 0)⟩,
  ⟨0x1a, [⟨21, 5, 0, 0, false, .nReg⟩, ⟨0, 1, 0, 0, false, .any⟩], fun _ => true,
    fun v => .nld (v.getD 0 0) (v.getD 1 0)⟩,
  ⟨0x1b, [⟨16, 5, 0, 0, false, .nReg⟩, ⟨0, 2, 0, 0, false, .rng 0 2⟩], fun _ => true,
    fun v => .nst (v.getD 0 0) (v.getD 1 0)⟩,
  ⟨0x1c, [⟨21, 5, 0, 0, false, .nReg⟩], fun _ => true,
    fun v => .nldp (v.getD 0 0)⟩,
  ⟨0x1d, [⟨0, 6, 0, 0, false, .any⟩], fun _ => true,
    fun v => .nskip (v.getD 0 0)⟩,
  ⟨0x1e, [⟨21, 5, 0, 0, false, .any⟩, ⟨0, 11, 0, 0, false, .any⟩], fun _ => true,
    fun v => .nloop1 (v.getD 0 0) (v.getD 1 0)⟩,
  ⟨0x1f, [⟨21, 5, 0, 0, false, .any⟩, ⟨0, 11, 0, 0, false, .any⟩], fun _ => true,
    fun v => .nloop2 (v.getD 0 0) (v.getD 1 0)⟩,
  ⟨0x20, [], fun _ => true,
    fun _ => .nend⟩,
  ⟨0x21, [], fun _ => true,
    fun _ => .nnop⟩,
  ⟨0x22, [⟨21, 5, 0, 0, false, .nReg⟩, ⟨16, 5, 0, 0, false, .nReg⟩, ⟨3, 2, 0, 0, false, .any⟩, ⟨5, 1, 0, 0, false, .any⟩, ⟨0, 3, 0, 0, false, .rng 0 1⟩], fun _ => true,
    fun v => .nrcp (v.getD 0 0) (v.getD 1 0) (v.getD 2 0) (v.getD 3 0) (v.getD 4 0)⟩,
  ⟨0x23, [⟨21, 5, 0, 0, false, .nReg⟩, ⟨16, 5, 0, 0, false, .nReg⟩, ⟨11, 5, 0, 0, false, .nReg⟩, ⟨3, 2, 0, 0, false, .any⟩, ⟨5, 1, 0, 0, false, .any⟩, ⟨0, 3, 0, 0, false, .rng 0 4⟩], fun _ => true,
    fun v => .nclamp (v.getD 0 0) (v.getD 1 0) (v.getD 2 0) (v.getD 3 0) (v.getD 4 0) (v.getD 5 0)⟩,
  ⟨0x24, [⟨21, 5, 0, 0, false, .nReg⟩, ⟨16, 5, 0, 0, false, .nReg⟩, ⟨11, 5, 0, 0, false, .nReg⟩, ⟨3, 2, 0, 0, false, .any⟩, ⟨5, 1, 0, 0, false, .any⟩, ⟨0, 3, 0, 0, false, .rng 0 3⟩], fun _ => true,
    fun v => .nscl (v.getD 0 0) (v.getD 1 0) (v.getD 2 0) (v.getD 3 0) (v.getD 4 0) (v.getD 5 0)⟩,
  ⟨0x25, [⟨21, 5, 0, 0, false, .nReg⟩, ⟨16, 5, 0, 0, false, .nReg⟩, ⟨3, 2, 0, 0, false, .any⟩, ⟨5, 1, 0, 0, false, .any⟩, ⟨0, 3, 0, 0, false, .rng 0 4⟩], fun _ => true,
    fun v => .nramax (v.getD 0 0) (v.getD 1 0) (v.getD 2 0) (v.getD 3 0) (v.getD 4 0)⟩,
  ⟨0x26, [⟨21, 5, 0, 0, false, .nReg⟩, ⟨16, 5, 0, 0, false, .nReg⟩, ⟨11, 5, 0, 0, false, .nReg⟩, ⟨3, 2, 0, 0, false, .any⟩, ⟨5, 1, 0, 0, false, .any⟩, ⟨0, 3, 0, 0, false, .rng 0 4⟩], fun _ => true,
    fun v => .ncmpne (v.getD 0 0) (v.getD 1 0) (v.getD 2 0) (v.getD 3 0) (v.getD 4 0) (v.getD 5 0)⟩,
  ⟨0x27, [⟨21, 5, 0, 0, false, .nReg⟩, ⟨16, 5, 0, 0, false, .nReg⟩, ⟨11, 5, 0, 0, false, .nReg⟩], fun _ => true,
    fun v => .nandn (v.getD 0 0) (v.getD 1 0) (v.getD 2 0)⟩,
  ⟨0x28, [⟨21, 5, 0, 0, false, .nReg⟩, ⟨16, 5, 0, 0, false, .nReg⟩, ⟨11, 5, 0, 0, false, .nReg⟩], fun _ => true,
    fun v => .nshuf (v.getD 0 0) (v.getD 1 0) (v.getD 2 0)⟩]

noncomputable def nmuRows : List NmuRow := nmuRows1 ++ nmuRows2

/-- Where an instruction's encoding stands: its class, its row among the class's rows, its header and its operands. Events
have no encoding. -/
def instrParts : Instr → Option (Engine × Nat × Hdr × List Nat)
  | .imx _ _ | .scp _ _ _ | .pmt _ _ _ | .nop _ => none
  | .add h d a b => some (.ctl, 0, h, [d, a, b])
  | .sub h d a b => some (.ctl, 1, h, [d, a, b])
  | .mul h d a b => some (.ctl, 2, h, [d, a, b])
  | .mulh h d a b x => some (.ctl, 3, h, [d, a, b, x])
  | .div h d a b x => some (.ctl, 4, h, [d, a, b, x])
  | .rem h d a b x => some (.ctl, 5, h, [d, a, b, x])
  | .and h d a b => some (.ctl, 6, h, [d, a, b])
  | .or h d a b => some (.ctl, 7, h, [d, a, b])
  | .xor h d a b => some (.ctl, 8, h, [d, a, b])
  | .andn h d a b => some (.ctl, 9, h, [d, a, b])
  | .shl h d a b => some (.ctl, 10, h, [d, a, b])
  | .shr h d a b x => some (.ctl, 11, h, [d, a, b, x])
  | .rot h d a b => some (.ctl, 12, h, [d, a, b])
  | .min h d a b x => some (.ctl, 13, h, [d, a, b, x])
  | .max h d a b x => some (.ctl, 14, h, [d, a, b, x])
  | .clz h d a => some (.ctl, 15, h, [d, a])
  | .ctz h d a => some (.ctl, 16, h, [d, a])
  | .popc h d a => some (.ctl, 17, h, [d, a])
  | .addi h d a imm => some (.ctl, 18, h, [d, a, imm])
  | .muli h d a imm => some (.ctl, 19, h, [d, a, imm])
  | .andi h d a imm => some (.ctl, 20, h, [d, a, imm])
  | .ori h d a imm => some (.ctl, 21, h, [d, a, imm])
  | .xori h d a imm => some (.ctl, 22, h, [d, a, imm])
  | .shli h d a n => some (.ctl, 23, h, [d, a, n])
  | .shri h d a n arith => some (.ctl, 24, h, [d, a, n, arith])
  | .li h d imm => some (.ctl, 25, h, [d, imm])
  | .sext h d a n => some (.ctl, 26, h, [d, a, n])
  | .ext h d a pos width => some (.ctl, 27, h, [d, a, pos, width])
  | .exts h d a pos width => some (.ctl, 28, h, [d, a, pos, width])
  | .ins h d a pos width => some (.ctl, 29, h, [d, a, pos, width])
  | .fsh h d a b n => some (.ctl, 30, h, [d, a, b, n])
  | .cmp h d a b cond => some (.ctl, 31, h, [d, a, b, cond])
  | .seqi h d a imm => some (.ctl, 32, h, [d, a, imm])
  | .slti h d a imm => some (.ctl, 33, h, [d, a, imm])
  | .sltui h d a imm => some (.ctl, 34, h, [d, a, imm])
  | .sel h d a b c => some (.ctl, 35, h, [d, a, b, c])
  | .b h cond a off => some (.ctl, 36, h, [cond, a, off])
  | .jmp h a imm => some (.ctl, 37, h, [a, imm])
  | .call h off => some (.ctl, 38, h, [off])
  | .callr h d a imm => some (.ctl, 39, h, [d, a, imm])
  | .ret h => some (.ctl, 40, h, [])
  | .loop h a off => some (.ctl, 41, h, [a, off])
  | .crng h d a b => some (.ctl, 42, h, [d, a, b])
  | .fork h eng routine cnt => some (.ctl, 43, h, [eng, routine, cnt])
  | .ringp h d a eng => some (.ctl, 44, h, [d, a, eng])
  | .ringp2 h d a b eng => some (.ctl, 45, h, [d, a, b, eng])
  | .ringq h d eng => some (.ctl, 46, h, [d, eng])
  | .semset h n v => some (.ctl, 47, h, [n, v])
  | .semrd h n d => some (.ctl, 48, h, [n, d])
  | .tokrd h prod cons d => some (.ctl, 49, h, [prod, cons, d])
  | .bhmap h slot n => some (.ctl, 50, h, [slot, n])
  | .mtwr h level field a => some (.ctl, 51, h, [level, field, a])
  | .sysrd h d reg => some (.ctl, 52, h, [d, reg])
  | .syswr h a reg => some (.ctl, 53, h, [a, reg])
  | .done h => some (.ctl, 54, h, [])
  | .hend h => some (.ctl, 55, h, [])
  | .synrd h d cfg kind col foreign idx => some (.ctl, 56, h, [d, cfg, kind, col, foreign, idx])
  | .scrub h kind col foreign idx rst => some (.ctl, 57, h, [kind, col, foreign, idx, rst])
  | .poison h kind col foreign idx cause => some (.ctl, 58, h, [kind, col, foreign, idx, cause])
  | .binitTile h slot target => some (.ctl, 59, h, [slot, target])
  | .binitCol h slot target => some (.ctl, 60, h, [slot, target])
  | .binitDev h slot target home => some (.ctl, 61, h, [slot, target, home])
  | .cwpost h n a => some (.ctl, 62, h, [n, a])
  | .ctlFence h => some (.ctl, 63, h, [])
  | .bsflush h col foreign first count => some (.ctl, 64, h, [col, foreign, first, count])
  | .bsinv h col foreign first count => some (.ctl, 65, h, [col, foreign, first, count])
  | .bspset h d n => some (.ctl, 66, h, [d, n])
  | .launch h sheaf cwen cw => some (.ctl, 67, h, [sheaf, cwen, cw])
  | .preemptStop h col row => some (.ctl, 68, h, [col, row])
  | .preemptResume h col row => some (.ctl, 69, h, [col, row])
  | .snaprd h d n row col => some (.ctl, 70, h, [d, n, row, col])
  | .snapwr h a n row col => some (.ctl, 71, h, [a, n, row, col])
  | .ctxsave h col row full => some (.ctl, 72, h, [col, row, full])
  | .ctxrest h col row => some (.ctl, 73, h, [col, row])
  | .ctxscrub h => some (.ctl, 74, h, [])
  | .ctxkill h cause => some (.ctl, 75, h, [cause])
  | .tld h d a b => some (.ctl, 76, h, [d, a, b])
  | .trde h d a b x => some (.ctl, 77, h, [d, a, b, x])
  | .tmap h d a b => some (.ctl, 78, h, [d, a, b])
  | .tunmap h d a st ret => some (.ctl, 79, h, [d, a, st, ret])
  | .tshd h d a b sys inv => some (.ctl, 80, h, [d, a, b, sys, inv])
  | .tprb h d a => some (.ctl, 81, h, [d, a])
  | .trap h v code => some (.ctl, 82, h, [v, code])
  | .tret h => some (.ctl, 83, h, [])
  | .tspill h f l off => some (.ctl, 84, h, [f, l, off])
  | .tfill h f l off => some (.ctl, 85, h, [f, l, off])
  | .stest h d eng part => some (.ctl, 86, h, [d, eng, part])
  | .errrd h d idx hi => some (.ctl, 87, h, [d, idx, hi])
  | .errrdSt h d clr => some (.ctl, 88, h, [d, clr])
  | .ldq h q c index scale disp => some (.acc, 0, h, [q, c, index, scale, disp])
  | .ldqs h q c ab astr len rows disp => some (.acc, 1, h, [q, c, ab, astr, len, rows, disp])
  | .ldqg h q c cl al ab len rows => some (.acc, 2, h, [q, c, cl, al, ab, len, rows])
  | .stq h q c index scale disp => some (.acc, 3, h, [q, c, index, scale, disp])
  | .stqs h q c ab astr len rows disp => some (.acc, 4, h, [q, c, ab, astr, len, rows, disp])
  | .stqg h q c cl al ab len rows => some (.acc, 5, h, [q, c, cl, al, ab, len, rows])
  | .ldb h d a imm => some (.acc, 6, h, [d, a, imm])
  | .ldh h d a imm => some (.acc, 7, h, [d, a, imm])
  | .ldw h d a imm => some (.acc, 8, h, [d, a, imm])
  | .ldd h d a imm => some (.acc, 9, h, [d, a, imm])
  | .stb h d a imm => some (.acc, 10, h, [d, a, imm])
  | .sth h d a imm => some (.acc, 11, h, [d, a, imm])
  | .stw h d a imm => some (.acc, 12, h, [d, a, imm])
  | .std h d a imm => some (.acc, 13, h, [d, a, imm])
  | .cld h d a imm => some (.acc, 14, h, [d, a, imm])
  | .cst h d a imm => some (.acc, 15, h, [d, a, imm])
  | .cder h d a b => some (.acc, 16, h, [d, a, b])
  | .cderLen h d a b => some (.acc, 17, h, [d, a, b])
  | .cperm h d a mask => some (.acc, 18, h, [d, a, mask])
  | .cget h d a f => some (.acc, 19, h, [d, a, f])
  | .ctest h d a b need => some (.acc, 20, h, [d, a, b, need])
  | .aadd h d a b => some (.acc, 21, h, [d, a, b])
  | .asub h d a b => some (.acc, 22, h, [d, a, b])
  | .aaddi h d a imm => some (.acc, 23, h, [d, a, imm])
  | .amuli h d a imm => some (.acc, 24, h, [d, a, imm])
  | .ashli h d a n => some (.acc, 25, h, [d, a, n])
  | .aandi h d a imm => some (.acc, 26, h, [d, a, imm])
  | .ali h d imm => some (.acc, 27, h, [d, imm])
  | .rdset h eng a => some (.acc, 28, h, [eng, a])
  | .rdget h eng d => some (.acc, 29, h, [eng, d])
  | .mark h => some (.acc, 30, h, [])
  | .amoadd h d a b w => some (.acc, 31, h, [d, a, b, w])
  | .amofadd h d a b w => some (.acc, 32, h, [d, a, b, w])
  | .amomin h d a b w u => some (.acc, 33, h, [d, a, b, w, u])
  | .amomax h d a b w u => some (.acc, 34, h, [d, a, b, w, u])
  | .amoand h d a b w => some (.acc, 35, h, [d, a, b, w])
  | .amoor h d a b w => some (.acc, 36, h, [d, a, b, w])
  | .amoxor h d a b w => some (.acc, 37, h, [d, a, b, w])
  | .amoswp h d a b w => some (.acc, 38, h, [d, a, b, w])
  | .amocas h d a b w => some (.acc, 39, h, [d, a, b, w])
  | .mwait h d a b k => some (.acc, 40, h, [d, a, b, k])
  | .putr h cs cd so dof ln sen sem => some (.acc, 41, h, [cs, cd, so, dof, ln, sen, sem])
  | .puth h cs cd so dof ln ha arg => some (.acc, 42, h, [cs, cd, so, dof, ln, ha, arg])
  | .rred h cs cd so dof cnt op ty sen sem => some (.acc, 43, h, [cs, cd, so, dof, cnt, op, ty, sen, sem])
  | .dqpush h dq v st col foreign => some (.acc, 44, h, [dq, v, st, col, foreign])
  | .dqpop h dq v st col foreign => some (.acc, 45, h, [dq, v, st, col, foreign])
  | .dqsteal h dq v st col foreign => some (.acc, 46, h, [dq, v, st, col, foreign])
  | .l1inv h c index scale disp => some (.acc, 47, h, [c, index, scale, disp])
  | .l1inva h => some (.acc, 48, h, [])
  | .pref h q c index scale disp => some (.acc, 49, h, [q, c, index, scale, disp])
  | .qdrop h q n => some (.acc, 50, h, [q, n])
  | .qrd h d q => some (.acc, 51, h, [d, q])
  | .accFence h => some (.acc, 52, h, [])
  | .vadd h d a b ty rnd sat => some (.vec, 0, h, [d, a, b, ty, rnd, sat])
  | .vsub h d a b ty rnd sat => some (.vec, 1, h, [d, a, b, ty, rnd, sat])
  | .vmul h d a b ty rnd sat => some (.vec, 2, h, [d, a, b, ty, rnd, sat])
  | .vfma h d a b ty rnd sat => some (.vec, 3, h, [d, a, b, ty, rnd, sat])
  | .vfms h d a b ty rnd sat => some (.vec, 4, h, [d, a, b, ty, rnd, sat])
  | .vdiv h d a b ty rnd sat => some (.vec, 5, h, [d, a, b, ty, rnd, sat])
  | .vmin h d a b ty => some (.vec, 6, h, [d, a, b, ty])
  | .vmax h d a b ty => some (.vec, 7, h, [d, a, b, ty])
  | .vabs h d a ty => some (.vec, 8, h, [d, a, ty])
  | .vneg h d a ty => some (.vec, 9, h, [d, a, ty])
  | .vsqrt h d a ty rnd sat => some (.vec, 10, h, [d, a, ty, rnd, sat])
  | .vrsq h d a ty rnd sat => some (.vec, 11, h, [d, a, ty, rnd, sat])
  | .vrcp h d a ty rnd sat => some (.vec, 12, h, [d, a, ty, rnd, sat])
  | .vexp h d a ty => some (.vec, 13, h, [d, a, ty])
  | .vexp2 h d a ty => some (.vec, 14, h, [d, a, ty])
  | .vlog h d a ty => some (.vec, 15, h, [d, a, ty])
  | .vlog2 h d a ty => some (.vec, 16, h, [d, a, ty])
  | .vtanh h d a ty => some (.vec, 17, h, [d, a, ty])
  | .vsigm h d a ty => some (.vec, 18, h, [d, a, ty])
  | .vgelu h d a ty => some (.vec, 19, h, [d, a, ty])
  | .vsilu h d a ty => some (.vec, 20, h, [d, a, ty])
  | .vsin h d a ty => some (.vec, 21, h, [d, a, ty])
  | .vcos h d a ty => some (.vec, 22, h, [d, a, ty])
  | .verf h d a ty => some (.vec, 23, h, [d, a, ty])
  | .viadd h d a b ty sat => some (.vec, 24, h, [d, a, b, ty, sat])
  | .visub h d a b ty sat => some (.vec, 25, h, [d, a, b, ty, sat])
  | .vimul h d a b ty sat => some (.vec, 26, h, [d, a, b, ty, sat])
  | .vimulh h d a b ty => some (.vec, 27, h, [d, a, b, ty])
  | .vimad h d a b ty sat => some (.vec, 28, h, [d, a, b, ty, sat])
  | .viabs h d a ty sat => some (.vec, 29, h, [d, a, ty, sat])
  | .vimin h d a b ty => some (.vec, 30, h, [d, a, b, ty])
  | .vimax h d a b ty => some (.vec, 31, h, [d, a, b, ty])
  | .vand h d a b => some (.vec, 32, h, [d, a, b])
  | .vor h d a b => some (.vec, 33, h, [d, a, b])
  | .vxor h d a b => some (.vec, 34, h, [d, a, b])
  | .vandn h d a b => some (.vec, 35, h, [d, a, b])
  | .vshl h d a b ty => some (.vec, 36, h, [d, a, b, ty])
  | .vshr h d a b ty arith => some (.vec, 37, h, [d, a, b, ty, arith])
  | .vshli h d a n ty => some (.vec, 38, h, [d, a, n, ty])
  | .vshri h d a n ty arith => some (.vec, 39, h, [d, a, n, ty, arith])
  | .vext h d a b sg => some (.vec, 40, h, [d, a, b, sg])
  | .vins h d a b => some (.vec, 41, h, [d, a, b])
  | .vfsh h d a b n => some (.vec, 42, h, [d, a, b, n])
  | .vpopc h d a => some (.vec, 43, h, [d, a])
  | .vclz h d a => some (.vec, 44, h, [d, a])
  | .vcvt h d a dt ty rnd sat => some (.vec, 45, h, [d, a, dt, ty, rnd, sat])
  | .vpack h d a b ty hs => some (.vec, 46, h, [d, a, b, ty, hs])
  | .vunpk h d a sl ty => some (.vec, 47, h, [d, a, sl, ty])
  | .vqnt h d a b ty => some (.vec, 48, h, [d, a, b, ty])
  | .vdqnt h d a b ty => some (.vec, 49, h, [d, a, b, ty])
  | .vcmp h d a b ty cond => some (.vec, 50, h, [d, a, b, ty, cond])
  | .vcmpi h d a cond imm => some (.vec, 51, h, [d, a, cond, imm])
  | .vsel h d a b n => some (.vec, 52, h, [d, a, b, n])
  | .vclamp h d a b ty => some (.vec, 53, h, [d, a, b, ty])
  | .mand h d a b => some (.vec, 54, h, [d, a, b])
  | .mor h d a b => some (.vec, 55, h, [d, a, b])
  | .mxor h d a b => some (.vec, 56, h, [d, a, b])
  | .mnot h d a => some (.vec, 57, h, [d, a])
  | .mpopc h d a => some (.vec, 58, h, [d, a])
  | .mset h d rs n => some (.vec, 59, h, [d, rs, n])
  | .vmov h d a => some (.vec, 60, h, [d, a])
  | .vsplat h d imm => some (.vec, 61, h, [d, imm])
  | .vbcr h d a n => some (.vec, 62, h, [d, a, n])
  | .vbcc h d a n => some (.vec, 63, h, [d, a, n])
  | .vrotr h d a n => some (.vec, 64, h, [d, a, n])
  | .vrotc h d a n => some (.vec, 65, h, [d, a, n])
  | .vperm h d a b => some (.vec, 66, h, [d, a, b])
  | .vlut h d a b => some (.vec, 67, h, [d, a, b])
  | .vredr h d a op ty rnd sat => some (.vec, 68, h, [d, a, op, ty, rnd, sat])
  | .vredc h d a op ty rnd sat => some (.vec, 69, h, [d, a, op, ty, rnd, sat])
  | .vscan h d a op axis ty rnd sat => some (.vec, 70, h, [d, a, op, axis, ty, rnd, sat])
  | .vtrn h d a => some (.vec, 71, h, [d, a])
  | .vmovfa h d a q => some (.vec, 72, h, [d, a, q])
  | .vmovta h d a q => some (.vec, 73, h, [d, a, q])
  | .vrotset h n m => some (.vec, 74, h, [n, m])
  | .vloop h cnt off => some (.vec, 75, h, [cnt, off])
  | .expmax h d a new => some (.vec, 76, h, [d, a, new])
  | .expnrm h d a b => some (.vec, 77, h, [d, a, b])
  | .vwelu h d a => some (.vec, 78, h, [d, a])
  | .vwelm h d a => some (.vec, 79, h, [d, a])
  | .conft h d a thr => some (.vec, 80, h, [d, a, thr])
  | .vrng h d a b => some (.vec, 81, h, [d, a, b])
  | .vidx h d => some (.vec, 82, h, [d])
  | .vargmx h d a ty => some (.vec, 83, h, [d, a, ty])
  | .mtov h d a => some (.vec, 84, h, [d, a])
  | .vtom h d a => some (.vec, 85, h, [d, a])
  | .mgo h ra rb fa fb acc kel aoff boff => some (.mtx, 0, h, [ra, rb, fa, fb, acc, kel, aoff, boff])
  | .mgos h ra rb fa fb acc kel aoff boff => some (.mtx, 1, h, [ra, rb, fa, fb, acc, kel, aoff, boff])
  | .mtstart h d n => some (.mtx, 2, h, [d, n])
  | .mtend h => some (.mtx, 3, h, [])
  | .mtsel h rs => some (.mtx, 4, h, [rs])
  | .mtselLq h d => some (.mtx, 5, h, [d])
  | .mtrd h sel q => some (.mtx, 6, h, [sel, q])
  | .mringSet h k nslots base => some (.mtx, 7, h, [k, nslots, base])
  | .mringAdv h k n => some (.mtx, 8, h, [k, n])
  | .mspmeta h k mode metabase => some (.mtx, 9, h, [k, mode, metabase])
  | .mtzero h d n => some (.mtx, 10, h, [d, n])
  | .maccld h d a n => some (.mtx, 11, h, [d, a, n])
  | .maccst h d a n => some (.mtx, 12, h, [d, a, n])
  | .maccadd h d a b ty rnd sat => some (.mtx, 13, h, [d, a, b, ty, rnd, sat])
  | .mscale h d a f => some (.mtx, 14, h, [d, a, f])
  | .mcvt h d a n ty rnd sat => some (.mtx, 15, h, [d, a, n, ty, rnd, sat])
  | .mflag h d mask => some (.mtx, 16, h, [d, mask])
  | .mrstat h d clr => some (.mtx, 17, h, [d, clr])
  | .xcfg h a depth qexp enc n => some (.xbr, 0, h, [a, depth, qexp, enc, n])
  | .xmask h a n rg => some (.xbr, 1, h, [a, n, rg])
  | .xgrp h g first nk nn => some (.xbr, 2, h, [g, first, nk, nn])
  | .xringSet h k out nslots base => some (.xbr, 3, h, [k, out, nslots, base])
  | .xringAdv h k out n => some (.xbr, 4, h, [k, out, n])
  | .xringVmask h base => some (.xbr, 5, h, [base])
  | .xmvm h g i o inoff outoff nvec route vm => some (.xbr, 6, h, [g, i, o, inoff, outoff, nvec, route, vm])
  | .xmvma h g i o inoff outoff nvec route vm => some (.xbr, 7, h, [g, i, o, inoff, outoff, nvec, route, vm])
  | .xclip h a clr off => some (.xbr, 8, h, [a, clr, off])
  | .xstat h a off => some (.xbr, 9, h, [a, off])
  | .xcsum h a off => some (.xbr, 10, h, [a, off])
  | .xpriv h a n => some (.xbr, 11, h, [a, n])
  | .xprivRel h a n => some (.xbr, 12, h, [a, n])
  | .xprogSet h a g amp sel => some (.xbr, 13, h, [a, g, amp, sel])
  | .xprogRst h a g amp sel => some (.xbr, 14, h, [a, g, amp, sel])
  | .xvfy h a g ng rep => some (.xbr, 15, h, [a, g, ng, rep])
  | .xsteep h a g ng p rm rep => some (.xbr, 16, h, [a, g, ng, p, rm, rep])
  | .xremap h a col => some (.xbr, 17, h, [a, col])
  | .xrefMeas h a => some (.xbr, 18, h, [a])
  | .xrefBase h a => some (.xbr, 19, h, [a])
  | .xrefProg h a => some (.xbr, 20, h, [a])
  | .xdrift h a n k clr => some (.xbr, 21, h, [a, n, k, clr])
  | .xcal h a => some (.xbr, 22, h, [a])
  | .xoffw h a src => some (.xbr, 23, h, [a, src])
  | .xgainw h a src => some (.xbr, 24, h, [a, src])
  | .xcert h a dth lk ebank => some (.xbr, 25, h, [a, dth, lk, ebank])
  | .xcrd h a dst => some (.xbr, 26, h, [a, dst])
  | .xcld h a src => some (.xbr, 27, h, [a, src])
  | .xfallOff h a n setptr ptr => some (.xbr, 28, h, [a, n, setptr, ptr])
  | .xfallMan h a n setptr ptr => some (.xbr, 29, h, [a, n, setptr, ptr])
  | .xfallAuto h a n setptr ptr => some (.xbr, 30, h, [a, n, setptr, ptr])
  | .xaudit h a n rate setptr ptr => some (.xbr, 31, h, [a, n, rate, setptr, ptr])
  | .xrd h a g ng phys dst => some (.xbr, 32, h, [a, g, ng, phys, dst])
  | .xerase h a => some (.xbr, 33, h, [a])
  | .xeraseRt h a => some (.xbr, 34, h, [a])
  | .cpy h rec desc => some (.cpy, 0, h, [rec, desc])
  | .cpys h rec desc => some (.cpy, 1, h, [rec, desc])
  | .cpyg h rec desc => some (.cpy, 2, h, [rec, desc])
  | .cpygSct h rec desc => some (.cpy, 3, h, [rec, desc])
  | .cpyt h rec desc => some (.cpy, 4, h, [rec, desc])
  | .cpyx h rec desc => some (.cpy, 5, h, [rec, desc])
  | .fill h rec desc => some (.cpy, 6, h, [rec, desc])
  | .sbar h mask => some (.cpy, 7, h, [mask])
  | .pfch h rec desc => some (.cpy, 8, h, [rec, desc])
  | .chksum h rec desc => some (.cpy, 9, h, [rec, desc])
  | .crec h base => some (.cpy, 10, h, [base])
  | .cstat h rec dst => some (.cpy, 11, h, [rec, dst])
  | .cdrain h => some (.cpy, 12, h, [])
  | .nmuld h rec src slot n => some (.cpy, 13, h, [rec, src, slot, n])
  | .nmustat h rec dst ch => some (.cpy, 14, h, [rec, dst, ch])
  | .kvgWait h rec desc => some (.cpy, 15, h, [rec, desc])
  | .kvgMask h rec desc => some (.cpy, 16, h, [rec, desc])
  | .kvout h rec desc => some (.cpy, 17, h, [rec, desc])
  | .kvin h rec desc => some (.cpy, 18, h, [rec, desc])
  | .kvst h rec desc => some (.cpy, 19, h, [rec, desc])
  | .bfq h rec desc img => some (.cpy, 20, h, [rec, desc, img])
  | .bfctlLoad h rec desc => some (.cpy, 21, h, [rec, desc])
  | .bfctlStat h rec dst => some (.cpy, 22, h, [rec, dst])
  | .bfctlDrain h rec => some (.cpy, 23, h, [rec])
  | .bfctlPause h rec => some (.cpy, 24, h, [rec])
  | .bfctlRun h rec => some (.cpy, 25, h, [rec])
  | .nadd _ _ _ _ _ _ => none
  | .nsub _ _ _ _ _ _ => none
  | .nmul _ _ _ _ _ _ => none
  | .nfma _ _ _ _ _ _ => none
  | .nmin _ _ _ _ _ _ => none
  | .nmax _ _ _ _ _ _ => none
  | .nabs _ _ _ _ _ => none
  | .nneg _ _ _ _ _ => none
  | .ncmpeq _ _ _ _ _ _ => none
  | .ncmplt _ _ _ _ _ _ => none
  | .ncmple _ _ _ _ _ _ => none
  | .nsel _ _ _ _ => none
  | .nand _ _ _ => none
  | .nor _ _ _ => none
  | .nxor _ _ _ => none
  | .nshl _ _ _ => none
  | .nshr _ _ _ _ => none
  | .ncvt _ _ _ _ _ _ _ => none
  | .nbcst _ _ _ => none
  | .nli _ _ => none
  | .nlih _ _ => none
  | .nmov _ _ => none
  | .nrsum _ _ _ _ _ => none
  | .nrmin _ _ _ _ _ => none
  | .nrmax _ _ _ _ _ => none
  | .nld _ _ => none
  | .nst _ _ => none
  | .nldp _ => none
  | .nskip _ => none
  | .nloop1 _ _ => none
  | .nloop2 _ _ => none
  | .nend => none
  | .nnop => none
  | .nrcp _ _ _ _ _ => none
  | .nclamp _ _ _ _ _ _ => none
  | .nscl _ _ _ _ _ _ => none
  | .nramax _ _ _ _ _ => none
  | .ncmpne _ _ _ _ _ _ => none
  | .nandn _ _ _ => none
  | .nshuf _ _ _ => none
  | .engineFaultDelivery _ => none
  | .efltRst _ _ => none
  | .efltSkip _ _ => none
  | .pendingWriteLands _ => none
  | .tokenPushTakesEffect _ _ => none
  | .handlerStart _ => none
  | .putDelivery _ => none
  | .puthRetry _ => none
  | .homeArrival _ => none
  | .homeUpdate _ => none
  | .monitorWake _ _ => none
  | .mwaitTimeout _ => none
  | .monitorRetry _ => none
  | .matrixStep _ => none
  | .arrayWorkStart _ _ => none
  | .vectorRowsLand _ _ => none
  | .digitalRouteStep _ _ => none
  | .audit _ _ => none
  | .auditOverdue _ => none
  | .automaticMeasurement _ _ => none
  | .copyUnit _ _ => none
  | .nmuRun _ => none
  | .nmuParityAbort _ => none
  | .backfillBatch _ => none
  | .backfillLayerComplete _ => none
  | .checkerMismatch _ _ _ => none
  | .selfTestVerdict _ _ _ => none
  | .sramUncorrectableError _ _ _ => none
  | .cimUncorrectableFetch _ _ => none
  | .hbmUncorrectableRead _ => none
  | .faultRecordWrite => none
  | .launchAcceptance _ => none
  | .submissionEntryRead => none
  | .bindingDecision => none
  | .priorityPromotion _ _ => none
  | .taskBind _ => none
  | .nodeCompletion _ _ => none
  | .doneCompletion _ => none
  | .stallWireFall _ _ => none
  | .replay _ _ => none
  | .refill _ _ => none
  | .sqdb _ => none
  | .registerWrite _ _ => none
  | .createContext => none
  | .tearDownContext => none
  | .loadMatterKeySlot => none
  | .clearMatterKeySlot => none
  | .loadObject => none
  | .fillReservePool => none
  | .clearQuarantine => none
  | .movePageHome => none
  | .attestationQuote => none
  | .mboxUnknownOpcode => none
  | .coldReset => none
  | .warmReset => none
  | .functionReady _ => none
  | .repairReapplied _ => none
  | .flitCrcFailure _ _ _ _ => none
  | .wireFailureDeclared _ _ _ => none
  | .softRepair _ => none
  | .bankStoreSpareSwitch _ _ _ _ => none
  | .hbmTemperatureRead _ => none
  | .refreshBurst _ => none
  | .governorMeasurement _ => none
  | .governorThrottlePeriod _ _ => none
  | .thermalStopBinding => none
  | .thermalPowerOff => none
  | .peerFlitCrcFailure _ => none
  | .peerShootdownTimeout _ => none
  | .peerReduceReceive _ _ _ _ _ => none
  | .wordNotAnInstruction _ => none
  | .fetchBeyondCimImage _ _ => none
  | .accessResponse _ => none
  | .inboundMemoryAccess _ _ => none
  | .peerShootdownRequest _ _ _ _ _ => none
  | .peerShootdownAcknowledgement _ => none
  | .imageStream _ => none
  | .calibrationWordComplete _ _ => none
  | .sramCorrectableError _ _ => none

/-- The row and operands of a near-memory instruction. -/
def nmuParts : Instr → Option (Nat × List Nat)
  | .imx _ _ | .scp _ _ _ | .pmt _ _ _ | .nop _ => none
  | .add _ _ _ _ => none
  | .sub _ _ _ _ => none
  | .mul _ _ _ _ => none
  | .mulh _ _ _ _ _ => none
  | .div _ _ _ _ _ => none
  | .rem _ _ _ _ _ => none
  | .and _ _ _ _ => none
  | .or _ _ _ _ => none
  | .xor _ _ _ _ => none
  | .andn _ _ _ _ => none
  | .shl _ _ _ _ => none
  | .shr _ _ _ _ _ => none
  | .rot _ _ _ _ => none
  | .min _ _ _ _ _ => none
  | .max _ _ _ _ _ => none
  | .clz _ _ _ => none
  | .ctz _ _ _ => none
  | .popc _ _ _ => none
  | .addi _ _ _ _ => none
  | .muli _ _ _ _ => none
  | .andi _ _ _ _ => none
  | .ori _ _ _ _ => none
  | .xori _ _ _ _ => none
  | .shli _ _ _ _ => none
  | .shri _ _ _ _ _ => none
  | .li _ _ _ => none
  | .sext _ _ _ _ => none
  | .ext _ _ _ _ _ => none
  | .exts _ _ _ _ _ => none
  | .ins _ _ _ _ _ => none
  | .fsh _ _ _ _ _ => none
  | .cmp _ _ _ _ _ => none
  | .seqi _ _ _ _ => none
  | .slti _ _ _ _ => none
  | .sltui _ _ _ _ => none
  | .sel _ _ _ _ _ => none
  | .b _ _ _ _ => none
  | .jmp _ _ _ => none
  | .call _ _ => none
  | .callr _ _ _ _ => none
  | .ret _ => none
  | .loop _ _ _ => none
  | .crng _ _ _ _ => none
  | .fork _ _ _ _ => none
  | .ringp _ _ _ _ => none
  | .ringp2 _ _ _ _ _ => none
  | .ringq _ _ _ => none
  | .semset _ _ _ => none
  | .semrd _ _ _ => none
  | .tokrd _ _ _ _ => none
  | .bhmap _ _ _ => none
  | .mtwr _ _ _ _ => none
  | .sysrd _ _ _ => none
  | .syswr _ _ _ => none
  | .done _ => none
  | .hend _ => none
  | .synrd _ _ _ _ _ _ _ => none
  | .scrub _ _ _ _ _ _ => none
  | .poison _ _ _ _ _ _ => none
  | .binitTile _ _ _ => none
  | .binitCol _ _ _ => none
  | .binitDev _ _ _ _ => none
  | .cwpost _ _ _ => none
  | .ctlFence _ => none
  | .bsflush _ _ _ _ _ => none
  | .bsinv _ _ _ _ _ => none
  | .bspset _ _ _ => none
  | .launch _ _ _ _ => none
  | .preemptStop _ _ _ => none
  | .preemptResume _ _ _ => none
  | .snaprd _ _ _ _ _ => none
  | .snapwr _ _ _ _ _ => none
  | .ctxsave _ _ _ _ => none
  | .ctxrest _ _ _ => none
  | .ctxscrub _ => none
  | .ctxkill _ _ => none
  | .tld _ _ _ _ => none
  | .trde _ _ _ _ _ => none
  | .tmap _ _ _ _ => none
  | .tunmap _ _ _ _ _ => none
  | .tshd _ _ _ _ _ _ => none
  | .tprb _ _ _ => none
  | .trap _ _ _ => none
  | .tret _ => none
  | .tspill _ _ _ _ => none
  | .tfill _ _ _ _ => none
  | .stest _ _ _ _ => none
  | .errrd _ _ _ _ => none
  | .errrdSt _ _ _ => none
  | .ldq _ _ _ _ _ _ => none
  | .ldqs _ _ _ _ _ _ _ _ => none
  | .ldqg _ _ _ _ _ _ _ _ => none
  | .stq _ _ _ _ _ _ => none
  | .stqs _ _ _ _ _ _ _ _ => none
  | .stqg _ _ _ _ _ _ _ _ => none
  | .ldb _ _ _ _ => none
  | .ldh _ _ _ _ => none
  | .ldw _ _ _ _ => none
  | .ldd _ _ _ _ => none
  | .stb _ _ _ _ => none
  | .sth _ _ _ _ => none
  | .stw _ _ _ _ => none
  | .std _ _ _ _ => none
  | .cld _ _ _ _ => none
  | .cst _ _ _ _ => none
  | .cder _ _ _ _ => none
  | .cderLen _ _ _ _ => none
  | .cperm _ _ _ _ => none
  | .cget _ _ _ _ => none
  | .ctest _ _ _ _ _ => none
  | .aadd _ _ _ _ => none
  | .asub _ _ _ _ => none
  | .aaddi _ _ _ _ => none
  | .amuli _ _ _ _ => none
  | .ashli _ _ _ _ => none
  | .aandi _ _ _ _ => none
  | .ali _ _ _ => none
  | .rdset _ _ _ => none
  | .rdget _ _ _ => none
  | .mark _ => none
  | .amoadd _ _ _ _ _ => none
  | .amofadd _ _ _ _ _ => none
  | .amomin _ _ _ _ _ _ => none
  | .amomax _ _ _ _ _ _ => none
  | .amoand _ _ _ _ _ => none
  | .amoor _ _ _ _ _ => none
  | .amoxor _ _ _ _ _ => none
  | .amoswp _ _ _ _ _ => none
  | .amocas _ _ _ _ _ => none
  | .mwait _ _ _ _ _ => none
  | .putr _ _ _ _ _ _ _ _ => none
  | .puth _ _ _ _ _ _ _ _ => none
  | .rred _ _ _ _ _ _ _ _ _ _ => none
  | .dqpush _ _ _ _ _ _ => none
  | .dqpop _ _ _ _ _ _ => none
  | .dqsteal _ _ _ _ _ _ => none
  | .l1inv _ _ _ _ _ => none
  | .l1inva _ => none
  | .pref _ _ _ _ _ _ => none
  | .qdrop _ _ _ => none
  | .qrd _ _ _ => none
  | .accFence _ => none
  | .vadd _ _ _ _ _ _ _ => none
  | .vsub _ _ _ _ _ _ _ => none
  | .vmul _ _ _ _ _ _ _ => none
  | .vfma _ _ _ _ _ _ _ => none
  | .vfms _ _ _ _ _ _ _ => none
  | .vdiv _ _ _ _ _ _ _ => none
  | .vmin _ _ _ _ _ => none
  | .vmax _ _ _ _ _ => none
  | .vabs _ _ _ _ => none
  | .vneg _ _ _ _ => none
  | .vsqrt _ _ _ _ _ _ => none
  | .vrsq _ _ _ _ _ _ => none
  | .vrcp _ _ _ _ _ _ => none
  | .vexp _ _ _ _ => none
  | .vexp2 _ _ _ _ => none
  | .vlog _ _ _ _ => none
  | .vlog2 _ _ _ _ => none
  | .vtanh _ _ _ _ => none
  | .vsigm _ _ _ _ => none
  | .vgelu _ _ _ _ => none
  | .vsilu _ _ _ _ => none
  | .vsin _ _ _ _ => none
  | .vcos _ _ _ _ => none
  | .verf _ _ _ _ => none
  | .viadd _ _ _ _ _ _ => none
  | .visub _ _ _ _ _ _ => none
  | .vimul _ _ _ _ _ _ => none
  | .vimulh _ _ _ _ _ => none
  | .vimad _ _ _ _ _ _ => none
  | .viabs _ _ _ _ _ => none
  | .vimin _ _ _ _ _ => none
  | .vimax _ _ _ _ _ => none
  | .vand _ _ _ _ => none
  | .vor _ _ _ _ => none
  | .vxor _ _ _ _ => none
  | .vandn _ _ _ _ => none
  | .vshl _ _ _ _ _ => none
  | .vshr _ _ _ _ _ _ => none
  | .vshli _ _ _ _ _ => none
  | .vshri _ _ _ _ _ _ => none
  | .vext _ _ _ _ _ => none
  | .vins _ _ _ _ => none
  | .vfsh _ _ _ _ _ => none
  | .vpopc _ _ _ => none
  | .vclz _ _ _ => none
  | .vcvt _ _ _ _ _ _ _ => none
  | .vpack _ _ _ _ _ _ => none
  | .vunpk _ _ _ _ _ => none
  | .vqnt _ _ _ _ _ => none
  | .vdqnt _ _ _ _ _ => none
  | .vcmp _ _ _ _ _ _ => none
  | .vcmpi _ _ _ _ _ => none
  | .vsel _ _ _ _ _ => none
  | .vclamp _ _ _ _ _ => none
  | .mand _ _ _ _ => none
  | .mor _ _ _ _ => none
  | .mxor _ _ _ _ => none
  | .mnot _ _ _ => none
  | .mpopc _ _ _ => none
  | .mset _ _ _ _ => none
  | .vmov _ _ _ => none
  | .vsplat _ _ _ => none
  | .vbcr _ _ _ _ => none
  | .vbcc _ _ _ _ => none
  | .vrotr _ _ _ _ => none
  | .vrotc _ _ _ _ => none
  | .vperm _ _ _ _ => none
  | .vlut _ _ _ _ => none
  | .vredr _ _ _ _ _ _ _ => none
  | .vredc _ _ _ _ _ _ _ => none
  | .vscan _ _ _ _ _ _ _ _ => none
  | .vtrn _ _ _ => none
  | .vmovfa _ _ _ _ => none
  | .vmovta _ _ _ _ => none
  | .vrotset _ _ _ => none
  | .vloop _ _ _ => none
  | .expmax _ _ _ _ => none
  | .expnrm _ _ _ _ => none
  | .vwelu _ _ _ => none
  | .vwelm _ _ _ => none
  | .conft _ _ _ _ => none
  | .vrng _ _ _ _ => none
  | .vidx _ _ => none
  | .vargmx _ _ _ _ => none
  | .mtov _ _ _ => none
  | .vtom _ _ _ => none
  | .mgo _ _ _ _ _ _ _ _ _ => none
  | .mgos _ _ _ _ _ _ _ _ _ => none
  | .mtstart _ _ _ => none
  | .mtend _ => none
  | .mtsel _ _ => none
  | .mtselLq _ _ => none
  | .mtrd _ _ _ => none
  | .mringSet _ _ _ _ => none
  | .mringAdv _ _ _ => none
  | .mspmeta _ _ _ _ => none
  | .mtzero _ _ _ => none
  | .maccld _ _ _ _ => none
  | .maccst _ _ _ _ => none
  | .maccadd _ _ _ _ _ _ _ => none
  | .mscale _ _ _ _ => none
  | .mcvt _ _ _ _ _ _ _ => none
  | .mflag _ _ _ => none
  | .mrstat _ _ _ => none
  | .xcfg _ _ _ _ _ _ => none
  | .xmask _ _ _ _ => none
  | .xgrp _ _ _ _ _ => none
  | .xringSet _ _ _ _ _ => none
  | .xringAdv _ _ _ _ => none
  | .xringVmask _ _ => none
  | .xmvm _ _ _ _ _ _ _ _ _ => none
  | .xmvma _ _ _ _ _ _ _ _ _ => none
  | .xclip _ _ _ _ => none
  | .xstat _ _ _ => none
  | .xcsum _ _ _ => none
  | .xpriv _ _ _ => none
  | .xprivRel _ _ _ => none
  | .xprogSet _ _ _ _ _ => none
  | .xprogRst _ _ _ _ _ => none
  | .xvfy _ _ _ _ _ => none
  | .xsteep _ _ _ _ _ _ _ => none
  | .xremap _ _ _ => none
  | .xrefMeas _ _ => none
  | .xrefBase _ _ => none
  | .xrefProg _ _ => none
  | .xdrift _ _ _ _ _ => none
  | .xcal _ _ => none
  | .xoffw _ _ _ => none
  | .xgainw _ _ _ => none
  | .xcert _ _ _ _ _ => none
  | .xcrd _ _ _ => none
  | .xcld _ _ _ => none
  | .xfallOff _ _ _ _ _ => none
  | .xfallMan _ _ _ _ _ => none
  | .xfallAuto _ _ _ _ _ => none
  | .xaudit _ _ _ _ _ _ => none
  | .xrd _ _ _ _ _ _ => none
  | .xerase _ _ => none
  | .xeraseRt _ _ => none
  | .cpy _ _ _ => none
  | .cpys _ _ _ => none
  | .cpyg _ _ _ => none
  | .cpygSct _ _ _ => none
  | .cpyt _ _ _ => none
  | .cpyx _ _ _ => none
  | .fill _ _ _ => none
  | .sbar _ _ => none
  | .pfch _ _ _ => none
  | .chksum _ _ _ => none
  | .crec _ _ => none
  | .cstat _ _ _ => none
  | .cdrain _ => none
  | .nmuld _ _ _ _ _ => none
  | .nmustat _ _ _ _ => none
  | .kvgWait _ _ _ => none
  | .kvgMask _ _ _ => none
  | .kvout _ _ _ => none
  | .kvin _ _ _ => none
  | .kvst _ _ _ => none
  | .bfq _ _ _ _ => none
  | .bfctlLoad _ _ _ => none
  | .bfctlStat _ _ _ => none
  | .bfctlDrain _ _ => none
  | .bfctlPause _ _ => none
  | .bfctlRun _ _ => none
  | .nadd d a b rnd sat ty => some (0, [d, a, b, rnd, sat, ty])
  | .nsub d a b rnd sat ty => some (1, [d, a, b, rnd, sat, ty])
  | .nmul d a b rnd sat ty => some (2, [d, a, b, rnd, sat, ty])
  | .nfma d a b rnd sat ty => some (3, [d, a, b, rnd, sat, ty])
  | .nmin d a b rnd sat ty => some (4, [d, a, b, rnd, sat, ty])
  | .nmax d a b rnd sat ty => some (5, [d, a, b, rnd, sat, ty])
  | .nabs d a rnd sat ty => some (6, [d, a, rnd, sat, ty])
  | .nneg d a rnd sat ty => some (7, [d, a, rnd, sat, ty])
  | .ncmpeq d a b rnd sat ty => some (8, [d, a, b, rnd, sat, ty])
  | .ncmplt d a b rnd sat ty => some (9, [d, a, b, rnd, sat, ty])
  | .ncmple d a b rnd sat ty => some (10, [d, a, b, rnd, sat, ty])
  | .nsel d a b m => some (11, [d, a, b, m])
  | .nand d a b => some (12, [d, a, b])
  | .nor d a b => some (13, [d, a, b])
  | .nxor d a b => some (14, [d, a, b])
  | .nshl d a n => some (15, [d, a, n])
  | .nshr d a n arith => some (16, [d, a, n, arith])
  | .ncvt d a p sfrom rnd sat sto => some (17, [d, a, p, sfrom, rnd, sat, sto])
  | .nbcst d a n => some (18, [d, a, n])
  | .nli d imm => some (19, [d, imm])
  | .nlih d imm => some (20, [d, imm])
  | .nmov d a => some (21, [d, a])
  | .nrsum d a rnd sat ty => some (22, [d, a, rnd, sat, ty])
  | .nrmin d a rnd sat ty => some (23, [d, a, rnd, sat, ty])
  | .nrmax d a rnd sat ty => some (24, [d, a, rnd, sat, ty])
  | .nld d st => some (25, [d, st])
  | .nst a sz => some (26, [a, sz])
  | .nldp d => some (27, [d])
  | .nskip n => some (28, [n])
  | .nloop1 len cnt => some (29, [len, cnt])
  | .nloop2 len cnt => some (30, [len, cnt])
  | .nend => some (31, [])
  | .nnop => some (32, [])
  | .nrcp d a rnd sat ty => some (33, [d, a, rnd, sat, ty])
  | .nclamp d a b rnd sat ty => some (34, [d, a, b, rnd, sat, ty])
  | .nscl d a b rnd sat ty => some (35, [d, a, b, rnd, sat, ty])
  | .nramax d a rnd sat ty => some (36, [d, a, rnd, sat, ty])
  | .ncmpne d a b rnd sat ty => some (37, [d, a, b, rnd, sat, ty])
  | .nandn d a b => some (38, [d, a, b])
  | .nshuf d a b => some (39, [d, a, b])
  | .engineFaultDelivery _ => none
  | .efltRst _ _ => none
  | .efltSkip _ _ => none
  | .pendingWriteLands _ => none
  | .tokenPushTakesEffect _ _ => none
  | .handlerStart _ => none
  | .putDelivery _ => none
  | .puthRetry _ => none
  | .homeArrival _ => none
  | .homeUpdate _ => none
  | .monitorWake _ _ => none
  | .mwaitTimeout _ => none
  | .monitorRetry _ => none
  | .matrixStep _ => none
  | .arrayWorkStart _ _ => none
  | .vectorRowsLand _ _ => none
  | .digitalRouteStep _ _ => none
  | .audit _ _ => none
  | .auditOverdue _ => none
  | .automaticMeasurement _ _ => none
  | .copyUnit _ _ => none
  | .nmuRun _ => none
  | .nmuParityAbort _ => none
  | .backfillBatch _ => none
  | .backfillLayerComplete _ => none
  | .checkerMismatch _ _ _ => none
  | .selfTestVerdict _ _ _ => none
  | .sramUncorrectableError _ _ _ => none
  | .cimUncorrectableFetch _ _ => none
  | .hbmUncorrectableRead _ => none
  | .faultRecordWrite => none
  | .launchAcceptance _ => none
  | .submissionEntryRead => none
  | .bindingDecision => none
  | .priorityPromotion _ _ => none
  | .taskBind _ => none
  | .nodeCompletion _ _ => none
  | .doneCompletion _ => none
  | .stallWireFall _ _ => none
  | .replay _ _ => none
  | .refill _ _ => none
  | .sqdb _ => none
  | .registerWrite _ _ => none
  | .createContext => none
  | .tearDownContext => none
  | .loadMatterKeySlot => none
  | .clearMatterKeySlot => none
  | .loadObject => none
  | .fillReservePool => none
  | .clearQuarantine => none
  | .movePageHome => none
  | .attestationQuote => none
  | .mboxUnknownOpcode => none
  | .coldReset => none
  | .warmReset => none
  | .functionReady _ => none
  | .repairReapplied _ => none
  | .flitCrcFailure _ _ _ _ => none
  | .wireFailureDeclared _ _ _ => none
  | .softRepair _ => none
  | .bankStoreSpareSwitch _ _ _ _ => none
  | .hbmTemperatureRead _ => none
  | .refreshBurst _ => none
  | .governorMeasurement _ => none
  | .governorThrottlePeriod _ _ => none
  | .thermalStopBinding => none
  | .thermalPowerOff => none
  | .peerFlitCrcFailure _ => none
  | .peerShootdownTimeout _ => none
  | .peerReduceReceive _ _ _ _ _ => none
  | .wordNotAnInstruction _ => none
  | .fetchBeyondCimImage _ _ => none
  | .accessResponse _ => none
  | .inboundMemoryAccess _ _ => none
  | .peerShootdownRequest _ _ _ _ _ => none
  | .peerShootdownAcknowledgement _ => none
  | .imageStream _ => none
  | .calibrationWordComplete _ _ => none
  | .sramCorrectableError _ _ => none

noncomputable def rowsOf : Engine → List Row
  | .ctl => ctlRows
  | .acc => accRows
  | .vec => vecRows
  | .mtx => mtxRows
  | .xbr => xbrRows
  | .cpy => cpyRows

/-- What a stream gives a word at decode: its class, whether it runs with supervisor privilege, whether it runs in a
handler context of the control core, and the prefixes latched before it (02 R29, R45; 04 R124). -/
structure DecEnv where
  cls : Engine
  sup : Bool
  handler : Bool
  imx : Option Nat
  scp : Option Nat
  pmt : Option Nat
deriving DecidableEq, Repr

def DecEnv.plain (cls : Engine) : DecEnv := ⟨cls, true, false, none, none, none⟩

/-- Opcodes that only context 0 of the control core may execute (04 R124). -/
def taskOnlyOps : List Nat := [0x36, 0x2C, 0x2D, 0x2E, 0x33, 0x32, 0x41]

/-- Check 3 of R29, with the restrictions of 04 R124: supervisor opcodes, words of context 0 in a handler, HEND in
context 0. -/
def privilegeOk (env : DecEnv) (op : Nat) (sup : Bool) : Bool :=
  (!sup || env.sup) &&
  !(env.cls == .ctl && env.handler && taskOnlyOps.contains op) &&
  !(env.cls == .ctl && !env.handler && op == 0x37)

/-- Check 4 of R29: every latched prefix is accepted (R42 to R44; 11 R322; 12 R329). -/
def latchesOk (env : DecEnv) (r : Row) : Bool :=
  (env.imx.isNone || r.fmt.takesImx) &&
  (match env.scp with
   | none => true
   | some v => r.acc.orders.contains (v / 4)) &&
  (match env.pmt with
   | none => true
   | some v => r.acc.pmts.contains v)

/-- Check 5 of R29, with R124's rule that a handler context does not wait, R122's that DONE does not signal. -/
def syncOk (env : DecEnv) (op wait sig : Nat) : Bool :=
  syncByteOk env.cls.id wait && syncByteOk env.cls.id sig &&
  !(env.cls == .ctl && env.handler && wait != 0) &&
  !(env.cls == .ctl && op == 0x36 && sig != 0)

/-- Checks 6 to 8 of R29 on the operands of a row. -/
def operandChecks (r : Row) (vs : List Nat) : Except Nat Unit :=
  let pairs := r.flds.zip vs
  if !(pairs.all fun (f, v) => f.chk.okMod v) || !r.x6 vs then .error 0x03
  else if !(pairs.all fun (f, v) => f.chk.okReg v) then .error 0x04
  else if !(pairs.all fun (f, v) => f.chk.okRng v) || !r.x8 vs then .error 0x09
  else .ok ()

/-- NOP and the prefixes, which every class has (R34, R41, R50). A prefix's wait, signal and reserved bits are checked before its kind's latch
(log entry 68). -/
def decodeShared (env : DecEnv) (w : Nat) : Except Nat Instr :=
  let op := bitsAt w 40 8
  let sig := bitsAt w 48 8
  let wait := bitsAt w 56 8
  let opnd := bitsAt w 0 40
  if op = 0xFF then
    if !(env.imx.isNone && env.scp.isNone && env.pmt.isNone) then .error 0x07
    else if !syncOk env op wait sig then .error 0x05
    else if opnd ≠ 0 then .error 0x03
    else .ok (.nop ⟨wait, sig, none, none⟩)
  else if op = 0xFC then
    if wait ≠ 0 ∨ sig ≠ 0 then .error 0x03 else .ok (.imx .plain opnd)
  else if op = 0xFD then
    if wait ≠ 0 ∨ sig ≠ 0 ∨ 32 ≤ opnd ∨ 5 ≤ opnd / 4 then .error 0x03 else .ok (.scp .plain (opnd % 4) (opnd / 4))
  else
    if wait ≠ 0 ∨ sig ≠ 0 ∨ 4 ≤ opnd ∨ opnd = 0 then .error 0x03 else .ok (.pmt .plain (opnd % 2) (opnd / 2))

/-- Checks 3 to 8 of R29 on a word whose opcode has the rows `cands` in its class. -/
def decodeRows (env : DecEnv) (w : Nat) (r0 : Row) (cands : List Row) : Except Nat Instr :=
  let op := bitsAt w 40 8
  let sig := bitsAt w 48 8
  let wait := bitsAt w 56 8
  let opnd := bitsAt w 0 40
  if !privilegeOk env op r0.acc.sup then .error 0x08
  else if !latchesOk env r0 then .error 0x07
  else if !syncOk env op wait sig then .error 0x05
  else
    match cands.find? (fun r => subMatches r.sub opnd) with
    | none => .error 0x03
    | some r =>
      if !reservedZero r opnd env.imx then .error 0x03
      else
        let vs := r.flds.map (fun f => f.value opnd env.imx)
        match operandChecks r vs with
        | .error c => .error c
        | .ok _ => .ok (r.build ⟨wait, sig, env.scp, env.pmt⟩ vs)

/-- The instruction that the 64-bit word `w` is in the stream `env`, or the cause of R29 that it raises. The all-zero word
and a word whose opcode is not assigned are WORD_NOT_AN_INSTRUCTION (R47), whose meaning raises 0x01 or 0x02. -/
noncomputable def decode (env : DecEnv) (w : Nat) : Except Nat Instr :=
  let op := bitsAt w 40 8
  if w = 0 then .ok (.wordNotAnInstruction 0)
  else if 0xFC ≤ op then decodeShared env w
  else
    match (rowsOf env.cls).filter (fun r => r.op == op) with
    | [] => .ok (.wordNotAnInstruction w)
    | r0 :: rs => decodeRows env w r0 (r0 :: rs)

/-- The prefixes and the word that say an instruction: IMX extension, SCP field, PMT field, word. -/
structure Group where
  imx : Option Nat
  scp : Option Nat
  pmt : Option Nat
  word : Nat
deriving DecidableEq, Repr

/-- A field's operand fits the word without an IMX prefix. -/
def Fld.fits (f : Fld) (v : Nat) : Bool :=
  if f.sg then fitsS f.w v else decide (v < 2 ^ f.w)

def allFit : List Fld → List Nat → Bool
  | f :: fs, v :: vs => f.fits v && allFit fs vs
  | _, _ => true

/-- The word of a header, an opcode and an operand field. -/
def wordOf (h : Hdr) (op opnd : Nat) : Nat := h.wait * 2 ^ 56 + h.sig * 2 ^ 48 + op * 2 ^ 40 + opnd

/-- The words of an instruction, none for an event or a near-memory instruction. IMX is written only where an operand does
not fit the word's own field (02 R61). -/
noncomputable def encode (i : Instr) : Option Group :=
  match i with
  | .imx h ext => some ⟨none, none, none, wordOf h 0xFC ext⟩
  | .scp h scope order => some ⟨none, none, none, wordOf h 0xFD (scope + 4 * order)⟩
  | .pmt h sink clear => some ⟨none, none, none, wordOf h 0xFE (sink + 2 * clear)⟩
  | .nop h => some ⟨none, none, none, wordOf h 0xFF 0⟩
  | i =>
    match instrParts i with
    | none => none
    | some (cls, k, h, vs) =>
      match (rowsOf cls)[k]? with
      | none => none
      | some r =>
        let imx := if allFit r.flds vs then none else some (packHigh r.flds vs)
        some ⟨imx, h.scp, h.pmt, wordOf h r.op (packLow r.flds vs + packSub r.sub)⟩

/-- The stream in which an encoded group's word is decoded. -/
def Group.env (g : Group) (cls : Engine) (sup handler : Bool) : DecEnv := ⟨cls, sup, handler, g.imx, g.scp, g.pmt⟩

/-- The near-memory instruction of a 32-bit word, or the reason of 10 R292 (2 opcode, 3 register, 4 field). -/
noncomputable def decodeNmu (w : Nat) : Except Nat Instr :=
  match nmuRows.find? (fun r => r.op == bitsAt w 26 6) with
  | none => .error 2
  | some r =>
    let opnd := bitsAt w 0 26
    let vs := r.flds.map (fun f => bitsAt opnd f.lo f.w)
    let pairs := r.flds.zip vs
    if !(pairs.all fun (f, v) => f.chk.okReg v) then .error 3
    else if opnd != r.flds.foldr (fun f a => bitsAt opnd f.lo f.w * 2 ^ f.lo + a) 0 then .error 4
    else if !(pairs.all fun (f, v) => f.chk.okRng v) || !r.x vs then .error 4
    else .ok (r.build vs)

/-- The 32-bit word of a near-memory instruction. -/
noncomputable def encodeNmu (i : Instr) : Option Nat :=
  match nmuParts i with
  | none => none
  | some (k, vs) =>
    match nmuRows[k]? with
    | none => none
    | some r => some (r.op * 2 ^ 26 + packLow r.flds vs)

/-- The class of an engine id. -/
def engineOf (n : Nat) : Engine :=
  match n with
  | 0 => .ctl | 1 => .acc | 2 => .vec | 3 => .mtx | 4 => .xbr | _ => .cpy

/-- The instruction of a stored word of `nbits` bits: 32 a near-memory instruction; 64 a control-core word; 72 a word of the
engine whose id stands in the ninth byte. The ninth byte is this function's own way to name the class that the hardware
takes from the executing engine (R28). Events have no words. -/
noncomputable def decodeTableWord (nbits w : Nat) : Option Instr :=
  if nbits = 32 then (decodeNmu w).toOption
  else if nbits = 64 then (decode (.plain .ctl) (w % 2 ^ 64)).toOption
  else if nbits = 72 then (decode (.plain (engineOf (w / 2 ^ 64 % 8))) (w % 2 ^ 64)).toOption
  else none

end Sys2Proof
end

