-- ==== Sys2Proof/Config.lean ====
section
/-! DEFINITION. Sys2Proof/Config.lean: the values the spec leaves open, as constants without a body. Nothing can evaluate them;
every statement holds whatever they are (log entries 2, 7 to 11). -/

namespace Sys2Proof

/-- The n-th free value of a run (log entry 2). `Machine.takeFree` reads it at the counter `State.free`. -/
opaque Config.freeNat : Nat → Nat

/-- Which of the words that a fetch may deliver it does deliver, by tile, context, word, bind and earliest issue; whether an index list is
read, by tile and tc (log entries 9, 13). -/
opaque Config.freeFetch : List Nat → Nat

/-- Bytes of peer memory as the n-th read finds them (log entry 9). -/
opaque Config.peerByte : Nat → Nat → Nat

/-- The crossbar sealing key of 256 bits, loaded at boot and never readable (09 R270; log entry 11). -/
opaque Config.sealKey : Nat

/-- The device's attestation key, a scalar on brainpoolP384r1 (18 R459; log entry 11). -/
opaque Config.deviceKey : Nat

/-- The device's identity key, a scalar on brainpoolP384r1 (18 R457; log entry 11). -/
opaque Config.identityKey : Nat

/-- The stepping in DEVID (18 R450; log entry 11). -/
opaque Config.stepping : Nat

/-- The digest of the firmware images that boot measured: 0 the trusted monitor, 1 Fuentut (18 R456, R459; log entry 11). -/
opaque Config.bootDigest : Nat → Nat

end Sys2Proof
end

