-- ==== Sys2Proof/Machine/State.lean ====
section
/-! DEFINITION. Sys2Proof/Machine/State.lean: the state of the TV-41 as plain data, the reasons a step can stop, and the
state after reset. Registers, tiles, columns and contexts are kept in maps from a number to a value (`FM`), in which an
absent number holds the default of its kind; INVENTORY.md lists every piece with its rule. -/

namespace Sys2Proof.Machine

/-- A finite map from numbers to values, in rising order of its keys. -/
abbrev FM (α : Type) := List (Nat × α)

/-- The value of key `k`, `d` where the map has none. -/
def FM.get {α : Type} (d : α) : FM α → Nat → α
  | [], _ => d
  | (k, v) :: m, n => if n = k then v else FM.get d m n

/-- The map with `v` at key `n`. -/
def FM.set {α : Type} : FM α → Nat → α → FM α
  | [], n, v => [(n, v)]
  | (k, w) :: m, n, v =>
    if n < k then (n, v) :: (k, w) :: m else if n = k then (n, v) :: m else (k, w) :: FM.set m n v

/-- The map without key `n`. -/
def FM.del {α : Type} : FM α → Nat → FM α
  | [], _ => []
  | (k, w) :: m, n => if n = k then FM.del m n else (k, w) :: FM.del m n

/-- The value of key `n`, if any. -/
def FM.find? {α : Type} : FM α → Nat → Option α
  | [], _ => none
  | (k, v) :: m, n => if n = k then some v else FM.find? m n

/-- The poison field of a synchronisation object (11 R301). -/
structure PField where
  bit : Bool
  cause : Nat
  origin : Nat
deriving DecidableEq, Repr

def PField.clean : PField := ⟨false, 0, 0⟩

/-- A semaphore or token queue: count and poison field (11 R307, R308). -/
structure SObj where
  count : Nat
  pois : PField
deriving DecidableEq, Repr

def SObj.zero : SObj := ⟨0, .clean⟩

/-- A barrier slot (11 R309); for a wider scope `gen` and `pois` follow the home record. -/
structure BSlot where
  init : Bool
  scope : Nat
  home : Nat
  target : Nat
  count : Nat
  gen : Nat
  pois : PField
deriving DecidableEq, Repr

def BSlot.zero : BSlot := ⟨false, 0, 0, 0, 0, 0, .clean⟩

/-- A home record of a wider barrier slot (11 R313): its slot state and the participating tiles. -/
structure HomeRec where
  slot : BSlot
  parts : List Nat
deriving DecidableEq, Repr

/-- A register of 64 bits with its poison bit (04 R99, 05 R144). -/
structure RegV where
  v : Word
  p : Bool
deriving DecidableEq, Repr

def RegV.zero : RegV := ⟨0, false⟩

/-- A c-register: capability and tag (05 R129). -/
structure CReg where
  v : Cap
  tag : Bool
deriving DecidableEq, Repr

def CReg.zero : CReg := ⟨0, false⟩

/-- A vector register, mask, tile or queue entry with its poison bit. -/
structure VVal where
  v : VReg
  p : Bool
deriving DecidableEq, Repr
structure MVal where
  v : MReg
  p : Bool
deriving DecidableEq, Repr
structure TVal where
  v : Tile32
  p : Bool
deriving DecidableEq, Repr

def VVal.zero : VVal := ⟨0, false⟩
def MVal.zero : MVal := ⟨0, false⟩
def TVal.zero : TVal := ⟨0, false⟩

/-- Latched prefixes of one stream and the address of the group's first word (02 R44, R45). -/
structure Latch where
  imx : Option Nat
  scp : Option Nat
  pmt : Option Nat
  start : Option Nat
deriving DecidableEq, Repr

def Latch.empty : Latch := ⟨none, none, none, none⟩

/-- Run state of a control-core context (14 R383 CTXST.run). -/
inductive Run where
  | running | dormant | inDone | inHend
deriving DecidableEq, Repr

/-- A control-core word that acts through another unit and has issued (14 R391): destination register (0 for
none), signal byte, the class of work and the thing it awaits. -/
structure Remote where
  dst : Nat
  sig : Nat
  op : Nat
deriving DecidableEq, Repr

/-- A hardware context of the control core (04 R93; 16 R415, R417). Trap registers are keyed by level. `fresh`
are the stores to the CIM that its fetches must see, `waitDone` says that a held word has issued (15 R403), and
`fetched` is the word it has fetched and not issued, with its pc and `nextAt` (04 R95). -/
structure CtlCtx where
  regs : FM RegV
  pc : Nat
  run : Run
  latch : Latch
  nextAt : Nat
  waitFrom : Option Nat
  tlvl : Nat
  tcause : FM Word
  tepc : FM Word
  tval : FM Word
  tstate : FM Word
  rmt : Option Remote
  waitDone : Bool
  fresh : List Nat
  fetched : Option (Nat × Nat × Word)
deriving DecidableEq, Repr

/-- A ring slot's kept word or a word to be executed again (02 R49; 16 R425). -/
structure RWord where
  w : Word
  off : Nat
deriving DecidableEq, Repr

/-- A resident routine in progress: routine number, next word, its last word, repetitions left (04 R115). -/
structure Routine where
  first : Nat
  next : Nat
  last : Nat
  reps : Nat
deriving DecidableEq, Repr

/-- A command ring (04 R113; 02 R62; 05 R157): byte offset, size W, resident words P, head and tail modulo 2C, the
`.resident` routines as (first word, words), and the ring positions that hold a FORK slot with (routine, count). -/
structure Ring where
  base : Nat
  size : Nat
  res : Nat
  head : Nat
  tail : Nat
  routines : List (Nat × Nat)
  forks : List (Nat × Nat × Nat)
deriving DecidableEq, Repr

/-- What holds a ring-fed engine's issue beyond waits (05 R127, R143, R148, R152, R157; 10 R276, R278, R284,
R285): `issued` is a word that has issued and whose checks or list read are not complete (05 R131, R142; 15
R403), with its signal and its prefixes. -/
inductive Hold where
  | none
  | mark (sig scope order : Nat) (last : Nat)
  | mwait (dst sig : Nat) (expect : Word) (addr key col : Nat) (armed : Bool) (deadline : Option Nat) (retryAt : Nat)
    (scope order : Nat)
  | issued (sig : Nat) (latch : Latch)
  | qdrop (q n sig : Nat)
  | rdset (e : Nat) (v : Word) (sig : Nat)
deriving DecidableEq, Repr

/-- The stop record of an engine after a fault (02 R49; 16 R421 to R425). -/
structure Fault0 where
  cause : Nat
  tval : Word
  roff : Nat
  wdone : Bool
  pfx : Bool
  begun : Bool
  group : List RWord
deriving DecidableEq, Repr

/-- The issue state of a ring-fed engine: latches, earliest next issue, wait registration, whether the present
word's wait is satisfied already, the routine in progress, the words of the present group, a group to be
executed again, the hold, the stop and pend bits with the fault. -/
structure Eng where
  latch : Latch
  nextAt : Nat
  waitFrom : Option Nat
  waitDone : Bool
  routine : Option Routine
  group : List RWord
  again : List RWord
  hold : Hold
  stop : Bool
  pend : Bool
  fault : Option Fault0
deriving DecidableEq, Repr

def Eng.idle : Eng :=
  ⟨.empty, 0, none, false, none, [], [], .none, false, false, none⟩

/-- A handler queue entry (04 R125; 14 R383 HQ). -/
structure HEntry where
  pc : Nat
  off : Nat
  len : Nat
  origin : Nat
  arg : Word
deriving DecidableEq, Repr

/-- A queue entry in allocation order: its storage index, its image once filled (05 R139). -/
structure QEnt where
  idx : Nat
  data : Option VVal
deriving DecidableEq, Repr

/-- A load or store queue: entries from the head, and the storage index of the next tail. -/
structure Queue where
  ents : List QEnt
  tail : Nat
deriving DecidableEq, Repr

def Queue.empty : Queue := ⟨[], 0⟩

/-- An L1 line: the global line it was filled from, its bytes and poison (05 R135). -/
structure L1Line where
  key : Nat
  data : Line
  p : Bool
deriving DecidableEq, Repr

/-- A stream value: the number of its word's result among what is pending (14 R382), which a landing of its
flags shares, the stream, the tile clock in which it is driven, the pipe, the row and its poison (06 R172). -/
structure StreamV where
  num : Nat
  st : Nat
  at' : Nat
  pipe : Nat
  row : BitVec 2048
  p : Bool
deriving DecidableEq, Repr

/-- A matrix command in progress (07 R204 to R209, R222): kind 1 MGO, 2 MGOS; `win` and `kept` name its place in
a replay window, 0 for none. -/
structure MCmd where
  kind : Nat
  fa : Nat
  fb : Nat
  ra : Nat
  rb : Nat
  acc : Nat
  kel : Nat
  aoff : Nat
  boff : Nat
  hA : Nat
  hB : Nat
  step : Nat
  steps : Nat
  startAt : Nat
  sig : Nat
  roff : Nat
  win : Nat
  kept : Nat
deriving DecidableEq, Repr

/-- A command retained in a replay window (07 R220): its group, held signal, and whether it has completed. -/
structure Retained where
  group : List RWord
  sig : Nat
  done : Bool
deriving DecidableEq, Repr

/-- An open replay window (07 R219 to R221); `left` are the retained commands that a replay has yet to execute
again. -/
structure Window where
  id : Nat
  first : Nat
  cnt : Nat
  shadow : FM TVal
  mask : Nat
  maskP : Bool
  kept : List Retained
  left : List Retained
  flags : Nat
  replays : Nat
deriving DecidableEq, Repr

/-- A certificate with its operation counters (08 R247; 09 R267, R269); `serial` numbers the certificates of the
array (09 R272). -/
structure Cert where
  cstate : Nat
  lapse : Nat
  ebank : Nat
  d : Nat
  lk : Nat
  depth : Nat
  qexp : Nat
  enc : Nat
  remaps : Nat
  ops : Nat
  left : Nat
  serial : Nat
deriving DecidableEq, Repr

/-- A crossbar array (08 R224 to R226; 09 R255, R260, R262, R265, R271, R272). Cells are keyed 528r + p;
`verified` and `csr` hold V and CSR of column c and group g at 8c + g; `target` has the code 512r + c that the
last verifying word held; offsets and gains are keyed by column. `nextMeas` counts on the tile's `mclk`. -/
structure XArray where
  cells : FM Nat
  target : FM Nat
  verified : List Nat
  csr : FM Nat
  remap : FM Nat
  depth : Nat
  qexp : Nat
  enc : Nat
  rgmask : Nat
  xoff : FM Int
  xgain : FM Nat
  calValid : Bool
  calres : Nat
  calDepth : Nat
  calQexp : Nat
  calEnc : Nat
  cert : Cert
  base : Option (List Nat)
  meas : List Nat
  drift : Nat
  peak : Nat
  k : Nat
  nextMeas : Nat
  policy : Nat
  shadowPtr : Option Nat
  arate : Nat
  acount : Nat
  image : Option Nat
  audits : Nat
  amis : Nat
  priv : Bool
  orphan : Bool
  owner : Nat
deriving DecidableEq, Repr

def Cert.none : Cert := ⟨0, 0, 0, 0, 0, 0, 0, 0, 0, 0, 0, 0⟩

/-- An array as cold reset leaves a new device's array. -/
def XArray.fresh : XArray :=
  { cells := [], target := [], verified := [], csr := [], remap := [], depth := 2, qexp := 0, enc := 1, rgmask := 255,
    xoff := [], xgain := [], calValid := false, calres := 0, calDepth := 0, calQexp := 0, calEnc := 0, cert := .none,
    base := none, meas := [0, 0, 0, 0], drift := 0, peak := 0, k := 0, nextMeas := 0, policy := 0, shadowPtr := none,
    arate := 0, acount := 0, image := none, audits := 0, amis := 0, priv := false, orphan := false, owner := 0 }

/-- A crossbar group (08 R238): first array, nk, nn. -/
structure XGroup where
  first : Nat
  nk : Nat
  nn : Nat
deriving DecidableEq, Repr

/-- A crossbar or operand slot ring (08 R239). -/
structure SRing where
  base : Nat
  nslots : Nat
  head : Nat
deriving DecidableEq, Repr

/-- An XMVM or XMVMA in flight (08 R232 to R245; 14 R383 XCMD), keyed by its issue. `ins` and `outs` are the
scratchpad offsets of its slots, `vs` its active vectors; the fields from `g` to `xvmP` are as issued; `from'`
the tile clock from which it may start; `started` is the tc its array work started with the vectors landed then,
`routes` and `certs` the route, Ebank and certificate of each array, `slots` the step slots its digital work
still needs, `audits` the arrays whose audit is due since `auditFrom`, `delivered` their values; `snaps` the
arrays as the array work found them; `held` marks a signal on its way as a copy command's `at'` does. -/
structure XCmd where
  acc : Bool
  g : Nat
  i : Nat
  o : Nat
  islot : Nat
  oslot : Nat
  nvec : Nat
  vm : Nat
  xvm : Nat
  xvmP : Bool
  outIdx : List Nat
  first : Nat
  nk : Nat
  nn : Nat
  ins : List Nat
  outs : List Nat
  vs : List Nat
  vp : Bool
  route : Nat
  enc : Nat
  from' : Nat
  started : Option (Nat × Nat)
  counted : Bool
  routes : List Nat
  certs : List (Nat × Nat)
  inputs : List (Nat × List Nat × Bool)
  landed : Nat
  slots : Nat
  audits : List Nat
  auditFrom : Nat
  delivered : FM Int
  snaps : FM XArray
  sig : Nat
  pois : Option (Nat × Nat)
  held : Option Nat
  grp : List RWord
deriving DecidableEq, Repr

/-- A calibration word with array time, or an automatic measurement, in progress (09 R251 to R253): its kind,
operands, array; the tile clock from which it may start, the tc its present run of array time started with the
converter clocks to its next end; rows done, pulses of the present row, the spare column being steeped, the
first-pass misses of each column, remaps made; the image it read; its signal. -/
structure CalW where
  op : Nat
  vs : List Nat
  array : Nat
  from' : Nat
  started : Option Nat
  cc : Nat
  row : Nat
  pulses : Nat
  col : Option Nat
  misses : FM Nat
  remaps : Nat
  img : List Nat
  fit : Bool
  sig : Nat
  grp : List RWord
deriving DecidableEq, Repr

/-- Where an access goes once translated: entry index, physical address, kind, home column, key, port, and
whether its frame is quarantined (15 R400, R401). -/
structure Phys where
  idx : Nat
  pa : Nat
  kind : Nat
  home : Nat
  mkey : Nat
  port : Nat
  quar : Bool
deriving DecidableEq, Repr

/-- A unit of a copy command as read (10 R281): its granules as (destination address, bytes, poison), and
whether its token is masked (10 R297). -/
structure CRead where
  gs : List (Nat × List Nat × Bool)
  masked : Bool
deriving DecidableEq, Repr

/-- Writes of a copy command under way: the granules not yet written, the translations of their pages, the bytes
in all, and whether a unit ends with them (10 R281; 12 R345). -/
structure COut where
  gs : List (Nat × List Nat × Bool)
  phys : List (Nat × Phys)
  len : Nat
  ends : Bool
deriving DecidableEq, Repr

/-- A unit of CPYX at a near-memory unit (10 R289, R294): its number, the channel, the translations of its
source and destination pages; its granules once the run has ended, with its flags; or what ended it without a
write, as (cause, address, whether it is a fault). -/
structure CRun where
  unit : Nat
  ch : Nat
  src : List (Nat × Phys)
  dst : List (Nat × Phys)
  out : Option (List (List Nat × Bool))
  flags : Nat
  fail : Option (Nat × Nat × Bool)
deriving DecidableEq, Repr

/-- A copy command in flight (10 R276 to R286; 14 R383 CCMD), keyed by its slot: opcode and sub-form, record
slot, descriptor offset, its bytes and capabilities as read (S, D, X, Y), signal, order of issue; `phase` 0 at
its units, 1 its record due, 2 its signal due, from tile clock `at'` on, 3 its signal on its way (02 R32; 19
R462) since tile clock `at'`, or with flight number `at'`; units done and in all, bytes written, flags, scope,
order, sink permit, SBAR classes, the earlier commands an SBAR or drain awaits; `stuck` at a not-present-trap
page; units read ahead; the writes under way; units at near-memory units; the index list as (index, poison); the
bound NMU program; masked counts and bitmaps by row; a checksum so far; what its record says; the poison of its
signal; further operands; its group. -/
structure CCmd where
  op : Nat
  sub : Nat
  rec' : Nat
  desc : Nat
  img : List Nat
  caps : List CReg
  sig : Nat
  seq : Nat
  phase : Nat
  at' : Nat
  unit : Nat
  units : Nat
  bytes : Nat
  flags : Nat
  scope : Nat
  order : Nat
  sink : Bool
  cls : Nat
  wait : List Nat
  stuck : Bool
  ahead : List CRead
  out : Option COut
  runs : List CRun
  list : Option (List (Nat × Bool))
  prog : Option (List Nat)
  masked : FM Nat
  bitmap : FM Nat
  crc : Nat
  status : Nat
  cause : Nat
  origin : Nat
  chan : Nat
  result : Nat
  pois : Option (Nat × Nat)
  ext : List Nat
  grp : List RWord
deriving DecidableEq, Repr

/-- An error-log entry (16 R435). -/
structure LogEnt where
  w0 : Word
  w1 : Word
deriving DecidableEq, Repr

/-- A clean token push waiting at a full queue, in send order (02 R32). `stream` 0 to 3 are control-core
contexts, 4 to 8 engines 1 to 5. -/
structure PushW where
  stream : Nat
  prod : Nat
  cons : Nat
  seq : Nat
deriving DecidableEq, Repr

/-- Whether a tile runs, is stopped in place, is saved, or is fenced (14 R384, R387; 16 R433). -/
inductive TState where
  | running | stopped | saved | fenced
deriving DecidableEq, Repr

/-- A part of a task image that has not arrived (14 R380; 15 R413): `len` bytes for a global address on, to be
read from device memory at the physical address that the bind translated. -/
structure Incoming where
  addr : Nat
  pa : Nat
  va : Nat
  mkey : Nat
  len : Nat
deriving DecidableEq, Repr

/-- What a store to the CIM replaced (04 R95): the word's index, the old word, and whether it was uncorrectable
(16 R434). Stores are numbered by their place in the list. -/
structure CimOld where
  idx : Nat
  w : Word
  bad : Bool
deriving DecidableEq, Repr

/-- One tile site's tile; `cimOld` are the stores to its CIM since the bind and `know` which of them each stream
and each object has learned of by signals and waits (04 R95; 12 R339); `zmap` lists the items of its checkpoint
slot that are not zero (14 R386, R387), `endSig` marks a CTXSCRUB that ends the task, with its signal; `row` is
TILEID.row (04 R102); `testing` are the units under self-test with the mismatches of the event (0 for STEST),
the tc by which the test ends, and the flight of the result concerned (16 R431, R432, R437); `mlast` is the
matrix command whose steps have all started, for the snapshot (14 R383); `spPois` and `spTags` keep the
scratchpad's poison and tags in a saved copy, and `evict` marks a task that the dispatcher stops to save it,
`halted` one that a PREEMPT.STOP has stopped (01 R16, R17 and the chapters of its engines). -/
structure Tile where
  clk : Nat
  mclk : Nat
  site : Nat
  row : Nat
  bound : Bool
  ctx : Nat
  sup : Bool
  launch : Nat
  node : Nat
  prio : Nat
  boundSeq : Nat
  task : Bool
  state : TState
  scrubTo : Nat
  ctxs : FM CtlCtx
  rr : Nat
  divA : Nat
  divB : Nat
  cimLen : Nat
  cimBad : List Nat
  cimOld : List CimOld
  know : FM (List Nat)
  incoming : List Incoming
  hctl : Nat
  hq : List HEntry
  recvOpen : Bool
  hold0 : Option Nat
  eflag : FM Nat
  sem : FM SObj
  tq : FM SObj
  pushes : List PushW
  bar : FM BSlot
  bh : FM Nat
  bpend : FM Nat
  rings : FM Ring
  eng : FM Eng
  aregs : FM RegV
  cregs : FM CReg
  queues : FM Queue
  l1 : List L1Line
  amoLines : List Nat
  vregs : FM VVal
  mregs : FM MVal
  rotN : Nat
  rotM : Nat
  vbase : Nat
  mbase : Nat
  vlc : Nat
  lastPipe : Option Nat
  streams : List StreamV
  accs : FM TVal
  opr : FM Nat
  shadow : FM Word
  active : FM Word
  rowMask : Nat
  rowMaskP : Bool
  mcmd : Option MCmd
  mlast : Option MCmd
  window : Option Window
  replays : Nat
  arrays : FM XArray
  xgroups : FM XGroup
  xin : FM SRing
  xout : FM SRing
  xvm : Nat
  xvmP : Bool
  clip : FM Nat
  xcmds : FM XCmd
  xcal : FM CalW
  crec : Option Nat
  ccmds : FM CCmd
  cseq : Nat
  log : List LogEnt
  logCount : Nat
  lasting : Nat
  verdicts : FM (List Nat)
  testing : FM (Nat × Nat × Nat)
  tsa : FM Cap
  tsatag : Nat
  dirty : List Nat
  zmap : List Nat
  endSig : Option Nat
  spPois : List Nat
  spTags : List Nat
  evict : Bool
  halted : Bool
deriving DecidableEq, Repr

/-- A bank-store line of device memory (05 R136): the line number (physical address / 64), the context-virtual
line that brought it in, its key and context, its bytes, dirty and poison bits and its way of the context's
grant. -/
structure BLine where
  key : Nat
  va : Nat
  mkey : Nat
  ctx : Nat
  data : Line
  dirty : Bool
  p : Bool
  way : Nat
deriving DecidableEq, Repr

/-- A deque (11 R314): owner row, capacity, context, entries bottom first, poison field. -/
structure Deque where
  ctx : Nat
  row : Nat
  cap : Nat
  ents : List RegV
  pois : PField
deriving DecidableEq, Repr

/-- A held access of a column translation unit (15 R402, R403): what is held, its context, virtual address,
access kind, origin, entry, and its record's sequence number once written. -/
inductive HeldWhat where
  | acc (t id : Nat)
  | ctl (t c : Nat)
  | copy (t k : Nat)
  | xbar (t k : Nat)
  | backfill
deriving DecidableEq, Repr
structure Held where
  what : HeldWhat
  ctx : Nat
  space : Nat
  va : Nat
  kind : Nat
  origin : Nat
  entry : Nat
  seq : Option Nat
deriving DecidableEq, Repr

/-- A backfill request (13 R354). -/
structure BfReq where
  ctx : Nat
  state : Nat
  prio : Nat
  boosted : Bool
  e : Nat
  f : Nat
  g : Nat
  next : Nat
  origin : Nat
  t : Nat
  row : Nat
  hid : Nat
  tab : Nat
  map : Nat
  pool : Nat
  enq : Nat
deriving DecidableEq, Repr

/-- Per-context backfill state of a column (13 R353, R365, R366): table image bytes (empty when none), pause,
completed, aborted, last abort cause, layer, token, saturated conversions. -/
structure BfCtx where
  table : List Nat
  paused : Bool
  completed : Nat
  aborted : Nat
  cause : Nat
  layer : Nat
  token : Nat
  sats : Nat
deriving DecidableEq, Repr

def BfCtx.empty : BfCtx := ⟨[], false, 0, 0, 0, 0, 0, 0⟩

/-- A batch in progress (13 R355 to R357, R360): enqueue numbers of its members, layer, the tile and the arrays
that work, their routes and certificates, the tc its array work ends, digital step slots left, audits due since
`auditFrom`, the hidden states as (member, bytes, poison), and each member's outputs with the poison of each
granule once computed; the arrays as the work found them, their values by (member, array, chunk), the arrays
that poison what they contribute to, whether a checker found a mismatch in the digital work; and, for the member
that is being written, its entry's address with the poison of its block-table entry, and the granules not yet
written. -/
structure Batch where
  members : List Nat
  layer : Nat
  tile : Nat
  arrays : List Nat
  routes : List Nat
  certs : List (Nat × Nat)
  endAt : Nat
  slots : Nat
  audits : List Nat
  auditFrom : Nat
  inputs : List (Nat × List Nat × Bool)
  outs : List (Nat × List Nat × List Bool)
  snaps : FM XArray
  vals : FM (List Int)
  poisoned : List Nat
  mismatch : Bool
  addr : Option (Nat × Bool)
  todo : List Nat
deriving DecidableEq, Repr

/-- A column and its units (01 R18; 15 R397 to R405; 13; 17). `wireFails` has the times of the CRC failures of
wire w of sheath sh at 68sh + w, wires 64 to 67 being spares p0 to p3; `failedWires` those declared failed and
not repaired, `badWires` the mask of those repaired by sheath, `retries` the CRC failures of a flight's flit;
`retired` the retired ways as 16 * context + way of its grant, from 1,024 on for a way that no context's grant
holds; `repairAt` is the tc in which the present hold for repairs began (17 R440). -/
structure Col where
  lines : List BLine
  deques : FM Deque
  homes : FM HomeRec
  monitors : List (Nat × Nat × Nat)
  entries : FM Cap
  held : List Held
  heldState : Bool
  seqNo : Nat
  replayed : Nat
  images : FM Nat
  rfFirst : Nat
  rfCnt : Nat
  rfCtx : Nat
  rfBusy : Bool
  rfErr : Bool
  rfBad : Nat
  holders : List Nat
  bfCtx : FM BfCtx
  bfQueue : List BfReq
  bfEnq : Nat
  batch : Option Batch
  fenced : Bool
  retained : Bool
  crep : FM Word
  wireFails : FM (List Nat)
  failedWires : List (Nat × Nat)
  badWires : FM Nat
  retries : FM Nat
  spareRows : FM Nat
  spareCols : FM Nat
  retired : List Nat
  trained : Bool
  repairAt : Nat
deriving DecidableEq, Repr

/-- A node descriptor of a registered sheaf (14 R371): its fields. -/
structure Node where
  nest : Bool
  gang : Option Nat
  sup : Bool
  prio : Nat
  ndims : Nat
  order : List Nat
  entry : Nat
  image : Nat
  place : Nat
  dims : List Nat
  regions : List (Nat × Nat × Bool)
deriving DecidableEq, Repr

/-- A ring of a task image: engine, byte offset, words, resident words, routines as (first, words), and where
its resident words stand in the code pages. -/
structure RingImg where
  eng : Nat
  off : Nat
  words : Nat
  res : Nat
  routines : List (Nat × Nat)
  at' : Nat
deriving DecidableEq, Repr

/-- A task image of an object: its first 4 KiB as the image head store holds them (14 R380), CIM words, rings,
capabilities as (register, value), and the context-virtual base of its code pages. -/
structure Image where
  head : List Nat
  words : Nat
  rings : List RingImg
  caps : List (Nat × Nat)
  codeVa : Nat
deriving DecidableEq, Repr

/-- A registered sheaf. -/
structure Sheaf where
  nodes : List Node
  images : List Image
deriving DecidableEq, Repr

/-- A node of a launch: tasks bound, tasks complete, complete, pass count, current priority (14 R373 to R376). -/
structure NodeSt where
  bound : Nat
  finished : Nat
  complete : Bool
  pass : Nat
  cur : Nat
deriving DecidableEq, Repr

/-- An accepted launch that is not complete (14 R372, R379). -/
structure Launch where
  id : Nat
  ctx : Nat
  sheaf : Nat
  number : Nat
  cw : Option Nat
  nodes : List NodeSt
  killed : Option (Nat × Nat)
deriving DecidableEq, Repr

/-- A context of the device (14 R369; 15 R397, R406; 18 R454; 10 R292). -/
structure Context where
  rec' : List Nat
  supok : Bool
  ckey : Nat
  bsplit : Nat
  grant : Nat
  nw : FM Nat
  cwBlock : Nat
  ckpt : Nat
  tdRec : Nat
  parts : FM (Nat × Nat)
  keyGrant : Nat
  pool4 : List Nat
  pool64 : List Nat
  tearing : Bool
  accepted : Nat
  dropped : Nat
  sheaves : FM Sheaf
  nmu : FM (List Nat)
deriving DecidableEq, Repr

/-- An NMU run in progress (10 R290): the tile, copy command and unit it serves, program, position, the two
loops as (first, last, left), registers with poison, the bytes of the IN and AUX streams with the poison of each
64 and their positions, the output with its length, parameter block, flags, and whether NEND has been reached.
-/
structure NmuRun where
  tile : Nat
  slot : Nat
  unit : Nat
  prog : List Nat
  pc : Nat
  loop1 : Option (Nat × Nat × Nat)
  loop2 : Option (Nat × Nat × Nat)
  regs : FM (Line × Bool)
  src : List (Line × Bool)
  inPos : Nat
  aux : List (Line × Bool)
  auxPos : Nat
  out : List (Nat × Bool)
  outLen : Nat
  param : Line
  flags : Nat
  ended : Bool
deriving DecidableEq, Repr

/-- An NMU channel's counters (10 R295): runs completed per context, parity aborts, last abort's context and
unit address, and whether the unit is fenced (16 R433), the times of its transient verdicts; `test` is the
self-test that holds the unit: the tile whose log has its entry, and the tc by which it ends (16 R432). -/
structure Nmu where
  runs : FM Nat
  aborts : Nat
  lastCtx : Nat
  lastAddr : Nat
  fenced : Bool
  verdicts : List Nat
  run : Option NmuRun
  queue : List (Nat × Nat × Nat)
  test : Option (Nat × Nat)
deriving DecidableEq, Repr

def Nmu.idle : Nmu := ⟨[], 0, 0, 0, false, [], none, [], none⟩

/-- A host fault record (15 R402; 18 R452). -/
structure FRec where
  ty : Nat
  ctx : Nat
  col : Nat
  access : Nat
  origin : Nat
  entry : Nat
  va : Nat
  seq : Nat
  port : Nat
deriving DecidableEq, Repr

/-- Host interface, management processor and boot (18 R450 to R461; 17 R446 to R449). -/
structure Sys where
  sqBase : Nat
  sqSize : Nat
  sqTail : Nat
  sqHead : Nat
  fqBase : Nat
  fqSize : Nat
  fqTail : Nat
  fqHead : Nat
  fqWait : List (FRec × Bool)
  mbox : FM Nat
  bootStage : Nat
  bootErr : Nat
  readyHbm : Nat
  readyLink : Nat
  readyHost : Bool
  readyMp : Bool
  readyXb : List Nat
  watts : Nat
  throttled : Nat
  hbmThrottle : Nat
  govMs : Nat
  refresh : FM Nat
  bursts : FM Nat
  stopBinding : Bool
  powered : Bool
  keys : FM (BitVec 512)
  portFailed : List Nat
  portErrs : FM Nat
  peerReqs : List (List Nat)
  repairLog : List (Nat × Nat × Nat)
  siteFenced : List Nat
  defsig : Nat
deriving DecidableEq, Repr

/-- Which clock a flight's due time counts: the frozen clock of a tile, or the device's. -/
inductive Clk where
  | tile (t : Nat)
  | dev
deriving DecidableEq, Repr

/-- An access of an access core between issue and completion (05 R127, R147, R467; 12 R331, R332): `keys` are
the pieces not yet performed as (address, offset in the entry), each of `size` bytes; `stage` 0 not performed, 1
performed and not returned; `ready` the earliest tc of its result, `issued` that of its issue; `noFill` that the
L1 line has been invalidated since issue; `phys` the translations of its 4 KiB pages; `cim` the stores to the
CIM that it has performed (04 R95). -/
structure Access where
  t : Nat
  op : Nat
  atomic : Bool
  space : Nat
  va : Nat
  keys : List (Nat × Nat)
  size : Nat
  dst : Nat
  x : Nat
  data : List (Nat × Bool)
  cap : CReg
  scope : Nat
  order : Nat
  unit : Nat
  stage : Nat
  sig : Nat
  roff : Nat
  result : VVal
  tagOut : Bool
  pois : Option (Nat × Nat)
  issued : Nat
  ready : Nat
  noFill : Bool
  sink : Bool
  grp : List RWord
  phys : List (Nat × Phys)
  cim : List Nat
deriving DecidableEq, Repr

/-- A put or reduce in the fabric (05 R153 to R155): kind 0 PUTR, 1 PUTH, 2 RRED; `done` granules are delivered,
`written` says that the data are complete; `got` are the source granules read, `phys` the translations of its
pages, `arrived` the tc in which it reached a receive unit that is closed (14 R392). -/
structure Put where
  t : Nat
  kind : Nat
  src : Nat
  target : Nat
  dst : Nat
  len : Nat
  op : Nat
  ty : Nat
  sem : Option Nat
  handler : Nat
  arg : Word
  sig : Nat
  roff : Nat
  space : Nat
  sink : Bool
  written : Bool
  done : Nat
  order : Nat
  scope : Nat
  ready : Nat
  grp : List RWord
  phys : List (Nat × Phys)
  got : List (List Nat × Bool)
  arrived : Option Nat
deriving DecidableEq, Repr

/-- Something in flight: what comes about when it lands. -/
inductive Fl where
  | sreg (t c r : Nat) (v : RegV) (flag : Nat)
  | areg (t r : Nat) (v : RegV) (flag : Nat)
  | creg (t r : Nat) (v : CReg) (flag : Nat)
  | vreg (t r : Nat) (mask : MReg) (v : VVal) (flags : Nat)
  | mreg (t r : Nat) (mask : MReg) (v : MVal) (flags : Nat)
  | tile (t r : Nat) (vec : Bool) (win : Nat) (v : TVal) (flags : Nat)
  | mstep (t r rows win : Nat) (adds : List Tile32) (p : Bool) (flags : Nat)
  | mdone (t win kept sig : Nat)
  | mclose (t sig : Nat)
  | qfill (t e q idx : Nat) (v : VVal) (flags : Nat)
  | flags (t e bits : Nat)
  | signal (t e sig : Nat) (ctx : Nat) (pois : Option (Nat × Nat))
  | sysw (t c reg : Nat) (v : Word) (p : Bool)
  | hend (t c sig : Nat)
  | semset (t c n v : Nat)
  | bhmap (t n slot : Nat)
  | binit (t c slot scope home target : Nat)
  | poison (t c kind idx cause : Nat)
  | scrub (t c kind idx : Nat) (rst : Bool)
  | mtwr (t level field : Nat) (v : Word)
  | ringw (t e : Nat) (ws : List Word)
  | ringFork (t e routine count : Nat)
  | eflt (t : Nat) (rst skip : Nat)
  | mring (t k : Nat) (v : Nat)
  | rowMask (t m : Nat) (p : Bool)
  | mwindow (t first cnt : Nat)
  | xring (t : Nat) (out : Bool) (k : Nat) (r : SRing)
  | xgroup (t g : Nat) (v : XGroup)
  | xvmask (t m : Nat) (p : Bool)
  | xcfg (t a n depth qexp enc : Nat)
  | xrgmask (t a n rg : Nat)
  | xpriv (t a n : Nat) (on : Bool)
  | scratch (t off : Nat) (bytes : List Nat)
  | crec (t base : Nat)
  | access (a : Access)
  | put (p : Put)
  | home (t slot : Nat) (what : Nat) (a b : Nat) (pois : Option (Nat × Nat)) (sig c : Nat)
  | update (t slot gen : Nat) (pois : Option PField)
  | remote (t c : Nat) (r : Remote) (vs : List Nat)
  | launch (t ctx sheaf : Nat) (cw : Option Nat) (sig : Nat) (release : Bool) (tileRun : Bool)
  | bind (t launch node point : Nat) (wait : Bool)
  | calEffect (t op : Nat) (vs : List Nat)
deriving DecidableEq, Repr

structure Flight where
  id : Nat
  clk : Clk
  due : Nat
  fl : Fl
deriving DecidableEq, Repr

/-- Work of the present tc that has its turn (log entry 4): the issue chance of context 0, or its chance in a tc
that began with an engine fault to deliver; that of a handler context, or of a ring-fed engine, which comes
early where its word will only send poison; that of an NMU; something that lands; a waiting push; a monitor's
wake; a wire declared failed; a held word or access that a replay has released; an eviction; the end of a stage
of boot; any other event. -/
inductive Turn where
  | portA (t : Nat)
  | faultA (t : Nat)
  | early (t e : Nat)
  | portB (t c : Nat)
  | engine (t e : Nat)
  | nmu (ch : Nat)
  | lands (id : Nat)
  | pushes (t q : Nat)
  | mwake (t v : Nat)
  | declare (c sh w : Nat)
  | released (c : Nat) (w : HeldWhat)
  | evict (c : Nat)
  | boot
  | event (i : Instr)
deriving DecidableEq, Repr

/-- The agent whose word or event the present step runs. -/
inductive Agent where
  | ctl (t c : Nat)
  | ring (t e : Nat)
  | nmu (ch : Nat)
  | none
deriving DecidableEq, Repr

/-- The whole machine. `mem` is one memory over global addresses (Machine/Ops.lean lays them out); `pois` lists
poisoned 64-byte granules, `tags` 16-byte locations with a capability tag, `sectors` poisoned 32-byte HBM
sectors, `badPages` quarantined 4 KiB frames. `parked` keeps what a saved task had in flight. `turns`, `inputs`,
`flights`, `nextId`, `cur`, `free` and `bad` are the model's own; `bad` marks an access beyond the device
memory, which ends the step in a fault. -/
structure State where
  tc : Nat
  cur : Agent
  turns : List Turn
  inputs : List (Nat × Instr)
  flights : List Flight
  parked : List Flight
  nextId : Nat
  free : Nat
  bad : Option Nat
  mem : List Host.Cell
  pois : List Nat
  tags : List Nat
  sectors : List Nat
  badPages : List Nat
  tiles : FM Tile
  saved : FM Tile
  cols : FM Col
  ctxs : FM Context
  launches : List Launch
  nextLaunch : Nat
  nmus : FM Nmu
  sys : Sys
deriving DecidableEq, Repr

/-- Why a step stops with a fault. -/
inductive Fault where
  /-- A physical address beyond the 512 GiB of device memory (01 R14) was reached through a translation entry or
  a reserve-pool frame that host software supplied; the spec gives no outcome. Raised by reads and writes of
  device memory; safe. -/
  | noSuchMemory (pa : Nat)
deriving DecidableEq, Repr

/-- Why an instruction is refused. -/
inductive Refusal where
  /-- The instruction has no meaning in this model yet. Raised by Dispatch only; safe. -/
  | notModelled (mnemonic : String)
deriving DecidableEq, Repr

/-- A context that runs nothing: dormant, every register zero (04 R96). -/
def CtlCtx.dormant : CtlCtx :=
  { regs := [], pc := 0, run := .dormant, latch := .empty, nextAt := 0, waitFrom := none, tlvl := 0, tcause := [], tepc := [],
    tval := [], tstate := [], rmt := none, waitDone := false, fresh := [], fetched := none }

/-- No ring declared. -/
def Ring.none : Ring := ⟨0, 0, 0, 0, 0, [], []⟩

/-- An operand or crossbar slot ring that nothing has set. -/
def SRing.none : SRing := ⟨0, 0, 0⟩

/-- Tile `k`, row `k % 11` of column `k / 11`, with nothing bound: storage as a scrub leaves it (14 R388),
crossbar arrays as a cold reset leaves them (log entry 5). -/
def Tile.fresh (k : Nat) : Tile :=
  { clk := 0, mclk := 0, site := k % 11, row := 0, bound := false, ctx := 0, sup := false, launch := 0, node := 0, prio := 0,
    boundSeq := 0, task := false, state := .running, scrubTo := 0, ctxs := [], rr := 3, divA := 0, divB := 0, cimLen := 0,
    cimBad := [], cimOld := [], know := [], incoming := [], hctl := 0, hq := [], recvOpen := true, hold0 := none, eflag := [], sem := [], tq := [],
    pushes := [], bar := [], bh := [], bpend := [], rings := [], eng := [], aregs := [], cregs := [], queues := [], l1 := [],
    amoLines := [],
    vregs := [], mregs := [], rotN := 0, rotM := 0, vbase := 0, mbase := 0, vlc := 0, lastPipe := none, streams := [],
    accs := [], opr := [], shadow := [], active := [], rowMask := 0, rowMaskP := false, mcmd := none, mlast := none, window := none,
    replays := 0, arrays := [], xgroups := [], xin := [], xout := [], xvm := 65535, xvmP := false, clip := [],
    xcmds := [], xcal := [], crec := none, ccmds := [], cseq := 0, log := [], logCount := 0, lasting := 0,
    verdicts := [], testing := [], tsa := [], tsatag := 0, dirty := [], zmap := [], endSig := none,
    spPois := [], spTags := [], evict := false, halted := false }

/-- A column with no line cached, nothing allocated, no wire failed. -/
def Col.fresh : Col :=
  { lines := [], deques := [], homes := [], monitors := [], entries := [], held := [], heldState := false, seqNo := 0,
    replayed := 0, images := [], rfFirst := 0, rfCnt := 0, rfCtx := 0, rfBusy := false, rfErr := false,
    rfBad := 0, holders := [], bfCtx := [], bfQueue := [], bfEnq := 0, batch := none, fenced := false, retained := false,
    crep := [], wireFails := [], failedWires := [], badWires := [], retries := [], spareRows := [], spareCols := [], retired := [],
    trained := false, repairAt := 0 }

/-- A context slot that no host request has created. -/
def Context.none : Context :=
  { rec' := [], supok := false, ckey := 0, bsplit := 0, grant := 0, nw := [], cwBlock := 0, ckpt := 0, tdRec := 0, parts := [],
    keyGrant := 0, pool4 := [], pool64 := [], tearing := false, accepted := 0, dropped := 0, sheaves := [], nmu := [] }

/-- The DEFSIG of a part with no defective site (01 R11; log entry 6). -/
def defsigFull : Nat := 0xBBBBBBBBBBBBBBBB

def Sys.fresh : Sys :=
  { sqBase := 0, sqSize := 0, sqTail := 0, sqHead := 0, fqBase := 0, fqSize := 0, fqTail := 0, fqHead := 0, fqWait := [],
    mbox := [], bootStage := 0, bootErr := 0, readyHbm := 0, readyLink := 0, readyHost := false, readyMp := false,
    readyXb := [], watts := 0, throttled := 0, hbmThrottle := 0, govMs := 0, refresh := [], bursts := [],
    stopBinding := false, powered := true, keys := [], portFailed := [], portErrs := [], peerReqs := [], repairLog := [], siteFenced := [], defsig := defsigFull }

/-- The machine right after a cold reset begins (18 R456): nothing bound, no context, boot stage 0. INVENTORY.md
names each value's source. -/
def State.reset : State :=
  { tc := 0, cur := .none, turns := [], inputs := [], flights := [], parked := [], nextId := 0, free := 0, bad := none, mem := [], pois := [],
    tags := [], sectors := [], badPages := [], tiles := [], saved := [], cols := [], ctxs := [], launches := [], nextLaunch := 0,
    nmus := [], sys := .fresh }

end Sys2Proof.Machine
end

