-- ==== Sys2Proof/Machine/Mem.lean ====
section
/-! DEFINITION. Sys2Proof/Machine/Mem.lean: bytes, poison and tags over global addresses. The layout of the one memory:

  device memory     pa, below 2^39 (01 R14)
  scratchpad        2^40 + 2^20 * tile + offset (01 R17), CIM 2^19 above it
  column scratch    2^42 + 2^21 * ((16 * context + column) * 16 + way of the grant) + offset (05 R136)
  host memory       2^60 + pa (05 R129)

Device memory holds what the memory controllers hold: XTS ciphertext of the pages (01 R24). An unlisted address reads zero (log
entry 1). -/

namespace Sys2Proof.Machine

/-- The byte at `a`; an unlisted byte is zero. -/
def memGet : List Host.Cell → Nat → BitVec 8
  | [], _ => 0
  | (k, v) :: m, a => if a = k then v else memGet m a

/-- The memory without a listed byte at `a`. -/
def memDel : List Host.Cell → Nat → List Host.Cell
  | [], _ => []
  | (k, v) :: m, a => if a = k then m else (k, v) :: memDel m a

/-- The memory with the nonzero byte `b` at `a`. -/
def memIns : List Host.Cell → Nat → BitVec 8 → List Host.Cell
  | [], a, b => [(a, b)]
  | (k, v) :: m, a, b =>
    if a < k then (a, b) :: (k, v) :: m else if a = k then (a, b) :: m else (k, v) :: memIns m a b

/-- The memory with byte `b` at `a`, in canonical form. -/
def memSet (m : List Host.Cell) (a : Nat) (b : BitVec 8) : List Host.Cell :=
  if b = 0 then memDel m a else memIns m a b

/-- The canonical form: addresses strictly rising, no zero byte listed. -/
def Memory.wf : List Host.Cell → Bool
  | [] => true
  | (_, v) :: [] => v != 0
  | (k, v) :: (k', v') :: m => v != 0 && decide (k < k') && Memory.wf ((k', v') :: m)

/-- The `n` bytes from `a`. -/
def memBytes (m : List Host.Cell) (a n : Nat) : List Nat := (List.range n).map fun i => (memGet m (a + i)).toNat

/-- The memory with the bytes `bs` from `a` on. -/
def memPut : List Host.Cell → Nat → List Nat → List Host.Cell
  | m, _, [] => m
  | m, a, b :: bs => memPut (memSet m a (BitVec.ofNat 8 b)) (a + 1) bs

/-- Little-endian value of bytes, and the `n` little-endian bytes of a value. -/
def leNat : List Nat → Nat
  | [] => 0
  | b :: bs => b % 256 + 256 * leNat bs

def natLe : Nat → Nat → List Nat
  | 0, _ => []
  | n + 1, v => v % 256 :: natLe n (v / 256)

/-- Big-endian, for keys and digests. -/
def beNat (bs : List Nat) : Nat := leNat bs.reverse
def natBe (n v : Nat) : List Nat := (natLe n v).reverse

/-- Rising sets of numbers. -/
def setHas : List Nat → Nat → Bool
  | [], _ => false
  | k :: m, n => n == k || setHas m n

def setAdd : List Nat → Nat → List Nat
  | [], n => [n]
  | k :: m, n => if n < k then n :: k :: m else if n = k then k :: m else k :: setAdd m n

def setDel (m : List Nat) (n : Nat) : List Nat := m.filter fun k => k != n

def setPut (m : List Nat) (n : Nat) (b : Bool) : List Nat := if b then setAdd m n else setDel m n

/-- Global addresses. -/
def hbmSize : Nat := 2 ^ 39
def spBase (t : Nat) : Nat := 2 ^ 40 + t * 2 ^ 20
def cimBase (t : Nat) : Nat := 2 ^ 40 + t * 2 ^ 20 + 2 ^ 19
def csBase (ctx col way : Nat) : Nat := 2 ^ 42 + ((ctx * 16 + col) * 16 + way) * 2 ^ 21
def hostBase : Nat := 2 ^ 60

def State.bytes (s : State) (a n : Nat) : List Nat := memBytes s.mem a n
def State.nat (s : State) (a n : Nat) : Nat := leNat (s.bytes a n)
def State.poisAt (s : State) (a : Nat) : Bool := setHas s.pois (a / 64)
def State.tagAt (s : State) (a : Nat) : Bool := setHas s.tags (a / 16)

/-- The scratchpad page of a global address, as tile and dirty-bit number 1024 upward (14 R386). -/
def dirtyPage (a : Nat) : Option (Nat × Nat) :=
  if 2 ^ 40 ≤ a ∧ a < 2 ^ 40 + 176 * 2 ^ 20 ∧ (a - 2 ^ 40) % 2 ^ 20 < 2 ^ 19 then
    some ((a - 2 ^ 40) / 2 ^ 20, 1024 + (a - 2 ^ 40) % 2 ^ 20 / 4096)
  else none

/-- Sets the dirty bit of the scratchpad page at `a`. -/
def State.markDirty (s : State) (a : Nat) : State :=
  match dirtyPage a with
  | none => s
  | some (t, k) =>
    let T := FM.get (Tile.fresh t) s.tiles t
    { s with tiles := FM.set s.tiles t { T with dirty := setAdd T.dirty k } }

/-- A write that lies inside one 64-byte granule (11 R324; 05 R130): a whole granule takes the poison of the
data, a part ORs it in; the tags of the locations touched are cleared. -/
def State.putGranule (s : State) (a : Nat) (bs : List Nat) (p : Bool) : State :=
  let g := a / 64
  { s.markDirty a with
    mem := memPut s.mem a bs
    pois := setPut s.pois g (p || (setHas s.pois g && bs.length != 64))
    tags := s.tags.filter fun k => !(decide (a / 16 ≤ k) && decide (k < (a + bs.length + 15) / 16)) }

/-- Bytes from `a` cut at granule borders. -/
def granules : Nat → Nat → List Nat → List (Nat × List Nat)
  | 0, _, _ => []
  | _, _, [] => []
  | fuel + 1, a, bs =>
    let n := 64 - a % 64
    (a, bs.take n) :: granules fuel (a + n) (bs.drop n)

/-- A write of any length with one poison for all its data. -/
def State.put (s : State) (a : Nat) (bs : List Nat) (p : Bool) : State :=
  (granules (bs.length + 1) a bs).foldl (fun s (g : Nat × List Nat) => s.putGranule g.1 g.2 p) s

/-- The bytes of whole granules from `a` with each granule's poison. -/
def State.getGranules (s : State) (a n : Nat) : List (List Nat × Bool) :=
  (List.range n).map fun i => (s.bytes (a + 64 * i) 64, s.poisAt (a + 64 * i))

/-- The `bits` value of little-endian bytes, and back. -/
def bvOfBytes (w : Nat) (bs : List Nat) : BitVec w := BitVec.ofNat w (leNat bs)
def bytesOfBv {w : Nat} (n : Nat) (v : BitVec w) : List Nat := natLe n v.toNat

/-- A free value: the constant at the counter, and the counter advanced (log entry 2). -/
def takeFree (s : State) : Nat × State := (Config.freeNat s.free, { s with free := s.free + 1 })

/-- A free value from `lo` to `hi`. -/
def takeIn (lo hi : Nat) (s : State) : Nat × State := ((takeFree s).1 % (hi + 1 - lo) + lo, (takeFree s).2)

end Sys2Proof.Machine
end

