-- ==== Sys2Proof/Machine/Base.lean ====
section
/-! DEFINITION. Sys2Proof/Machine/Base.lean: reading and changing the parts of State: tiles, control-core contexts, engines,
columns, contexts of the device, flights and the host's fault queue. -/

namespace Sys2Proof.Machine

/-- The outcome of a step. -/
abbrev Out := Host.Outcome State Fault Refusal

/-- The end of a meaning that may have reached memory: a fault where an access went beyond device memory. -/
def finish (s : State) : Out :=
  match s.bad with
  | some pa => .fault (.noSuchMemory pa)
  | none => .next s

/-- Row and column of tile `t`, and the tile of a row and column. -/
def tileRow (t : Nat) : Nat := t % 11
def tileCol (t : Nat) : Nat := t / 11
def tileAt (row col : Nat) : Nat := 11 * col + row

/-- The origin (col, row, e) of 11 R301, and that of unit `u` of a column. -/
def originOf (t e : Nat) : Nat := e + 16 * tileRow t + 256 * tileCol t
def originCol (c u : Nat) : Nat := u + 256 * c + 4096
def originMem (ch : Nat) : Nat := 16 * ch + 8192
def originPeer (p : Nat) : Nat := p + 16384

def State.tile (s : State) (t : Nat) : Tile := FM.get (Tile.fresh t) s.tiles t
def State.setTile (s : State) (t : Nat) (v : Tile) : State := { s with tiles := FM.set s.tiles t v }
def State.updTile (s : State) (t : Nat) (f : Tile → Tile) : State := s.setTile t (f (s.tile t))

def State.col (s : State) (c : Nat) : Col := FM.get Col.fresh s.cols c
def State.setCol (s : State) (c : Nat) (v : Col) : State := { s with cols := FM.set s.cols c v }
def State.updCol (s : State) (c : Nat) (f : Col → Col) : State := s.setCol c (f (s.col c))

def State.context (s : State) (x : Nat) : Context := FM.get Context.none s.ctxs x
def State.setContext (s : State) (x : Nat) (v : Context) : State := { s with ctxs := FM.set s.ctxs x v }
def State.updContext (s : State) (x : Nat) (f : Context → Context) : State := s.setContext x (f (s.context x))

def Tile.cc (T : Tile) (c : Nat) : CtlCtx := FM.get CtlCtx.dormant T.ctxs c
def Tile.setCc (T : Tile) (c : Nat) (v : CtlCtx) : Tile := { T with ctxs := FM.set T.ctxs c v }
def State.cc (s : State) (t c : Nat) : CtlCtx := (s.tile t).cc c
def State.updCc (s : State) (t c : Nat) (f : CtlCtx → CtlCtx) : State :=
  s.updTile t fun T => T.setCc c (f (T.cc c))

def Tile.engine (T : Tile) (e : Nat) : Eng := FM.get Eng.idle T.eng e
def Tile.setEngine (T : Tile) (e : Nat) (v : Eng) : Tile := { T with eng := FM.set T.eng e v }
def State.updEng (s : State) (t e : Nat) (f : Eng → Eng) : State :=
  s.updTile t fun T => T.setEngine e (f (T.engine e))
def Tile.ring (T : Tile) (e : Nat) : Ring := FM.get Ring.none T.rings e

/-- The tile and context, or tile and engine, whose word the present step runs. -/
def State.curTile (s : State) : Nat :=
  match s.cur with
  | .ctl t _ => t
  | .ring t _ => t
  | _ => 0
def State.curCtx (s : State) : Nat :=
  match s.cur with
  | .ctl _ c => c
  | _ => 0
def State.curEng (s : State) : Nat :=
  match s.cur with
  | .ring _ e => e
  | _ => 0

/-- A column that has no tiles or is fenced (01 R12; 17 R442). -/
def State.colDisabled (s : State) (c : Nat) : Bool :=
  s.sys.defsig / 16 ^ c % 16 == 15 || (s.col c).fenced

/-- The physical site of a logical row under the present DEFSIG (01 R10). -/
def State.siteOf (s : State) (t : Nat) : Nat :=
  let d := s.sys.defsig / 16 ^ (tileCol t) % 16
  if tileRow t < d then tileRow t else tileRow t + 1

/-- Something set in flight, due at `due` of its clock. -/
def State.fly (s : State) (clk : Clk) (due : Nat) (fl : Fl) : State :=
  { s with flights := s.flights ++ [⟨s.nextId, clk, due, fl⟩], nextId := s.nextId + 1 }

/-- In flight on the clock of tile `t`, `l` tc from now. -/
def State.flyTile (s : State) (t l : Nat) (fl : Fl) : State := s.fly (.tile t) ((s.tile t).clk + l) fl

/-- In flight on the device's clock, `l` tc from now. -/
def State.flyDev (s : State) (l : Nat) (fl : Fl) : State := s.fly .dev (s.tc + l) fl

/-- The flight numbered `id`, and the flights without it. -/
def State.flight? (s : State) (id : Nat) : Option Flight := s.flights.find? fun f => f.id == id
def State.land (s : State) (id : Nat) : State := { s with flights := s.flights.filter fun f => f.id != id }

/-- Work put at the head of the present tc's agenda. -/
def State.soon (s : State) (ts : List Turn) : State := { s with turns := ts ++ s.turns }

/-- The handler contexts in the order of port B: from the one after that which issued last (04 R94). `rr` holds
that context in its two low bits, and above them one more than the tile clock of its issue. -/
def portOrder (rr : Nat) : List Nat := [(rr + 1) % 4, (rr + 2) % 4, (rr + 3) % 4, rr % 4].filter fun c => c != 0

/-- The issue chances of tile `t` in the order of 11 R306. -/
def State.tileRound (s : State) (t : Nat) : List Turn :=
  .portA t :: ((portOrder (s.tile t).rr).map fun c => .portB t c) ++
    [.engine t 1, .engine t 2, .engine t 3, .engine t 4, .engine t 5]

def isIssueOf (t : Nat) : Turn → Bool
  | .portA u => u == t
  | .portB u _ => u == t
  | .engine u _ => u == t
  | _ => false

/-- A signal performed in this tc lets the waits of its tile be tested in this tc (11 R306): its issue chances
start again. Words that issued in this tc do not issue again (`nextAt`). -/
def State.retest (s : State) (t : Nat) : State :=
  { s with turns := s.turns.filter (fun u => !isIssueOf t u) ++ s.tileRound t }

/-- A record's 32 bytes (15 R402; 18 R452). -/
def FRec.toBytes (r : FRec) : List Nat :=
  [r.ty, r.ctx, r.col, r.access] ++ natLe 2 r.origin ++ natLe 2 r.entry ++ natLe 8 r.va ++ natLe 8 r.seq ++ [r.port] ++
    List.replicate 7 0

/-- The fault queue has space for a record. -/
def Sys.fqSpace (y : Sys) : Bool := decide (0 < y.fqSize) && decide ((y.fqTail + 2 * y.fqSize - y.fqHead % (2 * y.fqSize)) % (2 * y.fqSize) < y.fqSize)

/-- The first held access without a sequence number takes `n`. -/
def numberHeld (n : Nat) : List Held → List Held
  | [] => []
  | h :: hs => if h.seq.isNone then { h with seq := some n } :: hs else h :: numberHeld n hs

/-- Writes a record at the tail, with the next sequence number of its column (log entry 12). -/
def State.writeRecord (s : State) (r : FRec) : State :=
  let n := (s.col r.col).seqNo + 1
  let r := { r with seq := n }
  let a := hostBase + s.sys.fqBase + 32 * (s.sys.fqTail % s.sys.fqSize)
  let s := s.put a r.toBytes false
  let s := { s with sys := { s.sys with fqTail := (s.sys.fqTail + 1) % (2 * s.sys.fqSize) } }
  s.updCol r.col fun C => { C with seqNo := n, held := if r.ty == 1 then numberHeld n C.held else C.held }

/-- A record for the host: written at once when the queue has space and none waits, else kept (15 R402). -/
def State.hostRecord (s : State) (r : FRec) : State :=
  if s.sys.fqSpace && s.sys.fqWait.isEmpty then s.writeRecord r
  else { s with sys := { s.sys with fqWait := s.sys.fqWait ++ [(r, false)] } }

def FRec.of (ty ctx col access origin entry va port : Nat) : FRec := ⟨ty, ctx, col, access, origin, entry, va, 0, port⟩

/-- Whether a tile advances: its task's bind message has landed, it is running and not under its column's stall
wire (14 R380, R381, R393). -/
def State.tileRuns (s : State) (t : Nat) : Bool :=
  let T := s.tile t
  T.bound && T.task && T.state == .running && (s.col (tileCol t)).holders.isEmpty

/-- Whether array work and copy commands in progress go on: the stall wire does not stop them (08 R235; 14 R393;
20 R466). -/
def State.tileWorks (s : State) (t : Nat) : Bool :=
  let T := s.tile t
  T.bound && T.task && T.state == .running

/-- Where a stall wire that was up in `old` has fallen, what was due to issue in the tc in which it rose issues
in this one (14 R393). -/
def State.resumeFrom (s old : State) : State :=
  ((s.tiles.map fun (p : Nat × Tile) => p.1).filter fun t => !(old.col (tileCol t)).holders.isEmpty && s.tileRuns t).foldl
    (fun s t => s.retest t) s

end Sys2Proof.Machine
end

