-- ==== Sys2Proof/Machine/Crypto.lean ====
section
/-! DEFINITION. Sys2Proof/Machine/Crypto.lean: the published algorithms that the spec names: AES-256 and its XTS mode (01 R24,
IEEE 1619), AES key wrap (18 R457, RFC 3394), SHA-384 and HMAC (09 R270, 18 R457), CRC-32C (10 CHKSUM, RFC 3720), ECDH and ECDSA
on brainpoolP384r1 (18 R457, R458, RFC 5639). Bytes are numbers below 256 in lists. -/

namespace Sys2Proof.Machine

/-- The AES substitution box and its inverse, byte x at bits 8x upward. -/
def aesSbox : Nat := 0x16BB54B00F2D99416842E6BF0D89A18CDF2855CEE9871E9B948ED9691198F8E19E1DC186B95735610EF6034866B53E708A8BBD4B1F74DDE8C6B4A61C2E2578BA08AE7A65EAF4566CA94ED58D6D37C8E779E4959162ACD3C25C2406490A3A32E0DB0B5EDE14B8EE4688902A22DC4F816073195D643D7EA7C41744975FEC130CCDD2F3FF1021DAB6BCF5389D928F40A351A89F3C507F02F94585334D43FBAAEFD0CF584C4A39BECB6A5BB1FC20ED00D153842FE329B3D63B52A05A6E1B1A2C830975B227EBE28012079A059618C323C7041531D871F1E5A534CCF73F362693FDB7C072A49CAFA2D4ADF04759FA7DC982CA76ABD7FE2B670130C56F6BF27B777C63
def aesInvSbox : Nat := 0x7D0C2155631469E126D677BA7E042B17619953833CBBEBC8B0F52AAE4D3BE0A0EF9CC9939F7AE52D0D4AB519A97F51605FEC8027591012B131C7078833A8DD1FF45ACD78FEC0DB9A2079D2C64B3E56FC1BBE18AA0E62B76F89C5291D711AF1476EDF751CE837F9E28535ADE72274AC9673E6B4F0CECFF297EADC674F4111913A6B8A130103BDAFC1020F3FCA8F1E2CD00645B3B80558E4F70AD3BC8C00ABD890849D8DA75746155EDAB9EDFD5048706C92B6655DCC5CA4D41698688664F6F87225D18B6D49A25B76B224D92866A12E084EC3FA420B954CEE3D23C2A632947B54CBE9DEC444438E3487FF2F9B8239E37CFBD7F3819EA340BF38A53630D56A0952

def aesSub (x : Nat) : Nat := aesSbox / 256 ^ x % 256
def aesInvSub (x : Nat) : Nat := aesInvSbox / 256 ^ x % 256

/-- Multiplication by x in the field of AES, and the product of a byte with a small constant. -/
def aesX (a : Nat) : Nat := if a < 128 then 2 * a else (2 * a - 256) ^^^ 0x1B
def aesMul (a c : Nat) : Nat :=
  (if c % 2 = 1 then a else 0) ^^^ (if c / 2 % 2 = 1 then aesX a else 0) ^^^
  (if c / 4 % 2 = 1 then aesX (aesX a) else 0) ^^^ (if c / 8 % 2 = 1 then aesX (aesX (aesX a)) else 0)

def xorBytes (a b : List Nat) : List Nat := List.zipWith (· ^^^ ·) a b

/-- The AES-256 key schedule: the next word from the one before and the one eight back, newest first. -/
def aesExpand : Nat → Nat → Nat → List (List Nat) → List (List Nat)
  | 0, _, _, ws => ws
  | n + 1, i, rc, ws =>
    let t := ws.headD []
    let t' := if i % 8 = 0 then xorBytes ((t.drop 1 ++ t.take 1).map aesSub) [rc, 0, 0, 0]
      else if i % 8 = 4 then t.map aesSub else t
    aesExpand n (i + 1) (if i % 8 = 0 then aesX rc else rc) (xorBytes (ws.getD 7 []) t' :: ws)

def chunk (k : Nat) : Nat → List Nat → List (List Nat)
  | 0, _ => []
  | n + 1, l => l.take k :: chunk k n (l.drop k)

/-- The fifteen round keys of a 32-byte key. -/
def aesKeys (key : List Nat) : List (List Nat) :=
  let ws := (aesExpand 52 8 1 (chunk 4 8 key).reverse).reverse
  chunk 16 15 ws.flatten

def permute (idx : List Nat) (b : List Nat) : List Nat := idx.map fun i => b.getD i 0

def aesShift : List Nat := [0, 5, 10, 15, 4, 9, 14, 3, 8, 13, 2, 7, 12, 1, 6, 11]
def aesInvShift : List Nat := [0, 13, 10, 7, 4, 1, 14, 11, 8, 5, 2, 15, 12, 9, 6, 3]

/-- A column times the circulant matrix of the coefficients `cs`. -/
def aesMixCol (cs : List Nat) (c : List Nat) : List Nat :=
  (List.range 4).map fun i => (List.range 4).foldl (fun a j => a ^^^ aesMul (c.getD j 0) (cs.getD ((j + 4 - i) % 4) 0)) 0

def aesMix (cs b : List Nat) : List Nat := ((chunk 4 4 b).map (aesMixCol cs)).flatten

/-- AES-256 of one block, and its inverse. -/
def aesEncrypt (key blk : List Nat) : List Nat :=
  let ks := aesKeys key
  let st := (List.range 13).foldl (fun st r =>
    xorBytes (aesMix [2, 3, 1, 1] (permute aesShift (st.map aesSub))) (ks.getD (r + 1) [])) (xorBytes blk (ks.getD 0 []))
  xorBytes (permute aesShift (st.map aesSub)) (ks.getD 14 [])

def aesDecrypt (key blk : List Nat) : List Nat :=
  let ks := aesKeys key
  let st := (List.range 13).foldl (fun st r =>
    aesMix [14, 11, 13, 9] (xorBytes ((permute aesInvShift st).map aesInvSub) (ks.getD (13 - r) [])))
    (xorBytes blk (ks.getD 14 []))
  xorBytes ((permute aesInvShift st).map aesInvSub) (ks.getD 0 [])

/-- Multiplication of a 128-bit tweak by alpha, as a little-endian number (IEEE 1619). -/
def xtsAlpha (t : Nat) : Nat := if t < 2 ^ 127 then 2 * t else (2 * t - 2 ^ 128) ^^^ 0x87

def xtsAlphas : Nat → Nat → Nat
  | 0, t => t
  | n + 1, t => xtsAlphas n (xtsAlpha t)

/-- XTS over whole 16-byte blocks from context-virtual address `va`, a multiple of 16; the data unit is 4 KiB
and its number the tweak (01 R24). `enc` says which way; `key` is key 1 followed by key 2, 64 bytes. -/
def xtsBlocks (enc : Bool) (key : List Nat) (va : Nat) (bs : List Nat) : List Nat :=
  ((List.range (bs.length / 16)).map fun i =>
    let a := va + 16 * i
    let t := natLe 16 (xtsAlphas (a % 4096 / 16) (leNat (aesEncrypt (key.drop 32) (natLe 16 (a / 4096)))))
    let b := (bs.drop (16 * i)).take 16
    xorBytes ((if enc then aesEncrypt else aesDecrypt) (key.take 32) (xorBytes b t)) t).flatten

/-- One step of the unwrapping of RFC 3394, and the whole of it over `n` registers of 8 bytes. -/
def kwStep (kek : List Nat) (t i : Nat) (ar : List Nat × List (List Nat)) : List Nat × List (List Nat) :=
  let b := aesDecrypt kek (xorBytes ar.1 (natBe 8 t) ++ ar.2.getD i [])
  (b.take 8, ar.2.set i (b.drop 8))

/-- The key that `wrapped` holds under `kek`, if its integrity value is right. -/
def kwUnwrap (kek wrapped : List Nat) : Option (List Nat) :=
  let n := wrapped.length / 8 - 1
  let rs := chunk 8 n (wrapped.drop 8)
  let out := (List.range (6 * n)).foldl (fun ar k =>
    let t := 6 * n - k
    kwStep kek t ((t - 1) % n) ar) (wrapped.take 8, rs)
  if out.1 = List.replicate 8 0xA6 then some out.2.flatten else none

/-- SHA-384. -/
def sha512K : List Nat :=
  [0x428A2F98D728AE22, 0x7137449123EF65CD, 0xB5C0FBCFEC4D3B2F, 0xE9B5DBA58189DBBC, 0x3956C25BF348B538, 0x59F111F1B605D019, 0x923F82A4AF194F9B, 0xAB1C5ED5DA6D8118, 0xD807AA98A3030242, 0x12835B0145706FBE, 0x243185BE4EE4B28C, 0x550C7DC3D5FFB4E2, 0x72BE5D74F27B896F, 0x80DEB1FE3B1696B1, 0x9BDC06A725C71235, 0xC19BF174CF692694, 0xE49B69C19EF14AD2, 0xEFBE4786384F25E3, 0xFC19DC68B8CD5B5, 0x240CA1CC77AC9C65] ++
  [0x2DE92C6F592B0275, 0x4A7484AA6EA6E483, 0x5CB0A9DCBD41FBD4, 0x76F988DA831153B5, 0x983E5152EE66DFAB, 0xA831C66D2DB43210, 0xB00327C898FB213F, 0xBF597FC7BEEF0EE4, 0xC6E00BF33DA88FC2, 0xD5A79147930AA725, 0x6CA6351E003826F, 0x142929670A0E6E70, 0x27B70A8546D22FFC, 0x2E1B21385C26C926, 0x4D2C6DFC5AC42AED, 0x53380D139D95B3DF, 0x650A73548BAF63DE, 0x766A0ABB3C77B2A8, 0x81C2C92E47EDAEE6, 0x92722C851482353B] ++
  [0xA2BFE8A14CF10364, 0xA81A664BBC423001, 0xC24B8B70D0F89791, 0xC76C51A30654BE30, 0xD192E819D6EF5218, 0xD69906245565A910, 0xF40E35855771202A, 0x106AA07032BBD1B8, 0x19A4C116B8D2D0C8, 0x1E376C085141AB53, 0x2748774CDF8EEB99, 0x34B0BCB5E19B48A8, 0x391C0CB3C5C95A63, 0x4ED8AA4AE3418ACB, 0x5B9CCA4F7763E373, 0x682E6FF3D6B2B8A3, 0x748F82EE5DEFB2FC, 0x78A5636F43172F60, 0x84C87814A1F0AB72, 0x8CC702081A6439EC] ++
  [0x90BEFFFA23631E28, 0xA4506CEBDE82BDE9, 0xBEF9A3F7B2C67915, 0xC67178F2E372532B, 0xCA273ECEEA26619C, 0xD186B8C721C0C207, 0xEADA7DD6CDE0EB1E, 0xF57D4F7FEE6ED178, 0x6F067AA72176FBA, 0xA637DC5A2C898A6, 0x113F9804BEF90DAE, 0x1B710B35131C471B, 0x28DB77F523047D84, 0x32CAAB7B40C72493, 0x3C9EBE0A15C9BEBC, 0x431D67C49C100D4C, 0x4CC5D4BECB3E42B6, 0x597F299CFC657E2A, 0x5FCB6FAB3AD6FAEC, 0x6C44198C4A475817]
def sha384H : List Nat := [0xCBBB9D5DC1059ED8, 0x629A292A367CD507, 0x9159015A3070DD17, 0x152FECD8F70E5939, 0x67332667FFC00B31, 0x8EB44A8768581511, 0xDB0C2E0D64F98FA7, 0x47B5481DBEFA4FA4]

def rotr64 (x n : Nat) : Nat := x / 2 ^ n ||| x * 2 ^ (64 - n) % 2 ^ 64

/-- The message schedule, newest word first. -/
def shaSched : Nat → List Nat → List Nat
  | 0, ws => ws
  | n + 1, ws =>
    let a := ws.getD 14 0
    let b := ws.getD 1 0
    let s0 := rotr64 a 1 ^^^ rotr64 a 8 ^^^ a / 128
    let s1 := rotr64 b 19 ^^^ rotr64 b 61 ^^^ b / 64
    shaSched n ((ws.getD 15 0 + s0 + ws.getD 6 0 + s1) % 2 ^ 64 :: ws)

def shaRound (st : List Nat) (kw : Nat × Nat) : List Nat :=
  match st with
  | [a, b, c, d, e, f, g, h] =>
    let s1 := rotr64 e 14 ^^^ rotr64 e 18 ^^^ rotr64 e 41
    let ch := (e &&& f) ^^^ ((2 ^ 64 - 1 - e) &&& g)
    let t1 := h + s1 + ch + kw.1 + kw.2
    let s0 := rotr64 a 28 ^^^ rotr64 a 34 ^^^ rotr64 a 39
    let mj := (a &&& b) ^^^ (a &&& c) ^^^ (b &&& c)
    [(t1 + s0 + mj) % 2 ^ 64, a, b, c, (d + t1) % 2 ^ 64, e, f, g]
  | st => st

def shaBlock (h : List Nat) (blk : List Nat) : List Nat :=
  let ws := (shaSched 64 ((chunk 8 16 blk).map beNat).reverse).reverse
  let st := (List.zip sha512K ws).foldl shaRound h
  List.zipWith (fun x y => (x + y) % 2 ^ 64) h st

def sha384 (msg : List Nat) : List Nat :=
  let z := (239 - msg.length % 128) % 128
  let m := msg ++ 0x80 :: List.replicate z 0 ++ natBe 16 (8 * msg.length)
  (((chunk 128 (m.length / 128) m).foldl shaBlock sha384H).take 6).flatMap (natBe 8)

def hmacSha384 (key msg : List Nat) : List Nat :=
  let k := key ++ List.replicate (128 - key.length) 0
  sha384 (k.map (· ^^^ 0x5C) ++ sha384 (k.map (· ^^^ 0x36) ++ msg))

/-- CRC-32C, reflected, from the complemented initial value; `crc` is the value so far. -/
def crcBit (c : Nat) : Nat := if c % 2 = 1 then c / 2 ^^^ 0x82F63B78 else c / 2
def crcByte (c b : Nat) : Nat :=
  crcBit (crcBit (crcBit (crcBit (crcBit (crcBit (crcBit (crcBit (c ^^^ b))))))))
def crc32c (crc : Nat) (bs : List Nat) : Nat := (bs.foldl crcByte (crc ^^^ 0xFFFFFFFF)) ^^^ 0xFFFFFFFF

/-- brainpoolP384r1. -/
def bpP : Nat := 0x8CB91E82A3386D280F5D6F7E50E641DF152F7109ED5456B412B1DA197FB71123ACD3A729901D1A71874700133107EC53
def bpA : Nat := 0x7BC382C63D8C150C3C72080ACE05AFA0C2BEA28E4FB22787139165EFBA91F90F8AA5814A503AD4EB04A8C7DD22CE2826
def bpB : Nat := 0x4A8C7DD22CE28268B39B55416F0447C2FB77DE107DCD2A62E880EA53EEB62D57CB4390295DBC9943AB78696FA504C11
def bpGx : Nat := 0x1D1C64F068CF45FFA2A63A81B7C13F6B8847A3E77EF14FE3DB7FCAFE0CBD10E8E826E03436D646AAEF87B2E247D4AF1E
def bpGy : Nat := 0x8ABE1D7520F9C2A45CB1EB8E95CFD55262B70B29FEEC5864E19C054FF99129280E4646217791811142820341263C5315
def bpQ : Nat := 0x8CB91E82A3386D280F5D6F7E50E641DF152F7109ED5456B31F166E6CAC0425A7CF3AB6AF6B7FC3103B883202E9046565

/-- Power by squaring over the low `n` bits of the exponent. -/
def powMod (m : Nat) : Nat → Nat → Nat → Nat → Nat
  | 0, _, _, acc => acc
  | n + 1, b, e, acc => powMod m n (b * b % m) (e / 2) (if e % 2 = 1 then acc * b % m else acc)

def invMod (m a : Nat) : Nat := powMod m 384 (a % m) (m - 2) 1

/-- Addition of affine points; none is the point at infinity. -/
def ecAdd (x y : Option (Nat × Nat)) : Option (Nat × Nat) :=
  match x, y with
  | none, q => q
  | p, none => p
  | some (x1, y1), some (x2, y2) =>
    if x1 = x2 ∧ (y1 + y2) % bpP = 0 then none
    else
      let l := if x1 = x2 then (3 * x1 * x1 + bpA) * invMod bpP (2 * y1) % bpP
        else (y2 + bpP - y1) * invMod bpP (x2 + bpP - x1) % bpP
      let x3 := (l * l + 2 * bpP - x1 - x2) % bpP
      some (x3, (l * (x1 + bpP - x3) + bpP - y1) % bpP)

def ecMulAux : Nat → Nat → Option (Nat × Nat) → Option (Nat × Nat) → Option (Nat × Nat)
  | 0, _, _, acc => acc
  | n + 1, k, p, acc => ecMulAux n (k / 2) (ecAdd p p) (if k % 2 = 1 then ecAdd acc p else acc)

def ecMul (k : Nat) (p : Nat × Nat) : Option (Nat × Nat) := ecMulAux 384 k (some p) none

def ecOnCurve (p : Nat × Nat) : Bool :=
  decide (p.1 < bpP) && decide (p.2 < bpP) && p.2 * p.2 % bpP == (p.1 * p.1 * p.1 + bpA * p.1 + bpB) % bpP

/-- The x-coordinate that ECDH shares, if the peer's point lies on the curve. -/
def ecdhX (d : Nat) (p : Nat × Nat) : Option Nat :=
  if ecOnCurve p then (ecMul d p).map (·.1) else none

/-- The ECDSA signature of a message under the nonce `k`: r then s. -/
def ecdsaSign (d k : Nat) (msg : List Nat) : List Nat :=
  let r := ((ecMul k (bpGx, bpGy)).map (·.1)).getD 0 % bpQ
  let s := invMod bpQ k * (beNat (sha384 msg) + r * d) % bpQ
  natBe 48 r ++ natBe 48 s

end Sys2Proof.Machine
end

