-- ==== Sys2Proof/Machine/Xlate.lean ====
section
/-! DEFINITION. Sys2Proof/Machine/Xlate.lean: translation (15 R397 to R401), device memory as the memory controllers hold it
(01 R24; 11 R323 to R325), and the bank stores (05 R136; 12 R341 to R343). -/

namespace Sys2Proof.Machine

/-- Field `w` bits from `lo` of a translation entry (15 R398). -/
def ent (e : Cap) (lo w : Nat) : Nat := e.toNat / 2 ^ lo % 2 ^ w
def entSet (e : Cap) (lo w v : Nat) : Cap :=
  BitVec.ofNat 128 (e.toNat - ent e lo w * 2 ^ lo + v % 2 ^ w * 2 ^ lo)

def entValid (e : Cap) : Bool := ent e 8 1 == 1
def entCtx (e : Cap) : Nat := ent e 4 4
def entState (e : Cap) : Nat := ent e 9 2
def entKind (e : Cap) : Nat := ent e 11 2
def entPerms (e : Cap) : Nat := ent e 13 3
def entHome (e : Cap) : Nat := ent e 16 4
def entKey (e : Cap) : Nat := ent e 20 8
def entPsum (e : Cap) : Nat := ent e 28 2
def entPort (e : Cap) : Nat := ent e 116 3

/-- log2 of the page size of a size code (15 R399). -/
def sizeShift (n : Nat) : Nat := [12, 16, 21, 25, 30].getD n 12
def entShift (e : Cap) : Nat := sizeShift (ent e 0 4)
def entVa (e : Cap) : Nat := ent e 32 44 * 4096
def entPa (e : Cap) : Nat := ent e 76 40 * 4096

/-- Entry `e` matches address `va` of context `ctx` (15 R399). -/
def entMatches (e : Cap) (ctx va : Nat) : Bool :=
  entValid e && entCtx e == ctx && va / 2 ^ entShift e == entVa e / 2 ^ entShift e

def entPhys (e : Cap) (va : Nat) : Nat := entPa e / 2 ^ entShift e * 2 ^ entShift e + va % 2 ^ entShift e

/-- The index and entry that match, in column `col`. -/
def State.lookup (s : State) (ctx col va : Nat) : Option (Nat × Cap) :=
  List.find? (fun (p : Nat × Cap) => entMatches p.2 ctx va) (s.col col).entries

/-- The outcome of translating one address. -/
inductive Xl where
  | ok (p : Phys)
  | fault (cause va : Nat)
  | held (idx va : Nat)
deriving DecidableEq, Repr

/-- The checks of 15 R400 for the byte at `va`, with `need` the permission bits required (1 R, 2 W, 4 X). -/
def State.translate (s : State) (ctx col va space need : Nat) : Xl :=
  match s.lookup ctx col va with
  | none => .fault 0x28 va
  | some (i, e) =>
    if entKind e + 2 ≠ space then .fault 0x29 va
    else if entPerms e &&& need ≠ need then .fault 0x2A va
    else if (FM.find? s.sys.keys (entKey e)).isNone then .fault 0x2D va
    else if entState e = 1 then .held i va
    else if entState e ≠ 0 then .fault 0x2B va
    else
      let pa := entPhys e va
      .ok ⟨i, pa, entKind e, entHome e, entKey e, entPort e,
        entPsum e == 2 || (entPsum e == 1 && setHas s.badPages (pa / 4096))⟩

/-- The first address of each 4 KiB page that the range touches. -/
def pagesOf (va len : Nat) : List Nat :=
  (List.range ((va % 4096 + len + 4095) / 4096)).map fun i => if i = 0 then va else va / 4096 * 4096 + 4096 * i

/-- The first address of a range that does not translate, in ascending order (15 R400). -/
def State.translateRange (s : State) (ctx col va len space need : Nat) : Option Xl :=
  (pagesOf va len).findSome? fun a =>
    match s.translate ctx col a space need with
    | .ok _ => none
    | x => some x

/-- The translations that an access takes with it when it has been translated (15 R405, R407), one for each 4
KiB page of its pieces, and the one for an address: that taken, or the table's where none was. -/
def State.capture (s : State) (ctx col space : Nat) (vas : List Nat) : List (Nat × Phys) :=
  if space < 2 ∨ 4 < space then []
  else vas.foldl (fun xs a =>
    if (FM.find? xs (a / 4096)).isSome then xs
    else match s.translate ctx col a space 0 with
      | .ok p => FM.set xs (a / 4096) p
      | _ => xs) []
def physIn (xs : List (Nat × Phys)) (a : Nat) : Option Phys :=
  (FM.find? xs (a / 4096)).map fun p => { p with pa := p.pa / 4096 * 4096 + a % 4096 }
def State.physFor (s : State) (ctx col space a : Nat) (xs : List (Nat × Phys)) : Option Phys :=
  match physIn xs a with
  | some p => some p
  | none =>
    match s.translate ctx col a space 0 with
    | .ok p => some p
    | _ => none

/-- A translation as numbers, for what travels to another unit. -/
def Phys.nums (p : Phys) : List Nat := [p.idx, p.pa, p.kind, p.home, p.mkey, p.port, if p.quar then 1 else 0]
def physOfNums (l : List Nat) : Phys :=
  ⟨l.getD 0 0, l.getD 1 0, l.getD 2 0, l.getD 3 0, l.getD 4 0, l.getD 5 0, l.getD 6 0 == 1⟩

/-- The XTS key of a slot, as 64 bytes. -/
def State.keyBytes (s : State) (mkey : Nat) : List Nat := natLe 64 ((FM.get 0 s.sys.keys mkey).toNat)

def stackOf (pa : Nat) : Nat := pa / 2 ^ 17 % 8

/-- Marks an access beyond device memory. -/
def State.beyond (s : State) (pa : Nat) : State :=
  if pa < hbmSize ∨ s.bad.isSome then s else { s with bad := some pa }

/-- A line of device memory as its controller returns it, in the clear: zeros marked poisoned for a quarantined page
(11 R325). -/
def State.hbmLine (s : State) (pa va mkey : Nat) : List Nat × Bool :=
  let pa := pa / 64 * 64
  if setHas s.badPages (pa / 4096) then (List.replicate 64 0, true)
  else (xtsBlocks false (s.keyBytes mkey) (va / 64 * 64) (s.bytes pa 64),
    setHas s.sectors (pa / 32) || setHas s.sectors (pa / 32 + 1))

/-- An entry holds the 4 KiB frame `f`; the quarantine cache of a column: the quarantined frames that its
entries of psum 1 hold (15 R401), which is the poison bitmap restricted to them. -/
def entHolds (e : Cap) (f : Nat) : Bool := entValid e && entKind e == 0 && entPa e / 2 ^ entShift e == f * 4096 / 2 ^ entShift e
def State.qcache (s : State) (c : Nat) : List Nat :=
  s.badPages.filter fun f => (s.col c).entries.any fun (p : Nat × Cap) => entPsum p.2 == 1 && entHolds p.2 f

/-- The context, column and index of the first entry that holds a frame, zeros where none does: what a
quarantine's record names (log entry 12). -/
def State.entryOfFrame (s : State) (f : Nat) : Nat × Nat × Nat :=
  ((List.range 16).findSome? fun c =>
    (List.find? (fun (p : Nat × Cap) => entHolds p.2 f) (s.col c).entries).map fun p =>
      (entCtx p.2, c, p.1 - (FM.get (0, 0) (s.context (entCtx p.2)).parts c).1)).getD (0, 0, 0)

/-- An entry of psum 0 that holds a frame now quarantined has psum 1 (15 R401; 11 R325). -/
def State.markPsum (s : State) (f : Nat) : State :=
  (List.range 16).foldl (fun s c => s.updCol c fun C => { C with
    entries := C.entries.map fun (p : Nat × Cap) => (p.1, if entPsum p.2 == 0 && entHolds p.2 f then entSet p.2 28 2 1 else p.2) }) s

/-- A column whose cache a new quarantine fills beyond 1,024 frames marks the entry of the new frame (15 R401). -/
def State.cacheFull (s : State) (f : Nat) : State :=
  (List.range 16).foldl (fun s c =>
    if (s.qcache c).length ≤ 1024 then s
    else s.updCol c fun C => { C with
      entries := C.entries.map fun (p : Nat × Cap) => (p.1, if entPsum p.2 == 1 && entHolds p.2 f then entSet p.2 28 2 2 else p.2) }) s

/-- Enters a 32-byte sector in its controller's record of 512; a full record quarantines the page (11 R325). -/
def State.enterSector (s : State) (sec : Nat) : State :=
  let pa := sec * 32
  if setHas s.sectors sec then s
  else if (s.sectors.filter fun k => stackOf (k * 32) == stackOf pa).length < 512 then { s with sectors := setAdd s.sectors sec }
  else
    let s := { s with
      badPages := setAdd s.badPages (pa / 4096)
      sectors := s.sectors.filter fun k => k / 128 != pa / 4096 }
    let (ctx, c, i) := s.entryOfFrame (pa / 4096)
    ((s.markPsum (pa / 4096)).cacheFull (pa / 4096)).hostRecord (.of 2 ctx c 0 (originMem (pa / 4096 % 256)) i (pa / 4096 * 4096) 0)

/-- Raw bytes written to device memory inside one line, with poison entering or leaving the sectors covered (11
R323 to R325). -/
def State.hbmPut (s : State) (pa : Nat) (bs : List Nat) (p : Bool) : State :=
  if setHas s.badPages (pa / 4096) then s
  else
    let s := { s with mem := memPut s.mem pa bs }
    let secs := (List.range ((pa % 32 + bs.length + 31) / 32)).map fun i => pa / 32 + i
    if p then secs.foldl (fun s k => s.enterSector k) s
    else { s with sectors := s.sectors.filter fun k =>
      !(secs.contains k && decide (pa ≤ k * 32) && decide (k * 32 + 32 ≤ pa + bs.length)) }

/-- A whole line written in the clear, encrypted under its key; poison enters both sectors. -/
def State.hbmSetLine (s : State) (pa va mkey : Nat) (bs : List Nat) (p : Bool) : State :=
  (s.beyond pa).hbmPut (pa / 64 * 64) (xtsBlocks true (s.keyBytes mkey) (va / 64 * 64) bs) p

/-- The cached line of `pa` in column `c`. -/
def State.line? (s : State) (c pa : Nat) : Option BLine := (s.col c).lines.find? fun l => l.key == pa / 64
def State.dropLine (s : State) (c pa : Nat) : State :=
  s.updCol c fun C => { C with lines := C.lines.filter fun l => l.key != pa / 64 }
def State.setLine (s : State) (c : Nat) (l : BLine) : State :=
  s.updCol c fun C => { C with lines := l :: C.lines.filter fun m => m.key != l.key }

/-- A dirty line written to device memory (05 R136). -/
def State.writeBackLine (s : State) (l : BLine) : State :=
  if l.dirty then s.hbmSetLine (l.key * 64) l.va l.mkey (bytesOfBv 64 l.data) l.p else s

/-- Writes back the dirty lines of column `c` that `f` picks; they stay, clean. Those of a fenced column are
lost (17 R442). -/
def State.writeBack (s : State) (c : Nat) (f : BLine → Bool) : State :=
  if (s.col c).fenced then s
  else ((s.col c).lines.filter fun l => f l && l.dirty).foldl
    (fun s l => (s.writeBackLine l).setLine c { l with dirty := false }) s

/-- Invalidates the lines of column `c` that `f` picks. -/
def State.dropLines (s : State) (c : Nat) (f : BLine → Bool) : State :=
  s.updCol c fun C => { C with lines := C.lines.filter fun l => !f l }

/-- The release at system scope of a context: every home bank store writes back its dirty lines (12 R343). -/
def State.releaseSystem (s : State) (ctx : Nat) : State :=
  (List.range 16).foldl (fun s c => s.writeBack c fun l => l.ctx == ctx) s

/-- An eviction may occur at any time and is not architected (12 R343; 05 R136): at each access of a bank store
a free choice evicts one of its lines or none (log entry 9). -/
def State.mayEvict (s : State) (c : Nat) : State :=
  let (n, s) := takeFree s
  let ls := (s.col c).lines
  if ls ≠ [] ∧ n % 2 = 1 then
    match ls[n / 2 % ls.length]? with
    | some l => (s.writeBackLine l).dropLine c (l.key * 64)
    | none => s
  else s

/-- Lines of a way of 1.5 MiB (05 R136), and room for one more in way `w` of context `ctx`: one of a full way's
lines, a free choice, is evicted. -/
def wayLines : Nat := 24576
def State.makeRoom (s : State) (c ctx w : Nat) : State :=
  let ls := (s.col c).lines.filter fun l => l.ctx == ctx && l.way == w
  if ls.length < wayLines then s
  else
    let (n, s) := takeFree s
    match ls[n % ls.length]? with
    | some l => (s.writeBackLine l).dropLine c (l.key * 64)
    | none => s

/-- 64 free bytes: the value of a line that the spec says only is poison (17 R442). -/
def State.freeLine (s : State) : (List Nat × Bool) × State :=
  let (n, s) := takeFree s
  ((natLe 64 n, true), s)

/-- Number of cache ways of a context in a column (05 R136). -/
def State.cacheWays (s : State) (ctx col : Nat) : Nat :=
  min (s.context ctx).bsplit (FM.get 0 (s.context ctx).nw col)

/-- A way of a bank store whose contents read as poison: the column is retained-unverified (17 R444) or the way
retired (R445). -/
def Col.wayBad (C : Col) (ctx way : Nat) : Bool := C.retained || C.retired.contains (16 * ctx + way)

/-- The line of `pa` as its home bank store gives it to a fabric-domain agent of context `ctx`, allocated on a
miss when the context has cache ways there (05 R136). A fenced home gives poison (17 R442), a
retained-unverified or quarantined one too. -/
def State.bsLine (s : State) (ctx : Nat) (p : Phys) (va : Nat) : (List Nat × Bool) × State :=
  if s.colDisabled p.home then s.freeLine
  else if p.quar then ((List.replicate 64 0, true), s)
  else
    let s := (s.mayEvict p.home).beyond p.pa
    match s.line? p.home p.pa with
    | some l => ((bytesOfBv 64 l.data, l.p || (s.col p.home).wayBad l.ctx l.way), s)
    | none =>
      let (bs, q) := s.hbmLine p.pa va p.mkey
      let w := s.cacheWays ctx p.home
      if w = 0 then ((bs, q), s)
      else
        let (n, s) := takeFree s
        let s := (s.makeRoom p.home ctx (n % w)).setLine p.home ⟨p.pa / 64, va / 64 * 64, p.mkey, ctx, bvOfBytes 512 bs, false, q, n % w⟩
        ((bs, q || (s.col p.home).wayBad ctx (n % w)), s)

/-- The monitors of column `c` on the 8 bytes at key `a`: a write of a value other than the awaited one wakes
its MWAIT (05 R152). -/
def State.wakeMonitors (s : State) (c a v : Nat) (q : Bool) : State :=
  ((s.col c).monitors.filter fun m => m.2.1 == a).foldl (fun s m =>
    match ((s.tile m.1).engine 1).hold with
    | .mwait _ _ expect _ _ _ true _ _ _ _ =>
      if q then s.soon [.mwake m.1 (2 ^ 64)] else if expect.toNat ≠ v then s.soon [.mwake m.1 v] else s
    | _ => s) s

/-- The monitors on a line that was written, with its bytes and poison: a poisoned monitored granule wakes its
MWAIT at once (05 R152), marked by a value beyond 64 bits. -/
def State.wakeLine (s : State) (c key : Nat) (bs : List Nat) (q : Bool) : State :=
  (List.range 8).foldl (fun s i => s.wakeMonitors c (key / 64 * 64 + 8 * i) (leNat ((bs.drop (8 * i)).take 8)) q) s

/-- Writes `bs` inside one line of device memory through its home bank store (05 R136; 11 R324). A write to a
quarantined frame is discarded; one to a fenced home does not execute, which its caller reports (17 R442). -/
def State.bsWrite (s : State) (ctx : Nat) (p : Phys) (va : Nat) (bs : List Nat) (q : Bool) : State :=
  if s.colDisabled p.home || p.quar then s
  else
    let ((old, oldP), s) := s.bsLine ctx p va
    let o := p.pa % 64
    let new := old.take o ++ bs ++ old.drop (o + bs.length)
    let ownP := ((s.line? p.home p.pa).map fun l => l.p).getD oldP
    let q' := q || (ownP && bs.length != 64)
    let s := match s.line? p.home p.pa with
      | some l => s.setLine p.home { l with data := bvOfBytes 512 new, dirty := true, p := q' }
      | none => s.hbmSetLine p.pa va p.mkey new q'
    s.wakeLine p.home p.pa new q'

/-- A line read by a memory-end agent: what has reached device memory (12 R343). -/
def State.memEndRead (s : State) (p : Phys) (va : Nat) : List Nat × Bool :=
  if p.quar then (List.replicate 64 0, true) else s.hbmLine p.pa va p.mkey

/-- A memory-end write of raw bytes inside one line (12 R342): a dirty home line is written back, the bytes are
applied, the line leaves, a monitor wakes on what the line then holds in the clear. -/
def State.memEndPut (s : State) (pa : Nat) (bs : List Nat) (p : Bool) : State :=
  let s := (List.range 16).foldl (fun s c => s.writeBack c fun l => l.key == pa / 64) (s.beyond pa)
  let s := s.hbmPut pa bs p
  let s := (List.range 16).foldl (fun s c => s.dropLine c pa) s
  let armed := (List.range 16).flatMap fun c => ((s.col c).monitors.filter fun m => m.2.1 / 64 == pa / 64).map fun m => (c, m.1)
  armed.foldl (fun s (ct : Nat × Nat) =>
    match ((s.tile ct.2).engine 1).hold with
    | .mwait _ _ _ addr _ _ _ _ _ _ _ =>
      match s.translate (s.tile ct.2).ctx (tileCol ct.2) addr 2 1 with
      | .ok p =>
        let r := s.memEndRead p addr
        s.wakeLine ct.1 pa r.1 r.2
      | _ => s
    | _ => s) s

/-- A memory-end write in the clear under a key, and the monitors of every home column on the line (12 R342). -/
def State.memEndLine (s : State) (p : Phys) (va : Nat) (bs : List Nat) (q : Bool) : State :=
  if p.quar then s
  else
    let s := s.writeBack p.home fun l => l.key == p.pa / 64
    let s := (s.hbmSetLine p.pa va p.mkey bs q).dropLine p.home p.pa
    s.wakeLine p.home p.pa bs q

/-- A line of peer memory as a read finds it (log entry 9); a failed port gives zero bytes marked poisoned (18
R453). -/
def State.peerLine (s : State) (port : Nat) : (List Nat × Bool) × State :=
  if s.sys.portFailed.contains port then ((List.replicate 64 0, true), s)
  else
    let n := s.free
    (((List.range 64).map fun i => Config.peerByte n i % 256, false), { s with free := n + 1 })

end Sys2Proof.Machine
end

