-- ==== Sys2Proof/Machine/Ops.lean ====
section
/-! DEFINITION. Sys2Proof/Machine/Ops.lean: the operations every instruction shares: poison fields, semaphores, token queues,
barriers, signals and waits (02 R30 to R33; 11), writes that land later (04 R97), taking a trap and returning from one (16 R422 to
R427), engine faults (16 R424; 02 R49), teardown (14 R394), and the issue of a word in the control core (04 R120) and in a ring-fed
engine (02 R49; 04 R113). -/

namespace Sys2Proof.Machine

/-- The first poison is kept (11 R302). -/
def PField.poison (p : PField) (cause origin : Nat) : PField := if p.bit then p else ⟨true, cause, origin⟩

/-- The status value of 04 R118. -/
def statusWord (count : Nat) (p : PField) : Word :=
  BitVec.ofNat 64 (count + (if p.bit then 2 ^ 16 + p.cause * 2 ^ 24 + p.origin * 2 ^ 32 else 0))

def Tile.semOf (T : Tile) (n : Nat) : SObj := FM.get SObj.zero T.sem n
def Tile.setSem (T : Tile) (n : Nat) (v : SObj) : Tile := { T with sem := FM.set T.sem n v }
def Tile.tqOf (T : Tile) (q : Nat) : SObj := FM.get SObj.zero T.tq q
def Tile.setTq (T : Tile) (q : Nat) (v : SObj) : Tile := { T with tq := FM.set T.tq q v }
def Tile.barOf (T : Tile) (n : Nat) : BSlot := FM.get BSlot.zero T.bar n
def Tile.setBar (T : Tile) (n : Nat) (v : BSlot) : Tile := { T with bar := FM.set T.bar n v }
/-- The queue from producer `p` to consumer `c` (11 R318). -/
def tqIndex (p c : Nat) : Nat := 8 * p + c

/-- An increment of a semaphore (11 R307); `origin` is the signalling word's. -/
def SObj.inc (o : SObj) (origin : Nat) : SObj :=
  if o.count < 65535 then { o with count := o.count + 1 } else { o with pois := o.pois.poison 0x32 origin }

/-- A clean arrival at a slot or home record, or one poisoned with a cause and origin (11 R311). -/
def BSlot.arrive (b : BSlot) (pois : Option (Nat × Nat)) (origin : Nat) : BSlot :=
  if !b.init then { b with pois := b.pois.poison 0x33 origin }
  else match pois with
    | some (c, o) => { b with pois := b.pois.poison c o }
    | none =>
      if b.pois.bit then (if b.count < b.target then { b with count := b.count + 1 } else b)
      else if b.count + 1 = b.target then { b with count := 0, gen := (b.gen + 1) % 65536 }
      else { b with count := b.count + 1 }

/-- SCRUB of a slot (11 R321): a count at target completes the phase unless the count is reset. -/
def BSlot.scrub (b : BSlot) (rst : Bool) : BSlot :=
  let full := b.init && b.count == b.target && decide (0 < b.target)
  if rst then { b with pois := .clean, count := 0 }
  else if b.pois.bit && full then { b with pois := .clean, count := 0, gen := (b.gen + 1) % 65536 }
  else { b with pois := .clean }

/-- BINIT of a slot or record (11 R310). -/
def BSlot.binit (b : BSlot) (scope home target origin : Nat) : BSlot :=
  if b.count = 0 then { b with init := true, scope := scope, home := home, target := target }
  else if b.scope = scope ∧ b.home = home ∧ b.target = target then b
  else { b with pois := b.pois.poison 0x34 origin }

/-- The column of the home record of a slot of tile `t` (11 R313). -/
def BSlot.homeCol (b : BSlot) (t : Nat) : Nat := if b.scope = 2 then b.home else tileCol t

/-- Key of a home record: context and slot. -/
def homeKey (ctx slot : Nat) : Nat := 1024 * ctx + slot

/-- Stream numbers: contexts 0 to 3, engines 1 to 5 as 4 to 8. -/
def streamOf (e c : Nat) : Nat := if e = 0 then c else e + 3

/-- A signal byte with the barrier slot that its handle names when the word begins (04 R119). -/
def Tile.resolveSig (T : Tile) (sig : Nat) : Nat :=
  if sig / 32 = 4 then
    match FM.find? T.bh (sig % 32) with
    | some slot => 256 + 32 * slot + sig % 32
    | none => 0
  else sig

/-- The signal byte that a resolved signal came from. -/
def sigByte (sig : Nat) : Nat := if sig < 256 then sig else 128 + sig % 32

/-- A wait or signal on an unmapped handle raises 0x05 at the word (04 R119). -/
def Tile.unmapped (T : Tile) (b : Nat) : Bool := b / 32 == 4 && (FM.find? T.bh (b % 32)).isNone

/-- The sender of a home message is within 20 tc of its home column, 80 of another's, and the answer 28 or 80
(11 R313): free within the bound (log entry 8). -/
def State.fabricTime (s : State) (near : Bool) (bound far : Nat) : Nat × State := takeIn 1 (if near then bound else far) s

/-- A message to the home record of a slot: 0 arrival, 1 BINIT, 2 POISON, 3 SCRUB, 4 SCRUB.RST, 5 and 6 the two
SYNRD views. -/
def State.sendHome (s : State) (t slot what a b : Nat) (pois : Option (Nat × Nat)) (sig c : Nat) (scope : Nat) : State :=
  let (d, s) := s.fabricTime (scope == 1) 20 80
  s.flyDev d (.home t slot what a b pois sig c)

/-- An arrival of party `e` (context `c` of the control core) on a slot through handle `bhN` (11 R311 to R313). -/
def State.arriveSlot (s : State) (t e c handle slot : Nat) (pois : Option (Nat × Nat)) : State :=
  let T := s.tile t
  let b := T.barOf slot
  let T := if e ≠ 0 ∨ c = 0 then { T with bpend := FM.set T.bpend (32 * e + handle) b.gen } else T
  let s := s.setTile t T
  if b.scope = 0 ∨ !b.init then s.setTile t (T.setBar slot (b.arrive pois (originOf t e)))
  else s.sendHome t slot 0 e 0 pois 0 c b.scope

/-- A push to the queue from engine `e` to engine `d`: poisoned at once; clean, it waits at a full queue behind
earlier waiting pushes (02 R32). -/
def State.pushToken (s : State) (t e c d : Nat) (pois : Option (Nat × Nat)) : State :=
  let T := s.tile t
  let q := tqIndex e d
  let o := T.tqOf q
  match pois with
  | some (cause, origin) => s.setTile t (T.setTq q { o with pois := o.pois.poison cause origin })
  | none =>
    if o.count < 63 ∧ !(T.pushes.any fun p => p.prod == e && p.cons == d) then
      s.setTile t (T.setTq q { o with count := o.count + 1 })
    else s.setTile t { T with pushes := T.pushes ++ [⟨streamOf e c, e, d, T.clk⟩] }

/-- The object that a wait byte of party `p`, or a resolved signal of engine `e`, names, as a key of `know`; 0
names none. -/
def Tile.waitKey (T : Tile) (p w : Nat) : Nat :=
  match w / 32 with
  | 1 => 65 + tqIndex (w % 32) p
  | 2 => 1 + w % 32
  | 3 => 33 + w % 32
  | 4 => 129 + FM.get 0 T.bh (w % 32)
  | _ => 0
def sigKey (e sig : Nat) : Nat :=
  if 256 ≤ sig then 121 + sig / 32
  else match sig / 32 with
  | 1 => 65 + tqIndex e (sig % 32)
  | 2 => 1 + sig % 32
  | 3 => 33 + sig % 32
  | _ => 0
/-- The key of a stream in `know`. -/
def streamKey (e c : Nat) : Nat := 2048 + streamOf e c

/-- Stores to the CIM that `ks` names are known at key `k` too (04 R95; 12 R339). -/
def Tile.tell (T : Tile) (k : Nat) (ks : List Nat) : Tile :=
  if k = 0 ∨ ks = [] then T else { T with know := FM.set T.know k (ks.foldl setAdd (FM.get [] T.know k)) }
def Tile.knows (T : Tile) (k : Nat) : List Nat := FM.get [] T.know k

/-- What a satisfied wait of party `p` with byte `w` learns from its object. -/
def Tile.learn (T : Tile) (p w : Nat) : Tile := T.tell (streamKey p 0) (T.knows (T.waitKey p w))

/-- The effect of a signal on its object (02 R30). -/
def State.signalObj (s : State) (t e c sig : Nat) (pois : Option (Nat × Nat)) : State :=
  if 256 ≤ sig then s.arriveSlot t e c (sig % 32) (sig / 32 - 8) pois
  else
    let T := s.tile t
    let n := sig % 32
    match sig / 32 with
    | 1 => s.pushToken t e c n pois
    | 2 =>
      let o := T.semOf n
      s.setTile t (T.setSem n (match pois with
        | some (c, g) => { o with pois := o.pois.poison c g }
        | none => o.inc (originOf t e)))
    | 3 =>
      let o := T.semOf (32 + n)
      s.setTile t (T.setSem (32 + n) (match pois with
        | some (c, g) => { o with pois := o.pois.poison c g }
        | none => o.inc (originOf t e)))
    | _ => s

/-- Performs the signal `sig` (resolved) of engine `e`, context `c` (02 R30); its object learns what its stream
knows. -/
def State.signal (s : State) (t e c sig : Nat) (pois : Option (Nat × Nat)) : State :=
  (s.signalObj t e c sig pois).updTile t fun T => T.tell (sigKey e sig) (T.knows (streamKey e c))

/-- The signal of engine `e` is not sent at once (02 R32; 19 R462): a clean push waits at its queue, or an
arrival goes to a home record. The mark is the tile clock of the push, or the number of the arrival's flight. -/
def State.signalLater (s : State) (t e sig : Nat) (pois : Option (Nat × Nat)) : Option Nat :=
  let T := s.tile t
  if 256 ≤ sig then
    if (T.barOf (sig / 32 - 8)).scope = 0 ∨ !(T.barOf (sig / 32 - 8)).init then none else some s.nextId
  else if sig / 32 = 1 ∧ pois.isNone ∧
      (63 ≤ (T.tqOf (tqIndex e (sig % 32))).count ∨ T.pushes.any fun p => p.prod == e && p.cons == sig % 32) then some T.clk
  else none

/-- A signal in the present tc, with the tile's waits tested again (11 R306). -/
def State.signalNow (s : State) (t e c sig : Nat) (pois : Option (Nat × Nat)) : State :=
  if sig = 0 then s else (s.signal t e c sig pois).retest t

/-- A signal `l` tc from now on the tile's clock. -/
def State.signalIn (s : State) (t e c sig l : Nat) (pois : Option (Nat × Nat)) : State :=
  if sig = 0 then s else s.flyTile t l (.signal t e sig c pois)

/-- What a word finds when it tests its wait. -/
inductive WaitRes where
  | pass (s : State)
  | hold (s : State)
  | poisoned (s : State) (status : Word) (cause origin : Nat)

/-- The wait byte of the word that party `p` of a tile is held at (0 control-core context 0, 1 to 5 engines):
recorded when its wait began, with the tile clock then. -/
def Tile.waiting (T : Tile) (p : Nat) : Option Nat :=
  if p = 0 then (T.cc 0).waitFrom else (T.engine p).waitFrom

/-- A waiting registration: the tile clock and the wait byte, in one number. -/
def waitReg (clk w : Nat) : Nat := 256 * clk + w

/-- Parties that began waiting on the semaphore of byte `w` before party `p` (11 R307). -/
def Tile.earlierWaiters (T : Tile) (p w : Nat) : Nat :=
  let mine := (T.waiting p).getD (waitReg T.clk w) / 256
  ((List.range 6).filter fun q => q != p &&
    (match T.waiting q with
     | some r => r % 256 == w && (decide (r / 256 < mine) || (r / 256 == mine && decide (q < p)))
     | none => false)).length

/-- Registers the wait of party `p`. -/
def State.register (s : State) (t p w : Nat) : State :=
  let T := s.tile t
  match T.waiting p with
  | some _ => s
  | none =>
    if p = 0 then s.updCc t 0 fun x => { x with waitFrom := some (waitReg T.clk w) }
    else s.updEng t p fun x => { x with waitFrom := some (waitReg T.clk w) }

/-- The wait on a barrier slot (11 R312). The pending record of a party and handle holds the recorded gen, and
once the wait has begun the slot it began with. -/
def State.waitBar (s : State) (t p handle : Nat) : WaitRes :=
  let T := s.tile t
  let key := 32 * p + handle
  let rec? := FM.find? T.bpend key
  let slot := match rec? with
    | some r => if 65536 ≤ r then r / 65536 - 1 else FM.get 0 T.bh handle
    | none => FM.get 0 T.bh handle
  let b := T.barOf slot
  let done := { T with bpend := FM.del T.bpend key }
  if !b.init && !b.pois.bit then
    let b' := { b with pois := b.pois.poison 0x33 (originOf t p) }
    .poisoned (s.setTile t (done.setBar slot b')) (statusWord b.count b'.pois) 0x33 (originOf t p)
  else if b.pois.bit then .poisoned (s.setTile t done) (statusWord b.count b.pois) b.pois.cause b.pois.origin
  else
    let g := match rec? with
      | some r => r % 65536
      | none => b.gen
    if g ≠ b.gen then .pass (s.setTile t done)
    else .hold (s.setTile t { T with bpend := FM.set T.bpend key (g + 65536 * (slot + 1)) })

/-- Tests the wait byte `w` for party `p` of tile `t`; the decrement, pop or cleared record is in the state that
passes (02 R32; 11 R304, R307, R312). -/
def State.testWait (s : State) (t p w : Nat) : WaitRes :=
  let T := s.tile t
  let n := w % 32
  let sem (n : Nat) : WaitRes :=
    let o := T.semOf n
    if o.pois.bit then .poisoned s (statusWord o.count o.pois) o.pois.cause o.pois.origin
    else if T.earlierWaiters p w < o.count then .pass (s.setTile t (T.setSem n { o with count := o.count - 1 }))
    else .hold (s.register t p w)
  match w / 32 with
  | 1 =>
    let q := tqIndex n p
    let o := T.tqOf q
    if o.pois.bit then .poisoned s (statusWord o.count o.pois) o.pois.cause o.pois.origin
    else if 0 < o.count then
      let s := s.setTile t (T.setTq q { o with count := o.count - 1 })
      .pass (if T.pushes.any fun x => x.prod == n && x.cons == p then s.soon [.pushes t q] else s)
    else .hold (s.register t p w)
  | 2 => sem n
  | 3 => sem (32 + n)
  | 4 =>
    match s.waitBar t p n with
    | .hold s => .hold (s.register t p w)
    | r => r
  | _ => .pass s

/-- An arrival of engine `e` of tile `t` on its way to a home record. -/
def Fl.arrivalOf (t e : Nat) : Fl → Bool
  | .home u _ what a .. => u == t && what == 0 && a == e
  | _ => false

/-- The tile, engine and context whose pending write, landing flag, signal or completion this is. -/
def Fl.issuer? : Fl → Option (Nat × Nat × Nat)
  | .sreg t c .. => some (t, 0, c)
  | .sysw t c .. => some (t, 0, c)
  | .hend t c _ => some (t, 0, c)
  | .remote t c r _ => if r.op = 0 then some (t, 0, c) else none
  | .areg t .. => some (t, 1, 0)
  | .creg t .. => some (t, 1, 0)
  | .vreg t .. => some (t, 2, 0)
  | .mreg t .. => some (t, 2, 0)
  | .tile t _ vec .. => some (t, if vec then 2 else 3, 0)
  | .mstep t .. => some (t, 3, 0)
  | .mdone t .. => some (t, 3, 0)
  | .mclose t _ => some (t, 3, 0)
  | .mring t .. => some (t, 3, 0)
  | .rowMask t .. => some (t, 3, 0)
  | .mwindow t .. => some (t, 3, 0)
  | .qfill t e .. => some (t, e, 0)
  | .flags t e _ => some (t, e, 0)
  | .signal t e _ c _ => some (t, e, c)
  | .xring t .. => some (t, 4, 0)
  | .xgroup t .. => some (t, 4, 0)
  | .xvmask t .. => some (t, 4, 0)
  | .xcfg t .. => some (t, 4, 0)
  | .xrgmask t .. => some (t, 4, 0)
  | .xpriv t .. => some (t, 4, 0)
  | .calEffect t .. => some (t, 4, 0)
  | .crec t _ => some (t, 5, 0)
  | _ => none

/-- A flight's tile, for the scrub that ends it. -/
def Fl.tile? : Fl → Option Nat
  | .sreg t .. | .areg t .. | .creg t .. | .vreg t .. | .mreg t .. | .tile t .. | .qfill t .. | .flags t .. | .signal t ..
  | .sysw t .. | .hend t .. | .semset t .. | .bhmap t .. | .binit t .. | .poison t .. | .scrub t .. | .mtwr t .. | .ringw t .. | .ringFork t ..
  | .eflt t .. | .mring t .. | .rowMask t .. | .mwindow t .. | .mstep t .. | .mdone t .. | .mclose t .. | .xring t .. | .xgroup t .. | .xvmask t .. | .xcfg t .. | .xrgmask t ..
  | .xpriv t .. | .scratch t .. | .crec t .. | .update t .. | .remote t .. | .bind t ..
  | .calEffect t .. => some t
  | .access a => some a.t
  | .put p => some p.t
  | .home t .. => some t
  | .launch t .. => some t

/-- The kinds of automatic reference measurements (09 R264) and of backfill operations (13 R356) among the array
work of a tile. -/
def calAuto : Nat := 0x40
def calBackfill : Nat := 0x41

/-- The scrub of a tile (14 R388): its storage is as a scrub leaves it, its arrays with work that no task of the
tile asked for, and the verdict times of its units stay; a self-test runs on, with nothing to replay. -/
def State.scrubTile (s : State) (t : Nat) : State :=
  let T := s.tile t
  let lo := spBase t
  let inSp (a : Nat) : Bool := decide (lo ≤ a) && decide (a < lo + 2 ^ 20)
  let (d, s) := takeIn 1 2400 s
  { s.setTile t { Tile.fresh t with
      mclk := T.mclk, site := T.site, arrays := T.arrays, xcal := T.xcal.filter fun c => decide (calAuto ≤ c.2.op),
      verdicts := T.verdicts, testing := T.testing.map fun u => (u.1, 5, u.2.2.1, 0), scrubTo := s.tc + d
      state := if T.state = .fenced then .fenced else .running } with
    mem := s.mem.filter fun c => !inSp c.1
    pois := s.pois.filter fun g => !inSp (64 * g)
    tags := s.tags.filter fun g => !inSp (16 * g)
    flights := s.flights.filter fun f => f.fl.tile? != some t
    nmus := s.nmus.map fun n => (n.1, { n.2 with
      run := n.2.run.filter fun r => r.tile != t, queue := n.2.queue.filter fun q => q.1 != t }) }

/-- Zeroes the column scratch of a context in a column, or in every column (05 R136; 14 R388, R394). -/
def State.zeroScratch (s : State) (ctx : Nat) (col : Option Nat) : State :=
  let hit (a : Nat) : Bool :=
    decide (2 ^ 42 ≤ a) && decide (a < hostBase) && (a - 2 ^ 42) / 2 ^ 29 == ctx &&
      (match col with | none => true | some c => (a - 2 ^ 42) / 2 ^ 25 % 16 == c)
  { s with mem := s.mem.filter fun c => !hit c.1, pois := s.pois.filter fun g => !hit (64 * g) }

/-- Writes bytes of device memory at a context-virtual address as the fabric-domain agent of column `col`; none
where a granule does not translate. -/
def State.devPut (s : State) (ctx col : Nat) (va : Nat) (bs : List Nat) (q : Bool) : Option State :=
  (granules (bs.length + 1) va bs).foldl (fun o (g : Nat × List Nat) =>
    match o with
    | none => none
    | some s =>
      match s.translate ctx col g.1 2 2 with
      | .ok p => some (s.bsWrite ctx p g.1 g.2 q)
      | _ => none) (some s)

/-- Reads bytes of device memory as the fabric-domain agent of column `col`. -/
def State.devGet (s : State) (ctx col : Nat) (va n : Nat) : Option (List Nat × Bool) × State :=
  (granules (n + 1) va (List.replicate n 0)).foldl (fun (os : Option (List Nat × Bool) × State) (g : Nat × List Nat) =>
    match os with
    | (none, s) => (none, s)
    | (some (bs, q), s) =>
      match s.translate ctx col g.1 2 1 with
      | .ok p =>
        let ((l, q'), s) := s.bsLine ctx p g.1
        (some (bs ++ (l.drop (g.1 % 64)).take g.2.length, q || q'), s)
      | _ => (none, s)) (some ([], false), s)

/-- Writes the 16 bytes of completion word `n` of a context, which reach HBM (11 R315, R316; 12 R331), where `p`
has them, with poison `q`. -/
def State.writeCwAt (s : State) (ctx : Nat) (p : Phys) (n : Nat) (value : Word) (status : Word) (q : Bool) : State :=
  (s.bsWrite ctx p ((s.context ctx).cwBlock + 16 * n) (bytesOfBv 8 value ++ bytesOfBv 8 status) q).writeBack p.home
    fun l => l.key == p.pa / 64
def State.writeCw (s : State) (ctx col n : Nat) (value : Word) (status : Word) : State :=
  match s.translate ctx col ((s.context ctx).cwBlock + 16 * n) 2 2 with
  | .ok p => s.writeCwAt ctx p n value status false
  | _ => s

/-- A completion word written with system release (11 R315; 12 R343). -/
def State.putCw (s : State) (ctx col n : Nat) (value : Word) (status : Word) : State :=
  (s.releaseSystem ctx).writeCw ctx col n value status

/-- Added to the operation of a word out at another unit, once its tile has been stopped (14 R391). -/
def stoppedOp : Nat := 65536

/-- The lowest column of a context's tile grant. -/
def Context.grantCol (x : Context) : Nat := ((List.range 16).find? fun c => x.grant / 2 ^ (11 * c) % 2048 != 0).getD 0
def Context.granted (x : Context) (t : Nat) : Bool := x.grant / 2 ^ t % 2 == 1
def Context.tiles (x : Context) : List Nat := (List.range 176).filter x.granted

/-- Clears a context's objects, monitors, backfill and held accesses in a column (11 R327; 13 R359; 15 R403). -/
def Col.clearContext (C : Col) (ctx : Nat) : Col :=
  let held := C.held.filter fun h => h.ctx != ctx
  { C with
    deques := C.deques.filter fun d => d.2.ctx != ctx
    homes := C.homes.filter fun h => h.1 / 1024 != ctx
    monitors := C.monitors.filter fun m => m.2.2 != ctx
    entries := C.entries.filter fun e => !(entValid e.2 && entCtx e.2 == ctx)
    images := FM.del C.images ctx
    bfCtx := FM.del C.bfCtx ctx
    bfQueue := C.bfQueue.filter fun r => r.ctx != ctx
    batch := match C.batch with
      | some b => if C.bfQueue.any fun r => r.ctx == ctx && b.members.contains r.enq then none else some b
      | none => none
    held := held
    holders := if C.heldState && held.isEmpty then setDel C.holders 0 else C.holders
    heldState := C.heldState && !held.isEmpty }

/-- The teardown record (14 R394), written as far as its address translates. -/
def State.putTeardown (s : State) (ctx : Nat) (reason cause origin tc1 tc2 : Nat) : State :=
  let x := s.context ctx
  let open' := (s.launches.filter fun l => l.ctx == ctx).length
  let bs := [reason, cause] ++ natLe 2 origin ++ [tc1, tc2, 0, 0] ++ natLe 4 x.dropped ++ natLe 4 open' ++ List.replicate 48 0
  match s.devPut ctx x.grantCol x.tdRec bs false with
  | some s => s.releaseSystem ctx
  | none => s

/-- Submission entries at the head of the ring that name the context and are read while its teardown runs, a
free number of them, are dropped (14 R395; log entry 22). -/
def State.dropEntries (s : State) (ctx : Nat) : State :=
  let y := s.sys
  (List.range ((y.sqTail + 2 * y.sqSize - y.sqHead) % (2 * y.sqSize))).foldl (fun s _ =>
    let (n, s) := takeFree s
    if n % 2 = 1 ∧ s.nat (hostBase + s.sys.sqBase + 64 * (s.sys.sqHead % s.sys.sqSize)) 1 = ctx then
      { s.updContext ctx fun x => { x with dropped := (x.dropped + 1) % 2 ^ 32 } with
        sys := { s.sys with sqHead := (s.sys.sqHead + 1) % (2 * s.sys.sqSize) } }
    else s) s

/-- A context's runs at a near-memory unit and the address of its last abort are gone with it (10 R295). -/
def Nmu.clearContext (N : Nmu) (ctx : Nat) : Nmu :=
  { N with runs := FM.del N.runs ctx, lastAddr := if N.lastCtx = ctx then 0 else N.lastAddr }

/-- Tears a context down (14 R394). Launches on their way are dropped and counted (R395; log entry 22). The
record is written before the context's translation entries go, which no reader can tell from the end. -/
def State.tearDown (s : State) (ctx reason cause origin tc1 tc2 : Nat) : State :=
  let late := (s.flights.filter fun f => match f.fl with
    | .launch _ c .. => c == ctx
    | _ => false).length
  let s := (s.updContext ctx fun x => { x with dropped := (x.dropped + late) % 2 ^ 32 }).dropEntries ctx
  let x := s.context ctx
  let s := s.putTeardown ctx reason cause origin tc1 tc2
  let s := x.tiles.foldl (fun s t => s.scrubTile t) s
  let s := x.tiles.foldl (fun s t => s.updTile t fun T =>
    { T with
      xcal := T.xcal.filter fun c => c.2.op != calBackfill
      arrays := T.arrays.map fun a => (a.1, if a.2.priv && a.2.owner == ctx then { a.2 with orphan := true } else a.2) }) s
  let s := (List.range 16).foldl (fun s c => (s.writeBack c fun l => l.ctx == ctx).dropLines c fun l => l.ctx == ctx) s
  let s := s.zeroScratch ctx none
  let s := ((List.range 16).foldl (fun s c => s.updCol c fun C => C.clearContext ctx) s).resumeFrom s
  { s with
    launches := s.launches.filter fun l => l.ctx != ctx
    flights := s.flights.filter fun f => match f.fl with
      | .launch _ c .. => c != ctx
      | _ => true
    parked := s.parked.filter fun f => !(f.fl.tile?.any x.granted)
    saved := s.saved.filter fun k => k.2.ctx != ctx
    nmus := s.nmus.map fun n => (n.1, n.2.clearContext ctx)
    ctxs := FM.set s.ctxs ctx { Context.none with tearing := true, dropped := x.dropped } }

/-- TSTATE's entry fields (16 R419): ring, engine, pfx, impr, roff, wdone. -/
structure TrapInfo where
  ring : Bool
  eng : Nat
  pfx : Bool
  impr : Bool
  roff : Nat
  wdone : Bool
deriving DecidableEq, Repr

def TrapInfo.ctl (pfx : Bool) : TrapInfo := ⟨false, 0, pfx, false, 0, false⟩

def bit (b : Bool) (n : Nat) : Nat := if b then 2 ^ n else 0

/-- A set of numbers below `n` as a bit mask. -/
def maskOf (n : Nat) (f : Nat → Bool) : Nat := (List.range n).foldl (fun m i => m + bit (f i) i) 0

/-- A TSTATE value with its dz bit kept and the entry fields of a trap. -/
def tstateEntry (old : Word) (i : TrapInfo) : Word :=
  BitVec.ofNat 64 (old.toNat % 2 + bit i.ring 8 + i.eng * 2 ^ 9 + bit i.pfx 12 + bit i.impr 13 + i.roff % 8192 * 2 ^ 16 +
    bit i.wdone 30)

/-- Taking a trap in context `c` of tile `t` (16 R422, R423): one level up, the cause, address and value
recorded, the pc at the level's handler word, latches discarded, the first handler word three tc later; at level
2 the whole device context is torn down with reason 3 (16 R415). -/
def State.trap (s : State) (t c cause epc : Nat) (val : Word) (i : TrapInfo) : State :=
  let x := s.cc t c
  let n := x.tlvl + 1
  if n = 3 then
    s.tearDown (s.tile t).ctx 3 cause (originOf t 0) ((FM.get 0 x.tcause 1).toNat % 256) ((FM.get 0 x.tcause 2).toNat % 256)
  else
    s.updCc t c fun x => { x with
      tcause := FM.set x.tcause n (BitVec.ofNat 64 cause)
      tepc := FM.set x.tepc n (BitVec.ofNat 64 epc)
      tval := FM.set x.tval n val
      tstate := FM.set x.tstate n (tstateEntry (FM.get 0 x.tstate n) i)
      tlvl := n, pc := n, latch := .empty, waitFrom := none, waitDone := false, run := .running
      nextAt := (s.tile t).clk + 3 }

/-- A trap of the word at the pc: TEPC names the first word of its group (16 R422; 02 R45). -/
def State.wordTrap (s : State) (t c cause : Nat) (val : Word) : State :=
  let x := s.cc t c
  s.trap t c cause (x.latch.start.getD x.pc) val (.ctl x.latch.start.isSome)

/-- The return from a trap (16 R427), from level n to n - 1, with the next word three tc after issue. -/
def CtlCtx.tret (x : CtlCtx) (clk : Nat) : CtlCtx :=
  { x with
    tcause := FM.set x.tcause x.tlvl 0
    pc := (FM.get 0 x.tepc x.tlvl).toNat
    tlvl := x.tlvl - 1, latch := .empty, waitFrom := none, waitDone := false, nextAt := clk + 3 }

/-- Word `i` of the CIM of tile `t`, and word `i` of the ring of engine `e`. -/
def State.cimWord (s : State) (t i : Nat) : Nat := s.nat (cimBase t + 8 * i) 8
def State.ringWord (s : State) (t e i : Nat) : Nat := s.nat (spBase t + ((s.tile t).ring e).base + 8 * i) 8

/-- What a fetch of word `i` of the CIM may deliver to a context, with whether it is uncorrectable: the word as
it stands, and what stood there before a store that the context need not see, nor a later one to the word (04
R95; 16 R434). -/
def State.fetchable (s : State) (t c i : Nat) : List (Word × Bool) :=
  let T := s.tile t
  let olds := (List.zip (List.range T.cimOld.length) T.cimOld).filter fun k => k.2.idx == i
  let from' : Nat := olds.foldl (fun (m : Nat) (k : Nat × CimOld) => if (T.cc c).fresh.contains k.1 then k.1 + 1 else m) 0
  (BitVec.ofNat 64 (s.cimWord t i), setHas T.cimBad i) ::
    (olds.filter fun (k : Nat × CimOld) => decide (from' ≤ k.1)).map fun k => (k.2.w, k.2.bad)

/-- What the control-core context fetches at its pc: the word that it fetched and has not issued, else one of
those it may be given. -/
def State.ctlFetch (s : State) (t c : Nat) : Word × Bool :=
  let x := s.cc t c
  let fetch : Word × Bool :=
    match s.fetchable t c x.pc with
    | [w] => w
    | ws => ws.getD (Config.freeFetch [t, c, x.pc, (s.tile t).boundSeq, x.nextAt] % ws.length) (0, false)
  match x.fetched with
  | some (pc, at', w) => if pc = x.pc ∧ at' = x.nextAt then (w, false) else fetch
  | none => fetch

/-- The word of the control-core context at its pc. -/
def State.ctlWord (s : State) (t c : Nat) : Word := (s.ctlFetch t c).1

/-- The context keeps the word that it has fetched until it issues (04 R95). -/
def State.keepWord (s : State) (t c : Nat) : State :=
  let x := s.cc t c
  s.updCc t c fun y => { y with fetched := some (x.pc, x.nextAt, s.ctlWord t c) }

/-- The supervisor privilege of a context: trap levels 1 and 2, or the task's binding (16 R415). -/
def State.ctlSup (s : State) (t c : Nat) : Bool := decide (0 < (s.cc t c).tlvl) || (s.tile t).sup

/-- Ring capacity C, occupancy, free count (04 R113). -/
def Ring.cap (r : Ring) : Nat := r.size - r.res
def Ring.occ (r : Ring) : Nat := if r.cap = 0 then 0 else (r.tail + 2 * r.cap - r.head) % (2 * r.cap)
def Ring.free (r : Ring) : Nat := r.cap - r.occ
def Ring.slot (r : Ring) (i : Nat) : Nat := r.res + i % r.cap

/-- The engine reaches FORK slots at the head of its ring: it frees them and takes up their routine, at no cost
(04 R115). Slots of empty routines or of no routine are passed over. -/
def reachForks : Nat → Ring → Ring × Option Routine
  | 0, r => (r, none)
  | n + 1, r =>
    if r.occ = 0 then (r, none)
    else
      match r.forks.find? fun f => f.1 == r.head with
      | none => (r, none)
      | some f =>
        let r' := { r with head := (r.head + 1) % (2 * r.cap), forks := r.forks.filter fun g => g.1 != r.head }
        match r.routines[f.2.1]? with
        | some (first, len) => if len = 0 then reachForks n r' else (r', some ⟨first, first, first + len - 1, f.2.2⟩)
        | none => reachForks n r'

def State.reachFork (s : State) (t e : Nat) : State :=
  let T := s.tile t
  let x := T.engine e
  if x.routine.isSome ∨ x.again ≠ [] then s
  else
    let r := T.ring e
    let (r', q) := reachForks (r.forks.length + 1) r
    if r' = r then s
    else s.setTile t { T with rings := FM.set T.rings e r', eng := FM.set T.eng e { x with routine := q } }

/-- The word that an engine executes next: of a group to be executed again, of a routine, or of the ring. -/
def State.peek (s : State) (t e : Nat) : Option RWord :=
  let T := s.tile t
  let x := T.engine e
  match x.again with
  | w :: _ => some w
  | [] =>
    match x.routine with
    | some q => some ⟨BitVec.ofNat 64 (s.ringWord t e q.next), q.next⟩
    | none =>
      let r := T.ring e
      if r.occ = 0 then none else some ⟨BitVec.ofNat 64 (s.ringWord t e (r.slot r.head)), r.slot r.head⟩

/-- The step of a routine past its present word. -/
def Routine.advance (q : Routine) : Option Routine :=
  if q.next < q.last then some { q with next := q.next + 1 }
  else if q.reps ≤ 1 then none
  else some { q with next := q.first, reps := q.reps - 1 }

/-- The ring head, or the routine in progress, moves past one word (04 R113, R115). -/
def State.passSource (s : State) (t e : Nat) : State :=
  let T := s.tile t
  let x := T.engine e
  match x.routine with
  | some q => s.setTile t (T.setEngine e { x with routine := q.advance })
  | none =>
    let r := T.ring e
    s.setTile t { T with rings := FM.set T.rings e { r with head := (r.head + 1) % (2 * r.cap) } }

/-- Passes the present word: the head moves past it as it begins or is latched (04 R113), and the group's copy
takes it (02 R49). The last word of a group executed again moves the head only if the head still stands at it
(16 R425). -/
def State.pass (s : State) (t e : Nat) : State :=
  match s.peek t e with
  | none => s
  | some w =>
    let x := (s.tile t).engine e
    let s := s.updEng t e fun x => { x with group := if x.latch.start.isSome then x.group ++ [w] else [w] }
    match x.again with
    | _ :: ws =>
      let s := s.updEng t e fun x => { x with again := ws }
      match ws, x.fault with
      | [], some f => if f.begun then s else s.passSource t e
      | _, _ => s
    | [] => s.passSource t e

/-- Ring offset of the first word of the group in progress. -/
def State.groupOff (s : State) (t e : Nat) : Nat :=
  let x := (s.tile t).engine e
  match x.latch.start with
  | some o => o
  | none => ((s.peek t e).map (·.off)).getD 0

/-- An engine stops with a fault of the word or command whose group began at `roff` (16 R424; 02 R49; 05 R132):
its stop and pend bits rise and it keeps the group. `rest` is what it then still has to execute again. -/
def State.stopEngine (s : State) (t e cause : Nat) (tval : Word) (roff : Nat) (wdone pfx begun : Bool) (group : List RWord)
    (rest : List RWord) : State :=
  s.updEng t e fun x => { x with
    stop := true, pend := true, latch := .empty, waitFrom := none, waitDone := false, again := rest
    fault := some ⟨cause, tval, roff, wdone, pfx,
      begun || (!x.again.isEmpty && ((x.fault.map fun f => f.begun).getD false)), group⟩ }

/-- The words of a group that an engine has latched in part (02 R45). -/
def Eng.partial (x : Eng) : List RWord := if x.latch.start.isSome then x.group else []

/-- A command or access in progress faults (16 R424): the engine stops, unless it stands at an earlier fault. A
prefix latched for its next word is fetched again afterwards. -/
def State.stopUnit (s : State) (t e cause : Nat) (tval : Word) (group kept : List RWord) : State :=
  let x := (s.tile t).engine e
  if x.stop then s
  else s.stopEngine t e cause tval ((group.head?.map fun w => w.off).getD 0) true (decide (1 < group.length)) true kept
    (x.partial ++ x.again)

/-- The fault of a word at decode: it neither waits nor executes; a valid signal byte's object is poisoned (02
R49). -/
def State.decodeFault (s : State) (t e cause : Nat) : State :=
  match s.peek t e with
  | none => s
  | some w =>
    let T := s.tile t
    let x := T.engine e
    let sig := w.w.toNat / 2 ^ 48 % 256
    let pfx := x.latch.start.isSome
    let s := s.stopEngine t e cause w.w (s.groupOff t e) false pfx false (if pfx then x.group ++ [w] else [w]) (x.again.drop 1)
    if syncByteOk e sig && !T.unmapped sig then s.signalNow t e 0 (T.resolveSig sig) (some (cause, originOf t e)) else s

/-- The fault of a word in execution, after its wait and after the head passed it (05 R132; 07 R206; 08 R241; 09
R254). -/
def State.execFault (s : State) (t e cause : Nat) (tval : Word) (sig : Nat) : State :=
  let x := (s.tile t).engine e
  let roff := ((x.group.head?).map (·.off)).getD 0
  let s := s.stopEngine t e cause tval roff true (decide (1 < x.group.length)) true x.group x.again
  s.signalNow t e 0 sig (some (cause, originOf t e))

/-- The head past the present word and its latches used: the word begins (02 R44, R49). -/
def State.begin (s : State) (t e : Nat) : State :=
  let s := match s.peek t e with
    | some w => (s.updTile t fun T => T.learn e (w.w.toNat / 2 ^ 56)).pass t e
    | none => s
  s.updEng t e fun x => { x with
    latch := .empty, waitFrom := none, waitDone := false, fault := none, nextAt := (s.tile t).clk + 1 }

/-- What holds an engine's word at issue beyond its wait: a condition before it issues, or, once it has issued,
the state it is held in (05 R131, R142; 15 R403), told whether it issues in this tc. -/
structure EngChecks where
  busy : State → Nat → Bool
  hold : Bool → State → Nat → Option State

def EngChecks.none : EngChecks := ⟨fun _ _ => false, fun _ _ _ => .none⟩

/-- The word of engine `e` that has issued goes on. -/
def State.unhold (s : State) (t e : Nat) : State := s.updEng t e fun x => { x with hold := .none }

/-- A word that has issued and is held has its effect once nothing holds it. -/
def engResume (s : State) (k : EngChecks) (t e sig : Nat) (eff : Nat → Nat → State → State) : Out :=
  match k.hold false s t with
  | some s => finish s
  | none => finish (eff t sig (s.unhold t e))

/-- The issue of a word of a ring-fed engine: its handles must be mapped, its wait is tested, then what else
holds it; a poisoned wait skips it and passes the poison on (11 R304); otherwise it begins, and has its effect
unless it is held. -/
def engIssue (h : Hdr) (s : State) (k : EngChecks) (eff : Nat → Nat → State → State) : Out :=
  let t := s.curTile
  let e := s.curEng
  let T := s.tile t
  match (T.engine e).hold with
  | .issued sig _ => engResume s k t e sig eff
  | _ =>
    if T.unmapped h.wait || T.unmapped h.sig then finish (s.decodeFault t e 0x05)
    else
      match (if (T.engine e).waitDone then .pass s else s.testWait t e h.wait) with
      | .hold s => finish s
      | .poisoned s _ c o => finish ((s.begin t e).signalNow t e 0 (T.resolveSig h.sig) (some (c, o)))
      | .pass s' =>
        if k.busy s t then finish s
        else
          let sig := T.resolveSig h.sig
          let u := s'.begin t e
          match k.hold true (u.updEng t e fun x => { x with hold := .issued sig (T.engine e).latch }) t with
          | some s => finish s
          | none => finish (eff t sig u)

/-- The vector engine's pipes are taken for 4 tc by a pipe word (06 R161). -/
def Tile.pipeBusy (T : Tile) : Bool :=
  match T.lastPipe with
  | some u => decide (T.clk < u + 4)
  | none => false

/-- The control core's context moves past its word; the next issues `l` tc later. -/
def State.ctlNext (s : State) (t c l : Nat) : State :=
  s.updCc t c fun x => { x with pc := x.pc + 1, latch := .empty, waitFrom := none, waitDone := false, nextAt := (s.tile t).clk + l }

/-- What holds a control-core word's issue (`hold` with the state it is held in, 15 R403), which value checks it
makes, and which limits are fixed at decode (02 R29 check 8). -/
structure CtlChecks where
  dec : State → Nat → Nat → Option Nat
  busy : State → Nat → Nat → Bool
  hold : State → Nat → Nat → Option State
  chk : State → Nat → Nat → Option (Nat × Word)
  onTrap : State → Nat → Nat → State

def CtlChecks.none : CtlChecks := ⟨fun _ _ _ => .none, fun _ _ _ => false, fun _ _ _ => .none, fun _ _ _ => .none, fun s _ _ => s⟩

/-- A wait that was satisfied observes the stores to the CIM whose completion its object has learned of (04 R95;
log entry 13): words fetched after a later taken branch are then the new ones. -/
def State.observe (s : State) (t _c wait : Nat) : State :=
  if wait = 0 then s else s.updTile t fun T => T.learn 0 wait

/-- The wait of a control-core word. That of a word held at a not-present-stall entry is satisfied, whatever
comes to its object meanwhile (15 R403). -/
def State.ctlWait (s : State) (t c wait : Nat) : WaitRes :=
  match s.testWait t 0 wait with
  | .pass u => .pass u
  | r => if (s.cc t c).waitDone then .pass s else r

/-- The issue of a control-core word (04 R94, R120): its handle must be mapped and its decode limits met, its
wait is tested, then what else holds it; in the tc in which it issues a value check may trap, and the wait then
takes no effect; otherwise the word has its effect, with the pc still at it. The 0x05 of an unmapped handle
comes after the checks of the word's own fields (log entry 68). -/
def ctlIssue (h : Hdr) (s : State) (k : CtlChecks) (eff : Nat → Nat → Nat → State → State) : Out :=
  let t := s.curTile
  let c := s.curCtx
  let T := s.tile t
  if T.unmapped h.wait || T.unmapped h.sig then finish (s.wordTrap t c 0x05 (s.ctlWord t c))
  else
    match k.dec s t c with
    | some cause => finish (s.wordTrap t c cause (s.ctlWord t c))
    | none =>
      match s.ctlWait t c h.wait with
      | .hold s => finish s
      | .poisoned s st _ _ => finish (s.wordTrap t c 0x30 (st + BitVec.ofNat 64 (h.wait * 2 ^ 56)))
      | .pass s' =>
        if k.busy s t c then finish s
        else
          match k.hold s t c with
          | some s => finish (s.updCc t c fun x => { x with waitDone := true })
          | none =>
            match k.chk s t c with
            | some (cause, val) => finish (k.onTrap (s.wordTrap t c cause val) t c)
            | none => finish (eff t c (T.resolveSig h.sig) (s'.observe t c h.wait))

/-- The s-register `r` of context `c` as it stands; s0 reads zero (04 R93). -/
def State.sreg (s : State) (t c r : Nat) : RegV := if r = 0 then RegV.zero else FM.get RegV.zero (s.cc t c).regs r

/-- A write to s-register `r`, `l` tc from now, with flags that land with it; s0 is discarded (04 R97; 03 R82). -/
def State.putS (s : State) (t c r : Nat) (v : RegV) (l flag : Nat) : State :=
  if r = 0 ∧ flag = 0 then s else s.flyTile t l (.sreg t c r v flag)

/-- Sticky flags of engine `e` (03 R80). -/
def State.orFlags (s : State) (t e bits : Nat) : State :=
  if bits = 0 then s else s.updTile t fun T => { T with eflag := FM.set T.eflag e (FM.get 0 T.eflag e ||| bits) }

end Sys2Proof.Machine
end

