-- ==== Sys2Proof/Machine/Access.lean ====
section
/-! DEFINITION. Sys2Proof/Machine/Access.lean: capabilities and their checks (05 R129, R131), and reading and writing the memory
spaces at their executing units (12 R331). -/

namespace Sys2Proof.Machine

/-- Fields of a capability (05 R129). -/
def capBase (c : Cap) : Nat := c.toNat % 2 ^ 56
def capLen (c : Cap) : Nat := c.toNat / 2 ^ 56 % 2 ^ 40
def capPerms (c : Cap) : Nat := c.toNat / 2 ^ 96 % 4096
def capSpace (c : Cap) : Nat := c.toNat / 2 ^ 108 % 16
def capForeign (c : Cap) : Bool := c.toNat / 2 ^ 40 % 2 == 1
def capCol (c : Cap) : Nat := c.toNat / 2 ^ 36 % 16
def capRow (c : Cap) : Nat := c.toNat / 2 ^ 32 % 16

/-- Bits of the base field that hold the offset, per space. -/
def offBits (space : Nat) : Nat :=
  match space with
  | 0 => 20
  | 1 => 25
  | 5 => 17
  | _ => 56

/-- The start of the range: an offset for spaces 0, 1 and 5, a context-virtual address otherwise. -/
def capOff (c : Cap) : Nat := capBase c % 2 ^ offBits (capSpace c)

/-- What a word asks of a capability: spaces accepted from the own tile or column, whether foreign ones are,
permissions, alignment. -/
structure Need where
  spaces : List Nat
  foreign : Bool
  perms : Nat
  align : Nat

/-- The first address of a range outside a capability (05 R131 order 6). -/
def outside (base len : Nat) (a : Int) (n : Nat) : Option Int :=
  if a < base then some a
  else if (base : Int) + len < a + n then some (max a ((base : Int) + len))
  else none

/-- The size of a context's column scratch in a column (05 R136). -/
def State.scratchSize (s : State) (ctx col : Nat) : Nat :=
  let nw := FM.get 0 (s.context ctx).nw col
  (nw - (s.context ctx).bsplit) * 0x180000

/-- The column whose scratch a space-1 capability names. -/
def scratchCol (c : Cap) (t : Nat) : Nat := if capForeign c then capCol c else tileCol t

/-- Checks 2 to 7 of 05 R131 on a range of `n` bytes at `a`, for tile `t` with or without supervisor privilege:
the cause and TVAL of the first that fails. -/
def State.checkCap (s : State) (t : Nat) (sup : Bool) (c : CReg) (w : Need) (a : Int) (n : Nat) : Option (Nat × Nat) :=
  let cap := c.v
  let sp := capSpace cap
  let at' : Nat := (BitVec.ofInt 64 a).toNat
  if !c.tag then some (0x20, at')
  else if !w.spaces.contains sp || (sp == 5 && !sup) || (sp == 0 && capForeign cap && !w.foreign) then some (0x24, at')
  else if capPerms cap &&& w.perms ≠ w.perms then some (0x22, at')
  else if a % w.align ≠ 0 then some (0x23, at')
  else match outside (capOff cap) (capLen cap) a n with
    | some x => some (0x21, (BitVec.ofInt 64 x).toNat)
    | none =>
      let size := s.scratchSize (s.tile t).ctx (scratchCol cap t)
      if sp = 1 ∧ size < a.toNat + n then some (0x26, max a.toNat size) else none

/-- Check 8: the range's translation, or what holds the access. -/
def State.checkXlate (s : State) (t : Nat) (cap : Cap) (perms : Nat) (a : Int) (n : Nat) : Option Xl :=
  if 2 ≤ capSpace cap ∧ capSpace cap ≤ 4 then
    s.translateRange (s.tile t).ctx (tileCol t) a.toNat n (capSpace cap) (if perms &&& 144 = 0 then perms % 4 else 3)
  else none

/-- Checks 2 to 8 of 05 R131. -/
def State.checkRange (s : State) (t : Nat) (sup : Bool) (c : CReg) (w : Need) (a : Int) (n : Nat) : Option Xl :=
  match s.checkCap t sup c w a n with
  | some (cause, v) => some (.fault cause v)
  | none => s.checkXlate t c.v w.perms a n

/-- The way of a context's grant that holds offset `o` of its column scratch, and the global address of the
offset (05 R136). -/
def State.scratchWay (s : State) (ctx col o : Nat) : Nat := FM.get 0 (s.context ctx).nw col - 1 - o / 0x180000
def State.scratchKey (s : State) (ctx col o : Nat) : Nat := csBase ctx col (s.scratchWay ctx col o) + o % 0x180000

/-- Reads `n` bytes that lie in one granule, at the executing unit of space `sp` (12 R331), for tile `t` through
a capability whose range starts in tile or column `unit`, with the translations `xs` taken before. -/
def State.readAt (s : State) (t sp unit a n : Nat) (xs : List (Nat × Phys)) : (List Nat × Bool) × State :=
  let p? := s.physFor (s.tile t).ctx (tileCol t) sp a xs
  match sp with
  | 0 => ((s.bytes (spBase t + a) n, s.poisAt (spBase t + a)), s)
  | 5 => ((s.bytes (cimBase t + a) n, false), s)
  | 1 =>
    if s.colDisabled unit then
      let ((bs, _), s) := s.freeLine
      ((bs.take n, true), s)
    else
      let ctx := (s.tile t).ctx
      let k := s.scratchKey ctx unit a
      ((s.bytes k n, s.poisAt k || (s.col unit).wayBad ctx (s.scratchWay ctx unit a)), s)
  | 2 =>
    match p? with
    | some p =>
      let ((bs, q), s) := s.bsLine (s.tile t).ctx p a
      (((bs.drop (a % 64)).take n, q), s)
    | none => ((List.replicate n 0, false), s)
  | 3 =>
    match p? with
    | some p => ((s.bytes (hostBase + p.pa) n, false), s)
    | none => ((List.replicate n 0, false), s)
  | _ =>
    match p? with
    | some p =>
      let ((bs, q), s) := s.peerLine p.port
      (((bs.drop (a % 64)).take n, q), s)
    | none => ((List.replicate n 0, false), s)

/-- A read that is translated as it is performed. -/
def State.readUnit (s : State) (t sp unit a n : Nat) : (List Nat × Bool) × State := s.readAt t sp unit a n []

/-- A word of the CIM changed through space 5: a fetch may still hold what it replaced (04 R95). -/
def State.cimPut (s : State) (t a : Nat) (bs : List Nat) : State :=
  let i := a / 8
  let old : Word := BitVec.ofNat 64 (s.cimWord t i)
  let s := { s with mem := memPut s.mem (cimBase t + a) bs }
  s.updTile t fun T => { T with
    cimOld := T.cimOld ++ [⟨i, old, setHas T.cimBad i⟩], cimBad := T.cimBad.filter fun k => k != i }

/-- Writes bytes that lie in one granule. Nothing is written to a fenced home column (17 R442) or a failed port
(18 R453). -/
def State.writeAt (s : State) (t sp unit a : Nat) (bs : List Nat) (q : Bool) (xs : List (Nat × Phys)) : State :=
  let p? := s.physFor (s.tile t).ctx (tileCol t) sp a xs
  match sp with
  | 0 => s.putGranule (spBase t + a) bs q
  | 5 => s.cimPut t a bs
  | 1 =>
    if s.colDisabled unit then s
    else
      let k := s.scratchKey (s.tile t).ctx unit a
      let s := s.putGranule k bs q
      s.wakeLine unit k (s.bytes (k / 64 * 64) 64) (s.poisAt k)
  | 2 =>
    match p? with
    | some p => s.bsWrite (s.tile t).ctx p a bs q
    | none => s
  | 3 =>
    match p? with
    | some p => { s with mem := memPut s.mem (hostBase + p.pa) bs }
    | none => s
  | _ => s

/-- A write that is translated as it is performed. -/
def State.writeUnit (s : State) (t sp unit a : Nat) (bs : List Nat) (q : Bool) : State := s.writeAt t sp unit a bs q []

/-- The cause and origin of a write of engine `e` that a fenced home or column does not execute (17 R442; 11
R303; 01 R12). -/
def State.refusedAt (s : State) (t e sp unit a : Nat) (xs : List (Nat × Phys)) : Option (Nat × Nat) :=
  match sp with
  | 1 => if s.colDisabled unit then some (0x57, originOf t e) else none
  | 2 =>
    match s.physFor (s.tile t).ctx (tileCol t) 2 a xs with
    | some p => if s.colDisabled p.home then some (0x57, originOf t e) else none
    | none => none
  | _ => none
def State.writeRefused (s : State) (t e sp unit a : Nat) : Option (Nat × Nat) := s.refusedAt t e sp unit a []

/-- The unit that holds the poison of a granule, as an origin (11 R323): the tile's scratchpad, a column's bank
store, or the memory end where the bank store does not hold the line. -/
def State.holderOf (s : State) (t sp unit a : Nat) (xs : List (Nat × Phys)) : Nat :=
  match sp with
  | 1 => originCol unit 0
  | 2 =>
    match s.physFor (s.tile t).ctx (tileCol t) 2 a xs with
    | some p => if p.quar || ((s.line? p.home p.pa).isNone && !s.colDisabled p.home) then originMem (p.pa / 4096 % 256) else originCol p.home 0
    | none => originCol (tileCol t) 0
  | _ => originOf t 0

/-- Reads a range granule by granule: the bytes, and the poison of each granule. -/
def State.readRange (s : State) (t sp unit a n : Nat) : List (List Nat × Bool) × State :=
  (granules (n + 1) a (List.replicate n 0)).foldl (fun (o : List (List Nat × Bool) × State) g =>
    let (r, s) := o.2.readUnit t sp unit g.1 g.2.length
    (o.1 ++ [r], s)) ([], s)

/-- Writes a range granule by granule. -/
def State.writeRange (s : State) (t sp unit a : Nat) (bs : List Nat) (q : Bool) : State :=
  (granules (bs.length + 1) a bs).foldl (fun s g => s.writeUnit t sp unit g.1 g.2 q) s

end Sys2Proof.Machine
end

