-- ==== Sys2Proof/Machine/CtlAlu.lean ====
section
/-! DEFINITION. Sys2Proof/Machine/CtlAlu.lean: the integer, bit-field, compare, select and counter words of the control core (04
R104 to R108, R112): CTL opcodes 0x01 to 0x24 and 0x2B. -/

namespace Sys2Proof.Machine

/-- A control-core word that writes `v` to s[d] at issue + `l`, sends its signal then, and issues unless held
(04 R97). -/
def ctlWrite (h : Hdr) (s : State) (d l : Nat) (v : State → Nat → Nat → RegV) : Out :=
  ctlIssue h s .none fun t c sig s' => ((s'.putS t c d (v s t c) l 0).signalIn t 0 c sig l none).ctlNext t c 1

/-- Of two registers; the result is poisoned when a source is (04 R99). -/
def ctlRRR (h : Hdr) (s : State) (d a b l : Nat) (f : Word → Word → Word) : Out :=
  ctlWrite h s d l fun s t c =>
    let x := s.sreg t c a
    let y := s.sreg t c b
    ⟨f x.v y.v, x.p || y.p⟩

/-- Of one register. -/
def ctlRR (h : Hdr) (s : State) (d a l : Nat) (f : Word → Word) : Out :=
  ctlWrite h s d l fun s t c => let x := s.sreg t c a; ⟨f x.v, x.p⟩

/-- The high half of a product of integers (04 R104). -/
def mulHigh (x y : Int) : Word := BitVec.ofInt 64 (x * y / 2 ^ 64)

/-- Shifts by a count read unsigned; 64 or more shifts everything out (04 R104; 03 R69). -/
def shl64 (a b : Word) : Word := if b.toNat < 64 then a <<< b.toNat else 0
def shr64 (a b : Word) : Word := if b.toNat < 64 then a >>> b.toNat else 0
def sar64 (a b : Word) : Word := BitVec.ofInt 64 (a.toInt / 2 ^ (min b.toNat 64))
def rotr (a : Word) (n : Nat) : Word := BitVec.ofNat 64 (rotr64 a.toNat (n % 64))

def minS (a b : Word) : Word := if a.toInt ≤ b.toInt then a else b
def maxS (a b : Word) : Word := if a.toInt ≤ b.toInt then b else a
def minU (a b : Word) : Word := if a.toNat ≤ b.toNat then a else b
def maxU (a b : Word) : Word := if a.toNat ≤ b.toNat then b else a

/-- Bit counts of the `n`-bit value `v`. -/
def clzN (n v : Nat) : Nat := n - (if v = 0 then 0 else Nat.log2 v + 1)
def ctzN : Nat → Nat → Nat
  | 0, _ => 0
  | n + 1, v => if v % 2 = 1 then 0 else 1 + ctzN n (v / 2)
def popN : Nat → Nat → Nat
  | 0, _ => 0
  | n + 1, v => v % 2 + popN n (v / 2)

def w64 (n : Nat) : Word := BitVec.ofNat 64 n
def ofBool (b : Bool) : Word := if b then 1 else 0

def execAdd (h : Hdr) (d a b : Nat) (s : State) : Out := ctlRRR h s d a b 1 (· + ·)
def execSub (h : Hdr) (d a b : Nat) (s : State) : Out := ctlRRR h s d a b 1 (· - ·)
def execMul (h : Hdr) (d a b : Nat) (s : State) : Out := ctlRRR h s d a b 3 (· * ·)
def execMulh (h : Hdr) (d a b x : Nat) (s : State) : Out :=
  ctlRRR h s d a b 3 fun p q =>
    if x = 0 then mulHigh p.toInt q.toInt
    else if x = 1 then mulHigh p.toNat q.toNat
    else mulHigh p.toInt q.toNat
def execAnd (h : Hdr) (d a b : Nat) (s : State) : Out := ctlRRR h s d a b 1 (· &&& ·)
def execOr (h : Hdr) (d a b : Nat) (s : State) : Out := ctlRRR h s d a b 1 (· ||| ·)
def execXor (h : Hdr) (d a b : Nat) (s : State) : Out := ctlRRR h s d a b 1 (· ^^^ ·)
def execAndn (h : Hdr) (d a b : Nat) (s : State) : Out := ctlRRR h s d a b 1 fun p q => p &&& ~~~q
def execShl (h : Hdr) (d a b : Nat) (s : State) : Out := ctlRRR h s d a b 1 shl64
def execShr (h : Hdr) (d a b x : Nat) (s : State) : Out := ctlRRR h s d a b 1 (if x = 0 then shr64 else sar64)
def execRot (h : Hdr) (d a b : Nat) (s : State) : Out := ctlRRR h s d a b 1 fun p q => rotr p (q.toNat % 64)
def execMin (h : Hdr) (d a b x : Nat) (s : State) : Out := ctlRRR h s d a b 1 (if x = 0 then minS else minU)
def execMax (h : Hdr) (d a b x : Nat) (s : State) : Out := ctlRRR h s d a b 1 (if x = 0 then maxS else maxU)
def execClz (h : Hdr) (d a : Nat) (s : State) : Out := ctlRR h s d a 1 fun p => w64 (clzN 64 p.toNat)
def execCtz (h : Hdr) (d a : Nat) (s : State) : Out := ctlRR h s d a 1 fun p => w64 (ctzN 64 p.toNat)
def execPopc (h : Hdr) (d a : Nat) (s : State) : Out := ctlRR h s d a 1 fun p => w64 (popN 64 p.toNat)

def execAddi (h : Hdr) (d a imm : Nat) (s : State) : Out := ctlRR h s d a 1 fun p => p + w64 imm
def execMuli (h : Hdr) (d a imm : Nat) (s : State) : Out := ctlRR h s d a 3 fun p => p * w64 imm
def execAndi (h : Hdr) (d a imm : Nat) (s : State) : Out := ctlRR h s d a 1 fun p => p &&& w64 imm
def execOri (h : Hdr) (d a imm : Nat) (s : State) : Out := ctlRR h s d a 1 fun p => p ||| w64 imm
def execXori (h : Hdr) (d a imm : Nat) (s : State) : Out := ctlRR h s d a 1 fun p => p ^^^ w64 imm
def execShli (h : Hdr) (d a n : Nat) (s : State) : Out := ctlRR h s d a 1 fun p => shl64 p (w64 n)
def execShri (h : Hdr) (d a n arith : Nat) (s : State) : Out :=
  ctlRR h s d a 1 fun p => if arith = 0 then shr64 p (w64 n) else sar64 p (w64 n)
/-- LI writes a clean result (04 R99). -/
def execLi (h : Hdr) (d imm : Nat) (s : State) : Out := ctlWrite h s d 1 fun _ _ _ => ⟨w64 imm, false⟩

/-- The bits of `x` from `pos`, `width` of them, and their signed reading. -/
def field (x : Word) (pos width : Nat) : Nat := x.toNat / 2 ^ pos % 2 ^ width
def signed (n v : Nat) : Int := if v < 2 ^ (n - 1) then v else (v : Int) - 2 ^ n

/-- DIV and REM (04 R98, R106; 03 R70): the quotient or remainder, and whether the divisor is zero. -/
def divide (unsigned rem : Bool) (a b : Word) : Word :=
  if b = 0 then (if rem then a else BitVec.allOnes 64)
  else if unsigned then (if rem then w64 (a.toNat % b.toNat) else w64 (a.toNat / b.toNat))
  else if rem then BitVec.ofInt 64 (a.toInt.tmod b.toInt)
  else BitVec.ofInt 64 (a.toInt.tdiv b.toInt)

/-- The divider of a context's port is busy for the 20 tc after an issue. -/
def Tile.divFree (T : Tile) (c : Nat) : Nat := if c = 0 then T.divA else T.divB
def State.useDivider (s : State) (t c : Nat) : State :=
  s.updTile t fun T => if c = 0 then { T with divA := T.clk + 21 } else { T with divB := T.clk + 21 }

/-- TSTATE.dz of the context's present level (16 R419). -/
def State.dz (s : State) (t c : Nat) : Bool := (FM.get 0 (s.cc t c).tstate (s.cc t c).tlvl).toNat % 2 == 1

def ctlDivide (rem : Bool) (h : Hdr) (d a b x : Nat) (s : State) : Out :=
  ctlIssue h s { CtlChecks.none with
      busy := fun s t c => decide ((s.tile t).clk < (s.tile t).divFree c)
      chk := fun s t c => if (s.sreg t c b).v = 0 ∧ s.dz t c then some (0x10, (s.sreg t c a).v) else none
      onTrap := fun s t c => s.useDivider t c }
    fun t c sig s' =>
      let p := s.sreg t c a
      let q := s.sreg t c b
      let s' := s'.putS t c d ⟨divide (x == 1) rem p.v q.v, p.p || q.p⟩ 20 (if q.v = 0 then 2 else 0)
      ((s'.useDivider t c).signalIn t 0 c sig 20 none).ctlNext t c 1

def execDiv (h : Hdr) (d a b x : Nat) (s : State) : Out := ctlDivide false h d a b x s
def execRem (h : Hdr) (d a b x : Nat) (s : State) : Out := ctlDivide true h d a b x s

def execSext (h : Hdr) (d a n : Nat) (s : State) : Out :=
  ctlRR h s d a 1 fun p => BitVec.ofInt 64 (signed n (field p 0 n))
def execExt (h : Hdr) (d a pos width : Nat) (s : State) : Out := ctlRR h s d a 1 fun p => w64 (field p pos width)
def execExts (h : Hdr) (d a pos width : Nat) (s : State) : Out :=
  ctlRR h s d a 1 fun p => BitVec.ofInt 64 (signed width (field p pos width))
/-- INS reads its destination at issue (04 R107). -/
def execIns (h : Hdr) (d a pos width : Nat) (s : State) : Out :=
  ctlRRR h s d d a 1 fun old p => w64 (old.toNat - field old pos width * 2 ^ pos + field p 0 width * 2 ^ pos)
def execFsh (h : Hdr) (d a b n : Nat) (s : State) : Out :=
  ctlRRR h s d a b 1 fun p q => w64 ((p.toNat * 2 ^ 64 + q.toNat) / 2 ^ n)

/-- The conditions of CMP (04 R108). -/
def cmpHolds (cond : Nat) (a b : Word) : Bool :=
  match cond with
  | 0 => a == b
  | 1 => a != b
  | 2 => decide (a.toInt < b.toInt)
  | 3 => decide (b.toInt ≤ a.toInt)
  | 4 => decide (a.toNat < b.toNat)
  | _ => decide (b.toNat ≤ a.toNat)

def execCmp (h : Hdr) (d a b cond : Nat) (s : State) : Out := ctlRRR h s d a b 1 fun p q => ofBool (cmpHolds cond p q)
def execSeqi (h : Hdr) (d a imm : Nat) (s : State) : Out := ctlRR h s d a 1 fun p => ofBool (cmpHolds 0 p (w64 imm))
def execSlti (h : Hdr) (d a imm : Nat) (s : State) : Out := ctlRR h s d a 1 fun p => ofBool (cmpHolds 2 p (w64 imm))
def execSltui (h : Hdr) (d a imm : Nat) (s : State) : Out := ctlRR h s d a 1 fun p => ofBool (cmpHolds 4 p (w64 imm))
/-- SEL is no sink: a poisoned condition poisons the result (04 R108). -/
def execSel (h : Hdr) (d a b c : Nat) (s : State) : Out :=
  ctlWrite h s d 1 fun s t x =>
    let p := s.sreg t x a
    let q := s.sreg t x b
    let r := s.sreg t x c
    ⟨if r.v ≠ 0 then p.v else q.v, p.p || q.p || r.p⟩

/-- The counter-based generator of 04 R112. -/
def crngStep (z : Word) (n : Nat) (k : Word) : Word := (z ^^^ (z >>> n)) * k
def crng (a b : Word) : Word :=
  let z := crngStep (a + b * 0x9E3779B97F4A7C15) 30 0xBF58476D1CE4E5B9
  let z := crngStep z 27 0x94D049BB133111EB
  z ^^^ (z >>> 31)
def execCrng (h : Hdr) (d a b : Nat) (s : State) : Out := ctlRRR h s d a b 4 crng

end Sys2Proof.Machine
end

