-- ==== Sys2Proof/Machine/CtlFlow.lean ====
section
/-! DEFINITION. Sys2Proof/Machine/CtlFlow.lean: branches, calls and loops (04 R109 to R111), DONE and HEND (04 R122, R123), the
prefixes in every class (02 R41 to R46), TRAP and TRET (16 R426, R427), and the words and fetches that trap (02 R47; 04
R95; 16 R434). -/

namespace Sys2Proof.Machine

/-- Poison sinks of a word: the first register of the list that carries poison (04 R100), its number in TVAL. -/
def sinkOf (s : State) (t c : Nat) (rs : List Nat) : Option (Nat × Word) :=
  (rs.find? fun r => (s.sreg t c r).p).map fun r => (0x31, w64 r)

def sinks (rs : List Nat) : CtlChecks := { CtlChecks.none with chk := fun s t c => sinkOf s t c rs }

/-- A branch that is taken to `target`, the next word `l` tc after issue (04 R111). -/
def State.branch (s : State) (t c target l : Nat) : State :=
  (s.ctlNext t c l).updCc t c fun x => { x with
    pc := target, fresh := (s.tile t).knows (streamKey 0 c) }

/-- The link or counter write of a branch; the trap at the fetch of a target beyond the image, or of an
uncorrectable one, discards it (04 R111). -/
def State.linkS (s : State) (t c r target : Nat) (v : RegV) : State :=
  if target < (s.tile t).cimLen ∧ setHas (s.tile t).cimBad target = false then s.putS t c r v 1 0 else s

/-- The target of a BR word: its own address plus a 64-bit displacement (04 R109). -/
def brTarget (pc off : Nat) : Nat := (w64 pc + w64 off).toNat

/-- The conditions of B (04 R109). -/
def bTaken (cond : Nat) (a : Word) : Bool :=
  match cond with
  | 0 => true
  | 1 => a == 0
  | 2 => a != 0
  | 3 => decide (a.toInt < 0)
  | 4 => decide (0 ≤ a.toInt)
  | 5 => decide (0 < a.toInt)
  | _ => decide (a.toInt ≤ 0)

def execB (h : Hdr) (cond a off : Nat) (s : State) : Out :=
  ctlIssue h s (sinks (if cond = 0 then [] else [a])) fun t c sig s' =>
    let x := s.cc t c
    let s' := if bTaken cond (s.sreg t c a).v then s'.branch t c (brTarget x.pc off) 3 else s'.ctlNext t c 1
    s'.signalNow t 0 c sig none

def execJmp (h : Hdr) (a imm : Nat) (s : State) : Out :=
  ctlIssue h s (sinks [a]) fun t c sig s' =>
    (s'.branch t c ((s.sreg t c a).v + w64 imm).toNat 3).signalNow t 0 c sig none

def execCall (h : Hdr) (off : Nat) (s : State) : Out :=
  ctlIssue h s .none fun t c sig s' =>
    let x := s.cc t c
    let g := brTarget x.pc off
    ((s'.linkS t c 31 g ⟨w64 (x.pc + 1), false⟩).signalIn t 0 c sig 1 none).branch t c g 3

def execCallr (h : Hdr) (d a imm : Nat) (s : State) : Out :=
  ctlIssue h s (sinks [a]) fun t c sig s' =>
    let x := s.cc t c
    let g := ((s.sreg t c a).v + w64 imm).toNat
    ((s'.linkS t c d g ⟨w64 (x.pc + 1), false⟩).signalIn t 0 c sig 1 none).branch t c g 3

def execRet (h : Hdr) (s : State) : Out :=
  ctlIssue h s (sinks [31]) fun t c sig s' =>
    (s'.branch t c (s.sreg t c 31).v.toNat 3).signalNow t 0 c sig none

/-- LOOP decides on the value it reads at issue (04 R110). -/
def execLoop (h : Hdr) (a off : Nat) (s : State) : Out :=
  ctlIssue h s (sinks [a]) fun t c sig s' =>
    let x := s.cc t c
    let v := (s.sreg t c a).v - 1
    let g := brTarget x.pc off
    if v ≠ 0 then ((s'.linkS t c a g ⟨v, false⟩).signalIn t 0 c sig 1 none).branch t c g 1
    else ((s'.putS t c a ⟨v, false⟩ 1 0).signalIn t 0 c sig 1 none).ctlNext t c 1

/-- DONE performs its wait and stops issue of context 0; the tile reports once everything is at rest (04 R122). -/
def execDone (h : Hdr) (s : State) : Out :=
  ctlIssue h s .none fun t c _ s' => s'.updCc t c fun x => { x with run := .inDone, waitFrom := none, waitDone := false }

/-- The context after HEND: registers, poison and latches cleared, dormant (04 R123). -/
def CtlCtx.ended (x : CtlCtx) : CtlCtx := { CtlCtx.dormant with tcause := x.tcause, tepc := x.tepc, tval := x.tval, tstate := x.tstate }

/-- The tc in which the last pending write of a context lands. -/
def State.lastWrite (s : State) (t c : Nat) : Nat :=
  s.flights.foldl (fun m f => match f.fl with
    | .sreg u d _ _ _ => if u = t ∧ d = c then max m f.due else m
    | _ => m) (s.tile t).clk

def State.finishHend (s : State) (t c sig : Nat) : State :=
  (s.signalNow t 0 c sig none).updCc t c CtlCtx.ended

def execHend (h : Hdr) (s : State) : Out :=
  ctlIssue h s .none fun t c sig s' =>
    let due := s.lastWrite t c
    if due ≤ (s.tile t).clk then s'.finishHend t c sig
    else (s'.updCc t c fun x => { x with run := .inHend, waitFrom := none, waitDone := false }).fly (.tile t) due (.hend t c sig)

/-- A prefix word (02 R41): its own faults report its own address (R44). -/
def isPrefix (w : Word) : Bool := decide (0xFC ≤ w.toNat / 2 ^ 40 % 256) && decide (w.toNat / 2 ^ 40 % 256 ≤ 0xFE)

/-- The fault of a prefix word in context `c`, and in engine `e`: the latches are discarded and the prefix
itself is reported (02 R44); a valid signal byte's object is poisoned (R49). -/
def State.prefixTrap (s : State) (t c cause : Nat) : State := s.trap t c cause (s.cc t c).pc (s.ctlWord t c) (.ctl false)
def State.prefixFault (s : State) (t e cause : Nat) : State :=
  match s.peek t e with
  | none => s
  | some w =>
    let T := s.tile t
    let sig := w.w.toNat / 2 ^ 48 % 256
    let s := s.stopEngine t e cause w.w w.off false false false [w] ((T.engine e).again.drop 1)
    if syncByteOk e sig && !T.unmapped sig then s.signalNow t e 0 (T.resolveSig sig) (some (cause, originOf t e)) else s

/-- A prefix word: latched in an issue tc of its own; one of a kind already latched raises 0x06 at itself and
discards the latches (02 R44). -/
def latchPrefix (s : State) (dup : Latch → Bool) (put : Latch → Latch) : Out :=
  match s.cur with
  | .ctl t c =>
    let x := s.cc t c
    if dup x.latch then .next (s.prefixTrap t c 0x06)
    else
      .next (s.updCc t c fun x => { x with
        latch := { put x.latch with start := some (x.latch.start.getD x.pc) }
        pc := x.pc + 1, waitFrom := none, waitDone := false, nextAt := (s.tile t).clk + 1 })
  | _ =>
    let t := s.curTile
    let e := s.curEng
    let x := (s.tile t).engine e
    match s.peek t e with
    | none => .next s
    | some w =>
      if dup x.latch then .next (s.prefixFault t e 0x06)
      else
        let s := s.pass t e
        .next (s.updEng t e fun x => { x with
          latch := { put x.latch with start := some (x.latch.start.getD w.off) }
          nextAt := (s.tile t).clk + 1 })

def execImx (_h : Hdr) (ext : Nat) (s : State) : Out :=
  latchPrefix s (fun l => l.imx.isSome) fun l => { l with imx := some ext }
def execScp (_h : Hdr) (scope order : Nat) (s : State) : Out :=
  latchPrefix s (fun l => l.scp.isSome) fun l => { l with scp := some (scope + 4 * order) }
def execPmt (_h : Hdr) (sink clear : Nat) (s : State) : Out :=
  latchPrefix s (fun l => l.pmt.isSome) fun l => { l with pmt := some (sink + 2 * clear) }

/-- TRAP takes a trap with a code of the program's (16 R426), once its wait is satisfied, with the source's
value in TVAL and its poison bit dropped. The trapping word sends no signal and its wait decrements nothing
(R423). -/
def execTrap (h : Hdr) (v code : Nat) (s : State) : Out :=
  ctlIssue h s .none fun t c _ _ => s.wordTrap t c code (s.sreg t c v).v

/-- TRET (16 R427); level 0 raises 0x09. -/
def execTret (h : Hdr) (s : State) : Out :=
  ctlIssue h s { CtlChecks.none with dec := fun s t c => if (s.cc t c).tlvl = 0 then some 0x09 else none }
    fun t c sig s' => ((s'.updCc t c fun x => x.tret (s.tile t).clk).signalNow t 0 c sig none)

/-- A fault of decode: a trap in the control core, a stop in a ring-fed engine (02 R49). -/
def State.decodeCause (s : State) (cause : Nat) : State :=
  match s.cur with
  | .ctl t c => if isPrefix (s.ctlWord t c) then s.prefixTrap t c cause else s.wordTrap t c cause (s.ctlWord t c)
  | .ring t e =>
    if (s.peek t e).any fun w => isPrefix w.w then s.prefixFault t e cause else s.decodeFault t e cause
  | _ => s

/-- The all-zero word raises 0x01, an unassigned opcode 0x02 (02 R47). -/
def execWordNotAnInstruction (w : Nat) (s : State) : Out := finish (s.decodeCause (if w = 0 then 0x01 else 0x02))

/-- A fetch at or beyond CIMLEN: 0x0A, TEPC and TVAL both the program counter, latches discarded (04 R95; 16 R422). -/
def execFetchBeyondCimImage (t ctx : Nat) (s : State) : Out :=
  let pc := (s.cc t ctx).pc
  finish (s.trap t ctx 0x0A pc (w64 pc) (.ctl false))

/-- A log entry of a tile (16 R435): 16 are kept, the newest first. -/
def logWord (cause origin part check replays verdict place : Nat) : Word :=
  w64 (cause + origin * 2 ^ 8 + part * 2 ^ 24 + check * 2 ^ 27 + replays * 2 ^ 29 + verdict * 2 ^ 31 + place * 2 ^ 33)
def State.logError (s : State) (t : Nat) (w0 : Word) : State :=
  s.updTile t fun T => { T with
    log := (⟨w0, w64 T.clk⟩ :: T.log).take 16
    logCount := min (T.logCount + 1) (2 ^ 32 - 1) }

/-- A fetch that meets an uncorrectable CIM word: 0x14, the word not executed (16 R434), and an entry in the
log, not tested (R435). -/
def execCimUncorrectableFetch (t ctx : Nat) (s : State) : Out :=
  let pc := (s.cc t ctx).pc
  let s := s.logError t (logWord 0x14 (originOf t 0) 0 2 0 3 pc)
  finish (s.trap t ctx 0x14 pc (w64 pc) (.ctl false))

end Sys2Proof.Machine
end

