-- ==== Sys2Proof/Machine/CtlSync.lean ====
section
/-! DEFINITION. Sys2Proof/Machine/CtlSync.lean: command rings (04 R113 to R117), synchronisation objects (04 R118, R119; 11 R309 to
R321), matrix table writes (04 R121), system registers (04 R101 to R103; 16 R417 to R421), CWPOST (11 R316) and the control core's
FENCE (12 R334): CTL opcodes 0x2C to 0x35 and 0x38 to 0x3D. -/

namespace Sys2Proof.Machine

/-- A control-core word that writes no s-register and whose effect `fl` lands at issue + 1, its signal then (04
R97). -/
def ctlLater (h : Hdr) (s : State) (k : CtlChecks) (fl : State → Nat → Nat → Fl) : Out :=
  ctlIssue h s k fun t c sig s' => ((s'.flyTile t 1 (fl s t c)).signalIn t 0 c sig 1 none).ctlNext t c 1

/-- Context 0's ring words: the ring must be declared and hold the words at all (04 R113, R114). -/
def ringChecks (eng need : Nat) (rs : List Nat) : CtlChecks :=
  { CtlChecks.none with
    dec := fun s t _ => if ((s.tile t).ring eng).size = 0 ∨ ((s.tile t).ring eng).cap < need then some 0x09 else none
    busy := fun s t _ => decide (((s.tile t).ring eng).free < need)
    chk := fun s t c => sinkOf s t c rs }

/-- RINGP of one or two words (04 R114). -/
def ringPush (h : Hdr) (d : Nat) (rs : List Nat) (eng : Nat) (s : State) : Out :=
  ctlIssue h s (ringChecks eng rs.length rs) fun t c sig s' =>
    let free := ((s.tile t).ring eng).free - rs.length
    let s' := s'.flyTile t 1 (.ringw t eng (rs.map fun r => (s.sreg t c r).v))
    ((s'.signalIn t 0 c sig 1 none).putS t c d ⟨w64 free, false⟩ 2 0).ctlNext t c 1

def execRingp (h : Hdr) (d a eng : Nat) (s : State) : Out := ringPush h d [a] eng s
def execRingp2 (h : Hdr) (d a b eng : Nat) (s : State) : Out := ringPush h d [a, b] eng s

/-- FORK (04 R115): a routine of the ring, `cnt` + 1 times. -/
def execFork (h : Hdr) (eng routine cnt : Nat) (s : State) : Out :=
  let k := ringChecks eng 1 []
  ctlLater h s { k with
      dec := fun s t c => if ((s.tile t).ring eng).routines.length ≤ routine then some 0x09 else k.dec s t c }
    fun _ t _ => .ringFork t eng routine (cnt + 1)

/-- Landing of pushed words: they are written at the tail (04 R113). -/
def State.pushRing (s : State) (t e : Nat) (ws : List Word) : State :=
  ws.foldl (fun s w =>
    let r := (s.tile t).ring e
    let s := s.put (spBase t + r.base + 8 * r.slot r.tail) (bytesOfBv 8 w) false
    s.updTile t fun T => { T with rings := FM.set T.rings e { r with tail := (r.tail + 1) % (2 * r.cap) } }) s

def State.pushFork (s : State) (t e routine count : Nat) : State :=
  s.updTile t fun T =>
    let r := T.ring e
    let r' := { r with forks := r.forks ++ [(r.tail, routine, count)], tail := (r.tail + 1) % (2 * r.cap) }
    { T with rings := FM.set T.rings e r' }

/-- The engine has a word in progress: a hold, a group to execute again, a routine, an access, command,
calibration word, write or signal not complete, a push that waits, an arrival on its way (04 R117; 02 R32; 19
R462). -/
def State.engBusy (s : State) (t e : Nat) : Bool :=
  let T := s.tile t
  let x := T.engine e
  x.hold != .none || !x.again.isEmpty || x.routine.isSome || (T.pushes.any fun p => p.stream == streamOf e 0) ||
  (match e with
   | 1 => s.flights.any fun f => match f.fl with
       | .access a => a.t == t
       | .put p => p.t == t
       | _ => false
   | 2 => false
   | 3 => T.mcmd.isSome
   | 4 => !T.xcmds.isEmpty || !T.xcal.isEmpty
   | _ => !T.ccmds.isEmpty) ||
  s.flights.any fun f => f.fl.arrivalOf t e || (match f.fl.issuer? with
    | some (u, d, _) => u == t && d == e
    | none => false)

/-- Idle: no word in progress and the ring empty. -/
def State.engIdle (s : State) (t e : Nat) : Bool := !s.engBusy t e && ((s.tile t).ring e).occ == 0

/-- The state of a ring as RINGQ reads it (04 R117). -/
def State.ringState (s : State) (t e : Nat) : Word :=
  let r := (s.tile t).ring e
  w64 (r.head % r.cap + r.tail % r.cap * 2 ^ 16 + r.free * 2 ^ 32 + bit (s.engIdle t e) 48 + bit ((s.tile t).engine e).stop 49)

def execRingq (h : Hdr) (d eng : Nat) (s : State) : Out :=
  ctlIssue h s { CtlChecks.none with dec := (ringChecks eng 0 []).dec } fun t c sig s' =>
    ((s'.putS t c d ⟨s.ringState t eng, false⟩ 2 0).signalIn t 0 c sig 2 none).ctlNext t c 1

def execSemset (h : Hdr) (n v : Nat) (s : State) : Out := ctlLater h s .none fun _ t c => .semset t c n v

/-- A word that reads an object once its own wait has been performed (02 R32): the value reaches s[d] at issue +
3 (04 R118). -/
def ctlSample (h : Hdr) (s : State) (d : Nat) (v : Tile → Word) : Out :=
  ctlIssue h s .none fun t c sig s' => ((s'.putS t c d ⟨v (s'.tile t), false⟩ 3 0).signalIn t 0 c sig 3 none).ctlNext t c 1

def execSemrd (h : Hdr) (n d : Nat) (s : State) : Out :=
  ctlSample h s d fun T => statusWord (T.semOf n).count (T.semOf n).pois

def execTokrd (h : Hdr) (prod cons d : Nat) (s : State) : Out :=
  ctlSample h s d fun T => statusWord (T.tqOf (tqIndex prod cons)).count (T.tqOf (tqIndex prod cons)).pois

def execBhmap (h : Hdr) (slot n : Nat) (s : State) : Out := ctlLater h s .none fun _ t _ => .bhmap t n slot

def execMtwr (h : Hdr) (level field a : Nat) (s : State) : Out :=
  ctlLater h s (sinks [a]) fun s t c => .mtwr t level field (s.sreg t c a).v

/-- System registers of supervisor privilege (16 R417). -/
def sysSup (reg : Nat) : Bool := decide (0x82 ≤ reg) && decide (reg ≤ 0x8A)

def sysChecks (reg : Nat) : CtlChecks :=
  { CtlChecks.none with dec := fun s t c => if sysSup reg && !s.ctlSup t c then some 0x08 else none }

/-- TSTATE of a level with its sup bit (16 R419). -/
def State.tstate (s : State) (t c n : Nat) : Word :=
  FM.get 0 (s.cc t c).tstate n ||| (if decide (0 < n) || (s.tile t).sup then 2 else 0)

/-- The handler contexts that run, as HSTAT's busy bits (04 R102). -/
def Tile.handlersBusy (T : Tile) : Nat :=
  bit ((T.cc 1).run != .dormant) 1 + bit ((T.cc 2).run != .dormant) 2 + bit ((T.cc 3).run != .dormant) 3

/-- The EFLT register (16 R421). -/
def Tile.eflt (T : Tile) : Nat :=
  ((List.range 6).map fun e => bit ((T.engine e).stop && decide (0 < e)) e + bit ((T.engine e).pend && decide (0 < e)) (24 + e)).foldl
    (· + ·) 0

/-- A system register as a SYSRD of context `c` reads it (04 R102; 06 R160; 16 R417). -/
def State.sysreg (s : State) (t c reg : Nat) : RegV :=
  let T := s.tile t
  let x := T.cc c
  let clean (w : Word) : RegV := ⟨w, false⟩
  if 0x100 ≤ reg then FM.get RegV.zero T.aregs (reg - 0x100)
  else if 0x90 ≤ reg ∧ reg < 0x96 then
    let k := FM.get 0 T.tsa ((reg - 0x90) / 2)
    clean (w64 (if reg % 2 = 0 then k.toNat % 2 ^ 64 else k.toNat / 2 ^ 64))
  else if 0x10 ≤ reg ∧ reg ≤ 0x15 then clean (w64 (FM.get 0 T.eflag (reg - 0x10)))
  else match reg with
    | 0 => clean (w64 (T.row + tileCol t * 16 + T.site * 256))
    | 1 => clean (w64 (T.ctx + c * 16 + bit (s.ctlSup t c) 6))
    | 2 => clean (w64 T.clk)
    | 3 => clean (w64 T.cimLen)
    | 4 => clean (w64 s.sys.defsig)
    | 8 => clean (w64 T.hctl)
    | 9 => clean (w64 (T.handlersBusy + T.hq.length * 16 + bit (T.hq.length == 8) 8))
    | 0x18 => clean (w64 (T.rotN / 8 + T.rotM / 4 * 2 ^ 7 + T.vbase * 2 ^ 16 + T.mbase * 2 ^ 27 + T.vlc * 2 ^ 32))
    | 0x80 => clean (w64 x.tlvl)
    | 0x81 => clean (s.tstate t c 0)
    | 0x82 => clean (FM.get 0 x.tcause 1)
    | 0x83 => clean (FM.get 0 x.tepc 1)
    | 0x84 => clean (FM.get 0 x.tval 1)
    | 0x85 => clean (s.tstate t c 1)
    | 0x86 => clean (FM.get 0 x.tcause 2)
    | 0x87 => clean (FM.get 0 x.tepc 2)
    | 0x88 => clean (FM.get 0 x.tval 2)
    | 0x89 => clean (s.tstate t c 2)
    | 0x8A => clean (w64 T.eflt)
    | 0x96 => clean (w64 T.tsatag)
    | _ => clean 0

def execSysrd (h : Hdr) (d reg : Nat) (s : State) : Out :=
  ctlIssue h s (sysChecks reg) fun t c sig s' =>
    ((s'.putS t c d (s.sysreg t c reg) 2 0).signalIn t 0 c sig 2 none).ctlNext t c 1

/-- SYSWR (04 R101): the sink is waived for the windows onto a-registers (04 R100). -/
def execSyswr (h : Hdr) (a reg : Nat) (s : State) : Out :=
  ctlLater h s { sysChecks reg with chk := fun s t c => if 0x100 ≤ reg then none else sinkOf s t c [a] }
    fun s t c => .sysw t c reg (s.sreg t c a).v (s.sreg t c a).p

/-- A TSTATE write reaches dz alone (16 R419). -/
def tstatePut (old v : Word) : Word := (old &&& ~~~1) ||| (v &&& 1)

/-- The landing of a SYSWR (04 R101): writes to read-only fields are ignored. rst and skip of EFLT act one tc
later (16 R425). -/
def State.sysPut (s : State) (t c reg : Nat) (v : Word) (p : Bool) : State :=
  let T := s.tile t
  let x := T.cc c
  let setX (y : CtlCtx) : State := s.setTile t (T.setCc c y)
  if 0x100 ≤ reg then s.setTile t { T with aregs := FM.set T.aregs (reg - 0x100) ⟨v, p⟩ }
  else if 0x10 ≤ reg ∧ reg ≤ 0x15 then
    let old := FM.get 0 T.eflag (reg - 0x10)
    s.setTile t { T with eflag := FM.set T.eflag (reg - 0x10) (old - (old &&& v.toNat)) }
  else match reg with
    | 8 => s.setTile t { T with hctl := v.toNat / 2 % 8 * 2 }
    | 0x81 => setX { x with tstate := FM.set x.tstate 0 (tstatePut (FM.get 0 x.tstate 0) v) }
    | 0x83 => setX { x with tepc := FM.set x.tepc 1 v }
    | 0x84 => setX { x with tval := FM.set x.tval 1 v }
    | 0x85 => setX { x with tstate := FM.set x.tstate 1 (tstatePut (FM.get 0 x.tstate 1) v) }
    | 0x87 => setX { x with tepc := FM.set x.tepc 2 v }
    | 0x88 => setX { x with tval := FM.set x.tval 2 v }
    | 0x89 => setX { x with tstate := FM.set x.tstate 2 (tstatePut (FM.get 0 x.tstate 2) v) }
    | 0x8A => [1, 2, 3, 4, 5].foldl (fun s e =>
        let y := (s.tile t).engine e
        if y.stop && !y.pend && (v.toNat / 2 ^ (8 + e) % 2 == 1 || v.toNat / 2 ^ (16 + e) % 2 == 1) then
          s.flyTile t 1 (.eflt t e (v.toNat / 2 ^ (16 + e) % 2))
        else s) s
    | _ => s

/-- Holds an access at a not-present-stall entry: its record is written and the column's wire raised (15 R402,
R403). -/
def State.holdAccess (s : State) (col : Nat) (w : HeldWhat) (ctx va kind origin entry : Nat) : State :=
  if (s.col col).held.any fun h => h.what == w then s
  else
    let s := s.updCol col fun C => { C with
      held := C.held ++ [⟨w, ctx, entKind (FM.get 0 C.entries entry) + 2, va, kind, origin, entry, none⟩], heldState := true, holders := setAdd C.holders 0 }
    s.hostRecord (.of 1 ctx col kind origin entry va 0)

/-- What translation says of a control-core word's range: it may go on, traps, or is held before its issue. -/
def State.ctlXlate (s : State) (t va len space need : Nat) : Option Xl :=
  s.translateRange (s.tile t).ctx (tileCol t) va len space need

/-- An object that a word names (11 R318): a handle resolves to its slot at issue. -/
inductive Obj where
  | sem (n : Nat)
  | tq (q : Nat)
  | slot (n : Nat)
  | dq (col n : Nat)
  | cw (n : Nat)
deriving DecidableEq, Repr

def Tile.object (T : Tile) (t kind col foreign idx : Nat) : Obj :=
  match kind with
  | 0 => .sem idx
  | 1 => .tq idx
  | 2 => .slot idx
  | 3 => .slot (FM.get 0 T.bh idx)
  | 4 => .dq (if foreign = 1 then col else tileCol t) idx
  | _ => .cw idx

/-- Limits and checks of SYNRD, SCRUB and POISON: an unmapped handle 0x09 at decode; a deque of another context,
a completion word that does not translate (11 R318, R316). A word on a deque of a disabled column does not
execute, and its signal is poisoned (01 R12). -/
def objChecks (kind col foreign idx need : Nat) : CtlChecks :=
  { CtlChecks.none with
    dec := fun s t _ => if kind = 3 ∧ (FM.find? (s.tile t).bh idx).isNone then some 0x09 else none
    chk := fun s t c =>
      match (s.tile t).object t kind col foreign idx with
      | .dq dc n =>
        if s.colDisabled dc then none
        else match FM.find? (s.col dc).deques n with
          | some d => if d.ctx = (s.tile t).ctx then none else some (0x35, s.ctlWord t c)
          | none => some (0x35, s.ctlWord t c)
      | .cw n =>
        match s.ctlXlate t ((s.context (s.tile t).ctx).cwBlock + 16 * n) 16 2 need with
        | some (.fault cause va) => some (cause, w64 va)
        | _ => none
      | _ => none }

/-- Whether a completion word's access is held at a not-present-stall entry, and the state that holds it. -/
def State.cwHeld (s : State) (t c n kind : Nat) : Option State :=
  let va := (s.context (s.tile t).ctx).cwBlock + 16 * n
  match s.ctlXlate t va 16 2 (if kind = 0 then 1 else 2) with
  | some (.held i va') => some (s.holdAccess (tileCol t) (.ctl t c) (s.tile t).ctx va' kind (originOf t 0) i)
  | _ => none

/-- The issue of a word on an object: a completion word is held where its block's entry says so (15 R403). -/
def objIssue (h : Hdr) (s : State) (kind col foreign idx need : Nat) (k : CtlChecks) (eff : Nat → Nat → Nat → Obj → State → State) :
    Out :=
  let o := objChecks kind col foreign idx need
  ctlIssue h s { k with
      dec := o.dec
      hold := fun s t c => if kind = 5 then s.cwHeld t c idx (need - 1) else none
      chk := fun s t c => match k.chk s t c with | some r => some r | none => o.chk s t c }
    fun t c sig s' => eff t c sig ((s.tile t).object t kind col foreign idx) s'

/-- A word that holds its context for another unit (14 R391): the pc is past it, the context issues no later
word until the answer lands. -/
def State.await (s : State) (t c dst sig op l : Nat) (vs : List Nat) : State :=
  let r : Remote := ⟨dst, sig, op⟩
  (s.ctlNext t c 1).updCc t c (fun x => { x with rmt := some r }) |>.flyDev l (.remote t c r vs)

/-- A word whose effect another unit performs after issue, with its signal then; the context goes on. -/
def State.post (s : State) (t c sig op l : Nat) (vs : List Nat) : State :=
  (s.ctlNext t c 1).flyDev l (.remote t c ⟨0, sig, op⟩ vs)

/-- A word whose later reads wait for it, under sequentially consistent order (12 R332, R333), holds its context
until its effect is complete. -/
def State.holdSc (s : State) (t c sig op order : Nat) : State :=
  if order = 4 then s.updCc t c fun x => { x with rmt := some ⟨0, sig, op⟩ } else s

/-- A latency of at least `base` that the spec does not bound (log entry 8). -/
def State.atLeast (s : State) (base : Nat) : Nat × State := (base + (takeFree s).1, (takeFree s).2)

/-- SYNRD (11 R319). Views of a deque, a wider barrier slot or a completion word come from the holder, which
holds the context. -/
def execSynrd (h : Hdr) (d cfg kind col foreign idx : Nat) (s : State) : Out :=
  objIssue h s kind col foreign idx 1 .none fun t c sig o s' =>
    let T := s'.tile t
    let answer (w : Word) (s : State) : State := ((s.putS t c d ⟨w, false⟩ 3 0).signalIn t 0 c sig 3 none).ctlNext t c 1
    match o with
    | .sem n => answer (statusWord (T.semOf n).count (T.semOf n).pois) s'
    | .tq q => answer (statusWord (T.tqOf q).count (T.tqOf q).pois) s'
    | .slot n =>
      let b := T.barOf n
      if cfg = 1 then
        answer (w64 (b.target + b.scope * 2 ^ 16 + b.home * 2 ^ 18 + bit b.init 22 + b.gen * 2 ^ 32)) s'
      else if b.scope = 0 then answer (statusWord b.count b.pois) s'
      else
        let (l, s') := s'.fabricTime (b.scope == 1) 48 160
        s'.await t c d sig 0x38 l [2, b.homeCol t, homeKey T.ctx n, cfg]
    | .dq dc n =>
      let (l, s') := s'.atLeast 36
      s'.await t c d sig 0x38 l [4, dc, n, cfg]
    | .cw n =>
      let (l, s') := s'.atLeast 36
      s'.await t c d sig 0x38 l [5, 0, n, cfg]

/-- The value that SYNRD's holder gives. -/
def State.synValue (s : State) (t : Nat) (vs : List Nat) : Word × State :=
  let col := vs.getD 1 0
  let n := vs.getD 2 0
  let cfg := vs.getD 3 0
  match vs.getD 0 0 with
  | 2 =>
    match FM.find? (s.col col).homes n with
    | some r => (statusWord r.slot.count r.slot.pois, s)
    | none => (0, s)
  | 4 =>
    match FM.find? (s.col col).deques n with
    | some d => (if cfg = 1 then w64 (d.cap + d.row * 2 ^ 16) else statusWord d.ents.length d.pois, s)
    | none => (0, s)
  | _ =>
    let x := s.context (s.tile t).ctx
    match s.devGet (s.tile t).ctx (tileCol t) (x.cwBlock + 16 * n) 16 with
    | (some (bs, _), s) => (w64 (leNat (if cfg = 1 then bs.take 8 else bs.drop 8)), s)
    | (none, s) => (0, s)

/-- SCRUB (11 R321): it needs PMT's clear, else 0x36. Operation codes of wider objects: 0x39 and 0x139 with rst. -/
def execScrub (h : Hdr) (kind col foreign idx rst : Nat) (s : State) : Out :=
  objIssue h s kind col foreign idx 2
      { CtlChecks.none with chk := fun s t c => if h.pmt = some 2 then none else some (0x36, s.ctlWord t c) }
    fun t c sig o s' =>
      let here (k i : Nat) : State := ((s'.flyTile t 1 (.scrub t c k i (rst == 1))).signalIn t 0 c sig 1 none).ctlNext t c 1
      match o with
      | .sem n => here 0 n
      | .tq q => here 1 q
      | .slot n =>
        let b := (s.tile t).barOf n
        if b.scope = 0 then here 2 n
        else (s'.ctlNext t c 1).sendHome t n (3 + rst) 0 0 none sig c b.scope
      | .dq dc n =>
        let (l, s') := takeIn 1 160 s'
        s'.post t c sig 0x39 l [4, dc, n, rst]
      | .cw n =>
        let (l, s') := s'.atLeast 36
        s'.post t c sig 0x39 l [5, 0, n, rst]

/-- The order and scope of a prefix: the fields of SCP, or the defaults (12 R329, R330). -/
def scpScope (h : Hdr) (dflt : Nat) : Nat := max dflt ((h.scp.map (· % 4)).getD dflt)
def scpOrder (h : Hdr) (dflt : Nat) : Nat := (h.scp.map (· / 4)).getD dflt

/-- The flights that are effects of a control-core context not yet complete (12 R334). -/
def Fl.ctlEffect (t c : Nat) : Fl → Bool
  | .signal u e _ x _ => u == t && e == 0 && x == c
  | .semset u x .. => u == t && x == c
  | .binit u x .. => u == t && x == c
  | .poison u x .. => u == t && x == c
  | .scrub u x .. => u == t && x == c
  | .sysw u x reg .. => u == t && x == c && decide (0x100 ≤ reg)
  | .ringw u .. => u == t && c == 0
  | .ringFork u .. => u == t && c == 0
  | .home u _ what a _ _ _ x => u == t && x == c && (what != 0 || a == 0)
  | .remote u x .. => u == t && x == c
  | .launch u .. => u == t && c == 0
  | _ => false

/-- Every effect of the context numbered below `id` is complete. -/
def State.ctlDrained (s : State) (t c id : Nat) : Bool :=
  !(s.flights.any fun f => f.fl.ctlEffect t c && decide (f.id < id)) && !((s.tile t).pushes.any fun p => p.stream == c)

/-- POISON (11 R320). With release order it waits for the earlier effects of its context (12 R332), and at
system scope it writes back first (12 R343). -/
def execPoison (h : Hdr) (kind col foreign idx cause : Nat) (s : State) : Out :=
  let order := scpOrder h 0
  objIssue h s kind col foreign idx 2 { CtlChecks.none with busy := fun s t c => decide (2 ≤ order) && !s.ctlDrained t c s.nextId }
    fun t c sig o s' =>
    let s' := if 2 ≤ order ∧ scpScope h 0 = 3 then s'.releaseSystem (s.tile t).ctx else s'
    let here (k i : Nat) : State := ((s'.flyTile t 1 (.poison t c k i cause)).signalIn t 0 c sig 1 none).ctlNext t c 1
    match o with
    | .sem n => here 0 n
    | .tq q => here 1 q
    | .slot n =>
      let b := (s.tile t).barOf n
      if b.scope = 0 then here 2 n
      else ((s'.ctlNext t c 1).sendHome t n 2 cause 0 none sig c b.scope).holdSc t c sig 0x3A order
    | .dq dc n =>
      let (l, s') := takeIn 1 160 s'
      (s'.post t c sig 0x3A l [4, dc, n, cause]).holdSc t c sig 0x3A order
    | .cw n =>
      let (l, s') := s'.atLeast 36
      (s'.post t c sig 0x3A l [5, 0, n, cause]).holdSc t c sig 0x3A order

/-- BINIT at tile scope takes effect at issue + 1 (11 R310). -/
def execBinitTile (h : Hdr) (slot target : Nat) (s : State) : Out := ctlLater h s .none fun _ t c => .binit t c slot 0 0 target

/-- BINIT at a wider scope goes to the home record (11 R313); what 1, with scope, home column and target. -/
def binitWide (h : Hdr) (slot scope home target : Nat) (s : State) : Out :=
  ctlIssue h s .none fun t c sig s' =>
    (s'.ctlNext t c 1).sendHome t slot 1 (scope + 4 * home) target none sig c scope

def execBinitCol (h : Hdr) (slot target : Nat) (s : State) : Out := binitWide h slot 1 0 target s
def execBinitDev (h : Hdr) (slot target home : Nat) (s : State) : Out := binitWide h slot 2 home target s

/-- CWPOST (11 R316): the value, the status and the translation are those at issue; the write follows at system
scope. -/
def execCwpost (h : Hdr) (n a : Nat) (s : State) : Out :=
  objIssue h s 5 0 0 n 2 .none fun t c sig _ s' =>
    let r := s.sreg t c a
    let st := if r.p then statusWord 0 ⟨true, 0x37, originOf t 0⟩ else 0
    let (l, s') := takeIn 1 260 s'
    let p := match s.translate (s.tile t).ctx (tileCol t) ((s.context (s.tile t).ctx).cwBlock + 16 * n) 2 2 with
      | .ok p => p.nums
      | _ => []
    (s'.post t c sig 0x3C l ([n, r.v.toNat, st.toNat, scpOrder h 2] ++ p)).holdSc t c sig 0x3C (scpOrder h 2)

/-- FENCE of the control core (12 R334): its release side holds until the context's earlier effects are
complete; its reads hold their context anyway. At system scope it writes back (12 R343). -/
def execCtlFence (h : Hdr) (s : State) : Out :=
  let order := scpOrder h 4
  let release := decide (2 ≤ order)
  ctlIssue h s { CtlChecks.none with busy := fun s t c => release && !s.ctlDrained t c s.nextId } fun t c sig s' =>
    let s' := if release && scpScope h 0 == 3 then s'.releaseSystem (s.tile t).ctx else s'
    (s'.ctlNext t c 1).signalNow t 0 c sig none

end Sys2Proof.Machine
end

