-- ==== Sys2Proof/Machine/CtlSys.lean ====
section
/-! DEFINITION. Sys2Proof/Machine/CtlSys.lean: bank-store words (05 R137, R138), LAUNCH and the words that stop, save and kill (14
R379, R384 to R394), translation words (15 R404 to R412), TSPILL and TFILL (16 R428), STEST and ERRRD (16 R436, R437): CTL opcodes
0x3E to 0x4E and 0x51 to 0x54. The effects that another unit performs are in `remoteDone` of Land.lean. -/

namespace Sys2Proof.Machine

/-- Columns in which a context holds tiles. -/
def Context.columns (x : Context) : List Nat := (List.range 16).filter fun c => x.grant / 2 ^ (11 * c) % 2048 != 0

/-- Columns in which a context holds ways. -/
def Context.wayCols (x : Context) : List Nat := (List.range 16).filter fun c => FM.get 0 x.nw c != 0

def State.curContext (s : State) (t : Nat) : Context := s.context (s.tile t).ctx

/-- The lines of a context's ways `first` on in a column (05 R137). -/
def inWays (ctx first count : Nat) (l : BLine) : Bool := l.ctx == ctx && decide (first ≤ l.way) && decide (l.way < first + count)

/-- BSFLUSH and BSINV (05 R137): the scan takes at most 384 bc, and a write-back at least 260 tc. -/
def bankWord (h : Hdr) (op col foreign first count : Nat) (s : State) : Out :=
  ctlIssue h s { CtlChecks.none with
      chk := fun s t c => if (s.curContext t).bsplit < first + count then some (0x09, s.ctlWord t c) else none }
    fun t c sig s' =>
      let dc := if foreign = 1 then col else tileCol t
      if s.colDisabled dc then (s'.ctlNext t c 1).signalNow t 0 c sig (some (0x57, originOf t 0))
      else
        let dirty := (s.col dc).lines.any fun l => l.dirty && inWays (s.tile t).ctx first count l
        let (l, s') := if dirty then s'.atLeast 260 else takeIn 1 576 s'
        s'.post t c sig op l [dc, first, count]

def execBsflush (h : Hdr) (col foreign first count : Nat) (s : State) : Out := bankWord h 0x3E col foreign first count s
def execBsinv (h : Hdr) (col foreign first count : Nat) (s : State) : Out := bankWord h 0x3F col foreign first count s

/-- Ways whose role a change of BSPLIT from `m` to `n` changes (05 R138). -/
def changesRole (m n w : Nat) : Bool := decide (min m n ≤ w) && decide (w < max m n)

/-- An address names column scratch, or a line that its home caches, of a column in which the context holds ways
(05 R138). -/
def State.touchesWays (s : State) (ctx col sp unit a : Nat) (xs : List (Nat × Phys)) : Bool :=
  let cols := (s.context ctx).wayCols
  if sp = 1 then cols.contains unit
  else if sp = 2 then
    match s.physFor ctx col 2 a xs with
    | some p => cols.contains p.home && (s.line? p.home p.pa).isSome
    | none => false
  else false

/-- An access of the context that is outstanding touches its ways: one of an access core, of a control core's
TSPILL, TFILL or CWPOST, of a copy command, or one that a column holds (05 R138). -/
def State.waysInUse (s : State) (ctx : Nat) : Bool :=
  let cwAt (n : Nat) : Nat := (s.context ctx).cwBlock + 16 * n
  (s.flights.any fun f => match f.fl with
    | .access a => (s.tile a.t).ctx == ctx && a.keys.any fun k => s.touchesWays ctx (tileCol a.t) a.space a.unit k.1 a.phys
    | .remote t _ r vs => (s.tile t).ctx == ctx &&
      (((r.op == 0x51 || r.op == 0x52) && s.touchesWays ctx (tileCol t) (vs.getD 0 0) (vs.getD 1 0) (vs.getD 2 0) []) ||
        (r.op == 0x3C && s.touchesWays ctx (tileCol t) 2 0 (cwAt (vs.getD 0 0)) []))
    | _ => false) ||
  (s.tiles.any fun T => T.2.ctx == ctx && T.2.ccmds.any fun k =>
    let c := k.2
    let touches (i : Nat) (a : Nat) (xs : List (Nat × Phys)) : Bool :=
      let cap := (c.caps.getD i CReg.zero).v
      s.touchesWays ctx (tileCol T.1) (capSpace cap) (scratchCol cap T.1) a xs
    (c.out.any fun o => o.gs.any fun g => touches 1 g.1 o.phys) || (c.ahead.any fun r => r.gs.any fun g => touches 1 g.1 []) ||
      c.runs.any fun r => (r.src ++ r.dst).any fun x => (s.col x.2.home).lines.any fun l => l.key / 64 == x.2.pa / 4096) ||
  s.cols.any fun C => C.2.held.any fun h => h.ctx == ctx && h.space == 2

/-- BSPSET is refused while a way that changes role holds a valid line, or an access of the context to column
scratch or to a cached line is outstanding (05 R138). -/
def State.splitRefused (s : State) (ctx n : Nat) : Bool :=
  let x := s.context ctx
  x.bsplit != n &&
  (x.wayCols.any (fun c => (s.col c).lines.any fun l => l.ctx == ctx && changesRole x.bsplit n l.way) || s.waysInUse ctx)

/-- Zeroes the column scratch of the ways that change role. -/
def State.zeroWays (s : State) (ctx m n : Nat) : State :=
  let hit (a : Nat) : Bool :=
    decide (2 ^ 42 ≤ a) && decide (a < hostBase) && (a - 2 ^ 42) / 2 ^ 29 == ctx && changesRole m n ((a - 2 ^ 42) / 2 ^ 21 % 16)
  { s with mem := s.mem.filter fun c => !hit c.1, pois := s.pois.filter fun g => !hit (64 * g) }

def execBspset (h : Hdr) (d n : Nat) (s : State) : Out :=
  ctlIssue h s { CtlChecks.none with
      chk := fun s t c =>
        let x := s.curContext t
        if x.wayCols.any fun k => decide (FM.get 0 x.nw k < n) then some (0x09, s.ctlWord t c)
        else if s.splitRefused (s.tile t).ctx n then some (0x25, w64 n)
        else none }
    fun t c sig s' =>
      let ctx := (s.tile t).ctx
      let old := (s.context ctx).bsplit
      let (l, s') := if old = n then (2, s') else takeIn 2 36870 s'
      let s' := (s'.zeroWays ctx old n).updContext ctx fun x => { x with bsplit := n }
      (s'.putS t c d ⟨w64 old, false⟩ 2 0).post t c sig 0x40 l []

/-- Launches of a context accepted and not complete (14 R379). -/
def State.openLaunches (s : State) (ctx : Nat) : Nat := (s.launches.filter fun l => l.ctx == ctx).length

/-- LAUNCH (14 R379): it is on its way to the dispatcher. -/
def execLaunch (h : Hdr) (sheaf cwen cw : Nat) (s : State) : Out :=
  ctlIssue h s { CtlChecks.none with
      dec := fun s t _ => if (FM.find? (s.curContext t).sheaves sheaf).isNone then some 0x09 else none
      busy := fun s t _ => decide (64 ≤ s.openLaunches (s.tile t).ctx) }
    fun t c sig s' =>
      let (l, s') := s'.atLeast 1
      (s'.ctlNext t c 1).flyDev l
        (.launch t (s.tile t).ctx sheaf (if cwen = 1 then some cw else none) sig (scpOrder h 2 != 0) (scpScope h 2 == 3)) |>.holdSc t c sig
        0x41 (scpOrder h 2)

/-- The words that name a tile of the context's grant other than the own one (14 R384, R385). -/
def tileChecks (row col : Nat) (own : Bool) : CtlChecks :=
  { CtlChecks.none with
    dec := fun s t _ =>
      let u := tileAt row col
      if 10 < row || !(s.curContext t).granted u || (!own && u == t) then some 0x09 else none }

def tileWord (h : Hdr) (op row col arg : Nat) (s : State) : Out :=
  ctlIssue h s (tileChecks row col false) fun t c sig s' =>
    let (l, s') := takeIn 1 160 s'
    s'.post t c sig op l [tileAt row col, arg]

def execPreemptStop (h : Hdr) (col row : Nat) (s : State) : Out := tileWord h 0x42 row col 0 s
def execPreemptResume (h : Hdr) (col row : Nat) (s : State) : Out := tileWord h 0x142 row col 0 s

/-- The pages of tile `u`'s checkpoint slot that do not translate for the tile's context (14 R386, R387). -/
def Context.slotVa (x : Context) (u : Nat) : Nat :=
  x.ckpt + 5242880 * ((x.tiles.filter fun k => decide (k < u)).length)

def slotChecks (row col : Nat) (saved : Bool) : CtlChecks :=
  { tileChecks row col false with
    hold := fun s t c =>
      match s.ctlXlate t ((s.curContext t).slotVa (tileAt row col)) 5242880 2 3 with
      | some (.held i va) => some (s.holdAccess (tileCol t) (.ctl t c) (s.tile t).ctx va 1 (originOf t 0) i)
      | _ => none
    chk := fun s t c =>
      let u := tileAt row col
      if saved && ((s.tile u).state != .saved || (s.tile u).ctx != (s.tile t).ctx || (FM.find? s.saved u).isNone) then
        some (0x09, s.ctlWord t c)
      else match s.ctlXlate t ((s.curContext t).slotVa u) 5242880 2 3 with
        | some (.fault cause va) => some (cause, w64 va)
        | _ => none }

def slotWord (h : Hdr) (op row col full : Nat) (saved : Bool) (s : State) : Out :=
  ctlIssue h s (slotChecks row col saved) fun t c sig s' =>
    let (l, s') := s'.atLeast 1
    s'.post t c sig op l [tileAt row col, full]

def execCtxsave (h : Hdr) (col row full : Nat) (s : State) : Out := slotWord h 0x45 row col full false s
def execCtxrest (h : Hdr) (col row : Nat) (s : State) : Out := slotWord h 0x46 row col 0 true s

/-- CTXSCRUB ends the task as DONE does and then scrubs its tile (14 R388). -/
def execCtxscrub (h : Hdr) (s : State) : Out :=
  ctlIssue h s .none fun t c sig s' =>
    (s'.updCc t c fun x => { x with run := .inDone, waitFrom := none, waitDone := false }).updTile t fun T => { T with endSig := some sig }

def execCtxkill (h : Hdr) (cause : Nat) (s : State) : Out :=
  ctlIssue h s .none fun t c sig s' =>
    let (l, s') := s'.atLeast 1
    s'.post t c sig 0x48 l [cause]

/-- Translation words: a poisoned operand is a sink, and the earlier effects of the context are complete first
(15 R412). -/
def xlatChecks (rs : List Nat) (chk : State → Nat → Nat → Option (Nat × Word)) : CtlChecks :=
  { CtlChecks.none with
    busy := fun s t c => !s.ctlDrained t c s.nextId
    chk := fun s t c => match sinkOf s t c rs with
      | some r => some r
      | none => chk s t c }

/-- First index and number of entries of a context's partition in a column (15 R397). -/
def Context.part (x : Context) (c : Nat) : Nat × Nat := FM.get (0, 0) x.parts c

/-- An entry is well formed by itself (15 R399), for a context with the key grant `keys`. -/
def State.entOk (s : State) (keys : Nat) (e : Cap) : Bool :=
  decide (ent e 0 4 ≤ 4) && entState e != 3 && entKind e != 3 && entPsum e != 3 && ent e 30 2 == 0 && ent e 119 9 == 0 &&
  entVa e % 2 ^ entShift e == 0 && entPa e % 2 ^ entShift e == 0 &&
  (if entKind e = 0 then !s.colDisabled (entHome e) else entHome e == 0) &&
  (entKind e == 2 || entPort e == 0) && keys / 2 ^ entKey e % 2 == 1

/-- Two valid entries share a virtual byte. -/
def entOverlap (a b : Cap) : Bool :=
  entValid a && entValid b && decide (entVa a < entVa b + 2 ^ entShift b) && decide (entVa b < entVa a + 2 ^ entShift a)

/-- The first entry of an image that is malformed, alone or against the entries before it and those of the
partition that stay (15 R399, R404). -/
def State.badEntry (s : State) (ctx col first : Nat) (es : List Cap) : Option Nat :=
  let x := s.context ctx
  let (p, n) := x.part col
  let stay := (s.col col).entries.filter fun q =>
    decide (p ≤ q.1) && decide (q.1 < p + n) && !(decide (p + first ≤ q.1) && decide (q.1 < p + first + es.length))
  (List.range es.length).find? fun k =>
    let e := es.getD k 0
    !s.entOk x.keyGrant e || (stay.any fun q => entOverlap q.2 e) || ((es.take k).any fun e' => entOverlap e' e)

/-- The entries of a table image, read as data of the context (15 R404). -/
def State.readImage (s : State) (t va n : Nat) : Option (List Cap) :=
  match (s.devGet (s.tile t).ctx (tileCol t) va (16 * n)).1 with
  | some (bs, _) => some ((chunk 16 n bs).map fun b => bvOfBytes 128 b)
  | none => none

/-- Fields of s[b] of TLD. -/
def tldMask (b : Word) : Nat := b.toNat % 65536
def tldFirst (b : Word) : Nat := b.toNat / 2 ^ 16 % 4096
def tldCount (b : Word) : Nat := b.toNat / 2 ^ 28 % 4096 + 1

def tldCols (b : Word) : List Nat := (List.range 16).filter fun c => tldMask b / 2 ^ c % 2 == 1

/-- TLD's checks on its registers alone; a misaligned image address raises 0x23 (log entry 14). -/
def tldFields (a b : Nat) (s : State) (t c : Nat) : Option (Nat × Word) :=
  let va := (s.sreg t c a).v.toNat
  let f := (s.sreg t c b).v
  let x := s.curContext t
  let cols := tldCols f
  if f.toNat / 2 ^ 40 ≠ 0 || !(cols.all fun k => x.columns.contains k) ||
      cols.any (fun k => decide ((x.part k).2 < tldFirst f + tldCount f)) then some (0x09, s.ctlWord t c)
  else if va % 16 ≠ 0 then some (0x23, w64 va)
  else none

def tldCheck (a b : Nat) (s : State) (t c : Nat) : Option (Nat × Word) :=
  let va := (s.sreg t c a).v.toNat
  let f := (s.sreg t c b).v
  match tldFields a b s t c with
  | some r => some r
  | none =>
    match s.ctlXlate t va (16 * tldCount f) 2 1 with
    | some (.fault cause v) => some (cause, w64 v)
    | _ =>
      match s.readImage t va (tldCount f) with
      | none => none
      | some es =>
        match (tldCols f).findSome? fun k => s.badEntry (s.tile t).ctx k (tldFirst f) es with
        | some k => some (0x2E, w64 k)
        | none => none

def tldHold (a b : Nat) (s : State) (t c : Nat) : Option State :=
  if (sinkOf s t c [a, b]).isSome || (tldFields a b s t c).isSome then none
  else match s.ctlXlate t (s.sreg t c a).v.toNat (16 * tldCount (s.sreg t c b).v) 2 1 with
    | some (.held i va) => some (s.holdAccess (tileCol t) (.ctl t c) (s.tile t).ctx va 0 (originOf t 0) i)
    | _ => none

/-- TLD (15 R404). The entries read at issue travel with the request. -/
def execTld (h : Hdr) (d a b : Nat) (s : State) : Out :=
  ctlIssue h s { xlatChecks [a, b] (tldCheck a b) with hold := tldHold a b } fun t c sig s' =>
    let va := (s.sreg t c a).v
    let f := (s.sreg t c b).v
    let es := (s.readImage t va.toNat (tldCount f)).getD []
    let (l, s') := s'.atLeast 1
    s'.await t c d sig 0x49 l (va.toNat :: f.toNat :: es.map fun e => e.toNat)

/-- TRDE (15 R410). -/
def execTrde (h : Hdr) (d a b x : Nat) (s : State) : Out :=
  ctlIssue h s { CtlChecks.none with
      chk := fun s t c =>
        let col := (s.sreg t c a).v.toNat % 16
        match sinkOf s t c [a, b] with
        | some r => some r
        | none =>
          if !(s.curContext t).columns.contains col || decide (((s.curContext t).part col).2 ≤ (s.sreg t c b).v.toNat) then
            some (0x09, s.ctlWord t c)
          else none }
    fun t c sig s' =>
      let (l, s') := s'.atLeast 1
      s'.await t c d sig 0x4A l [(s.sreg t c a).v.toNat % 16, (s.sreg t c b).v.toNat, x]

/-- TMAP's checks (15 R406). -/
def tmapCheck (a b : Nat) (s : State) (t c : Nat) : Option (Nat × Word) :=
  let va := (s.sreg t c a).v
  let x := s.curContext t
  match s.lookup (s.tile t).ctx (tileCol t) va.toNat with
  | none => some (0x28, va)
  | some (_, e) =>
    if entState e ≠ 2 then some (0x2F, va)
    else if 1 < ent e 0 4 then some (0x09, s.ctlWord t c)
    else if (s.sreg t c b).v.toNat / 8 ≠ 0 then some (0x09, s.ctlWord t c)
    else if (if ent e 0 4 = 0 then x.pool4 else x.pool64) = [] then some (0x2C, va)
    else none

/-- TMAP: the frame leaves the pool at issue (15 R406). -/
def execTmap (h : Hdr) (d a b : Nat) (s : State) : Out :=
  ctlIssue h s (xlatChecks [a, b] (tmapCheck a b)) fun t c sig s' =>
    let ctx := (s.tile t).ctx
    let va := (s.sreg t c a).v.toNat
    let big := match s.lookup ctx (tileCol t) va with
      | some (_, e) => ent e 0 4
      | none => 0
    let x := s'.context ctx
    let f := (if big = 0 then x.pool4 else x.pool64).headD 0
    let s' := s'.setContext ctx
      (if big = 0 then { x with pool4 := x.pool4.drop 1 } else { x with pool64 := x.pool64.drop 1 })
    let (l, s') := s'.atLeast 1
    s'.await t c d sig 0x4B l [va, (s.sreg t c b).v.toNat % 8, f, big]

/-- The entries of the columns of the context's grant that map an address, that of column `col` first. -/
def State.mappings (s : State) (ctx col va : Nat) : List Cap :=
  ((col :: (s.context ctx).columns.filter fun c => c != col).filterMap fun c => s.lookup ctx c va).map fun e => e.2

/-- TUNMAP (15 R409): the entries of every column that maps the page; an address that nothing maps raises 0x28
(log entry 14). -/
def tunmapCheck (a ret : Nat) (s : State) (t c : Nat) : Option (Nat × Word) :=
  let va := (s.sreg t c a).v
  match s.mappings (s.tile t).ctx (tileCol t) va.toNat with
  | [] => some (0x28, va)
  | es =>
    if es.any fun e => entState e != 0 then some (0x2F, va)
    else if ret = 1 ∧ es.any fun e => decide (1 < ent e 0 4) then some (0x09, s.ctlWord t c)
    else none

def execTunmap (h : Hdr) (d a st ret : Nat) (s : State) : Out :=
  ctlIssue h s (xlatChecks [a] (tunmapCheck a ret)) fun t c sig s' =>
    let (l, s') := s'.atLeast 1
    s'.await t c d sig 0x4C l [(s.sreg t c a).v.toNat, st, ret]

/-- TSHD (15 R408). -/
def tshdCheck (a b : Nat) (s : State) (t c : Nat) : Option (Nat × Word) :=
  let base := (s.sreg t c a).v.toNat
  let len := (s.sreg t c b).v.toNat
  if len = 0 ∨ 2 ^ 56 < base + len then some (0x09, s.ctlWord t c) else none

def execTshd (h : Hdr) (d a b sys inv : Nat) (s : State) : Out :=
  ctlIssue h s (xlatChecks [a, b] (tshdCheck a b)) fun t c sig s' =>
    let (l, s') := s'.atLeast 1
    s'.await t c d sig 0x4D l [(s.sreg t c a).v.toNat, (s.sreg t c b).v.toNat, sys, inv]

/-- TPRB (15 R411): 0 for an unmapped address. -/
def probe (e : Option (Nat × Cap)) : Word :=
  match e with
  | none => 0
  | some (_, e) =>
    w64 (1 + entState e * 2 + entKind e * 2 ^ 3 + entPerms e * 2 ^ 5 + entHome e * 2 ^ 8 + ent e 0 4 * 2 ^ 12 + entPsum e * 2 ^ 16)

def execTprb (h : Hdr) (d a : Nat) (s : State) : Out :=
  ctlIssue h s (sinks [a]) fun t c sig s' =>
    let v := probe (s.lookup (s.tile t).ctx (tileCol t) (s.sreg t c a).v.toNat)
    ((s'.putS t c d ⟨v, false⟩ 4 0).signalIn t 0 c sig 4 none).ctlNext t c 1

/-- The save-area capability of a context's present level (16 R420). -/
def State.saveArea (s : State) (t c : Nat) : CReg :=
  let T := s.tile t
  let n := (T.cc c).tlvl
  ⟨FM.get 0 T.tsa n, T.tsatag / 2 ^ n % 2 == 1⟩

/-- The checks of TSPILL and TFILL on their range (16 R428). -/
def State.spillXlate (s : State) (t c f l off need : Nat) : Option Xl :=
  let k := s.saveArea t c
  s.checkRange t (s.ctlSup t c) k ⟨[0, 1, 2], false, need, 8⟩ (capOff k.v + off : Nat) (8 * (l - f + 1))

def spillChecks (f l off need : Nat) : CtlChecks :=
  { CtlChecks.none with
    hold := fun s t c =>
      match s.spillXlate t c f l off need with
      | some (.held i va) => some (s.holdAccess (tileCol t) (.ctl t c) (s.tile t).ctx va (need - 1) (originOf t 0) i)
      | _ => none
    chk := fun s t c =>
      match s.spillXlate t c f l off need with
      | some (.fault cause va) => some (cause, w64 va)
      | _ => none }

/-- The operands of a TSPILL or TFILL on its way: space, column of its scratch, address, the first word of its
group, registers, whether a fenced home has refused a store, and the translations of its pages, as numbers. -/
def State.spillHead (s : State) (t c off n : Nat) : List Nat :=
  let k := s.saveArea t c
  let a := capOff k.v + off
  let xs := s.capture (s.tile t).ctx (tileCol t) (capSpace k.v) (pagesOf a (8 * n))
  [capSpace k.v, scratchCol k.v t, a, (s.cc t c).latch.start.getD (s.cc t c).pc, n, 0, xs.length] ++ xs.flatMap fun x => x.1 :: x.2.nums

/-- TSPILL (16 R428): the values read at issue, their poison bits beside them, travel to the executing unit as
(number, value, poison). -/
def execTspill (h : Hdr) (f l off : Nat) (s : State) : Out :=
  ctlIssue h s (spillChecks f l off 2) fun t c sig s' =>
    let regs := (List.range (l - f + 1)).flatMap fun i => [i, (s.sreg t c (f + i)).v.toNat, bit (s.sreg t c (f + i)).p 0]
    let (d, s') := s'.atLeast 1
    s'.await t c 0 sig 0x51 d (s.spillHead t c off (l - f + 1) ++ regs)

/-- TFILL (16 R428): the values asked for as (number, value, poison, 1 once returned). -/
def execTfill (h : Hdr) (f l off : Nat) (s : State) : Out :=
  ctlIssue h s (spillChecks f l off 1) fun t c sig s' =>
    let (d, s') := s'.atLeast 4
    s'.await t c f sig 0x52 d (s.spillHead t c off (l - f + 1) ++ (List.range (l - f + 1)).flatMap fun i => [i, 0, 0, 0])

/-- Transient verdicts that a unit holds: mismatch events of the last 2^30 tc (16 R432). -/
def State.transients (s : State) (t u : Nat) : Nat :=
  ((FM.get [] (s.tile t).verdicts u).filter fun x => decide (s.tc < x + 2 ^ 30)).length

/-- Number of a checked unit of a tile: engine, and for the vector engine its pipe. -/
def unitOf (eng part : Nat) : Nat := if eng = 2 then 16 + part else eng

/-- STEST (16 R437): the issuing context holds for the test, with every context for engine 0 and with the unit
under test for the others (R432); a pass gives the transient verdicts. -/
def execStest (h : Hdr) (d eng part : Nat) (s : State) : Out :=
  ctlIssue h s { CtlChecks.none with
      chk := fun s t _ => if eng ≠ 0 ∧ !s.engIdle t eng then some (0x5A, w64 (eng + 8 * part)) else none }
    fun t c sig s' =>
      let (l, s') := takeIn 1 4096 s'
      let r : Remote := ⟨d, sig, 0x53⟩
      let until' := (s.tile t).clk + l
      let s' := ((s'.ctlNext t c 1).updCc t c fun x => { x with rmt := some r }).flyTile t l (.remote t c r [eng, part])
      s'.updTile t fun T =>
        if eng = 0 then { T with hold0 := some until' } else { T with testing := FM.set T.testing (unitOf eng part) (0, s.tc + l, 0) }

/-- ERRRD (16 R436). -/
def execErrrd (h : Hdr) (d idx hi : Nat) (s : State) : Out :=
  ctlWrite h s d 2 fun s t _ =>
    match (s.tile t).log[idx]? with
    | some e => ⟨if hi = 1 then e.w1 else e.w0, false⟩
    | none => ⟨0, false⟩

def Tile.logStatus (T : Tile) : Word := w64 (T.logCount + T.log.length * 2 ^ 32 + min T.lasting 255 * 2 ^ 40)

def execErrrdSt (h : Hdr) (d clr : Nat) (s : State) : Out :=
  ctlIssue h s .none fun t c sig s' =>
    let s' := ((s'.putS t c d ⟨(s.tile t).logStatus, false⟩ 2 0).signalIn t 0 c sig 2 none).ctlNext t c 1
    if clr = 1 then s'.updTile t fun T => { T with log := [] } else s'

end Sys2Proof.Machine
end

