-- ==== Sys2Proof/Machine/Flags.lean ====
section
/-! DEFINITION. Sys2Proof/Machine/Flags.lean: the sticky flags of 03 R80 as bits, and how an instruction's flags are gathered from its
active elements (R81). -/

namespace Sys2Proof.Machine

/-- The bits of an EFLAG register: invalid, divide-by-zero, overflow, underflow, inexact, saturate, clip (03 R80). -/
def fNV : Nat := 1
def fDZ : Nat := 2
def fOF : Nat := 4
def fUF : Nat := 8
def fNX : Nat := 16
def fSA : Nat := 32
def fCL : Nat := 64

/-- The flags of several results together. -/
def joinFlags (l : List Nat) : Nat := l.foldl (fun a b => a ||| b) 0

/-- The flag of a condition. -/
def flagIf (b : Bool) (f : Nat) : Nat := if b then f else 0

/-- Results with their flags: the values, and the flags of those that are active (03 R81). -/
def gather (l : List (Bool × Nat × Nat)) : List Nat × Nat :=
  (l.map fun x => x.2.1, joinFlags (l.map fun x => if x.1 then x.2.2 else 0))

end Sys2Proof.Machine
end

