-- ==== Sys2Proof/Machine/Float.lean ====
section
/-! DEFINITION. Sys2Proof/Machine/Float.lean: the floating formats and their arithmetic (03 R71 to R79): a value is read exactly, the
exact result is formed as an integer times a power of two, and one function rounds it to any format. Flags are the bits of 03 R80. -/

namespace Sys2Proof.Machine

/-- A floating format of 03 R71: exponent and significand widths, bias, whether it has infinities, and how it
writes NaN. -/
structure FFmt where
  ew : Nat
  mw : Nat
  bias : Nat
  hasInf : Bool
  nan : Option Nat
  maxMan : Nat
  maxExp : Nat
deriving DecidableEq, Repr

def FFmt.bits (f : FFmt) : Nat := f.ew + f.mw + 1

def fp32 : FFmt := ⟨8, 23, 127, true, some 0x7FC00000, 2 ^ 24 - 1, 254⟩
def bf16 : FFmt := ⟨8, 7, 127, true, some 0x7FC0, 2 ^ 8 - 1, 254⟩
def fp16 : FFmt := ⟨5, 10, 15, true, some 0x7E00, 2 ^ 11 - 1, 30⟩
def e4m3 : FFmt := ⟨4, 3, 7, false, some 0x7F, 14, 15⟩
def e5m2 : FFmt := ⟨5, 2, 15, true, some 0x7E, 7, 30⟩
def e2m1 : FFmt := ⟨2, 1, 1, false, none, 3, 3⟩

/-- A read value: NaN (signalling or not), infinity, or an integer times a power of two with its sign. -/
inductive FV where
  | nan (sig : Bool)
  | inf (neg : Bool)
  | fin (neg : Bool) (m : Nat) (e : Int)
deriving DecidableEq, Repr

def FFmt.isNan (f : FFmt) (e m : Nat) : Bool :=
  match f.nan with
  | none => false
  | some _ => if f.hasInf then e == 2 ^ f.ew - 1 && m != 0 else e == 2 ^ f.ew - 1 && m == 2 ^ f.mw - 1

/-- The value of an encoding (03 R71, R73). -/
def FFmt.read (f : FFmt) (b : Nat) : FV :=
  let neg := b / 2 ^ (f.ew + f.mw) % 2 == 1
  let e := b / 2 ^ f.mw % 2 ^ f.ew
  let m := b % 2 ^ f.mw
  if f.isNan e m then .nan (decide (10 ≤ f.bits - 1) && m / 2 ^ (f.mw - 1) == 0)
  else if f.hasInf && e == 2 ^ f.ew - 1 then .inf neg
  else if e = 0 then .fin neg m (1 - (f.bias : Int) - f.mw)
  else .fin neg (2 ^ f.mw + m) ((e : Int) - f.bias - f.mw)

def FFmt.zero (f : FFmt) (neg : Bool) : Nat := if neg then 2 ^ (f.ew + f.mw) else 0
def FFmt.signBit (f : FFmt) (neg : Bool) : Nat := f.zero neg
def FFmt.canon (f : FFmt) : Nat := f.nan.getD 0
def FFmt.infBits (f : FFmt) (neg : Bool) : Nat := f.zero neg + (2 ^ f.ew - 1) * 2 ^ f.mw
def FFmt.maxBits (f : FFmt) (neg : Bool) : Nat := f.zero neg + f.maxExp * 2 ^ f.mw + (f.maxMan - 2 ^ f.mw)

/-- Rounds `m` divided by 2^`k` to an integer by mode 0 RNE, 1 RTZ, 2 RDN, 3 RUP for a value of sign `neg`;
whether it was inexact. -/
def roundShift (mode : Nat) (neg : Bool) (m k : Nat) : Nat × Bool :=
  let q := m / 2 ^ k
  let r := m % 2 ^ k
  let up :=
    if r = 0 then false
    else match mode with
      | 0 => decide (2 ^ k < 2 * r) || (2 * r == 2 ^ k && q % 2 == 1)
      | 1 => false
      | 2 => neg
      | _ => !neg
  (if up then q + 1 else q, r != 0)

/-- `m` times 2^`e` as a multiple of 2^`q`. -/
def roundAt (mode : Nat) (neg : Bool) (m : Nat) (e q : Int) : Nat × Bool :=
  if q ≤ e then (m * 2 ^ (e - q).toNat, false) else roundShift mode neg m (q - e).toNat

/-- What a result beyond the largest finite value becomes (03 R75). -/
def FFmt.overflow (f : FFmt) (mode : Nat) (sat neg : Bool) : Nat × Nat :=
  match f.nan with
  | none => (f.maxBits neg, fOF + fNX + fSA)
  | some c =>
    if sat then (f.maxBits neg, fOF + fNX + fSA)
    else if f.hasInf then
      (if mode = 1 ∨ (mode = 2 ∧ !neg) ∨ (mode = 3 ∧ neg) then f.maxBits neg else f.infBits neg, fOF + fNX)
    else (c, fOF + fNX + fNV)

/-- An exact value `m` times 2^`e` of sign `neg` rounded to the format: bits and flags (03 R74, R75, R80). -/
def FFmt.round (f : FFmt) (mode : Nat) (sat neg : Bool) (m : Nat) (e : Int) : Nat × Nat :=
  if m = 0 then (f.zero neg, 0)
  else
    let k : Int := (Nat.log2 m : Int) + e
    let emin : Int := 1 - (f.bias : Int)
    let q : Int := max (k - f.mw) (emin - f.mw)
    let (n, nx) := roundAt mode neg m e q
    let (n0, _) := roundAt mode neg m e (k - f.mw)
    let tiny := decide (k < emin) && !(k == emin - 1 && n0 == 2 ^ (f.mw + 1))
    let (n, q) := if n = 2 ^ (f.mw + 1) then (2 ^ f.mw, q + 1) else (n, q)
    let ex : Nat := if n < 2 ^ f.mw then 0 else (q + f.mw + f.bias).toNat
    if f.maxExp < ex ∨ (ex = f.maxExp ∧ f.maxMan < n) then f.overflow mode sat neg
    else
      let b := f.zero neg + (if ex = 0 then n else ex * 2 ^ f.mw + (n - 2 ^ f.mw))
      (b, (if nx then fNX else 0) + (if tiny && nx then fUF else 0))

/-- An exact signed value, for sums: an integer times a power of two. -/
structure Dy where
  n : Int
  e : Int
deriving DecidableEq, Repr

def Dy.zero : Dy := ⟨0, 0⟩
def Dy.add (a b : Dy) : Dy :=
  let e := min a.e b.e
  ⟨a.n * 2 ^ (a.e - e).toNat + b.n * 2 ^ (b.e - e).toNat, e⟩
def Dy.mul (a b : Dy) : Dy := ⟨a.n * b.n, a.e + b.e⟩
def Dy.scale (a : Dy) (k : Int) : Dy := ⟨a.n, a.e + k⟩
def Dy.of (neg : Bool) (m : Nat) (e : Int) : Dy := ⟨if neg then -(m : Int) else m, e⟩

def FFmt.roundDy (f : FFmt) (mode : Nat) (sat : Bool) (zneg : Bool) (d : Dy) : Nat × Nat :=
  if d.n = 0 then (f.zero zneg, 0) else f.round mode sat (decide (d.n < 0)) d.n.natAbs d.e

/-- A value written in a format: NaN canonical, an infinity as the table of 03 R75 says (03 R76). -/
def FFmt.write (f : FFmt) (mode : Nat) (sat : Bool) (v : FV) : Nat × Nat :=
  match v with
  | .nan sig => (f.canon, if f.nan.isNone || sig then fNV else 0)
  | .inf neg =>
    if f.hasInf then (f.infBits neg, 0)
    else
      let (b, fl) := f.overflow 0 sat neg
      (b, fl - fNX)
  | .fin neg m e => f.round mode sat neg m e

/-- Signalling operands of an operation. -/
def FV.isSig : FV → Bool
  | .nan s => s
  | _ => false
def FV.isNan : FV → Bool
  | .nan _ => true
  | _ => false
def FV.neg : FV → FV
  | .nan s => .nan s
  | .inf n => .inf !n
  | .fin n m e => .fin (!n) m e
def FV.abs : FV → FV
  | .nan s => .nan s
  | .inf _ => .inf false
  | .fin _ m e => .fin false m e
def FV.sign : FV → Bool
  | .nan _ => false
  | .inf n => n
  | .fin n _ _ => n
def FV.isZero : FV → Bool
  | .fin _ m _ => m == 0
  | _ => false

/-- The outcome of an exact operation before rounding: a value or NaN with flags. The sign of a zero is settled. -/
structure FX where
  v : FV
  fl : Nat
deriving DecidableEq, Repr

def FX.invalid : FX := ⟨.nan false, fNV⟩
def FX.quiet : FX := ⟨.nan false, 0⟩

/-- The sign of an exact zero sum of terms of signs `a` and `b` (03 R74). -/
def zeroSign (mode : Nat) (a b : Bool) : Bool := if a = b then a else mode == 2

/-- The exact sum (03 R74, R79). -/
def fAdd (mode : Nat) (a b : FV) : FX :=
  if a.isSig || b.isSig then .invalid
  else match a, b with
    | .nan _, _ => .quiet
    | _, .nan _ => .quiet
    | .inf x, .inf y => if x = y then ⟨.inf x, 0⟩ else .invalid
    | .inf x, _ => ⟨.inf x, 0⟩
    | _, .inf y => ⟨.inf y, 0⟩
    | .fin x m e, .fin y n f =>
      let d := (Dy.of x m e).add (Dy.of y n f)
      if d.n = 0 then ⟨.fin (zeroSign mode x y) 0 0, 0⟩ else ⟨.fin (decide (d.n < 0)) d.n.natAbs d.e, 0⟩

/-- The exact product. -/
def fMul (a b : FV) : FX :=
  if a.isSig || b.isSig then .invalid
  else match a, b with
    | .nan _, _ => .quiet
    | _, .nan _ => .quiet
    | .inf x, .inf y => ⟨.inf (x != y), 0⟩
    | .inf x, .fin y n _ => if n = 0 then .invalid else ⟨.inf (x != y), 0⟩
    | .fin x m _, .inf y => if m = 0 then .invalid else ⟨.inf (x != y), 0⟩
    | .fin x m e, .fin y n f => ⟨.fin (x != y) (m * n) (e + f), 0⟩

/-- a times b plus c, exact (03 R74). -/
def fFma (mode : Nat) (a b c : FV) : FX :=
  if c.isSig then .invalid
  else
    let p := fMul a b
    if p.fl ≠ 0 then p else fAdd mode p.v c

/-- A quotient with `g` quotient bits and a sticky bit (03 R79): enough for any format of at most `g` - 3 bits. -/
def fDiv (g : Nat) (a b : FV) : FX :=
  if a.isSig || b.isSig then .invalid
  else match a, b with
    | .nan _, _ => .quiet
    | _, .nan _ => .quiet
    | .inf _, .inf _ => .invalid
    | .inf x, .fin y _ _ => ⟨.inf (x != y), 0⟩
    | .fin x _ _, .inf y => ⟨.fin (x != y) 0 0, 0⟩
    | .fin x m e, .fin y n f =>
      if n = 0 then (if m = 0 then .invalid else ⟨.inf (x != y), fDZ⟩)
      else
        let k := g + Nat.log2 n
        let q := m * 2 ^ k / n
        ⟨.fin (x != y) (2 * q + (if m * 2 ^ k % n = 0 then 0 else 1)) (e - f - k - 1), 0⟩

/-- The integer square root. -/
def isqrt : Nat → Nat → Nat → Nat
  | 0, _, r => r
  | n + 1, v, r =>
    let r' := r + 2 ^ n
    isqrt n v (if r' * r' ≤ v then r' else r)

/-- A square root with a sticky bit. -/
def fSqrt (g : Nat) (a : FV) : FX :=
  match a with
  | .nan s => if s then .invalid else .quiet
  | .inf n => if n then .invalid else ⟨.inf false, 0⟩
  | .fin n m e =>
    if m = 0 then ⟨.fin n 0 0, 0⟩
    else if n then .invalid
    else
      let k : Nat := 2 * g + (e % 2).toNat
      let v := m * 2 ^ k
      let r := isqrt (Nat.log2 v / 2 + 1) v 0
      ⟨.fin false (2 * r + (if r * r = v then 0 else 1)) ((e - k) / 2 - 1), 0⟩

/-- Rounds an exact outcome, joining its flags. -/
def FFmt.fit (f : FFmt) (mode : Nat) (sat : Bool) (x : FX) : Nat × Nat :=
  let (b, fl) := f.write mode sat x.v
  (b, fl ||| x.fl)

/-- Less-than on values that are no NaN; `z` orders -0 below +0. -/
def FV.lt (z : Bool) (a b : FV) : Bool :=
  match a, b with
  | .nan _, _ => false
  | _, .nan _ => false
  | .inf x, .inf y => x && !y
  | .inf x, _ => x
  | _, .inf y => !y
  | .fin x m e, .fin y n f =>
    let d := (Dy.of x m e).add (Dy.of (!y) n f)
    if d.n = 0 then z && m == 0 && x && !y else decide (d.n < 0)

/-- Equality of values with -0 equal to +0. -/
def FV.eq (a b : FV) : Bool := !a.isNan && !b.isNan && !a.lt false b && !b.lt false a

/-- Minimum and maximum (03 R79): -0 below +0, the other operand where one is NaN. -/
def fMin (a b : FV) : FX :=
  let fl := if a.isSig || b.isSig then fNV else 0
  match a, b with
  | .nan _, .nan _ => ⟨.nan false, fl⟩
  | .nan _, y => ⟨y, fl⟩
  | x, .nan _ => ⟨x, fl⟩
  | x, y => ⟨if y.lt true x then y else x, fl⟩
def fMax (a b : FV) : FX :=
  let fl := if a.isSig || b.isSig then fNV else 0
  match a, b with
  | .nan _, .nan _ => ⟨.nan false, fl⟩
  | .nan _, y => ⟨y, fl⟩
  | x, .nan _ => ⟨x, fl⟩
  | x, y => ⟨if x.lt true y then y else x, fl⟩

/-- Comparison codes 0 EQ, 1 NE, 2 LT, 3 LE, 4 GT, 5 GE with its flags: an ordered comparison that meets a
signalling NaN sets invalid (03 R79). -/
def fCmp (code : Nat) (a b : FV) : Bool × Nat :=
  let nan := a.isNan || b.isNan
  let fl := if 2 ≤ code ∧ (a.isSig || b.isSig) then fNV else 0
  (match code with
   | 0 => a.eq b
   | 1 => nan || !a.eq b
   | 2 => a.lt false b
   | 3 => !nan && !b.lt false a
   | 4 => b.lt false a
   | _ => !nan && !a.lt false b, fl)

/-- An integer type: width and signedness (03 R67). -/
structure ITy where
  w : Nat
  sgn : Bool
deriving DecidableEq, Repr

def ITy.lo (t : ITy) : Int := if t.sgn then -(2 ^ (t.w - 1)) else 0
def ITy.hi (t : ITy) : Int := if t.sgn then 2 ^ (t.w - 1) - 1 else 2 ^ t.w - 1
def ITy.read (t : ITy) (b : Nat) : Int :=
  let b := b % 2 ^ t.w
  if t.sgn && decide (2 ^ (t.w - 1) ≤ b) then (b : Int) - 2 ^ t.w else b
def ITy.wrap (t : ITy) (x : Int) : Nat := (x % 2 ^ t.w).toNat

/-- The exact result fitted to the type (03 R69). -/
def ITy.fit (t : ITy) (sat : Bool) (x : Int) : Nat × Nat :=
  if sat then
    let y := max t.lo (min t.hi x)
    (t.wrap y, if y = x then 0 else fSA)
  else (t.wrap x, 0)

/-- Floating to integer (03 R76). -/
def ITy.ofFloat (t : ITy) (mode : Nat) (v : FV) : Nat × Nat :=
  match v with
  | .nan _ => (0, fNV)
  | .inf n => (t.wrap (if n then t.lo else t.hi), fNV + fSA)
  | .fin n m e =>
    let (q, nx) := roundAt mode n m e 0
    let x : Int := if n then -(q : Int) else q
    let y := max t.lo (min t.hi x)
    (t.wrap y, (if nx then fNX else 0) + (if y = x then 0 else fSA))

def FV.ofInt (x : Int) : FV := .fin (decide (x < 0)) x.natAbs 0

/-- Conversion to E8M0 (03 R77). -/
def toE8M0 (mode : Nat) (v : FV) : Nat × Nat :=
  match v with
  | .nan _ => (0xFF, fNV)
  | .inf _ => (0xFF, fNV)
  | .fin _ m e =>
    if m = 0 then (0, 0)
    else
      let k0 : Int := (Nat.log2 m : Int) + e
      let exact := m == 2 ^ Nat.log2 m
      let half := 2 * m
      let mid := 3 * 2 ^ Nat.log2 m
      let code0 := k0 + 127
      let up := !exact && (match mode with
        | 0 => decide (mid < half) || (half == mid && code0 % 2 == 1)
        | 3 => true
        | _ => false)
      let c := if up then code0 + 1 else code0
      if 0xFE < c then (0xFE, fOF + fNX)
      else if code0 < 0 then (0, fUF + (if c = 0 ∧ exact then 0 else fNX))
      else (c.toNat, if exact then 0 else fNX)

/-- The value of an E8M0 code. -/
def ofE8M0 (b : Nat) : FV := if b % 256 = 255 then .nan false else .fin false 1 ((b % 256 : Nat) - 127)

end Sys2Proof.Machine
end

