-- ==== Sys2Proof/Machine/AccAlu.lean ====
section
/-! DEFINITION. Sys2Proof/Machine/AccAlu.lean: the register interlock of the access core (05 R127) and the words that reach no memory:
scalar arithmetic (05 R144), capability words (05 R145), queue and descriptor words (05 R143, R157), MARK and FENCE (05 R148; 12
R334). -/

namespace Sys2Proof.Machine

/-- Registers of the access core as numbers: a0 to a31, c0 to c15 as 64 to 79 (02 R38). -/
def creg (n : Nat) : Nat := 64 + n % 64

/-- Numbers of the words that execute on the column synchronisation engine, which write two registers (05 R156). -/
def isDeque (op : Nat) : Bool := decide (0x2C ≤ op) && decide (op ≤ 0x2E)

/-- A flight that will write register `r` of the access core of tile `t`. -/
def Fl.writesAcc (t r : Nat) : Fl → Bool
  | .areg u n .. => u == t && n == r
  | .creg u n .. => u == t && 64 + n == r
  | .access a => a.t == t && (a.dst == r || (isDeque a.op && a.x == r))
  | _ => false

/-- The interlock: a register that the word reads or writes awaits a write (05 R127). -/
def State.accPending (s : State) (t : Nat) (rs : List Nat) : Bool :=
  s.flights.any fun f => rs.any fun r => f.fl.writesAcc t r

/-- Nothing more holds the word. -/
def never (_ : State) (_ : Nat) : Bool := false

def interlock (rs : List Nat) : EngChecks := { EngChecks.none with busy := fun s t => s.accPending t rs }

def State.areg (s : State) (t r : Nat) : RegV := FM.get RegV.zero (s.tile t).aregs r
def State.creg (s : State) (t r : Nat) : CReg := FM.get CReg.zero (s.tile t).cregs (r % 64)

/-- The supervisor privilege of an engine's word: the task's binding, or a handler at level 1 or 2 of context 0
(02 R29; log entry 15). -/
def State.engSup (s : State) (t : Nat) : Bool := s.ctlSup t 0

/-- A word that writes a[d] at issue + `l` and signals then (05 R144). -/
def accWrite (h : Hdr) (s : State) (d l : Nat) (rs : List Nat) (v : State → Nat → RegV) : Out :=
  engIssue h s (interlock (d :: rs)) fun t sig s' =>
    (s'.flyTile t l (.areg t d (v s t) 0)).signalIn t 1 0 sig l none

def accRRR (h : Hdr) (s : State) (d a b l : Nat) (f : Word → Word → Word) : Out :=
  accWrite h s d l [a, b] fun s t =>
    let x := s.areg t a
    let y := s.areg t b
    ⟨f x.v y.v, x.p || y.p⟩

def accRR (h : Hdr) (s : State) (d a l : Nat) (f : Word → Word) : Out :=
  accWrite h s d l [a] fun s t => let x := s.areg t a; ⟨f x.v, x.p⟩

def execAadd (h : Hdr) (d a b : Nat) (s : State) : Out := accRRR h s d a b 1 (· + ·)
def execAsub (h : Hdr) (d a b : Nat) (s : State) : Out := accRRR h s d a b 1 (· - ·)
def execAaddi (h : Hdr) (d a imm : Nat) (s : State) : Out := accRR h s d a 1 fun x => x + w64 imm
def execAmuli (h : Hdr) (d a imm : Nat) (s : State) : Out := accRR h s d a 3 fun x => x * w64 imm
def execAshli (h : Hdr) (d a n : Nat) (s : State) : Out := accRR h s d a 1 fun x => shl64 x (w64 n)
def execAandi (h : Hdr) (d a imm : Nat) (s : State) : Out := accRR h s d a 1 fun x => x &&& w64 imm
def execAli (h : Hdr) (d imm : Nat) (s : State) : Out := accWrite h s d 1 [] fun _ _ => ⟨w64 imm, false⟩

/-- A capability from its fields. -/
def mkCap (base len perms space : Nat) : Cap :=
  BitVec.ofNat 128 (base % 2 ^ 56 + len % 2 ^ 40 * 2 ^ 56 + perms % 4096 * 2 ^ 96 + space % 16 * 2 ^ 108)

/-- CDER: the offset field rises by b and the length falls by it (05 R145). -/
def capAdvance (c : Cap) (b : Nat) : Cap :=
  let k := 2 ^ offBits (capSpace c)
  let base := capBase c / k * k + (capBase c + b) % k
  BitVec.ofNat 128 (c.toNat / 2 ^ 96 * 2 ^ 96 + (capLen c + 2 ^ 40 - b % 2 ^ 40) % 2 ^ 40 * 2 ^ 56 + base)
def capWithLen (c : Cap) (b : Nat) : Cap :=
  BitVec.ofNat 128 (c.toNat / 2 ^ 96 * 2 ^ 96 + b % 2 ^ 40 * 2 ^ 56 + capBase c)

/-- CDER and CDER.LEN (05 R145): a poisoned operand is a sink; a tagged source needs DERIVE, then b at most its
length. A failure names the offset that b would give (log entry 16). -/
def accDerive (h : Hdr) (d a b : Nat) (f : Cap → Nat → Cap) (s : State) : Out :=
  engIssue h s (interlock [d, a, b]) fun t sig s' =>
    let c := s.creg t a
    let x := s.areg t b
    let n := x.v.toNat
    if x.p then s'.execFault t 1 0x31 (w64 b) sig
    else if c.tag && capPerms c.v / 2 ^ 8 % 2 == 0 then s'.execFault t 1 0x22 (w64 (capOff c.v + n)) sig
    else if c.tag && decide (capLen c.v < n) then s'.execFault t 1 0x21 (w64 (capOff c.v + n)) sig
    else (s'.flyTile t 1 (.creg t (d % 64) ⟨f c.v n, c.tag⟩ 0)).signalIn t 1 0 sig 1 none

def execCder (h : Hdr) (d a b : Nat) (s : State) : Out := accDerive h d a b capAdvance s
def execCderLen (h : Hdr) (d a b : Nat) (s : State) : Out := accDerive h d a b capWithLen s

def execCperm (h : Hdr) (d a mask : Nat) (s : State) : Out :=
  engIssue h s (interlock [d, a]) fun t sig s' =>
    let c := s.creg t a
    let v : Cap := c.v &&& ~~~(BitVec.ofNat 128 ((4095 - mask % 4096) * 2 ^ 96))
    (s'.flyTile t 1 (.creg t (d % 64) ⟨v, c.tag⟩ 0)).signalIn t 1 0 sig 1 none

/-- The fields of CGET. -/
def capField (c : CReg) (f : Nat) : Nat :=
  match f with
  | 0 => capBase c.v
  | 1 => capLen c.v
  | 2 => capPerms c.v
  | 3 => capSpace c.v
  | _ => bit c.tag 0

def execCget (h : Hdr) (d a f : Nat) (s : State) : Out :=
  accWrite h s d 1 [a] fun s t => ⟨w64 (capField (s.creg t a) f), false⟩

/-- CTEST (05 R145): tag, the named permissions and b at most the length. -/
def capTest (c : CReg) (b need : Nat) : Bool :=
  let p := (if need % 2 = 1 then 1 else 0) + (if need / 2 % 2 = 1 then 2 else 0) + (if need / 4 % 2 = 1 then 16 else 0)
  c.tag && capPerms c.v &&& p == p && decide (b ≤ capLen c.v)

def execCtest (h : Hdr) (d a b need : Nat) (s : State) : Out :=
  accWrite h s d 1 [a, b] fun s t =>
    let x := s.areg t b
    ⟨ofBool (capTest (s.creg t a) x.v.toNat need), x.p⟩

/-- Queues by their specifier 1024 to 1029 or number 0 to 5. -/
def Tile.queue (T : Tile) (q : Nat) : Queue := FM.get Queue.empty T.queues (q % 1024)
def Tile.setQueue (T : Tile) (q : Nat) (v : Queue) : Tile := { T with queues := FM.set T.queues (q % 1024) v }
def Queue.filled (q : Queue) : Nat := (q.ents.filter fun e => e.data.isSome).length
def Queue.head? (q : Queue) : Option VVal := (q.ents.head?).bind fun e => e.data
def Queue.pop (q : Queue) : Queue := { q with ents := q.ents.drop 1 }
/-- Allocation of the tail entry: the queue and the storage index taken. -/
def Queue.alloc (q : Queue) : Queue := ⟨q.ents ++ [⟨q.tail, none⟩], (q.tail + 1) % 4⟩
/-- An entry filled by its storage index. -/
def Queue.fill (q : Queue) (idx : Nat) (v : VVal) : Queue :=
  { q with ents := q.ents.map fun e => if e.idx = idx ∧ e.data.isNone then { e with data := some v } else e }
def Queue.drop (q : Queue) (idx : Nat) : Queue :=
  { q with ents := q.ents.filter fun e => !(e.idx == idx && e.data.isNone) }

/-- The status of QRD. -/
def Queue.status (q : Queue) : Word :=
  w64 (q.filled + q.ents.length * 16 + bit ((q.head?.map (·.p)).getD false) 8)

def execQrd (h : Hdr) (d q : Nat) (s : State) : Out :=
  accWrite h s d 1 [] fun s t => ⟨((s.tile t).queue q).status, false⟩

/-- QDROP (05 R143): it discards what it can as entries fill, and holds the next word. -/
def execQdrop (h : Hdr) (q n : Nat) (s : State) : Out :=
  engIssue h s .none fun t sig s' => s'.updEng t 1 fun x => { x with hold := .qdrop (q % 1024) (n + 1) sig }

/-- The progress of a QDROP in this tc: entries discarded from the head, a load queue's one by one as they fill,
a store queue's once all are filled. -/
def State.qdropStep (s : State) (t q n sig : Nat) : State :=
  let Q := (s.tile t).queue q
  let ready := (Q.ents.takeWhile fun e => e.data.isSome).length
  let k := if q < 4 then min n ready else if n ≤ ready then n else 0
  let s := s.updTile t fun T => T.setQueue q { Q with ents := Q.ents.drop k }
  if k = n then (s.updEng t 1 fun x => { x with hold := .none }).signalNow t 1 0 sig none
  else s.updEng t 1 fun x => { x with hold := .qdrop q (n - k) sig }

/-- The descriptor of a ring (05 R157). -/
def Ring.desc (r : Ring) : Word :=
  if r.size = 0 then 0 else w64 (r.base / 4096 * 2 ^ 12 + Nat.log2 r.size * 2 ^ 24 + r.res * 2 ^ 32)

def execRdget (h : Hdr) (eng d : Nat) (s : State) : Out :=
  accWrite h s d 1 [] fun s t => ⟨((s.tile t).ring eng).desc, false⟩

/-- A descriptor that RDSET accepts (05 R157). -/
def rdsetOk (v : Nat) : Bool :=
  let lw := v / 2 ^ 24 % 16
  decide (6 ≤ lw) && decide (lw ≤ 13) && decide (v / 2 ^ 32 % 2 ^ 13 < 2 ^ lw) &&
  decide (v / 2 ^ 12 % 128 * 4096 + 8 * 2 ^ lw ≤ 0x80000) &&
  v % 2 ^ 12 == 0 && v / 2 ^ 19 % 32 == 0 && v / 2 ^ 28 % 16 == 0 && v / 2 ^ 45 == 0

def execRdset (h : Hdr) (eng a : Nat) (s : State) : Out :=
  engIssue h s (interlock [a]) fun t sig s' =>
    let x := s.areg t a
    if !rdsetOk x.v.toNat then
      s'.execFault t 1 0x09 ((((s'.tile t).engine 1).group.getLast?.map (·.w)).getD 0) sig
    else s'.updEng t 1 fun y => { y with hold := .rdset eng x.v sig }

/-- Words that RINGP or FORK has issued have not reached the ring. -/
def State.ringPending (s : State) (t e : Nat) : Bool :=
  s.flights.any fun f => match f.fl with
    | .ringw u d _ => u == t && d == e
    | .ringFork u d _ _ => u == t && d == e
    | _ => false

/-- RDSET holds until the engine is idle with an empty ring, which the words pushed before have reached and
left, then installs the descriptor. -/
def State.rdsetStep (s : State) (t e : Nat) (v : Word) (sig : Nat) : State :=
  if !s.engIdle t e || s.ringPending t e then s
  else
    let n := v.toNat
    let r : Ring := ⟨n / 2 ^ 12 % 128 * 4096, 2 ^ (n / 2 ^ 24 % 16), n / 2 ^ 32 % 2 ^ 13, 0, 0, ((s.tile t).ring e).routines, []⟩
    ((s.updTile t fun T => { T with rings := FM.set T.rings e r }).updEng t 1 fun x => { x with hold := .none }).signalNow
      t 1 0 sig none

/-- The number of the global line that an address of space 1 or 2 lies in, by which L1 lines go (05 R135). -/
def State.l1KeyAt (s : State) (t sp unit a : Nat) (xs : List (Nat × Phys)) : Option Nat :=
  match sp with
  | 1 => some (s.scratchKey (s.tile t).ctx unit a / 64)
  | 2 => (s.physFor (s.tile t).ctx (tileCol t) 2 a xs).map fun p => p.pa / 64
  | _ => none
def State.l1Key (s : State) (t sp unit a : Nat) : Option Nat := s.l1KeyAt t sp unit a []

/-- L1 lines dropped, and loads in flight kept from filling them (05 R135). -/
def State.dropL1 (s : State) (t : Nat) (hit : Nat → Bool) : State :=
  let s := s.updTile t fun T => { T with l1 := T.l1.filter fun l => !hit l.key }
  { s with flights := s.flights.map fun f =>
    match f.fl with
    | .access a =>
      if a.t = t ∧ (((a.keys.head?).bind fun k => s.l1KeyAt t a.space a.unit k.1 a.phys).map hit).getD false then
        { f with fl := .access { a with noFill := true } }
      else f
    | _ => f }

/-- MARK (05 R148): holds the next word until every earlier word is performed; the accesses numbered below `last`. -/
def execMark (h : Hdr) (s : State) : Out :=
  engIssue h s .none fun t sig s' =>
    s'.updEng t 1 fun x => { x with hold := .mark sig (scpScope h 0) (scpOrder h 0) s.nextId }

/-- An access or put of tile `t` numbered below `id` that is not performed. -/
def State.unperformed (s : State) (t id : Nat) (readsOnly : Bool) (isRead : Nat → Bool) : Bool :=
  s.flights.any fun f => decide (f.id < id) &&
    (match f.fl with
     | .access a => a.t == t && a.stage == 0 && a.op != 0x31 && (!readsOnly || isRead a.op)
     | .put p => p.t == t && !p.written && !readsOnly
     | _ => false)

/-- Words of the access core that read memory. -/
def readsMem (op : Nat) : Bool :=
  decide (op ≤ 3) || (decide (7 ≤ op) && decide (op ≤ 0xA)) || op == 0xF || (decide (0x1F ≤ op) && decide (op ≤ 0x28)) || isDeque op

/-- What an order adds at its completion (12 R332, R334): the acquire side at column scope or wider empties the
L1, the release side at system scope writes back. -/
def State.orderDone (s : State) (t scope order : Nat) : State :=
  let s := if order % 2 = 1 ∨ order = 4 then (if 1 ≤ scope then s.dropL1 t fun _ => true else s) else s
  if 2 ≤ order ∧ scope = 3 then s.releaseSystem (s.tile t).ctx else s

/-- The access core's stream knows that its stores to the CIM are complete (04 R95; 12 R334, R335). -/
def State.tellCim (s : State) (t : Nat) : State :=
  s.updTile t fun T => T.tell (streamKey 1 0) (List.range T.cimOld.length)

/-- MARK's hold in this tc: it ends once the earlier accesses are performed, with the lines of the atomics
before it dropped, and complete at its scope: at system scope, whatever its order, they are written back (12
R331, R335). -/
def State.markStep (s : State) (t sig scope order last : Nat) : State :=
  if s.unperformed t last false readsMem then s
  else
    let lines := (s.tile t).amoLines
    let s := (s.dropL1 t fun k => lines.contains k).updTile t fun T => { T with amoLines := [] }
    let s := if scope = 3 then s.releaseSystem (s.tile t).ctx else s
    let s := s.tellCim t
    ((s.orderDone t scope order).updEng t 1 fun x => { x with hold := .none }).signalNow t 1 0 sig none

/-- An access with nothing to reach, for words that order others: FENCE (12 R334). -/
def Access.blank (t op sig : Nat) : Access :=
  { t := t, op := op, atomic := false, space := 0, va := 0, keys := [], size := 0, dst := 4096, x := 4096, data := [],
    cap := .zero, scope := 0, order := 0, unit := 0, stage := 0, sig := sig, roff := 0, result := .zero, tagOut := false,
    pois := none, issued := 0, ready := 0, noFill := true, sink := false, grp := [], phys := [], cim := [] }

/-- An acquire side at column scope or wider empties the L1 before any later load issues (05 R135). -/
def State.acquireL1 (s : State) (t scope order : Nat) : State :=
  if (order % 2 = 1 ∨ order = 4) ∧ 1 ≤ scope then s.dropL1 t fun _ => true else s

/-- FENCE of the access core: it completes once its condition holds, and the accesses issued after it wait for it. -/
def execAccFence (h : Hdr) (s : State) : Out :=
  engIssue h s .none fun t sig s' =>
    (s'.acquireL1 t (scpScope h 0) (scpOrder h 4)).flyDev 1 (.access { Access.blank t 0x34 sig with scope := scpScope h 0, order := scpOrder h 4 })

end Sys2Proof.Machine
end

