-- ==== Sys2Proof/Machine/AccMem.lean ====
section
/-! DEFINITION. Sys2Proof/Machine/AccMem.lean: the words of the access core that reach memory, as they issue (05 R128, R131, R140
to R142, R146, R149 to R156). What they do at their executing units is in AccUnit.lean. -/

namespace Sys2Proof.Machine

/-- The order of a failure among the checks of 05 R131. -/
def Xl.rank : Xl → Nat
  | .fault cause _ =>
    match cause with
    | 0x31 => 1
    | 0x03 => 1
    | 0x09 => 1
    | 0x20 => 2
    | 0x24 => 3
    | 0x22 => 4
    | 0x23 => 5
    | 0x21 => 6
    | 0x26 => 7
    | _ => 8
  | _ => 8

/-- The first failure in the order of the checks; of one order, that of the first range. -/
def firstFail : List Xl → Option Xl
  | [] => none
  | x :: xs =>
    match firstFail xs with
    | none => some x
    | some y => if y.rank < x.rank then some y else some x

/-- The first poisoned a-register of a list is a sink (order 1). -/
def State.regSink (s : State) (t : Nat) (rs : List Nat) : Option Xl :=
  (rs.find? fun r => (s.areg t r).p).map fun r => .fault 0x31 r

/-- The unit a capability names: its own column or tile, or the foreign one. -/
def capUnit (c : Cap) (t : Nat) : Nat :=
  match capSpace c with
  | 1 => scratchCol c t
  | _ => t

/-- The default scope of an access (05 R128). -/
def defaultScope (c : Cap) (t : Nat) : Nat :=
  match capSpace c with
  | 0 => if capForeign c ∧ tileAt (capRow c) (capCol c) ≠ t then (if capCol c = tileCol t then 1 else 2) else 0
  | 1 => if scratchCol c t = tileCol t then 1 else 2
  | 2 => 2
  | 5 => 0
  | _ => 3

/-- The scope of a word on a capability: SCP's, raised to the default. -/
def wordScope (h : Hdr) (c : Cap) (t : Nat) : Nat := scpScope h (defaultScope c t)

/-- PMT lets the word write poisoned data to a waivable sink (11 R322). -/
def sinkAllowed (h : Hdr) : Bool := (h.pmt.map fun p => p % 2 == 1).getD false

def accWrites (op : Nat) : Bool :=
  (decide (4 ≤ op) && decide (op ≤ 6)) || (decide (0xB ≤ op) && decide (op ≤ 0xE)) || op == 0x10 ||
  (decide (0x1F ≤ op) && decide (op ≤ 0x27)) || isDeque op

def isAcq (order : Nat) : Bool := order == 1 || order == 3 || order == 4
def isRel (order : Nat) : Bool := decide (2 ≤ order)

/-- The executing unit of an address, as a number: 1 the own scratchpad, 2 the CIM, 3 host memory, 16 + c a
column's scratch, 32 + c a home bank store, 64 + p a peer port; 1024 + u the scratchpad of another tile. -/
def State.unitAt (s : State) (t sp unit a : Nat) (xs : List (Nat × Phys)) : Nat :=
  match sp with
  | 0 => 1
  | 5 => 2
  | 1 => 16 + unit
  | 2 =>
    match s.physFor (s.tile t).ctx (tileCol t) 2 a xs with
    | some p => 32 + p.home
    | none => 32
  | 3 => 3
  | _ =>
    match s.physFor (s.tile t).ctx (tileCol t) 4 a xs with
    | some p => 64 + p.port
    | none => 64

/-- What the ordering rules see of an access not yet performed: channel 0 request, 1 atomic, 2 deque. -/
structure View where
  id : Nat
  t : Nat
  chan : Nat
  units : List Nat
  reads : Bool
  writes : Bool
  fence : Bool
  pref : Bool
  order : Nat
  scope : Nat

def State.putUnit (s : State) (p : Put) : Nat :=
  if p.space = 4 then s.unitAt p.t 4 0 p.dst p.phys else if p.target = p.t then 1 else 1024 + p.target

def State.view? (s : State) (f : Flight) : Option View :=
  match f.fl with
  | .access a =>
    if a.stage ≠ 0 then none
    else some ⟨f.id, a.t, if isDeque a.op then 2 else if a.atomic then 1 else 0,
      a.keys.map fun k => if isDeque a.op then a.unit else s.unitAt a.t a.space a.unit k.1 a.phys,
      readsMem a.op, accWrites a.op, a.op == 0x34, a.op == 0x31, a.order, a.scope⟩
  | .put p =>
    if p.written then none else some ⟨f.id, p.t, 1, [s.putUnit p], false, true, false, false, p.order, p.scope⟩
  | _ => none

/-- The unperformed accesses of the same access core that issued before `v`, oldest first. -/
def State.before (s : State) (v : View) : List View :=
  (s.flights.filterMap s.view?).filter fun g => g.t == v.t && decide (g.id < v.id)

/-- A fence `g` that issued before `v` lets it be performed (12 R334). -/
def fenceLets (es : List View) (g v : View) : Bool :=
  let old := es.filter fun e => decide (e.id < g.id) && !e.fence && !e.pref
  !(isAcq g.order && old.any fun e => e.reads) &&
  !(isRel g.order && v.writes && !old.isEmpty) &&
  !(g.order == 4 && !old.isEmpty) &&
  !(isRel g.order && g.scope == 3 && v.writes)

/-- A piece of `v` at `unit` may be performed: it keeps the order of its channel at the unit (05 R147), earlier
acquires are bound, a release has nothing before it, and the fences let it (12 R332, R334). -/
def State.mayPerform (s : State) (v : View) (unit : Nat) : Bool :=
  let es := s.before v
  es.all fun g =>
    if g.pref then true
    else if g.fence then fenceLets es g v
    else !(g.chan == v.chan && g.units.contains unit) && !isAcq g.order && !isRel v.order

/-- A fence's conditions hold (12 R334). -/
def State.fenceReady (s : State) (v : View) : Bool :=
  let es := (s.before v).filter fun g => !g.fence && !g.pref
  !(isAcq v.order && es.any fun e => e.reads) && !(isRel v.order && !es.isEmpty)

/-- What holds or fails a word at issue: registers, other conditions, whether a list is read first (with the
order of the word), the failing check, and the access kind of a record (0 read, 1 write, 2 both). -/
structure AccWord where
  regs : List Nat
  busy : State → Nat → Bool
  list : Option Nat
  fail : State → Nat → Option Xl
  kind : Nat

/-- The read of an index list (05 R142) may be performed: it follows the accesses of its channel to the own
scratchpad (R147) and what orders before it. -/
def State.listReady (s : State) (t order : Nat) : Bool :=
  s.mayPerform ⟨s.nextId, t, 0, [1], true, false, false, false, if order = 4 then 4 else 0, 0⟩ 1

/-- The issue of a word that reaches memory. Its checks are made as it issues; a list is read in a later tc, a
free choice, and its rows are checked then (05 R131, R142, R467). At a not-present-stall entry the word, issued,
is held (15 R403), and a failure stops the engine (05 R132). -/
def accIssue (h : Hdr) (s : State) (k : AccWord) (eff : Nat → Nat → State → State) : Out :=
  let held (first : Bool) (s : State) (t : Nat) : Option State :=
    let check (s : State) : Option State :=
      match k.fail s t with
      | some (.held i va) =>
        some (s.holdAccess (tileCol t) (.acc t 0) (s.tile t).ctx va k.kind (originOf t 1) i)
      | _ => none
    match k.list with
    | none => check s
    | some order =>
      if first then some s
      else
        if Config.freeFetch [t, s.tc] % 2 = 1 ∨ !s.listReady t order then some s else check s
  engIssue h s ⟨fun s t => s.accPending t k.regs || k.busy s t, held⟩ fun t sig s' =>
    match k.fail s t with
    | some (.fault cause v) =>
      let w := ((((s'.tile t).engine 1).group.getLast?).map fun w => w.w).getD 0
      s'.execFault t 1 cause (if cause = 0x09 ∨ cause = 0x03 then w else w64 v) sig
    | _ => eff t sig s'

/-- A new access on its way: performed in a tc after its issue (05 R467). -/
def State.send (s : State) (a : Access) : State :=
  let a := { a with
    issued := s.tc, grp := ((s.tile a.t).engine 1).group
    roff := ((((s.tile a.t).engine 1).group.head?).map fun w => w.off).getD 0, noFill := false
    phys := if isDeque a.op then [] else s.capture (s.tile a.t).ctx (tileCol a.t) a.space (a.keys.map fun k => k.1) }
  (s.acquireL1 a.t a.scope a.order).flyDev 1 (.access a)

/-- The parts of an access that its word and capability fix. -/
def newAccess (h : Hdr) (t op sig : Nat) (c : CReg) (va : Nat) : Access :=
  { Access.blank t op sig with
    space := capSpace c.v, va := va, unit := capUnit c.v t, scope := wordScope h c.v t, order := scpOrder h 0
    sink := sinkAllowed h }

/-- The address of a MEM operand (02 R36). -/
def State.memAddr (s : State) (t c index scale disp : Nat) : Int :=
  let base : Int := capOff (s.creg t c).v
  let x : Int := if scale = 7 then 0 else (s.areg t index).v.toInt * 2 ^ (3 * scale)
  base + x + (w64 disp).toInt

def memRegs (c index scale : Nat) : List Nat := creg c :: (if scale = 7 then [] else [index])

/-- The address of an RRI operand (05 R146). -/
def State.immAddr (s : State) (t c imm : Nat) : Int := capOff (s.creg t c).v + (w64 imm).toInt

def addrNat (a : Int) : Nat := (BitVec.ofInt 64 a).toNat

/-- A row of a queue word: its address, its length, the offset of its first byte in the entry. -/
structure RowAt where
  a : Int
  n : Nat
  off : Nat

/-- The granules of a row. -/
def RowAt.pieces (r : RowAt) : List (Nat × Nat) :=
  (List.range (r.n / 64)).map fun i => (addrNat r.a + 64 * i, r.off + 64 * i)

/-- What the checks say of the rows of a queue word. -/
def State.rowsFail (s : State) (t c perm : Nat) (rows : List RowAt) : Option Xl :=
  firstFail (rows.filterMap fun r =>
    s.checkRange t (s.engSup t) (s.creg t c) ⟨[0, 1, 2, 3, 4], false, perm, 64⟩ r.a r.n)

/-- A queue load: rows of its capability fill the entry it allocates (05 R139 to R142). -/
def queueLoad (h : Hdr) (op q c : Nat) (regs sinks : List Nat) (indexed : Bool) (list : State → Nat → Option Xl)
    (rows : State → Nat → List RowAt) (s : State) : Out :=
  accIssue h s
    ⟨creg c :: regs, fun s t => decide (4 ≤ ((s.tile t).queue q).ents.length), if indexed then some (scpOrder h 0) else none,
      fun s t => match s.regSink t sinks with
        | some x => some x
        | none => match list s t with
          | some x => some x
          | none => s.rowsFail t c 1 (rows s t), 0⟩
    fun t sig s' =>
      let Q := (s'.tile t).queue q
      let a := newAccess h t op sig (s.creg t c) (((rows s t).head?.map fun r => addrNat r.a).getD 0)
      (s'.updTile t fun T => T.setQueue q Q.alloc).send
        { a with keys := (rows s t).flatMap RowAt.pieces, size := 64, dst := 1024 + q, x := Q.tail, data := [((rows s t).length, false)] }

/-- A queue store: it pops the head entry and writes rows of it. A poisoned entry to host or peer memory is a sink. -/
def queueStore (h : Hdr) (op q c : Nat) (regs sinks : List Nat) (indexed : Bool) (list : State → Nat → Option Xl)
    (rows : State → Nat → List RowAt) (s : State) : Out :=
  let head (s : State) (t : Nat) : VVal := (((s.tile t).queue q).head?).getD VVal.zero
  accIssue h s
    ⟨creg c :: regs, fun s t => (((s.tile t).queue q).head?).isNone, if indexed then some (scpOrder h 0) else none,
      fun s t => match s.regSink t sinks with
        | some x => some x
        | none => match list s t with
          | some x => some x
          | none => match s.rowsFail t c 2 (rows s t) with
            | some x => some x
            | none =>
              let sp := capSpace (s.creg t c).v
              if (head s t).p && (sp == 3 || sp == 4) && !sinkAllowed h then
                some (.fault 0x31 (((rows s t).head?.map fun r => addrNat r.a).getD 0))
              else none, 1⟩
    fun t sig s' =>
      let a := newAccess h t op sig (s.creg t c) (((rows s t).head?.map fun r => addrNat r.a).getD 0)
      let ps := (rows s t).flatMap RowAt.pieces
      let lines := ps.filterMap fun k => s.l1Key t a.space a.unit k.1
      ((s'.updTile t fun T => T.setQueue q (T.queue q).pop).dropL1 t fun k => lines.contains k).send
        { a with keys := ps, size := 64, result := head s t, data := [((rows s t).length, false)] }

/-- The one row of LDQ and STQ. -/
def wholeEntry (c index scale disp : Nat) (s : State) (t : Nat) : List RowAt := [⟨s.memAddr t c index scale disp, 4096, 0⟩]

/-- The strided rows of LDQS and STQS (05 R141). -/
def stridedRows (c ab astr len rows disp : Nat) (s : State) (t : Nat) : List RowAt :=
  (List.range (rows + 1)).map fun (i : Nat) =>
    ⟨capOff (s.creg t c).v + (s.areg t ab).v.toInt + (w64 disp).toInt + (i : Int) * (s.areg t astr).v.toInt, 64 * (len + 1), 256 * i⟩

/-- The address of the index list, and its check (05 R142). -/
def State.listAddr (s : State) (t cl al : Nat) : Int := capOff (s.creg t cl).v + (s.areg t al).v.toInt
def listCheck (cl al rows : Nat) (s : State) (t : Nat) : Option Xl :=
  s.checkRange t (s.engSup t) (s.creg t cl) ⟨[0], false, 1, 4⟩ (s.listAddr t cl al) (4 * (rows + 1))

/-- The rows that the list gives. -/
def listedRows (c cl al ab len rows : Nat) (s : State) (t : Nat) : List RowAt :=
  let l := spBase t + addrNat (s.listAddr t cl al)
  (List.range (rows + 1)).map fun (i : Nat) =>
    ⟨capOff (s.creg t c).v + (s.areg t ab).v.toInt + 64 * (s.nat (l + 4 * i) 4 : Nat), 64 * (len + 1), 256 * i⟩

def noList (_ : State) (_ : Nat) : Option Xl := none

def execLdq (h : Hdr) (q c index scale disp : Nat) (s : State) : Out :=
  queueLoad h 1 q c (memRegs c index scale) (if scale = 7 then [] else [index]) false noList (wholeEntry c index scale disp) s
def execLdqs (h : Hdr) (q c ab astr len rows disp : Nat) (s : State) : Out :=
  queueLoad h 2 q c [ab, astr] [ab, astr] false noList (stridedRows c ab astr len rows disp) s
def execLdqg (h : Hdr) (q c cl al ab len rows : Nat) (s : State) : Out :=
  queueLoad h 3 q c [creg cl, al, ab] [al, ab] true (listCheck cl al rows) (listedRows c cl al ab len rows) s
def execStq (h : Hdr) (q c index scale disp : Nat) (s : State) : Out :=
  queueStore h 4 q c (memRegs c index scale) (if scale = 7 then [] else [index]) false noList (wholeEntry c index scale disp) s
def execStqs (h : Hdr) (q c ab astr len rows disp : Nat) (s : State) : Out :=
  queueStore h 5 q c [ab, astr] [ab, astr] false noList (stridedRows c ab astr len rows disp) s
def execStqg (h : Hdr) (q c cl al ab len rows : Nat) (s : State) : Out :=
  queueStore h 6 q c [creg cl, al, ab] [al, ab] true (listCheck cl al rows) (listedRows c cl al ab len rows) s

/-- Spaces of the scalar loads and stores (05 R129, R146). -/
def scalarSpaces : List Nat := [0, 1, 2, 3, 5]

/-- The L1 line of an address, if the L1 holds it. -/
def State.l1Line (s : State) (t sp unit a : Nat) : Option L1Line :=
  (s.l1Key t sp unit a).bind fun k => (s.tile t).l1.find? fun l => l.key == k

/-- An earlier read of the request channel that is not performed reaches the L1 line of an address: the line,
filled before, does not serve a later load, which never returns an older write (12 R338). -/
def State.lineAwaited (s : State) (t sp unit a : Nat) : Bool :=
  match s.l1Key t sp unit a with
  | none => false
  | some k => s.flights.any fun f => match f.fl with
    | .access x => x.t == t && x.stage == 0 && !x.atomic && readsMem x.op && !isDeque x.op &&
        x.keys.any fun p => s.l1KeyAt t x.space x.unit p.1 x.phys == some k
    | _ => false

/-- A scalar load of `n` bytes (05 R146). Whether a line in the L1 is still there is a free choice (R135; log
entry 9): a hit gives the value as it was filled in exactly five tc. An acquire does not use the L1 (12 R332).
-/
def scalarLoad (h : Hdr) (op n d a imm : Nat) (s : State) : Out :=
  accIssue h s
    ⟨[d, creg a], never, none,
      fun s t => s.checkRange t (s.engSup t) (s.creg t a) ⟨scalarSpaces, false, 1, n⟩ (s.immAddr t a imm) n, 0⟩
    fun t sig s' =>
      let va := addrNat (s.immAddr t a imm)
      let x := newAccess h t op sig (s.creg t a) va
      let x := { x with keys := [(va, 0)], size := n, dst := d }
      match (if x.order = 0 ∧ !s.lineAwaited t x.space x.unit va then s'.l1Line t x.space x.unit va else none) with
      | none => s'.send x
      | some l =>
        let (k, s') := takeFree s'
        if k % 2 = 0 then
          let v : Word := BitVec.ofNat 64 (leNat (((bytesOfBv 64 l.data).drop (va % 64)).take n))
          (s'.flyTile t 5 (.areg t d ⟨v, l.p⟩ 0)).signalIn t 1 0 sig 5 none
        else (s'.dropL1 t fun key => key == l.key).send x

def execLdb (h : Hdr) (d a imm : Nat) (s : State) : Out := scalarLoad h 7 1 d a imm s
def execLdh (h : Hdr) (d a imm : Nat) (s : State) : Out := scalarLoad h 8 2 d a imm s
def execLdw (h : Hdr) (d a imm : Nat) (s : State) : Out := scalarLoad h 9 4 d a imm s
def execLdd (h : Hdr) (d a imm : Nat) (s : State) : Out := scalarLoad h 0xA 8 d a imm s

/-- A scalar store of `n` bytes of a[d] (05 R146). -/
def scalarStore (h : Hdr) (op n d a imm : Nat) (s : State) : Out :=
  accIssue h s
    ⟨[d, creg a], never, none,
      fun s t =>
        match s.checkRange t (s.engSup t) (s.creg t a) ⟨scalarSpaces, false, 2, n⟩ (s.immAddr t a imm) n with
        | some x => some x
        | none =>
          if (s.areg t d).p && capSpace (s.creg t a).v == 3 && !sinkAllowed h then
            some (.fault 0x31 (addrNat (s.immAddr t a imm)))
          else none, 1⟩
    fun t sig s' =>
      let va := addrNat (s.immAddr t a imm)
      let x := newAccess h t op sig (s.creg t a) va
      let r := s.areg t d
      let line := s.l1Key t x.space x.unit va
      (s'.dropL1 t fun k => line == some k).send
        { x with keys := [(va, 0)], size := n, result := ⟨r.v.setWidth 32768, r.p⟩ }

def execStb (h : Hdr) (d a imm : Nat) (s : State) : Out := scalarStore h 0xB 1 d a imm s
def execSth (h : Hdr) (d a imm : Nat) (s : State) : Out := scalarStore h 0xC 2 d a imm s
def execStw (h : Hdr) (d a imm : Nat) (s : State) : Out := scalarStore h 0xD 4 d a imm s
def execStd (h : Hdr) (d a imm : Nat) (s : State) : Out := scalarStore h 0xE 8 d a imm s

/-- The check of CLD and CST. -/
def capFail (perm a imm : Nat) (s : State) (t : Nat) : Option Xl :=
  s.checkRange t (s.engSup t) (s.creg t a) ⟨[0], false, perm, 16⟩ (s.immAddr t a imm) 16

def execCld (h : Hdr) (d a imm : Nat) (s : State) : Out :=
  accIssue h s ⟨[creg d, creg a], never, none, capFail 5 a imm, 0⟩ fun t sig s' =>
    let va := addrNat (s.immAddr t a imm)
    s'.send { newAccess h t 0xF sig (s.creg t a) va with keys := [(va, 0)], size := 16, dst := creg d }

def execCst (h : Hdr) (d a imm : Nat) (s : State) : Out :=
  accIssue h s ⟨[creg d, creg a], never, none, capFail 10 a imm, 1⟩ fun t sig s' =>
    let va := addrNat (s.immAddr t a imm)
    s'.send { newAccess h t 0x10 sig (s.creg t a) va with keys := [(va, 0)], size := 16, cap := s.creg t d }

/-- An atomic (05 R150): b, the expected value and the flags .W and .U travel with it. -/
def atomic (h : Hdr) (op d a b w u : Nat) (s : State) : Out :=
  let n := if w = 1 then 4 else 8
  accIssue h s
    ⟨[d, b, creg a], never, none,
      fun s t => s.checkRange t (s.engSup t) (s.creg t a) ⟨[0, 1, 2], false, 16, n⟩ (capOff (s.creg t a).v : Nat) n, 2⟩
    fun t sig s' =>
      let va := capOff (s.creg t a).v
      let y := s.areg t b
      let e := s.areg t d
      let x := newAccess h t op sig (s.creg t a) va
      let s' := match s.l1Key t x.space x.unit va with
        | some k => s'.updTile t fun T => { T with amoLines := setAdd T.amoLines k }
        | none => s'
      s'.send { x with
        atomic := true, keys := [(va, 0)], size := n, dst := d
        data := [(y.v.toNat, y.p), (e.v.toNat, e.p), (u, w == 1)] }

def execAmoadd (h : Hdr) (d a b w : Nat) (s : State) : Out := atomic h 0x1F d a b w 0 s
def execAmofadd (h : Hdr) (d a b w : Nat) (s : State) : Out := atomic h 0x20 d a b w 0 s
def execAmomin (h : Hdr) (d a b w u : Nat) (s : State) : Out := atomic h 0x21 d a b w u s
def execAmomax (h : Hdr) (d a b w u : Nat) (s : State) : Out := atomic h 0x22 d a b w u s
def execAmoand (h : Hdr) (d a b w : Nat) (s : State) : Out := atomic h 0x23 d a b w 0 s
def execAmoor (h : Hdr) (d a b w : Nat) (s : State) : Out := atomic h 0x24 d a b w 0 s
def execAmoxor (h : Hdr) (d a b w : Nat) (s : State) : Out := atomic h 0x25 d a b w 0 s
def execAmoswp (h : Hdr) (d a b w : Nat) (s : State) : Out := atomic h 0x26 d a b w 0 s
def execAmocas (h : Hdr) (d a b w : Nat) (s : State) : Out := atomic h 0x27 d a b w 0 s

/-- The column in which a monitor on an address stands, and its key: the home bank store, or the column
scratch's bank store. -/
def State.monitorAt (s : State) (t sp unit a : Nat) : Nat × Nat :=
  match sp with
  | 1 => (unit, s.scratchKey (s.tile t).ctx unit a)
  | _ =>
    match s.translate (s.tile t).ctx (tileCol t) a 2 0 with
    | .ok p => (p.home, p.pa)
    | _ => (0, 0)

/-- MWAIT (05 R152) holds issue; its check and arming travel to the executing unit. Until the monitor is armed,
`deadline` holds the length of the timeout. -/
def execMwait (h : Hdr) (d a b k : Nat) (s : State) : Out :=
  accIssue h s
    ⟨[d, b, creg a], never, none,
      fun s t => s.checkRange t (s.engSup t) (s.creg t a) ⟨[1, 2], false, 33, 8⟩ (capOff (s.creg t a).v : Nat) 8, 0⟩
    fun t sig s' =>
      let va := capOff (s.creg t a).v
      let x := newAccess h t 0x28 sig (s.creg t a) va
      let (col, key) := s.monitorAt t x.space x.unit va
      let e := (s.areg t b).v
      let dl := if k = 0 then none else some (2 ^ (k + 5))
      (s'.updEng t 1 fun y => { y with hold := .mwait d sig e va key col false dl 0 x.scope x.order }).send
        { x with atomic := true, keys := [(va, 0)], size := 8, dst := d, data := [(e.toNat, false)] }

/-- Puts and reduces of an access core outstanding (05 R127, R154). -/
def State.putsOut (s : State) (t : Nat) : Nat :=
  (s.flights.filter fun f => match f.fl with
    | .put p => p.t == t
    | _ => false).length

/-- The checks of a put or reduce (05 R153), in the model's order (log entry 68): sinks, a remote-semaphore
field with a destination in space 4, the length's limit, the source range, the destination range. -/
def putFail (cs cd so dof : Nat) (extra : List Nat) (semField : Nat) (len : State → Nat → Option Nat) (spaces : List Nat)
    (perm align : Nat) (s : State) (t : Nat) : Option Xl :=
  match s.regSink t ([so, dof] ++ extra) with
  | some x => some x
  | none =>
    if semField ≠ 0 ∧ capSpace (s.creg t cd).v = 4 then some (.fault 0x03 0)
    else
    match len s t with
    | none => some (.fault 0x09 0)
    | some n =>
      let src := s.creg t cs
      let dst := s.creg t cd
      match s.checkRange t (s.engSup t) src ⟨[0], false, 1, align⟩ (capOff src.v + (s.areg t so).v.toInt) n with
      | some x => some x
      | none =>
        s.checkRange t (s.engSup t) dst ⟨spaces, true, perm, align⟩ (capOff dst.v + (s.areg t dof).v.toInt) n

/-- The tile that a space-0 capability names. -/
def capTile (c : Cap) (t : Nat) : Nat := if capForeign c then tileAt (capRow c) (capCol c) else t

/-- Lengths that a put accepts, in bytes. -/
def putLen (ln lim : Nat) (s : State) (t : Nat) : Option Nat :=
  let n := (s.areg t ln).v.toNat
  if 64 ≤ n ∧ n ≤ lim ∧ n % 64 = 0 then some n else none

/-- Bytes of a reduce's element: I64 has type code 2. -/
def redSize (ty : Nat) : Nat := if ty = 2 then 8 else 4
def redLen (cnt ty : Nat) (s : State) (t : Nat) : Option Nat :=
  let n := (s.areg t cnt).v.toNat
  if 1 ≤ n ∧ n ≤ (if ty = 2 then 8192 else 16384) then some (n * redSize ty) else none

/-- Granules of a range. -/
def granuleCount (a n : Nat) : Nat := (a % 64 + n + 63) / 64

/-- Earliest tc of a put's signal after its issue (05 R127), for `n` granules of data, twice as many for a reduce. -/
def putTime (t target space n : Nat) : Nat :=
  if space = 4 then 1 else if target = t then 8 + n else if tileCol target = tileCol t then 72 + n else 160 + n

/-- The issue of a put or reduce of `n` bytes. -/
def State.sendPut (s : State) (h : Hdr) (t kind cs cd so dof n op ty : Nat) (sem : Option Nat) (handler : Nat) (arg : Word)
    (sig : Nat) : State :=
  let c := (s.creg t cd).v
  let src := addrNat (capOff (s.creg t cs).v + (s.areg t so).v.toInt)
  let dst := addrNat (capOff c + (s.areg t dof).v.toInt)
  let g := ((s.tile t).engine 1).group
  let k := granuleCount dst n
  let target := if capSpace c = 0 then capTile c t else t
  let order := scpOrder h 0
  let scope := wordScope h c t
  let p : Put := {
    t := t, kind := kind, src := src, target := target, dst := dst, len := n, op := op, ty := ty, sem := sem,
    handler := handler, arg := arg, sig := sig, roff := (g.head?.map fun w => w.off).getD 0, space := capSpace c,
    sink := sinkAllowed h, written := false, done := 0, order := order, scope := scope,
    ready := s.tc + putTime t target (capSpace c) (if kind = 2 then 2 * k else k), grp := g, got := [], arrived := none
    phys := s.capture (s.tile t).ctx (tileCol t) (capSpace c) ((List.range k).map fun i => dst + 64 * i) }
  (s.acquireL1 t scope order).flyDev 1 (.put p)

def putBusy (s : State) (t : Nat) : Bool := decide (8 ≤ s.putsOut t)

def execPutr (h : Hdr) (cs cd so dof ln sen sem : Nat) (s : State) : Out :=
  accIssue h s
    ⟨[creg cs, creg cd, so, dof, ln], putBusy, none,
      fun s t => putFail cs cd so dof [ln] (64 * sen + sem) (putLen ln 65536) [0, 4] 2 64 s t, 1⟩
    fun t sig s' =>
      s'.sendPut h t 0 cs cd so dof (s.areg t ln).v.toNat 0 0 (if sen = 1 then some sem else none) 0 0 sig

def execPuth (h : Hdr) (cs cd so dof ln ha arg : Nat) (s : State) : Out :=
  accIssue h s
    ⟨[creg cs, creg cd, so, dof, ln, ha, arg], putBusy, none,
      fun s t => putFail cs cd so dof [ln, ha] 0 (putLen ln 16384) [0] 64 64 s t, 1⟩
    fun t sig s' =>
      s'.sendPut h t 1 cs cd so dof (s.areg t ln).v.toNat 0 0 none (s.areg t ha).v.toNat (s.areg t arg).v sig

def execRred (h : Hdr) (cs cd so dof cnt op ty sen sem : Nat) (s : State) : Out :=
  accIssue h s
    ⟨[creg cs, creg cd, so, dof, cnt], putBusy, none,
      fun s t => putFail cs cd so dof [cnt] (64 * sen + sem) (redLen cnt ty) [0, 4] 128 (redSize ty) s t, 1⟩
    fun t sig s' =>
      s'.sendPut h t 2 cs cd so dof ((s.areg t cnt).v.toNat * redSize ty) op ty (if sen = 1 then some sem else none) 0 0 sig

/-- A deque word (05 R156), on its way to the column synchronisation engine. -/
def dequeWord (h : Hdr) (op dq v st col foreign : Nat) (s : State) : Out :=
  engIssue h s (interlock [v, st]) fun t sig s' =>
    let c := if foreign = 1 then col else tileCol t
    let r := s.areg t v
    let scope := scpScope h (if c = tileCol t then 1 else 2)
    s'.send { Access.blank t op sig with
      va := dq, unit := c, keys := [(dq, 0)], size := 8, dst := if op = 0x2C then 4096 else v, x := st
      data := [(r.v.toNat, r.p)], scope := scope, order := scpOrder h 0 }

def execDqpush (h : Hdr) (dq v st col foreign : Nat) (s : State) : Out := dequeWord h 0x2C dq v st col foreign s
def execDqpop (h : Hdr) (dq v st col foreign : Nat) (s : State) : Out := dequeWord h 0x2D dq v st col foreign s
def execDqsteal (h : Hdr) (dq v st col foreign : Nat) (s : State) : Out := dequeWord h 0x2E dq v st col foreign s

/-- The address check of L1INV and PREF: a failure makes the word a NOP (05 R149). -/
def State.hintAt (s : State) (t c index scale disp : Nat) (spaces : List Nat) : Option Nat :=
  let a := s.memAddr t c index scale disp
  match s.regSink t (if scale = 7 then [] else [index]) with
  | some _ => none
  | none =>
    match s.checkRange t (s.engSup t) (s.creg t c) ⟨spaces, false, 1, 1⟩ a 1 with
    | some _ => none
    | none => some (addrNat a)

def execL1inv (h : Hdr) (c index scale disp : Nat) (s : State) : Out :=
  engIssue h s (interlock (memRegs c index scale)) fun t sig s' =>
    let k := (s.creg t c).v
    let line := (s.hintAt t c index scale disp [1, 2]).bind fun a => s.l1Key t (capSpace k) (capUnit k t) a
    (s'.dropL1 t fun x => line == some x).signalIn t 1 0 sig 1 none

def execL1inva (h : Hdr) (s : State) : Out :=
  engIssue h s .none fun t sig s' => (s'.dropL1 t fun _ => true).signalIn t 1 0 sig 1 none

/-- PREF (05 R149): the fetch follows, with `x` 0 for the L1 line and 1 for the 4 KiB granule. -/
def execPref (h : Hdr) (q c index scale disp : Nat) (s : State) : Out :=
  engIssue h s (interlock (memRegs c index scale)) fun t sig s' =>
    let s' := match s.hintAt t c index scale disp [2] with
      | none => s'
      | some a => s'.send { newAccess h t 0x31 0 (s.creg t c) a with keys := [(a / 64 * 64, 0)], size := 64, x := 4096 + q }
    s'.signalIn t 1 0 sig 1 none

end Sys2Proof.Machine
end

