-- ==== Sys2Proof/Machine/AccUnit.lean ====
section
/-! DEFINITION. Sys2Proof/Machine/AccUnit.lean: accesses, puts and reduces of the access core at their executing units (05 R147, R150
to R156, R467; 12 R332 to R334; 04 R125, R126) and monitors (05 R152; 11 R317). Whatever the ordering rules leave open (when a
piece is performed, and in which order the pieces of a word are) is a free choice (log entries 2 and 8). -/

namespace Sys2Proof.Machine

/-- Replaces what flight `id` carries and when it is due. -/
def State.refly (s : State) (id due : Nat) (fl : Fl) : State :=
  { s with flights := s.flights.map fun f => if f.id = id then { f with due := due, fl := fl } else f }

/-- The F32 sum, rounded to nearest even with no flag (03 R79). -/
def addRne (a b : Nat) : Nat := (fp32.fit 0 false (fAdd 0 (fp32.read a) (fp32.read b))).1

/-- The new value of an atomic (05 R150) on `n` bits; `uns` compares unsigned. -/
def amoNew (op n : Nat) (uns : Bool) (old b e : Nat) : Nat :=
  let lt (x y : Nat) : Bool := if uns then decide (x < y) else decide ((BitVec.ofNat n x).toInt < (BitVec.ofNat n y).toInt)
  match op with
  | 0x1F => (old + b) % 2 ^ n
  | 0x20 => addRne old b
  | 0x21 => if lt b old then b else old
  | 0x22 => if lt old b then b else old
  | 0x23 => old &&& b
  | 0x24 => old ||| b
  | 0x25 => old ^^^ b
  | 0x26 => b
  | _ => if old = e then b else old

/-- A line taken into the L1, which holds 1,024 (05 R135). -/
def Tile.fillL1 (T : Tile) (l : L1Line) : Tile :=
  { T with l1 := (l :: T.l1.filter fun m => m.key != l.key).take 1024 }

/-- The line of an address leaves the L1: a read that does not fill it has returned what may be newer (12 R338). -/
def State.leaveL1 (s : State) (a : Access) (va : Nat) : State :=
  match s.l1KeyAt a.t a.space a.unit va a.phys with
  | some k => s.updTile a.t fun T => { T with l1 := T.l1.filter fun l => l.key != k }
  | none => s

/-- A scalar load's piece in a space that the L1 serves: its line is read whole, and fills the L1 unless it was
invalidated since the load issued. -/
def State.readThroughL1 (s : State) (a : Access) (va : Nat) : (List Nat × Bool) × State :=
  let ((bs, q), s) := s.readAt a.t a.space a.unit (va / 64 * 64) 64 a.phys
  let s := match s.l1KeyAt a.t a.space a.unit va a.phys with
    | some k => if a.noFill then s.leaveL1 a va else s.updTile a.t fun T => T.fillL1 ⟨k, bvOfBytes 512 bs, q⟩
    | none => s
  (((bs.drop (va % 64)).take a.size, q), s)

/-- The `n` lines from `va` that translate are brought into their home bank stores (05 R149; 10 R286). -/
def State.prefetchLines (s : State) (t va n : Nat) : State :=
  (List.range n).foldl (fun s i =>
    let a := va + 64 * i
    match s.translate (s.tile t).ctx (tileCol t) a 2 1 with
    | .ok p => (s.bsLine (s.tile t).ctx p a).2
    | _ => s) s

/-- The 64 lines of a 4 KiB granule brought into the home bank store (05 R149). -/
def State.prefetch (s : State) (t va : Nat) : State := s.prefetchLines t (va / 4096 * 4096) 64

/-- A deque operation at its column (05 R156): status, value, signal poison. -/
def State.dequeOp (s : State) (a : Access) : Access × State :=
  let done (st : Nat) (v : RegV) (q : Option (Nat × Nat)) (s : State) : Access × State :=
    ({ a with data := [(st, false), (v.v.toNat, v.p)], pois := q }, s)
  if s.colDisabled a.unit then done 5 .zero (some (0x57, originOf a.t 1)) s
  else
    match FM.find? (s.col a.unit).deques a.va with
    | none => done 3 .zero none s
    | some d =>
      let owner := a.t == tileAt d.row a.unit
      let put (es : List RegV) (s : State) : State :=
        s.updCol a.unit fun C => { C with deques := FM.set C.deques a.va { d with ents := es } }
      if d.ctx ≠ (s.tile a.t).ctx || (a.op != 0x2E && !owner) then done 3 .zero none s
      else if (s.tile (tileAt d.row a.unit)).state == .fenced then
        ({ a with data := [], pois := some (0x56, originOf a.t 1) }, s)
      else if d.pois.bit then done 4 .zero (some (d.pois.cause, d.pois.origin)) s
      else if a.op = 0x2C then
        if d.ents.length < d.cap then
          let v := a.data.headD (0, false)
          done 0 .zero none (put (d.ents ++ [⟨BitVec.ofNat 64 v.1, v.2⟩]) s)
        else done 2 .zero none s
      else
        match (if a.op = 0x2D then d.ents.getLast? else d.ents.head?) with
        | none => done 1 .zero none s
        | some v => done 0 v none (put (if a.op = 0x2D then d.ents.dropLast else d.ents.drop 1) s)

/-- An atomic at its executing unit (05 R150, R151). With .W the compare of AMOCAS takes the low 32 bits of a[d]
(log entry 68). -/
def State.atomicOp (s : State) (a : Access) (va : Nat) : Access × State :=
  let ((bs, q), s) := s.readAt a.t a.space a.unit va a.size a.phys
  let old := leNat bs
  let out (v : Nat) (p : Bool) : Access := { a with result := ⟨BitVec.ofNat 32768 v, p⟩ }
  match s.refusedAt a.t 1 a.space a.unit va a.phys with
  | some r => ({ out old true with pois := some r }, s)
  | none =>
    if q then (out old true, s)
    else
      let n := 8 * a.size
      let arg (i : Nat) : Nat × Bool := a.data.getD i (0, false)
      let new := amoNew a.op n ((arg 2).1 == 1) old ((arg 0).1 % 2 ^ n) ((arg 1).1 % 2 ^ n)
      (out old false, s.writeAt a.t a.space a.unit va (natLe a.size new) (arg 0).2 a.phys)

/-- Whether a line of device memory is in its home bank store, and the latency of an access to `va` (05 R127;
log entry 8). -/
def State.latency (s : State) (a : Access) (va : Nat) : Nat :=
  let near (c : Nat) : Nat := if c = tileCol a.t then 36 else 80
  if !readsMem a.op then 1
  else if isDeque a.op then 1
  else match a.space with
    | 0 => if a.op ≤ 3 then 8 else 4
    | 5 => 4
    | 1 => near a.unit
    | 2 =>
      match s.physFor (s.tile a.t).ctx (tileCol a.t) 2 va a.phys with
      | some p => if (s.line? p.home p.pa).isSome then near p.home else 260
      | none => 260
    | 3 => 720
    | _ => 640

/-- Performs the piece `k` of an access. -/
def State.performPiece (s : State) (a : Access) (k : Nat × Nat) : Access × State :=
  let a := { a with ready := max a.ready (a.issued + s.latency a k.1) }
  let s := if isRel a.order && a.scope == 3 then s.releaseSystem (s.tile a.t).ctx else s
  let r : Access × State :=
    if isDeque a.op then s.dequeOp a
    else if a.op = 0x31 then
      if a.x = 4097 then (a, s.prefetch a.t k.1) else (a, (s.readThroughL1 a k.1).2)
    else if a.op ≤ 3 then
      let ((bs, q), s) := s.readAt a.t a.space a.unit k.1 a.size a.phys
      let s := s.leaveL1 a k.1
      ({ a with result := ⟨a.result.v ||| (BitVec.ofNat 32768 (leNat bs) <<< (8 * k.2)), a.result.p || q⟩ }, s)
    else if 7 ≤ a.op ∧ a.op ≤ 0xA then
      let ((bs, q), s) :=
        if a.space = 1 ∨ a.space = 2 then s.readThroughL1 a k.1 else s.readAt a.t a.space a.unit k.1 a.size a.phys
      ({ a with result := ⟨BitVec.ofNat 32768 (leNat bs), q⟩ }, s)
    else if a.op = 0xF then
      let ((bs, q), s) := s.readUnit a.t 0 0 k.1 16
      ({ a with result := ⟨BitVec.ofNat 32768 (leNat bs), q⟩, tagOut := s.tagAt (spBase a.t + k.1) && !q }, s)
    else if a.op = 0x10 then
      let s := s.writeUnit a.t 0 0 k.1 (bytesOfBv 16 a.cap.v) false
      (a, { s with tags := setPut s.tags ((spBase a.t + k.1) / 16) a.cap.tag })
    else if 0x1F ≤ a.op ∧ a.op ≤ 0x27 then s.atomicOp a k.1
    else if a.op = 0x28 then
      let ((bs, q), s) := s.readAt a.t a.space a.unit k.1 8 a.phys
      ({ a with result := ⟨BitVec.ofNat 32768 (leNat bs), q⟩ }, s)
    else
      match s.refusedAt a.t 1 a.space a.unit k.1 a.phys with
      | some r => ({ a with pois := some (a.pois.getD r) }, s)
      | none =>
        let n := (s.tile a.t).cimOld.length
        let s := s.writeAt a.t a.space a.unit k.1 (natLe a.size ((a.result.v >>> (8 * k.2)).toNat)) a.result.p a.phys
        ({ a with cim := if a.space = 5 then n :: a.cim else a.cim }, s)
  let s := r.2
  if a.scope = 3 ∧ a.space = 2 ∧ accWrites a.op then
    match s.physFor (s.tile a.t).ctx (tileCol a.t) 2 k.1 a.phys with
    | some p => (r.1, s.writeBack p.home fun l => l.key == p.pa / 64)
    | none => r
  else r

/-- Performs up to `n` pieces in a free order; of pieces at one address the first goes first (05 R142). -/
def State.performSome : Nat → Nat → Access → State → Access × State
  | 0, _, a, s => (a, s)
  | n + 1, id, a, s =>
    let (i, s) := takeFree s
    match a.keys[i % a.keys.length]? with
    | none => (a, s)
    | some k0 =>
      let k := (a.keys.find? fun k => k.1 == k0.1).getD k0
      match s.view? ⟨id, .dev, 0, .access a⟩ with
      | none => (a, s)
      | some v =>
        if !s.mayPerform v (if isDeque a.op then a.unit else s.unitAt a.t a.space a.unit k.1 a.phys) then State.performSome n id a s
        else
          let (a', s) := s.performPiece a k
          State.performSome n id { a' with keys := a'.keys.erase k } s

/-- Sends the answer of an MWAIT on its way, from the value found or the poison of the granule, with the unit
that holds it (05 R152; 11 R323). -/
def State.mwaitAnswer (s : State) (a : Access) (v : Nat) (q : Bool) (origin : Nat) : Access :=
  { a with
    stage := 1, keys := [], result := ⟨BitVec.ofNat 32768 v, q⟩
    pois := if q then some (0x37, origin) else none, ready := max a.ready (s.tc + 1) }

/-- The check-and-arm step of an MWAIT whose read found a value: the awaited value arms a monitor, or waits 96
tc where none of the column's 256 is free (05 R152; 11 R317). -/
def State.mwaitStep (s : State) (id : Nat) (a : Access) : State :=
  match ((s.tile a.t).engine 1).hold with
  | .mwait dst sig e addr key col _ dl _ scope order =>
    let v := a.result.v.toNat % 2 ^ 64
    let (col, key) := match s.physFor (s.tile a.t).ctx (tileCol a.t) a.space addr a.phys with
      | some p => (p.home, p.pa)
      | none => (col, key)
    if a.result.p || v != e.toNat then
      let (d, s) := takeFree s
      s.refly id (max (s.tc + 1) a.ready + d) (.access (s.mwaitAnswer a v a.result.p (s.holderOf a.t a.space col addr a.phys)))
    else
      let s := s.land id
      if (s.col col).monitors.length < 256 then
        let s := s.updCol col fun C => { C with monitors := C.monitors ++ [(a.t, key, (s.tile a.t).ctx)] }
        s.updEng a.t 1 fun x => { x with
          hold := .mwait dst sig e addr key col true (dl.map fun n => n + (s.tile a.t).clk) 0 scope order }
      else s.updEng a.t 1 fun x => { x with hold := .mwait dst sig e addr key col false dl (s.tc + 96) scope order }
  | _ => s.land id

/-- A stopped engine's fault that arises after issue: an error completion of host memory (18 R450), a sink of a
put. -/
def State.lateFault (s : State) (t cause : Nat) (tval : Word) (sig : Nat) (grp : List RWord) : State :=
  (s.stopUnit t 1 cause tval grp grp).signalNow t 1 0 sig (some (cause, originOf t 1))

/-- A check or an error of an access after its issue (15 R400; 18 R450): a queue entry that it would fill is
given up, and the engine stops. -/
def State.accessFault (s : State) (id : Nat) (a : Access) (cause : Nat) (va : Nat) : State :=
  let s := s.land id
  let s := if a.op ≤ 3 then s.updTile a.t fun T => T.setQueue a.dst ((T.queue a.dst).drop a.x) else s
  let s := if a.op = 0x28 then s.unhold a.t 1 else s
  s.lateFault a.t cause (w64 va) a.sig a.grp

/-- What the translation says of an access that was discarded by a stop or starts over (15 R400; 12 R336). -/
def accNeed (op : Nat) : Nat := if accWrites op then (if readsMem op then 3 else 2) else 1
def State.accessXlate (s : State) (a : Access) : Option Xl :=
  if a.space < 2 ∨ 4 < a.space ∨ isDeque a.op ∨ a.phys ≠ [] then none
  else a.keys.findSome? fun k =>
    match s.translate (s.tile a.t).ctx (tileCol a.t) k.1 a.space (accNeed a.op) with
    | .ok _ => none
    | x => some x

/-- An access with its translations taken. -/
def State.translated (s : State) (a : Access) : Access :=
  let xs := s.capture (s.tile a.t).ctx (tileCol a.t) a.space (a.keys.map fun k => k.1)
  { a with phys := if isDeque a.op ∨ a.phys ≠ [] then a.phys else xs }

/-- The signal of an access, with the stores to the CIM whose completion it tells (04 R95; 12 R339). -/
def State.accSignal (s : State) (a : Access) : State :=
  (s.updTile a.t fun T => T.tell (sigKey 1 a.sig) a.cim).signalNow a.t 1 0 a.sig a.pois

/-- The end of an access at its tile: registers, queue entry and signal. A host access may have met an error
completion, which is a free choice. -/
def State.accessEnd (s : State) (id : Nat) (a : Access) : State :=
  let s := s.land id
  let sg (s : State) : State := s.accSignal a
  let (e, s) := if a.space = 3 then takeFree s else (0, s)
  if e % 2 = 1 then s.accessFault id a 0x59 a.va
  else
    let v : Word := BitVec.ofNat 64 (a.result.v.toNat % 2 ^ 64)
    let setA (r : Nat) (x : RegV) (s : State) : State := s.updTile a.t fun T => { T with aregs := FM.set T.aregs r x }
    if isDeque a.op then
      match a.data with
      | [st, w] =>
        let s := setA a.x ⟨BitVec.ofNat 64 st.1, false⟩ s
        sg (if st.1 = 0 ∧ a.op ≠ 0x2C then setA a.dst ⟨BitVec.ofNat 64 w.1, w.2⟩ s else s)
      | _ => sg s
    else if a.op = 0x28 then
      let s := s.updEng a.t 1 fun x => { x with hold := .none }
      sg (if a.result.p then s else setA a.dst ⟨v, false⟩ s)
    else if a.op ≤ 3 then sg (s.updTile a.t fun T => T.setQueue a.dst ((T.queue a.dst).fill a.x a.result))
    else if a.op = 0xF then
      sg (s.updTile a.t fun T => { T with
        cregs := FM.set T.cregs (a.dst % 64) ⟨BitVec.ofNat 128 (a.result.v.toNat % 2 ^ 128), a.tagOut⟩ })
    else if readsMem a.op then sg (setA a.dst ⟨v, a.result.p⟩ s)
    else sg s

/-- An access comes to its turn: pieces are performed, or its result is back. One that waited for a column under
repair is performed whole, so that such requests keep their order of arrival (17 R440). -/
def State.accessTurn (s : State) (id : Nat) (a : Access) : State :=
  if a.stage = 0 then
    if a.op = 0x34 then
      match s.view? ⟨id, .dev, 0, .access a⟩ with
      | some v =>
        if s.fenceReady v then
          let s := if isRel a.order then s.tellCim a.t else s
          ((s.land id).orderDone a.t a.scope a.order).signalNow a.t 1 0 a.sig none
        else s.refly id (s.tc + 1) (.access a)
      | none => s
    else match s.accessXlate a with
    | some (.fault cause va) => if a.op = 0x31 then s.land id else s.accessFault id a cause va
    | some (.held i va) =>
      s.holdAccess (tileCol a.t) (.acc a.t (id + 1)) (s.tile a.t).ctx va (if accNeed a.op = 3 then 2 else accNeed a.op - 1) (originOf a.t 1) i
    | _ =>
      let a := s.translated a
      let (n, s) := takeFree s
      let late := (s.flight? id).any fun f => f.clk == .dev && decide (f.due < s.tc)
      let (a, s) := s.performSome (if late then a.keys.length else n % (a.keys.length + 1)) id a
      if a.keys ≠ [] then s.refly id (s.tc + 1) (.access a)
      else if a.op = 0x28 then s.mwaitStep id a
      else if a.op = 0x31 then s.land id
      else
        let (d, s) := takeFree s
        s.refly id (max (s.tc + 1) a.ready + d) (.access { a with stage := 1 })
  else
    let T := s.tile a.t
    if T.state != .running then
      { s with flights := s.flights.map fun f => if f.id = id then ⟨id, .tile a.t, T.clk + 3, .access a⟩ else f }
    else if !s.tileRuns a.t then
      { s with flights := s.flights.map fun f => if f.id = id then ⟨id, .tile a.t, T.clk + 1, .access a⟩ else f }
    else s.accessEnd id a

def execAccessResponse (id : Nat) (s : State) : Out :=
  match s.flight? id with
  | some f =>
    match f.fl with
    | .access a => finish (s.accessTurn id a)
    | _ => finish s
  | none => finish s

/-- Frees the monitor of a tile. -/
def State.freeMonitor (s : State) (t : Nat) : State :=
  { s with cols := s.cols.map fun c => (c.1, { c.2 with monitors := c.2.monitors.filter fun m => m.1 != t }) }

/-- A monitor wakes its MWAIT with the value written, or a value beyond 64 bits for a poisoned granule (05 R152). -/
def execMonitorWake (t v : Nat) (s : State) : Out :=
  match ((s.tile t).engine 1).hold with
  | .mwait dst sig e addr key col true _ _ scope order =>
    let s := (s.freeMonitor t).updEng t 1 fun x => { x with hold := .mwait dst sig e addr key col false none 0 scope order }
    let (d, s) := takeFree s
    let a := s.mwaitAnswer { Access.blank t 0x28 sig with atomic := true, dst := dst } (v % 2 ^ 64) (decide (2 ^ 64 ≤ v))
      (s.holderOf t (if key < 2 ^ 42 then 2 else 1) col addr [])
    finish (s.flyDev (1 + d) (.access a))
  | _ => finish s

/-- The timeout of an MWAIT gives a[d] the awaited value (05 R152). -/
def execMwaitTimeout (t : Nat) (s : State) : Out :=
  match ((s.tile t).engine 1).hold with
  | .mwait dst sig e _ _ _ true (some _) _ _ _ =>
    let s := (s.freeMonitor t).updEng t 1 fun x => { x with hold := .none }
    finish ((s.updTile t fun T => { T with aregs := FM.set T.aregs dst ⟨e, false⟩ }).signalNow t 1 0 sig none)
  | _ => finish s

/-- The check-and-arm step of a held MWAIT starts over, with its order and scope (12 R336): a retry with no
monitor free (11 R317), or a resumed word (05 R152). Its address is translated again. -/
def State.mwaitAgain (s : State) (t : Nat) : State :=
  match ((s.tile t).engine 1).hold with
  | .mwait dst sig e addr key col false dl _ scope order =>
    let g := ((s.tile t).engine 1).group
    let a := { Access.blank t 0x28 sig with
      atomic := true, keys := [(addr, 0)], size := 8, dst := dst, va := addr, issued := s.tc, grp := g
      space := if key < 2 ^ 42 then 2 else 1, unit := col, data := [(e.toNat, false)], scope := scope, order := order
      roff := (g.head?.map fun w => w.off).getD 0 }
    ((s.updEng t 1 fun x => { x with hold := .mwait dst sig e addr key col false dl 0 scope order }).acquireL1 t scope order).flyDev 1
      (.access a)
  | _ => s

def execMonitorRetry (t : Nat) (s : State) : Out := finish (s.mwaitAgain t)

/-- Source granules of a put or reduce, and the granule `i` of them as it is read: whole, in ascending order,
with its poison (05 R154). -/
def Put.sources (p : Put) : Nat := granuleCount p.src p.len
def State.sourceGranule (s : State) (p : Put) (i : Nat) : List Nat × Bool :=
  let g := (spBase p.t + p.src) / 64 * 64 + 64 * i
  (s.bytes g 64, s.poisAt g)

/-- The put with every source granule read. -/
def State.readAll (s : State) (p : Put) : Put :=
  { p with got := p.got ++ (List.range (p.sources - p.got.length)).map fun i => s.sourceGranule p (p.got.length + i) }

/-- The range of the source that destination granule `i` takes, from its start. -/
def Put.part (p : Put) (i : Nat) : Nat × Nat :=
  (if i = 0 then 0 else 64 * i - p.dst % 64, min p.len (64 * (i + 1) - p.dst % 64))

/-- Destination granule `i` may be delivered: the source granules that it takes are read. -/
def Put.hasPart (p : Put) (i : Nat) : Bool := decide ((p.src % 64 + (p.part i).2 + 63) / 64 ≤ p.got.length)

/-- The bytes that delivery of destination granule `i` writes, with their poison, and where they go. -/
def Put.putPart (p : Put) (i : Nat) : Nat × List Nat × Bool :=
  let (lo, hi) := p.part i
  let g := p.src % 64 + lo
  let gs := (p.got.take ((p.src % 64 + hi + 63) / 64)).drop (g / 64)
  (p.dst + lo, ((gs.flatMap fun x => x.1).drop (g % 64)).take (hi - lo), gs.any fun x => x.2)

/-- One element of a reduce (05 R153, R154): integer operations wrap, F32 rounds to nearest even with no flag. -/
def redElem (op ty a b : Nat) : Nat :=
  if ty = 1 then
    let x := fp32.read a
    let y := fp32.read b
    match op with
    | 0 => addRne a b
    | 1 => (fp32.fit 0 false (fMin x y)).1
    | _ => (fp32.fit 0 false (fMax x y)).1
  else
    let n := 8 * redSize ty
    amoNew (match op with | 0 => 0x1F | 1 => 0x21 | 2 => 0x22 | 3 => 0x23 | 4 => 0x24 | _ => 0x25) n false a b 0

/-- Bytes after a reduce of `bs` into `old`. -/
def redBytes (op ty : Nat) (old bs : List Nat) : List Nat :=
  let w := redSize ty
  (List.range (bs.length / w)).flatMap fun i =>
    natLe w (redElem op ty (leNat ((old.drop (w * i)).take w)) (leNat ((bs.drop (w * i)).take w)))

/-- Delivers destination granule `i` of a put: a granule whole (05 R154). Peer memory lies outside the device. -/
def State.deliver (s : State) (p : Put) (i : Nat) : State :=
  let (a, bs, q) := p.putPart i
  if p.space = 4 then s
  else
    let k := spBase p.target + a
    if p.kind = 2 then s.putGranule k (redBytes p.op p.ty (s.bytes k bs.length) bs) (q || s.poisAt k)
    else s.putGranule k bs q

/-- What refuses a put after issue, with the origin of the word (05 R155; 11 R303; 16 R433; 18 R453). -/
def State.putRefused (s : State) (p : Put) : Option (Nat × Nat) :=
  if p.space = 4 then
    match s.physFor (s.tile p.t).ctx (tileCol p.t) 4 p.dst p.phys with
    | some x => if s.sys.portFailed.contains x.port then some (0x58, originOf p.t 1) else none
    | none => none
  else if s.colDisabled (tileCol p.target) then some (0x57, originOf p.t 1)
  else if (s.tile p.target).state == .fenced then some (0x56, originOf p.t 1)
  else if !(s.context (s.tile p.t).ctx).granted p.target then some (0x27, originOf p.t 1)
  else none

/-- The delivery of a put that is complete: the remote semaphore, the handler queue, then the signal on its way
(05 R154; 04 R125). -/
def State.putComplete (s : State) (id : Nat) (p : Put) : State :=
  let u := p.target
  let s := match p.sem with
    | some n => (s.updTile u fun T => T.setSem n ((T.semOf n).inc (originOf p.t 1))).retest u
    | none => s
  let s := if p.kind = 1 then
      s.updTile u fun T => { T with hq := T.hq ++ [⟨p.handler, p.dst, p.len, originOf p.t 1, p.arg⟩] }
    else s
  let (d, s) := takeFree s
  s.refly id (max (s.tc + 1) p.ready + d) (.put { p with written := true })

/-- What comes from tile `u` to tile `t` is for the task that the dispatcher has saved there (14 R378, R392): it
is of that task's launch, and the task now bound is not (log entry 24). -/
def State.forSaved (s : State) (t u : Nat) : Bool :=
  match FM.find? s.saved t with
  | some k => (s.tile t).state == .saved || (k.launch == (s.tile u).launch && k.ctx == (s.tile u).ctx && (s.tile t).launch != k.launch)
  | none => false

/-- The receive unit of the target is open, or has accepted the put already (14 R392), and it takes the put now:
for a handler put its queue has room (04 R126), and nothing that waited at the closed unit before the put waits
still. -/
def State.receives (s : State) (p : Put) : Bool :=
  p.space == 4 || decide (0 < p.done) || ((s.tile p.target).recvOpen && (s.tile p.target).state != .saved && !s.forSaved p.target p.t)
def State.putTaken (s : State) (p : Put) : Bool :=
  p.space == 4 || (s.receives p && !(p.kind == 1 && decide (8 ≤ (s.tile p.target).hq.length)))

/-- Another put, or an update of a home record, waited at the closed receive unit before put `p`, numbered `id`
(14 R392). -/
def State.putBehind (s : State) (id : Nat) (p : Put) : Bool :=
  p.space != 4 && s.flights.any fun f => match f.fl with
    | .put q => f.id != id && q.space != 4 && q.target == p.target && !q.written &&
        (match q.arrived, p.arrived with
         | some u, some v => decide (u < v) || (u == v && decide (f.id < id))
         | some _, none => true
         | none, _ => false)
    | .update t .. => t == p.target && p.arrived.any fun v => decide (f.due ≤ v)
    | _ => false

/-- A put comes to its turn (05 R154, R155). A poisoned source granule for peer memory is a sink (R153). A put
refused by a full handler queue is behind nothing. -/
def State.putTurn (s : State) (id : Nat) (p : Put) : State :=
  let T := s.tile p.t
  if p.written then
    if T.state != .running then
      { s with flights := s.flights.map fun f => if f.id = id then ⟨id, .tile p.t, T.clk + 3, .put p⟩ else f }
    else if !s.tileRuns p.t then
      { s with flights := s.flights.map fun f => if f.id = id then ⟨id, .tile p.t, T.clk + 1, .put p⟩ else f }
    else (s.land id).signalNow p.t 1 0 p.sig none
  else
    match s.putRefused p with
    | some r => (s.land id).signalNow p.t 1 0 p.sig (some r)
    | none =>
      if !s.receives p then s.refly id (s.tc + 96) (.put { p with arrived := some (p.arrived.getD s.tc) })
      else if !s.putTaken p then s.refly id (s.tc + 96) (.put { p with arrived := none })
      else if s.putBehind id p then s.refly id (s.tc + 1) (.put p)
      else
        match s.view? ⟨id, .dev, 0, .put p⟩ with
        | none => s
        | some v =>
          if !s.mayPerform v (s.putUnit p) then s.refly id (s.tc + 1) (.put p)
          else
            let s := if isRel p.order && p.scope == 3 then s.releaseSystem T.ctx else s
            let (r, s) := takeFree s
            let new := (List.range (r % (p.sources - p.got.length + 1))).map fun i => s.sourceGranule p (p.got.length + i)
            match (if p.space = 4 ∧ !p.sink then (List.range new.length).find? fun i => (new.getD i ([], false)).2 else none) with
            | some i => (s.land id).lateFault p.t 0x31 (w64 (max p.src ((p.src / 64 + p.got.length + i) * 64))) p.sig p.grp
            | none =>
              let p := { p with got := p.got ++ new }
              let n := granuleCount p.dst p.len
              let have' := ((List.range (n - p.done)).takeWhile fun j => p.hasPart (p.done + j)).length
              let (m, s) := takeFree s
              let k := m % (have' + 1)
              let s := (List.range k).foldl (fun s j => s.deliver p (p.done + j)) s
              let p := { p with done := p.done + k }
              if p.done < n then s.refly id (s.tc + 1) (.put p) else s.putComplete id p

/-- The put numbered `id` comes to its turn. -/
def State.putEvent (s : State) (id : Nat) : State :=
  match s.flight? id with
  | some f =>
    match f.fl with
    | .put p => s.putTurn id p
    | _ => s
  | none => s

def execPutDelivery (id : Nat) (s : State) : Out := finish (s.putEvent id)

/-- A put that the receive unit refused is tried again, 96 tc later, as 64 bc are (05 R154; 14 R392). -/
def execPuthRetry (id : Nat) (s : State) : Out := finish (s.putEvent id)

end Sys2Proof.Machine
end

