-- ==== Sys2Proof/Machine/Operands.lean ====
section
/-! DEFINITION. Sys2Proof/Machine/Operands.lean: the operands of vector words (02 R37, R38, R40; 06 R158, R162, R165 to R169, R172):
lanes and packed elements, element types, the slots of a word (registers with rotation, queues, streams, masks), and where a word's
result goes. -/

namespace Sys2Proof.Machine

/-- Lane j of row i; bit (i, j) of a mask. -/
def lane (v : VReg) (i j : Nat) : Nat := v.toNat / 2 ^ (32 * (64 * i + j)) % 2 ^ 32
def mbit (m : MReg) (i j : Nat) : Bool := m.toNat / 2 ^ (64 * i + j) % 2 == 1

/-- Values of `w` bits joined from the low end. -/
def joinLanes (w : Nat) : List Nat → Nat
  | [] => 0
  | x :: xs => x % 2 ^ w + 2 ^ w * joinLanes w xs

/-- The positions of a register in order. -/
def positions : List (Nat × Nat) := (List.range 16).flatMap fun i => (List.range 64).map fun j => (i, j)

def buildV (f : Nat → Nat → Nat) : VReg := BitVec.ofNat 32768 (joinLanes 32 (positions.map fun p => f p.1 p.2))
def buildM (f : Nat → Nat → Bool) : MReg := BitVec.ofNat 1024 (joinLanes 1 (positions.map fun p => bit (f p.1 p.2) 0))

/-- A register from lane results with flags; flags count where `act` holds (03 R81). -/
def buildVF (act : Nat → Nat → Bool) (f : Nat → Nat → Nat × Nat) : VReg × Nat :=
  let r := gather (positions.map fun p => (act p.1 p.2, f p.1 p.2))
  (BitVec.ofNat 32768 (joinLanes 32 r.1), r.2)
def buildMF (act : Nat → Nat → Bool) (f : Nat → Nat → Bool × Nat) : MReg × Nat :=
  let r := gather (positions.map fun p => (act p.1 p.2, bit (f p.1 p.2).1 0, (f p.1 p.2).2))
  (BitVec.ofNat 1024 (joinLanes 1 r.1), r.2)

def fullMask : MReg := BitVec.allOnes 1024

/-- Widths of the element types of 02 R37. -/
def tyBits (ty : Nat) : Nat := [32, 8, 8, 16, 64, 4, 32, 16, 16, 8, 8, 4, 8].getD ty 32
def ffmt (ty : Nat) : FFmt :=
  match ty with
  | 6 => fp32
  | 7 => bf16
  | 8 => fp16
  | 9 => e4m3
  | 10 => e5m2
  | _ => e2m1
def ity (ty : Nat) : ITy := ⟨tyBits ty, ty != 2⟩

/-- Element `k` of width `w` of a lane. -/
def slot (w k x : Nat) : Nat := x / 2 ^ (w * k) % 2 ^ w

/-- An operation on the packed elements of lanes. -/
def packed (w : Nat) (f : List Nat → Nat × Nat) (xs : List Nat) : Nat × Nat :=
  let rs := (List.range (32 / w)).map fun k => f (xs.map fun x => slot w k x)
  (joinLanes w (rs.map fun r => r.1), joinFlags (rs.map fun r => r.2))

/-- The physical registers under rotation (06 R169). -/
def Tile.vphys (T : Tile) (l : Nat) : Nat := if l < T.rotN then (l + T.vbase) % T.rotN else l
/-- A mask by its number, or by its specifier 1088 + number. -/
def Tile.mphys (T : Tile) (r : Nat) : Nat :=
  let n := if 1088 ≤ r then r - 1088 else r
  if 32 ≤ n ∧ n < 32 + T.rotM then 32 + (n - 32 + T.mbase) % T.rotM else n

def Tile.vreg (T : Tile) (r : Nat) : VVal := FM.get VVal.zero T.vregs r
def Tile.mreg (T : Tile) (r : Nat) : MVal := FM.get MVal.zero T.mregs r
def Tile.accOf (T : Tile) (r : Nat) : TVal := FM.get TVal.zero T.accs r

/-- Kinds of vector specifiers (02 R38). -/
def isLq (r : Nat) : Bool := decide (1024 ≤ r) && decide (r < 1028)
def isSq (r : Nat) : Bool := r == 1028 || r == 1029
def isStream (r : Nat) : Bool := decide (1032 ≤ r) && decide (r < 1040)

/-- What a tap on pipe `p` reads in tc `u` of stream `st`: the visible value of smallest h, of those the one
driven last (06 R172). -/
def Tile.tap (T : Tile) (st u p : Nat) : BitVec 2048 × Bool :=
  let seen (h : Nat) : Option StreamV :=
    T.streams.reverse.find? fun x => x.st == st && x.at' + h == u && (p + 4 - x.pipe) % 4 + 1 == h
  match (seen 1).or ((seen 2).or ((seen 3).or (seen 4))) with
  | some x => (x.row, x.p)
  | none => (0, false)

/-- The operand that a stream slot reads: pipe p in beat k taps row 4k + p. -/
def Tile.tapAll (T : Tile) (st : Nat) : VVal :=
  let rows := (List.range 16).map fun i => T.tap st (T.clk + i / 4) (i % 4)
  ⟨BitVec.ofNat 32768 (joinLanes 2048 (rows.map fun r => r.1.toNat)), rows.any fun r => r.2⟩

/-- The value of a vector source. -/
def Tile.vsrc (T : Tile) (r : Nat) : VVal :=
  if r < 1024 then T.vreg (T.vphys r)
  else if isLq r then ((T.queue r).head?).getD VVal.zero
  else if isStream r then T.tapAll (r - 1032)
  else VVal.zero

/-- The execution mask. -/
def Tile.m0 (T : Tile) : MVal := T.mreg 0

/-- The load queues that a word names, each once (02 R40). -/
def queuesOf (rs : List Nat) : List Nat := [1024, 1025, 1026, 1027].filter fun q => rs.contains q

/-- What holds a vector word beside its wait (06 R161): the pipes, unfilled heads, store queues without a free
entry. -/
def vecBusy (rs ds : List Nat) (s : State) (t : Nat) : Bool :=
  let T := s.tile t
  T.pipeBusy || ((queuesOf rs).any fun q => ((T.queue q).head?).isNone) ||
  ds.any fun d => isSq d && decide (4 ≤ (T.queue d).ents.length)

/-- The entries that a word pops (06 R166). -/
def State.popAll (s : State) (t : Nat) (rs : List Nat) : State :=
  s.updTile t fun T => (queuesOf rs).foldl (fun T q => T.setQueue q (T.queue q).pop) T

/-- A row of a register. -/
def rowOf (v : VReg) (i : Nat) : BitVec 2048 := BitVec.ofNat 2048 (v.toNat / 2 ^ (2048 * i) % 2 ^ 2048)

/-- The lanes of a value that a mask lets through, zero elsewhere. -/
def maskV (v : VReg) (m : MReg) : VReg := buildV fun i j => if mbit m i j then lane v i j else 0

/-- A vector result on its way to its destination, `l` tc after issue (06 R162, R166, R167, R172). -/
def State.putV (s : State) (t d l : Nat) (m : MReg) (v : VVal) (flags : Nat) : State :=
  let T := s.tile t
  if d < 1024 then s.flyTile t l (.vreg t (T.vphys d) m v flags)
  else if isSq d then
    let Q := T.queue d
    (s.updTile t fun T => T.setQueue d Q.alloc).flyTile t l (.qfill t 2 d Q.tail ⟨maskV v.v m, v.p⟩ flags)
  else if isStream d then
    let out := maskV v.v m
    let new := (List.range 16).map fun i => StreamV.mk s.nextId (d - 1032) (T.clk + l + i / 4) (i % 4) (rowOf out i) v.p
    let s := s.updTile t fun T => { T with streams := (T.streams.filter fun x => decide (T.clk ≤ x.at' + 8)) ++ new }
    if flags = 0 then { s with nextId := s.nextId + 1 } else s.flyTile t l (.flags t 2 flags)
  else if flags = 0 then s
  else s.flyTile t l (.flags t 2 flags)

/-- A mask result on its way. -/
def State.putM (s : State) (t d l : Nat) (m : MReg) (v : MVal) (flags : Nat) : State :=
  s.flyTile t l (.mreg t ((s.tile t).mphys d) m v flags)

/-- The issue of a pipe word that reads the slots `rs`, writes the slots `ds` and has latency `l`: its queues
are popped, its pipes taken, its signal sent at issue + `l` (06 R161, R164). -/
def vecIssue (h : Hdr) (s : State) (rs ds : List Nat) (l : Nat) (eff : Nat → Tile → State → State) : Out :=
  engIssue h s { EngChecks.none with busy := vecBusy rs ds } fun t sig s' =>
    let s' := (s'.popAll t rs).updTile t fun T => { T with lastPipe := some T.clk }
    (eff t (s.tile t) s').signalIn t 2 0 sig l none

/-- A word of the destination class (06 R167): `f` gives each lane from the operands, with its flags; only
positions under m0 are written. -/
def vecWord (h : Hdr) (s : State) (d : Nat) (rs : List Nat) (l : Nat) (f : List VReg → Nat → Nat → Nat × Nat) : Out :=
  vecIssue h s rs [d] l fun t T s' =>
    let xs := rs.map fun r => T.vsrc r
    let m := T.m0
    let (v, fl) := buildVF (mbit m.v) (f (xs.map fun x => x.v))
    s'.putV t d l m.v ⟨v, m.p || xs.any fun x => x.p⟩ fl

/-- A word of the destination class that works lane by lane. -/
def vecLane (h : Hdr) (s : State) (d : Nat) (rs : List Nat) (l : Nat) (f : List Nat → Nat × Nat) : Out :=
  vecWord h s d rs l fun vs i j => f (vs.map fun v => lane v i j)

/-- A word of the source class (06 R167): inactive elements are absent and the result is written whole. -/
def vecWhole (h : Hdr) (s : State) (d : Nat) (rs : List Nat) (l : Nat)
    (f : (Nat → Nat → Bool) → List VReg → VReg × Nat) : Out :=
  vecIssue h s rs [d] l fun t T s' =>
    let xs := rs.map fun r => T.vsrc r
    let (v, fl) := f (mbit T.m0.v) (xs.map fun x => x.v)
    s'.putV t d l fullMask ⟨v, T.m0.p || xs.any fun x => x.p⟩ fl

end Sys2Proof.Machine
end

