-- ==== Sys2Proof/Machine/Special.lean ====
section
/-! DEFINITION. Sys2Proof/Machine/Special.lean: the special functions of the vector engine (06 R173, R174, R189): the exact value of
the function, formed in fixed point to `fixP` bits with a sticky bit below, then rounded by Float's one rounding. Inputs whose value
is exact are named apart; every other value is irrational (log entry 10). -/

namespace Sys2Proof.Machine

/-- Fractional bits of the fixed-point values. -/
def fixP : Nat := 640

def fixMul (a b : Int) : Int := a * b / 2 ^ fixP

/-- An exact finite value in fixed point. -/
def fixOf (m : Nat) (e : Int) : Int :=
  if 0 ≤ e + fixP then (m : Int) * 2 ^ (e + fixP).toNat else (m : Int) / 2 ^ (-(e + fixP)).toNat

/-- `v` times 2^(k - fixP), inexact: a sticky bit below its last. -/
def FX.approx (v : Int) (k : Int) : FX := ⟨.fin (decide (v < 0)) (2 * v.natAbs + 1) (k - fixP - 1), 0⟩

def FX.exact (neg : Bool) (m : Nat) (e : Int) : FX := ⟨.fin neg m e, 0⟩

/-- A value too small or too large for any format. -/
def FX.tiny (neg : Bool) : FX := ⟨.fin neg 1 (-4000), 0⟩
def FX.huge (neg : Bool) : FX := ⟨.fin neg 1 4000, 0⟩

/-- Sum of term / odd with alternating or equal signs, each term divided by `n2`. -/
def atanSeries (alt : Bool) : Nat → Nat → Nat → Nat → Int
  | 0, _, _, _ => 0
  | f + 1, n2, term, odd =>
    let rest := atanSeries alt f n2 (term / n2) (odd + 2)
    ((term / odd : Nat) : Int) + (if alt then -rest else rest)

/-- pi at scale 2^`q` (Machin). -/
def piAt (q : Nat) : Int :=
  16 * atanSeries true 500 25 (2 ^ q / 5) 1 - 4 * atanSeries true 500 57121 (2 ^ q / 239) 1

/-- ln 2 in fixed point. -/
def ln2Fix : Int := 2 * atanSeries false 500 9 (2 ^ fixP / 3) 1

/-- The exponential series of `r`. -/
def expSeries (r : Int) : Nat → Nat → Int → Int
  | 0, _, _ => 0
  | f + 1, k, term => term + expSeries r f (k + 1) (fixMul term r / (k + 1 : Nat))

/-- e to the fixed-point power `x`, as a fixed-point value from 1 to 2 and a power of two. -/
def expFix (x : Int) : Int × Int :=
  let n := x / ln2Fix
  (expSeries (x - n * ln2Fix) 150 0 (2 ^ fixP), n)

/-- A function on values: NaN in, NaN out. -/
def onNumber (a : FV) (inf : Bool → FX) (f : Bool → Nat → Int → FX) : FX :=
  match a with
  | .nan s => if s then .invalid else .quiet
  | .inf n => inf n
  | .fin n m e => f n m e

/-- The magnitude is at least 2^`k`. -/
def atLeastPow (m : Nat) (e k : Int) : Bool := m != 0 && decide (k ≤ (Nat.log2 m : Int) + e)

def fExp (a : FV) : FX :=
  onNumber a (fun n => if n then .exact false 0 0 else ⟨.inf false, 0⟩) fun n m e =>
    if m = 0 then .exact false 1 0
    else if atLeastPow m e 10 then (if n then .tiny false else .huge false)
    else
      let (v, k) := expFix (if n then -fixOf m e else fixOf m e)
      .approx v k

/-- 2 to the power of an exact fixed-point value. -/
def exp2Fix (x : Int) : FX :=
  let n := x / 2 ^ fixP
  let f := x - n * 2 ^ fixP
  if f = 0 then .exact false 1 n else .approx (expSeries (fixMul f ln2Fix) 150 0 (2 ^ fixP)) n

def fExp2 (a : FV) : FX :=
  onNumber a (fun n => if n then .exact false 0 0 else ⟨.inf false, 0⟩) fun n m e =>
    if atLeastPow m e 10 then (if n then .tiny false else .huge false)
    else exp2Fix (if n then -fixOf m e else fixOf m e)

/-- 2 to the power n / 16 (06 R189). -/
def exp2Sixteenth (n : Int) : FX :=
  if n < -64000 then .tiny false else if 64000 < n then .huge false else exp2Fix (n * 2 ^ fixP / 16)

/-- Sum of term / odd, each term multiplied by `z2`. -/
def lnSeries (z2 : Nat) : Nat → Nat → Nat → Int
  | 0, _, _ => 0
  | f + 1, term, odd => ((term / odd : Nat) : Int) + lnSeries z2 f (term * z2 / 2 ^ fixP) (odd + 2)

/-- ln of a positive value. -/
def lnFix (m : Nat) (e : Int) : Int :=
  let l := Nat.log2 m
  let y := m * 2 ^ fixP / 2 ^ l
  let one := 2 ^ fixP
  let z := (y - one) * one / (y + one)
  let z2 := z * z / one
  ((l : Int) + e) * ln2Fix + 2 * lnSeries z2 250 z 1

def fLn (a : FV) : FX :=
  onNumber a (fun n => if n then .invalid else ⟨.inf false, 0⟩) fun n m e =>
    if m = 0 then ⟨.inf true, fDZ⟩
    else if n then .invalid
    else if m = 2 ^ Nat.log2 m ∧ (Nat.log2 m : Int) + e = 0 then .exact false 0 0
    else .approx (lnFix m e) 0

def fLog2 (a : FV) : FX :=
  onNumber a (fun n => if n then .invalid else ⟨.inf false, 0⟩) fun n m e =>
    if m = 0 then ⟨.inf true, fDZ⟩
    else if n then .invalid
    else if m = 2 ^ Nat.log2 m then ⟨FV.ofInt ((Nat.log2 m : Int) + e), 0⟩
    else .approx (lnFix m e * 2 ^ fixP / ln2Fix) 0

def fTanh (a : FV) : FX :=
  onNumber a (fun n => .exact n 1 0) fun n m e =>
    if m = 0 then .exact n 0 0
    else if atLeastPow m e 8 then .approx (if n then -(2 ^ fixP - 1) else 2 ^ fixP - 1) 0
    else
      let (v, k) := expFix (2 * fixOf m e)
      let big := v * 2 ^ k.toNat
      let r := (big - 2 ^ fixP) * 2 ^ fixP / (big + 2 ^ fixP)
      .approx (if n then -r else r) 0

/-- The logistic function of a nonzero value, as a fixed-point value and a power of two. -/
def sigmFix (n : Bool) (m : Nat) (e : Int) : Int × Int :=
  let one : Int := 2 ^ fixP
  if atLeastPow m e 9 then (if n then (1, -4000) else (one - 1, 0))
  else
    let (v, k) := expFix (-fixOf m e)
    let small := v / 2 ^ (-k).toNat
    if n then (v * one / (one + small), k) else (one * one / (one + small), 0)

def fSigm (a : FV) : FX :=
  onNumber a (fun n => if n then .exact false 0 0 else .exact false 1 0) fun n m e =>
    if m = 0 then .exact false 1 (-1)
    else
      let (v, k) := sigmFix n m e
      .approx v k

def fSilu (a : FV) : FX :=
  onNumber a (fun n => if n then .exact true 0 0 else ⟨.inf false, 0⟩) fun n m e =>
    if m = 0 then .exact n 0 0
    else
      let (v, k) := sigmFix n m e
      .approx (if n then -(v * m) else v * m) (k + e)

def sqrtPiFix : Int := (isqrt (fixP + 2) ((piAt fixP).toNat * 2 ^ fixP) 0 : Nat)
def sqrt2Fix : Int := (isqrt (fixP + 2) (2 * 2 ^ (2 * fixP)) 0 : Nat)

/-- The error function's series. -/
def erfSeries (z2 : Int) : Nat → Nat → Int → Int
  | 0, _, _ => 0
  | f + 1, k, term => term / (2 * k + 1 : Nat) - erfSeries z2 f (k + 1) (fixMul term z2 / (k + 1 : Nat))

/-- erf of a fixed-point value of magnitude below 12. -/
def erfFix (z : Int) : Int := 2 * erfSeries (fixMul z z) 900 0 z * 2 ^ fixP / sqrtPiFix

def fErf (a : FV) : FX :=
  onNumber a (fun n => .exact n 1 0) fun n m e =>
    if m = 0 then .exact n 0 0
    else
      let r := if atLeastPow m e 3 then 2 ^ fixP - 1 else erfFix (fixOf m e)
      .approx (if n then -r else r) 0

def fGelu (a : FV) : FX :=
  onNumber a (fun n => if n then .exact true 0 0 else ⟨.inf false, 0⟩) fun n m e =>
    if m = 0 then .exact n 0 0
    else if atLeastPow m e 4 then
      (if n then .tiny true else .approx ((2 ^ (fixP + 1) - 1) * m) (e - 1))
    else
      let z := fixOf m e * 2 ^ fixP / sqrt2Fix
      let u := 2 ^ fixP + erfFix (if n then -z else z)
      .approx (if n then -(u * m) else u * m) (e - 1)

/-- The Taylor series of sine (term = r, k = 1) or cosine (term = 1, k = 0). -/
def trigSeries (r2 : Int) : Nat → Nat → Int → Int
  | 0, _, _ => 0
  | f + 1, k, term => term - trigSeries r2 f (k + 2) (fixMul term r2 / ((k + 1) * (k + 2) : Nat))

/-- The quadrant of a magnitude and its rest in fixed point. -/
def reduceTrig (m : Nat) (e : Int) : Nat × Int :=
  let q := fixP + 160
  let half := piAt q / 2
  let x : Int := if 0 ≤ e + q then (m : Int) * 2 ^ (e + q).toNat else (m : Int) / 2 ^ (-(e + q)).toNat
  ((x / half % 4).toNat, (x % half) / 2 ^ 160)

/-- Sine of a magnitude, `shift` quadrants on. -/
def trigFix (m : Nat) (e : Int) (shift : Nat) : Int :=
  let (k, r) := reduceTrig m e
  let r2 := fixMul r r
  match (k + shift) % 4 with
  | 0 => trigSeries r2 100 1 r
  | 1 => trigSeries r2 100 0 (2 ^ fixP)
  | 2 => -trigSeries r2 100 1 r
  | _ => -trigSeries r2 100 0 (2 ^ fixP)

def fSin (a : FV) : FX :=
  onNumber a (fun _ => .invalid) fun n m e =>
    if m = 0 then .exact n 0 0 else .approx (if n then -trigFix m e 0 else trigFix m e 0) 0

def fCos (a : FV) : FX :=
  onNumber a (fun _ => .invalid) fun _ m e => if m = 0 then .exact false 1 0 else .approx (trigFix m e 1) 0

/-- 1 / a (06 R173). -/
def fRcp (a : FV) : FX := fDiv 64 (.fin false 1 0) a

/-- 1 / sqrt a (06 R173). -/
def fRsq (a : FV) : FX :=
  onNumber a (fun n => if n then .invalid else .exact false 0 0) fun n m e =>
    if m = 0 then ⟨.inf n, fDZ⟩
    else if n then .invalid
    else
      let m' := if e % 2 = 0 then m else 2 * m
      let e' := if e % 2 = 0 then e else e - 1
      let g := 64 + Nat.log2 m'
      let q := isqrt (g + 2) (2 ^ (2 * g) / m') 0
      ⟨.fin false (2 * q + (if q * q * m' = 2 ^ (2 * g) then 0 else 1)) (-(e' / 2) - g - 1), 0⟩

end Sys2Proof.Machine
end

