-- ==== Sys2Proof/Machine/VecAlu.lean ====
section
/-! DEFINITION. Sys2Proof/Machine/VecAlu.lean: the arithmetic words of the vector engine (06 R173 to R182): floating, special-function,
integer, bitwise, shift, bit-field, conversion, packing, quantising, compare, select and clamp: VEC opcodes 0x01 to 0x36. -/

namespace Sys2Proof.Machine

/-- A floating operation on the elements of the lanes: read exactly, formed exactly, rounded once (06 R173). -/
def floatElems (ty rnd sat : Nat) (f : List FV → FX) (xs : List Nat) : Nat × Nat :=
  let g := ffmt ty
  packed (tyBits ty) (fun es => g.fit rnd (sat == 1) (f (es.map g.read))) xs

def vecFloat (h : Hdr) (s : State) (d : Nat) (rs : List Nat) (l ty rnd sat : Nat) (f : List FV → FX) : Out :=
  vecLane h s d rs l (floatElems ty rnd sat f)

/-- Operand `k` of a list. -/
def fv (xs : List FV) (k : Nat) : FV := xs.getD k (.fin false 0 0)
def nv (xs : List Nat) (k : Nat) : Nat := xs.getD k 0

def execVadd (h : Hdr) (d a b ty rnd sat : Nat) (s : State) : Out :=
  vecFloat h s d [a, b] 8 ty rnd sat fun x => fAdd rnd (fv x 0) (fv x 1)
def execVsub (h : Hdr) (d a b ty rnd sat : Nat) (s : State) : Out :=
  vecFloat h s d [a, b] 8 ty rnd sat fun x => fAdd rnd (fv x 0) (fv x 1).neg
def execVmul (h : Hdr) (d a b ty rnd sat : Nat) (s : State) : Out :=
  vecFloat h s d [a, b] 8 ty rnd sat fun x => fMul (fv x 0) (fv x 1)
def execVfma (h : Hdr) (d a b ty rnd sat : Nat) (s : State) : Out :=
  vecFloat h s d [a, b, d] 8 ty rnd sat fun x => fFma rnd (fv x 0) (fv x 1) (fv x 2)
def execVfms (h : Hdr) (d a b ty rnd sat : Nat) (s : State) : Out :=
  vecFloat h s d [a, b, d] 8 ty rnd sat fun x => fFma rnd (fv x 0).neg (fv x 1) (fv x 2)
def execVdiv (h : Hdr) (d a b ty rnd sat : Nat) (s : State) : Out :=
  vecFloat h s d [a, b] 24 ty rnd sat fun x => fDiv 64 (fv x 0) (fv x 1)
def execVmin (h : Hdr) (d a b ty : Nat) (s : State) : Out :=
  vecFloat h s d [a, b] 8 ty 0 0 fun x => fMin (fv x 0) (fv x 1)
def execVmax (h : Hdr) (d a b ty : Nat) (s : State) : Out :=
  vecFloat h s d [a, b] 8 ty 0 0 fun x => fMax (fv x 0) (fv x 1)
def execVabs (h : Hdr) (d a ty : Nat) (s : State) : Out := vecFloat h s d [a] 8 ty 0 0 fun x => ⟨(fv x 0).abs, 0⟩
def execVneg (h : Hdr) (d a ty : Nat) (s : State) : Out := vecFloat h s d [a] 8 ty 0 0 fun x => ⟨(fv x 0).neg, 0⟩
def execVsqrt (h : Hdr) (d a ty rnd sat : Nat) (s : State) : Out :=
  vecFloat h s d [a] 24 ty rnd sat fun x => fSqrt 64 (fv x 0)
def execVrsq (h : Hdr) (d a ty rnd sat : Nat) (s : State) : Out := vecFloat h s d [a] 12 ty rnd sat fun x => fRsq (fv x 0)
def execVrcp (h : Hdr) (d a ty rnd sat : Nat) (s : State) : Out := vecFloat h s d [a] 12 ty rnd sat fun x => fRcp (fv x 0)
def execVexp (h : Hdr) (d a ty : Nat) (s : State) : Out := vecFloat h s d [a] 16 ty 0 0 fun x => fExp (fv x 0)
def execVexp2 (h : Hdr) (d a ty : Nat) (s : State) : Out := vecFloat h s d [a] 16 ty 0 0 fun x => fExp2 (fv x 0)
def execVlog (h : Hdr) (d a ty : Nat) (s : State) : Out := vecFloat h s d [a] 16 ty 0 0 fun x => fLn (fv x 0)
def execVlog2 (h : Hdr) (d a ty : Nat) (s : State) : Out := vecFloat h s d [a] 16 ty 0 0 fun x => fLog2 (fv x 0)
def execVtanh (h : Hdr) (d a ty : Nat) (s : State) : Out := vecFloat h s d [a] 20 ty 0 0 fun x => fTanh (fv x 0)
def execVsigm (h : Hdr) (d a ty : Nat) (s : State) : Out := vecFloat h s d [a] 20 ty 0 0 fun x => fSigm (fv x 0)
def execVgelu (h : Hdr) (d a ty : Nat) (s : State) : Out := vecFloat h s d [a] 20 ty 0 0 fun x => fGelu (fv x 0)
def execVsilu (h : Hdr) (d a ty : Nat) (s : State) : Out := vecFloat h s d [a] 20 ty 0 0 fun x => fSilu (fv x 0)
def execVsin (h : Hdr) (d a ty : Nat) (s : State) : Out := vecFloat h s d [a] 20 ty 0 0 fun x => fSin (fv x 0)
def execVcos (h : Hdr) (d a ty : Nat) (s : State) : Out := vecFloat h s d [a] 20 ty 0 0 fun x => fCos (fv x 0)
def execVerf (h : Hdr) (d a ty : Nat) (s : State) : Out := vecFloat h s d [a] 20 ty 0 0 fun x => fErf (fv x 0)

/-- An integer operation on the elements of the lanes (06 R175): the exact result fitted to the type. -/
def intElems (ty sat : Nat) (f : List Int → Int) (xs : List Nat) : Nat × Nat :=
  let t := ity ty
  packed t.w (fun es => t.fit (sat == 1) (f (es.map t.read))) xs

def vecInt (h : Hdr) (s : State) (d : Nat) (rs : List Nat) (l ty sat : Nat) (f : List Int → Int) : Out :=
  vecLane h s d rs l (intElems ty sat f)

def iv (xs : List Int) (k : Nat) : Int := xs.getD k 0

def execViadd (h : Hdr) (d a b ty sat : Nat) (s : State) : Out := vecInt h s d [a, b] 5 ty sat fun x => iv x 0 + iv x 1
def execVisub (h : Hdr) (d a b ty sat : Nat) (s : State) : Out := vecInt h s d [a, b] 5 ty sat fun x => iv x 0 - iv x 1
def execVimul (h : Hdr) (d a b ty sat : Nat) (s : State) : Out := vecInt h s d [a, b] 8 ty sat fun x => iv x 0 * iv x 1
def execVimulh (h : Hdr) (d a b ty : Nat) (s : State) : Out :=
  vecInt h s d [a, b] 8 ty 0 fun x => iv x 0 * iv x 1 / 2 ^ tyBits ty
def execVimad (h : Hdr) (d a b ty sat : Nat) (s : State) : Out :=
  vecInt h s d [a, b, d] 8 ty sat fun x => iv x 0 * iv x 1 + iv x 2
def execViabs (h : Hdr) (d a ty sat : Nat) (s : State) : Out := vecInt h s d [a] 5 ty sat fun x => (iv x 0).natAbs
def execVimin (h : Hdr) (d a b ty : Nat) (s : State) : Out := vecInt h s d [a, b] 5 ty 0 fun x => min (iv x 0) (iv x 1)
def execVimax (h : Hdr) (d a b ty : Nat) (s : State) : Out := vecInt h s d [a, b] 5 ty 0 fun x => max (iv x 0) (iv x 1)

def execVand (h : Hdr) (d a b : Nat) (s : State) : Out := vecLane h s d [a, b] 4 fun x => (nv x 0 &&& nv x 1, 0)
def execVor (h : Hdr) (d a b : Nat) (s : State) : Out := vecLane h s d [a, b] 4 fun x => (nv x 0 ||| nv x 1, 0)
def execVxor (h : Hdr) (d a b : Nat) (s : State) : Out := vecLane h s d [a, b] 4 fun x => (nv x 0 ^^^ nv x 1, 0)
def execVandn (h : Hdr) (d a b : Nat) (s : State) : Out :=
  vecLane h s d [a, b] 4 fun x => (nv x 0 &&& (2 ^ 32 - 1 - nv x 1), 0)

/-- Shifts of a `t` element by `n` (03 R69): a count at least the width gives zeros, or the sign fill. -/
def shlElem (t : ITy) (x n : Nat) : Nat := if n < t.w then x * 2 ^ n % 2 ^ t.w else 0
def shrElem (t : ITy) (arith : Bool) (x n : Nat) : Nat :=
  if arith then t.wrap (t.read x / 2 ^ min n t.w) else if n < t.w then x / 2 ^ n else 0

def execVshl (h : Hdr) (d a b ty : Nat) (s : State) : Out :=
  vecLane h s d [a, b] 5 (packed (tyBits ty) fun e => (shlElem (ity ty) (nv e 0) (nv e 1), 0))
def execVshr (h : Hdr) (d a b ty arith : Nat) (s : State) : Out :=
  vecLane h s d [a, b] 5 (packed (tyBits ty) fun e => (shrElem (ity ty) (arith == 1) (nv e 0) (nv e 1), 0))
def execVshli (h : Hdr) (d a n ty : Nat) (s : State) : Out :=
  vecLane h s d [a] 5 (packed (tyBits ty) fun e => (shlElem (ity ty) (nv e 0) n, 0))
def execVshri (h : Hdr) (d a n ty arith : Nat) (s : State) : Out :=
  vecLane h s d [a] 5 (packed (tyBits ty) fun e => (shrElem (ity ty) (arith == 1) (nv e 0) n, 0))

/-- Position and width of VEXT and VINS (06 R177). -/
def fieldPos (b : Nat) : Nat := b % 32
def fieldWidth (b : Nat) : Nat := b / 256 % 64
def fieldBad (b : Nat) : Bool := fieldWidth b == 0 || decide (32 < fieldPos b + fieldWidth b)

def extLane (sg a b : Nat) : Nat × Nat :=
  if fieldBad b then (0, fCL)
  else
    let w := fieldWidth b
    let x := a / 2 ^ fieldPos b % 2 ^ w
    (if sg = 1 ∧ 2 ^ (w - 1) ≤ x then 2 ^ 32 - 2 ^ w + x else x, 0)
def insLane (a b d : Nat) : Nat × Nat :=
  if fieldBad b then (d, fCL)
  else
    let k := 2 ^ fieldPos b
    let w := 2 ^ fieldWidth b
    (d - d / k % w * k + a % w * k, 0)

def execVext (h : Hdr) (d a b sg : Nat) (s : State) : Out := vecLane h s d [a, b] 5 fun x => extLane sg (nv x 0) (nv x 1)
def execVins (h : Hdr) (d a b : Nat) (s : State) : Out :=
  vecLane h s d [a, b, d] 5 fun x => insLane (nv x 0) (nv x 1) (nv x 2)
def execVfsh (h : Hdr) (d a b n : Nat) (s : State) : Out :=
  vecLane h s d [a, b] 5 fun x => ((nv x 0 * 2 ^ 32 + nv x 1) / 2 ^ n % 2 ^ 32, 0)
def execVpopc (h : Hdr) (d a : Nat) (s : State) : Out := vecLane h s d [a] 5 fun x => (popN 32 (nv x 0), 0)
def execVclz (h : Hdr) (d a : Nat) (s : State) : Out := vecLane h s d [a] 5 fun x => (clzN 32 (nv x 0), 0)

/-- Integer types of 02 R37. -/
def isInt (ty : Nat) : Bool := decide (ty ≤ 5)

/-- The value of an element of a floating or scale type. -/
def readFv (ty x : Nat) : FV := if ty = 12 then ofE8M0 x else (ffmt ty).read x

/-- The conversion of one element (06 R178; 03 R75 to R77): between integers by fitting, to an integer with
saturation, else the value rounded. -/
def convert (src dst rnd sat x : Nat) : Nat × Nat :=
  if isInt src then
    let v := (ity src).read x
    if isInt dst then (ity dst).fit (sat == 1) v
    else if dst = 12 then toE8M0 rnd (FV.ofInt v)
    else (ffmt dst).write rnd (sat == 1) (FV.ofInt v)
  else if isInt dst then (ity dst).ofFloat rnd (readFv src x)
  else if dst = 12 then (if src = 12 then (x % 256, 0) else toE8M0 rnd (readFv src x))
  else (ffmt dst).write rnd (sat == 1) (readFv src x)

def execVcvt (h : Hdr) (d a dt ty rnd sat : Nat) (s : State) : Out :=
  vecLane h s d [a] 8 fun x => convert ty dt rnd sat (nv x 0 % 2 ^ tyBits ty)

/-- VPACK (06 R179). -/
def packLane (w hs a b d : Nat) : Nat :=
  let k := 2 ^ (2 * hs * w)
  d - d / k % 2 ^ (2 * w) * k + (a % 2 ^ w + b % 2 ^ w * 2 ^ w) * k

def execVpack (h : Hdr) (d a b ty hs : Nat) (s : State) : Out :=
  vecLane h s d [a, b, d] 8 fun x => (packLane (tyBits ty) hs (nv x 0) (nv x 1) (nv x 2), 0)
def execVunpk (h : Hdr) (d a sl ty : Nat) (s : State) : Out :=
  vecLane h s d [a] 8 fun x => (slot (tyBits ty) sl (nv x 0), 0)

/-- emax of the MX formats (03 R91). -/
def emaxOf (ty : Nat) : Int :=
  match ty with
  | 9 => 8
  | 10 => 15
  | 11 => 2
  | _ => 0

/-- The greatest magnitude of a list of values; none where one is NaN or infinite. -/
def amaxOf : List FV → Option (Nat × Int)
  | [] => some (0, 0)
  | x :: xs =>
    match x, amaxOf xs with
    | .fin _ m e, some (n, f) => if ((Dy.of false m e).add (Dy.of true n f)).n < 0 then some (n, f) else some (m, e)
    | _, _ => none

/-- The scale code of a block (03 R91), with its flags: a code that the clip changes sets cl (00 R7). -/
def scaleCode (ty : Nat) (xs : List FV) : Nat × Nat :=
  match amaxOf xs with
  | none => (0xFF, fNV)
  | some (m, e) =>
    if m = 0 then (0, 0)
    else
      let x := (Nat.log2 m : Int) + e - emaxOf ty + 127
      let y := max 0 (min 254 x)
      (y.toNat, if x = y then 0 else fCL)

/-- An element quantised under a scale code (03 R91). -/
def quantElem (ty code : Nat) (x : FV) : Nat × Nat :=
  if code = 0xFF then (0, 0)
  else match x with
    | .fin n m e =>
      let e' := e + 127 - (code : Int)
      if ty = 1 then (ity 1).ofFloat 0 (.fin n m (e' + 6)) else (ffmt ty).write 0 true (.fin n m e')
    | _ => (0, 0)

/-- The blocks of VQNT: of block k of row i the scale and the 32 elements, with their flags (06 R180). -/
def quantBlock (ty : Nat) (act : Nat → Nat → Bool) (v : VReg) (i k : Nat) : Nat × List Nat × Nat :=
  let js := (List.range 32).map fun e => 32 * k + e
  let on := js.filter fun j => act i j
  let (code, f0) := scaleCode ty (on.map fun j => fp32.read (lane v i j))
  let es := js.map fun j => if act i j then quantElem ty code (fp32.read (lane v i j)) else (0, 0)
  (code, es.map fun e => e.1, f0 ||| joinFlags (es.map fun e => e.2))

/-- The 64 lanes of a row of elements. -/
def quantRow (ty : Nat) (b0 b1 : List Nat) : Nat :=
  joinLanes (32 * (if ty = 11 then 4 else 8)) [joinLanes (tyBits ty) b0, joinLanes (tyBits ty) b1]

def execVqnt (h : Hdr) (d a b ty : Nat) (s : State) : Out :=
  vecIssue h s [a] [d, b] 16 fun t T s' =>
    let x := T.vsrc a
    let m := T.m0
    let bl := fun i k => quantBlock ty (mbit m.v) x.v i k
    let rows := (List.range 16).map fun i => (bl i 0, bl i 1)
    let fl := joinFlags (rows.map fun r => r.1.2.2 ||| r.2.2.2)
    let es := BitVec.ofNat 32768 (joinLanes 2048 (rows.map fun r => quantRow ty r.1.2.1 r.2.2.1))
    let sc := BitVec.ofNat 32768 (joinLanes 2048 (rows.map fun r => r.1.1 + r.2.1 * 2 ^ 32))
    (s'.putV t d 16 fullMask ⟨es, x.p || m.p⟩ fl).putV t b 16 fullMask ⟨sc, x.p || m.p⟩ 0

/-- The element e of block k of row i that VDQNT reads, in VQNT's layout, and its value under the block's scale. -/
def dequant (ty : Nat) (a b : VReg) (i j : Nat) : Nat × Nat :=
  let k := j / 32
  let e := j % 32
  let w := tyBits ty
  let per := 32 / w
  let x := slot w (e % per) (lane a i ((32 / per) * k + e / per))
  let sc := lane b i k % 256
  if sc = 0xFF then (fp32.canon, fNV)
  else
    let v := if ty = 1 then (match FV.ofInt ((ity 1).read x) with | .fin n m f => FV.fin n m (f - 6) | v => v) else (ffmt ty).read x
    fp32.write 0 false (match v with
      | .fin n m f => .fin n m (f + sc - 127)
      | v => v)

def execVdqnt (h : Hdr) (d a b ty : Nat) (s : State) : Out :=
  vecWord h s d [a, b] 16 fun vs i j => dequant ty (vs.getD 0 0) (vs.getD 1 0) i j

/-- A word that writes a mask of the destination class (06 R167). -/
def vecToMask (h : Hdr) (s : State) (d : Nat) (rs : List Nat) (l : Nat) (f : List Nat → Bool × Nat) : Out :=
  vecIssue h s rs [] l fun t T s' =>
    let xs := rs.map fun r => T.vsrc r
    let m := T.m0
    let (v, fl) := buildMF (mbit m.v) fun i j => f (xs.map fun x => lane x.v i j)
    s'.putM t d l m.v ⟨v, m.p || xs.any fun x => x.p⟩ fl

/-- Conditions of VCMP on integers (06 R181). -/
def iCmp (cond : Nat) (a b : Int) : Bool :=
  match cond with
  | 0 => a == b
  | 1 => a != b
  | 2 => decide (a < b)
  | 3 => decide (a ≤ b)
  | 4 => decide (b < a)
  | _ => decide (b ≤ a)

def execVcmp (h : Hdr) (d a b ty cond : Nat) (s : State) : Out :=
  vecToMask h s d [a, b] 5 fun x =>
    if ty = 6 then fCmp cond (fp32.read (nv x 0)) (fp32.read (nv x 1))
    else (iCmp cond ((ity 0).read (nv x 0)) ((ity 0).read (nv x 1)), 0)
def execVcmpi (h : Hdr) (d a cond imm : Nat) (s : State) : Out :=
  vecToMask h s d [a] 5 fun x => (iCmp cond ((ity 0).read (nv x 0)) ((ity 0).read imm), 0)

/-- VSEL reads the mask `n` too (06 R182). -/
def execVsel (h : Hdr) (d a b n : Nat) (s : State) : Out :=
  vecIssue h s [a, b] [d] 4 fun t T s' =>
    let x := T.vsrc a
    let y := T.vsrc b
    let k := T.mreg (T.mphys n)
    let m := T.m0
    let v := buildV fun i j => if mbit k.v i j then lane x.v i j else lane y.v i j
    s'.putV t d 4 m.v ⟨v, m.p || k.p || x.p || y.p⟩ 0

/-- VCLAMP of d between a and b (06 R182). -/
def clampLane (ty a b d : Nat) : Nat × Nat :=
  if ty = 6 then
    let lo := fMax (fp32.read d) (fp32.read a)
    let hi := fMin lo.v (fp32.read b)
    let (r, f) := fp32.write 0 false hi.v
    (r, f ||| lo.fl ||| hi.fl ||| flagIf (r != d) fCL)
  else
    let t := ity 0
    let r := t.wrap (min (max (t.read d) (t.read a)) (t.read b))
    (r, flagIf (r != d) fCL)

def execVclamp (h : Hdr) (d a b ty : Nat) (s : State) : Out :=
  vecLane h s d [a, b, d] 5 fun x => clampLane ty (nv x 0) (nv x 1) (nv x 2)

end Sys2Proof.Machine
end

