-- ==== Sys2Proof/Machine/VecMove.lean ====
section
/-! DEFINITION. Sys2Proof/Machine/VecMove.lean: mask words, movement, reductions and scans, softmax, normalisation and confidence, and
the control words of the vector engine (06 R170, R171, R183 to R192): VEC opcodes 0x37 to 0x56. -/

namespace Sys2Proof.Machine

/-- A mask word that m0 does not touch: it writes its whole destination (06 R167, R183). -/
def maskWord (h : Hdr) (s : State) (d : Nat) (rs : List Nat) (f : List MReg → MReg) : Out :=
  vecIssue h s [] [] 4 fun t T s' =>
    let xs := rs.map fun r => T.mreg (T.mphys r)
    s'.putM t d 4 fullMask ⟨f (xs.map fun x => x.v), xs.any fun x => x.p⟩ 0

def mv (xs : List MReg) (k : Nat) : MReg := xs.getD k 0

def execMand (h : Hdr) (d a b : Nat) (s : State) : Out := maskWord h s d [a, b] fun x => mv x 0 &&& mv x 1
def execMor (h : Hdr) (d a b : Nat) (s : State) : Out := maskWord h s d [a, b] fun x => mv x 0 ||| mv x 1
def execMxor (h : Hdr) (d a b : Nat) (s : State) : Out := maskWord h s d [a, b] fun x => mv x 0 ^^^ mv x 1
def execMnot (h : Hdr) (d a : Nat) (s : State) : Out := maskWord h s d [a] fun x => ~~~(mv x 0)
def execMset (h : Hdr) (d rs n : Nat) (s : State) : Out :=
  maskWord h s d [] fun _ => buildM fun i j => rs / 2 ^ i % 2 == 1 && decide (j < n)

def execMpopc (h : Hdr) (d a : Nat) (s : State) : Out :=
  vecIssue h s [] [d] 5 fun t T s' =>
    let k := T.mreg (T.mphys a)
    let v := buildV fun i j => if j = 0 then popN 64 (k.v.toNat / 2 ^ (64 * i) % 2 ^ 64) else 0
    s'.putV t d 5 fullMask ⟨v, k.p⟩ 0

def execMtov (h : Hdr) (d a : Nat) (s : State) : Out :=
  vecIssue h s [] [d] 4 fun t T s' =>
    let k := T.mreg (T.mphys a)
    let m := T.m0
    s'.putV t d 4 m.v ⟨buildV fun i j => if mbit k.v i j then 2 ^ 32 - 1 else 0, m.p || k.p⟩ 0

def execVtom (h : Hdr) (d a : Nat) (s : State) : Out := vecToMask h s d [a] 4 fun x => (nv x 0 != 0, 0)

/-- A movement word: lane (i, j) of the result is a lane of the operands (06 R184). -/
def vecMove (h : Hdr) (s : State) (d : Nat) (rs : List Nat) (l : Nat) (f : List VReg → Nat → Nat → Nat) : Out :=
  vecWord h s d rs l fun vs i j => (f vs i j, 0)

def vv (xs : List VReg) (k : Nat) : VReg := xs.getD k 0

def execVmov (h : Hdr) (d a : Nat) (s : State) : Out := vecMove h s d [a] 4 fun v i j => lane (vv v 0) i j
def execVsplat (h : Hdr) (d imm : Nat) (s : State) : Out := vecMove h s d [] 4 fun _ _ _ => imm % 2 ^ 32
def execVidx (h : Hdr) (d : Nat) (s : State) : Out := vecMove h s d [] 4 fun _ i j => 64 * i + j
def execVbcr (h : Hdr) (d a n : Nat) (s : State) : Out := vecMove h s d [a] 8 fun v i _ => lane (vv v 0) i n
def execVbcc (h : Hdr) (d a n : Nat) (s : State) : Out := vecMove h s d [a] 8 fun v _ j => lane (vv v 0) n j
def execVrotr (h : Hdr) (d a n : Nat) (s : State) : Out := vecMove h s d [a] 8 fun v i j => lane (vv v 0) i ((j + n) % 64)
def execVrotc (h : Hdr) (d a n : Nat) (s : State) : Out := vecMove h s d [a] 8 fun v i j => lane (vv v 0) ((i + n) % 16) j
def execVperm (h : Hdr) (d a b : Nat) (s : State) : Out :=
  vecMove h s d [a, b] 8 fun v i j => lane (vv v 0) i (lane (vv v 1) i j % 64)
def execVlut (h : Hdr) (d a b : Nat) (s : State) : Out :=
  vecMove h s d [a, b] 8 fun v i j => let t := lane (vv v 1) i j % 1024; lane (vv v 0) (t / 64) (t % 64)
def execVtrn (h : Hdr) (d a : Nat) (s : State) : Out :=
  vecMove h s d [a] 12 fun v i j => lane (vv v 0) (j % 16) (16 * (j / 16) + i)
def execVrng (h : Hdr) (d a b : Nat) (s : State) : Out :=
  vecMove h s d [a, b] 8 fun v i j => (crng (w64 (lane (vv v 0) i j)) (w64 (lane (vv v 1) i j))).toNat % 2 ^ 32

/-- Element (i, j) of an accumulator tile. -/
def elem (v : Tile32) (i j : Nat) : Nat := v.toNat / 2 ^ (32 * (16 * i + j)) % 2 ^ 32

def execVmovfa (h : Hdr) (d a q : Nat) (s : State) : Out :=
  vecIssue h s [] [d] 8 fun t T s' =>
    let x := T.accOf (accIdx a)
    let m := buildM fun _ j => j / 16 == q
    s'.putV t d 8 m ⟨buildV fun i j => if j / 16 = q then elem x.v i (j % 16) else 0, x.p⟩ 0

def execVmovta (h : Hdr) (d a q : Nat) (s : State) : Out :=
  vecIssue h s [a] [] 8 fun t T s' =>
    let x := T.vsrc a
    let v := BitVec.ofNat 8192
      (joinLanes 32 ((List.range 256).map fun k => lane x.v (k / 16) (16 * q + k % 16)))
    s'.flyTile t 8 (.tile t (accIdx d) true 0 ⟨v, x.p⟩ 0)

/-- One node of a reduction: of op 0 add, 1 min, 2 max on exact values, rounded to FP32 (03 R89, R90). -/
def nodeF (op rnd sat : Nat) (a b : FV) : FV × Nat :=
  let x := match op with
    | 0 => fAdd rnd a b
    | 1 => fMin a b
    | _ => fMax a b
  let (r, f) := fp32.fit rnd (sat == 1) x
  (fp32.read r, f)

/-- One node on I32: 0 add, 1 min, 2 max, 3 and, 4 or, 5 xor. -/
def nodeI (op sat : Nat) (a b : Nat) : Nat × Nat :=
  let t := ity 0
  match op with
  | 0 => t.fit (sat == 1) (t.read a + t.read b)
  | 1 => (t.wrap (min (t.read a) (t.read b)), 0)
  | 2 => (t.wrap (max (t.read a) (t.read b)), 0)
  | 3 => (a &&& b, 0)
  | 4 => (a ||| b, 0)
  | _ => (a ^^^ b, 0)

/-- One level of the pairwise tree, absent elements leaving their partner (03 R89). -/
def treeLevel {α : Type} (f : α → α → α × Nat) : List (Option α) → List (Option α) × Nat
  | a :: b :: xs =>
    let r := treeLevel f xs
    match a, b with
    | some x, some y => let z := f x y; (some z.1 :: r.1, z.2 ||| r.2)
    | some x, none => (some x :: r.1, r.2)
    | none, y => (y :: r.1, r.2)
  | xs => (xs, 0)

def tree {α : Type} (f : α → α → α × Nat) : Nat → List (Option α) → Option α × Nat
  | 0, xs => (xs.headD none, 0)
  | n + 1, xs =>
    let r := treeLevel f xs
    let q := tree f n r.1
    (q.1, r.2 ||| q.2)

/-- The identity of an operation (03 R89). -/
def identF (op : Nat) : FV :=
  match op with
  | 0 => .fin false 0 0
  | 1 => .inf false
  | _ => .inf true
def identI (op : Nat) : Nat :=
  match op with
  | 1 => 2 ^ 31 - 1
  | 2 => 2 ^ 31
  | 3 => 2 ^ 32 - 1
  | _ => 0

/-- A reduction of `2^n` FP32-valued elements, delivered in format `g`; of integers. -/
def reduceF (g : FFmt) (op rnd sat n : Nat) (xs : List (Option FV)) : Nat × Nat :=
  let (r, f) := tree (nodeF op rnd sat) n xs
  let (b, f') := g.write rnd (sat == 1) (r.getD (identF op))
  (b, f ||| f')
def reduceI (op sat n : Nat) (xs : List (Option Nat)) : Nat × Nat :=
  let (r, f) := tree (nodeI op sat) n xs
  (r.getD (identI op), f)

/-- The two BF16 elements of a lane combined in FP32 first (06 R186). -/
def pairF (op rnd sat x : Nat) : FV × Nat := nodeF op rnd sat (bf16.read (slot 16 0 x)) (bf16.read (slot 16 1 x))

/-- The reduction of one row by VREDR: the result of lane 0 with flags. -/
def redRow (op ty rnd sat : Nat) (act : Nat → Bool) (x : Nat → Nat) : Nat × Nat :=
  let js := List.range 64
  match ty with
  | 0 => reduceI op sat 6 (js.map fun j => if act j then some (x j) else none)
  | 6 => reduceF fp32 op rnd sat 6 (js.map fun j => if act j then some (fp32.read (x j)) else none)
  | _ =>
    let ps := js.map fun j => if act j then some (pairF op rnd sat (x j)) else none
    let r := reduceF bf16 op rnd sat 6 (ps.map fun p => p.map fun q => q.1)
    (r.1, r.2 ||| joinFlags (ps.map fun p => (p.map fun q => q.2).getD 0))

/-- The reduction of one lane by VREDC. -/
def redCol (op ty rnd sat : Nat) (act : Nat → Bool) (x : Nat → Nat) : Nat × Nat :=
  let is := List.range 16
  match ty with
  | 0 => reduceI op sat 4 (is.map fun i => if act i then some (x i) else none)
  | 6 => reduceF fp32 op rnd sat 4 (is.map fun i => if act i then some (fp32.read (x i)) else none)
  | _ =>
    let half (k : Nat) := reduceF bf16 op rnd sat 4 (is.map fun i => if act i then some (bf16.read (slot 16 k (x i))) else none)
    ((half 0).1 + (half 1).1 * 2 ^ 16, (half 0).2 ||| (half 1).2)

def execVredr (h : Hdr) (d a op ty rnd sat : Nat) (s : State) : Out :=
  vecWhole h s d [a] 16 fun act vs =>
    let rs := (List.range 16).map fun i => redRow op ty rnd sat (act i) (lane (vv vs 0) i)
    (buildV fun i j => if j = 0 then (rs.getD i (0, 0)).1 else 0, joinFlags (rs.map fun r => r.2))

def execVredc (h : Hdr) (d a op ty rnd sat : Nat) (s : State) : Out :=
  vecWhole h s d [a] 12 fun act vs =>
    let rs := (List.range 64).map fun j => redCol op ty rnd sat (fun i => act i j) fun i => lane (vv vs 0) i j
    (buildV fun i j => if i = 0 then (rs.getD j (0, 0)).1 else 0, joinFlags (rs.map fun r => r.2))

/-- A scan (03 R90): the running value, none before the first active element, and the outputs with flags. -/
def scan {α : Type} (f : α → α → α × Nat) (out : Option α → Nat × Nat) : Option α → List (Option α) → List (Nat × Nat)
  | _, [] => []
  | acc, x :: xs =>
    let n : Option α × Nat := match acc, x with
      | some a, some b => let r := f a b; (some r.1, r.2)
      | none, b => (b, 0)
      | a, none => (a, 0)
    let o := out n.1
    (o.1, if x.isSome then o.2 ||| n.2 else 0) :: scan f out n.1 xs

def scanF (g : FFmt) (op rnd sat : Nat) (xs : List (Option FV)) : List (Nat × Nat) :=
  scan (nodeF op rnd sat) (fun r => g.write rnd (sat == 1) (r.getD (identF op))) none xs
def scanI (op sat : Nat) (xs : List (Option Nat)) : List (Nat × Nat) :=
  scan (nodeI op sat) (fun r => (r.getD (identI op), 0)) none xs

/-- The scan of `n` lanes in a line: per lane the result, and the flags. Along a row the 2n BF16 elements go in
packed order, down a lane each slot goes by itself. -/
def scanLine (op ty rnd sat n : Nat) (row : Bool) (act : Nat → Bool) (x : Nat → Nat) : List Nat × Nat :=
  let js := List.range n
  let split (l : List (Nat × Nat)) : List Nat × Nat := (l.map fun r => r.1, joinFlags (l.map fun r => r.2))
  match ty with
  | 0 => split (scanI op sat (js.map fun j => if act j then some (x j) else none))
  | 6 => split (scanF fp32 op rnd sat (js.map fun j => if act j then some (fp32.read (x j)) else none))
  | _ =>
    let el (j k : Nat) : Option FV := if act j then some (bf16.read (slot 16 k (x j))) else none
    if row then
      let l := scanF bf16 op rnd sat (js.flatMap fun j => [el j 0, el j 1])
      (js.map fun j => (l.getD (2 * j) (0, 0)).1 + (l.getD (2 * j + 1) (0, 0)).1 * 2 ^ 16, joinFlags (l.map fun r => r.2))
    else
      let l0 := scanF bf16 op rnd sat (js.map fun j => el j 0)
      let l1 := scanF bf16 op rnd sat (js.map fun j => el j 1)
      (js.map fun j => (l0.getD j (0, 0)).1 + (l1.getD j (0, 0)).1 * 2 ^ 16, joinFlags ((l0 ++ l1).map fun r => r.2))

def execVscan (h : Hdr) (d a op axis ty rnd sat : Nat) (s : State) : Out :=
  vecWhole h s d [a] 24 fun act vs =>
    if axis = 0 then
      let rs := (List.range 16).map fun i => scanLine op ty rnd sat 64 true (act i) (lane (vv vs 0) i)
      (buildV fun i j => ((rs.getD i ([], 0)).1).getD j 0, joinFlags (rs.map fun r => r.2))
    else
      let rs := (List.range 64).map fun j => scanLine op ty rnd sat 16 false (fun i => act i j) fun i => lane (vv vs 0) i j
      (buildV fun i j => ((rs.getD j ([], 0)).1).getD i 0, joinFlags (rs.map fun r => r.2))

/-- The greatest active element of a row and its lowest lane (06 R187). -/
def argmax (ty : Nat) (act : Nat → Bool) (x : Nat → Nat) : Option (Nat × Nat) :=
  (List.range 64).foldl (fun best j =>
    if !act j then best
    else if ty = 6 then
      let v := fp32.read (x j)
      if v.isNan then best
      else match best with
        | none => some (j, x j)
        | some b => if (fp32.read b.2).lt true v then some (j, x j) else best
    else match best with
      | none => some (j, x j)
      | some b => if (ity 0).read b.2 < (ity 0).read (x j) then some (j, x j) else best) none

def execVargmx (h : Hdr) (d a ty : Nat) (s : State) : Out :=
  vecWhole h s d [a] 20 fun act vs =>
    let v := vv vs 0
    let none' := (2 ^ 32 - 1, if ty = 6 then fp32.infBits true else 2 ^ 31)
    let rs := (List.range 16).map fun i => (argmax ty (act i) (lane v i)).getD none'
    let sig := ty == 6 && positions.any fun p => act p.1 p.2 && (fp32.read (lane v p.1 p.2)).isSig
    (buildV fun i j => if j = 0 then (rs.getD i none').1 else if j = 1 then (rs.getD i none').2 else 0, flagIf sig fNV)

/-- VROTSET (06 R170). -/
def execVrotset (h : Hdr) (n m : Nat) (s : State) : Out :=
  engIssue h s .none fun t sig s' =>
    (s'.updTile t fun T => { T with rotN := 8 * n, rotM := 4 * m, vbase := 0, mbase := 0 }).signalNow t 2 0 sig none

/-- One turn of a loop's counter and bases (06 R171). -/
def Tile.loopTurn (T : Tile) (cnt : Nat) : Tile :=
  { T with
    vlc := (if T.vlc = 0 then cnt else T.vlc) - 1
    vbase := if 0 < T.rotN then (T.vbase + T.rotN - 1) % T.rotN else T.vbase
    mbase := if 0 < T.rotM then (T.mbase + T.rotM - 1) % T.rotM else T.mbase }

/-- VLOOP (06 R171): outside a resident routine, or with a target outside it or behind, it raises 0x09 at decode. -/
def execVloop (h : Hdr) (cnt off : Nat) (s : State) : Out :=
  let t := s.curTile
  match ((s.tile t).engine 2).routine, s.peek t 2 with
  | some q, some w =>
    let target : Int := w.off + (w64 off).toInt
    if target < q.first ∨ w.off < target ∨ q.last < w.off then finish (s.decodeFault t 2 0x09)
    else
      engIssue h s .none fun t sig s' =>
        let s' := s'.updTile t fun T => T.loopTurn cnt
        let s' := if (s'.tile t).vlc = 0 then s'
          else s'.updEng t 2 fun x => { x with routine := some { q with next := target.toNat } }
        s'.signalNow t 2 0 sig none
  | _, _ => finish (s.decodeFault t 2 0x09)

/-- rne of an exact outcome to FP32, as a value with flags. -/
def rneF (x : FX) : FV × Nat :=
  let (b, f) := fp32.fit 0 false x
  (fp32.read b, f)

/-- FP32 bits of a rounded value. -/
def bitsF (v : FV) : Nat := (fp32.write 0 false v).1

/-- The tree of R89 along a row of rounded terms, RNE. -/
def addTree (xs : List (Option FV)) : FV × Nat :=
  let (r, f) := tree (nodeF 0 0 0) 6 xs
  (r.getD (.fin false 0 0), f)

/-- EXPMAX on one row (06 R189): S as FP32 bits and E as I32 bits, with flags. -/
def expmaxRow (s0 e0 : Nat) (act : Nat → Bool) (z : Nat → Nat) : (Nat × Nat) × Nat :=
  let js := List.range 64
  let on := js.filter act
  if on = [] then ((s0, e0), 0)
  else
    let rd := (ity 0).read
    let e := on.foldl (fun m j => max m (rd (z j))) (rd e0)
    let terms := js.map fun j => if act j then some (rneF (exp2Sixteenth (rd (z j) - e))) else none
    let t := addTree (terms.map fun x => x.map fun y => y.1)
    let f := if e0 = 2 ^ 31 then (FV.fin false 0 0, 0) else rneF (exp2Sixteenth (rd e0 - e))
    let p := rneF (fMul (fp32.read s0) f.1)
    let q := rneF (fAdd 0 p.1 t.1)
    ((bitsF q.1, (ity 0).wrap e), joinFlags (terms.map fun x => (x.map fun y => y.2).getD 0) ||| t.2 ||| f.2 ||| p.2 ||| q.2)

/-- EXPMAX; with NEW the tied register is not read. -/
def execExpmax (h : Hdr) (d a new : Nat) (s : State) : Out :=
  vecIssue h s [a] [d] 20 fun t T s' =>
    let x := T.vsrc a
    let o := if new = 1 then VVal.zero else T.vsrc d
    let m := T.m0
    let rs := (List.range 16).map fun i =>
      expmaxRow (if new = 1 then 0 else lane o.v i 0) (if new = 1 then 2 ^ 31 else lane o.v i 1) (mbit m.v i) (lane x.v i)
    let v := buildV fun i j =>
      let r := (rs.getD i ((0, 0), 0)).1
      if j = 0 then r.1 else if j = 1 then r.2 else 0
    s'.putV t d 20 fullMask ⟨v, m.p || x.p || o.p⟩ (joinFlags (rs.map fun r => r.2))

/-- EXPNRM (06 R190). -/
def execExpnrm (h : Hdr) (d a b : Nat) (s : State) : Out :=
  vecWord h s d [a, b] 20 fun vs i j =>
    let rd := (ity 0).read
    let p := rneF (exp2Sixteenth (rd (lane (vv vs 0) i j) - rd (lane (vv vs 1) i 1)))
    let q := rneF (fRcp (fp32.read (lane (vv vs 1) i 0)))
    let (r, f) := fp32.fit 0 false (fMul p.1 q.1)
    (r, f ||| p.2 ||| q.2)

/-- A Welford state: count, mean, M2 as their bits (06 R191). -/
structure Welford where
  n : Nat
  mu : Nat
  m2 : Nat

/-- F32() of a count. -/
def countF (n : Nat) : FV × Nat := rneF ⟨FV.ofInt ((ity 0).read n), 0⟩

/-- The batch of one row; none without an active lane. -/
def welBatch (act : Nat → Bool) (x : Nat → Nat) : Option (Welford × Nat) :=
  let js := List.range 64
  let c := (js.filter act).length
  if c = 0 then none
  else
    let v (j : Nat) : FV := fp32.read (x j)
    let t := addTree (js.map fun j => if act j then some (v j) else none)
    let mu := rneF (fDiv 64 t.1 (FV.ofInt c))
    let sq := js.map fun j =>
      if act j then
        let dl := rneF (fAdd 0 (v j) mu.1.neg)
        let q := rneF (fMul dl.1 dl.1)
        some (q.1, dl.2 ||| q.2)
      else none
    let m2 := addTree (sq.map fun y => y.map fun z => z.1)
    some (⟨c, bitsF mu.1, bitsF m2.1⟩, t.2 ||| mu.2 ||| m2.2 ||| joinFlags (sq.map fun y => (y.map fun z => z.2).getD 0))

/-- The merge of two states (06 R191). -/
def welMerge (a b : Welford) : Welford × Nat :=
  if b.n = 0 then (a, 0)
  else if a.n = 0 then (b, 0)
  else
    let rd := fp32.read
    let n := (ity 0).fit true ((ity 0).read a.n + (ity 0).read b.n)
    let fb := countF b.n
    let fn := countF n.1
    let fa := countF a.n
    let w := rneF (fDiv 64 fb.1 fn.1)
    let dl := rneF (fAdd 0 (rd b.mu) (rd a.mu).neg)
    let m1 := rneF (fMul dl.1 w.1)
    let mu := rneF (fAdd 0 (rd a.mu) m1.1)
    let s2 := rneF (fAdd 0 (rd a.m2) (rd b.m2))
    let dd := rneF (fMul dl.1 dl.1)
    let aw := rneF (fMul fa.1 w.1)
    let pr := rneF (fMul dd.1 aw.1)
    let m2 := rneF (fAdd 0 s2.1 pr.1)
    (⟨n.1, bitsF mu.1, bitsF m2.1⟩, joinFlags [n.2, fb.2, fn.2, fa.2, w.2, dl.2, m1.2, mu.2, s2.2, dd.2, aw.2, pr.2, m2.2])

def welAt (v : VReg) (i : Nat) : Welford := ⟨lane v i 0, lane v i 1, lane v i 2⟩

/-- A register of Welford states; rows that are `none` keep the old row. -/
def welBuild (old : VReg) (rs : List (Option Welford)) : VReg :=
  buildV fun i j =>
    match rs.getD i none with
    | none => lane old i j
    | some w => if j = 0 then w.n else if j = 1 then w.mu else if j = 2 then w.m2 else 0

def execVwelu (h : Hdr) (d a : Nat) (s : State) : Out :=
  vecWhole h s d [a, d] 16 fun act vs =>
    let old := vv vs 1
    let rs := (List.range 16).map fun i =>
      (welBatch (act i) (lane (vv vs 0) i)).map fun b => let r := welMerge (welAt old i) b.1; (r.1, r.2 ||| b.2)
    (welBuild old (rs.map fun r => r.map fun x => x.1), joinFlags (rs.map fun r => (r.map fun x => x.2).getD 0))

def execVwelm (h : Hdr) (d a : Nat) (s : State) : Out :=
  vecIssue h s [a] [d] 12 fun t T s' =>
    let x := T.vsrc a
    let o := T.vsrc d
    let rs := (List.range 16).map fun i => welMerge (welAt o.v i) (welAt x.v i)
    s'.putV t d 12 fullMask ⟨welBuild o.v (rs.map fun r => some r.1), x.p || o.p⟩ (joinFlags (rs.map fun r => r.2))

/-- CONFT (06 R192): rows whose m0 bit (i, 0) is set take their exit bits. -/
def execConft (h : Hdr) (d a thr : Nat) (s : State) : Out :=
  vecIssue h s [a] [] 24 fun t T s' =>
    let x := T.vsrc a
    let o := T.mreg (T.mphys d)
    let m := T.m0
    let rs := (List.range 16).map fun i =>
      let p := rneF (fRcp (fp32.read (lane x.v i 0)))
      let c := fCmp 5 p.1 (fp32.read (thr % 2 ^ 32))
      (c.1, if mbit m.v i 0 then p.2 ||| c.2 else 0)
    let v := buildM fun i j => mbit o.v i j || (rs.getD i (false, 0)).1
    s'.putM t d 24 (buildM fun i _ => mbit m.v i 0) ⟨v, m.p || x.p || o.p⟩ (joinFlags (rs.map fun r => r.2))

end Sys2Proof.Machine
end

