-- ==== Sys2Proof/Machine/MtxStep.lean ====
section
/-! DEFINITION. Sys2Proof/Machine/MtxStep.lean: the arithmetic of a matrix step (03 R84 to R88; 07 R195 to R198, R205, R207, R208):
operand slots, the dense equivalent of compressed operands, blocks, the tree and what a step adds to its tile. -/

namespace Sys2Proof.Machine

/-- Fields of an operand ring descriptor (07 R196). -/
def oprBase (d : Nat) : Nat := d % 128
def oprSlots (d : Nat) : Nat := d / 2 ^ 8 % 128
def oprHead (d : Nat) : Nat := d / 2 ^ 16 % 64
def oprMode (d : Nat) : Nat := d / 2 ^ 22 % 4
def oprMeta (d : Nat) : Nat := d / 2 ^ 24 % 256
def oprOf (base nslots head mode meta' : Nat) : Nat :=
  base + nslots * 2 ^ 8 + head * 2 ^ 16 + mode * 2 ^ 22 + meta' * 2 ^ 24
def Tile.oprD (T : Tile) (k : Nat) : Nat := FM.get 0 T.opr k

/-- Formats of 07 R197: MX formats are 0 to 3. -/
def isMx (f : Nat) : Bool := decide (f < 4)

/-- The step kind of 07 R205 for two formats and whether each ring is compressed: dense K per step, slots of A
and B, tc per step. -/
def stepKind (fa fb : Nat) (ca cb : Bool) : Option (Nat × Nat × Nat × Nat) :=
  if fa < 3 ∧ fb < 3 then
    if ca && cb then none
    else if ca then some (384, 1, 2, 4)
    else if cb then some (384, 2, 1, 4)
    else some (192, 1, 1, 4)
  else if fa = 3 ∧ fb = 3 then (if ca || cb then none else some (384, 1, 1, 4))
  else if 4 ≤ fa ∧ 4 ≤ fb then (if ca || cb then none else some (96, 1, 1, 8))
  else none

/-- One operand of a step: its format, compression mode, the scratchpad addresses of the slots it reads and of
the metadata. -/
structure Panel where
  fmt : Nat
  mode : Nat
  slots : List Nat
  meta' : Nat

/-- The bytes of a slot and of its metadata, as a step reads them whole in its start tc. -/
structure PanelData where
  p : Panel
  bytes : List Nat
  bits : Nat

def PanelData.byte (d : PanelData) (k : Nat) : Nat := d.bytes.getD k 0

/-- The element value of an encoding: INT8 as an integer, its 6 fractional bits counted in the bias (03 R84). -/
def mxElem (fmt x : Nat) : FV :=
  match fmt with
  | 0 => FV.ofInt ((ity 1).read x)
  | 1 => e4m3.read x
  | 2 => e5m2.read x
  | _ => e2m1.read x

/-- Kept element of row `r` at dense position `q` of a compressed slot: the lowest of its group that names it
(07 R198). -/
def PanelData.kept (d : PanelData) (r q : Nat) : Option Nat :=
  if d.p.mode = 1 then
    (List.range 2).findSome? fun i =>
      let e := 2 * (q / 4) + i
      if d.bits / 2 ^ (2 * (192 * r + e)) % 4 = q % 4 then some e else none
  else
    (List.range 4).findSome? fun i =>
      let e := 4 * (q / 8) + i
      if d.bits / 2 ^ (3 * (192 * r + e)) % 8 = q % 8 then some e else none

/-- The element of row `r` at dense position `q` of a step. -/
def PanelData.elem (d : PanelData) (r q : Nat) : FV :=
  match d.p.fmt with
  | 3 =>
    let b := d.byte (192 * r + q / 2)
    mxElem 3 (if q % 2 = 0 then b % 16 else b / 16)
  | 4 => bf16.read (d.byte (192 * r + 2 * q) + 256 * d.byte (192 * r + 2 * q + 1))
  | 5 => fp16.read (d.byte (192 * r + 2 * q) + 256 * d.byte (192 * r + 2 * q + 1))
  | f =>
    if d.p.mode = 0 then mxElem f (d.byte (4096 * (q / 192) + 192 * r + q % 192))
    else match d.kept r q with
      | some e => mxElem f (d.byte (192 * r + e))
      | none => .fin false 0 0

/-- The scale code of dense block `b` of row `r`. -/
def PanelData.scale (d : PanelData) (r b : Nat) : Nat :=
  if d.p.fmt = 3 ∨ d.p.mode ≠ 0 then d.byte (3072 + 12 * r + b)
  else d.byte (4096 * (b / 6) + 3072 + 6 * r + b % 6)

/-- The exact sum of products of two element lists: NaN where an element is NaN, an infinity meets a zero, or
infinities of opposite sign meet. `keep` keeps the sign of a sum of zeros of one sign (03 R74, R87, R88). -/
def dotExact (keep : Bool) (xs : List (FV × FV)) : FV :=
  let ps := xs.map fun p => fMul p.1 p.2
  if ps.any fun p => p.v.isNan then .nan false
  else
    let infs := ps.filterMap fun p => match p.v with
      | .inf n => some n
      | _ => none
    match infs with
    | n :: ns => if ns.all fun m => m == n then .inf n else .nan false
    | [] =>
      let d := ps.foldl (fun (a : Dy) p => match p.v with
        | .fin n m e => a.add (Dy.of n m e)
        | _ => a) Dy.zero
      if d.n = 0 then .fin (keep && !ps.isEmpty && ps.all fun p => p.v.sign) 0 0
      else .fin (decide (d.n < 0)) d.n.natAbs d.e

def FV.scale2 (k : Int) : FV → FV
  | .fin n m e => .fin n m (e + k)
  | v => v

/-- Element biases (03 R84). -/
def mxBias (fa fb : Nat) : Int := (if fa = 0 then 6 else 0) + (if fb = 0 then 6 else 0)

/-- Block `b` at output position (i, j) (03 R87). -/
def blockMx (A B : PanelData) (i j b : Nat) : FV :=
  let sa := A.scale i b
  let sb := B.scale j b
  let xs := (List.range 32).map fun k => (A.elem i (32 * b + k), B.elem j (32 * b + k))
  if sa = 255 ∨ sb = 255 ∨ xs.any (fun p => p.1.isNan || p.2.isNan) then .nan false
  else (dotExact false xs).scale2 ((sa : Int) + sb - 254 - mxBias A.p.fmt B.p.fmt)

/-- A flush of a BF16 subnormal to zero of its sign, with underflow (03 R78). FP16 subnormals are normal as FP32. -/
def flush (v : FV) : FV × Nat :=
  match v with
  | .fin n m e => if m ≠ 0 ∧ (Nat.log2 m : Int) + e < -126 then (.fin n 0 0, fUF) else (v, 0)
  | _ => (v, 0)

/-- Group `g` of 16 elements (03 R88), with the flags of its flushes. -/
def blockFp (A B : PanelData) (i j g : Nat) : FV × Nat :=
  let xs := (List.range 16).map fun k => (flush (A.elem i (16 * g + k)), flush (B.elem j (16 * g + k)))
  (dotExact true (xs.map fun p => (p.1.1, p.2.1)), joinFlags (xs.map fun p => p.1.2 ||| p.2.2))

/-- A node of the tree: the rounded sum of two values, absent leaving its partner, which is rounded alone; with
flags. -/
def addAbsent (a b : Option FV) : Option FV × Nat :=
  match a, b with
  | some x, some y => let r := rneF (fAdd 0 x y); (some r.1, r.2)
  | some x, none => let r := rneF ⟨x, 0⟩; (some r.1, r.2)
  | none, some y => let r := rneF ⟨y, 0⟩; (some r.1, r.2)
  | none, none => (none, 0)

/-- The tree of six blocks (03 R87): NaN, with invalid, where a block is NaN. Every node rounds. -/
def sixTree (bs : List (Option FV)) : Option FV × Nat :=
  if bs.any fun b => (b.map FV.isNan).getD false then (some (.nan false), fNV)
  else
    let at' (k : Nat) : Option FV := bs.getD k none
    let x := addAbsent (at' 0) (at' 1)
    let y := addAbsent (at' 2) (at' 3)
    let z := addAbsent (at' 4) (at' 5)
    let u := addAbsent x.1 y.1
    let w := addAbsent u.1 z.1
    (w.1, x.2 ||| y.2 ||| z.2 ||| u.2 ||| w.2)

/-- What a step adds at output position (i, j): one or two terms in their order, none where all is absent, with
flags. `live` tells how many dense positions of the step are present. -/
def stepTerms (A B : PanelData) (two : Bool) (live i j : Nat) : List (Option FV) × Nat :=
  if 4 ≤ A.p.fmt then
    let gs := (List.range 6).map fun g => if 16 * g < live then some (blockFp A B i j g) else none
    let t := sixTree (gs.map fun g => g.map fun x => x.1)
    ([t.1], t.2 ||| joinFlags (gs.map fun g => (g.map fun x => x.2).getD 0))
  else
    let bl (o : Nat) := (List.range 6).map fun b => if 32 * (o + b) < live then some (blockMx A B i j (o + b)) else none
    let t0 := sixTree (bl 0)
    if A.p.fmt = 3 then
      let t1 := sixTree (bl 6)
      let t := addAbsent t0.1 t1.1
      ([t.1], t0.2 ||| t1.2 ||| t.2)
    else if two then
      let t1 := sixTree (bl 6)
      ([t0.1, t1.1], t0.2 ||| t1.2)
    else ([t0.1], t0.2)

/-- A term as the FP32 bits a landing adds, with a zero that changes nothing for an absent one: -0. -/
def termBits (x : Option FV) : Nat :=
  match x with
  | some v => bitsF v
  | none => 2 ^ 31

/-- The addends of a step for all positions, and the flags of the active rows. -/
def stepAdds (A B : PanelData) (two : Bool) (live mask : Nat) : List Tile32 × Nat :=
  let rs := (List.range 256).map fun k => stepTerms A B two live (k / 16) (k % 16)
  let n := if two then 2 else 1
  ((List.range n).map fun q => BitVec.ofNat 8192 (joinLanes 32 (rs.map fun r => termBits (r.1.getD q none))),
    joinFlags ((List.range 256).map fun k => if mask / 2 ^ (k / 16) % 2 = 1 then (rs.getD k ([], 0)).2 else 0))

/-- One addend landed in a tile's active rows (03 R87; 07 R218): the new tile and the flags of the rounding. -/
def addTile (rows : Nat) (acc add : Tile32) : Tile32 × Nat :=
  let rs := (List.range 256).map fun k =>
    let i := k / 16
    let j := k % 16
    if rows / 2 ^ i % 2 = 1 then fp32.fit 0 false (fAdd 0 (fp32.read (elem acc i j)) (fp32.read (elem add i j)))
    else (elem acc i j, 0)
  (BitVec.ofNat 8192 (joinLanes 32 (rs.map fun r => r.1)), joinFlags (rs.map fun r => r.2))

/-- Fields of the loop-nest table (07 R202), by level and field. -/
def tabField (tab : FM Word) (l f : Nat) : Nat := (FM.get 0 tab (8 * l + f)).toNat
def tabCnt (tab : FM Word) (l : Nat) : Nat := max (tabField tab l 0 % 2 ^ 13) 1
def signedN (n v : Nat) : Int := (BitVec.ofNat n v).toInt
def tabA (tab : FM Word) (l : Nat) : Int := signedN 16 (tabField tab l 1)
def tabB (tab : FM Word) (l : Nat) : Int := signedN 16 (tabField tab l 2)
def tabC (tab : FM Word) (l : Nat) : Int := signedN 7 (tabField tab l 3)

/-- The reserved bits of the table are zero and every count is at most 4,096 (check 5 of 07 R206). -/
def tabOk (tab : FM Word) : Bool :=
  (List.range 6).all fun l =>
    decide (tabField tab l 0 ≤ 4096) && decide (tabField tab l 1 < 2 ^ 16) && decide (tabField tab l 2 < 2 ^ 16) &&
    decide (tabField tab l 3 < 2 ^ 7) && [4, 5, 6, 7].all fun f => tabField tab l f == 0

/-- The lowest and the highest tile that the nest reaches (check 6). -/
def tileRange (tab : FM Word) (acc : Nat) : Int × Int :=
  (List.range 6).foldl (fun (r : Int × Int) l =>
    let x := ((tabCnt tab l : Int) - 1) * tabC tab l
    (r.1 + min x 0, r.2 + max x 0)) (acc, acc)

/-- The tiles that the nest reaches (07 R207, R209). -/
def tabTiles (tab : FM Word) (acc : Nat) : List Int :=
  (List.range 6).foldl (fun (xs : List Int) l =>
    if tabC tab l = 0 then xs
    else (xs.flatMap fun x => (List.range (tabCnt tab l)).map fun (i : Nat) => x + (i : Int) * tabC tab l).eraseDups) [(acc : Int)]

/-- The loop indices of iteration `n` of the nest, innermost first. -/
def nestIdx (tab : FM Word) : Nat → Nat → Nat → List Nat
  | 0, _, _ => []
  | f + 1, l, n => n % tabCnt tab l :: nestIdx tab f (l + 1) (n / tabCnt tab l)

def nestSize (tab : FM Word) : Nat := (List.range 6).foldl (fun n l => n * tabCnt tab l) 1

def nestSum (tab : FM Word) (stride : FM Word → Nat → Int) (idx : List Nat) : Int :=
  (List.range 6).foldl (fun (s : Int) l => s + ((idx.getD l 0 : Nat) : Int) * stride tab l) 0

end Sys2Proof.Machine
end

