-- ==== Sys2Proof/Machine/Mtx.lean ====
section
/-! DEFINITION. Sys2Proof/Machine/Mtx.lean: the words of the matrix engine (07 R199 to R222): rings, row mask, MGO and MGOS with their
steps, accumulator and status commands, and the replay window; and NOP in every class (02 R50). -/

namespace Sys2Proof.Machine

/-- Flags of a matrix command of window `win`: held while that window is open (07 R220). -/
def State.mtxFlags (s : State) (t win fl : Nat) : State :=
  match (s.tile t).window with
  | some w =>
    if win = w.id ∧ win ≠ 0 then s.updTile t fun T => { T with window := some { w with flags := w.flags ||| fl } }
    else s.orFlags t 3 fl
  | none => s.orFlags t 3 fl

/-- The completion of a command: its signal is held in its open window, else sent. -/
def State.mtxDone (s : State) (t win k sig : Nat) : State :=
  match (s.tile t).window with
  | some w =>
    if win = w.id ∧ win ≠ 0 then
      s.updTile t fun T => { T with
        window := some { w with kept := w.kept.mapIdx fun i r => if i = k then { r with done := true } else r } }
    else s.signalNow t 3 0 sig none
  | none => s.signalNow t 3 0 sig none

/-- The close of a window (07 R220): held flags and the held signals of completed commands, in command order. -/
def State.closeWindow (s : State) (t : Nat) : State :=
  match (s.tile t).window with
  | none => s
  | some w =>
    let s := s.updTile t fun T => { T with window := none }
    let s := s.orFlags t 3 w.flags
    (w.kept.filter fun r => r.done).foldl (fun s r => s.signalNow t 3 0 r.sig none) s

/-- Whether a command that writes tiles `lo` to `hi` may stay in the open window. -/
def Window.holds (w : Window) (lo hi : Int) : Bool :=
  decide (w.kept.length < 64) && (decide (hi < lo) || (decide ((w.first : Int) ≤ lo) && decide (hi < (w.first : Int) + w.cnt)))

/-- A command enters the window, or the window closes before it: its window and place there, 0 outside. -/
def State.enterWindow (s : State) (t sig : Nat) (stay : Option (Int × Int)) : (Nat × Nat) × State :=
  match (s.tile t).window with
  | none => ((0, 0), s)
  | some w =>
    let ok := match stay with
      | some r => w.holds r.1 r.2
      | none => false
    if ok then
      ((w.id, w.kept.length), s.updTile t fun T => { T with
        window := some { w with kept := w.kept ++ [⟨(T.engine 3).group, sig, false⟩], left := w.left.drop 1 } })
    else ((0, 0), s.closeWindow t)

/-- The issue of an MTX word: `stay` gives the tiles it writes where it may stay in a window, `eff` its effect
with its place in the window; its completion comes `l` tc after issue. -/
def mtxIssue (h : Hdr) (s : State) (busy : State → Nat → Bool) (stay : Option (Int × Int)) (l : Nat)
    (eff : Nat → Nat → Tile → State → State) : Out :=
  engIssue h s { EngChecks.none with busy := busy } fun t sig s' =>
    let ((win, k), s') := s'.enterWindow t sig stay
    let s' := eff t win (s.tile t) s'
    if sig = 0 ∧ win = 0 then s' else s'.flyTile t l (.mdone t win k sig)

/-- A matrix write to a tile of `lo` to `hi` that has not landed; step writes count where `steps` holds (07 R209). -/
def State.accPendingM (s : State) (t : Nat) (steps : Bool) (lo hi : Int) : Bool :=
  s.flights.any fun f => match f.fl with
    | .tile u r vec .. => u == t && !vec && decide (lo ≤ r) && decide (r ≤ hi)
    | .mstep u r .. => steps && u == t && decide (lo ≤ r) && decide (r ≤ hi)
    | _ => false

/-- A matrix write other than a step's to one of the tiles `xs` that has not landed (07 R209). -/
def State.accPendingIn (s : State) (t : Nat) (xs : List Int) : Bool :=
  s.flights.any fun f => match f.fl with
    | .tile u r vec .. => u == t && !vec && xs.contains (r : Int)
    | _ => false

def waitsAcc (a n : Nat) (s : State) (t : Nat) : Bool := s.accPendingM t true (accIdx a) ((accIdx a : Int) + n - 1)

def sqFull (d : Nat) (s : State) (t : Nat) : Bool := decide (4 ≤ ((s.tile t).queue d).ents.length)
def lqEmpty (q : Nat) (s : State) (t : Nat) : Bool := (((s.tile t).queue q).head?).isNone

/-- An entry that a matrix command fills in store queue `d` at issue + 6. -/
def State.fillSq (s : State) (t d : Nat) (v : VVal) (fl : Nat) : State :=
  let Q := (s.tile t).queue d
  (s.updTile t fun T => T.setQueue d Q.alloc).flyTile t 6 (.qfill t 3 d Q.tail v fl)

/-- A decode limit that depends on the state: the word raises 0x09 before its wait (02 R29). -/
def mtxDec (s : State) (bad : Bool) (go : Out) : Out := if bad then finish (s.decodeFault s.curTile 3 0x09) else go

/-- MRING (07 R199), MSPMETA (R200): they land at issue + 1. -/
def execMringSet (h : Hdr) (k nslots base : Nat) (s : State) : Out :=
  mtxIssue h s never none 1 fun t _ _ s' => s'.flyTile t 1 (.mring t k (oprOf base nslots 0 0 0))

def execMringAdv (h : Hdr) (k n : Nat) (s : State) : Out :=
  let d := (s.tile s.curTile).oprD k
  mtxDec s (oprSlots d == 0)
    (mtxIssue h s never none 1 fun t _ _ s' =>
      s'.flyTile t 1 (.mring t k (oprOf (oprBase d) (oprSlots d) ((oprHead d + n) % oprSlots d) (oprMode d) (oprMeta d))))

def execMspmeta (h : Hdr) (k mode metabase : Nat) (s : State) : Out :=
  let d := (s.tile s.curTile).oprD k
  mtxDec s (oprSlots d == 0 || decide (0x80000 < metabase * 2048 + oprSlots d * 2048))
    (mtxIssue h s never none 1 fun t _ _ s' =>
      s'.flyTile t 1 (.mring t k (oprOf (oprBase d) (oprSlots d) (oprHead d) mode metabase)))

/-- MTSEL (07 R201); the immediate form may stay in a window. -/
def execMtsel (h : Hdr) (rs : Nat) (s : State) : Out :=
  mtxIssue h s never (some (0, -1)) 1 fun t _ _ s' => s'.flyTile t 1 (.rowMask t (rs % 2 ^ 16) false)

/-- The row mask that a queue entry gives: lane 0 of each row (07 R201; 08 R240). -/
def maskOfEntry (v : VReg) : Nat := joinLanes 1 ((List.range 16).map fun i => bit (lane v i 0 != 0) 0)

def execMtselLq (h : Hdr) (d : Nat) (s : State) : Out :=
  mtxIssue h s (lqEmpty d) none 1 fun t _ T s' =>
    let e := ((T.queue d).head?).getD VVal.zero
    (s'.popAll t [d]).flyTile t 1 (.rowMask t (maskOfEntry e.v) e.p)

/-- The rings of MGO and MGOS as their checks and steps use them. -/
structure MgoArgs where
  ra : Nat
  rb : Nat
  fa : Nat
  fb : Nat
  acc : Nat
  kel : Nat
  aoff : Nat
  boff : Nat

/-- The failing check of 07 R206 with its cause. -/
def mgoFail (T : Tile) (tab : Option (FM Word)) (g : MgoArgs) : Option (Nat × Nat) :=
  let da := T.oprD g.ra
  let db := T.oprD g.rb
  if (isMx g.fa || isMx g.fb) && g.kel % 32 != 0 then some (1, 0x11)
  else if oprSlots da = 0 ∨ oprSlots db = 0 then some (2, 0x12)
  else if (stepKind g.fa g.fb (oprMode da != 0) (oprMode db != 0)).isNone then some (3, 0x12)
  else if 4 ≤ g.fa ∧ g.kel % 16 ≠ 0 then some (4, 0x12)
  else match tab with
    | none => none
    | some tab =>
      if !tabOk tab then some (5, 0x12)
      else
        let r := tileRange tab g.acc
        if r.1 < 0 ∨ 63 < r.2 then some (6, 0x12) else none

/-- MGO with the shadow table, or MGOS without one (07 R203, R204, R209). A command that fails its checks leaves
the state. -/
def mgoWord (h : Hdr) (nest : Bool) (g : MgoArgs) (s : State) : Out :=
  let t := s.curTile
  let T := s.tile t
  let tab := if nest then some T.shadow else none
  let r := match tab with
    | some x => tileRange x g.acc
    | none => ((g.acc : Int), (g.acc : Int))
  let xs := match tab with
    | some x => tabTiles x g.acc
    | none => [(g.acc : Int)]
  let fail := mgoFail T tab g
  engIssue h s { EngChecks.none with busy := fun s t => fail.isNone && s.accPendingIn t xs } fun t sig s' =>
    match fail with
    | some (n, cause) => s'.execFault t 3 cause (w64 n) sig
    | none =>
      let ((win, k), s') := s'.enterWindow t sig (some r)
      let da := T.oprD g.ra
      let db := T.oprD g.rb
      match stepKind g.fa g.fb (oprMode da != 0) (oprMode db != 0) with
      | none => s'
      | some (e, _, _, p) =>
        let nk := (g.kel + e - 1) / e
        let n := nk * (match tab with | some x => nestSize x | none => 1)
        let m : MCmd := {
          kind := if nest then 1 else 2, fa := g.fa, fb := g.fb, ra := g.ra, rb := g.rb, acc := g.acc, kel := g.kel,
          aoff := g.aoff, boff := g.boff, hA := oprHead da, hB := oprHead db, step := 0, steps := n, startAt := T.clk + 2,
          sig := sig, roff := (((s'.tile t).engine 3).group.head?.map fun w => w.off).getD 0, win := win, kept := k }
        let s' := s'.updTile t fun T => { T with mcmd := some m, active := if nest then T.shadow else T.active }
        s'.updEng t 3 fun x => { x with nextAt := T.clk + 2 + p * n }

/-- MGO (07 R204). It sees what an MTWR wrote once that has landed, whether or not it awaits MTWR's signal (log entry
68). -/
def execMgo (h : Hdr) (ra rb fa fb acc kel aoff boff : Nat) (s : State) : Out :=
  mgoWord h true ⟨ra, rb, fa, fb, acc, kel, aoff, boff⟩ s
def execMgos (h : Hdr) (ra rb fa fb acc kel aoff boff : Nat) (s : State) : Out :=
  mgoWord h false ⟨ra, rb, fa, fb, acc, kel, aoff, boff⟩ s

/-- The slots and metadata of one operand at slot offset `o`: `u` slots, of which those with a present block are
read. -/
def panelOf (T : Tile) (t r fmt h : Nat) (o : Int) (u read : Nat) : Panel :=
  let d := T.oprD r
  let n := oprSlots d
  let slot (m : Nat) : Nat := (((h : Int) + o + m) % n).toNat
  ⟨fmt, oprMode d, (List.range (min u read)).map fun m => spBase t + oprBase d * 4096 + 4096 * slot m,
    spBase t + oprMeta d * 2048 + 2048 * slot 0⟩

/-- Bytes of elements and scales of a slot, and of metadata, that a step reads. -/
def panelSpan (p : Panel) : Nat :=
  if p.fmt = 3 ∨ p.mode ≠ 0 then 3264 else if p.fmt < 3 then 3168 else 3072
def metaSpan (p : Panel) : Nat := if p.mode = 1 then 768 else if p.mode = 2 then 1152 else 0

def State.readPanel (s : State) (p : Panel) : PanelData × Bool :=
  let pg (a n : Nat) : Bool := (List.range ((n + 63) / 64)).any fun i => s.poisAt (a + 64 * i)
  (⟨p, p.slots.flatMap fun a => s.bytes a 4096, s.nat p.meta' (metaSpan p)⟩,
    (p.slots.any fun a => pg a (panelSpan p)) || pg p.meta' (metaSpan p))

/-- A step of the matrix command starts (07 R207, R208): it reads its slots, and its addends land 12 tc later. -/
def State.matrixStep (s : State) (t : Nat) : State :=
  let T := s.tile t
  match T.mcmd with
  | none => s
  | some m =>
    let da := T.oprD m.ra
    let db := T.oprD m.rb
    match stepKind m.fa m.fb (oprMode da != 0) (oprMode db != 0) with
    | none => s
    | some (e, ua, ub, p) =>
      let nk := (m.kel + e - 1) / e
      let tab := if m.kind = 1 then T.active else []
      let k := m.step % nk
      let idx := nestIdx tab 6 0 (m.step / nk)
      let live := m.kel - e * k
      let read (u : Nat) : Nat := if u = 2 then (min live 384 + 191) / 192 else 1
      let A := panelOf T t m.ra m.fa m.hA (m.aoff + nestSum tab tabA idx + (ua * k : Nat)) ua (read ua)
      let B := panelOf T t m.rb m.fb m.hB (m.boff + nestSum tab tabB idx + (ub * k : Nat)) ub (read ub)
      let tile := ((m.acc : Int) + nestSum tab tabC idx).toNat
      let (a, pa) := s.readPanel A
      let (b, pb) := s.readPanel B
      let (adds, fl) := stepAdds a b (ua + ub == 3) live T.rowMask
      let s := s.flyTile t 12 (.mstep t tile T.rowMask m.win adds (pa || pb || T.rowMaskP) fl)
      if m.step + 1 < m.steps then
        s.updTile t fun T => { T with mcmd := some { m with step := m.step + 1, startAt := m.startAt + p } }
      else (s.updTile t fun T => { T with mcmd := none, mlast := some m }).flyTile t 12 (.mdone t m.win m.kept m.sig)

def execMatrixStep (t : Nat) (s : State) : Out := finish (s.matrixStep t)

/-- The landing of a step: its active rows accumulate onto the tile as it stands (07 R218). -/
def State.stepLands (s : State) (t r rows win : Nat) (adds : List Tile32) (p : Bool) (fl : Nat) : State :=
  let x := (s.tile t).accOf r
  let (v, fl) := adds.foldl (fun (a : Tile32 × Nat) d => let y := addTile rows a.1 d; (y.1, a.2 ||| y.2)) (x.v, fl)
  (s.updTile t fun T => { T with accs := FM.set T.accs r ⟨v, x.p || p⟩ }).mtxFlags t win fl

/-- A matrix write of a whole tile on its way. -/
def State.putAcc (s : State) (t r l win : Nat) (v : TVal) (fl : Nat) : State := s.flyTile t l (.tile t r false win v fl)

def execMtzero (h : Hdr) (d n : Nat) (s : State) : Out :=
  let r : Int := accIdx d
  mtxIssue h s never (some (r, r + n - 1)) 1 fun t win _ s' =>
    (List.range n).foldl (fun s i => s.putAcc t (accIdx d + i) 1 win TVal.zero 0) s'

/-- A tile from quarter `q` of a register image, and back. -/
def tileOfEntry (v : VReg) (q : Nat) : Tile32 :=
  BitVec.ofNat 8192 (joinLanes 32 ((List.range 256).map fun k => lane v (k / 16) (16 * q + k % 16)))
def entryOfTiles (f : Nat → Nat → Nat → Nat) (n : Nat) : VReg :=
  buildV fun i j => if j < 16 * n then f (j / 16) i (j % 16) else 0

def execMaccld (h : Hdr) (d a n : Nat) (s : State) : Out :=
  mtxIssue h s (lqEmpty a) none 4 fun t win T s' =>
    let e := ((T.queue a).head?).getD VVal.zero
    (List.range (n + 1)).foldl (fun s q => s.putAcc t (accIdx d + q) 4 win ⟨tileOfEntry e.v q, e.p⟩ 0) (s'.popAll t [a])

/-- The tiles of MACCST and MCVT, with the OR of their poison. -/
def Tile.accRange (T : Tile) (a n : Nat) : List TVal := (List.range n).map fun q => T.accOf (accIdx a + q)

def execMaccst (h : Hdr) (d a n : Nat) (s : State) : Out :=
  mtxIssue h s (fun s t => sqFull d s t || waitsAcc a (n + 1) s t) none 6 fun t _ T s' =>
    let xs := T.accRange a (n + 1)
    let v := entryOfTiles (fun q i j => elem ((xs.getD q TVal.zero).v) i j) (n + 1)
    s'.fillSq t d ⟨v, xs.any fun x => x.p⟩ 0

/-- MCVT of one element (07 R213): a subnormal is flushed for BF16 and FP16 (03 R78). -/
def mcvtElem (ty rnd sat x : Nat) : Nat × Nat :=
  let v := fp32.read x
  let (v, f) := if ty = 7 ∨ ty = 8 then flush v else (v, 0)
  let r := if isInt ty then (ity ty).ofFloat rnd v else (ffmt ty).write rnd (sat == 1) v
  (r.1, r.2 ||| f)

def execMcvt (h : Hdr) (d a n ty rnd sat : Nat) (s : State) : Out :=
  mtxIssue h s (fun s t => sqFull d s t || waitsAcc a (n + 1) s t) none 6 fun t _ T s' =>
    let xs := T.accRange a (n + 1)
    let rows := (List.range 16).map fun i =>
      (List.range (16 * (n + 1))).map fun k => mcvtElem ty rnd sat (elem ((xs.getD (k / 16) TVal.zero).v) i (k % 16))
    let v := BitVec.ofNat 32768 (joinLanes 2048 (rows.map fun r => joinLanes (tyBits ty) (r.map fun x => x.1)))
    s'.fillSq t d ⟨v, xs.any fun x => x.p⟩ (joinFlags (rows.map fun r => joinFlags (r.map fun x => x.2)))

/-- An elementwise accumulator word (07 R214). -/
def accWord (h : Hdr) (d : Nat) (srcs : List Nat) (f : List Nat → Nat × Nat) (s : State) : Out :=
  let r : Int := accIdx d
  mtxIssue h s (fun s t => srcs.any fun a => waitsAcc a 1 s t) (some (r, r)) 6 fun t win T s' =>
    let xs := srcs.map fun a => T.accOf (accIdx a)
    let rs := (List.range 256).map fun k => f (xs.map fun x => elem x.v (k / 16) (k % 16))
    s'.putAcc t (accIdx d) 6 win ⟨BitVec.ofNat 8192 (joinLanes 32 (rs.map fun r => r.1)), xs.any fun x => x.p⟩
      (joinFlags (rs.map fun r => r.2))

def execMaccadd (h : Hdr) (d a b _ty rnd sat : Nat) (s : State) : Out :=
  accWord h d [a, b] (fun x => fp32.fit rnd (sat == 1) (fAdd rnd (fp32.read (nv x 0)) (fp32.read (nv x 1)))) s
def execMscale (h : Hdr) (d a f : Nat) (s : State) : Out :=
  accWord h d [a] (fun x => fp32.fit 0 false (fMul (fp32.read (nv x 0)) (fp32.read (f % 2 ^ 32)))) s

/-- An entry whose named lanes hold 32-bit values. -/
def entryOf (f : Nat → Nat → Nat) : VVal := ⟨buildV f, false⟩

def execMtrd (h : Hdr) (sel q : Nat) (s : State) : Out :=
  mtxIssue h s (sqFull (1028 + q)) none 6 fun t _ T s' =>
    let tab := if sel = 0 then T.shadow else T.active
    let v := if sel < 2 then entryOf fun i j =>
        if i < 6 ∧ j < 16 then tabField tab i (j / 2) / 2 ^ (32 * (j % 2)) % 2 ^ 32 else 0
      else entryOf fun i j => if i < 8 ∧ j = 0 then T.oprD i else 0
    s'.fillSq t (1028 + q) v 0

/-- MFLAG (07 R215): it samples the flags after the close that comes immediately before it (R220). The clearing
is a write of 1, which a hardware set in the same tc outlasts (03 R82). -/
def execMflag (h : Hdr) (d mask : Nat) (s : State) : Out :=
  mtxIssue h s (sqFull d) none 6 fun t _ _ s' =>
    let v := entryOf fun i j => if i = 0 ∧ j = 0 then FM.get 0 (s'.tile t).eflag 3 else 0
    (s'.fillSq t d v 0).flyTile t 1 (.sysw t 0 0x13 (w64 mask) false)

/-- Replays of the open window, and since bind (07 R215, R221). -/
def execMrstat (h : Hdr) (d clr : Nat) (s : State) : Out :=
  mtxIssue h s (sqFull d) none 6 fun t _ T s' =>
    let w := T.window
    let f (g : Window → Nat) : Nat := (w.map g).getD 0
    let vals := [bit w.isSome 0, f fun w => w.kept.length, f fun w => w.replays, min T.replays (2 ^ 32 - 1),
      f fun w => w.first, f fun w => w.cnt]
    let s' := s'.fillSq t d (entryOf fun i j => if i = 0 then vals.getD j 0 else 0) 0
    if clr = 1 then s'.updTile t fun T => { T with replays := 0 } else s'

/-- MTSTART (07 R219): the window opens at issue + 1. -/
def execMtstart (h : Hdr) (d n : Nat) (s : State) : Out :=
  mtxIssue h s never none 1 fun t _ _ s' => s'.flyTile t 1 (.mwindow t (accIdx d) (n + 1))

/-- The opening: the tiles, their poison and the row mask are copied. -/
def State.openWindow (s : State) (t id first cnt : Nat) : State :=
  s.updTile t fun T => { T with
    window := some ⟨id, first, cnt, (List.range cnt).map fun i => (first + i, T.accOf (first + i)), T.rowMask, T.rowMaskP, [], [], 0, 0⟩ }

/-- MTEND (07 R220): it closes the window at issue + 1; its own signal follows those of the commands that leave
with it. -/
def execMtend (h : Hdr) (s : State) : Out :=
  engIssue h s .none fun t sig s' => s'.flyTile t 1 (.mclose t sig)

def State.endWindow (s : State) (t sig : Nat) : State :=
  match (s.tile t).window with
  | none => s.signalNow t 3 0 sig none
  | some w =>
    let s := s.closeWindow t
    let last := s.flights.foldl (fun m f => match f.fl with
      | .mdone u win _ _ => if u = t ∧ win = w.id then max m f.due else m
      | _ => m) 0
    if last = 0 then s.signalNow t 3 0 sig none else s.fly (.tile t) last (.mdone t 0 0 sig)

/-- NOP waits and then signals (02 R50); in the vector engine it is a pipe word (06 R161), in the matrix engine
its signal comes at issue + 1 and may be held in a window (07 R209, R220). -/
def execNop (h : Hdr) (s : State) : Out :=
  match s.cur with
  | .ctl _ _ => ctlIssue h s .none fun t c sig s' => (s'.ctlNext t c 1).signalNow t 0 c sig none
  | _ =>
    if s.curEng = 3 then mtxIssue h s never (some (0, -1)) 1 fun _ _ _ s' => s'
    else
      engIssue h s { EngChecks.none with busy := fun s t => s.curEng == 2 && (s.tile t).pipeBusy } fun t sig s' =>
        let s' := if s.curEng = 2 then s'.updTile t fun T => { T with lastPipe := some T.clk } else s'
        s'.signalNow t s.curEng 0 sig none

end Sys2Proof.Machine
end

