-- ==== Sys2Proof/Machine/Xbr.lean ====
section
/-! DEFINITION. Sys2Proof/Machine/Xbr.lean: the crossbar engine's configuration, compute, status and privacy words, array work and audits
(08). -/

namespace Sys2Proof.Machine

def Tile.array (T : Tile) (a : Nat) : XArray := FM.get XArray.fresh T.arrays a
def Tile.setArray (T : Tile) (a : Nat) (A : XArray) : Tile := { T with arrays := FM.set T.arrays a A }
def State.array (s : State) (t a : Nat) : XArray := (s.tile t).array a
def State.updArray (s : State) (t a : Nat) (f : XArray → XArray) : State := s.updTile t fun T => T.setArray a (f (T.array a))

/-- An exact rational rounded to an integer, ties to even. -/
def rneDiv (n : Int) (d : Nat) : Int :=
  let q := n / (d : Int)
  let r := n % (d : Int)
  if (d : Int) < 2 * r ∨ (2 * r = d ∧ q % 2 = 1) then q + 1 else q

def sumMap {α : Type} (f : α → Int) (xs : List α) : Int := xs.foldl (fun a x => a + f x) 0

/-- Rows of a depth code, and output columns of an encoding (08 R225, R226). -/
def depthRows (d : Nat) : Nat := 128 * 2 ^ d
def xwidth (enc : Nat) : Nat := if enc = 1 then 256 else 512
def xweight (enc : Nat) : Int := if enc = 1 then 128 else 8

/-- The physical column of a logical column (09 R260), and the architected code of a cell (08 R224, R225). -/
def XArray.phys (A : XArray) (c : Nat) : Nat :=
  match (List.range 12).find? fun e => FM.get 0 A.remap e % 512 == c && decide (2 ^ 15 ≤ FM.get 0 A.remap e) with
  | some e => 512 + e
  | none => c
def XArray.cell (A : XArray) (r p : Nat) : Nat := FM.get 0 A.cells (528 * r + p)
/-- V and CSR are keyed 8c + g. Where V is 1 the code is the target that the last verifying word held, elsewhere
what the cell holds (09 R255). -/
def XArray.isVerified (A : XArray) (c g : Nat) : Bool := setHas A.verified (8 * c + g)
def XArray.held (A : XArray) (r c : Nat) : Nat := A.cell r (A.phys c)
def XArray.code (A : XArray) (r c : Nat) : Nat := if A.isVerified c (r / 64) then FM.get 0 A.target (512 * r + c) else A.held r c

/-- The active rows (08 R227), and the active row groups within depth. -/
def XArray.rows (A : XArray) : List Nat := (List.range (depthRows A.depth)).filter fun r => A.rgmask / 2 ^ (r / 64) % 2 == 1
def XArray.groups (A : XArray) : List Nat := (List.range (depthRows A.depth / 64)).filter fun g => A.rgmask / 2 ^ g % 2 == 1

/-- A signed input byte. -/
def sbyte (x : Nat) : Int := if x < 128 then x else (x : Int) - 256
def xin (x : List Nat) (r : Nat) : Int := sbyte (x.getD r 0)

/-- The floor value of 08 R228 for column `c` and plane `k`: `U` gives the codes. -/
def planeFloor (rows : List Nat) (qexp : Nat) (U : Nat → Nat → Nat) (x : List Nat) (c k : Nat) : Nat :=
  let sum := rows.foldl (fun a r => a + (if (xin x r + 128).toNat / 2 ^ k % 2 = 1 then U r c else 0)) 0
  (2 * sum + 2 ^ qexp) / (2 * 2 ^ qexp)

/-- A[c] of 08 R229 from the delivered codes of the eight planes. -/
def colValue (qexp : Nat) (off : Int) (gain : Nat) (code : Nat → Nat) : Int :=
  sumMap (fun (k : Nat) => rneDiv (((code k : Int) - off) * gain) 32768 * 2 ^ qexp * 2 ^ k) (List.range 8)

/-- The value of output column `j` from column values and code sums (08 R229). -/
def outValue (enc : Nat) (A CS : Nat → Int) (sx : Int) (j : Nat) : Int :=
  if enc = 1 then 16 * A (2 * j + 1) + A (2 * j) - 128 * (16 * CS (2 * j + 1) + CS (2 * j)) - xweight enc * sx
  else A j - 128 * CS j - xweight enc * sx

def XArray.sx (A : XArray) (x : List Nat) : Int := sumMap (fun r => xin x r) A.rows
/-- The code sum of a column over the enabled row groups within depth (08 R229; 09 R255). -/
def XArray.codeSum (A : XArray) (c : Nat) : Int := sumMap (fun (g : Nat) => ((FM.get (0 : Nat) A.csr (8 * c + g) : Nat) : Int)) A.groups

/-- The ideal value F of the array for output column `j` (08 R229). -/
def XArray.ideal (A : XArray) (x : List Nat) (j : Nat) : Int :=
  outValue A.enc (fun c => colValue A.qexp 0 0x8000 fun k => min 255 (planeFloor A.rows A.qexp A.code x c k)) A.codeSum (A.sx x) j

/-- F computed from a stored-code image (08 R245; 09 R256). -/
def imageCode (img : List Nat) (r c : Nat) : Nat := img.getD (256 * r + c / 2) 0 / 16 ^ (c % 2) % 16
def XArray.idealOf (A : XArray) (img : List Nat) (x : List Nat) (j : Nat) : Int :=
  outValue A.enc (fun c => colValue A.qexp 0 0x8000 fun k => min 255 (planeFloor A.rows A.qexp (imageCode img) x c k))
    (fun c => sumMap (fun r => (imageCode img r c : Int)) A.rows) (A.sx x) j

/-- The value that delivered codes give (08 R229). -/
def XArray.delivered (A : XArray) (x : List Nat) (code : Nat → Nat → Nat) (j : Nat) : Int :=
  outValue A.enc (fun c => colValue A.qexp (FM.get 0 A.xoff c) (FM.get 0x8000 A.xgain c) (code c)) A.codeSum (A.sx x) j

/-- Certified for an operation (08 R231), uncertifiable, private to another context or orphaned. -/
def XArray.certified (A : XArray) : Bool :=
  A.cert.cstate == 1 && A.cert.depth == A.depth && A.cert.qexp == A.qexp && A.cert.enc == A.enc
def XArray.uncert (A : XArray) : Bool := A.cert.cstate == 3
def XArray.foreign (A : XArray) (ctx : Nat) : Bool := A.orphan || (A.priv && A.owner != ctx)

/-- A lapse of a current certificate (09 R267). -/
def XArray.lapse (A : XArray) (reason : Nat) : XArray :=
  if A.cert.cstate = 1 then { A with cert := { A.cert with cstate := 2, lapse := reason } } else A
def XArray.markUncert (A : XArray) : XArray := { A with cert := { A.cert with cstate := 3 } }
/-- Reprogramming: a current certificate lapses and the calibration record's valid bit clears. -/
def XArray.reprogram (A : XArray) : XArray := { A.lapse 3 with calValid := false }

/-- The route an array resolves to (08 R242): 0 analogue, 1 digital, 2 raw; or the cause it raises. -/
def XArray.route (A : XArray) (field : Nat) : Except Nat Nat :=
  let digital : Except Nat Nat := if A.shadowPtr.isSome then .ok 1 else .error 0x44
  match field with
  | 0 => if A.certified then .ok 0 else if A.policy = 2 then digital else .error 0x40
  | 1 => if !A.certified && A.policy == 0 then .error 0x44 else digital
  | _ => if A.uncert then .error 0x40 else .ok 2

/-- One array operation counted (09 R267). -/
def Cert.limit (c : Cert) : Nat := if c.lk = 0 then 0 else 2 ^ c.lk
def XArray.countOp (A : XArray) : XArray :=
  let c := { A.cert with ops := A.cert.ops + 1, left := A.cert.limit - (A.cert.ops + 1) }
  let A := { A with cert := c }
  if c.ops = c.limit then A.lapse 2 else A

def XGroup.arrays (g : XGroup) : List Nat := (List.range (g.nk * g.nn)).map fun i => g.first + i
def XCmd.arrays (c : XCmd) : List Nat := (List.range (c.nk * c.nn)).map fun i => c.first + i
/-- Output slots of one chain. -/
def chainSlots (enc : Nat) : Nat := if enc = 1 then 1 else 2

/-- The tc in which vector `j` of the present run ends its array work, and its array work as a whole (08 R233). -/
def vecEnd (s0 j : Nat) : Nat := s0 + (1152 * (j + 1) + 4) / 5
def XCmd.workEnd (c : XCmd) (s0 l0 : Nat) : Nat := if c.vs.length ≤ l0 then s0 else vecEnd s0 (c.vs.length - l0 - 1)
def XCmd.hasDigital (c : XCmd) : Bool := c.routes.contains 1

/-- Array `a` has array work in progress in tc `u`: digital work counts until its rows have landed (08 R233,
R235; 09 R251). -/
def Tile.arrayBusy (T : Tile) (u a : Nat) : Bool :=
  (T.xcmds.any fun kc =>
    match kc.2.started with
    | some (s0, l0) =>
      decide (kc.2.first ≤ a) && decide (a < kc.2.first + kc.2.nk * kc.2.nn) &&
        (decide (u < kc.2.workEnd s0 l0) || (kc.2.routes.getD (a - kc.2.first) 0 == 1 && decide (kc.2.landed < kc.2.vs.length)))
    | none => false) ||
  T.xcal.any fun kc => kc.2.array == a &&
    (match kc.2.started with
     | some s0 => kc.2.op != calBackfill || kc.2.fit || decide (u < s0 + kc.2.cc)
     | none => false)

/-- An issued command earlier than `k` waits to use array `a`. -/
def Tile.arrayAwaited (T : Tile) (k a : Nat) : Bool :=
  (T.xcmds.any fun kc => decide (kc.1 < k) && kc.2.started.isNone && decide (kc.2.first ≤ a) &&
    decide (a < kc.2.first + kc.2.nk * kc.2.nn)) ||
  T.xcal.any fun kc => decide (kc.1 < k) && kc.2.started.isNone && kc.2.array == a

/-- What XCFG, XMASK and XPRIV wait for (08 R232). -/
def arraysIdle (a n : Nat) (s : State) (t : Nat) : Bool :=
  (List.range n).all fun i => !(s.tile t).arrayBusy s.tc (a + i) && !(s.tile t).arrayAwaited s.nextId (a + i)

/-- Fault of a configuration word (08 R236, R241, R248). -/
def xtval (a check : Nat) : Word := w64 (a * 256 + check)

/-- The first array of a run that a word may not change. -/
def foreignIn (T : Tile) (a n : Nat) : Option Nat := ((List.range n).map fun i => a + i).find? fun b => (T.array b).foreign T.ctx

/-- A configuration word over arrays `a` on: it lands and signals at issue + 1 (08 R234, R236). -/
def xconfig (h : Hdr) (a n : Nat) (bad : Tile → Option Nat) (fl : Nat → Tile → Fl) (s : State) : Out :=
  engIssue h s { EngChecks.none with busy := fun s t => !arraysIdle a n s t } fun t sig s' =>
    match bad (s.tile t) with
    | some b => s'.execFault t 4 0x43 (xtval b 4) sig
    | none => (s'.flyTile t 1 (fl t (s.tile t))).signalIn t 4 0 sig 1 none

/-- A limit that depends on the state: 0x09 before the wait (02 R29). -/
def xbrDec (s : State) (bad : Bool) (go : Out) : Out := if bad then finish (s.decodeFault s.curTile 4 0x09) else go

def execXcfg (h : Hdr) (a depth qexp enc n : Nat) (s : State) : Out :=
  xconfig h a (n + 1) (fun T => foreignIn T a (n + 1)) (fun t _ => .xcfg t a (n + 1) depth qexp enc) s

/-- XMASK (08 R236): a set bit at or beyond the depth of a named array raises 0x09. -/
def execXmask (h : Hdr) (a n rg : Nat) (s : State) : Out :=
  let T := s.tile s.curTile
  xbrDec s ((List.range (n + 1)).any fun i => decide (2 ^ (depthRows (T.array (a + i)).depth / 64) ≤ rg))
    (xconfig h a (n + 1) (fun T => foreignIn T a (n + 1)) (fun t _ => .xrgmask t a (n + 1) rg) s)

def execXpriv (h : Hdr) (a n : Nat) (s : State) : Out :=
  xconfig h a (n + 1) (fun T => foreignIn T a (n + 1)) (fun t _ => .xpriv t a (n + 1) true) s

/-- XPRIV.REL (08 R248): every array must be the issuing context's own. -/
def execXprivRel (h : Hdr) (a n : Nat) (s : State) : Out :=
  xconfig h a (n + 1)
    (fun T => ((List.range (n + 1)).map fun i => a + i).find? fun b =>
      !((T.array b).priv && !(T.array b).orphan && (T.array b).owner == T.ctx))
    (fun t _ => .xpriv t a (n + 1) false) s

/-- The landings of configuration words. -/
def overArrays (a n : Nat) (f : XArray → XArray) (T : Tile) : Tile :=
  (List.range n).foldl (fun T i => T.setArray (a + i) (f (T.array (a + i)))) T

def execXgrp (h : Hdr) (g first nk nn : Nat) (s : State) : Out :=
  engIssue h s .none fun t sig s' =>
    (s'.flyTile t 1 (.xgroup t g ⟨first, nk + 1, nn + 1⟩)).signalIn t 4 0 sig 1 none

/-- XRING waits for the input reads of earlier commands (08 R232). -/
def inputsUnread (s : State) (t : Nat) : Bool := (s.tile t).xcmds.any fun kc => kc.2.started.isNone

def Tile.xring (T : Tile) (out k : Nat) : SRing := FM.get SRing.none (if out = 1 then T.xout else T.xin) k

def execXringSet (h : Hdr) (k out nslots base : Nat) (s : State) : Out :=
  engIssue h s { EngChecks.none with busy := inputsUnread } fun t sig s' =>
    (s'.flyTile t 1 (.xring t (out == 1) k ⟨base, nslots, 0⟩)).signalIn t 4 0 sig 1 none

def execXringAdv (h : Hdr) (k out n : Nat) (s : State) : Out :=
  let r := (s.tile s.curTile).xring out k
  xbrDec s (r.nslots == 0)
    (engIssue h s { EngChecks.none with busy := inputsUnread } fun t sig s' =>
      (s'.flyTile t 1 (.xring t (out == 1) k { r with head := (r.head + n) % r.nslots })).signalIn t 4 0 sig 1 none)

/-- XRING.VMASK (08 R239): bit i from the word at byte 256i of the image; it governs what issues after issue +
2, when its signal is sent. -/
def execXringVmask (h : Hdr) (base : Nat) (s : State) : Out :=
  engIssue h s { EngChecks.none with busy := inputsUnread } fun t sig s' =>
    let a := spBase t + 4096 * base
    let m := (List.range 16).foldl (fun m i => m + bit (s.nat (a + 256 * i) 4 != 0) i) 0
    let p := (List.range 16).any fun i => s.poisAt (a + 256 * i)
    (s'.flyTile t 3 (.xvmask t m p)).signalIn t 4 0 sig 2 none

/-- The remap step (09 R261), none when no spare is free. -/
def XArray.freeSpare (A : XArray) : Option Nat := (List.range 12).find? fun e => decide (FM.get 0 A.remap e < 2 ^ 14)
def XArray.remapCol (A : XArray) (c : Nat) : Option XArray :=
  A.freeSpare.map fun e =>
    let old := (List.range 12).foldl (fun m i =>
      let x := FM.get 0 m i
      if 2 ^ 15 ≤ x ∧ x % 512 = c then FM.set m i (x % 512 + 2 ^ 14) else m) A.remap
    { A.reprogram with
      remap := FM.set old e (c + 2 ^ 15)
      verified := A.verified.filter fun k => k / 8 != c
      csr := A.csr.filter fun k => k.1 / 8 != c }

/-- The 16-bit value of column `c` in a table image. -/
def half (bs : List Nat) (c : Nat) : Nat := leNat ((bs.drop (2 * c)).take 2)

/-- Effects on an array of the calibration words without array time (09 R252). -/
def State.tableEffect (s : State) (t op : Nat) (vs : List Nat) : State :=
  let v (i : Nat) : Nat := vs.getD i 0
  let a := v 0
  let each (f : Nat → XArray → XArray) : State :=
    (List.range (v 1)).foldl (fun s i => s.updArray t (a + i) (f i)) s
  match op with
  | 0xE => s.updArray t a fun A => (A.remapCol (v 1)).getD A
  | 0x10 =>
    let now := (s.tile t).mclk
    each fun _ A => { A with k := v 2, nextMeas := now + 2 ^ (v 2 + 15), peak := if v 3 = 1 then A.drift else A.peak }
  | 0x12 =>
    let tab : FM Int := (List.range 512).map fun c => (c, (ity 3).read (half (vs.drop 1) c))
    s.updArray t a fun A => { A.reprogram with xoff := tab }
  | 0x13 =>
    let tab : FM Nat := (List.range 512).map fun c => (c, half (vs.drop 1) c)
    s.updArray t a fun A => { A.reprogram with xgain := tab }
  | 0x17 => each fun i A => { A with
      policy := v 2, shadowPtr := if v 3 = 1 then some (v 4 * 65536 + 0x80000 * i) else A.shadowPtr }
  | _ => each fun i A => { A with
      arate := v 2, acount := 0, image := if v 3 = 1 then some (v 4 * 65536 + 0x20000 * i) else A.image }

/-- The effects of calibration words on their way, on the tables that a later word's checks look at: calibration
words take effect in ring order against the commands and one another (09 R251). -/
def State.calSeen (s : State) (t : Nat) : State :=
  s.flights.foldl (fun s f =>
    match f.fl with
    | .calEffect u op vs => if u = t ∧ 9 < op ∧ op ≠ 0x15 then s.tableEffect t op vs else s
    | _ => s) s

/-- The failing check of 08 R241: cause, array, check number. -/
def Tile.mvmFail (T : Tile) (g i o route : Nat) : Option (Nat × Nat × Nat) :=
  match FM.find? T.xgroups g with
  | none => some (0x41, 0, 1)
  | some x =>
    let ri := T.xring 0 i
    let ro := T.xring 1 o
    let u := chainSlots (T.array x.first).enc
    if ri.nslots = 0 ∨ ro.nslots = 0 ∨ ri.nslots < x.nk ∨ ro.nslots < u * x.nn then some (0x41, 0, 2)
    else if x.arrays.any fun a => (T.array a).enc != (T.array x.first).enc then some (0x41, 0, 3)
    else match x.arrays.find? fun a => (T.array a).foreign T.ctx with
      | some a => some (0x43, a, 4)
      | none => x.arrays.findSome? fun a =>
        match (T.array a).route route with
        | .error cause => some (cause, a, 5)
        | .ok _ => none

/-- XMVM and XMVMA at issue (08 R232, R240, R241): groups, arrays and slots are resolved. -/
def mvmWord (acc : Bool) (h : Hdr) (g i o inoff outoff nvec route vm : Nat) (s : State) : Out :=
  let T := (s.calSeen s.curTile).tile s.curTile
  let x := FM.get ⟨0, 0, 0⟩ T.xgroups g
  let ri := T.xring 0 i
  let ro := T.xring 1 o
  let enc := (T.array x.first).enc
  let fail := T.mvmFail g i o route
  let outIdx := (List.range (chainSlots enc * x.nn)).map fun m => (ro.head + outoff + m) % ro.nslots
  let busy (s : State) (t : Nat) : Bool :=
    let cs := (s.tile t).xcmds
    decide (8 ≤ cs.length) || (fail.isNone && cs.any fun kc => kc.2.o == o && kc.2.outIdx.any fun m => outIdx.contains m)
  engIssue h s { EngChecks.none with busy := busy } fun t sig s' =>
    match fail with
    | some (cause, a, n) => s'.execFault t 4 cause (xtval a n) sig
    | none =>
      let routes := x.arrays.map fun a => match (T.array a).route route with
        | .ok r => r
        | .error _ => 0
      let c : XCmd := {
        acc := acc, g := g, i := i, o := o, islot := (ri.head + inoff) % ri.nslots, oslot := (ro.head + outoff) % ro.nslots,
        nvec := nvec, vm := vm, xvm := T.xvm, xvmP := T.xvmP, outIdx := outIdx, first := x.first, nk := x.nk, nn := x.nn,
        ins := (List.range x.nk).map fun kk => 4096 * ri.base + 8192 * ((ri.head + inoff + kk) % ri.nslots),
        outs := outIdx.map fun m => 4096 * ro.base + 16384 * m,
        vs := (List.range (nvec + 1)).filter fun v => vm == 0 || T.xvm / 2 ^ v % 2 == 1,
        vp := vm == 1 && T.xvmP, route := route, enc := enc, from' := T.clk + 2, started := none, counted := false,
        routes := routes, certs := [], inputs := [], landed := 0, slots := 0, audits := [], auditFrom := 0, delivered := [], snaps := [],
        sig := sig, pois := none, held := none, grp := ((s'.tile t).engine 4).group }
      let s' := { s' with nextId := s'.nextId + 1 }
      s'.updTile t fun T => { T with xcmds := FM.set T.xcmds s.nextId c }

def execXmvm (h : Hdr) (g i o inoff outoff nvec route vm : Nat) (s : State) : Out :=
  mvmWord false h g i o inoff outoff nvec route vm s
def execXmvma (h : Hdr) (g i o inoff outoff nvec route vm : Nat) (s : State) : Out :=
  mvmWord true h g i o inoff outoff nvec route vm s

/-- The fault of a command or calibration word after its issue: the engine stops fetching. -/
def State.xbrFault (s : State) (t cause : Nat) (tval : Word) (sig : Nat) (grp : List RWord) : State :=
  (s.stopUnit t 4 cause tval grp grp).signalNow t 4 0 sig (some (cause, originOf t 4))

def State.setXcmd (s : State) (t k : Nat) (c : XCmd) : State := s.updTile t fun T => { T with xcmds := FM.set T.xcmds k c }
def State.dropXcmd (s : State) (t k : Nat) : State := s.updTile t fun T => { T with xcmds := FM.del T.xcmds k }

/-- The route of each array at the start (09 R268); those of a command started before stand (08 R231). -/
def Tile.startRoutes (T : Tile) (c : XCmd) : Except (Nat × Nat) (List Nat) :=
  if c.counted then .ok c.routes
  else c.arrays.foldl (fun o a =>
    match o with
    | .error e => .error e
    | .ok rs => match (T.array a).route c.route with
      | .ok r => .ok (rs ++ [r])
      | .error cause => .error (cause, a)) (.ok [])

/-- Step slots of digital work: 16 output columns over 192 rows of K each (08 R242). -/
def XArray.digitalSlots (A : XArray) : Nat := xwidth A.enc / 16 * ((depthRows A.depth + 191) / 192)

/-- The inputs of a command's vectors that have not landed, each row of an input slot whole, with the poison of
the granules within the depth of the arrays that read it (08 R233, R240). -/
def State.readInputs (s : State) (t : Nat) (c : XCmd) : List (Nat × List Nat × Bool) :=
  (c.vs.drop c.landed).flatMap fun v => (List.range c.nk).map fun kk =>
    let d := (List.range c.nn).foldl (fun d n => max d (depthRows (s.array t (c.first + kk + c.nk * n)).depth)) 0
    let a := spBase t + c.ins.getD kk 0 + 512 * v
    (16 * v + kk, s.bytes a d, (List.range (d / 64)).any fun i => s.poisAt (a + 64 * i))

/-- Array work counts one operation of each analogue or raw array, and takes the sample of its audit (09 R267;
08 R245). -/
def State.countOps (s : State) (t : Nat) (arrays routes : List Nat) : List Nat × State :=
  (List.zip arrays routes).foldl (fun (o : List Nat × State) ar =>
    if ar.2 = 1 then o
    else
      let A := (o.2.array t ar.1).countOp
      if ar.2 = 0 ∧ 0 < A.arate then
        if A.acount + 1 = A.arate then (o.1 ++ [ar.1], o.2.updArray t ar.1 fun _ => { A with acount := 0 })
        else (o.1, o.2.updArray t ar.1 fun _ => { A with acount := A.acount + 1 })
      else (o.1, o.2.updArray t ar.1 fun _ => A)) ([], s)

/-- The start of array work of an XMVM or XMVMA (08 R233; 09 R268). -/
def State.xcmdStart (s : State) (t k : Nat) (c : XCmd) : State :=
  match (s.tile t).startRoutes c with
  | .error (cause, a) => (s.dropXcmd t k).xbrFault t cause (xtval a 5) c.sig c.grp
  | .ok routes =>
    let certs := if c.counted then c.certs else c.arrays.map fun a => ((s.array t a).cert.ebank, (s.array t a).cert.serial)
    let inputs := s.readInputs t c
    let slots := (List.zip c.arrays routes).foldl (fun n ar => if ar.2 = 1 then n + (s.array t ar.1).digitalSlots else n) 0
    let (due, s) := if c.counted then (c.audits, s) else s.countOps t c.arrays routes
    s.setXcmd t k { c with
      snaps := c.arrays.map fun a => (a, s.array t a)
      started := some (s.tc, c.landed), counted := true, routes := routes, certs := certs, audits := due, slots := slots
      inputs := (c.inputs.filter fun i => inputs.all fun j => j.1 != i.1) ++ inputs }

/-- What array `A` delivers for an input by the analogue or raw route, certified at Ebank `e`: the values of its
columns and the clip bits it sets. The deviation within the bound, the raw codes and the clip choices that 08
R228 allows are free (log entry 7). -/
def State.arrayOut (s : State) (A : XArray) (route e : Nat) (x : List Nat) : (List Int × Nat) × State :=
  let (n, s) := takeFree s
  let (m, s) := takeFree s
  let w := xwidth A.enc
  if route = 2 then
    (((List.range w).map fun j => A.delivered x (fun c k => n / 256 ^ (8 * c + k) % 256) j, m % 2 ^ 512), s)
  else
    let clipOf (col : Nat) : Nat :=
      let top := (List.range 8).foldl (fun a k => max a (planeFloor A.rows A.qexp A.code x col k)) 0
      if 257 ≤ top then 1 else if top ≤ 254 then 0 else m / 2 ^ col % 2
    (((List.range w).map fun j => A.ideal x j + ((n / (2 * e + 1) ^ j % (2 * e + 1) : Nat) : Int) - e,
      (List.range 512).foldl (fun a col => a + clipOf col * 2 ^ col) 0), s)

/-- Array `a` as the array work of a command found it (08 R227 to R231). -/
def State.arrayOf (s : State) (t : Nat) (c : XCmd) (a : Nat) : XArray := FM.get (s.array t a) c.snaps a

/-- What array `i` of a command delivers for a vector. -/
def State.analogue (s : State) (t : Nat) (c : XCmd) (i : Nat) (x : List Nat) : (List Int × Nat) × State :=
  s.arrayOut (s.arrayOf t c (c.first + i)) (c.routes.getD i 0) (c.certs.getD i (0, 0)).1 x

/-- A shadow copy as read: bytes, and whether a granule that the work uses is poisoned. -/
abbrev Shadow := List Nat × Bool

/-- The exact product of an array's shadow copy, and whether a block that contributes to column `j` is malformed
(09 R271). -/
def XArray.digital (A : XArray) (sh : List Nat) (x : List Nat) (j : Nat) : Int :=
  sumMap (fun r => xin x r * sbyte (sh.getD (528 * j + r) 0)) A.rows
def XArray.badScale (A : XArray) (sh : List Nat) (j : Nat) : Bool :=
  A.rows.any fun r => sh.getD (528 * j + 512 + r / 32) 0 != 0x85

/-- The rows of vector `v` land (08 R230, R243). -/
def State.landRow (s : State) (t k : Nat) (c : XCmd) (shs : FM Shadow) (v : Nat) : State :=
  let input (kk : Nat) : List Nat × Bool := ((c.inputs.find? fun i => i.1 == 16 * v + kk).map fun i => i.2).getD ([], false)
  let one (o : List (List Int) × State) (i : Nat) : List (List Int) × State :=
    let s := o.2
    let a := c.first + i
    let A := s.arrayOf t c a
    let x := (input (i % c.nk)).1
    if c.routes.getD i 0 = 1 then
      (o.1 ++ [(List.range (xwidth A.enc)).map fun j => A.digital (FM.get ([], false) shs a).1 x j], s)
    else
      let (r, s) := s.analogue t c i x
      let s := if r.2 = 0 then s else
        (s.updTile t fun T => { T with clip := FM.set T.clip a (FM.get 0 T.clip a ||| r.2) }).orFlags t 4 fCL
      (o.1 ++ [r.1], s)
  let (vals, s) := (List.range (c.nk * c.nn)).foldl one ([], s)
  let rowP := c.vp || ((List.range c.nk).any fun kk => (input kk).2) || shs.any fun h => h.2.2
  let u := chainSlots c.enc
  let put (s : State) (q : Nat) : State :=
    let n := q / u
    let m := q % u
    let base := spBase t + c.outs.getD q 0 + 1024 * v
    let chain := (List.range c.nk).map fun kk => n * c.nk + kk
    let bad := chain.any fun i => c.routes.getD i 0 == 1 &&
      ((List.range 256).any fun j => (s.arrayOf t c (c.first + i)).badScale (FM.get ([], false) shs (c.first + i)).1 (256 * m + j))
    let r := (List.range 256).map fun j =>
      let tot := sumMap (fun (i : Nat) => (vals.getD i []).getD (256 * m + j) 0) chain
      let tot := if c.acc then tot + (ity 0).read (s.nat (base + 4 * j) 4) else tot
      let y := max (-(2 ^ 31)) (min (2 ^ 31 - 1) tot)
      ((BitVec.ofInt 32 y).toNat, y != tot)
    let s := if r.any fun p => p.2 then s.orFlags t 4 fSA else s
    (List.range 16).foldl (fun s i =>
      let a := base + 64 * i
      s.putGranule a (((r.drop (16 * i)).take 16).flatMap fun p => natLe 4 p.1) (rowP || bad || (c.acc && s.poisAt a))) s
  let s := (List.range (u * c.nn)).foldl put s
  let anyBad := (List.zip c.arrays c.routes).any fun ar => ar.2 == 1 &&
    ((List.range (xwidth c.enc)).any fun j => (s.arrayOf t c ar.1).badScale (FM.get ([], false) shs ar.1).1 j)
  let keep := (List.zip (List.range (c.nk * c.nn)) vals).foldl (fun (d : FM Int) iv =>
    if c.audits.contains (c.first + iv.1) then
      (List.zip (List.range iv.2.length) iv.2).foldl (fun d jv => FM.set d ((c.first + iv.1) * 8192 + v * 512 + jv.1) jv.2) d
    else d) c.delivered
  s.setXcmd t k { c with
    landed := c.landed + 1, delivered := keep
    pois := if anyBad && c.pois.isNone then some (0x4D, originOf t 4) else c.pois }

/-- A command whose rows have all landed and whose audits have finished sends its signal and ends (08 R233); it
stays in flight while its signal waits or goes to a home record (02 R32; 19 R462). -/
def State.xcmdEnd (s : State) (t k : Nat) : State :=
  match FM.find? (s.tile t).xcmds k with
  | none => s
  | some c =>
    if c.landed < c.vs.length ∨ c.audits ≠ [] ∨ c.held.isSome then s
    else
      let s' := match s.signalLater t 4 c.sig c.pois with
        | some m => s.setXcmd t k { c with held := some m }
        | none => s.dropXcmd t k
      s'.signalNow t 4 0 c.sig c.pois

/-- The next vector's rows land, or a command without active vectors ends (08 R233). -/
def State.vectorLands (s : State) (t k : Nat) : State :=
  match FM.find? (s.tile t).xcmds k with
  | none => s
  | some c =>
    match c.started with
    | none => s
    | some (s0, l0) =>
      let s := match (c.vs.drop c.landed).head? with
        | some v => s.landRow t k { c with auditFrom := c.workEnd s0 l0 } [] v
        | none => s
      s.xcmdEnd t k

def execVectorRowsLand (t k : Nat) (s : State) : Out := finish (s.vectorLands t k)

/-- The read of line `i` from `va` on, after the lines and poison bits read before it, last first. -/
def devLine (ctx col va : Nat) (o : (List (List Nat) × List Bool) × State) (i : Nat) : (List (List Nat) × List Bool) × State :=
  match o.2.translate ctx col (va + 64 * i) 2 1 with
  | .ok p =>
    let ((bs, q), s) := o.2.bsLine ctx p (va + 64 * i)
    ((bs :: o.1.1, q :: o.1.2), s)
  | _ => o

/-- Reads `n` bytes of device memory as an agent of column `col` for context `ctx`, or what keeps it from them. -/
def State.devRead (s : State) (ctx col va n : Nat) : Except Xl (List Nat × List Bool) × State :=
  match s.translateRange ctx col va n 2 1 with
  | some x => (.error x, s)
  | none =>
    let r := (List.range ((n + 63) / 64)).foldl (devLine ctx col va) (([], []), s)
    (.ok ((r.1.1.reverse.flatten).take n, r.1.2.reverse), r.2)

/-- The read of the crossbar engine of tile `t` (09 R254, R256, R271). -/
def State.xbrRead (s : State) (t va n : Nat) : Except Xl (List Nat × List Bool) × State :=
  s.devRead (s.tile t).ctx (tileCol t) va n

/-- A granule of a shadow copy holds a weight or scale of a row below the depth. -/
def XArray.usesGranule (A : XArray) (i : Nat) : Bool :=
  let d := depthRows A.depth
  (List.range 64).any fun b => decide ((64 * i + b) % 528 < d) ||
    (decide (512 ≤ (64 * i + b) % 528) && decide ((64 * i + b) % 528 < 512 + d / 32))

/-- The shadow copies of the digital arrays `as` of tile `t`, or the first read that fails. -/
def State.shadowsOf (s : State) (ctx col t : Nat) (as : List Nat) : Except Xl (FM Shadow) × State :=
  as.foldl (fun (o : Except Xl (FM Shadow) × State) a =>
    match o.1 with
    | .error _ => o
    | .ok m =>
      let A := o.2.array t a
      match o.2.devRead ctx col (A.shadowPtr.getD 0) (528 * xwidth A.enc) with
      | (.error x, s) => (.error x, s)
      | (.ok (bs, ps), s) =>
        (.ok (FM.set m a (bs, (List.zip (List.range ps.length) ps).any fun ip => ip.2 && A.usesGranule ip.1)), s))
    (.ok [], s)
def State.readShadows (s : State) (t : Nat) (as : List Nat) : Except Xl (FM Shadow) × State :=
  s.shadowsOf (s.tile t).ctx (tileCol t) t as

/-- A step slot of digital work (08 R242). At the end of the work the shadow copies are read, and the rows land
once their analogue share has. -/
def State.digitalStep (s : State) (t k : Nat) : State :=
  match FM.find? (s.tile t).xcmds k with
  | none => s
  | some c =>
    if 1 < c.slots then s.setXcmd t k { c with slots := c.slots - 1 }
    else match c.started with
      | none => s
      | some (s0, l0) =>
        let w := c.workEnd s0 l0
        let analogue := c.routes.any fun r => r != 1
        if analogue && decide (s.tc < w + 6) then s
        else
          let as := ((List.zip c.arrays c.routes).filter fun ar => ar.2 == 1).map fun ar => ar.1
          match s.readShadows t as with
          | (.error (.held i va), s) => s.holdAccess (tileCol t) (.xbar t k) (s.tile t).ctx va 0 (originOf t 4) i
          | (.error (.fault cause va), s) => (s.dropXcmd t k).xbrFault t cause (w64 va) c.sig c.grp
          | (.error _, s) => s
          | (.ok shs, s) =>
            let s := s.setXcmd t k { c with auditFrom := if analogue then w else s.tc }
            let s := (c.vs.drop c.landed).foldl (fun s v =>
              match FM.find? (s.tile t).xcmds k with
              | some c => s.landRow t k c shs v
              | none => s) s
            s.xcmdEnd t k

def execDigitalRouteStep (t k : Nat) (s : State) : Out := finish (s.digitalStep t k)

/-- The output granules to which array `a` contributed are poisoned (08 R245). -/
def State.poisonOutputs (s : State) (t : Nat) (c : XCmd) (a : Nat) : State :=
  let u := chainSlots c.enc
  let n := (a - c.first) / c.nk
  (List.range u).foldl (fun s m => c.vs.foldl (fun s v => (List.range 16).foldl (fun s i =>
    { s with pois := setAdd s.pois ((spBase t + c.outs.getD (n * u + m) 0 + 1024 * v) / 64 + i) }) s) s) s

/-- An audit ends (08 R245): a read of the image that fails poisons the signal and leaves the certificate. -/
def State.auditEnds (s : State) (t k : Nat) (c : XCmd) (a : Nat) : State :=
  let A := s.arrayOf t c a
  let rest := { c with audits := c.audits.filter fun b => b != a }
  let fail (s : State) (cause : Nat) : State :=
    (s.setXcmd t k { rest with pois := some (c.pois.getD (cause, originOf t 4)) }).xcmdEnd t k
  match s.xbrRead t (A.image.getD 0) (256 * depthRows A.depth) with
  | (.error (.held i va), s) => s.holdAccess (tileCol t) (.xbar t k) (s.tile t).ctx va 0 (originOf t 4) i
  | (.error (.fault cause _), s) => fail s cause
  | (.error _, s) => s
  | (.ok (img, ps), s) =>
    if ps.any id then fail s 0x37
    else
      let i := a - c.first
      let (e, serial) := c.certs.getD i (0, 0)
      let differs := c.vs.any fun v => (List.range (xwidth A.enc)).any fun j =>
        let x := ((c.inputs.find? fun y => y.1 == 16 * v + i % c.nk).map fun y => y.2.1).getD []
        decide ((e : Int) < (FM.get 0 c.delivered (a * 8192 + v * 512 + j) - A.idealOf img x j).natAbs)
      let s := s.updArray t a fun A =>
        let A := { A with audits := A.audits + 1, amis := if differs then A.amis + 1 else A.amis }
        if differs && A.cert.serial == serial then A.lapse 4 else A
      let s := if differs then s.poisonOutputs t c a else s
      (s.setXcmd t k { rest with
        pois := if differs then some (c.pois.getD (0x42, originOf t 4)) else c.pois }).xcmdEnd t k

/-- The end of the first audit that a command awaits; the work has no fixed latency, so its turn comes at a free
time. -/
def State.auditStep (s : State) (t k : Nat) : State :=
  match FM.find? (s.tile t).xcmds k with
  | none => s
  | some c =>
    match c.audits with
    | [] => s
    | a :: _ => s.auditEnds t k c a

def execAudit (t k : Nat) (s : State) : Out := finish (s.auditStep t k)

/-- An audit that has not finished 16,384 tc after its array work ended (08 R245). -/
def XCmd.overdue (c : XCmd) (u : Nat) : Bool :=
  c.started.isSome && !c.audits.isEmpty && decide (c.landed = c.vs.length) && decide (c.auditFrom + 16384 ≤ u)
def Tile.auditOverdue (T : Tile) (u : Nat) : Option Nat := (List.find? (fun (kc : Nat × XCmd) => kc.2.overdue u) T.xcmds).map fun kc => kc.1

/-- While an audit is overdue the matrix engine works on it and starts no MTX command. -/
def execAuditOverdue (t : Nat) (s : State) : Out :=
  match (s.tile t).auditOverdue s.tc with
  | some k => finish (s.auditStep t k)
  | none => finish s

/-- A pre-emption stop abandons the array work in progress; rows that have landed and audits that are due stand
(08 R235). -/
def XCmd.abandon (c : XCmd) : XCmd := if c.landed < c.vs.length then { c with started := none, from' := 0 } else c

/-- What XCLIP, XSTAT and XCSUM wait for (08 R232). -/
def rowsUnlanded (a : Nat) (s : State) (t : Nat) : Bool :=
  (s.tile t).xcmds.any fun kc => decide (kc.2.first ≤ a) && decide (a < kc.2.first + kc.2.nk * kc.2.nn) &&
    decide (kc.2.landed < kc.2.vs.length)

/-- A status word takes effect at issue + 1; its record is written, and its signal sent, at issue + 6 (08 R234,
R246). -/
def statusWordX (h : Hdr) (op a : Nat) (vs : List Nat) (bad : Tile → Bool) (s : State) : Out :=
  engIssue h s { EngChecks.none with busy := rowsUnlanded a } fun t sig s' =>
    if bad (s.tile t) then s'.execFault t 4 0x43 (xtval a 4) sig
    else (s'.flyTile t 1 (.calEffect t op (a :: vs))).signalIn t 4 0 sig 6 none

def execXclip (h : Hdr) (a clr off : Nat) (s : State) : Out := statusWordX h 7 a [clr, off] (fun _ => false) s
def execXstat (h : Hdr) (a off : Nat) (s : State) : Out := statusWordX h 8 a [off] (fun _ => false) s
def execXcsum (h : Hdr) (a off : Nat) (s : State) : Out := statusWordX h 9 a [off] (fun T => (T.array a).foreign T.ctx) s

/-- The XSTAT record (08 R247). -/
def XArray.record (A : XArray) : List Nat :=
  let c := A.cert
  let remaps := ((List.range 12).filter fun e => decide (2 ^ 15 ≤ FM.get 0 A.remap e)).length
  [A.depth, A.qexp, A.enc, A.rgmask, c.cstate, A.policy, bit A.priv 0 + bit A.orphan 1 + 16 * A.owner, remaps] ++ natLe 4 c.ebank ++
    [c.depth, c.qexp, c.enc, 0] ++ natLe 8 c.left ++ natLe 8 c.ops ++ natLe 4 A.arate ++ natLe 4 A.audits ++ natLe 4 A.amis ++
    [c.lapse] ++ List.replicate 19 0

/-- The effect of a status word: what its record will hold is taken. -/
def State.statusEffect (s : State) (t op : Nat) (vs : List Nat) : State :=
  let a := vs.getD 0 0
  let A := s.array t a
  match op with
  | 7 =>
    let s' := s.flyTile t 5 (.scratch t (64 * vs.getD 2 0) (natLe 64 (FM.get 0 (s.tile t).clip a)))
    if vs.getD 1 0 = 1 then s'.updTile t fun T => { T with clip := FM.set T.clip a 0 } else s'
  | 8 => s.flyTile t 5 (.scratch t (64 * vs.getD 1 0) A.record)
  | _ => s.flyTile t 5 (.scratch t (4096 * vs.getD 1 0) ((List.range 4096).flatMap fun i => natLe 2 (FM.get 0 A.csr i)))

end Sys2Proof.Machine
end

