-- ==== Sys2Proof/Machine/Cal.lean ====
section
/-! DEFINITION. Sys2Proof/Machine/Cal.lean: the calibration words (09): programming, verifying, remapping, reference measurements, the
fit, certificates, fallback and audit settings, reading and erasing. -/

namespace Sys2Proof.Machine

/-- V and CSR of column `c` and group `g` after a verifying word (09 R255); row `r` of the image is its row `r -
64 g0`. -/
def XArray.verify (A : XArray) (img : List Nat) (g0 c g : Nat) : XArray :=
  let target (i : Nat) : Nat := imageCode img (64 * (g - g0) + i) c
  let ok := (List.range 64).all fun i => A.held (64 * g + i) c == target i
  { A with
    target := (List.range 64).foldl (fun m i => FM.set m (512 * (64 * g + i) + c) (target i)) A.target
    verified := setPut A.verified (8 * c + g) ok
    csr := FM.set A.csr (8 * c + g) ((List.range 64).foldl (fun n i => n + target i) 0) }

def XArray.verifyAll (A : XArray) (img : List Nat) (g0 : Nat) (gs cs : List Nat) : XArray :=
  cs.foldl (fun A c => gs.foldl (fun A g => A.verify img g0 c g) A) A

/-- A reference measurement with means `m` (09 R262): the drift monitor, and the lapse of a current certificate. -/
def driftOf (b m : List Nat) : Nat :=
  (List.range 4).foldl (fun d k => max d (((m.getD k 0 : Int) - (b.getD k 0 : Int)).natAbs)) 0
def XArray.measure (A : XArray) (m : List Nat) : XArray :=
  match A.base with
  | none => { A with meas := m }
  | some b =>
    let d := driftOf b m
    let A := { A with meas := m, drift := d, peak := max A.peak d }
    if A.cert.d < d then A.lapse 1 else A

/-- The means of a measurement are the physical columns' (log entry 7). -/
def takeMeans (s : State) : List Nat × State :=
  let (n, s) := takeFree s
  ((List.range 4).map fun k => n / 256 ^ k % 256, s)

/-- What a calibration word checks after its wait (09 R254): the cause and TVAL detail of the first failure, or
a held read of the code image. -/
inductive CalFail where
  | cause (c detail : Nat)
  | held (x : Xl)

/-- Scratchpad granules that a word reads, and rows of the code image, as bytes (09 R254 checks 3 and 4). -/
structure CalRead where
  off : Nat
  len : Nat
  row : Nat
  rows : Nat

def CalRead.none : CalRead := ⟨0, 0, 0, 0⟩

/-- Checks 3 and 4 with what they read. -/
def State.calRead (s : State) (t a : Nat) (r : CalRead) : Except CalFail (List Nat) × State :=
  let base := spBase t + r.off
  let spP := (List.range (r.len / 64)).any fun i => s.poisAt (base + 64 * i)
  if r.rows = 0 then (if spP then .error (.cause 0x31 0) else .ok (s.bytes base r.len), s)
  else
    match s.xbrRead t (((s.calSeen t).array t a).image.getD 0 + 256 * r.row) (256 * r.rows) with
    | (.error (.held i va), s) => (.error (.held (.held i va)), s)
    | (.error (.fault c _), s) => (.error (.cause c 0), s)
    | (.error x, s) => (.error (.held x), s)
    | (.ok (bs, ps), s) => (if ps.any id then .error (.cause 0x31 0) else .ok bs, s)

/-- The arrays of a word are idle, awaited by no earlier command and free of pending audits (09 R251). -/
def calBusy (a n : Nat) (s : State) (t : Nat) : Bool :=
  !arraysIdle a n s t || (s.tile t).xcmds.any fun kc => kc.2.audits.any fun b => decide (a ≤ b) && decide (b < a + n)

def calTval (a detail : Nat) : Word := w64 (a * 65536 + detail)

/-- The issue of a calibration word (09 R250 to R254): checks 1 and 2 are `own` over the arrays, then the reads;
`eff` is the word's effect with the bytes read. -/
def calIssue (h : Hdr) (a n : Nat) (priv : Bool) (own : Tile → Option (Nat × Nat)) (own2 : List Nat → Tile → Option (Nat × Nat))
    (rd : CalRead) (onFail : Nat → Nat → State → State) (eff : Nat → Nat → List Nat → State → State) (s : State) : Out :=
  let first (T : Tile) : Option (Nat × Nat) :=
    match (if priv then foreignIn T a n else none) with
    | some _ => some (0x43, 0)
    | none => own T
  let hold (_ : Bool) (s : State) (t : Nat) : Option State :=
    if (first ((s.calSeen t).tile t)).isSome then none
    else match s.calRead t a rd with
      | (.error (.held (.held i va)), s) => some (s.holdAccess (tileCol t) (.xbar t 0) (s.tile t).ctx va 0 (originOf t 4) i)
      | _ => none
  engIssue h s ⟨fun s t => calBusy a n s t, hold⟩ fun t sig s' =>
    match first ((s.calSeen t).tile t) with
    | some (cause, detail) => (onFail t cause s').execFault t 4 cause (calTval a detail) sig
    | none =>
      match own2 (s.bytes (spBase t + rd.off) rd.len) ((s.calSeen t).tile t) with
      | some (cause, detail) => s'.execFault t 4 cause (calTval a detail) sig
      | none =>
        match s'.calRead t a rd with
        | (.ok bs, s') => eff t sig bs s'
        | (.error (.cause c d), s') => s'.execFault t 4 c (calTval a d) sig
        | (.error (.held _), s') => s'

def noOwn2 : List Nat → Tile → Option (Nat × Nat) := fun _ _ => none
def noMark : Nat → Nat → State → State := fun _ _ s => s

/-- A word with array time: it waits for its start. -/
def calWork (h : Hdr) (op a : Nat) (vs : List Nat) (priv : Bool) (own : Tile → Option (Nat × Nat))
    (own2 : List Nat → Tile → Option (Nat × Nat)) (rd : CalRead) (s : State) : Out :=
  calIssue h a 1 priv own own2 rd noMark (fun t sig bs s' =>
    let w : CalW := {
      op := op, vs := vs, array := a, from' := (s.tile t).clk + 2, started := none, cc := 0, row := 0, pulses := 0, col := none,
      misses := [], remaps := 0, img := bs, fit := false, sig := sig, grp := ((s'.tile t).engine 4).group }
    let s' := { s' with nextId := s'.nextId + 1 }
    s'.updTile t fun T => { T with xcal := FM.set T.xcal s.nextId w }) s

/-- A word without array time: it takes effect and signals at issue + `l` (09 R252). -/
def calQuick (h : Hdr) (op a n l : Nat) (vs : List Nat) (priv : Bool) (own : Tile → Option (Nat × Nat))
    (own2 : List Nat → Tile → Option (Nat × Nat)) (rd : CalRead) (onFail : Nat → Nat → State → State) (s : State) : Out :=
  calIssue h a n priv own own2 rd onFail (fun t sig bs s' =>
    (s'.flyTile t l (.calEffect t op (vs ++ bs))).signalIn t 4 0 sig l none) s

def ownNone : Tile → Option (Nat × Nat) := fun _ => none
/-- The array has a code image (09 R256). -/
def ownImage (a : Nat) (T : Tile) : Option (Nat × Nat) := if (T.array a).image.isSome then none else some (0x4B, 0)
/-- The first column and group below the depth that is not verified. -/
def unverified (A : XArray) : Option (Nat × Nat) :=
  ((List.range 512).flatMap fun c => (List.range (depthRows A.depth / 64)).map fun g => (c, g)).find? fun p => !A.isVerified p.1 p.2

/-- XPROG (09 R257). -/
def execXprogSet (h : Hdr) (a g amp sel : Nat) (s : State) : Out :=
  calWork h 0xB a [0, g, amp] true ownNone noOwn2 ⟨4096 * sel, 16384, 0, 0⟩ s
def execXprogRst (h : Hdr) (a g amp sel : Nat) (s : State) : Out :=
  calWork h 0xB a [1, g, amp] true ownNone noOwn2 ⟨4096 * sel, 16384, 0, 0⟩ s

/-- XVFY and XSTEEP (09 R258). -/
def execXvfy (h : Hdr) (a g ng rep : Nat) (s : State) : Out :=
  calWork h 0xC a [g, ng + 1, 0, 0, rep] true (ownImage a) noOwn2 ⟨0, 0, 64 * g, 64 * (ng + 1)⟩ s
def execXsteep (h : Hdr) (a g ng p rm rep : Nat) (s : State) : Out :=
  calWork h 0xD a [g, ng + 1, p + 1, rm, rep] true (ownImage a) noOwn2 ⟨0, 0, 64 * g, 64 * (ng + 1)⟩ s

/-- XREMAP (09 R261): with no spare free the array is marked uncertifiable though the word faults. -/
def execXremap (h : Hdr) (a col : Nat) (s : State) : Out :=
  calQuick h 0xE a 1 6 [a, col] true
    (fun T => if (T.array a).uncert then some (0x46, 0) else if (T.array a).freeSpare.isNone then some (0x45, 0) else none)
    noOwn2 .none (fun t cause s => if cause = 0x45 then s.updArray t a XArray.markUncert else s) s

/-- XREF (09 R263). -/
def execXrefMeas (h : Hdr) (a : Nat) (s : State) : Out :=
  calWork h 0xF a [0] true (fun T => if (T.array a).base.isNone then some (0x4E, 0) else none) noOwn2 .none s
def execXrefBase (h : Hdr) (a : Nat) (s : State) : Out := calWork h 0xF a [1] true ownNone noOwn2 .none s
def execXrefProg (h : Hdr) (a : Nat) (s : State) : Out := calWork h 0xF a [2] true ownNone noOwn2 .none s

/-- XDRIFT (09 R264). -/
def execXdrift (h : Hdr) (a n k clr : Nat) (s : State) : Out :=
  calQuick h 0x10 a (n + 1) 6 [a, n + 1, k, clr] true ownNone noOwn2 .none noMark s

/-- XCAL (09 R265). -/
def execXcal (h : Hdr) (a : Nat) (s : State) : Out :=
  calWork h 0x11 a [] true
    (fun T =>
      let A := T.array a
      if A.uncert then some (0x46, 0) else if A.image.isNone then some (0x4B, 0)
      else (unverified A).map fun p => (0x47, 8 * p.1 + p.2))
    noOwn2 ⟨0, 0, 0, depthRows (s.array s.curTile a).depth⟩ s

/-- XOFFW and XGAINW (09 R266): 16 granules are read. -/
def execXoffw (h : Hdr) (a src : Nat) (s : State) : Out :=
  calQuick h 0x12 a 1 21 [a] true ownNone
    (fun bs _ => if (List.range 512).any fun c => decide ((ity 3).read (half bs c) < -2048) || decide (2047 < (ity 3).read (half bs c))
      then some (0x09, 0) else none)
    ⟨1024 * src, 1024, 0, 0⟩ noMark s
def execXgainw (h : Hdr) (a src : Nat) (s : State) : Out :=
  calQuick h 0x13 a 1 21 [a] true ownNone noOwn2 ⟨1024 * src, 1024, 0, 0⟩ noMark s

/-- XCERT (09 R269): conditions 1 to 5; the sixth follows its measurement. -/
def execXcert (h : Hdr) (a dth lk ebank : Nat) (s : State) : Out :=
  calWork h 0x14 a [dth, lk, ebank] true
    (fun T =>
      let A := T.array a
      if A.uncert then some (0x46, 0)
      else match unverified A with
        | some p => some (0x47, 8 * p.1 + p.2)
        | none =>
          if !(A.calValid && A.calDepth == A.depth && A.calQexp == A.qexp && A.calEnc == A.enc) then some (0x48, 0)
          else if A.base.isNone then some (0x4E, 0)
          else if ebank < A.calres then some (0x49, 0) else none)
    noOwn2 .none s

/-- The digest of the code sums, the V bitmap, the remap table and tables of a record (09 R270). -/
def XArray.csrDigest (A : XArray) : List Nat := (sha384 ((List.range 4096).flatMap fun i => natLe 2 (FM.get 0 A.csr i))).take 32
def XArray.vBytes (A : XArray) : List Nat :=
  (List.range 512).map fun c => (List.range 8).foldl (fun b g => b + bit (A.isVerified c g) g) 0
def XArray.remapBytes (A : XArray) : List Nat := (List.range 12).flatMap fun e => natLe 2 (FM.get 0 A.remap e)
def cut (bs : List Nat) (o n : Nat) : List Nat := (bs.drop o).take n

/-- The sealed certificate record (09 R270). -/
def XArray.sealed (A : XArray) (a site : Nat) : List Nat :=
  let c := A.cert
  let b := A.base.getD [0, 0, 0, 0]
  let body := [a, site, c.cstate, c.lapse] ++ natLe 4 c.ebank ++ [c.d, c.lk, c.depth, c.qexp, c.enc, c.remaps, 0, 0] ++
    natLe 8 c.ops ++ natLe 8 c.left ++ natLe 4 A.calres ++ [bit A.calValid 0, A.calDepth, A.calQexp, A.calEnc] ++ b.take 4 ++
    A.meas.take 4 ++ [A.drift, A.peak, bit A.base.isSome 0] ++ List.replicate 13 0 ++ A.remapBytes ++ List.replicate 8 0 ++
    A.csrDigest ++ A.vBytes ++ List.replicate 384 0 ++
    ((List.range 512).flatMap fun i => natLe 2 (BitVec.ofInt 16 (FM.get 0 A.xoff i)).toNat) ++
    ((List.range 512).flatMap fun i => natLe 2 (FM.get 0x8000 A.xgain i)) ++ List.replicate 976 0
  body ++ hmacSha384 (natBe 32 Config.sealKey) body

/-- XCRD (09 R270): the record is that of the array after the words before it in the ring (R251), and is written
at issue + 69. -/
def execXcrd (h : Hdr) (a dst : Nat) (s : State) : Out :=
  let t := s.curTile
  calQuick h 0x15 a 1 69 (a :: dst :: ((s.calSeen t).array t a).sealed a (s.tile t).site) false ownNone noOwn2 .none noMark s

/-- The record matches the array as it stands (09 R270). -/
def XArray.accepts (A : XArray) (a site : Nat) (bs : List Nat) : Bool :=
  cut bs 0 2 == [a, site] && cut bs 64 24 == A.remapBytes && cut bs 128 512 == A.vBytes && cut bs 96 32 == A.csrDigest &&
    cut bs 4048 48 == hmacSha384 (natBe 32 Config.sealKey) (cut bs 0 4048)

def execXcld (h : Hdr) (a src : Nat) (s : State) : Out :=
  calWork h 0x16 a [] true (fun T => if (T.array a).uncert then some (0x46, 0) else none)
    (fun bs T => if (T.array a).accepts a T.site bs then none else some (0x4C, 0)) ⟨4096 * src, 4096, 0, 0⟩ s

/-- XFALL and XAUDIT (09 R271, R272). -/
def execXfallOff (h : Hdr) (a n setptr ptr : Nat) (s : State) : Out :=
  calQuick h 0x17 a (n + 1) 6 [a, n + 1, 0, setptr, ptr] true ownNone noOwn2 .none noMark s
def execXfallMan (h : Hdr) (a n setptr ptr : Nat) (s : State) : Out :=
  calQuick h 0x17 a (n + 1) 6 [a, n + 1, 1, setptr, ptr] true ownNone noOwn2 .none noMark s
def execXfallAuto (h : Hdr) (a n setptr ptr : Nat) (s : State) : Out :=
  calQuick h 0x17 a (n + 1) 6 [a, n + 1, 2, setptr, ptr] true ownNone noOwn2 .none noMark s
def execXaudit (h : Hdr) (a n rate setptr ptr : Nat) (s : State) : Out :=
  calQuick h 0x18 a (n + 1) 6 [a, n + 1, rate, setptr, ptr] true
    (fun T => if rate ≠ 0 ∧ setptr = 0 ∧ (List.range (n + 1)).any (fun i => (T.array (a + i)).image.isNone) then some (0x4B, 0)
      else none)
    noOwn2 .none noMark s

/-- XRD (09 R273). -/
def execXrd (h : Hdr) (a g ng phys dst : Nat) (s : State) : Out :=
  calWork h 0x19 a [g, ng + 1, phys, dst] true ownNone noOwn2 .none s

/-- XERASE (09 R274): an array private to another live context is refused, an orphaned one accepted. -/
def eraseOwn (a : Nat) (T : Tile) : Option (Nat × Nat) :=
  let A := T.array a
  if A.priv && !A.orphan && A.owner != T.ctx then some (0x43, 0) else none
def execXerase (h : Hdr) (a : Nat) (s : State) : Out := calWork h 0x1A a [0] false (eraseOwn a) noOwn2 .none s
def execXeraseRt (h : Hdr) (a : Nat) (s : State) : Out := calWork h 0x1A a [1] false (eraseOwn a) noOwn2 .none s

/-- Effects of the words without array time (09 R252). -/
def State.calQuickEffect (s : State) (t op : Nat) (vs : List Nat) : State :=
  if op = 0x15 then s.put (spBase t + 4096 * vs.getD 1 0) (vs.drop 2) false
  else s.tableEffect t op vs

def State.setCal (s : State) (t k : Nat) (w : CalW) : State := s.updTile t fun T => { T with xcal := FM.set T.xcal k w }
def State.dropCal (s : State) (t k : Nat) : State := s.updTile t fun T => { T with xcal := FM.del T.xcal k }

/-- The cells that the present row of a steeping word works on, with their targets (09 R258, R263). -/
def CalW.cells (w : CalW) (A : XArray) : List (Nat × Nat) :=
  let g0 := w.vs.getD 0 0
  if w.op = 0xF then (List.range 4).map fun k => (528 * w.row + 524 + k, 5 * k)
  else match w.col with
    | some c => [(528 * w.row + A.phys c, imageCode w.img w.row c)]
    | none => (List.range 512).map fun c => (528 * (64 * g0 + w.row) + A.phys c, imageCode w.img w.row c)
def CalW.budget (w : CalW) : Nat := if w.op = 0xF then 32 else w.vs.getD 2 0

/-- Rows of the present phase; 0 where the word is not at its rows. -/
def CalW.rowsOf (w : CalW) : Nat :=
  match w.op with
  | 0xB => 64
  | 0xC => 64 * w.vs.getD 1 0
  | 0xD => if w.col.isSome then 512 else 64 * w.vs.getD 1 0
  | 0xF => if w.vs.getD 0 0 = 2 then 512 else 0
  | 0x19 => 64 * w.vs.getD 1 0
  | 0x1A => 512
  | _ => 0

/-- The pulses of the row that begins, and its converter clocks (09 R252): how many pulses a row takes is
physical (log entry 7). -/
def State.rowTime (s : State) (w : CalW) (A : XArray) : Nat × Nat × State :=
  if w.rowsOf ≤ w.row then (0, (if w.op = 0x11 then 2048 else 1000), s)
  else match w.op with
    | 0xB => (0, 50, s)
    | 0xC => (0, 8, s)
    | 0x19 => (0, 8, s)
    | 0x1A => let (n, s) := takeIn 0 8 s; (n, 8 + 58 * n, s)
    | _ =>
      if (w.cells A).all fun p => FM.get 0 A.cells p.1 == p.2 then (0, 8, s)
      else let (n, s) := takeIn 1 w.budget s; (n, 8 + 58 * n, s)

/-- Array time starts, or goes on after a hold, in a frame tc (09 R252, R253). XPROG and XSTEEP lapse the
certificate here. -/
def State.calStart (s : State) (t k : Nat) (w : CalW) : State :=
  let s := if w.op = 0xB ∨ w.op = 0xD then s.updArray t w.array XArray.reprogram else s
  let (n, cc, s) := s.rowTime w (s.array t w.array)
  s.setCal t k { w with started := some s.tc, cc := cc, pulses := n }

def execArrayWorkStart (t k : Nat) (s : State) : Out :=
  match FM.find? (s.tile t).xcmds k with
  | some c => finish (s.xcmdStart t k c)
  | none =>
    match FM.find? (s.tile t).xcal k with
    | some w => finish (s.calStart t k w)
    | none => finish s

/-- What a row's array time does to the array (09 R257, R258, R263, R274). How far pulses move a cell is physical. -/
def State.rowEffect (s : State) (t : Nat) (w : CalW) : State :=
  let A := s.array t w.array
  let put (cs : List (Nat × Nat)) (s : State) : State :=
    s.updArray t w.array fun A => { A with cells := cs.foldl (fun m p => FM.set m p.1 p.2) A.cells }
  match w.op with
  | 0xB =>
    let g := w.vs.getD 1 0
    let (n, s) := takeFree s
    let sel := (List.range 512).filter fun c => imageCode w.img w.row c != 0
    let s := put (sel.map fun c =>
      let key := 528 * (64 * g + w.row) + A.phys c
      let x := FM.get 0 A.cells key
      let d := n / 16 ^ c % 16
      (key, if w.vs.getD 0 0 = 0 then min 15 (x + d) else x - d)) s
    s.updArray t w.array fun A => { A with verified := A.verified.filter fun v => !(v % 8 == g && sel.contains (v / 8)) }
  | 0xC => s
  | 0x19 =>
    let r := 64 * w.vs.getD 0 0 + w.row
    let pair (f : Nat → Nat) (n : Nat) : List Nat := (List.range n).map fun i => f (2 * i) + 16 * f (2 * i + 1)
    let base := spBase t + 4096 * w.vs.getD 3 0
    if w.vs.getD 2 0 = 1 then s.put (base + 512 * w.row) (pair (A.cell r) 264 ++ List.replicate 248 0) false
    else s.put (base + 256 * w.row) (pair (A.held r) 256) false
  | 0x1A =>
    let (n, s) := takeFree s
    let may := ((List.range 512).filter fun c => !A.isVerified c (w.row / 64)).map A.phys
    put ((List.range 528).map fun p =>
      let x := A.cell w.row p
      (528 * w.row + p, if may.contains p then min x (n / 16 ^ p % 16) else 0)) s
  | _ =>
    let (n, s) := takeFree s
    let cs := (List.zip (List.range 512) (w.cells A)).filter fun p => FM.get 0 A.cells p.2.1 != p.2.2
    put (cs.map fun p => (p.2.1, if w.pulses < w.budget then p.2.2 else n / 16 ^ p.1 % 16)) s

/-- Cells of the first pass that do not match after their row. -/
def CalW.countMisses (w : CalW) (A : XArray) : CalW :=
  if w.col.isSome then w
  else
    let cs := List.zip (List.range 512) (({ w with op := 0xD }).cells A)
    { w with misses := cs.foldl (fun m p =>
        if FM.get 0 A.cells p.2.1 = p.2.2 then m else FM.set m p.1 (FM.get 0 m p.1 + 1)) w.misses }

/-- The report of XVFY and XSTEEP (09 R259). -/
def State.calReport (s : State) (t : Nat) (w : CalW) : State :=
  let A := s.array t w.array
  let g := w.vs.getD 0 0
  let bad := ((List.range 512).filter fun c => (List.range (w.vs.getD 1 0)).any fun i => !A.isVerified c (g + i)).length
  let tab := if w.op = 0xD then A.remapBytes else List.replicate 24 0
  s.put (spBase t + 1024 * w.vs.getD 4 0)
    (((List.range 512).map fun c => min 255 (FM.get 0 w.misses c)) ++ tab ++ natLe 2 bad ++ [w.remaps] ++ List.replicate 485 0) false

/-- The word is complete: its signal is sent. -/
def State.calEnd (s : State) (t k : Nat) (w : CalW) : State := (s.dropCal t k).signalNow t 4 0 w.sig none
def State.calFault (s : State) (t k : Nat) (w : CalW) (cause : Nat) : State :=
  (s.dropCal t k).xbrFault t cause (calTval w.array 0) w.sig w.grp

/-- The next unit of array time follows at once, unless the column's stall wire holds the word (09 R253). -/
def State.calNext (s : State) (t k : Nat) (w : CalW) : State :=
  if (s.col (tileCol t)).holders ≠ [] then s.setCal t k { w with started := none, from' := 0, cc := 0 }
  else
    let (n, cc, s) := s.rowTime w (s.array t w.array)
    s.setCal t k { w with cc := w.cc + cc, pulses := n }

/-- The remap step of XSTEEP.RM (09 R258): the lowest column with V = 0 takes a spare, which is then steeped. -/
def State.remapStep (s : State) (t k : Nat) (w : CalW) : State :=
  let A := s.array t w.array
  match (List.range 512).find? fun c => (List.range 8).any fun g => !A.isVerified c g with
  | none => (s.calReport t w).calEnd t k w
  | some c =>
    match A.remapCol c with
    | none => ((s.calReport t w).updArray t w.array XArray.markUncert).calFault t k w 0x45
    | some A' =>
      let s := s.updArray t w.array fun _ => A'
      s.calNext t k { w with col := some c, row := 0, remaps := w.remaps + 1 }

/-- XERASE's final settings (09 R274). -/
def XArray.erase (A : XArray) (rt : Bool) : XArray :=
  { A with
    target := [], verified := [], csr := [], xoff := [], xgain := [], calValid := false, base := none, policy := 0, shadowPtr := none, image := none
    arate := 0, acount := 0, k := 0, priv := false, orphan := false, owner := 0
    cert := if A.uncert && !rt then A.cert else { Cert.none with serial := A.cert.serial }
    remap := if rt then [] else A.remap }

/-- The input of calibration vector `v` at row `i` (09 R265), as a byte. -/
def calInput (v i : Nat) : Nat := ((i * (2 * v + 1) + 37 * v) % 256 + 128) % 256

/-- The rounding of an exact rational whose denominator may be negative. -/
def rneRat (n d : Int) : Int := if d < 0 then rneDiv (-n) d.natAbs else rneDiv n d.natAbs

/-- Offset and gain from pairs of delivered and ideal codes (09 R265). -/
def calFit (o : List (Int × Int)) : Int × Nat :=
  let n : Int := o.length
  let sd := sumMap (fun p => p.1) o
  let si := sumMap (fun p => p.2) o
  let sdd := n * sumMap (fun p => p.1 * p.1) o - sd * sd
  let sdi := n * sumMap (fun p => p.1 * p.2) o - sd * si
  let clampOff (x : Int) : Int := min (max x (-2048)) 2047
  if n = 0 then (0, 0x8000)
  else if sdd ≤ 0 then (clampOff (rneRat (sd - si) n), 0x8000)
  else
    let g := min (max (rneRat (2 ^ 15 * sdi) sdd) 0) 0xFFFF
    (if g = 0 then 0 else clampOff (rneRat (sd * g - si * 2 ^ 15) (n * g)), g.toNat)

/-- The fit of XCAL (09 R265): the codes that the calibration vectors deliver are free (log entry 7). -/
def XArray.calibrate (A : XArray) (n : Nat) : XArray :=
  let B := { A with rgmask := 255 }
  let xs := (List.range 32).map fun v => (List.range 512).map fun i => calInput v i
  let d (v c k : Nat) : Nat := n / 256 ^ (4096 * v + 8 * c + k) % 256
  let ic (v c k : Nat) : Nat := min 255 (planeFloor B.rows B.qexp B.code (xs.getD v []) c k)
  let fits := (List.range 512).map fun c =>
    calFit (((List.range 32).flatMap fun v => (List.range 8).map fun k => ((d v c k : Int), (ic v c k : Int))).filter
      fun p => decide (p.1 < 255) && decide (p.2 < 255))
  let B := { B with
    xoff := (List.zip (List.range 512) fits).map fun (p : Nat × Int × Nat) => (p.1, p.2.1)
    xgain := (List.zip (List.range 512) fits).map fun (p : Nat × Int × Nat) => (p.1, p.2.2) }
  let res := (List.range 32).foldl (fun m v => (List.range (xwidth B.enc)).foldl (fun m j =>
    max m (B.delivered (xs.getD v []) (fun c k => d v c k) j - B.ideal (xs.getD v []) j).natAbs) m) 0
  { A.lapse 3 with
    xoff := B.xoff, xgain := B.xgain, calValid := true, calres := res, calDepth := A.depth, calQexp := A.qexp, calEnc := A.enc }

/-- The array with the fields of an accepted record (09 R270). -/
def XArray.load (A : XArray) (bs : List Nat) : XArray :=
  let f (o n : Nat) : Nat := leNat (cut bs o n)
  { A with
    cert := ⟨f 2 1, f 3 1, f 4 4, f 8 1, f 9 1, f 10 1, f 11 1, f 12 1, f 13 1, f 16 8, f 24 8, A.cert.serial + 1⟩
    calres := f 32 4, calValid := f 36 1 != 0, calDepth := f 37 1, calQexp := f 38 1, calEnc := f 39 1
    base := if f 50 1 = 0 then none else some (cut bs 40 4)
    meas := cut bs 44 4, drift := f 48 1, peak := f 49 1
    xoff := (List.range 512).map fun c => (c, (ity 3).read (half (bs.drop 1024) c))
    xgain := (List.range 512).map fun c => (c, half (bs.drop 2048) c) }

/-- The end of a measurement or of XCAL's array time, and of words after their rows. -/
def State.calFinal (s : State) (t k : Nat) (w : CalW) : State :=
  let a := w.array
  match w.op with
  | 0xB => s.calEnd t k w
  | 0x19 => s.calEnd t k w
  | 0x1A => (s.updArray t a fun A => A.erase (w.vs.getD 0 0 == 1)).calEnd t k w
  | 0xC =>
    let g := w.vs.getD 0 0
    let s := s.updArray t a fun A => A.verifyAll w.img g ((List.range (w.vs.getD 1 0)).map fun i => g + i) (List.range 512)
    (s.calReport t w).calEnd t k w
  | 0xD =>
    let g := w.vs.getD 0 0
    let gs := (List.range (w.vs.getD 1 0)).map fun i => g + i
    let s := s.updArray t a fun A => A.verifyAll w.img g gs (match w.col with
      | some c => [c]
      | none => List.range 512)
    if w.vs.getD 3 0 = 1 then s.remapStep t k w else (s.calReport t w).calEnd t k w
  | 0xF =>
    let (m, s) := takeMeans s
    match w.vs.getD 0 0 with
    | 0 => (s.updArray t a fun A => A.measure m).calEnd t k w
    | mode =>
      (s.updArray t a fun A =>
        { (if mode = 2 then A.lapse 3 else A) with base := some m, meas := m, drift := 0, peak := 0 }).calEnd t k w
  | 0x11 => s.setCal t k { w with fit := true }
  | 0x14 =>
    let (m, s) := takeMeans s
    let s := s.updArray t a fun A => A.measure m
    let A := s.array t a
    if w.vs.getD 0 0 < A.drift then s.calFault t k w 0x4A
    else
      let n := ((List.range 12).filter fun e => decide (2 ^ 15 ≤ FM.get 0 A.remap e)).length
      let lk := w.vs.getD 1 0
      (s.updArray t a fun A => { A with
        cert := ⟨1, 0, w.vs.getD 2 0, w.vs.getD 0 0, lk, A.depth, A.qexp, A.enc, n, 0, 2 ^ lk, A.cert.serial + 1⟩ }).calEnd t k w
  | 0x16 =>
    let (m, s) := takeMeans s
    (s.updArray t a fun A => (A.load w.img).measure m).calEnd t k w
  | _ =>
    let (m, s) := takeMeans s
    (s.updArray t a fun A => A.measure m).dropCal t k

/-- A unit of array time ends: a row, or the word's measurement, or XCAL's fit, which runs in matrix step slots
and has no fixed latency (09 R252, R253). -/
def State.calUnitEnds (s : State) (t k : Nat) : State :=
  match FM.find? (s.tile t).xcal k with
  | none => s
  | some w =>
    if w.fit then
      let (m, s) := takeFree s
      (s.updArray t w.array fun A => A.calibrate m).calEnd t k w
    else if w.row < w.rowsOf then
      let s := s.rowEffect t w
      let w := if w.op = 0xC ∨ w.op = 0xD then w.countMisses (s.array t w.array) else w
      let stuck := w.op = 0xF && (w.cells (s.array t w.array)).any fun p => FM.get 0 (s.array t w.array).cells p.1 != p.2
      let w' := { w with row := w.row + 1, remaps := if stuck then 1 else w.remaps }
      if w'.row < w'.rowsOf then s.calNext t k w'
      else if w.op = 0xF then
        if w'.remaps = 1 then
          (s.updArray t w.array fun A => { A.markUncert with base := none }).calFault t k w 0x4F
        else s.calNext t k w'
      else (s.setCal t k w').calFinal t k w'
    else s.calFinal t k w

def execCalibrationWordComplete (t k : Nat) (s : State) : Out := finish (s.calUnitEnds t k)

/-- A word at a pre-emption stop (09 R253): it starts again, words that go row by row at the row after the last
completed. -/
def CalW.abandon (w : CalW) : CalW :=
  if calAuto ≤ w.op then w
  else
    let byRow := w.op = 0xB || w.op = 0xC || w.op = 0xD || w.op = 0x19 || w.op = 0x1A
    { w with started := none, from' := 0, cc := 0, fit := false, row := if byRow then w.row else 0, remaps := if byRow then w.remaps else 0 }

/-- An automatic reference measurement starts when it is due, or is skipped without a baseline; when its time
has passed it ends (09 R262, R264). -/
def execAutomaticMeasurement (t a : Nat) (s : State) : Out :=
  match List.find? (fun (kw : Nat × CalW) => kw.2.op == calAuto && kw.2.array == a) (s.tile t).xcal with
  | some (k, w) => finish (s.calFinal t k w)
  | none =>
    let A := s.array t a
    let s := s.updArray t a fun A => { A with nextMeas := A.nextMeas + 2 ^ (A.k + 15) }
    if A.base.isNone then finish s
    else
      let w : CalW := {
        op := calAuto, vs := [], array := a, from' := 0, started := some s.tc, cc := 1000, row := 0, pulses := 0, col := none,
        misses := [], remaps := 0, img := [], fit := false, sig := 0, grp := [] }
      let k := s.nextId
      finish ({ s with nextId := k + 1 }.setCal t k w)

end Sys2Proof.Machine
end

