-- ==== Sys2Proof/Machine/Nmu.lean ====
section
/-! DEFINITION. Sys2Proof/Machine/Nmu.lean: the near-memory units (10 R287 to R293): the instructions of a run, the checks of a
program, and the fixed transforms of CPYX. -/

namespace Sys2Proof.Machine

def State.nmu (s : State) (ch : Nat) : Nmu := FM.get Nmu.idle s.nmus ch
def State.setNmu (s : State) (ch : Nat) (v : Nmu) : State := { s with nmus := FM.set s.nmus ch v }
def State.nmuCh (s : State) : Nat :=
  match s.cur with
  | .nmu ch => ch
  | _ => 0

def NmuRun.reg (r : NmuRun) (k : Nat) : Line × Bool := FM.get (0, false) r.regs k
def NmuRun.setReg (r : NmuRun) (k : Nat) (v : Line × Bool) : NmuRun := { r with regs := FM.set r.regs k v }

/-- The position after the instruction at `pc`, at the ends of loop bodies back to their starts (10 R291). -/
def NmuRun.advance (r : NmuRun) : NmuRun :=
  let outer (r : NmuRun) : NmuRun :=
    match r.loop1 with
    | some (f, l, n) =>
      if l = r.pc then (if 1 < n then { r with pc := f, loop1 := some (f, l, n - 1) } else { r with pc := r.pc + 1, loop1 := none })
      else { r with pc := r.pc + 1 }
    | none => { r with pc := r.pc + 1 }
  match r.loop2 with
  | some (f, l, n) =>
    if l = r.pc then (if 1 < n then { r with pc := f, loop2 := some (f, l, n - 1) } else outer { r with loop2 := none })
    else outer r
  | none => outer r

/-- An instruction of the run of the present channel. -/
def nmuRaw (s : State) (f : NmuRun → NmuRun) : Out :=
  let N := s.nmu s.nmuCh
  match N.run with
  | none => finish s
  | some r => finish (s.setNmu s.nmuCh { N with run := some (f r) })
def nmuWord (s : State) (f : NmuRun → NmuRun) : Out := nmuRaw s fun r => (f r).advance

/-- Types of 10 R287 as those of 02 R37. -/
def nty (t : Nat) : Nat := [6, 7, 9, 10, 0].getD t 0

/-- Elements of width `w` of a register, and a register of elements. -/
def lineElems (w : Nat) (v : Line) : List Nat := (List.range (512 / w)).map fun i => v.toNat / 2 ^ (w * i) % 2 ^ w
def lineOf (w : Nat) (xs : List Nat) : Line := BitVec.ofNat 512 (joinLanes w xs)

/-- A result computed element by element from the registers `rs`: its flags join the run's, its poison is theirs
(10 R290). -/
def nmuElems (s : State) (d : Nat) (rs : List Nat) (w : Nat) (f : List Nat → Nat × Nat) : Out :=
  nmuWord s fun r =>
    let xs := rs.map r.reg
    let es := xs.map fun x => lineElems w x.1
    let out := (List.range (512 / w)).map fun i => f (es.map fun e => e.getD i 0)
    { r.setReg d (lineOf w (out.map fun o => o.1), xs.any fun x => x.2) with flags := r.flags ||| joinFlags (out.map fun o => o.2) }

/-- A typed operation: on floating elements exact and rounded once, on I32 exact and fitted (10 R291). -/
def nmuTyped (s : State) (d : Nat) (rs : List Nat) (ty rnd sat : Nat) (f : List FV → FX) (g : List Int → Int) : Out :=
  let t := nty ty
  nmuElems s d rs (tyBits t) fun es =>
    if t = 0 then (ity 0).fit (sat == 1) (g (es.map (ity 0).read))
    else (ffmt t).fit rnd (sat == 1) (f (es.map (ffmt t).read))

def execNadd (d a b rnd sat ty : Nat) (s : State) : Out :=
  nmuTyped s d [a, b] ty rnd sat (fun x => fAdd rnd (fv x 0) (fv x 1)) fun x => iv x 0 + iv x 1
def execNsub (d a b rnd sat ty : Nat) (s : State) : Out :=
  nmuTyped s d [a, b] ty rnd sat (fun x => fAdd rnd (fv x 0) (fv x 1).neg) fun x => iv x 0 - iv x 1
def execNmul (d a b rnd sat ty : Nat) (s : State) : Out :=
  nmuTyped s d [a, b] ty rnd sat (fun x => fMul (fv x 0) (fv x 1)) fun x => iv x 0 * iv x 1
def execNfma (d a b rnd sat ty : Nat) (s : State) : Out :=
  nmuTyped s d [a, b, d] ty rnd sat (fun x => fFma rnd (fv x 0) (fv x 1) (fv x 2)) fun x => iv x 0 * iv x 1 + iv x 2
def execNmin (d a b rnd sat ty : Nat) (s : State) : Out :=
  nmuTyped s d [a, b] ty rnd sat (fun x => fMin (fv x 0) (fv x 1)) fun x => min (iv x 0) (iv x 1)
def execNmax (d a b rnd sat ty : Nat) (s : State) : Out :=
  nmuTyped s d [a, b] ty rnd sat (fun x => fMax (fv x 0) (fv x 1)) fun x => max (iv x 0) (iv x 1)
def execNabs (d a rnd sat ty : Nat) (s : State) : Out :=
  nmuTyped s d [a] ty rnd sat (fun x => ⟨(fv x 0).abs, 0⟩) fun x => (iv x 0).natAbs
def execNneg (d a rnd sat ty : Nat) (s : State) : Out :=
  nmuTyped s d [a] ty rnd sat (fun x => ⟨(fv x 0).neg, 0⟩) fun x => -(iv x 0)

/-- Comparisons give elements of all ones or zero (03 R79). -/
def nmuCmp (s : State) (d a b ty cond : Nat) : Out :=
  let t := nty ty
  nmuElems s d [a, b] (tyBits t) fun es =>
    let (r, fl) := if t = 0 then (iCmp cond ((ity 0).read (nv es 0)) ((ity 0).read (nv es 1)), 0)
      else fCmp cond ((ffmt t).read (nv es 0)) ((ffmt t).read (nv es 1))
    (if r then 2 ^ tyBits t - 1 else 0, fl)

def execNcmpeq (d a b _rnd _sat ty : Nat) (s : State) : Out := nmuCmp s d a b ty 0
def execNcmpne (d a b _rnd _sat ty : Nat) (s : State) : Out := nmuCmp s d a b ty 1
def execNcmplt (d a b _rnd _sat ty : Nat) (s : State) : Out := nmuCmp s d a b ty 2
def execNcmple (d a b _rnd _sat ty : Nat) (s : State) : Out := nmuCmp s d a b ty 3

/-- Bitwise operations on whole registers. -/
def nmuBits (s : State) (d : Nat) (rs : List Nat) (f : List Line → Line) : Out :=
  nmuWord s fun r =>
    let xs := rs.map r.reg
    r.setReg d (f (xs.map fun x => x.1), xs.any fun x => x.2)
def bv (xs : List Line) (k : Nat) : Line := xs.getD k 0

def execNsel (d a b m : Nat) (s : State) : Out :=
  nmuBits s d [m, a, b] fun x => (bv x 0 &&& bv x 1) ||| (~~~(bv x 0) &&& bv x 2)
def execNand (d a b : Nat) (s : State) : Out := nmuBits s d [a, b] fun x => bv x 0 &&& bv x 1
def execNor (d a b : Nat) (s : State) : Out := nmuBits s d [a, b] fun x => bv x 0 ||| bv x 1
def execNxor (d a b : Nat) (s : State) : Out := nmuBits s d [a, b] fun x => bv x 0 ^^^ bv x 1
def execNandn (d a b : Nat) (s : State) : Out := nmuBits s d [a, b] fun x => bv x 0 &&& ~~~(bv x 1)
def execNmov (d a : Nat) (s : State) : Out := nmuBits s d [a] fun x => bv x 0

def execNshl (d a n : Nat) (s : State) : Out := nmuElems s d [a] 32 fun x => (shlElem (ity 0) (nv x 0) n, 0)
def execNshr (d a n arith : Nat) (s : State) : Out := nmuElems s d [a] 32 fun x => (shrElem (ity 0) (arith == 1) (nv x 0) n, 0)

/-- NCVT (10 R291): every element of `a` to part `p` of `d`, or part `p` of `a` to all of `d`. -/
def execNcvt (d a p sfrom rnd sat sto : Nat) (s : State) : Out :=
  let f := nty sfrom
  let t := nty sto
  nmuWord s fun r =>
    let x := r.reg a
    let old := r.reg d
    let src := lineElems (tyBits f) x.1
    let n := 512 / max (tyBits f) (tyBits t)
    let cv := (List.range n).map fun i => convert f t rnd sat (nv src (if tyBits f < tyBits t then p * n + i else i))
    let fl := joinFlags (cv.map fun c => c.2)
    let vs := cv.map fun c => c.1
    let all := if tyBits t < tyBits f then
        (List.zip (List.range (512 / tyBits t)) (lineElems (tyBits t) old.1)).map fun iv =>
          if p * n ≤ iv.1 ∧ iv.1 < p * n + n then nv vs (iv.1 - p * n) else iv.2
      else vs
    { r.setReg d (lineOf (tyBits t) all, x.2 || (decide (tyBits t < tyBits f) && old.2)) with flags := r.flags ||| fl }

def execNbcst (d a n : Nat) (s : State) : Out :=
  nmuBits s d [a] fun x => lineOf 32 (List.replicate 16 (nv (lineElems 32 (bv x 0)) n))
def execNli (d imm : Nat) (s : State) : Out := nmuBits s d [] fun _ => lineOf 32 (List.replicate 16 imm)
def execNlih (d imm : Nat) (s : State) : Out :=
  nmuElems s d [d] 32 fun x => (nv x 0 % 2048 + imm % 2 ^ 21 * 2048, 0)

/-- The R89 tree over the elements of a register: BF16 in FP32 nodes, the 8-bit types rounded at each node to
the type. -/
def nmuReduce (t op rnd sat : Nat) (v : Line) : Nat × Nat :=
  let es := (lineElems (tyBits t) v).map some
  match t with
  | 0 => reduceI op sat 4 es
  | 6 => reduceF fp32 op rnd sat 4 (es.map fun e => e.map fp32.read)
  | 7 => reduceF bf16 op rnd sat 5 (es.map fun e => e.map bf16.read)
  | _ =>
    let g := ffmt t
    let r := tree (fun (x y : Nat) => g.fit rnd (sat == 1) (match op with
      | 0 => fAdd rnd (g.read x) (g.read y)
      | 1 => fMin (g.read x) (g.read y)
      | _ => fMax (g.read x) (g.read y))) 6 es
    (r.1.getD 0, r.2)

def nmuRed (s : State) (d a ty op rnd sat : Nat) : Out :=
  nmuWord s fun r =>
    let x := r.reg a
    let (v, fl) := nmuReduce (nty ty) op rnd sat x.1
    { r.setReg d (BitVec.ofNat 512 v, x.2) with flags := r.flags ||| fl }

def execNrsum (d a rnd sat ty : Nat) (s : State) : Out := nmuRed s d a ty 0 rnd sat
def execNrmin (d a rnd sat ty : Nat) (s : State) : Out := nmuRed s d a ty 1 rnd sat
def execNrmax (d a rnd sat ty : Nat) (s : State) : Out := nmuRed s d a ty 2 rnd sat

/-- NRAMAX writes lane 0; of the other lanes the spec says nothing, and they are free (log entry 17). -/
def execNramax (d a rnd sat ty : Nat) (s : State) : Out :=
  let (n, s) := takeFree s
  let t := nty ty
  nmuWord s fun r =>
    let x := r.reg a
    let es := lineElems (tyBits t) x.1
    let (v, fl) :=
      if t = 0 then (ity 0).fit (sat == 1) (es.foldl (fun (m : Int) e => max m (((ity 0).read e).natAbs : Int)) 0)
      else
        let g := ffmt t
        let rs := es.foldl (fun (m : FX) e => let y := fMax m.v (g.read e).abs; ⟨y.v, m.fl ||| y.fl ||| (if (g.read e).isSig then fNV else 0)⟩)
          ⟨.nan false, 0⟩
        g.fit rnd (sat == 1) rs
    { r.setReg d (BitVec.ofNat 512 (v + n % 2 ^ 480 * 2 ^ 32), x.2) with flags := r.flags ||| fl }

def execNrcp (d a rnd sat ty : Nat) (s : State) : Out :=
  nmuTyped s d [a] ty rnd sat (fun x => fRcp (fv x 0)) fun _ => 0
def execNclamp (d a b rnd sat ty : Nat) (s : State) : Out :=
  let t := nty ty
  nmuElems s d [d, a, b] (tyBits t) fun es =>
    if t = 0 then (ity 0).fit (sat == 1) (min (max ((ity 0).read (nv es 0)) ((ity 0).read (nv es 1))) ((ity 0).read (nv es 2)))
    else
      let g := ffmt t
      let m := fMax (g.read (nv es 0)) (g.read (nv es 1))
      let r := fMin m.v (g.read (nv es 2))
      g.fit rnd (sat == 1) ⟨r.v, r.fl ||| m.fl⟩
def execNscl (d a b rnd sat ty : Nat) (s : State) : Out :=
  let t := nty ty
  nmuWord s fun r =>
    let x := r.reg a
    let y := r.reg b
    let k := (ity 0).read (y.1.toNat % 2 ^ 32)
    let out := (lineElems (tyBits t) x.1).map fun e => (ffmt t).fit rnd (sat == 1) (fMul ((ffmt t).read e) (.fin false 1 k))
    { r.setReg d (lineOf (tyBits t) (out.map fun o => o.1), x.2 || y.2) with flags := r.flags ||| joinFlags (out.map fun o => o.2) }
def execNshuf (d a b : Nat) (s : State) : Out :=
  nmuBits s d [a, b] fun x => lineOf 8 ((lineElems 8 (bv x 1)).map fun i => nv (lineElems 8 (bv x 0)) (i % 64))

/-- Streams (10 R290): past a short unit's end the bytes read zero without poison. -/
def execNld (d st : Nat) (s : State) : Out :=
  nmuWord s fun r =>
    if st = 0 then { r.setReg d (r.src.getD r.inPos (0, false)) with inPos := r.inPos + 1 }
    else { r.setReg d (r.aux.getD r.auxPos (0, false)) with auxPos := r.auxPos + 1 }
def execNst (a sz : Nat) (s : State) : Out :=
  nmuWord s fun r =>
    let x := r.reg a
    { r with out := (r.out ++ ((bytesOfBv 64 x.1).take (64 / 2 ^ sz)).map fun b => (b, x.2)).take r.outLen }
def execNldp (d : Nat) (s : State) : Out := nmuWord s fun r => r.setReg d (r.param, false)
def execNskip (n : Nat) (s : State) : Out := nmuWord s fun r => { r with inPos := r.inPos + n }
def execNnop (s : State) : Out := nmuWord s id

/-- Loops: the body of `len + 1` instructions runs `cnt` times. -/
def execNloop1 (len cnt : Nat) (s : State) : Out :=
  nmuRaw s fun r =>
    if cnt = 0 then { r with pc := r.pc + len + 2 } else { r with pc := r.pc + 1, loop1 := some (r.pc + 1, r.pc + 1 + len, cnt) }
def execNloop2 (len cnt : Nat) (s : State) : Out :=
  nmuRaw s fun r =>
    if cnt = 0 then { r with pc := r.pc + len + 2 } else { r with pc := r.pc + 1, loop2 := some (r.pc + 1, r.pc + 1 + len, cnt) }
def execNend (s : State) : Out := nmuRaw s fun r => { r with ended := true }

/-- Fields of an instruction word (10 R291). -/
def nop (w : Nat) : Nat := w / 2 ^ 26 % 64
def nd (w : Nat) : Nat := w / 2 ^ 21 % 32
def na (w : Nat) : Nat := w / 2 ^ 16 % 32
def nb (w : Nat) : Nat := w / 2 ^ 11 % 32
def nc (w : Nat) : Nat := w % 2 ^ 11

/-- Registers that an opcode names as d, a, b, and its unnamed bits. -/
def nmuShape (op : Nat) : Bool × Bool × Bool × Nat :=
  if op ≤ 6 ∨ (9 ≤ op ∧ op ≤ 0xB) ∨ op = 0x23 ∨ op = 0x24 ∨ op = 0x26 then (true, true, true, 0x7C0)
  else if op = 7 ∨ op = 8 ∨ (0x17 ≤ op ∧ op ≤ 0x19) ∨ op = 0x22 ∨ op = 0x25 then (true, true, false, 0xFFC0)
  else match op with
    | 0xC => (true, true, true, 0x7E0)
    | 0x10 => (true, true, false, 0xFFE0)
    | 0x11 => (true, true, false, 0xFFC0)
    | 0x12 => (true, true, false, 0xC600)
    | 0x13 => (true, true, false, 0xFFF0)
    | 0x14 => (true, false, false, 0)
    | 0x15 => (true, false, false, 0)
    | 0x16 => (true, true, false, 0xFFFF)
    | 0x1A => (true, false, false, 0x1FFFFE)
    | 0x1B => (false, true, false, 0x3E0FFFC)
    | 0x1C => (true, false, false, 0x1FFFFF)
    | 0x1D => (false, false, false, 0x3FFFFC0)
    | 0x1E => (false, false, false, 0x1FF800)
    | 0x1F => (false, false, false, 0x1FF800)
    | 0x20 => (false, false, false, 0x3FFFFFF)
    | 0x21 => (false, false, false, 0x3FFFFFF)
    | _ => (true, true, true, 0x7FF)

/-- Checks 2, 3 and 4 of 10 R292 on one word. -/
def nmuOpOk (w : Nat) : Bool := decide (1 ≤ nop w) && decide (nop w ≤ 0x28)
def nmuRegsOk (w : Nat) : Bool :=
  let (d, a, b, _) := nmuShape (nop w)
  (!d || decide (nd w < 24)) && (!a || decide (na w < 24)) && (!b || decide (nb w < 24)) &&
    (nop w != 0xC || decide (w % 32 < 24))
def nmuLimitsOk (w : Nat) : Bool :=
  let op := nop w
  let t := w % 8
  let typed := op ≤ 0xB || (decide (0x17 ≤ op) && decide (op ≤ 0x19)) || op == 0x23 || op == 0x26 || op == 0x25
  let wid (k : Nat) : Nat := tyBits (nty k)
  (w &&& (nmuShape op).2.2.2) == 0 && (!typed || decide (t ≤ 4)) && (op != 0x22 || decide (t ≤ 1)) && (op != 0x24 || decide (t ≤ 3)) &&
    (op != 0x12 || (decide (t ≤ 4) && decide (w / 64 % 8 ≤ 4) &&
      decide (w / 2 ^ 11 % 8 * min (wid t) (wid (w / 64 % 8)) < max (wid t) (wid (w / 64 % 8))))) &&
    (op != 0x1B || w % 4 != 3) && (op != 0x1D || w % 64 != 0) && (op != 0x1E && op != 0x1F || nc w != 0)

/-- The loop instructions of a program whose body holds instruction `i`. -/
def loopsOver (p : List Nat) (i : Nat) : List Nat :=
  (List.range p.length).filter fun j =>
    let w := p.getD j 0
    (nop w == 0x1E || nop w == 0x1F) && decide (j < i) && decide (i ≤ j + 1 + nd w)

/-- Check 5: loop bodies before NEND, NLOOP2 inside one NLOOP1 body, no NLOOP1 inside a body. -/
def nmuLoopOk (p : List Nat) (i : Nat) : Bool :=
  let w := p.getD i 0
  let stop := ((List.range p.length).find? fun j => nop (p.getD j 0) == 0x20).getD p.length
  let around := loopsOver p i
  match nop w with
  | 0x1E => decide (i + 1 + nd w < stop) && around.isEmpty
  | 0x1F => decide (i + 1 + nd w < stop) &&
      ((around.filter fun j => nop (p.getD j 0) == 0x1E && decide (i + 1 + nd w ≤ j + 1 + nd (p.getD j 0))).length == 1)
  | _ => true

/-- Times that instruction `i` runs, and the bytes that a run reads and writes. -/
def nmuTimes (p : List Nat) (i : Nat) : Nat := (loopsOver p i).foldl (fun n j => n * nc (p.getD j 0)) 1
def nmuBytesIn (p : List Nat) : Nat :=
  (List.range p.length).foldl (fun n i =>
    let w := p.getD i 0
    n + (if nop w = 0x1A ∧ w % 2 = 0 then 64 * nmuTimes p i else if nop w = 0x1D then 64 * (w % 64) * nmuTimes p i else 0)) 0
def nmuBytesOut (p : List Nat) : Nat :=
  (List.range p.length).foldl (fun n i =>
    let w := p.getD i 0
    n + (if nop w = 0x1B then 64 / 2 ^ (w % 4) * nmuTimes p i else 0)) 0
def nmuUsesAux (p : List Nat) : Bool := p.any fun w => nop w == 0x1A && w % 2 == 1

/-- The first failing check of 10 R292: its reason and the index of the first failing instruction; `pois` gives
poisoned words. -/
def nmuCheck (n : Nat) (p : List Nat) (pois : List Bool) : Option (Nat × Nat) :=
  let firstBad (ok : Nat → Bool) : Option Nat := (List.range p.length).find? fun i => !ok i
  let stop := (List.range p.length).find? fun j => nop (p.getD j 0) == 0x20
  if n = 0 ∨ 96 < n then some (1, 0)
  else match firstBad fun i => nmuOpOk (p.getD i 0) with
  | some i => some (2, i)
  | none => match firstBad fun i => nmuRegsOk (p.getD i 0) with
  | some i => some (3, i)
  | none => match firstBad fun i => nmuLimitsOk (p.getD i 0) with
  | some i => some (4, i)
  | none => match firstBad fun i => nmuLoopOk p i with
  | some i => some (5, i)
  | none =>
    if stop ≠ some (n - 1) then some (6, stop.getD (n - 1))
    else if nmuBytesIn p ≠ 4096 ∨ !([1024, 2048, 4096, 8192, 16384].contains (nmuBytesOut p)) then some (7, 0)
    else ((List.range n).find? fun i => pois.getD i false).map fun i => (8, i)

/-- The fixed transforms of CPYX on one element (10 R288): `x` of the source, `d` of the destination. -/
structure Xform where
  xf : Nat
  ts : Nat
  td : Nat
  rnd : Nat
  sat : Nat
  rop : Nat
  sc : Nat
  ad : Nat

def Xform.elem (f : Xform) (x d : Nat) : Nat × Nat :=
  let t := nty f.ts
  let g := ffmt t
  let sat := f.sat == 1
  match f.xf with
  | 0 => g.fit f.rnd sat (fMul (g.read x) (fp32.read f.sc))
  | 1 => g.fit f.rnd sat (fAdd f.rnd (g.read x) (fp32.read f.ad))
  | 2 => convert t (nty f.td) f.rnd f.sat x
  | 3 =>
    let y := fp32.fit 0 false (fMul (g.read x) (fp32.read f.sc))
    let z := convert 6 (nty f.td) f.rnd f.sat y.1
    (z.1, y.2 ||| z.2)
  | _ =>
    if t = 0 then
      let a := (ity 0).read d
      let b := (ity 0).read x
      (ity 0).fit sat (match f.rop with | 0 => a + b | 1 => min a b | _ => max a b)
    else g.fit f.rnd sat (match f.rop with
      | 0 => fAdd f.rnd (g.read d) (g.read x)
      | 1 => fMin (g.read d) (g.read x)
      | _ => fMax (g.read d) (g.read x))

/-- Bytes of an element type. -/
def nmuWidth (t : Nat) : Nat := tyBits (nty t) / 8

/-- A fixed transform over bytes. -/
def Xform.run (f : Xform) (src dst : List Nat) : List Nat × Nat :=
  let ws := nmuWidth f.ts
  let wd := nmuWidth f.td
  let at' (bs : List Nat) (w i : Nat) : Nat := leNat (cut bs (w * i) w)
  let rs := (List.range (src.length / ws)).map fun i => f.elem (at' src ws i) (at' dst wd i)
  (rs.flatMap fun r => natLe wd r.1, joinFlags (rs.map fun r => r.2))

end Sys2Proof.Machine
end

