-- ==== Sys2Proof/Machine/Cpy.lean ====
section
/-! DEFINITION. Sys2Proof/Machine/Cpy.lean: the words of the copy engine as they issue, their units, completion records and the runs of
the near-memory units (10 R276 to R299). -/

namespace Sys2Proof.Machine

/-- A descriptor as its word reads it (10 R277): its offset, bytes, and the capabilities S, D, X, Y with their
tags. -/
structure CDesc where
  off : Nat
  img : List Nat
  caps : List CReg

def State.readDesc (s : State) (t desc : Nat) : CDesc :=
  let a := spBase t + 128 * desc
  ⟨128 * desc, s.bytes a 128, [0, 16, 64, 80].map fun o => ⟨BitVec.ofNat 128 (s.nat (a + o) 16), s.tagAt (a + o)⟩⟩

def CDesc.f (d : CDesc) (o n : Nat) : Nat := leNat (cut d.img o n)
def CDesc.cap (d : CDesc) (i : Nat) : CReg := d.caps.getD i CReg.zero
def CCmd.f (c : CCmd) (o n : Nat) : Nat := leNat (cut c.img o n)
def CCmd.cap (c : CCmd) (i : Nat) : CReg := c.caps.getD i CReg.zero
def signed64 (n : Nat) : Int := (w64 n).toInt

/-- Address of offset field `o` within capability `i`. -/
def CDesc.addr (d : CDesc) (i o : Nat) : Int := (capOff (d.cap i).v : Int) + d.f o 8
def CCmd.addr (c : CCmd) (i o : Nat) : Int := (capOff (c.cap i).v : Int) + c.f o 8

/-- A failure at issue: the cause, and TVAL where it is not the word. -/
abbrev CFail := Option (Nat × Option Nat)

def CDesc.bad (d : CDesc) : CFail := some (0x50, some d.off)
def wordBad : CFail := some (0x09, none)

/-- The bytes of the descriptor that a word does not use are zero (10 R277): `used` lists (offset, size). -/
def CDesc.unusedZero (d : CDesc) (used : List (Nat × Nat)) : Bool :=
  (List.range 128).all fun i => (used.any fun u => decide (u.1 ≤ i) && decide (i < u.1 + u.2)) || d.img.getD i 0 == 0

/-- Failures in order. -/
def firstOf : List CFail → CFail
  | [] => none
  | some x :: _ => some x
  | none :: xs => firstOf xs

/-- A range check of 10 R279 at issue, without its translation, which each unit makes (R282). -/
def State.cpyCheck (s : State) (t : Nat) (c : CReg) (spaces : List Nat) (perms align : Nat) (a : Int) (n : Nat) : CFail :=
  (s.checkCap t (s.engSup t) c ⟨spaces, false, perms, align⟩ a n).map fun x => (x.1, some x.2)

def anySpace : List Nat := [0, 1, 2, 3, 4]

/-- A stride that is no multiple of 64 (10 R279): the address of the next row is the failing one. -/
def strideBad (a p : Int) : CFail := if p % 64 = 0 then none else some (0x23, some (addrNat (a + p)))

/-- Tag, space and permissions of a capability whose addresses depend on values that the command reads (10
R279); `a` is its first address. -/
def State.cpyKind (s : State) (t : Nat) (c : CReg) (spaces : List Nat) (perms : Nat) (a : Int) : CFail :=
  (s.cpyCheck t c spaces perms 1 (capOff c.v) 0).map fun x => (x.1, some (addrNat a))

/-- The ranges of rows at a stride. -/
def State.rowsCheck (s : State) (t : Nat) (c : CReg) (perms : Nat) (a p : Int) (rows n : Nat) : CFail :=
  firstOf ((List.range rows).map fun (i : Nat) => s.cpyCheck t c anySpace perms 64 (a + p * i) n)

/-- SBAR classes of a capability used with read or write (10 R284). -/
def classOf (c : CReg) (write : Bool) : Nat := if capSpace c.v = 0 then (if write then 2 else 1) else 4

/-- A new command. -/
def CCmd.new (h : Hdr) (t op sub rec' sig seq : Nat) (d : CDesc) (used : List Nat) (grp : List RWord) : CCmd :=
  { op := op, sub := sub, rec' := rec', desc := d.off / 128, img := d.img, caps := d.caps, sig := sig, seq := seq, phase := 0, at' := 0,
    unit := 0, units := 1, bytes := 0, flags := 0,
    scope := used.foldl (fun m i => max m (wordScope h (d.cap i).v t)) (scpScope h 0), order := scpOrder h 0, sink := sinkAllowed h,
    cls := 0, wait := [], stuck := false, ahead := [], out := none, runs := [], list := none, prog := none, masked := [], bitmap := [], crc := 0,
    status := 0, cause := 0, origin := 0, chan := 0, result := 0, pois := none, ext := [], grp := grp }

def Tile.copySlot (T : Tile) : Nat := ((List.range 16).find? fun k => (FM.find? T.ccmds k).isNone).getD 16
def State.setCcmd (s : State) (t k : Nat) (c : CCmd) : State := s.updTile t fun T => { T with ccmds := FM.set T.ccmds k c }
def State.dropCcmd (s : State) (t k : Nat) : State := s.updTile t fun T => { T with ccmds := FM.del T.ccmds k }

/-- A nonzero record slot needs a completion area, else 0x09 before the wait (10 R276). -/
def cpyDec (rec' : Nat) (bad : Bool) (s : State) (go : Out) : Out :=
  if bad || (rec' != 0 && (s.tile s.curTile).crec.isNone) then finish (s.decodeFault s.curTile 5 0x09) else go

/-- Commands and words in flight (10 R276): those with work left, and the pushes that wait and arrivals on their
way (02 R32; 19 R462). -/
def State.copyCount (s : State) (t : Nat) : Nat :=
  ((s.tile t).ccmds.filter fun c => c.2.phase != 3).length + ((s.tile t).pushes.filter fun p => p.stream == 8).length +
    (s.flights.filter fun f => f.fl.arrivalOf t 5).length
/-- Fewer than 16 are in flight, and no CDRAIN holds issue (10 R276, R285). -/
def copyFull (s : State) (t : Nat) : Bool := decide (16 ≤ s.copyCount t) || (s.tile t).ccmds.any fun c => c.2.op == 0xC
def copyActive (s : State) (t : Nat) : Bool := decide (s.copyCount t ≠ 0)

/-- A command enters a slot. -/
def State.startCopy (s : State) (t : Nat) (c : CCmd) : State :=
  s.updTile t fun T => { T with ccmds := FM.set T.ccmds T.copySlot { c with seq := T.cseq }, cseq := T.cseq + 1 }

/-- A word with a descriptor (10 R276 to R279): `chk` its checks after the poison of the descriptor, `mk`
completes the command; `used` lists the capabilities that fix its scope. -/
def cpyWord (h : Hdr) (op sub rec' desc : Nat) (used : List Nat) (chk : State → Nat → CDesc → CFail)
    (mk : State → Nat → CDesc → CCmd → CCmd) (s : State) : Out :=
  cpyDec rec' false s (engIssue h s { EngChecks.none with busy := copyFull } fun t sig s' =>
    let d := s.readDesc t desc
    let a := spBase t + 128 * desc
    let fail := if s.poisAt a || s.poisAt (a + 64) then some (0x31, some d.off) else chk s t d
    let grp := ((s'.tile t).engine 5).group
    match fail with
    | some (cause, v) =>
      let word := ((grp.getLast?).map fun w => w.w).getD 0
      s'.execFault t 5 cause (match v with | some v => w64 v | none => word) sig
    | none => s'.startCopy t (mk s t d (CCmd.new h t op sub rec' sig 0 d used grp)))

def units4k (len : Nat) : Nat := (len + 4095) / 4096
def lenBad (len : Nat) : CFail := if len % 64 ≠ 0 ∨ len = 0 ∨ 2 ^ 40 ≤ len then wordBad else none

/-- Descriptor fields by name. -/
def dS : List (Nat × Nat) := [(0, 16), (32, 8)]
def dD : List (Nat × Nat) := [(16, 16), (40, 8)]
def dX : List (Nat × Nat) := [(64, 16), (96, 8)]
def dY : List (Nat × Nat) := [(80, 16), (104, 8)]
def dLen : List (Nat × Nat) := [(48, 8)]
def dOp : List (Nat × Nat) := [(56, 8)]
def dP : List (Nat × Nat) := [(112, 8), (120, 8)]

def CDesc.need (d : CDesc) (used : List (List (Nat × Nat))) (ok : Bool) : CFail :=
  if d.unusedZero used.flatten && ok then none else d.bad

/-- CPY (10 R286). -/
def execCpy (h : Hdr) (rec desc : Nat) (s : State) : Out :=
  cpyWord h 1 0 rec desc [0, 1]
    (fun s t d => firstOf [d.need [dS, dD, dLen] true, lenBad (d.f 48 8),
      s.cpyCheck t (d.cap 0) anySpace 1 64 (d.addr 0 32) (d.f 48 8), s.cpyCheck t (d.cap 1) anySpace 2 64 (d.addr 1 40) (d.f 48 8)])
    (fun _ _ d c => { c with units := units4k (d.f 48 8), cls := classOf (d.cap 0) false ||| classOf (d.cap 1) true }) s

/-- CPYS: rows at signed strides. -/
def execCpys (h : Hdr) (rec desc : Nat) (s : State) : Out :=
  cpyWord h 2 0 rec desc [0, 1]
    (fun s t d =>
      let n := d.f 48 8
      let rows := d.f 56 8 + 1
      let p := signed64 (d.f 112 8)
      let q := signed64 (d.f 120 8)
      firstOf [d.need [dS, dD, dLen, dOp, dP] (decide (d.f 56 8 < 2 ^ 16)), lenBad n, strideBad (d.addr 0 32) p,
        strideBad (d.addr 1 40) q, s.rowsCheck t (d.cap 0) 1 (d.addr 0 32) p rows n, s.rowsCheck t (d.cap 1) 2 (d.addr 1 40) q rows n])
    (fun _ _ d c => { c with units := d.f 56 8 + 1, cls := classOf (d.cap 0) false ||| classOf (d.cap 1) true }) s

/-- CPYG: the listed rows are checked at their units, the others and the list at issue. -/
def cpygWord (sct : Nat) (h : Hdr) (rec desc : Nat) (s : State) : Out :=
  cpyWord h 3 sct rec desc [0, 1]
    (fun s t d =>
      let n := d.f 48 8
      let rows := d.f 56 8 + 1
      firstOf [d.need [dS, dD, dLen, dOp, dP, dX] (decide (d.f 56 8 < 2 ^ 16)), lenBad n,
        s.cpyCheck t (d.cap 2) [0, 1, 2] 1 64 (d.addr 2 96) (4 * rows),
        if sct = 1 then s.cpyCheck t (d.cap 0) anySpace 1 64 (d.addr 0 32) (n * rows)
        else s.cpyKind t (d.cap 0) anySpace 1 (d.addr 0 32),
        if sct = 1 then s.cpyKind t (d.cap 1) anySpace 2 (d.addr 1 40)
        else s.cpyCheck t (d.cap 1) anySpace 2 64 (d.addr 1 40) (n * rows)])
    (fun _ _ d c => { c with
      units := d.f 56 8 + 1
      cls := classOf (d.cap 0) false ||| classOf (d.cap 1) true ||| classOf (d.cap 2) false }) s

def execCpyg (h : Hdr) (rec desc : Nat) (s : State) : Out := cpygWord 0 h rec desc s
def execCpygSct (h : Hdr) (rec desc : Nat) (s : State) : Out := cpygWord 1 h rec desc s

/-- CPYT: element bytes, rows and columns of the source. -/
def cpytEs (op : Nat) : Nat := 2 ^ (op % 4)
def cpytR (op : Nat) : Nat := op / 4 % 2 ^ 16 + 1
def cpytC (op : Nat) : Nat := op / 2 ^ 18 % 2 ^ 16 + 1

def execCpyt (h : Hdr) (rec desc : Nat) (s : State) : Out :=
  cpyWord h 4 0 rec desc [0, 1]
    (fun s t d =>
      let op := d.f 56 8
      let es := cpytEs op
      let p := signed64 (d.f 112 8)
      let q := signed64 (d.f 120 8)
      firstOf [d.need [dS, dD, dOp, dP] (op % 4 != 3 && decide (op < 2 ^ 34)),
        if cpytR op * es % 64 ≠ 0 ∨ cpytC op * es % 64 ≠ 0 then wordBad else none, strideBad (d.addr 0 32) p, strideBad (d.addr 1 40) q,
        s.rowsCheck t (d.cap 0) 1 (d.addr 0 32) p (cpytR op) (cpytC op * es),
        s.rowsCheck t (d.cap 1) 2 (d.addr 1 40) q (cpytC op) (cpytR op * es)])
    (fun _ _ d c => { c with units := cpytC (d.f 56 8), cls := classOf (d.cap 0) false ||| classOf (d.cap 1) true }) s

def execFill (h : Hdr) (rec desc : Nat) (s : State) : Out :=
  cpyWord h 6 0 rec desc [1]
    (fun s t d => firstOf [d.need [dD, dLen, dOp] true, lenBad (d.f 48 8),
      s.cpyCheck t (d.cap 1) anySpace 2 64 (d.addr 1 40) (d.f 48 8)])
    (fun _ _ d c => { c with units := units4k (d.f 48 8), cls := classOf (d.cap 1) true }) s

/-- PFCH never faults: a check that fails leaves it nothing to do. -/
def execPfch (h : Hdr) (rec desc : Nat) (s : State) : Out :=
  cpyDec rec false s (engIssue h s { EngChecks.none with busy := copyFull } fun t sig s' =>
    let d := s.readDesc t desc
    let a := spBase t + 128 * desc
    let bad := s.poisAt a || s.poisAt (a + 64) ||
      (firstOf [d.need [dS, dLen] true, lenBad (d.f 48 8), s.cpyCheck t (d.cap 0) [2] 1 64 (d.addr 0 32) (d.f 48 8)]).isSome
    let c := CCmd.new h t 8 0 rec sig 0 d [0] ((s'.tile t).engine 5).group
    s'.startCopy t { c with units := if bad then 0 else units4k (d.f 48 8), cls := 4 })

def execChksum (h : Hdr) (rec desc : Nat) (s : State) : Out :=
  cpyWord h 9 0 rec desc [0]
    (fun s t d => firstOf [d.need [dS, dLen, dOp] (decide (d.f 56 8 < 2 ^ 32)), lenBad (d.f 48 8),
      s.cpyCheck t (d.cap 0) anySpace 1 64 (d.addr 0 32) (d.f 48 8)])
    (fun _ _ d c => { c with units := units4k (d.f 48 8), crc := d.f 56 4, cls := classOf (d.cap 0) false }) s

/-- Fields of CPYX's op (10 R287). -/
def opF (op lo w : Nat) : Nat := op / 2 ^ lo % 2 ^ w
def userOut (ratio n : Nat) : Nat := [n, n / 2, n / 4, 2 * n, 4 * n].getD ratio n
def CCmd.xform (c : CCmd) : Xform :=
  let op := c.f 56 8
  ⟨opF op 0 3, opF op 4 3, opF op 8 3, opF op 11 2, opF op 13 1, opF op 14 2, c.f 64 4, c.f 68 4⟩
/-- The NMU of the destination runs it (10 R287). -/
def atDest (op : Nat) : Bool := opF op 0 3 == 4 || (opF op 0 3 == 5 && opF op 22 1 == 1)
/-- Bytes that `n` source bytes become. -/
def xOut (op n : Nat) : Nat :=
  if opF op 0 3 = 5 then userOut (opF op 19 3) n else n * nmuWidth (opF op 8 3) / nmuWidth (opF op 4 3)

/-- The fields of CPYX's op: those that a transform does not use are zero (10 R277, R287, R288; log entry 68). -/
def cpyxOpOk (op : Nat) : Bool :=
  let xf := opF op 0 3
  let ts := opF op 4 3
  let td := opF op 8 3
  decide (xf ≤ 5) && decide (ts ≤ 4) && decide (td ≤ 4) && opF op 3 1 == 0 && opF op 7 1 == 0 && decide (op < 2 ^ 23) &&
    opF op 14 2 != 3 && (xf == 4 || opF op 14 2 == 0) && decide (opF op 19 3 ≤ 4) &&
    (if xf = 5 then opF op 3 13 == 0 else opF op 16 7 == 0) &&
    (match xf with
     | 0 => td == ts && decide (ts < 4)
     | 1 => td == ts && decide (ts < 4)
     | 3 => decide (ts < 4)
     | 4 => td == ts
     | _ => true)

/-- What CPYX reads of its descriptor: the scale, the addend or the parameter block (10 R287). -/
def cpyxUsed (op : Nat) : List (List (Nat × Nat)) :=
  [dS, dD, dLen, dOp] ++
    (match opF op 0 3 with
     | 0 => [[(64, 4)]]
     | 1 => [[(68, 4)]]
     | 3 => [[(64, 4)]]
     | 5 => [[(64, 64)]]
     | _ => [])

def execCpyx (h : Hdr) (rec desc : Nat) (s : State) : Out :=
  cpyWord h 5 0 rec desc [0, 1]
    (fun s t d =>
      let op := d.f 56 8
      let n := d.f 48 8
      let user := opF op 0 3 == 5
      let prog := FM.get [] (s.context (s.tile t).ctx).nmu (opF op 16 3)
      let dst := atDest op
      firstOf [d.need (cpyxUsed op) (cpyxOpOk op), if n % 256 ≠ 0 then wordBad else none, lenBad n,
        if user && prog.isEmpty then some (0x53, some (opF op 16 3)) else none,
        if user && (nmuBytesOut prog != userOut (opF op 19 3) 4096 || (nmuUsesAux prog && opF op 22 1 == 0)) then d.bad else none,
        s.cpyCheck t (d.cap 0) (if dst then anySpace else [2]) 1 (if dst then 64 else 4096) (d.addr 0 32) n,
        s.cpyCheck t (d.cap 1) (if dst then [2] else anySpace) (if dst then 3 else 2) (if dst then 4096 else 64) (d.addr 1 40) (xOut op n)])
    (fun _ _ d c => { c with units := units4k (d.f 48 8), cls := classOf (d.cap 0) false ||| classOf (d.cap 1) true }) s

/-- SBAR (10 R284): it awaits the earlier commands with an access of a named class. -/
def execSbar (h : Hdr) (mask : Nat) (s : State) : Out :=
  engIssue h s { EngChecks.none with busy := copyFull } fun t sig s' =>
    let T := s.tile t
    let ws := ((T.ccmds.filter fun kc => (kc.2.cls &&& mask) != 0).map fun kc => kc.2.seq)
    let c := CCmd.new h t 7 0 0 sig 0 ⟨0, [], []⟩ [] ((s'.tile t).engine 5).group
    s'.startCopy t { c with wait := ws, cls := 0, ext := [mask] }

/-- Command `c` awaits the other commands of the list: an SBAR its earlier commands of a class that it names (10
R284). -/
def Tile.sbarHolds (T : Tile) (e : CCmd) (cls : Nat) : Bool :=
  [1, 2, 4].any fun k => (e.ext.headD 0 &&& cls &&& k) != 0 &&
    (e.scope == 3 || T.ccmds.any fun x => e.wait.contains x.2.seq && (x.2.cls &&& k) != 0)

/-- Accesses of classes `cls` of a word that follows every command in flight may not issue: an SBAR stands
before them (10 R284). -/
def sbarAhead (cls : Nat) (s : State) (t : Nat) : Bool :=
  (s.tile t).ccmds.any fun ke => ke.2.op == 7 && ke.2.phase == 0 && (s.tile t).sbarHolds ke.2 cls

/-- CREC (10 R278). -/
def execCrec (h : Hdr) (base : Nat) (s : State) : Out :=
  engIssue h s { EngChecks.none with busy := copyActive } fun t sig s' =>
    (s'.flyTile t 1 (.crec t (4096 * base))).signalIn t 5 0 sig 1 none

/-- A status word: its bytes are written at issue + 6, when it signals (10 R295); as an access to the scratchpad
it issues after the SBARs that hold those writes (10 R284). -/
def statusBusy (s : State) (t : Nat) : Bool := copyFull s t || sbarAhead 2 s t

def State.statusCopy (s : State) (h : Hdr) (t op rec' sig dst : Nat) (bs : List Nat) : State :=
  let c := CCmd.new h t op 0 rec' sig 0 ⟨0, [], []⟩ [] ((s.tile t).engine 5).group
  (s.flyTile t 6 (.scratch t (128 * dst) bs)).startCopy t { c with phase := 1, at' := (s.tile t).clk + 5, units := 0, cls := 2 }

def execCstat (h : Hdr) (rec dst : Nat) (s : State) : Out :=
  cpyDec rec false s (engIssue h s { EngChecks.none with busy := statusBusy } fun t sig s' =>
    let T := s.tile t
    let mask := T.ccmds.foldl (fun m kc => if kc.2.rec' = 0 then m else m ||| 2 ^ (kc.2.rec' - 1)) 0
    s'.statusCopy h t 0xB rec sig dst
      ([s.copyCount t, bit (T.engine 5).stop 0] ++ List.replicate 6 0 ++ natLe 8 mask ++ List.replicate 48 0))

/-- CDRAIN (10 R283, R285) stands among the commands with the earlier ones that it awaits, and nothing issues
behind it; it signals once none of them is in flight. -/
def execCdrain (h : Hdr) (s : State) : Out :=
  engIssue h s { EngChecks.none with busy := copyFull } fun t sig s' =>
    s'.startCopy t { CCmd.new h t 0xC 0 0 sig 0 ⟨0, [], []⟩ [] ((s'.tile t).engine 5).group with
      wait := (s.tile t).ccmds.map fun kc => kc.2.seq }

/-- NMULD (10 R292): a program that would run past the scratchpad raises 0x09 (log entry 18). -/
def execNmuld (h : Hdr) (rec src slot n : Nat) (s : State) : Out :=
  cpyDec rec (decide (0x80000 < 128 * src + 4 * n)) s (engIssue h s { EngChecks.none with busy := copyFull } fun t sig s' =>
    let c := CCmd.new h t 0xD 0 rec sig 0 ⟨0, [], []⟩ [] ((s'.tile t).engine 5).group
    s'.startCopy t { c with ext := [src, slot, n], cls := 1 })

def execNmustat (h : Hdr) (rec dst ch : Nat) (s : State) : Out :=
  cpyDec rec false s (engIssue h s { EngChecks.none with busy := statusBusy } fun t sig s' =>
    let x := (s.tile t).ctx
    let N := s.nmu ch
    let slots := (List.range 8).foldl (fun m i => m + bit (!(FM.get [] (s.context x).nmu i).isEmpty) i) 0
    s'.statusCopy h t 0xE rec sig dst
      ([slots] ++ List.replicate 7 0 ++ natLe 8 (FM.get 0 N.runs x) ++ natLe 4 N.aborts ++ List.replicate 4 0 ++
        natLe 8 (if N.lastCtx = x then N.lastAddr else 0) ++ List.replicate 32 0))

/-- Fields of the key-value words (10 R296; 13 R367). -/
def kvTb (op : Nat) : Nat := opF op 0 16
def kvTpb (op : Nat) : Nat := opF op 16 4
def kvRows (op : Nat) : Nat := opF op 20 4 + 1
def kvN (op : Nat) : Nat := opF op 24 10 + 1
def CDesc.kvT0 (d : CDesc) : Nat := d.f 112 4

def kvBitmap (d : CDesc) : Nat := d.f 120 8 / 2 ^ 32

def kvOk (d : CDesc) (mask : Bool) : Bool :=
  let op := d.f 56 8
  let bm := kvBitmap d
  decide (op < 2 ^ 34) && decide (64 ≤ kvTb op) && decide (kvTb op ≤ 16384) && decide (kvTpb op ≤ 10) && decide (d.f 112 8 < 2 ^ 48) &&
    (if mask then decide (bm < 2 ^ 19) && decide (bm + 128 * kvRows op ≤ 0x80000) else bm == 0)

/-- Bytes per token and the bitmap's offset are multiples of 64 (10 R279). -/
def kvAlign (d : CDesc) : CFail :=
  if kvTb (d.f 56 8) % 64 ≠ 0 then wordBad else if kvBitmap d % 64 ≠ 0 then some (0x23, some (kvBitmap d)) else none

/-- The block-table entries and status maps of the rows, which no value read moves, with their offsets and
strides (10 R279). -/
def State.kvTables (s : State) (t : Nat) (d : CDesc) : CFail :=
  let op := d.f 56 8
  let t0 := d.kvT0
  let t1 := t0 + kvN op - 1
  let i0 := t0 / 2 ^ kvTpb op
  let i1 := t1 / 2 ^ kvTpb op
  firstOf ([s.cpyCheck t (d.cap 2) [0, 1, 2] 1 64 (d.addr 2 96) 0, strideBad (d.addr 2 96) (d.f 116 2),
    s.cpyCheck t (d.cap 3) [0, 1, 2] 1 64 (d.addr 3 104) 0, strideBad (d.addr 3 104) (d.f 120 4)] ++
    (List.range (kvRows op)).flatMap fun (r : Nat) =>
    [s.cpyCheck t (d.cap 2) [0, 1, 2] 1 4 (d.addr 2 96 + (r * d.f 116 2 + 4 * i0 : Nat)) (4 * (i1 - i0 + 1)),
      s.cpyCheck t (d.cap 3) [0, 1, 2] 1 1 (d.addr 3 104 + (r * d.f 120 4 + t0 / 4 : Nat)) (t1 / 4 - t0 / 4 + 1)])

def kvUsed : List (List (Nat × Nat)) := [dS, dD, dX, dY, dOp, dP]

def kvgWord (mask : Bool) (h : Hdr) (rec desc : Nat) (s : State) : Out :=
  cpyWord h 0xF (bit mask 0) rec desc [0, 1, 2, 3]
    (fun s t d =>
      let op := d.f 56 8
      firstOf [d.need kvUsed (kvOk d mask), kvAlign d, s.cpyKind t (d.cap 0) [2] 1 (d.addr 0 32),
        s.cpyCheck t (d.cap 1) [0, 1] 2 64 (d.addr 1 40) (kvRows op * kvN op * kvTb op), s.kvTables t d])
    (fun _ _ d c => { c with
      units := kvRows (d.f 56 8) * kvN (d.f 56 8)
      cls := classOf (d.cap 1) true ||| classOf (d.cap 2) false ||| classOf (d.cap 3) false ||| 4 ||| (if mask then 2 else 0) }) s

def execKvgWait (h : Hdr) (rec desc : Nat) (s : State) : Out := kvgWord false h rec desc s
def execKvgMask (h : Hdr) (rec desc : Nat) (s : State) : Out := kvgWord true h rec desc s

/-- KVST (13 R367). -/
def execKvst (h : Hdr) (rec desc : Nat) (s : State) : Out :=
  cpyWord h 0x12 0 rec desc [0, 1, 2, 3]
    (fun s t d =>
      let op := d.f 56 8
      firstOf [d.need kvUsed (kvOk d false), kvAlign d, s.cpyCheck t (d.cap 0) [0, 1] 1 64 (d.addr 0 32) (kvRows op * kvN op * kvTb op),
        s.cpyKind t (d.cap 1) [2] 2 (d.addr 1 40), s.kvTables t d])
    (fun _ _ d c => { c with
      units := kvRows (d.f 56 8) * kvN (d.f 56 8)
      cls := classOf (d.cap 0) false ||| classOf (d.cap 2) false ||| classOf (d.cap 3) false ||| 4 }) s

/-- KVOUT and KVIN (10 R298). -/
def kvMove (out : Bool) (h : Hdr) (rec desc : Nat) (s : State) : Out :=
  cpyWord h (if out then 0x10 else 0x11) 0 rec desc [0, 1]
    (fun s t d =>
      let n := d.f 48 8
      firstOf [d.need [dS, dD, dLen, dOp] (decide (d.f 56 8 < 256)), if n % 4096 ≠ 0 then wordBad else lenBad n,
        s.cpyCheck t (d.cap 0) (if out then [2] else [3]) 1 4096 (d.addr 0 32) n,
        s.cpyCheck t (d.cap 1) (if out then [3] else [2]) 2 4096 (d.addr 1 40) n])
    (fun _ _ d c => { c with units := units4k (d.f 48 8), cls := 4 }) s

def execKvout (h : Hdr) (rec desc : Nat) (s : State) : Out := kvMove true h rec desc s
def execKvin (h : Hdr) (rec desc : Nat) (s : State) : Out := kvMove false h rec desc s

/-- A command's record falls due: its units are done, or it ends early (10 R278). -/
def State.cpyEnd (s : State) (t k : Nat) (c : CCmd) : State := s.setCcmd t k { c with
  phase := 1, at' := (s.tile t).clk, ahead := [], out := none, runs := [] }

/-- The record, one tc before the signal. -/
def State.cpyRecord (s : State) (t k : Nat) (c : CCmd) : State :=
  let T := s.tile t
  let masked := (List.range 16).flatMap fun r => natLe 2 (FM.get 0 c.masked r)
  let bs := [c.status, c.cause] ++ natLe 2 c.origin ++ natLe 4 c.unit ++ natLe 8 c.bytes ++ [c.flags % 128, c.chan] ++
    List.replicate 6 0 ++ natLe 8 c.result ++ masked
  let s := if c.rec' = 0 then s else s.put (spBase t + T.crec.getD 0 + 64 * (c.rec' - 1)) bs false
  s.setCcmd t k { c with phase := 2, at' := T.clk + 1 }

/-- The signal, with the flags (10 R278, R280). While it waits or goes to a home record the command is still in
flight (02 R32; 19 R462). -/
def State.cpySignal (s : State) (t k : Nat) (c : CCmd) : State :=
  let s' := match s.signalLater t 5 c.sig c.pois with
    | some m => s.setCcmd t k { c with phase := 3, at' := m }
    | none => s.dropCcmd t k
  (s'.orFlags t 5 c.flags).signalNow t 5 0 c.sig c.pois

/-- A command ends early without a trap: status, cause and the poison of its signal. -/
def State.cpyAbort (s : State) (t k : Nat) (c : CCmd) (status cause origin result : Nat) : State :=
  s.cpyEnd t k { c with status := status, cause := cause, origin := origin, result := result, pois := some (cause, origin) }

/-- A fault at a unit (10 R279, R282): the engine stops; at a not-present-trap page the command stays at its
unit, to be tried again (16 R425). While the engine stands at an earlier fault the unit waits. -/
def State.cpyFault (s : State) (t k : Nat) (c : CCmd) (cause va : Nat) : State :=
  let stuck := cause == 0x2B
  if ((s.tile t).engine 5).stop then s.setCcmd t k c
  else
    let s := s.stopUnit t 5 cause (w64 va) c.grp (if stuck then [] else c.grp)
    if stuck then s.setCcmd t k { c with stuck := true } else s.cpyAbort t k c 2 cause (originOf t 5) 0

/-- rst tries the translation of the command held at a not-present-trap page again; skip ends the command (10
R282; 16 R425). -/
def State.cpyRestart (s : State) (t e : Nat) (skip : Bool) : State :=
  if e ≠ 5 then s
  else match List.find? (fun (p : Nat × CCmd) => p.2.stuck) (s.tile t).ccmds with
    | none => s
    | some (k, c) =>
      if skip then s.cpyAbort t k { c with stuck := false } 2 0x2B (originOf t 5) 0
      else s.setCcmd t k { c with stuck := false }

/-- A translation that a unit needs: it faults, or is held with a record (10 R282). -/
def State.cpyXl (s : State) (t k : Nat) (c : CCmd) (x : Xl) (kind : Nat) : State :=
  match x with
  | .held i va => (s.setCcmd t k c).holdAccess (tileCol t) (.copy t k) (s.tile t).ctx va kind (originOf t 5) i
  | .fault cause va => s.cpyFault t k c cause va
  | .ok _ => s

/-- The accesses of classes `cls` of a command wait for earlier commands: by SBAR (10 R284), and by acquire and
release (12 R332). -/
def Tile.copyHeld (T : Tile) (c : CCmd) (cls : Nat) : Bool :=
  T.ccmds.any fun ke =>
    let e := ke.2
    decide (e.seq < c.seq) && e.phase == 0 && (if e.op = 7 then T.sbarHolds e cls else isRel c.order || isAcq e.order)

/-- The classes of a command's reads and of its writes (10 R284). -/
def CCmd.readCls (c : CCmd) : Nat :=
  match c.op with
  | 1 => classOf (c.cap 0) false
  | 2 => classOf (c.cap 0) false
  | 3 => classOf (c.cap 0) false ||| classOf (c.cap 2) false
  | 4 => classOf (c.cap 0) false
  | 5 => classOf (c.cap 0) false ||| (if atDest (c.f 56 8) then 4 else 0)
  | 8 => 4
  | 9 => classOf (c.cap 0) false
  | 0xD => 1
  | 0xF => 4 ||| classOf (c.cap 2) false ||| classOf (c.cap 3) false
  | 0x10 => 4
  | 0x11 => 4
  | 0x12 => classOf (c.cap 0) false ||| classOf (c.cap 2) false ||| classOf (c.cap 3) false
  | 0x13 => 4
  | 0x14 => if c.sub = 0 then 4 else 0
  | _ => 0
def CCmd.writeCls (c : CCmd) : Nat :=
  match c.op with
  | 8 => 0
  | 9 => 0
  | 0xD => 0
  | 0x10 => 4
  | 0x11 => 4
  | 0x13 => 4
  | 0x14 => if c.sub = 1 then 2 else 0
  | _ => classOf (c.cap 1) true

/-- A line of device memory reaches its controller (12 R343). -/
def State.cpyFlush (s : State) (t a : Nat) (xs : List (Nat × Phys)) : State :=
  match s.physFor (s.tile t).ctx (tileCol t) 2 a xs with
  | some p => s.writeBack p.home fun l => l.key == p.pa / 64
  | none => s

/-- The write of one granule of a command: at the memory end, in the clear for CPYX and as ciphertext for KVIN
(12 R342; 10 R298); else at its unit, and at system scope in HBM (12 R343). -/
def State.cpyPut (s : State) (t : Nat) (c : CCmd) (xs : List (Nat × Phys)) (g : Nat × List Nat × Bool) : State :=
  let cap := (c.cap 1).v
  let sp := if c.op = 0xF ∧ c.list.isSome ∨ c.op = 0x14 then 0 else capSpace cap
  if c.op = 0x11 ∨ (c.op = 5 ∧ sp = 2) then
    match s.physFor (s.tile t).ctx (tileCol t) 2 g.1 xs with
    | some p => if c.op = 5 then (s.beyond p.pa).memEndLine p g.1 g.2.1 g.2.2 else s.memEndPut p.pa g.2.1 g.2.2
    | none => s
  else
    let s := s.writeAt t sp (capUnit cap t) g.1 g.2.1 g.2.2 xs
    if c.scope = 3 ∧ sp = 2 then s.cpyFlush t g.1 xs else s

/-- The error completion of a host access is a free choice (log entry 8). -/
def State.hostError (s : State) (c : CReg) : Bool × State :=
  if capSpace c.v = 3 then
    let (n, s) := takeFree s
    (n % 2 == 1, s)
  else (false, s)

/-- The home bank stores write back, or write back and invalidate, the lines of a range (10 R289, R298). -/
def State.flushRange (s : State) (t va n : Nat) (inv : Bool) (xs : List (Nat × Phys)) : State :=
  (List.range ((n + 63) / 64)).foldl (fun s i =>
    match s.physFor (s.tile t).ctx (tileCol t) 2 (va + 64 * i) xs with
    | some p =>
      let s := s.writeBack p.home fun l => l.key == p.pa / 64
      if inv then s.dropLine p.home p.pa else s
    | none => s) s

/-- The unit's writes are accepted: a near-memory unit is free for its next run (10 R281, R289). -/
def State.outEnds (s : State) (t k : Nat) (c : CCmd) (o : COut) : State :=
  if !o.ends then s.setCcmd t k { c with out := none }
  else
    let s := match c.runs.head? with
      | some r =>
        let N := s.nmu r.ch
        let x := (s.tile t).ctx
        s.setNmu r.ch { N with queue := N.queue.filter fun q => q != (t, k, r.unit), runs := FM.set N.runs x (FM.get 0 N.runs x + 1) }
      | none => s
    s.setCcmd t k { c with out := none, unit := c.unit + 1, bytes := c.bytes + o.len, runs := c.runs.drop 1 }

/-- Any of the granules under way are written, in any order (12 R345); those of `all` at once. -/
def State.outStep (s : State) (t k : Nat) (c : CCmd) (o : COut) (all : Bool) : State :=
  let (n, s) := takeFree s
  let picked := (List.zip (List.range o.gs.length) o.gs).map fun ig => (all || n / 2 ^ ig.1 % 2 == 1, ig.2)
  let s := picked.foldl (fun s pg => if pg.1 then s.cpyPut t c o.phys pg.2 else s) s
  match (picked.filter fun pg => !pg.1).map fun pg => pg.2 with
  | [] => s.outEnds t k c o
  | g :: gs => s.setCcmd t k { c with out := some { o with gs := g :: gs } }

/-- The writes of a unit begin (10 R281, R282), and the command becomes `c'`: translations first, then sinks,
the errors of the host and refusals. -/
def State.cpyBegin (s : State) (t k : Nat) (c c' : CCmd) (gs : List (Nat × List Nat × Bool)) (xs : List (Nat × Phys)) : State :=
  let cap := c.cap 1
  let sp := capSpace cap.v
  let a := (gs.map fun g => g.1).headD 0
  let n := gs.foldl (fun m g => m + g.2.1.length) 0
  match if xs.isEmpty then s.checkXlate t cap.v 2 a n else none with
  | some x => s.cpyXl t k c x 1
  | none =>
    let xs := if xs.isEmpty then s.capture (s.tile t).ctx (tileCol t) sp (gs.map fun g => g.1) else xs
    match if 3 ≤ sp ∧ !c.sink then gs.find? fun g => g.2.2 else none with
    | some g => s.cpyFault t k c 0x31 g.1
    | none =>
      let (e, s) := s.hostError cap
      if e then s.cpyFault t k c 0x59 a
      else match if c.op = 5 ∧ sp = 2 ∨ c.op = 0x11 then none else gs.findSome? fun g => s.refusedAt t 5 sp (capUnit cap.v t) g.1 xs with
        | some (cause, origin) => s.cpyAbort t k c 1 cause origin 0
        | none =>
          let s := if isRel c.order && c.scope == 3 then s.releaseSystem (s.tile t).ctx else s
          let s := if c.op = 5 ∧ sp = 2 ∨ c.op = 0x11 then s.flushRange t a n true xs else s
          s.setCcmd t k { c' with out := some ⟨gs, xs, n, true⟩ }

/-- The row of unit `j` in a capability of the movement words: source address, destination address, length,
poison of its index. -/
structure CRow where
  src : Int
  dst : Int
  n : Nat
  p : Bool

def CCmd.row (c : CCmd) (j : Nat) : CRow :=
  let len := c.f 48 8
  let S := c.addr 0 32
  let D := c.addr 1 40
  match c.op with
  | 2 => ⟨S + signed64 (c.f 112 8) * j, D + signed64 (c.f 120 8) * j, len, false⟩
  | 3 =>
    let x := (c.list.getD []).getD j (0, false)
    let at' (i : Nat) : Int := (i * len : Nat)
    if c.sub = 1 then ⟨S + at' j, D + at' x.1, len, x.2⟩ else ⟨S + at' x.1, D + at' j, len, x.2⟩
  | 4 => ⟨S, D + signed64 (c.f 120 8) * j, cpytR (c.f 56 8) * cpytEs (c.f 56 8), false⟩
  | _ => ⟨S + (4096 * j : Nat), D + (4096 * j : Nat), min 4096 (len - 4096 * j), false⟩

/-- Element (i, j) for each source row i of a transposed row: bytes and poison of its granule. -/
def State.columnOf (s : State) (t : Nat) (c : CCmd) (j : Nat) : Except Xl (List (List Nat × Bool)) × State :=
  let op := c.f 56 8
  let es := cpytEs op
  let p := signed64 (c.f 112 8)
  let cap := c.cap 0
  let at' (i : Nat) : Nat := addrNat (c.addr 0 32 + p * i + (j * es : Nat))
  let is := List.range (cpytR op)
  match is.findSome? fun i => s.checkXlate t cap.v 1 (at' i) es with
  | some x => (.error x, s)
  | none =>
    let r := is.foldl (fun (o : List (List Nat × Bool) × State) i =>
      let (g, s) := o.2.readUnit t (capSpace cap.v) (capUnit cap.v t) (at' i) es
      (g :: o.1, s)) ([], s)
    let es' := r.1.reverse
    let per := 64 / es
    (.ok ((List.range (cpytR op / per)).map fun g =>
      let xs := cut' es' (g * per) per
      (xs.flatMap fun x => x.1, xs.any fun x => x.2)), r.2)
where
  cut' (xs : List (List Nat × Bool)) (o n : Nat) : List (List Nat × Bool) := (xs.drop o).take n

/-- Granules of bytes that carry one poison each. -/
def toGranules (bs : List Nat) (ps : List Bool) : List (List Nat × Bool) :=
  (List.range ((bs.length + 63) / 64)).map fun i => (cut bs (64 * i) 64, ps.getD i false)

/-- Granules from address `a` on. -/
def placed (a : Nat) (gs : List (List Nat × Bool)) : List (Nat × List Nat × Bool) :=
  (List.zip (List.range gs.length) gs).map fun ig => (a + 64 * ig.1, ig.2.1, ig.2.2)

/-- The data of unit `j`, or what keeps the read from it; checks of an indexed row come first (10 R279). -/
def State.unitData (s : State) (t : Nat) (c : CCmd) (j : Nat) : Except Xl (List (List Nat × Bool)) × State :=
  let r := c.row j
  let idx : CFail := if c.op ≠ 3 then none
    else if c.sub = 1 then s.cpyCheck t (c.cap 1) anySpace 2 64 r.dst r.n else s.cpyCheck t (c.cap 0) anySpace 1 64 r.src r.n
  match idx with
  | some (cause, v) => (.error (.fault cause (v.getD 0)), s)
  | none =>
    match c.op with
    | 6 => (.ok (toGranules ((List.range (r.n / 8)).flatMap fun _ => natLe 8 (c.f 56 8)) []), s)
    | 4 => s.columnOf t c j
    | _ =>
      match s.checkXlate t (c.cap 0).v 1 r.src r.n with
      | some x => (.error x, s)
      | none =>
        let (e, s) := s.hostError (c.cap 0)
        if e then (.error (.fault 0x59 (addrNat r.src)), s)
        else
          let (gs, s) := s.readRange t (capSpace (c.cap 0).v) (capUnit (c.cap 0).v t) (addrNat r.src) r.n
          (.ok (gs.map fun g => (g.1, g.2 || r.p)), s)

/-- What the read of a unit comes to: its granules; nothing yet; or a translation of access kind `kind` that
holds or faults. -/
inductive URes where
  | data (r : CRead)
  | wait
  | xl (x : Xl) (kind : Nat)

/-- A unit of a movement word. -/
def State.moveRead (s : State) (t : Nat) (c : CCmd) (j : Nat) : URes × State :=
  match s.unitData t c j with
  | (.ok gs, s) => (.data ⟨placed (addrNat (c.row j).dst) gs, false⟩, s)
  | (.error x, s) => (.xl x 0, s)

/-- The list of CPYG, read whole before any row (10 R286). -/
def State.readList (s : State) (t k : Nat) (c : CCmd) : State :=
  let cap := c.cap 2
  let n := 4 * c.units
  match s.checkXlate t cap.v 1 (c.addr 2 96) n with
  | some x => s.cpyXl t k c x 0
  | none =>
    let (gs, s) := s.readRange t (capSpace cap.v) (capUnit cap.v t) (addrNat (c.addr 2 96)) n
    let bs := gs.flatMap fun g => g.1.map fun b => (b, g.2)
    let at' (i : Nat) : Nat × Bool :=
      let xs := (bs.drop (4 * i)).take 4
      (leNat (xs.map fun x => x.1), xs.any fun x => x.2)
    s.setCcmd t k { c with list := some ((List.range c.units).map at') }

/-- The first unit read ahead is written: its token counts as masked where it is (10 R281, R297). -/
def State.writeAhead (s : State) (t k : Nat) (c : CCmd) (r : CRead) : State :=
  let n := kvN (c.f 56 8)
  let c' := { c with ahead := c.ahead.drop 1 }
  s.cpyBegin t k c (if r.masked then { c' with
    masked := FM.set c.masked (c.unit / n) (FM.get 0 c.masked (c.unit / n) + 1)
    bitmap := FM.set c.bitmap (c.unit / n) (FM.get 0 c.bitmap (c.unit / n) + 2 ^ (c.unit % n)) } else c') r.gs []

/-- A step of a word that reads units and writes them in order: the engine may read ahead, a free choice, or the
first unit read is written (10 R281). What fails ahead of its turn is tried again in its turn. -/
def State.pipeStep (read : State → Nat → CCmd → Nat → URes × State) (s : State) (t k : Nat) (c : CCmd) : State :=
  let T := s.tile t
  let next := c.unit + c.ahead.length
  let (n, s) := takeFree s
  let mayRead := decide (next < c.units) && !T.copyHeld c c.readCls
  match c.ahead, if T.copyHeld c c.writeCls then false else !mayRead || n % 2 == 0 with
  | r :: _, true => s.writeAhead t k c r
  | ahead, _ =>
    if !mayRead then s
    else match read s t c next with
      | (.data r, s) => s.setCcmd t k { c with ahead := ahead ++ [r] }
      | (.wait, s) => s
      | (.xl x kind, s) => if ahead.isEmpty then s.cpyXl t k c x kind else s

/-- A step of a movement word. -/
def State.moveStep (s : State) (t k : Nat) (c : CCmd) : State :=
  if c.op = 3 ∧ c.list.isNone then (if (s.tile t).copyHeld c (classOf (c.cap 2) false) then s else s.readList t k c)
  else s.pipeStep State.moveRead t k c

/-- A unit of PFCH: its lines enter their home bank stores. -/
def State.prefetchStep (s : State) (t k : Nat) (c : CCmd) : State :=
  (s.prefetchLines t (addrNat (c.row c.unit).src) ((c.row c.unit).n / 64)).setCcmd t k { c with unit := c.unit + 1 }

/-- The holder of a granule's poison, as an origin (11 R323). -/
def holder (s : State) (t : Nat) (cap : Cap) (a : Nat) : Nat :=
  match capSpace cap with
  | 1 => s.holderOf t 1 (scratchCol cap t) a []
  | 2 => s.holderOf t 2 (tileCol t) a []
  | 4 => match s.translate (s.tile t).ctx (tileCol t) a 4 0 with
    | .ok p => originPeer p.port
    | _ => originOf t 5
  | _ => originOf t 5

/-- A unit of CHKSUM: a poisoned granule ends it with the granule's cause (10 R286; 11 R323). -/
def State.checksumStep (s : State) (t k : Nat) (c : CCmd) : State :=
  match s.unitData t c c.unit with
  | (.error x, s) => s.cpyXl t k c x 0
  | (.ok gs, s) =>
    match (List.zip (List.range gs.length) gs).find? fun ig => ig.2.2 with
    | some ig =>
      let (n, s) := takeFree s
      s.cpyAbort t k c 1 0x37 (holder s t (c.cap 0).v (addrNat (c.row c.unit).src + 64 * ig.1)) (n % 2 ^ 32)
    | none =>
      let crc := crc32c c.crc (gs.flatMap fun g => g.1)
      s.setCcmd t k { c with unit := c.unit + 1, crc := crc, result := crc }

/-- NMULD's check and store (10 R292, R293). -/
def State.nmuldStep (s : State) (t k : Nat) (c : CCmd) : State :=
  let src := c.ext.getD 0 0
  let n := c.ext.getD 2 0
  let a := spBase t + 128 * src
  let p := (List.range n).map fun i => s.nat (a + 4 * i) 4
  match nmuCheck n p ((List.range n).map fun i => s.poisAt (a + 4 * i)) with
  | some (reason, idx) => s.cpyAbort t k c 3 0x52 (originOf t 5) (reason + idx * 2 ^ 16)
  | none =>
    let s := s.updContext (s.tile t).ctx fun x => { x with nmu := FM.set x.nmu (c.ext.getD 1 0) p }
    s.setCcmd t k { c with unit := 1 }

/-- Bytes of unit `j` of the NMU words, and its addresses on both sides. -/
def CCmd.unitLen (c : CCmd) (j : Nat) : Nat := min 4096 (c.f 48 8 - 4096 * j)
def CCmd.xDst (c : CCmd) (j : Nat) : Int := c.addr 1 40 + (xOut (c.f 56 8) (4096 * j) : Nat)
def CCmd.xSrc (c : CCmd) (j : Nat) : Int := c.addr 0 32 + (4096 * j : Nat)
/-- The address that names the channel of unit `j` (10 R287, R299). -/
def CCmd.xAt (c : CCmd) (j : Nat) : Nat := addrNat (if atDest (c.f 56 8) then c.xDst j else c.xSrc j)

/-- Lines of device memory as an NMU reads them (12 R342). -/
def State.meRead (s : State) (t va n : Nat) (xs : List (Nat × Phys)) : List (List Nat × Bool) :=
  (List.range ((n + 63) / 64)).map fun i =>
    match s.physFor (s.tile t).ctx (tileCol t) 2 (va + 64 * i) xs with
    | some p => s.memEndRead p (va + 64 * i)
    | none => (List.replicate 64 0, false)

/-- The next unit of CPYX goes to its NMU once both sides translate, and takes the translations with it (10
R287, R289, R294; 15 R405, R407): the channel is that of the first granule (log entry 68). A fenced NMU ends the
command as an abort does (16 R433). A unit ahead of the first unfinished one that cannot go waits for its turn.
-/
def State.xQueue (s : State) (t k : Nat) (c : CCmd) : State :=
  let j := c.unit + c.runs.length
  let op := c.f 56 8
  let n := c.unitLen j
  if c.units ≤ j ∨ (s.tile t).copyHeld c c.readCls then s
  else
    match s.checkXlate t (c.cap 0).v 1 (c.xSrc j) n with
    | some x => if c.runs.isEmpty then s.cpyXl t k c x 0 else s
    | none =>
      match s.checkXlate t (c.cap 1).v 3 (c.xDst j) (xOut op n) with
      | some x => if c.runs.isEmpty then s.cpyXl t k c x 2 else s
      | none =>
        match s.translate (s.tile t).ctx (tileCol t) (c.xAt j) 2 0 with
        | .ok p =>
          let ch := p.pa / 4096 % 256
          if (s.nmu ch).fenced then
            if c.runs.isEmpty then s.cpyAbort t k { c with chan := ch } 1 0x51 (originOf t 5) (c.xAt j) else s
          else
            let pages (cap : CReg) (a : Int) (m : Nat) : List (Nat × Phys) :=
              s.capture (s.tile t).ctx (tileCol t) (capSpace cap.v) (pagesOf (addrNat a) m)
            let r : CRun := ⟨j, ch, pages (c.cap 0) (c.xSrc j) n, pages (c.cap 1) (c.xDst j) (xOut op n), none, 0, none⟩
            let s := s.setNmu ch { s.nmu ch with queue := (s.nmu ch).queue ++ [(t, k, j)] }
            s.setCcmd t k { c with runs := c.runs ++ [r], chan := 0 }
        | _ => s

/-- A step of CPYX: the first unfinished unit is written, or ends the command, once its run has ended; else, or
by free choice, the next unit goes to its NMU, so that runs on different channels proceed at once (10 R281,
R294, R299). -/
def State.cpyxStep (s : State) (t k : Nat) (c : CCmd) : State :=
  let (n, s) := takeFree s
  match c.runs with
  | [] => s.xQueue t k c
  | r :: _ =>
    match r.fail, r.out with
    | some (cause, a, true), _ => s.cpyFault t k { c with runs := [] } cause a
    | some (cause, a, false), _ => s.cpyAbort t k { c with runs := [], chan := r.ch } 1 cause (originOf t 5) a
    | none, some gs =>
      if n % 2 = 1 ∨ (s.tile t).copyHeld c c.writeCls then s.xQueue t k c
      else s.cpyBegin t k c { c with flags := c.flags ||| r.flags } (placed (addrNat (c.xDst c.unit)) gs) r.dst
    | none, none => s.xQueue t k c

def CCmd.setRun (c : CCmd) (j : Nat) (f : CRun → CRun) : CCmd := { c with runs := c.runs.map fun r => if r.unit = j then f r else r }

/-- A run has ended: what it writes awaits its turn among the command's writes (10 R281, R294). -/
def State.runEnds (s : State) (ch t k : Nat) (c : CCmd) (j : Nat) (bs : List Nat) (ps : List Bool) (fl : Nat) : State :=
  (s.setNmu ch { s.nmu ch with run := none }).setCcmd t k (c.setRun j fun r => { r with out := some (toGranules bs ps), flags := fl })

/-- The bytes that a run reads: its source unit, and its destination unit for REDUCE and USER with aux. The home
bank stores of the pages involved have written their lines of the unit back (10 R289). -/
def State.runInputs (s : State) (t : Nat) (c : CCmd) (r : CRun) : List (List Nat × Bool) × List (List Nat × Bool) × State :=
  let op := c.f 56 8
  let n := c.unitLen r.unit
  let src := addrNat (c.xSrc r.unit)
  let dst := addrNat (c.xDst r.unit)
  let s := if capSpace (c.cap 0).v = 2 then s.flushRange t src n false r.src else s
  let s := if capSpace (c.cap 1).v = 2 then s.flushRange t dst (xOut op n) false r.dst else s
  if atDest op then
    let o := (granules (n + 1) src (List.replicate n 0)).foldl (fun (o : List (List Nat × Bool) × State) g =>
      let (x, s) := o.2.readAt t (capSpace (c.cap 0).v) (capUnit (c.cap 0).v t) g.1 g.2.length r.src
      (o.1 ++ [x], s)) ([], s)
    (o.1, o.2.meRead t dst (xOut op n) r.dst, o.2)
  else (s.meRead t src n r.src, [], s)

/-- A fixed transform of one unit, granule by granule in poison (10 R288, R290). -/
def fixedRun (f : Xform) (src dst : List (List Nat × Bool)) : List Nat × List Bool × Nat :=
  let (bs, fl) := f.run (src.flatMap fun g => g.1) (dst.flatMap fun g => g.1)
  let ws := nmuWidth f.ts
  let wd := nmuWidth f.td
  let ps := (List.range ((bs.length + 63) / 64)).map fun g =>
    let lo := 64 * g / wd * ws / 64
    let hi := ((64 * g + 63) / wd * ws + ws - 1) / 64
    ((List.range (hi + 1 - lo)).any fun i => (src.getD (lo + i) ([], false)).2) || (dst.getD g ([], false)).2
  (bs, ps, fl)

def lineOfG (g : List Nat × Bool) : Line × Bool := (bvOfBytes 512 g.1, g.2)

/-- The program that a CPYX USER binds when its first run starts (10 R293). -/
def State.boundProg (s : State) (t : Nat) (c : CCmd) : Option (List Nat) :=
  if opF (c.f 56 8) 0 3 = 5 then some (c.prog.getD (FM.get [] (s.context (s.tile t).ctx).nmu (opF (c.f 56 8) 16 3))) else none

/-- A run starts: a fixed transform ends at once, a user program runs instruction by instruction. A fenced unit
runs nothing (16 R433), and a read of host memory may end in an error (log entry 8). -/
def State.runStarts (s : State) (ch t k : Nat) (c : CCmd) (r : CRun) : State :=
  let failed (s : State) (cause a : Nat) (fault : Bool) : State := s.setCcmd t k (c.setRun r.unit fun r => { r with fail := some (cause, a, fault) })
  if (s.nmu ch).fenced then failed s 0x51 (c.xAt r.unit) false
  else
    let (e, s) := s.hostError (c.cap 0)
    if e then failed s 0x59 (addrNat (c.xSrc r.unit)) true
    else
      let (src, dst, s) := s.runInputs t c r
      match s.boundProg t c with
      | some p =>
        let run : NmuRun := {
          tile := t, slot := k, unit := r.unit, prog := p, pc := 0, loop1 := none, loop2 := none, regs := [], src := src.map lineOfG
          inPos := 0, aux := dst.map lineOfG, auxPos := 0, out := [], outLen := xOut (c.f 56 8) (c.unitLen r.unit)
          param := bvOfBytes 512 (cut c.img 64 64), flags := 0, ended := false }
        (s.setNmu ch { s.nmu ch with run := some run }).setCcmd t k { c with prog := some p }
      | none =>
        let (bs, ps, fl) := fixedRun c.xform src dst
        s.runEnds ch t k c r.unit bs ps fl

/-- The head of an NMU's queue (10 R289 to R294): its run starts; a program that has ended hands its output
over. The unit stays at the head until its writes are accepted; a unit that its command has given up leaves. -/
def State.nmuRunStep (s : State) (ch : Nat) : State :=
  let N := s.nmu ch
  match N.queue with
  | [] => s
  | (t, k, j) :: q =>
    if N.test.isSome then s else
    let found := (FM.find? (s.tile t).ccmds k).bind fun c => (c.runs.find? fun r => r.unit == j && r.fail.isNone).map fun r => (c, r)
    match found with
    | none => s.setNmu ch { N with run := none, queue := q }
    | some (c, r) =>
      match N.run with
      | some u =>
        if !u.ended then s
        else
          let out := u.out ++ List.replicate (u.outLen - u.out.length) (0, false)
          let ps := (List.range ((out.length + 63) / 64)).map fun g => ((out.drop (64 * g)).take 64).any fun b => b.2
          s.runEnds ch t k c j (out.map fun b => b.1) ps u.flags
      | none => if r.out.isSome then s else s.runStarts ch t k c r

def execNmuRun (ch : Nat) (s : State) : Out := finish (s.nmuRunStep ch)

/-- A parity mismatch aborts the run before any of its writes (10 R299), with an entry in the tile's log (16
R435); the unit is held while its self-test runs, for at most 4,096 tc (R432). -/
def execNmuParityAbort (ch : Nat) (s : State) : Out :=
  let N := s.nmu ch
  match N.queue with
  | [] => finish s
  | (t, k, j) :: q =>
    let found := (FM.find? (s.tile t).ccmds k).bind fun c => (c.runs.find? fun r => r.unit == j && r.fail.isNone).map fun r => (c, r)
    match found with
    | none => finish (s.setNmu ch { N with run := none, queue := q })
    | some (c, _) =>
      if (c.out.isSome ∧ c.unit = j) ∨ N.test.isSome then finish s
      else
        let va := c.xAt j
        let s := s.setNmu ch { N with
          run := none, queue := q, aborts := N.aborts + 1, lastCtx := (s.tile t).ctx, lastAddr := va, test := some (t, s.tc + 4096) }
        let s := s.logError t (logWord 0x51 (originOf t 5) 0 3 0 0 ch)
        finish (s.setCcmd t k (c.setRun j fun r => { r with fail := some (0x51, va, false) }))

/-- A page of KVOUT or KVIN must carry the named key (10 R298). -/
def State.keyBad (s : State) (t : Nat) (c : CCmd) (va : Nat) : Bool :=
  match s.translate (s.tile t).ctx (tileCol t) va 2 0 with
  | .ok p => p.mkey != c.f 56 8
  | _ => false

/-- A unit of KVOUT: ciphertext as it stands in HBM to the host; poison that a sink permit lets through is not
carried (10 R298). -/
def State.kvoutRead (s : State) (t : Nat) (c : CCmd) (j : Nat) : URes × State :=
  let n := c.unitLen j
  let src := addrNat (c.xSrc j)
  let dst := addrNat (c.addr 1 40 + (4096 * j : Nat))
  match s.checkXlate t (c.cap 0).v 1 (c.xSrc j) n with
  | some x => (.xl x 0, s)
  | none =>
    match s.checkXlate t (c.cap 1).v 2 dst n with
    | some x => (.xl x 1, s)
    | none =>
      if s.keyBad t c src then (.xl (.fault 0x55 src) 0, s)
      else
        let s := s.flushRange t src n false []
        let gs := (List.range (n / 64)).map fun i =>
          match s.translate (s.tile t).ctx (tileCol t) (src + 64 * i) 2 0 with
          | .ok p => (s.bytes p.pa 64, (s.memEndRead p (src + 64 * i)).2)
          | _ => (List.replicate 64 0, false)
        match if c.sink then none else (List.zip (List.range gs.length) gs).find? fun ig => ig.2.2 with
        | some ig => (.xl (.fault 0x31 (src + 64 * ig.1)) 0, s)
        | none => (.data ⟨placed dst (gs.map fun g => (g.1, false)), false⟩, s)

/-- A unit of KVIN: ciphertext from the host, which is written into HBM clean. -/
def State.kvinRead (s : State) (t : Nat) (c : CCmd) (j : Nat) : URes × State :=
  let n := c.unitLen j
  let dst := addrNat (c.addr 1 40 + (4096 * j : Nat))
  match s.checkXlate t (c.cap 0).v 1 (c.xSrc j) n with
  | some x => (.xl x 0, s)
  | none =>
    match s.checkXlate t (c.cap 1).v 2 dst n with
    | some x => (.xl x 1, s)
    | none =>
      if s.keyBad t c dst then (.xl (.fault 0x55 dst) 0, s)
      else
        let (e, s) := s.hostError (c.cap 0)
        if e then (.xl (.fault 0x59 (addrNat (c.xSrc j))) 0, s)
        else
          let (gs, s) := s.readRange t 3 t (addrNat (c.xSrc j)) n
          (.data ⟨placed dst (gs.map fun g => (g.1, false)), false⟩, s)

end Sys2Proof.Machine
end

