-- ==== Sys2Proof/Machine/Bfill.lean ====
section
/-! DEFINITION. Sys2Proof/Machine/Bfill.lean: early exit and backfill (13 R350 to R367; 10 R296, R297): the key-value words at their units,
BFQ and BFCTL, the backfill engine of a column, and the step of a copy command. -/

namespace Sys2Proof.Machine

/-- Field of the backfill table of a context (13 R353). -/
def BfCtx.f (B : BfCtx) (o n : Nat) : Nat := leNat (cut B.table o n)
def BfCtx.entry (B : BfCtx) (l o n : Nat) : Nat := B.f (64 + 32 * l + o) n
def Col.bf (C : Col) (ctx : Nat) : BfCtx := FM.get BfCtx.empty C.bfCtx ctx
def State.updBf (s : State) (c ctx : Nat) (f : BfCtx → BfCtx) : State :=
  s.updCol c fun C => { C with bfCtx := FM.set C.bfCtx ctx (f (C.bf ctx)) }

/-- The limits of a table image (13 R353). -/
def tableOk (bs : List Nat) : Bool :=
  let f (o n : Nat) : Nat := leNat (cut bs o n)
  let zero (o n : Nat) : Bool := (cut bs o n).all fun b => b == 0
  let groups (o : Nat) : Bool :=
    let nk0 := f (o + 1) 1
    let nk1 := f (o + 3) 1
    decide (1 ≤ nk0) && decide (nk0 ≤ 8) && decide (nk1 ≤ 8) && nk0 + nk1 == f 1 1 && (nk1 != 0 || f (o + 2) 1 == 0)
  decide (1 ≤ f 0 1) && decide (f 0 1 ≤ 128) && bs.length == 64 + 32 * f 0 1 && decide (1 ≤ f 1 1) && decide (f 1 1 ≤ 16) &&
    decide (128 ≤ f 2 2) && decide (f 2 2 ≤ 16384) && f 2 2 % 128 == 0 && decide (f 4 1 ≤ 10) && zero 5 3 && f 8 8 % 4096 == 0 &&
    f 16 8 % 8 == 0 && zero 24 40 &&
    (List.range (f 0 1)).all fun l =>
      let o := 64 + 32 * l
      if f o 1 = 1 then
        decide (f (o + 1) 1 < 16) && decide (f (o + 2) 1 ≤ 10) && decide (f (o + 3) 1 ≤ 1) && groups (o + 4) && groups (o + 8) &&
          zero (o + 20) 12
      else zero o 32

/-- The 2-bit code of token `tok` in the map at `map`, with its poison (13 R352). -/
def State.code (s : State) (ctx col map tok : Nat) : Option (Nat × Bool) × State :=
  match s.devGet ctx col (map + tok / 4) 1 with
  | (some (bs, q), s) => (some (bs.headD 0 / 4 ^ (tok % 4) % 4, q), s)
  | (none, s) => (none, s)

/-- The indivisible update of a code at its home bank store. -/
def State.setCode (s : State) (ctx col map tok v : Nat) : State :=
  match s.devGet ctx col (map + tok / 4) 1 with
  | (some (bs, _), s) =>
    let b := bs.headD 0
    let w := 4 ^ (tok % 4)
    (s.devPut ctx col (map + tok / 4) [b - b / w % 4 * w + v * w] false).getD s
  | (none, s) => s

/-- BFQ (13 R361, R362). -/
def bfqHid (d : CDesc) (r : Nat) : Int := d.addr 0 32 + (r * d.f 112 4 : Nat)
def bfqTab (d : CDesc) (r : Nat) : Int := d.addr 2 96 + (r * d.f 124 4 : Nat)
def bfqMap (d : CDesc) (r : Nat) : Int := d.addr 3 104 + (r * d.f 120 4 : Nat)
def bfqRows (op : Nat) : Nat := opF op 24 4 + 1

def bfqTable (B : BfCtx) (d : CDesc) : Bool :=
  let op := d.f 56 8
  let e := opF op 0 8
  let f := opF op 8 8
  let g := opF op 16 8
  !B.table.isEmpty && decide (e < f) && decide (f ≤ g) && decide (g < B.f 0 1) &&
    ((List.range (g + 1 - f)).all fun i => B.entry (f + i) 0 1 == 1) &&
    d.f 112 4 % 64 == 0 && decide (512 * B.f 1 1 ≤ d.f 112 4) && d.f 116 4 == 0 && d.f 120 4 % 8 == 0 && d.f 124 4 % 4 == 0

def execBfq (h : Hdr) (rec desc img : Nat) (s : State) : Out :=
  let image (s : State) (t r : Nat) : List Nat := s.bytes (spBase t + 4096 * img + 256 * r) 8
  cpyWord h 0x13 0 rec desc [0, 1, 2, 3]
    (fun s t d =>
      let op := d.f 56 8
      let B := (s.col (tileCol t)).bf (s.tile t).ctx
      let bad := (List.range (4 * bfqRows op)).find? fun i => s.poisAt (spBase t + 4096 * img + 64 * i)
      firstOf ([d.need [dS, dD, dX, dY, dOp, dP] (decide (op < 2 ^ 30)),
        s.cpyCheck t (d.cap 1) [2] 2 64 (d.addr 1 40) 0, s.cpyKind t (d.cap 2) [2] 1 (d.addr 2 96),
        s.cpyKind t (d.cap 3) [2] 0x13 (d.addr 3 104), bad.map fun i => (0x31, some (4096 * img + 64 * i)),
        if bfqTable B d then none else d.bad] ++
        (List.range (bfqRows op)).map fun r => s.cpyCheck t (d.cap 0) [2] 1 64 (bfqHid d r) (512 * B.f 1 1)))
    (fun s t d c => { c with
      units := bfqRows (d.f 56 8), cls := 4 ||| 1
      ext := (List.range (bfqRows (d.f 56 8))).flatMap fun r => [leNat ((image s t r).take 4), leNat ((image s t r).drop 4)] }) s

/-- The descriptor of a command as it was read. -/
def CCmd.cdesc (c : CCmd) : CDesc := ⟨128 * c.desc, c.img, c.caps⟩

/-- The first failure among checks of a unit. -/
def firstXl : List (Option Xl) → Option Xl
  | [] => none
  | some x :: _ => some x
  | none :: xs => firstXl xs
def State.cpyCheckX (s : State) (t : Nat) (c : CReg) (spaces : List Nat) (perms align : Nat) (a : Int) (n : Nat) : Option Xl :=
  match s.cpyCheck t c spaces perms align a n with
  | some (cause, v) => some (.fault cause (v.getD 0))
  | none => s.checkXlate t c.v perms a n

/-- Entries of a column's request queue that are taken: those queued, and those that a unit of BFQ under way has
allocated (13 R363). -/
def State.bfTaken (s : State) (c : Nat) : Nat :=
  (s.col c).bfQueue.length + s.tiles.foldl (fun n T => if tileCol T.1 = c then
    n + (T.2.ccmds.filter fun k => k.2.op == 0x13 && k.2.list.isSome).length else n) 0

/-- A status update of BFQ: at system scope its line is written back (12 R343). -/
def State.bfqCode (s : State) (t col : Nat) (c : CCmd) (m tok v : Nat) : State :=
  let s := s.setCode (s.tile t).ctx col m tok v
  if c.scope = 3 then s.cpyFlush t (m + tok / 4) [] else s

/-- A step of a unit of BFQ (13 R363): its checks and its entry; then one layer's status after another, which
`list` keeps; then the request. A slot that is not VALID ends the unit, with what it set returned. -/
def State.bfqStep (s : State) (t k : Nat) (c : CCmd) : State :=
  let r := c.unit
  let col := tileCol t
  let ctx := (s.tile t).ctx
  let C := s.col col
  let B := C.bf ctx
  let d := c.cdesc
  let op := d.f 56 8
  let tok := c.ext.getD (2 * r + 1) 0
  let f := opF op 8 8
  let g := opF op 16 8
  let maps := (List.range (g + 1 - f)).map fun i => bfqMap d r + ((f + i) * B.f 16 8 : Nat)
  let hid := addrNat (bfqHid d r)
  if c.ext.getD (2 * r) 0 = 0 then s.setCcmd t k { c with unit := r + 1 }
  else match c.list with
    | none =>
      let checks := (maps.map fun m => s.cpyCheckX t (d.cap 3) [2] 0x13 8 (m + (tok / 32 * 8 : Nat)) 8) ++
        [s.checkXlate t (d.cap 0).v 1 (bfqHid d r) (512 * B.f 1 1),
          s.cpyCheckX t (d.cap 2) [2] 1 4 (bfqTab d r + (4 * (tok / 2 ^ B.f 4 1) : Nat)) 4]
      match firstXl checks with
      | some x => s.cpyXl t k c x 2
      | none =>
        if 256 ≤ s.bfTaken col then s
        else
          let s := if isRel c.order && c.scope == 3 then s.releaseSystem ctx else s
          (s.flushRange t hid (512 * B.f 1 1) false []).setCcmd t k { c with list := some [] }
    | some done =>
      match (maps.drop done.length).head? with
      | some m =>
        match s.code ctx col (addrNat m) tok with
        | (some (0, _), s) => (s.bfqCode t col c (addrNat m) tok 1).setCcmd t k { c with list := some ((addrNat m, false) :: done) }
        | (_, s) => (done.foldl (fun s m => s.bfqCode t col c m.1 tok 0) s).cpyFault t k { c with list := none } 0x54 (addrNat m + tok / 4)
      | none =>
        let q : BfReq := {
          ctx := ctx, state := 1, prio := opF op 28 2, boosted := false, e := opF op 0 8, f := f, g := g, next := f
          origin := originOf t 5, t := tok, row := r, hid := hid, tab := addrNat (bfqTab d r), map := addrNat (bfqMap d r)
          pool := addrNat (d.addr 1 40), enq := C.bfEnq }
        (s.updCol col fun C => { C with bfQueue := C.bfQueue ++ [q], bfEnq := C.bfEnq + 1 }).setCcmd t k
          { c with unit := r + 1, list := none }

/-- BFCTL (13 R365): the words enter the copy engine's commands. -/
def execBfctlLoad (h : Hdr) (rec desc : Nat) (s : State) : Out :=
  cpyWord h 0x14 0 rec desc [0]
    (fun s t d => firstOf [d.need [dS, dLen] true,
      if 96 ≤ d.f 48 8 ∧ d.f 48 8 ≤ 64 + 32 * 128 ∧ d.f 48 8 % 32 = 0 then none else d.bad,
      s.cpyCheck t (d.cap 0) [2] 1 64 (d.addr 0 32) (d.f 48 8)])
    (fun _ _ _ c => { c with cls := 4 }) s

/-- A queued request in the layout of 13 R354. -/
def BfReq.toBytes (q : BfReq) : List Nat :=
  [q.state, q.prio + bit q.boosted 7, q.e, q.f, q.g, q.next] ++ natLe 2 q.origin ++ natLe 4 q.t ++ natLe 4 q.row ++ natLe 8 q.hid ++
    natLe 8 q.tab ++ natLe 8 q.map ++ natLe 8 q.pool ++ natLe 8 q.enq ++ List.replicate 8 0

/-- The record of BFCTL.STAT (13 R366). -/
def Col.bfRecord (C : Col) (ctx : Nat) : List Nat :=
  let B := C.bf ctx
  let qs := C.bfQueue.filter fun q => q.ctx == ctx
  let bs := [bit B.paused 0, bit (!B.table.isEmpty) 0] ++ natLe 2 qs.length ++ natLe 4 0 ++ natLe 8 B.completed ++ natLe 4 B.aborted ++
    [B.cause, B.layer, 0, 0] ++ natLe 4 B.token ++ natLe 4 B.sats ++ List.replicate 32 0 ++ (qs.take 63).flatMap BfReq.toBytes
  bs ++ List.replicate (4096 - bs.length) 0

/-- A word without descriptor: `mk` completes the command. -/
def bfctlWord (sub : Nat) (h : Hdr) (rec : Nat) (mk : State → Nat → CCmd → CCmd) (s : State) : Out :=
  cpyDec rec false s (engIssue h s { EngChecks.none with busy := copyFull } fun t sig s' =>
    s'.startCopy t (mk s t (CCmd.new h t 0x14 sub rec sig 0 ⟨0, [], []⟩ [] ((s'.tile t).engine 5).group)))

def execBfctlStat (h : Hdr) (rec dst : Nat) (s : State) : Out :=
  bfctlWord 1 h rec (fun s t c => { c with img := (s.col (tileCol t)).bfRecord (s.tile t).ctx, ext := [dst], cls := 2 }) s
def execBfctlDrain (h : Hdr) (rec : Nat) (s : State) : Out := bfctlWord 2 h rec (fun _ _ c => c) s
def execBfctlPause (h : Hdr) (rec : Nat) (s : State) : Out := bfctlWord 3 h rec (fun _ _ c => c) s
def execBfctlRun (h : Hdr) (rec : Nat) (s : State) : Out := bfctlWord 4 h rec (fun _ _ c => c) s

/-- LOAD reads, checks and installs the image once the context has no request (13 R365). -/
def State.loadTable (s : State) (t k : Nat) (c : CCmd) : State :=
  let col := tileCol t
  let ctx := (s.tile t).ctx
  let a := addrNat (c.addr 0 32)
  let n := c.f 48 8
  if (s.col col).bfQueue.any fun q => q.ctx == ctx then s
  else match s.checkXlate t (c.cap 0).v 1 (c.addr 0 32) n with
    | some x => s.cpyXl t k c x 0
    | none =>
      let (gs, s) := s.readRange t 2 t a n
      match (List.zip (List.range gs.length) gs).find? fun ig => ig.2.2 with
      | some ig => s.cpyFault t k c 0x31 (a + 64 * ig.1)
      | none =>
        let bs := gs.flatMap fun g => g.1
        if !tableOk bs then s.cpyFault t k c 0x50 (128 * c.desc)
        else
          (s.updBf col ctx fun B => { B with table := bs, completed := 0, aborted := 0, sats := 0 }).setCcmd
            t k { c with unit := 1 }

/-- A step of a BFCTL command. DRAIN notes the requests queued as it takes effect in `wait`, and `sub` 5 marks
it as having done so. -/
def State.bfctlStep (s : State) (t k : Nat) (c : CCmd) : State :=
  let col := tileCol t
  let ctx := (s.tile t).ctx
  let mine := ((s.col col).bfQueue.filter fun q => q.ctx == ctx).map fun q => q.enq
  match c.sub with
  | 0 => s.loadTable t k c
  | 1 => s.setCcmd t k { c with out := some ⟨placed (4096 * c.ext.headD 0) (toGranules c.img []), [], c.img.length, true⟩ }
  | 2 => s.setCcmd t k { c with sub := 5, wait := mine }
  | 3 => (s.updBf col ctx fun B => { B with paused := true }).setCcmd t k { c with unit := 1 }
  | 4 => (s.updBf col ctx fun B => { B with paused := false }).setCcmd t k { c with unit := 1 }
  | _ => if c.wait.any fun e => mine.contains e then s else s.setCcmd t k { c with unit := 1 }

/-- The order among backfill words of one engine (13 R364): BFQ after earlier BFQs and BFCTLs that have not
taken effect, and BFCTL words other than LOAD among themselves. -/
def Tile.bfBlocked (T : Tile) (c : CCmd) : Bool :=
  T.ccmds.any fun ke =>
    let e := ke.2
    decide (e.seq < c.seq) && e.phase == 0 && decide (e.unit < e.units) &&
      (if c.op = 0x13 then e.op == 0x13 || (e.op == 0x14 && e.sub != 5 && e.sub != 1)
       else c.op == 0x14 && decide (2 ≤ c.sub) && c.sub != 5 && e.op == 0x14 && decide (2 ≤ e.sub) && e.sub != 5)

/-- The rows and tokens of KVG and KVST: unit `j` is a token of a row (10 R296). -/
structure KvUnit where
  row : Nat
  tok : Nat
  map : Int
  ent : Int
  slot : Int
def CCmd.kv (c : CCmd) (j : Nat) : KvUnit :=
  let d := c.cdesc
  let op := d.f 56 8
  let r := j / kvN op
  let tok := d.kvT0 + j % kvN op
  ⟨r, tok, d.addr 3 104 + (r * d.f 120 4 + tok / 4 : Nat), d.addr 2 96 + (r * d.f 116 2 + 4 * (tok / 2 ^ kvTpb op) : Nat),
    (j * kvTb op : Nat)⟩

/-- The bytes of a capability's space at an address with their poison, or what keeps the read from them. -/
def State.capRead (s : State) (t : Nat) (cap : CReg) (a : Int) (n : Nat) : Except Xl (List (List Nat × Bool)) × State :=
  match s.checkXlate t cap.v 1 a n with
  | some x => (.error x, s)
  | none =>
    let (gs, s) := s.readRange t (capSpace cap.v) (capUnit cap.v t) (addrNat a) n
    (.ok gs, s)

/-- A KVG under WAIT boosts the requests that cover its slot, in every column (13 R355). -/
def State.boost (s : State) (ctx tok map : Nat) : State :=
  (List.range 16).foldl (fun s c => s.updCol c fun C =>
    { C with bfQueue := C.bfQueue.map fun q =>
      let covers := (List.range (q.g + 1 - q.f)).any fun i => q.map + (q.f + i) * (C.bf ctx).f 16 8 == map
      if q.ctx = ctx ∧ q.t = tok ∧ covers then { q with boosted := true } else q }) s

/-- Where a token's bytes stand in its pool, through its block-table entry: none where the entry is absent (10
R296). -/
def CCmd.kvAddr (c : CCmd) (j cap off b : Nat) : Int :=
  let op := c.f 56 8
  c.addr cap off + (b * kvTb op * 2 ^ kvTpb op + (c.kv j).tok % 2 ^ kvTpb op * kvTb op : Nat)

/-- The block-table entry of a unit with its poison: an entry of all ones faults. -/
def State.kvEntry (s : State) (t : Nat) (c : CCmd) (j : Nat) : Except Xl (Nat × Bool) × State :=
  match s.capRead t (c.cap 2) (c.kv j).ent 4 with
  | (.error x, s) => (.error x, s)
  | (.ok gs, s) =>
    let b := leNat (gs.flatMap fun g => g.1)
    (if b = 0xFFFFFFFF then .error (.fault 0x54 (addrNat (c.kv j).ent)) else .ok (b, gs.any fun g => g.2), s)

def zeroGranules (n : Nat) (q : Bool) : List (List Nat × Bool) := List.replicate (n / 64) (List.replicate 64 0, q)

/-- The read of a unit of KVG (10 R297): its status, its entry, its bytes. -/
def State.kvgRead (s : State) (t : Nat) (c : CCmd) (j : Nat) : URes × State :=
  let u := c.kv j
  let tb := kvTb (c.f 56 8)
  let dst := addrNat (c.addr 1 40 + u.slot)
  match s.capRead t (c.cap 3) u.map 1 with
  | (.error x, s) => (.xl x 0, s)
  | (.ok gs, s) =>
    let code := leNat (gs.flatMap fun g => g.1) / 4 ^ (u.tok % 4) % 4
    if gs.any fun g => g.2 then (.data ⟨placed dst (zeroGranules tb true), false⟩, s)
    else if code = 3 then (.xl (.fault 0x54 (addrNat u.map)) 0, s)
    else if code = 1 then
      if c.sub = 1 then (.data ⟨placed dst (zeroGranules tb false), true⟩, s)
      else (.wait, s.boost (s.tile t).ctx u.tok (addrNat (u.map - (u.tok / 4 : Nat))))
    else match s.kvEntry t c j with
      | (.error x, s) => (.xl x 0, s)
      | (.ok (b, q), s) =>
        let src := c.kvAddr j 0 32 b
        match s.cpyCheck t (c.cap 0) [2] 1 64 src tb with
        | some (cause, v) => (.xl (.fault cause (v.getD 0)) 0, s)
        | none => match s.capRead t (c.cap 0) src tb with
          | (.error x, s) => (.xl x 0, s)
          | (.ok gs, s) => (.data ⟨placed dst (gs.map fun g => (g.1, g.2 || q)), false⟩, s)

/-- The read of a unit of KVST (13 R367): its status and entry, which give its address, and its bytes. -/
def State.kvstRead (s : State) (t : Nat) (c : CCmd) (j : Nat) : URes × State :=
  let u := c.kv j
  let tb := kvTb (c.f 56 8)
  match s.capRead t (c.cap 3) u.map 1 with
  | (.error x, s) => (.xl x 0, s)
  | (.ok gs, s) =>
    if leNat (gs.flatMap fun g => g.1) / 4 ^ (u.tok % 4) % 4 ≠ 0 then (.xl (.fault 0x54 (addrNat u.map)) 0, s)
    else match s.kvEntry t c j with
      | (.error x, s) => (.xl x 0, s)
      | (.ok (b, q), s) =>
        let q := q || gs.any fun g => g.2
        let dst := c.kvAddr j 1 40 b
        match s.cpyCheck t (c.cap 1) [2] 2 64 dst tb with
        | some (cause, v) => (.xl (.fault cause (v.getD 0)) 0, s)
        | none => match s.capRead t (c.cap 0) (c.addr 0 32 + u.slot) tb with
          | (.error x, s) => (.xl x 0, s)
          | (.ok gs, s) => (.data ⟨placed (addrNat dst) (gs.map fun g => (g.1, g.2 || q)), false⟩, s)

/-- The units of a command are done: KVG under MASK writes its bitmap, which `list` notes; then the record falls
due (10 R278, R297). -/
def State.unitsDone (s : State) (t k : Nat) (c : CCmd) : State :=
  if c.op = 0xF ∧ c.sub = 1 ∧ c.list.isNone then
    if (s.tile t).copyHeld c 2 then s
    else
      let bs := (List.range (kvRows (c.f 56 8))).flatMap fun r => natLe 128 (FM.get 0 c.bitmap r)
      s.setCcmd t k { c with list := some [], out := some ⟨placed (c.f 120 8 / 2 ^ 32) (toGranules bs []), [], bs.length, false⟩ }
  else s.cpyEnd t k c

/-- SBAR and CDRAIN send their signal when no command that they await is in flight; at system scope what was
written before has then reached HBM (10 R284, R285; 02 R32). -/
def State.drainStep (s : State) (t k : Nat) (c : CCmd) : State :=
  if (s.tile t).ccmds.any fun ke => c.wait.contains ke.2.seq then s
  else (if c.op = 7 ∧ c.scope = 3 then s.releaseSystem (s.tile t).ctx else s).cpySignal t k c

/-- Work on the first unfinished unit of a command. -/
def State.unitStep (s : State) (t k : Nat) (c : CCmd) : State :=
  let held := (s.tile t).copyHeld c (c.readCls ||| c.writeCls)
  match c.op with
  | 5 => s.cpyxStep t k c
  | 8 => if held then s else s.prefetchStep t k c
  | 9 => if held then s else s.checksumStep t k c
  | 0xD => if held then s else s.nmuldStep t k c
  | 0xF => s.pipeStep State.kvgRead t k c
  | 0x10 => s.pipeStep State.kvoutRead t k c
  | 0x11 => s.pipeStep State.kvinRead t k c
  | 0x12 => s.pipeStep State.kvstRead t k c
  | 0x13 => if held then s else s.bfqStep t k c
  | 0x14 => if held then s else s.bfctlStep t k c
  | _ => s.moveStep t k c

/-- The turn of a copy command (10 R281): its signal, its record, the writes under way, its end, or work on its
first unfinished unit. -/
def State.copyStep (s : State) (t k : Nat) (c : CCmd) : State :=
  match c.phase with
  | 3 => s
  | 2 => s.cpySignal t k c
  | 1 => s.cpyRecord t k c
  | _ =>
    if c.op = 7 ∨ c.op = 0xC then s.drainStep t k c
    else match c.out with
      | some o => s.outStep t k c o false
      | none =>
        if (s.tile t).bfBlocked c then s
        else if c.units ≤ c.unit then s.unitsDone t k c
        else s.unitStep t k c

def execCopyUnit (t k : Nat) (s : State) : Out :=
  match FM.find? (s.tile t).ccmds k with
  | some c => finish (s.copyStep t k c)
  | none => finish s

/-- At a stop a command completes the unit whose writes have begun and gives up what it has read ahead and its
runs (10 R283). -/
def State.stopCopy (s : State) (t k : Nat) : State :=
  let s := match FM.find? (s.tile t).ccmds k with
    | some c => match c.out with
      | some o => s.outStep t k c o true
      | none => (List.range 130).foldl (fun s _ =>
        match FM.find? (s.tile t).ccmds k with
        | some c => if c.phase = 0 ∧ c.op = 0x13 ∧ c.list.isSome then s.bfqStep t k c else s
        | none => s) s
    | none => s
  s.updTile t fun T => { T with ccmds := T.ccmds.map fun (x : Nat × CCmd) => if x.1 = k then (x.1, { x.2 with ahead := [], runs := [] }) else x }

/-- The place of a request in the order of 13 R355. -/
def BfReq.rank (q : BfReq) : Nat × Nat × Nat := (if q.boosted then 0 else 1, 3 - q.prio, q.enq)
def rankLt (a b : Nat × Nat × Nat) : Bool :=
  decide (a.1 < b.1) || (a.1 == b.1 && (decide (a.2.1 < b.2.1) || (a.2.1 == b.2.1 && decide (a.2.2 < b.2.2))))
def insertReq (q : BfReq) : List BfReq → List BfReq
  | [] => [q]
  | r :: rs => if rankLt q.rank r.rank then q :: r :: rs else r :: insertReq q rs

/-- The members of the next batch (13 R355). -/
def Col.nextBatch (C : Col) : List BfReq :=
  let es := (C.bfQueue.filter fun q => q.boosted || !(C.bf q.ctx).paused).foldl (fun l q => insertReq q l) []
  match es with
  | [] => []
  | q :: _ => (es.filter fun r => r.ctx == q.ctx && r.next == q.next).take 16

/-- The place of a layer: its tile, its groups as (first, nk) pairs of K and V, and its route field. -/
def BfCtx.tileOf (B : BfCtx) (l : Nat) : Nat := tileAt (B.entry l 2 1) (B.entry l 1 1)
def BfCtx.group (B : BfCtx) (l p g : Nat) : Nat × Nat := (B.entry l (4 + 4 * p + 2 * g) 1, B.entry l (5 + 4 * p + 2 * g) 1)

/-- The chains of projection `p` at output block `n`: arrays with the chunk that each takes (13 R356). -/
def BfCtx.chain (B : BfCtx) (l p n : Nat) : List (Nat × Nat) :=
  [0, 1].flatMap fun g =>
    let (first, nk) := B.group l p g
    (List.range nk).map fun kk => (first + kk + nk * n, kk + (if g = 1 then (B.group l p 0).2 else 0))

/-- Columns of a projection; the chains of a layer at blocks of `wd` columns, its arrays, and the chunks that an
array takes. -/
def BfCtx.width (B : BfCtx) : Nat := B.f 2 2 / 2
def BfCtx.chains (B : BfCtx) (l wd : Nat) : List (Nat × Nat) :=
  (List.range 2).flatMap fun p => (List.range (B.width / wd)).flatMap fun n => B.chain l p n
def BfCtx.arrays (B : BfCtx) (l wd : Nat) : List Nat := ((B.chains l wd).map fun ac => ac.1).eraseDups
def BfCtx.chunks (B : BfCtx) (l wd a : Nat) : List Nat := (((B.chains l wd).filter fun ac => ac.1 == a).map fun ac => ac.2).eraseDups

/-- An abort of a request (13 R358): the slots from layer `l` on that hold PENDING become FAILED, the request
leaves, and the record notes it. -/
def State.bfAbort (s : State) (c : Nat) (q : BfReq) (l cause : Nat) : State :=
  let ms := (s.col c).bf q.ctx |>.f 16 8
  let s := (List.range (q.g + 1 - l)).foldl (fun s i =>
    let map := q.map + (l + i) * ms
    match s.code q.ctx c map q.t with
    | (some (1, _), s) => s.setCode q.ctx c map q.t 3
    | (_, s) => s) s
  (s.updCol c fun C => { C with bfQueue := C.bfQueue.filter fun r => r.enq != q.enq }).updBf c q.ctx fun B =>
    { B with aborted := B.aborted + 1, cause := cause, layer := l, token := q.t }

/-- What keeps a layer from starting, for all members: an abort cause (13 R358). -/
def State.layerBad (s : State) (ctx t wd : Nat) (B : BfCtx) (as : List Nat) : Option Nat :=
  let T := s.tile t
  if !(s.context ctx).granted t || B.width % wd != 0 || as.any (fun a => decide (160 ≤ a)) ||
      as.any (fun a => (T.array a).enc != (T.array (as.headD 0)).enc || depthRows (T.array a).depth != 512) then some 0x41
  else if as.any fun a => (T.array a).foreign ctx then some 0x43
  else none

def routesOf (T : Tile) (field : Nat) : List Nat → Except Nat (List Nat)
  | [] => .ok []
  | a :: as =>
    match (T.array a).route field with
    | .error cause => .error cause
    | .ok r => match routesOf T field as with
      | .ok rs => .ok (r :: rs)
      | e => e

/-- The hidden states of the members as the memory end holds them: those read, the members that fault, or a held
address. -/
def State.hidden (s : State) (c n : Nat) : List BfReq → Except (Nat × Nat) (List (Nat × List Nat × Bool) × List (BfReq × Nat))
  | [] => .ok ([], [])
  | q :: qs =>
    match s.translateRange q.ctx c q.hid n 2 1 with
    | some (.held i va) => .error (i, va)
    | some (.fault cause _) => (s.hidden c n qs).map fun r => (r.1, (q, cause) :: r.2)
    | _ =>
      let gs := (List.range (n / 64)).map fun i =>
        match s.translate q.ctx c (q.hid + 64 * i) 2 1 with
        | .ok p => s.memEndRead p (q.hid + 64 * i)
        | _ => (List.replicate 64 0, false)
      (s.hidden c n qs).map fun r => ((q.enq, gs.flatMap (fun g => g.1), gs.any fun g => g.2) :: r.1, r.2)

/-- Array work that no task asked for: a backfill operation on array `a`; `fit` marks the digital route, whose
work ends with the layer. -/
def CalW.backfill (a now cc : Nat) (digital : Bool) : CalW :=
  { op := calBackfill, vs := [], array := a, from' := 0, started := some now, cc := cc, row := 0, pulses := 0, col := none, misses := [],
    remaps := 0, img := [], fit := digital, sig := 0, grp := [] }

/-- A held translation of the backfill engine (13 R358). -/
def State.bfHold (s : State) (c ctx va kind entry : Nat) : State := s.holdAccess c .backfill ctx va kind (originCol c 2) entry

/-- A batch starts (13 R355, R356, R360): its routes are resolved, its operations counted, its hidden states
read. An array works once over the vectors that it takes of the members, its chunks (log entry 61). -/
def State.batchStart (s : State) (c : Nat) : State :=
  let C := s.col c
  match C.nextBatch with
  | [] => s
  | q :: qs =>
    let ms := q :: qs
    let l := q.next
    let B := C.bf q.ctx
    let t := B.tileOf l
    let T := s.tile t
    let wd := xwidth (T.array (B.group l 0 0).1).enc
    let as := B.arrays l wd
    let abort (cause : Nat) : State := ms.foldl (fun s q => s.bfAbort c q l cause) s
    let urgent := ms.any fun q => q.boosted || q.prio == 3
    if C.batch.isSome then s
    else match s.layerBad q.ctx t wd B as with
      | some cause => abort cause
      | none =>
        if as.any (fun a => T.arrayBusy s.tc a || (!urgent && T.arrayAwaited s.nextId a)) || !(s.col (tileCol t)).holders.isEmpty then s
        else match routesOf T (B.entry l 3 1) as with
          | .error cause => abort cause
          | .ok routes =>
            match s.hidden c (512 * B.f 1 1) ms with
            | .error (i, va) => s.bfHold c q.ctx va 0 i
            | .ok (_, b :: bs) => (b :: bs).foldl (fun s qc => s.bfAbort c qc.1 l qc.2) s
            | .ok (inputs, []) =>
              let certs := as.map fun a => ((T.array a).cert.ebank, (T.array a).cert.serial)
              let chunks (a : Nat) : Nat := (B.chunks l wd a).length
              let slots := (List.zip as routes).foldl (fun n ar => if ar.2 = 1 then n + chunks ar.1 * (T.array ar.1).digitalSlots else n) 0
              let cc (a : Nat) : Nat := (1152 * ms.length * chunks a + 4) / 5
              let (due, s) := s.countOps t as routes
              let s := (List.zip as routes).foldl (fun s ar =>
                { s with nextId := s.nextId + 1 }.setCal t s.nextId (.backfill ar.1 s.tc (cc ar.1) (ar.2 == 1))) s
              let b : Batch := {
                members := ms.map fun q => q.enq, layer := l, tile := t, arrays := as, routes := routes, certs := certs
                endAt := s.tc + as.foldl (fun m a => max m (cc a)) 0 + 6, slots := slots, audits := due, inputs := inputs, outs := []
                auditFrom := s.tc + as.foldl (fun m a => max m (cc a)) 0
                snaps := as.map fun a => (a, T.array a), vals := [], poisoned := [], mismatch := false, addr := none, todo := [] }
              s.updCol c fun C => { C with
                batch := some b
                bfQueue := C.bfQueue.map fun q => if b.members.contains q.enq then { q with state := 2 } else q }

def execBackfillBatch (c : Nat) (s : State) : Out := finish (s.batchStart c)

/-- An array as the batch's work found it, its certified bound and the serial of its certificate; the key of a
value. -/
def Batch.array (b : Batch) (a : Nat) : XArray := FM.get XArray.fresh b.snaps a
def Batch.cert (b : Batch) (a : Nat) : Nat × Nat := ((List.zip b.arrays b.certs).find? fun ac => ac.1 == a).elim (0, 0) fun ac => ac.2
def batchKey (m a chunk : Nat) : Nat := (256 * m + a) * 16 + chunk

/-- The work of a layer: the chunks of each array, and the members' inputs by number. -/
def Batch.vectors (b : Batch) (B : BfCtx) (a : Nat) : List (Nat × Nat × List Nat) :=
  (List.zip (List.range b.inputs.length) b.inputs).flatMap fun mi =>
    (B.chunks b.layer (xwidth (b.array a).enc) a).map fun ch => (batchKey mi.1 a ch, ch, cut mi.2.2.1 (512 * ch) 512)

/-- The values of every array of a batch for every member and chunk, by its route; clip bits as an analogue
operation sets them. -/
def State.batchValues (s : State) (b : Batch) (B : BfCtx) (shs : FM Shadow) : FM (List Int) × State :=
  (List.zip b.arrays b.routes).foldl (fun (o : FM (List Int) × State) ar => (b.vectors B ar.1).foldl (fun (o : FM (List Int) × State) v =>
    let A := b.array ar.1
    if ar.2 = 1 then
      (FM.set o.1 v.1 ((List.range (xwidth A.enc)).map fun j => A.digital (FM.get ([], false) shs ar.1).1 v.2.2 j), o.2)
    else
      let (r, s) := o.2.arrayOut A ar.2 (b.cert ar.1).1 v.2.2
      (FM.set o.1 v.1 r.1, s.updTile b.tile fun T => { T with clip := FM.set T.clip ar.1 (FM.get 0 T.clip ar.1 ||| r.2) })) o) ([], s)

/-- The array work of a batch has ended (13 R356): its values, and the arrays that poison what they contribute
to, those with a poisoned or malformed shadow copy (09 R271) and, after a mismatch of a checker, those of the
digital route (08 R242). -/
def State.batchValued (s : State) (c ctx : Nat) (b : Batch) : Except Xl Batch × State :=
  let digital := ((List.zip b.arrays b.routes).filter fun ar => ar.2 == 1).map fun ar => ar.1
  match s.shadowsOf ctx c b.tile digital with
  | (.error x, s) => (.error x, s)
  | (.ok shs, s) =>
    let (vals, s) := s.batchValues b ((s.col c).bf ctx) shs
    let bad := digital.filter fun a =>
      let sh := FM.get ([], false) shs a
      sh.2 || b.mismatch || (List.range (xwidth (b.array a).enc)).any fun j => (b.array a).badScale sh.1 j
    (.ok { b with vals := vals, poisoned := bad }, s.updTile b.tile fun T => { T with
      xcal := T.xcal.filter fun w => !(w.2.op == calBackfill && b.arrays.contains w.2.array) })

/-- An audit of a batch's operation on array `a` (08 R245): a mismatch lapses the certificate, and the array
then poisons what it contributes to; an image that reads poisoned does neither. -/
def State.batchAudit (s : State) (c ctx : Nat) (b : Batch) (a : Nat) : Except Xl Batch × State :=
  let A := b.array a
  let B := (s.col c).bf ctx
  match s.devRead ctx c (A.image.getD 0) (256 * depthRows A.depth) with
  | (.error x, s) => (.error x, s)
  | (.ok (img, ps), s) =>
    let rest := { b with audits := b.audits.filter fun x => x != a }
    if ps.any id then (.ok rest, s)
    else
      let (e, serial) := b.cert a
      let differs := (b.vectors B a).any fun v => (List.range (xwidth A.enc)).any fun j =>
        decide ((e : Int) < ((FM.get [] b.vals v.1).getD j 0 - A.idealOf img v.2.2 j).natAbs)
      (.ok (if differs then { rest with poisoned := a :: rest.poisoned } else rest), s.updArray b.tile a fun A =>
        let A := { A with audits := A.audits + 1, amis := if differs then A.amis + 1 else A.amis }
        if differs && A.cert.serial == serial then A.lapse 4 else A)

/-- The E4M3 byte of a total: converted to FP32, scaled, converted (13 R356), and whether the conversion saturated. -/
def bfByte (scale : Nat) (tot : Int) : Nat × Bool :=
  let y := max (-(2 ^ 31)) (min (2 ^ 31 - 1) tot)
  let f := (fp32.write 0 false (.ofInt y)).1
  let p := (fp32.fit 0 false (fMul (fp32.read f) (fp32.read scale))).1
  let (b, fl) := e4m3.write 0 true (fp32.read p)
  (b, fl &&& fSA != 0)

/-- The outputs of a batch once its audits have ended (13 R356). -/
def State.batchOuts (s : State) (c ctx : Nat) (b : Batch) : State :=
  let B := (s.col c).bf ctx
  let l := b.layer
  let wd := xwidth (b.array (b.arrays.headD 0)).enc
  let row (m : Nat × Nat × List Nat × Bool) : Nat × List (Nat × Bool) × List Bool :=
    let out (p j : Nat) : Nat × Bool :=
      bfByte (B.entry l (if p = 0 then 12 else 16) 4)
        (sumMap (fun (ac : Nat × Nat) => (FM.get [] b.vals (batchKey m.1 ac.1 ac.2)).getD (j % wd) 0) (B.chain l p (j / wd)))
    let bytes := (List.range 2).flatMap fun p => (List.range B.width).map fun j => out p j
    let ps := (List.range 2).flatMap fun p => (List.range (B.width / 64)).map fun g =>
      m.2.2.2 || (B.chain l p (64 * g / wd)).any fun ac => b.poisoned.contains ac.1
    (m.2.1, bytes, ps)
  let rows := (List.zip (List.range b.inputs.length) b.inputs).map row
  let sats := rows.foldl (fun n r => n + (r.2.1.filter fun x => x.2).length) 0
  (s.updBf c ctx fun B => { B with sats := B.sats + sats }).updCol c fun C => { C with
    batch := some { b with outs := rows.map fun r => (r.1, r.2.1.map (fun x => x.1), r.2.2) } }

/-- The batch goes on to its next member, or ends. -/
def State.bfNext (s : State) (c : Nat) (b : Batch) : State :=
  s.updCol c fun C => { C with
    batch := if b.members.length ≤ 1 then none else some { b with members := b.members.drop 1, addr := none, todo := [] } }

/-- Where the entry of a member's token stands at a layer (13 R357): the block-table entry, and the pool's
address for block `e`. -/
def BfReq.ent (q : BfReq) (B : BfCtx) : Nat := q.tab + 4 * (q.t / 2 ^ B.f 4 1)
def BfReq.dst (q : BfReq) (B : BfCtx) (l e : Nat) : Nat := q.pool + l * B.f 8 8 + e * B.f 2 2 * 2 ^ B.f 4 1 + q.t % 2 ^ B.f 4 1 * B.f 2 2
def BfReq.mapAt (q : BfReq) (B : BfCtx) (l : Nat) : Nat := q.map + l * B.f 16 8

/-- The code of the layer moves from PENDING to FILLED, and the request to its next layer or out of the queue;
any other code aborts it. -/
def State.bfFill (s : State) (c : Nat) (q : BfReq) (l : Nat) : State :=
  let map := q.mapAt ((s.col c).bf q.ctx) l
  match s.code q.ctx c map q.t with
  | (some (1, _), s) =>
    let s := s.setCode q.ctx c map q.t 2
    if l = q.g then
      (s.updCol c fun C => { C with bfQueue := C.bfQueue.filter fun r => r.enq != q.enq }).updBf c q.ctx fun B =>
        { B with completed := B.completed + 1 }
    else s.updCol c fun C => { C with
      bfQueue := C.bfQueue.map fun r => if r.enq = q.enq then { r with next := l + 1, state := 1 } else r }
  | (_, s) => s.bfAbort c q l 0x54

/-- A step of the first member's completion (13 R357): its block-table entry is read; any of its granules are
written; its code moves. A translation that fails aborts the request or holds the layer. -/
def State.bfMember (s : State) (c : Nat) (b : Batch) (q : BfReq) (bytes : List Nat) (ps : List Bool) : State :=
  let B := (s.col c).bf q.ctx
  let l := b.layer
  let stop (x : Xl) (kind : Nat) : State :=
    match x with
    | .held i va => s.bfHold c q.ctx va kind i
    | .fault cause _ => (s.bfAbort c q l cause).bfNext c b
    | .ok _ => s
  match b.addr with
  | none =>
    match s.translateRange q.ctx c (q.ent B) 4 2 1 with
    | some x => stop x 0
    | none =>
      match s.devGet q.ctx c (q.ent B) 4 with
      | (none, s) => s
      | (some (eb, ep), s) =>
        if leNat eb = 0xFFFFFFFF then (s.bfAbort c q l 0x54).bfNext c b
        else s.updCol c fun C => { C with batch := some { b with addr := some (q.dst B l (leNat eb), ep), todo := List.range (B.f 2 2 / 64) } }
  | some (a, ep) =>
    match b.todo with
    | [] =>
      match s.translateRange q.ctx c (q.mapAt B l + q.t / 4) 1 2 3 with
      | some x => stop x 2
      | none => (s.bfFill c q l).bfNext c b
    | todo =>
      match s.translateRange q.ctx c a (B.f 2 2) 2 2 with
      | some x => stop x 1
      | none =>
        let (n, s) := takeFree s
        let s := todo.foldl (fun s i =>
          match n / 2 ^ i % 2, s.translate q.ctx c (a + 64 * i) 2 2 with
          | 1, .ok p => (s.beyond p.pa).memEndLine p (a + 64 * i) (cut bytes (64 * i) 64) (ep || ps.getD i false)
          | _, _ => s) s
        s.updCol c fun C => { C with batch := some { b with todo := todo.filter fun i => n / 2 ^ i % 2 != 1 } }

/-- A batch whose context has left is abandoned: its requests are as before its layer, their slots PENDING (13
R359; log entry 61). -/
def State.bfAbandon (s : State) (c : Nat) (b : Batch) : State :=
  (s.updTile b.tile fun T => { T with
    xcal := T.xcal.filter fun w => !(w.2.op == calBackfill && b.arrays.contains w.2.array) }).updCol c fun C => { C with
      batch := none, bfQueue := C.bfQueue.map fun q => if b.members.contains q.enq then { q with state := 1 } else q }

/-- The context that a batch works for. -/
def State.batchCtx (s : State) (c : Nat) (b : Batch) : Option Nat :=
  ((s.col c).bfQueue.find? fun q => b.members.contains q.enq).map fun q => q.ctx

/-- A read of the array work fails: a translation is held, or ends the requests (13 R358). -/
def State.bfStops (s : State) (c ctx : Nat) (b : Batch) (x : Xl) : State :=
  match x with
  | .held i va => s.bfHold c ctx va 0 i
  | .fault cause _ =>
    (((s.col c).bfQueue.filter fun q => b.members.contains q.enq).foldl (fun s q => s.bfAbort c q b.layer cause) s).bfAbandon c b
  | .ok _ => s

/-- The next step of a batch's layer (13 R356 to R359): a digital step slot, the values, an audit, the outputs,
or a step of a member's completion. A member that has left the queue is passed over. -/
def State.layerStep (s : State) (c : Nat) : State :=
  match (s.col c).batch with
  | none => s
  | some b =>
    match s.batchCtx c b with
    | none => s.bfAbandon c b
    | some ctx =>
      if (s.context ctx).rec' = [] then s.bfAbandon c b
      else if 0 < b.slots then s.updCol c fun C => { C with batch := some { b with slots := b.slots - 1 } }
      else if s.tc < b.endAt then s
      else if b.vals = [] then
        match s.batchValued c ctx b with
        | (.error x, s) => s.bfStops c ctx b x
        | (.ok b, s) => s.updCol c fun C => { C with batch := some b }
      else match b.audits with
        | a :: _ =>
          match s.batchAudit c ctx b a with
          | (.error x, s) => s.bfStops c ctx b x
          | (.ok b, s) => s.updCol c fun C => { C with batch := some b }
        | [] =>
          if b.outs = [] then s.batchOuts c ctx b
          else match (s.col c).bfQueue.find? fun q => q.enq == b.members.headD 0, b.outs.find? fun o => o.1 == b.members.headD 0 with
            | some q, some o => s.bfMember c b q o.2.1 o.2.2
            | _, _ => s.bfNext c b

def execBackfillLayerComplete (c : Nat) (s : State) : Out := finish (s.layerStep c)

end Sys2Proof.Machine
end

