-- ==== Sys2Proof/Machine/Snap.lean ====
section
/-! DEFINITION. Sys2Proof/Machine/Snap.lean: stopping, resuming, saving and restoring a tile, and the snapshot registers (14 R381 to
R392). -/

namespace Sys2Proof.Machine

/-- A word of fields, each a value at its lowest bit. -/
def fieldsWord (fs : List (Nat × Nat)) : Word := w64 (fs.foldl (fun a f => a + f.2 * 2 ^ f.1) 0)

/-- The words of a context that act through another unit and are not complete (14 R391). -/
def State.outstanding (s : State) (t c : Nat) : Option Remote :=
  s.flights.findSome? fun f => match f.fl with
    | .remote u d r _ => if u = t ∧ d = c then some r else none
    | .launch u _ _ _ sig _ _ => if u = t ∧ c = 0 then some ⟨0, sig, 0x41⟩ else none
    | .home u _ what _ _ _ sig d => if u = t ∧ d = c ∧ what ≠ 0 then some ⟨0, sig, 0x3A⟩ else none
    | _ => none

/-- The timeout of the MWAIT that the access core holds at, from its word (05 R152). -/
def Eng.timeout (x : Eng) : Option Nat :=
  match x.group.getLast? with
  | some w => if w.w.toNat % 16 = 0 then none else some (2 ^ (w.w.toNat % 16 + 5))
  | none => none

/-- What the access core has in flight at a stop (14 R381): a pending MWAIT is discarded; an access or put
accepted at its executing unit goes on and any other waits for the resume, a free choice for each (log entry
19). -/
def State.stopAccess (s : State) (t : Nat) : State :=
  let s := s.freeMonitor t
  let s := s.updEng t 1 fun x => match x.hold with
    | .mwait d sig e a key col _ _ _ scope order => { x with hold := .mwait d sig e a key col false x.timeout 0 scope order }
    | _ => x
  let clk := (s.tile t).clk
  s.flights.foldl (fun s f =>
    match f.fl with
    | .access a =>
      if a.t ≠ t then s
      else if a.op = 0x28 then s.land f.id
      else if a.stage ≠ 0 then s
      else
        let (n, s) := takeFree s
        if n % 2 = 0 then s
        else { s with flights := s.flights.map fun g => if g.id = f.id then { g with clk := .tile t, due := clk + 1 } else g }
    | .put p =>
      if p.t ≠ t ∨ p.written then s
      else
        let (n, s) := takeFree s
        if n % 2 = 0 then s
        else { s with flights := s.flights.map fun g => if g.id = f.id then { g with clk := .tile t, due := clk + 1 } else g }
    | _ => s) s

/-- A stop (14 R381): array work is abandoned (08 R235; 09 R253), copy commands discard what they have in flight
(10 R283), a context with a word at another unit issues nothing until it is complete (R391). A tile whose bind
message is on its way has no bound task (R384). -/
def State.stopTile (s : State) (t : Nat) : State :=
  let T := s.tile t
  if !T.bound || !T.task || T.state != .running then s
  else
    let s := s.stopAccess t
    let s := T.ccmds.foldl (fun s k => s.stopCopy t k.1) s
    let s := [0, 1, 2, 3].foldl (fun s c =>
      match (s.cc t c).rmt.orElse fun _ => s.outstanding t c with
      | some r => s.updCc t c fun x => { x with rmt := some { r with op := r.op % stoppedOp + stoppedOp } }
      | none => s) s
    let s := s.updTile t fun T => { T with
      state := .stopped
      xcmds := T.xcmds.map fun k => (k.1, k.2.abandon)
      xcal := T.xcal.map fun k => (k.1, k.2.abandon) }
    { s with
      turns := s.turns.filter fun u => !isIssueOf t u
      nmus := s.nmus.map fun n => (n.1, { n.2 with
        run := n.2.run.filter fun r => r.tile != t, queue := n.2.queue.filter fun q => q.1 != t }) }

/-- The resume of a task stopped in place or restored (14 R389): what was due to issue in the tc of the stop
issues in this one. An access that was discarded starts over and is translated again (R381; 15 R400); one that
has been performed lands 3 tc from now or later (R381). -/
def State.resumeTile (s : State) (t : Nat) : State :=
  let s := s.updTile t fun T => { T with state := .running }
  let back (f : Flight) : Flight :=
    match f.fl with
    | .access a =>
      if a.t ≠ t then f
      else if a.stage ≠ 0 then (if f.clk = .dev then { f with due := f.due + 3 } else f)
      else if f.clk = .dev then { f with fl := .access { a with ready := max a.ready s.tc + 3 } }
      else { f with clk := .dev, due := s.tc + 1, fl := .access { a with phys := [] } }
    | .put p => if p.t = t ∧ !p.written ∧ f.clk ≠ .dev then { f with clk := .dev, due := s.tc + 1 } else f
    | _ => f
  let s := { s with flights := s.flights.map back }
  let asked := s.flights.any fun f => match f.fl with
    | .access a => a.t == t && a.op == 0x28
    | _ => false
  (if asked then s else s.mwaitAgain t).retest t

/-- What a snapshot is read from: the machine as it stands, or with the saved task in its place (14 R385). -/
def State.snapView (s : State) (t : Nat) : State :=
  match (s.tile t).state, FM.find? s.saved t with
  | .saved, some T => { s.setTile t T with flights := s.parked }
  | _, _ => s

/-- A pending write as the snapshot lists it (14 R382): engine, context, specifier, value, poison, flags; a
vector, mask or tile gives the index of its buffer. -/
structure PendW where
  id : Nat
  due : Nat
  eng : Nat
  hctx : Nat
  spec : Nat
  val : Option Word
  p : Bool
  flags : Nat

def Flight.pending? (t : Nat) (f : Flight) : Option PendW :=
  let w (u eng hctx spec : Nat) (val : Option Word) (p : Bool) (flags : Nat) : Option PendW :=
    if u = t ∧ f.clk = .tile t then some ⟨f.id, f.due, eng, hctx, spec, val, p, flags⟩ else none
  match f.fl with
  | .sreg u c r v flag => w u 0 c r (some v.v) v.p flag
  | .remote u c r vs => if r.op = 0 ∧ r.dst ≠ 0 then w u 0 c r.dst (some (w64 (vs.getD 0 0))) (vs.getD 1 0 == 1) (vs.getD 2 0) else none
  | .areg u r v fl => w u 1 0 r (some v.v) v.p fl
  | .creg u r _ fl => w u 1 0 (64 + r) none false fl
  | .vreg u r _ v fl => w u 2 0 r none v.p fl
  | .mreg u r _ v fl => w u 2 0 (1088 + r) none v.p fl
  | .qfill u e q _ v fl => w u e 0 q none v.p fl
  | .tile u r vec _ v fl => w u (if vec then 2 else 3) 0 (1152 + r) none v.p fl
  | .flags u e fl => w u e 0 0x7FF none false fl
  | _ => none

/-- The flags that land with stream value `num`. -/
def State.streamFlags (s : State) (num : Nat) : Nat :=
  match s.flight? num with
  | some ⟨_, _, _, .flags _ _ bits⟩ => bits
  | _ => 0

/-- A stream value still to be driven, as the snapshot lists it (06 R158; 14 R382): from its first row on. -/
def State.pendStream? (s : State) (t : Nat) (v : StreamV) : Option PendW :=
  let T := s.tile t
  if v.pipe = 0 ∧ T.clk < v.at' ∧ !(T.streams.any fun x => x.num == v.num && decide (x.at' < v.at') && decide (T.clk < x.at')) then
    some ⟨v.num, v.at', 2, 0, 1032 + v.st, none, v.p, s.streamFlags v.num⟩ else none

def insertPend (x : PendW) : List PendW → List PendW
  | [] => [x]
  | y :: ys => if x.due < y.due ∨ (x.due = y.due ∧ x.id < y.id) then x :: y :: ys else y :: insertPend x ys

/-- The pairs in landing order, writes of one tc in issue order. -/
def State.pendings (s : State) (t : Nat) : List PendW :=
  let vs := (s.tile t).streams.filterMap (s.pendStream? t)
  ((s.flights.filterMap (Flight.pending? t)).filter (fun p => !(vs.any fun v => v.id == p.id)) ++ vs).foldr insertPend []

/-- The word at the pc of a context is held before issue: its wait, a full ring or a busy divider (14 R383). -/
def State.heldBefore (s : State) (t c : Nat) : Bool :=
  let T := s.tile t
  let x := T.cc c
  let w := (s.ctlWord t c).toNat
  let op := w / 2 ^ 40 % 256
  let ringFull (e need : Nat) : Bool := decide ((T.ring e).free < need)
  decide (x.nextAt ≤ T.clk) && x.rmt.isNone && x.run == .running &&
    (x.waitFrom.isSome || ((op == 0x05 || op == 0x06) && decide (T.clk < T.divFree c)) ||
      (op == 0x2D && ringFull (w % 8) (1 + w / 8 % 2)) || (op == 0x2C && ringFull (w / 2 ^ 32 % 256) 1))

def runCode : Run → Nat
  | .running => 0
  | .dormant => 1
  | .inDone => 2
  | .inHend => 3

/-- CTXST of context `h` (14 R383). -/
def State.ctxst (s : State) (t h : Nat) : Word :=
  let T := s.tile t
  let x := T.cc h
  let r := x.rmt.getD ⟨0, 0, 0⟩
  fieldsWord [(0, x.pc % 8192), (13, x.tlvl), (16, runCode x.run), (18, bit (s.heldBefore t h) 0), (19, bit (s.ctlSup t h) 0),
    (20, T.divFree h - T.clk), (25, bit x.rmt.isSome 0), (26, r.dst), (31, sigByte r.sig)]

def Latch.word (l : Latch) : Word :=
  fieldsWord [(0, l.imx.getD 0), (40, l.scp.getD 0), (45, l.pmt.getD 0), (47, bit l.imx.isSome 0 + bit l.scp.isSome 1 + bit l.pmt.isSome 2),
    (50, l.start.getD 0)]

/-- Counts of token queues 10k to 10k + 9 (14 R383). -/
def Tile.tqcnt (T : Tile) (k : Nat) : Word :=
  fieldsWord ((List.range 10).map fun i =>
    let q := 10 * k + i
    let p := q / 5
    let c := if q % 5 < p then q % 5 else q % 5 + 1
    (6 * i, (T.tqOf (tqIndex p c)).count))

def Queue.snap (q : Queue) : Word :=
  fieldsWord [(0, q.ents.length), (4, q.filled), (8, bit ((q.head?.map (·.p)).getD false) 0), (9, (q.ents.head?.map (·.idx)).getD q.tail)]

/-- MPROG and MWIN (14 R383). -/
def State.mprog (s : State) (t k : Nat) : Word :=
  let T := s.tile t
  let flying (f : Flight) : Bool := match f.fl with
    | .mstep u .. => u == t
    | _ => false
  match (if T.mcmd.isSome then T.mcmd else if s.flights.any flying then T.mlast else none) with
  | none => 0
  | some m =>
    let kind := stepKind m.fa m.fb (oprMode (T.oprD m.ra) != 0) (oprMode (T.oprD m.rb) != 0)
    let nk := match kind with
      | some (e, _, _, _) => (m.kel + e - 1) / e
      | none => 1
    let idx := nestIdx (if m.kind = 1 then T.active else []) 6 0 (m.step / nk)
    let pend := (s.flights.filter flying).length
    match k with
    | 0 => fieldsWord [(0, 1), (1, m.kind - 1), (2, m.fa), (6, m.fb), (10, m.ra), (13, m.rb), (16, m.acc), (22, m.kel),
        (40, m.aoff), (48, m.boff)]
    | 1 => fieldsWord ((List.range 5).map fun i => (12 * i, idx.getD i 0))
    | _ => fieldsWord [(0, idx.getD 5 0), (12, m.step % nk), (24, m.hA), (30, m.hB), (36, pend)]

def Tile.mwin (T : Tile) : Word :=
  match T.window with
  | none => 0
  | some w => fieldsWord [(0, 1), (1, w.kept.length), (8, w.replays), (10, w.first), (16, w.cnt)]

/-- PPUSH of stream `k`: its earliest waiting push. -/
def Tile.ppush (T : Tile) (k : Nat) : Word :=
  match T.pushes.find? fun p => p.stream == k with
  | none => 0
  | some p => fieldsWord [(0, 1), (1, p.cons), (4, p.seq % 2 ^ 32)]

def XCmd.snap (c : XCmd) (j : Nat) : Word :=
  match j with
  | 0 => fieldsWord [(0, 1), (1, bit c.acc 0), (2, c.g), (7, c.i), (9, c.o), (11, c.islot), (19, c.oslot), (27, c.nvec), (31, c.vm),
      (32, (c.vs.take c.landed).foldl (fun m v => m + 2 ^ v) 0), (48, c.route)]
  | 1 => fieldsWord [(0, c.xvm), (16, bit c.xvmP 0), (17, bit (!c.audits.isEmpty) 0), (18, bit (c.sig != 0) 0), (19, sigByte c.sig)]
  | _ => fieldsWord [(0, c.first), (8, c.nk - 1), (12, c.nn - 1), (20, c.enc)]

/-- The calibration word in progress: the earliest. -/
def Tile.xcalp (T : Tile) : Word :=
  match List.find? (fun (k : Nat × CalW) => decide (k.2.op < calAuto)) T.xcal with
  | some k => fieldsWord [(0, 1), (1, k.2.op), (9, k.2.array), (17, k.2.row)]
  | none => 0

/-- Slots of the commands that a copy command still awaits, by their order numbers. -/
def Tile.slotMask (T : Tile) (seqs : List Nat) : Nat :=
  T.ccmds.foldl (fun m (k : Nat × CCmd) => if seqs.contains k.2.seq then m + 2 ^ k.1 else m) 0

def Tile.ccmdWord (T : Tile) (k j : Nat) : Word :=
  match FM.find? T.ccmds k with
  | none => 0
  | some c =>
    match j with
    | 0 => fieldsWord [(0, 1), (1, c.op), (9, c.rec'), (17, c.desc), (29, bit (c.sig != 0) 0), (30, sigByte c.sig), (38, bit c.stuck 0)]
    | 1 => w64 c.unit
    | 2 => if c.op = 7 ∨ c.op = 0xC then fieldsWord [(0, T.slotMask c.wait), (16, if c.op = 7 then c.ext.headD 0 else 0)] else 0
    | _ => fieldsWord [(0, bit c.prog.isSome 0), (1, if c.prog.isSome then opF (c.f 56 8) 16 3 else 0)]

/-- Outstanding puts and reduces, and words of the access core discarded at the stop. -/
def State.aputs (s : State) (t : Nat) : List Put :=
  s.flights.filterMap fun f => match f.fl with
    | .put p => if p.t = t then some p else none
    | _ => none
def State.adiscs (s : State) (t : Nat) : List Access :=
  s.flights.filterMap fun f => match f.fl with
    | .access a => if a.t = t ∧ a.stage = 0 ∧ f.clk = .tile t then some a else none
    | _ => none

def Put.snap (p : Put) (j : Nat) : Word :=
  if j = 0 then fieldsWord [(0, 1), (1, p.kind), (3, p.done), (14, sigByte p.sig)] else w64 p.roff

/-- Rows of a multi-row word that are performed. -/
def Access.rowsDone (a : Access) : Nat :=
  if a.op = 2 ∨ a.op = 3 ∨ a.op = 5 ∨ a.op = 6 then
    ((List.range (a.data.headD (0, false)).1).filter fun i => !(a.keys.any fun k => k.2 / 256 == i)).foldl (fun m i => m + 2 ^ i) 0
  else 0
def Access.snap (a : Access) : Word := fieldsWord [(0, 1), (1, a.roff), (14, bit (a.rowsDone != 0) 0), (15, a.rowsDone)]

def HEntry.snap (e : HEntry) : Word := fieldsWord [(0, 1), (1, e.pc), (14, e.off), (34, e.len / 64 - 1), (43, e.origin)]

def Tile.bpendWord (T : Tile) (e : Nat) : Word :=
  fieldsWord (((List.range 32).filter fun n => (FM.find? T.bpend (32 * e + n)).isSome).map fun n => (n, 1))

/-- Snapshot register `n` (14 R382, R383) of tile `t`, stopped in place or as `snapView` gives it. -/
def State.snapReg (s : State) (t n : Nat) : Word :=
  let T := s.tile t
  let optW (o : Option Word) : Word := o.getD 0
  if n = 0 then 4
  else if n = 1 then w64 T.clk
  else if n < 6 then s.ctxst t (n - 2)
  else if n < 0x18 then
    let e := n - 0xF
    let r := T.ring e
    fieldsWord [(0, r.head), (16, r.tail), (32, bit (T.engine e).stop 0), (33, bit (s.engIdle t e) 0)]
  else if n < 0x20 then T.tqcnt (n - 0x18)
  else if n < 0x30 then
    let k := n - 0x20
    (if k < 4 then (T.cc k).latch else (T.engine (k - 3)).latch).word
  else if n < 0x40 then (T.queue (n - 0x30)).snap
  else if n < 0x43 then s.mprog t (n - 0x40)
  else if n = 0x43 then T.mwin
  else if n < 0x4D then T.ppush (n - 0x44)
  else if n < 0x50 then 0
  else if n < 0x68 then optW ((T.xcmds[(n - 0x50) / 3]?).map fun c => c.2.snap ((n - 0x50) % 3))
  else if n = 0x68 then T.xcalp
  else if n < 0x70 then 0
  else if n < 0xB0 then T.ccmdWord ((n - 0x70) / 4) ((n - 0x70) % 4)
  else if n < 0xC0 then optW (((s.aputs t)[(n - 0xB0) / 2]?).map fun p => p.snap ((n - 0xB0) % 2))
  else if n < 0xD0 then optW (((s.adiscs t)[n - 0xC0]?).map Access.snap)
  else if n < 0xE0 then 0
  else if n < 0xE8 then optW ((T.hq[n - 0xE0]?).map HEntry.snap)
  else if n < 0xF0 then optW ((T.hq[n - 0xE8]?).map fun e => e.arg)
  else if n < 0xF6 then T.bpendWord (n - 0xF0)
  else if n < 0x100 then 0
  else if n < 0x300 then
    match (s.pendings t)[(n - 0x100) / 2]? with
    | none => 0
    | some p =>
      if n % 2 = 0 then
        fieldsWord [(0, 1), (1, p.eng), (4, p.hctx), (6, p.spec), (17, p.due - T.clk), (22, bit p.p 0), (23, p.flags)]
      else match p.val with
        | some v => v
        | none => w64 ((n - 0x100) / 2)
  else if n < 0x380 then (s.sreg t ((n - 0x300) / 32) (n % 32)).v
  else fieldsWord (((List.range 32).filter fun r => (s.sreg t (n - 0x380) r).p).map fun r => (r, 1))

/-- A pending write with a new remaining latency, poison and flags, or a new value (14 R382, R385). -/
def Fl.edit (p : Bool) (flags : Nat) : Fl → Fl
  | .sreg t c r v _ => .sreg t c r { v with p := p } flags
  | .remote t c r vs => .remote t c r [vs.getD 0 0, bit p 0, flags]
  | .areg t r v _ => .areg t r { v with p := p } flags
  | .creg t r v _ => .creg t r v flags
  | .vreg t r m v _ => .vreg t r m { v with p := p } flags
  | .mreg t r m v _ => .mreg t r m { v with p := p } flags
  | .qfill t e q i v _ => .qfill t e q i { v with p := p } flags
  | .tile t r vec w v _ => .tile t r vec w { v with p := p } flags
  | .flags t e _ => .flags t e flags
  | f => f
def Fl.setVal (w : Word) : Fl → Fl
  | .sreg t c r v flag => .sreg t c r { v with v := w } flag
  | .remote t c r vs => .remote t c r [w.toNat, vs.getD 1 0, vs.getD 2 0]
  | .areg t r v fl => .areg t r { v with v := w } fl
  | f => f

/-- A stream value with a new remaining latency, from `old` to `due`, poison and flags. -/
def State.editStream (s : State) (t num old due : Nat) (p : Bool) (flags : Nat) : State :=
  let s := s.updTile t fun T => { T with streams := T.streams.map fun v =>
    if v.num = num ∧ T.clk < v.at' then { v with at' := v.at' + due - old, p := p } else v }
  { s with flights := (s.flights.filter fun f => f.id != num) ++ (if flags = 0 then [] else [⟨num, .tile t, due, .flags t 2 flags⟩]) }

/-- A write of a snapshot register (14 R385): its writable fields only. The s-registers and their poison bits
are writable (log entry 20). -/
def State.snapPut (s : State) (t n : Nat) (v : Word) : State :=
  let clk := (s.tile t).clk
  if 0x100 ≤ n ∧ n < 0x300 then
    match (s.pendings t)[(n - 0x100) / 2]? with
    | none => s
    | some p =>
      let x := v.toNat
      let edit (f : Flight) : Flight :=
        if f.id ≠ p.id then f
        else if n % 2 = 0 then
          { f with due := clk + max 1 (x / 2 ^ 17 % 32), fl := f.fl.edit (x / 2 ^ 22 % 2 == 1) (x / 2 ^ 23 % 128) }
        else { f with fl := f.fl.setVal v }
      if (s.tile t).streams.any fun v => v.num == p.id then
        if n % 2 = 0 then s.editStream t p.id p.due (clk + max 1 (x / 2 ^ 17 % 32)) (x / 2 ^ 22 % 2 == 1) (x / 2 ^ 23 % 128) else s
      else { s with flights := s.flights.map edit }
  else if 0x300 ≤ n ∧ n < 0x380 then
    let r := n % 32
    if r = 0 then s
    else s.updCc t ((n - 0x300) / 32) fun x => { x with regs := FM.set x.regs r { FM.get RegV.zero x.regs r with v := v } }
  else if 0x380 ≤ n then
    s.updCc t (n - 0x380) fun x => { x with
      regs := (List.range 31).foldl (fun m i =>
        let r := i + 1
        FM.set m r { FM.get RegV.zero m r with p := v.toNat / 2 ^ r % 2 == 1 }) x.regs }
  else s

/-- The write where the snapshot is kept: the tile stopped in place, or the saved copy. -/
def State.snapWrite (s : State) (t n : Nat) (v : Word) : State :=
  if (s.tile t).state = .saved then
    let x := (s.snapView t).snapPut t n v
    { s with saved := FM.set s.saved t (x.tile t), parked := x.flights }
  else if (s.tile t).state = .stopped then s.snapPut t n v
  else s

/-- A tile of the grant that is stopped in place or saved (14 R385). -/
def snapChecks (row col : Nat) : CtlChecks :=
  { CtlChecks.none with
    dec := fun s t _ =>
      let u := tileAt row col
      let U := s.tile u
      if 10 < row || !(s.curContext t).granted u || U.ctx != (s.tile t).ctx || !(U.state == .stopped || U.state == .saved) then some 0x09
      else none }

/-- SNAPRD (14 R385). -/
def execSnaprd (h : Hdr) (d n row col : Nat) (s : State) : Out :=
  ctlIssue h s (snapChecks row col) fun t c sig s' =>
    let u := tileAt row col
    if col = tileCol t then
      ((s'.putS t c d ⟨(s.snapView u).snapReg u n, false⟩ 3 0).signalIn t 0 c sig 3 none).ctlNext t c 1
    else
      let (l, s') := s'.atLeast 1
      s'.await t c d sig 0x43 l [u, n]

/-- SNAPWR (14 R385): the value travels to the tile's column unit. -/
def execSnapwr (h : Hdr) (a n row col : Nat) (s : State) : Out :=
  ctlIssue h s (snapChecks row col) fun t c sig s' =>
    let (l, s') := s'.atLeast 1
    s'.post t c sig 0x44 l [tileAt row col, n, (s.sreg t c a).v.toNat]

/-- An item of a checkpoint slot (14 R386): its number, offset, bytes and whether anything in it is poisoned. -/
structure SlotItem where
  id : Nat
  off : Nat
  size : Nat

def slotItems : List SlotItem :=
  ((List.range 1024).map fun n => ⟨n, 0x10000 + 4096 * n, 4096⟩) ++
  ((List.range 128).map fun k => ⟨1024 + k, 0x410000 + 4096 * k, 4096⟩) ++
  ((List.range 24).map fun k => ⟨1152 + k, 0x490000 + 4096 * k, 4096⟩) ++
  ((List.range 64).map fun n => ⟨1176 + n, 0x4A8000 + 1024 * n, 1024⟩) ++
  ((List.range 16).map fun k => ⟨1240 + k, 0x4B8000 + 4096 * k, 4096⟩) ++
  ((List.range 64).map fun n => ⟨1256 + n, 0x4C8000 + 128 * n, 128⟩)

/-- The entry of a queue at storage index `i`. -/
def Queue.at? (q : Queue) (i : Nat) : VVal := (((q.ents.find? fun e => e.idx == i).bind fun e => e.data)).getD VVal.zero

/-- The bytes of an item and whether it carries poison. -/
def State.itemData (s : State) (t : Nat) (i : SlotItem) : List Nat × Bool :=
  let T := s.tile t
  let n := i.id
  if n < 1024 then let v := FM.get VVal.zero T.vregs n; (bytesOfBv 4096 v.v, v.p)
  else if n < 1152 then
    let a := spBase t + 4096 * (n - 1024)
    (s.bytes a 4096, (List.range 64).any fun g => s.poisAt (a + 64 * g))
  else if n < 1176 then let v := (T.queue ((n - 1152) / 4)).at? ((n - 1152) % 4); (bytesOfBv 4096 v.v, v.p)
  else if n < 1240 then let v := FM.get TVal.zero T.accs (n - 1176); (bytesOfBv 1024 v.v, v.p)
  else if n < 1256 then (s.bytes (cimBase t + 4096 * (n - 1240)) 4096, false)
  else let v := FM.get MVal.zero T.mregs (n - 1256); (bytesOfBv 128 v.v, v.p)

/-- A field of the parts of a slot that are lists of small things: its bytes, what it holds of a tile, and the
tile with a value read back. -/
structure SlotField where
  size : Nat
  out : Tile → Nat
  inn : Nat → Tile → Tile

/-- The elements below `n` of a mask. -/
def listOf (n m : Nat) : List Nat := (List.range n).filter fun i => m / 2 ^ i % 2 == 1

/-- The poison field in a status value (04 R118). -/
def pfieldOf (w : Nat) : PField := ⟨w / 2 ^ 16 % 2 == 1, w / 2 ^ 24 % 256, w / 2 ^ 32 % 65536⟩

/-- Slot `k` of the barrier slots (14 R386), in 16 bytes: status value at bit 0, gen 48, target 64, init 76,
scope 77, home 80, count of arrivals 84, and above 96 pending record `k`, of party `k` / 32 on handle `k` % 32
(log entry 21). -/
def barField (k : Nat) : SlotField where
  size := 16
  out T :=
    let b := T.barOf k
    (statusWord 0 b.pois).toNat + b.gen % 65536 * 2 ^ 48 + b.target % 4096 * 2 ^ 64 + bit b.init 76 + b.scope % 8 * 2 ^ 77 +
      b.home % 16 * 2 ^ 80 + b.count % 4096 * 2 ^ 84 + ((FM.find? T.bpend k).elim 0 fun r => r + 1) % 2 ^ 32 * 2 ^ 96
  inn w T :=
    let T := T.setBar k
      ⟨w / 2 ^ 76 % 2 == 1, w / 2 ^ 77 % 8, w / 2 ^ 80 % 16, w / 2 ^ 64 % 4096, w / 2 ^ 84 % 4096, w / 2 ^ 48 % 65536, pfieldOf w⟩
    let r := w / 2 ^ 96
    { T with bpend := if r = 0 then FM.del T.bpend k else FM.set T.bpend k (r - 1) }

/-- The entry of a queue at storage index `i` with another poison bit. -/
def Queue.setP (q : Queue) (i : Nat) (p : Bool) : Queue := { q with
  ents := q.ents.map fun e => if e.idx = i then { e with data := e.data.map fun d => { d with p := p } } else e }

/-- The other state of a slot (14 R386), in the order of its table (log entry 21). -/
def otherFields : List SlotField :=
  let num (size : Nat) (f : Tile → Nat) (g : Nat → Tile → Tile) : SlotField := ⟨size, f, g⟩
  let many (n : Nat) (f : Nat → SlotField) : List SlotField := (List.range n).map f
  let set (T : Tile) (n : Nat) (f : Tile → Nat → Tile) : Tile := (List.range n).foldl f T
  [num 168 (fun T => maskOf 1344 (setHas T.zmap)) fun w T => { T with zmap := listOf 1344 w },
    num 128 (fun T => maskOf 1024 fun r => (FM.get VVal.zero T.vregs r).p) fun w T => set T 1024 fun T r =>
      { T with vregs := FM.set T.vregs r { FM.get VVal.zero T.vregs r with p := w / 2 ^ r % 2 == 1 } },
    num 8 (fun T => maskOf 64 fun r => (FM.get MVal.zero T.mregs r).p) fun w T => set T 64 fun T r =>
      { T with mregs := FM.set T.mregs r { FM.get MVal.zero T.mregs r with p := w / 2 ^ r % 2 == 1 } },
    num 8 (fun T => maskOf 64 fun r => (FM.get TVal.zero T.accs r).p) fun w T => set T 64 fun T r =>
      { T with accs := FM.set T.accs r { FM.get TVal.zero T.accs r with p := w / 2 ^ r % 2 == 1 } },
    num 4 (fun T => maskOf 32 fun r => (FM.get RegV.zero T.aregs r).p) fun w T => set T 32 fun T r =>
      { T with aregs := FM.set T.aregs r { FM.get RegV.zero T.aregs r with p := w / 2 ^ r % 2 == 1 } },
    num 4 (fun T => maskOf 24 fun k => ((T.queue (k / 4)).at? (k % 4)).p) fun w T => set T 24 fun T k =>
      T.setQueue (k / 4) ((T.queue (k / 4)).setP (k % 4) (w / 2 ^ k % 2 == 1)),
    num 1024 (fun T => maskOf 8192 T.spPois.contains) fun w T => { T with spPois := listOf 8192 w },
    num 4096 (fun T => maskOf 32768 T.spTags.contains) fun w T => { T with spTags := listOf 32768 w }] ++
  (many 64 fun n => num 8 (fun T => (statusWord (T.semOf n).count (T.semOf n).pois).toNat) fun w T => T.setSem n ⟨w % 65536, pfieldOf w⟩) ++
  (many 48 fun q => num 8 (fun T => (statusWord 0 (T.tqOf q).pois).toNat) fun w T => T.setTq q { T.tqOf q with pois := pfieldOf w }) ++
  (many 32 fun r => num 8 (fun T => (FM.get RegV.zero T.aregs r).v.toNat) fun w T =>
    { T with aregs := FM.set T.aregs r { FM.get RegV.zero T.aregs r with v := w64 w } }) ++
  (many 16 fun r => num 17 (fun T => (FM.get CReg.zero T.cregs r).v.toNat + bit (FM.get CReg.zero T.cregs r).tag 128) fun w T =>
    { T with cregs := FM.set T.cregs r ⟨BitVec.ofNat 128 w, w / 2 ^ 128 % 2 == 1⟩ }) ++
  (many 3 fun n => num 16 (fun T => (FM.get 0 T.tsa n).toNat) fun w T => { T with tsa := FM.set T.tsa n (BitVec.ofNat 128 w) }) ++
  [num 1 (fun T => T.tsatag) fun w T => { T with tsatag := w },
    num 20 (fun T => T.rotN + T.rotM * 2 ^ 32 + T.vbase * 2 ^ 64 + T.mbase * 2 ^ 96 + T.vlc * 2 ^ 128) fun w T =>
      let f (k : Nat) : Nat := w / 2 ^ (32 * k) % 2 ^ 32
      { T with rotN := f 0, rotM := f 1, vbase := f 2, mbase := f 3, vlc := f 4 }] ++
  (many 48 fun k => num 8 (fun T => (FM.get 0 T.shadow k).toNat) fun w T => { T with shadow := FM.set T.shadow k (w64 w) }) ++
  (many 48 fun k => num 8 (fun T => (FM.get 0 T.active k).toNat) fun w T => { T with active := FM.set T.active k (w64 w) }) ++
  (many 8 fun k => num 4 (fun T => FM.get 0 T.opr k) fun w T => { T with opr := FM.set T.opr k w }) ++
  (many 32 fun g => num 4 (fun T => let x := FM.get ⟨0, 0, 0⟩ T.xgroups g; x.first + x.nk * 2 ^ 8 + x.nn * 2 ^ 16) fun w T =>
    { T with xgroups := FM.set T.xgroups g ⟨w % 256, w / 2 ^ 8 % 256, w / 2 ^ 16 % 256⟩ }) ++
  (many 8 fun k => num 12 (fun T => let x := FM.get SRing.none (if k < 4 then T.xin else T.xout) (k % 4); x.base + x.nslots * 2 ^ 32 + x.head * 2 ^ 64)
    fun w T =>
      let x : SRing := ⟨w % 2 ^ 32, w / 2 ^ 32 % 2 ^ 32, w / 2 ^ 64⟩
      if k < 4 then { T with xin := FM.set T.xin k x } else { T with xout := FM.set T.xout (k % 4) x }) ++
  [num 3 (fun T => T.xvm + bit T.xvmP 16) fun w T => { T with xvm := w % 65536, xvmP := w / 2 ^ 16 % 2 == 1 },
    num 3 (fun T => T.rowMask + bit T.rowMaskP 16) fun w T => { T with rowMask := w % 65536, rowMaskP := w / 2 ^ 16 % 2 == 1 }] ++
  (many 160 fun a => num 64 (fun T => FM.get 0 T.clip a) fun w T => { T with clip := FM.set T.clip a w }) ++
  (many 6 fun e => num 1 (fun T => FM.get 0 T.eflag e) fun w T => { T with eflag := FM.set T.eflag e w }) ++
  (many 32 fun n => num 2 (fun T => (FM.find? T.bh n).elim 0 fun k => k + 1) fun w T =>
    { T with bh := if w = 0 then FM.del T.bh n else FM.set T.bh n (w - 1) }) ++
  [num 6 (fun T => T.logCount + min T.lasting 255 * 2 ^ 32 + T.log.length * 2 ^ 40) fun w T =>
    { T with logCount := w % 2 ^ 32, lasting := w / 2 ^ 32 % 256, log := List.replicate (w / 2 ^ 40) ⟨0, 0⟩ }] ++
  (many 16 fun i => num 16 (fun T => (T.log[i]?).elim 0 fun e => e.w0.toNat + e.w1.toNat * 2 ^ 64) fun w T =>
    { T with log := T.log.mapIdx fun j e => if j = i then ⟨w64 w, w64 (w / 2 ^ 64)⟩ else e })

/-- The bytes of fields one after another, filled up to `n` bytes, and a tile with what they hold. -/
def fieldBytes (fs : List SlotField) (n : Nat) (T : Tile) : List Nat :=
  let bs := fs.flatMap fun f => natLe f.size (f.out T)
  bs ++ List.replicate (n - bs.length) 0
def readFields : List SlotField → List Nat → Tile → Tile
  | [], _, T => T
  | f :: fs, bs, T => readFields fs (bs.drop f.size) (f.inn (leNat (bs.take f.size)) T)

def barFields : List SlotField := (List.range 1024).map barField

/-- Bytes written to the slot of tile `t` under the checkpoint key, line by line in device memory (14 R386; log
entry 21). -/
def State.slotPut (s : State) (t col va : Nat) (bs : List Nat) : State :=
  let ctx := (s.tile t).ctx
  (List.range ((bs.length + 63) / 64)).foldl (fun s i =>
    match s.translate ctx col (va + 64 * i) 2 2 with
    | .ok p => (s.beyond p.pa).memEndLine { p with mkey := (s.context ctx).ckey } (va + 64 * i) (cut bs (64 * i) 64) false
    | _ => s) s

/-- Lines read back from the slot. -/
def State.slotGet (s : State) (t col va n : Nat) : List (List Nat × Bool) :=
  let ctx := (s.tile t).ctx
  (List.range ((n + 63) / 64)).map fun i =>
    match s.translate ctx col (va + 64 * i) 2 1 with
    | .ok p => s.memEndRead { p with mkey := (s.context ctx).ckey } (va + 64 * i)
    | _ => (List.replicate 64 0, false)

/-- The whole slot translates for the column that saves or restores. -/
def State.slotReady (s : State) (t col : Nat) : Bool :=
  (s.translateRange (s.tile t).ctx col ((s.context (s.tile t).ctx).slotVa t) 5242880 2 3).isNone

/-- What keeps a save from starting: accesses and puts of the tile that are still being performed, and arrivals
at it that have begun (14 R381, R392). -/
def State.saveWaits (s : State) (t : Nat) : Bool :=
  s.flights.any fun f => match f.fl with
    | .access a => a.t == t && a.stage == 0 && f.clk == .dev
    | .put p => (p.t == t && !p.written && f.clk == .dev) || (p.target == t && p.space != 4 && !p.written && decide (0 < p.done))
    | _ => false

/-- Flights that stay while a task is saved: messages that other units hold (14 R391, R392). A TSPILL, TFILL or
STEST goes with its task (16 R428). -/
def Fl.staysOnSave : Fl → Bool
  | .remote _ _ r _ => r.op != 0 && r.op != 0x51 && r.op != 0x52 && r.op != 0x53
  | .home .. => true
  | .update .. => true
  | .launch .. => true
  | .bind .. => true
  | _ => false

/-- A save (14 R387): the snapshot and the items go to the slot, of vector registers and scratchpad the dirty
ones; the column unit keeps the snapshot and what the slot's table does not name; the tile is scrubbed and its
site stays reserved. -/
def State.saveTile (s : State) (t col full : Nat) : State :=
  let T := s.tile t
  let va := (s.context T.ctx).slotVa t
  let (s, zmap) := slotItems.foldl (fun (o : State × List Nat) i =>
    let (bs, p) := o.1.itemData t i
    if i.id < 1152 && full == 0 && !T.dirty.contains i.id then o
    else if !p && bs.all (fun b => b == 0) then (o.1, setDel o.2 i.id)
    else (o.1.slotPut t col (va + i.off) bs, setAdd o.2 i.id)) (s, T.zmap)
  let s := s.slotPut t col va ((List.range 4096).flatMap fun n => bytesOfBv 8 (s.snapReg t n))
  let s := (List.range 512).foldl (fun s i =>
    let ((bs, _), s) := s.freeLine
    s.slotPut t col (va + 0x8000 + 64 * i) bs) s
  let lo := spBase t
  let copy := { s.tile t with
    state := .saved, dirty := [], zmap := zmap, evict := false
    spPois := (s.pois.filter fun g => decide (lo ≤ 64 * g) && decide (64 * g < lo + 2 ^ 19)).map fun g => g - lo / 64
    spTags := (s.tags.filter fun g => decide (lo ≤ 16 * g) && decide (16 * g < lo + 2 ^ 19)).map fun g => g - lo / 16 }
  let s := ((s.slotPut t col (va + 0x4CA000) (fieldBytes barFields 0x4000 copy)).slotPut t col (va + 0x4CE000)
    (fieldBytes otherFields 0x8000 copy)).slotPut t col (va + 0x4D6000) (List.replicate 0x2A000 0)
  let mine (f : Flight) : Bool := f.fl.tile? == some t && !f.fl.staysOnSave
  let x := s.scrubTile t
  let x := { x with
    flights := s.flights.filter fun f => !mine f
    parked := s.parked ++ s.flights.filter mine
    saved := FM.set s.saved t copy }
  x.updTile t fun U => { U with
    bound := true, ctx := T.ctx, sup := T.sup, launch := T.launch, node := T.node, prio := T.prio, boundSeq := T.boundSeq, task := T.task
    state := .saved, recvOpen := false }

/-- A restore (14 R389): the items from the slot, zero where the zero-map says so, the rest from the column
unit; then the task goes on. A fenced site restores nothing (17 R443). -/
def State.restoreTile (s : State) (t col : Nat) : State :=
  match FM.find? s.saved t with
  | none => s
  | some kept =>
    if (s.tile t).state = .fenced ∨ s.colDisabled (tileCol t) then s
    else
    let va := (s.context kept.ctx).slotVa t
    let now := s.tile t
    let s := (List.range 16).foldl (fun s c => s.writeBack c fun l =>
      l.ctx == kept.ctx && decide (va ≤ l.va) && decide (l.va < va + 5242880)) s
    let bytes (off n : Nat) : List Nat := (s.slotGet t col (va + off) n).flatMap fun g => g.1
    let copy := readFields otherFields (bytes 0x4CE000 0x8000) (readFields barFields (bytes 0x4CA000 0x4000) kept)
    let get (i : SlotItem) : List (List Nat × Bool) := if setHas copy.zmap i.id then s.slotGet t col (va + i.off) i.size else []
    let item (k n : Nat) : List (List Nat × Bool) := get (slotItems.getD (k + n) ⟨0, 0, 0⟩)
    let val (w k n : Nat) : BitVec w := bvOfBytes w ((item k n).flatMap fun g => g.1)
    let bad (k n : Nat) : Bool := (item k n).any fun g => g.2
    let qs := copy.queues.map fun (q : Nat × Queue) => (q.1, { q.2 with
      ents := q.2.ents.map fun e => { e with
        data := e.data.map fun d => ⟨val 32768 (1152 + 4 * q.1) e.idx, d.p || bad (1152 + 4 * q.1) e.idx⟩ } })
    let lo := spBase t
    let lines (k n a : Nat) : List (Nat × List Nat × Bool) :=
      (List.zip (List.range 64) (item k n)).map fun (ig : Nat × List Nat × Bool) => (a + 64 * ig.1, ig.2.1, ig.2.2)
    let pages : List (Nat × List Nat × Bool) := ((List.range 128).flatMap fun k => lines 1024 k (lo + 4096 * k)) ++
      (List.range 16).flatMap fun k => lines 1240 k (cimBase t + 4096 * k)
    let badWords := ((pages.filter fun (p : Nat × List Nat × Bool) => p.2.2 && decide (cimBase t ≤ p.1)).flatMap fun p =>
      (List.range 8).map fun i => (p.1 - cimBase t) / 8 + i)
    let T := { copy with
      vregs := (List.range 1024).map fun r => (r, ⟨val 32768 0 r, (FM.get VVal.zero copy.vregs r).p || bad 0 r⟩), queues := qs
      accs := (List.range 64).map fun r => (r, ⟨val 8192 1176 r, (FM.get TVal.zero copy.accs r).p || bad 1176 r⟩)
      mregs := (List.range 64).map fun r => (r, ⟨val 1024 1256 r, (FM.get MVal.zero copy.mregs r).p || bad 1256 r⟩)
      cimBad := badWords.foldl setAdd copy.cimBad
      mclk := now.mclk, arrays := now.arrays, verdicts := now.verdicts, testing := now.testing, scrubTo := now.scrubTo
      xcal := (now.xcal.filter fun c => decide (calAuto ≤ c.2.op)).foldl (fun m (c : Nat × CalW) => FM.set m c.1 c.2) copy.xcal
      dirty := [], recvOpen := true, spPois := [], spTags := [], log := copy.log }
    let mine (f : Flight) : Bool := f.fl.tile? == some t
    let s := { s.setTile t T with
      mem := pages.foldl (fun m (p : Nat × List Nat × Bool) => memPut m p.1 p.2.1) s.mem
      pois := (pages.filter fun (p : Nat × List Nat × Bool) => p.2.2 && decide (p.1 < cimBase t)).foldl (fun m (p : Nat × List Nat × Bool) => setAdd m (p.1 / 64))
        (copy.spPois.foldl (fun m g => setAdd m (g + lo / 64)) s.pois)
      tags := copy.spTags.foldl (fun m g => setAdd m (g + lo / 16)) s.tags
      flights := s.flights ++ s.parked.filter mine
      parked := s.parked.filter fun f => !mine f
      saved := FM.del s.saved t }
    s.resumeTile t

end Sys2Proof.Machine
end

