-- ==== Sys2Proof/Machine/Bind.lean ====
section
/-! DEFINITION. Sys2Proof/Machine/Bind.lean: the dispatcher: acceptance of launches (14 R379, R395; 18 R451), readiness (14 R373),
binding decisions (14 R374 to R378), the bind and the streaming of an image (14 R380; 04 R96; 15 R413), the end of a task (04 R122),
and the completion of nodes and launches (12 R344; 14 R379). -/

namespace Sys2Proof.Machine

/-- Something for the task of tile `t`, `d` tc of its clock from now; for a saved task it waits with what the
task had in flight. -/
def State.toTile (s : State) (t d : Nat) (fl : Fl) : State :=
  if (s.tile t).state = .saved then
    let clk := (FM.get (s.tile t) s.saved t).clk
    { s with parked := s.parked ++ [⟨s.nextId, .tile t, clk + d, fl⟩], nextId := s.nextId + 1 }
  else s.flyTile t d fl

/-- The signal of a word whose effect another unit has performed (14 R391). -/
def State.report (s : State) (t c sig : Nat) : State :=
  if sig = 0 then s else s.toTile t 0 (.signal t 0 sig c none)

/-- A change of tile `t`'s task, in its place or in its saved copy. -/
def State.updTask (s : State) (t : Nat) (f : Tile → Tile) : State :=
  if (s.tile t).state = .saved then { s with saved := s.saved.map fun k => if k.1 = t then (k.1, f k.2) else k }
  else s.updTile t f

/-- The state of tile `t`'s task: in its place, or the saved copy. -/
def State.taskTile (s : State) (t : Nat) : Tile :=
  if (s.tile t).state = .saved then FM.get (s.tile t) s.saved t else s.tile t

/-- Another unit has completed a word with operation `op`: its context issues again where it waited for this
word, or where a stop held it for all of its words and none is left (14 R391). -/
def State.clearRmt (s : State) (t c op : Nat) : State :=
  let clear (s : State) : State := s.updTask t fun T => T.setCc c { T.cc c with rmt := none }
  match ((s.taskTile t).cc c).rmt with
  | none => s
  | some q =>
    if stoppedOp ≤ q.op then (if (s.outstanding t c).isSome then s else clear s)
    else if op = 0 ∨ q.op = op then clear s
    else s

def State.sheafOf (s : State) (l : Launch) : Sheaf := FM.get ⟨[], []⟩ (s.context l.ctx).sheaves l.sheaf
def Sheaf.node (f : Sheaf) (k : Nat) : Node := f.nodes.getD k ⟨false, none, false, 0, 0, [], 0, 0, 0, [], []⟩
def Launch.st (l : Launch) (k : Nat) : NodeSt := l.nodes.getD k ⟨0, 0, true, 0, 0⟩
def State.launch? (s : State) (id : Nat) : Option Launch := s.launches.find? fun l => l.id == id
def State.updLaunch (s : State) (id : Nat) (f : Launch → Launch) : State :=
  { s with launches := s.launches.map fun l => if l.id = id then f l else l }
def Launch.updNode (l : Launch) (k : Nat) (f : NodeSt → NodeSt) : Launch :=
  { l with nodes := l.nodes.mapIdx fun i n => if i = k then f n else n }

/-- Tasks of a node (14 R374). -/
def Node.points (n : Node) : Nat := if n.nest then n.dims.foldl (· * ·) 1 else 1

/-- The indices of point `p` of a loop-nest node by dimension (14 R374): the last of the order runs fastest. -/
def pointIdx (dims : List Nat) : List Nat → Nat → FM Nat
  | [], _ => []
  | d :: ds, p => let n := max (dims.getD d 1) 1; FM.set (pointIdx dims ds (p / n)) d (p % n)
def Node.indices (n : Node) (p : Nat) : List Nat :=
  let m := if n.nest then pointIdx n.dims n.order.reverse p else []
  (List.range 6).map fun d => FM.get 0 m d

/-- Acceptance of a launch with the next number (14 R379). -/
def State.acceptLaunch (s : State) (ctx sheaf : Nat) (cw : Option Nat) : State :=
  let x := s.context ctx
  let number := (x.accepted + 1) % 2 ^ 64
  let f := FM.get ⟨[], []⟩ x.sheaves sheaf
  let l : Launch := ⟨s.nextLaunch, ctx, sheaf, number, cw, f.nodes.map fun n => ⟨0, 0, false, 0, n.prio⟩, none⟩
  { s.setContext ctx { x with accepted := number } with launches := s.launches ++ [l], nextLaunch := s.nextLaunch + 1 }

/-- A LAUNCH reaches the dispatcher (14 R379, R395): once its release condition holds it is accepted and its
signal sent. -/
def State.launchArrives (s : State) (id : Nat) : State :=
  match s.flight? id with
  | some ⟨_, _, _, .launch t ctx sheaf cw sig release system⟩ =>
    if release && !s.ctlDrained t 0 id then s.refly id (s.tc + 1) (.launch t ctx sheaf cw sig release system)
    else
      let s := s.land id
      if (s.context ctx).tearing then s.updContext ctx fun x => { x with dropped := (x.dropped + 1) % 2 ^ 32 }
      else
        let s := if release && system then s.releaseSystem ctx else s
        (((s.acceptLaunch ctx sheaf cw).report t 0 sig).clearRmt t 0 0x41)
  | _ => s

def execLaunchAcceptance (id : Nat) (s : State) : Out := finish (s.launchArrives id)

/-- A submission entry is read (18 R451, R452): the refusals are tested in the order of their codes (log entry 23). -/
def State.readEntry (s : State) : State :=
  let y := s.sys
  if y.sqHead = y.sqTail ∨ y.sqSize = 0 then s
  else
    let i := y.sqHead % y.sqSize
    let e := s.bytes (hostBase + y.sqBase + 64 * i) 64
    let ctx := e.getD 0 0
    let sheaf := leNat (cut e 4 2)
    let pass (s : State) : State := { s with sys := { s.sys with sqHead := (y.sqHead + 1) % (2 * y.sqSize) } }
    let refuse (code : Nat) : State := pass (s.hostRecord (.of 8 ctx 0 0 0 i code 0))
    let x := s.context ctx
    if 16 ≤ ctx ∨ (x.rec' = [] ∧ !x.tearing) then refuse 1
    else if x.tearing then pass (s.updContext ctx fun x => { x with dropped := (x.dropped + 1) % 2 ^ 32 })
    else if (FM.find? x.sheaves sheaf).isNone then refuse 2
    else if 2 ≤ e.getD 1 0 ∨ e.getD 3 0 ≠ 0 ∨ (e.drop 6).any (fun b => b != 0) then refuse 3
    else if 64 ≤ s.openLaunches ctx then s
    else pass (s.acceptLaunch ctx sheaf (if e.getD 1 0 = 1 then some (e.getD 2 0) else none))

def execSubmissionEntryRead (s : State) : Out := finish s.readEntry

/-- Regions of two nodes share a byte and one is a write (14 R373). -/
def overlaps (a b : List (Nat × Nat × Bool)) : Bool :=
  a.any fun p => b.any fun q => (p.2.2 || q.2.2) && decide (p.1 < q.1 + q.2.1) && decide (q.1 < p.1 + p.2.1)

/-- Node `k` of a launch is ready (14 R373). -/
def State.nodeReady (s : State) (l : Launch) (k : Nat) : Bool :=
  let f := s.sheafOf l
  (List.range k).all fun i => (l.st i).complete || !overlaps (f.node i).regions (f.node k).regions

/-- A ready node with points left to bind. -/
def State.nodeWaits (s : State) (l : Launch) (k : Nat) : Bool :=
  decide ((l.st k).bound < ((s.sheafOf l).node k).points) && s.nodeReady l k

/-- A tile is eligible for a node (14 R371); one of a disabled column is not (01 R12). -/
def State.eligible (s : State) (l : Launch) (n : Node) (t : Nat) : Bool :=
  n.place / 2 ^ tileCol t % 2 == 1 && n.place / 2 ^ (16 + tileRow t) % 2 == 1 && (s.context l.ctx).granted t &&
    !s.colDisabled (tileCol t)

/-- The dispatcher binds to the tile's site (14 R393; 16 R433; 17 R449): its column and site are not fenced and
its column not held. -/
def State.tileOpen (s : State) (t : Nat) : Bool :=
  !s.colDisabled (tileCol t) && (s.col (tileCol t)).holders.isEmpty && !s.sys.siteFenced.contains (16 * tileCol t + (s.tile t).site) &&
  s.sys.readyMp && !s.sys.stopBinding

/-- A tile that a task may be bound to (14 R375): free, scrubbed, holding no saved task. -/
def State.tileFree (s : State) (t : Nat) : Bool :=
  let T := s.tile t
  !T.bound && T.state == .running && decide (T.scrubTo ≤ s.tc) && (FM.find? s.saved t).isNone && s.tileOpen t

/-- The save of a pre-empted task starts once nothing of it is left at other units (log entry 24) and its slot
translates. -/
def State.evictReady (s : State) (t : Nat) : Bool :=
  (s.tile t).evict && (s.tile t).state == .stopped && !s.saveWaits t && s.slotReady t (tileCol t) &&
  (s.col (tileCol t)).holders.isEmpty && !(s.flights.any fun f => f.fl.tile? == some t && f.fl.staysOnSave) &&
  !((s.col (tileCol t)).held.any fun h => match h.what with
    | .acc u _ => u == t
    | .ctl u _ => u == t
    | .copy u _ => u == t
    | .xbar u _ => u == t
    | .backfill => false)

/-- A pre-empted task is saved and its tile free for another. -/
def State.clearTile (s : State) (t : Nat) : State :=
  (s.saveTile t (tileCol t) 0).updTile t fun T => { T with bound := false, state := .running, recvOpen := true }

/-- Eligible free tiles in the order of 14 R375. -/
def State.freeTiles (s : State) (l : Launch) (n : Node) : List Nat :=
  (List.range 176).filter fun t => s.eligible l n t && s.tileFree t

/-- The same for a member of a gang: at prio 3 also the tiles of tasks that were stopped for it (14 R377, R378). -/
def State.gangTiles (s : State) (l : Launch) (n : Node) : List Nat :=
  (List.range 176).filter fun t => s.eligible l n t && (s.tileFree t || (n.prio == 3 && s.evictReady t && s.tileOpen t))

/-- A tile for every task of a gang at once, the lowest in the tasks' order. -/
def assignTiles : List (List Nat) → List Nat → Option (List Nat)
  | [], _ => some []
  | c :: cs, used => c.findSome? fun t => if used.contains t then none else (assignTiles cs (t :: used)).map fun ts => t :: ts

/-- What a decision may bind: a node with its next point, or the members of a gang with all their tasks; with
the priority. -/
structure Cand where
  l : Launch
  k : Nat
  cur : Nat
  tasks : List (Nat × Nat)
  tiles : List Nat

/-- The members of the gang of node `k`. -/
def Sheaf.gangOf (f : Sheaf) (k : Nat) : List Nat :=
  match (f.node k).gang with
  | none => [k]
  | some g => (List.range f.nodes.length).filter fun i => (f.node i).gang == some g

/-- The candidate of node `k`: for a gang at its lowest member, when every member is ready (14 R377). -/
def State.cand? (s : State) (l : Launch) (k : Nat) : Option Cand :=
  let f := s.sheafOf l
  let n := f.node k
  if !s.nodeWaits l k then none
  else match n.gang with
    | none => (s.freeTiles l n).head?.map fun t => ⟨l, k, (l.st k).cur, [(k, (l.st k).bound)], [t]⟩
    | some _ =>
      let ms := f.gangOf k
      if ms.head? ≠ some k ∨ !(ms.all fun i => s.nodeWaits l i) then none
      else
        let tasks := ms.flatMap fun i => (List.range (f.node i).points).map fun p => (i, p)
        if 176 < tasks.length then none
        else (assignTiles (tasks.map fun p => s.gangTiles l (f.node p.1)) []).map fun ts =>
          ⟨l, k, ms.foldl (fun m i => max m (l.st i).cur) 0, tasks, ts⟩

/-- The candidate that a decision takes (14 R375): the highest current priority, then the earliest launch, then
the lowest node. -/
def State.bestCand (s : State) : Option Cand :=
  s.launches.foldl (fun (b : Option Cand) l => (List.range l.nodes.length).foldl (fun b k =>
    match b, s.cand? l k with
    | some x, some y => if x.cur < y.cur then some y else some x
    | none, y => y
    | b, none => b) b) none

/-- Binds one task to a tile: the bind message is on its way (14 R380). -/
def State.bindTask (s : State) (l : Launch) (k p t : Nat) : State :=
  let n := (s.sheafOf l).node k
  let (d, s) := s.atLeast 1
  let s := s.updTile t fun T => { T with
    bound := true, ctx := l.ctx, sup := n.sup && (s.context l.ctx).supok, launch := l.id, node := k, prio := n.prio, boundSeq := s.nextId
    task := false }
  (s.updLaunch l.id fun l => l.updNode k fun x => { x with bound := x.bound + 1, pass := 0 }).flyDev d (.bind t l.id k p false)

/-- The pass counts of the other ready nodes after a binding at priority `cur` (14 R376). -/
def State.countPasses (s : State) (id : Nat) (ks : List Nat) (cur : Nat) : State :=
  { s with launches := s.launches.map fun l => { l with
      nodes := l.nodes.mapIdx fun i x =>
        if (l.id = id ∧ ks.contains i) ∨ cur < x.cur ∨ !s.nodeWaits l i then x else { x with pass := min 1024 (x.pass + 1) } } }

/-- A node's current priority rises by one level (14 R376). -/
def execPriorityPromotion (l k : Nat) (s : State) : Out :=
  finish (s.updLaunch l fun x => x.updNode k fun n => if n.pass < 1024 then n else { n with cur := min 3 (n.cur + 1), pass := 0 })

def State.bindCand (s : State) (c : Cand) : State :=
  let s := c.tiles.foldl (fun s t => if (s.tile t).evict then s.clearTile t else s) s
  let s := (List.zip c.tasks c.tiles).foldl (fun s (pt : (Nat × Nat) × Nat) => s.bindTask c.l pt.1.1 pt.1.2 pt.2) s
  s.countPasses c.l.id (c.tasks.map fun p => p.1) c.cur

/-- The tasks pre-empted with that of tile `t`: its whole gang (14 R378). -/
def State.withGang (s : State) (t : Nat) : List Nat :=
  match s.launch? (s.tile t).launch with
  | none => [t]
  | some l =>
    let ms := (s.sheafOf l).gangOf (s.tile t).node
    if ((s.sheafOf l).node (s.tile t).node).gang.isNone then [t]
    else (List.range 176).filter fun u => (s.tile u).bound && (s.tile u).launch == l.id && ms.contains (s.tile u).node

/-- A task that a node of prio 3 may pre-empt (14 R378): one that runs, that is stopped in place, or whose bind
message is on its way, which is stopped once that has landed. -/
def State.mayStop (s : State) (t : Nat) : Bool :=
  let T := s.tile t
  T.bound && (T.state == .running || T.state == .stopped) && !T.evict && decide (T.prio < 3) && s.tileOpen t

/-- The victim of a waiting node of prio 3 (14 R378): the lowest prio, then the most recently bound. -/
def State.victim (s : State) (l : Launch) (n : Node) : Option Nat :=
  ((List.range 176).filter fun t => s.eligible l n t && s.mayStop t).foldl (fun (b : Option Nat) t =>
    match b with
    | none => some t
    | some u =>
      if (s.tile t).prio < (s.tile u).prio ∨ ((s.tile t).prio = (s.tile u).prio ∧ (s.tile u).boundSeq < (s.tile t).boundSeq) then some t
      else some u) none

/-- A node for each task of the gang of node `k`, those of prio 3, which may pre-empt, last. -/
def State.gangNodes (s : State) (l : Launch) (k : Nat) : List Node :=
  let f := s.sheafOf l
  let ns := (f.gangOf k).flatMap fun i => List.replicate (min 177 (f.node i).points) (f.node i)
  ns.filter (fun n => n.prio != 3) ++ ns.filter fun n => n.prio == 3

/-- Each of these nodes has a tile of its own that is free or, at prio 3, being cleared; with `more`, or that
may be (log entry 24). -/
def State.gangFits (s : State) (l : Launch) (ns : List Node) (more : Bool) : Bool :=
  decide (ns.length ≤ 176) && (assignTiles (ns.map fun n => (List.range 176).filter fun t => s.eligible l n t &&
    (s.tileFree t || (n.prio == 3 && ((s.tile t).evict || (more && s.mayStop t))))) []).isSome

/-- Node `k` is the lowest member of a gang that waits and that pre-emption can still give its tiles. -/
def State.gangHopes (s : State) (l : Launch) (k : Nat) : Bool :=
  let ms := (s.sheafOf l).gangOf k
  ((s.sheafOf l).node k).gang.isSome && ms.head? == some k && ms.all (fun i => s.nodeWaits l i) && s.gangFits l (s.gangNodes l k) true

/-- The first task of such a gang for which no tile is free or being cleared. -/
def State.gangShort (s : State) (l : Launch) (k : Nat) : Option Node :=
  let ns := s.gangNodes l k
  if !s.gangHopes l k then none
  else ((List.range ns.length).find? fun j => !s.gangFits l (ns.take (j + 1)) false).bind fun j => ns[j]?

/-- Ready nodes launched at prio 3 that find no eligible free tile and for which no task is being stopped already. -/
def State.urgent (s : State) : Option (Launch × Node) :=
  s.launches.findSome? fun l => (List.range l.nodes.length).findSome? fun k =>
    let n := (s.sheafOf l).node k
    if n.gang.isSome then (s.gangShort l k).map fun m => (l, m)
    else if n.prio = 3 ∧ s.nodeWaits l k ∧ s.freeTiles l n = [] ∧
        !((List.range 176).any fun t => (s.tile t).evict && s.eligible l n t) then some (l, n) else none

/-- Stops the victim of a waiting node, to be saved (14 R378). -/
def State.preempt (s : State) : State :=
  match s.urgent with
  | none => s
  | some (l, n) =>
    match s.victim l n with
    | none => s
    | some v => (s.withGang v).foldl (fun s t => (s.stopTile t).updTile t fun T => { T with evict := true }) s

/-- A pre-empted task is saved and its tile bound to a waiting node of prio 3 that may use it; it stays for a
gang that may use it; with none left it is resumed. -/
def State.evictTile (s : State) (t : Nat) : State :=
  let next := s.launches.findSome? fun l => (List.range l.nodes.length).findSome? fun k =>
    let n := (s.sheafOf l).node k
    if n.prio = 3 ∧ n.gang.isNone ∧ s.nodeWaits l k ∧ s.eligible l n t ∧ s.tileOpen t then some (l, k) else none
  let awaited := s.launches.any fun l => (List.range l.nodes.length).any fun k => s.gangHopes l k &&
    ((s.sheafOf l).gangOf k).any fun i => ((s.sheafOf l).node i).prio == 3 && s.eligible l ((s.sheafOf l).node i) t
  let gang := decide (1 < (s.withGang t).length)
  match next with
  | some (l, k) => ((s.clearTile t).bindTask l k (l.st k).bound t).countPasses l.id [k] (l.st k).cur
  | none =>
    if awaited then s
    else if gang then s.clearTile t
    else
      let s := s.updTile t fun T => { T with evict := false }
      if (s.tile t).halted then s else s.resumeTile t

/-- The saved tasks that are resumed together with that of tile `t`. -/
def State.savedWith (s : State) (t : Nat) : List Nat :=
  match FM.find? s.saved t with
  | none => []
  | some T =>
    match s.launch? T.launch with
    | none => [t]
    | some l =>
      let f := s.sheafOf l
      if (f.node T.node).gang.isNone then [t]
      else (s.saved.filter fun u => u.2.launch == l.id && (f.gangOf T.node).contains u.2.node).map fun u => u.1

/-- A tile on which a task saved by the dispatcher may go on. -/
def State.siteBack (s : State) (t : Nat) : Bool :=
  let T := s.tile t
  !T.bound && T.state == .running && decide (T.scrubTo ≤ s.tc) && !s.colDisabled (tileCol t) && (s.col (tileCol t)).holders.isEmpty

/-- Pre-empted tasks are resumed before any new binding on their sites (14 R375, R378); one that a PREEMPT.STOP
had stopped stands stopped again (R384). -/
def State.resumeSaved (s : State) : State :=
  s.saved.foldl (fun s k =>
    let t := k.1
    let ts := s.savedWith t
    let own := ts.foldl (fun s u => s.updTile u fun T => { T with ctx := k.2.ctx }) s
    if (FM.find? s.saved t).isSome && ts.all (fun u => s.siteBack u && own.slotReady u (tileCol u)) then
      ts.foldl (fun s u =>
        let s := s.restoreTile u (tileCol u)
        if (s.tile u).halted then s.stopTile u else s) s
    else s) s

/-- A binding decision (14 R375). -/
def State.decideBinding (s : State) : State :=
  let s := s.resumeSaved
  let s := (List.range 176).foldl (fun s t => if s.evictReady t then s.evictTile t else s) s
  match s.bestCand with
  | some c => s.bindCand c
  | none => s.preempt

def execBindingDecision (s : State) : Out := finish s.decideBinding

/-- The code pages of an image: (address, length) of the CIM words and of each resident region (15 R413). -/
def Image.parts (i : Image) (t : Nat) : List (Nat × Nat × Nat) :=
  (i.codeVa, 8 * i.words, cimBase t) :: i.rings.map fun r => (i.codeVa + r.at', 8 * r.res, spBase t + r.off)

/-- The first code page that does not translate with X in the tile's column. -/
def State.codeFault (s : State) (ctx t : Nat) (i : Image) : Option Xl :=
  (i.parts t).findSome? fun p => if p.2.1 = 0 then none else s.translateRange ctx (tileCol t) p.1 p.2.1 2 4

/-- The parts of an image past the first 4 KiB of its CIM words, page by page in address order, with the
translations of the bind. -/
def State.incomingOf (s : State) (ctx t : Nat) (i : Image) : List Incoming :=
  (i.parts t).flatMap fun p =>
    let skip := if p.2.2 = cimBase t then 4096 else 0
    let va := p.1 + skip
    let len := p.2.1 - skip
    if len = 0 then []
    else (pagesOf va len).filterMap fun a =>
      let n := min (4096 - a % 4096) (va + len - a)
      match s.translate ctx (tileCol t) a 2 4 with
      | .ok x => some ⟨p.2.2 + skip + (a - va), x.pa, a, x.mkey, n⟩
      | _ => none

/-- The tile as a bind leaves it (04 R96; 14 R380 and the chapters of its engines): what the spec gives no value
at bind stays (log entry 25). -/
def Tile.bindTo (T : Tile) (t : Nat) (n : Node) (i : Image) (p : Nat) (inc : List Incoming) : Tile :=
  let idx := n.indices p
  let regs : FM RegV := (List.range 6).map fun d => (d + 1, ⟨w64 (idx.getD d 0), false⟩)
  let ctx0 : CtlCtx := { CtlCtx.dormant with regs := regs, pc := n.entry, run := .running }
  let cap (r : Nat) : Cap := ((i.caps.find? fun c => c.1 == r).map fun c => BitVec.ofNat 128 c.2).getD 0
  let has (r : Nat) : Bool := i.caps.any fun c => c.1 == r
  { Tile.fresh t with
    mclk := T.mclk, site := T.site, arrays := T.arrays, xcal := T.xcal, verdicts := T.verdicts, testing := T.testing, sem := T.sem
    tq := T.tq, hq := T.hq, recvOpen := T.recvOpen, aregs := T.aregs, queues := T.queues, bound := true, ctx := T.ctx, sup := T.sup, row := tileRow t
    launch := T.launch, node := T.node, prio := T.prio, boundSeq := T.boundSeq, task := true, ctxs := [(0, ctx0)], cimLen := i.words
    incoming := inc, hctl := 0xE
    rings := (i.rings.map fun (r : RingImg) => (r.eng, Ring.mk r.off r.words r.res 0 0 r.routines [])).foldl
      (fun (m : FM Ring) r => FM.set m r.1 r.2) []
    cregs := i.caps.foldl (fun (m : FM CReg) c => FM.set m (c.1 % 16) ⟨BitVec.ofNat 128 c.2, true⟩) []
    mregs := [(0, ⟨BitVec.allOnes 1024, false⟩)], rowMask := 65535, xvm := 65535
    tsa := [(0, cap 13), (1, cap 14), (2, cap 15)], tsatag := bit (has 13) 0 + bit (has 14) 1 + bit (has 15) 2 }

/-- A bind that is refused: the completion word says so, and the tile is free again (15 R413). -/
def State.bindRefused (s : State) (t : Nat) (l : Launch) (cause : Nat) : State :=
  let o := originOf t 0
  let s := match l.cw with
    | some n => s.writeCw l.ctx (tileCol t) n (w64 l.number) (statusWord 0 ⟨true, cause, o⟩)
    | none => s
  (s.updLaunch l.id fun x => { x with killed := some (x.killed.getD (cause, o)) }).updTile t fun T => { T with bound := false, task := false }

/-- The bind message reaches its tile (14 R380; 15 R413): a fenced tile takes no task (01 R12; 17 R442), and one
that a node of prio 3 pre-empts stops (14 R378). -/
def State.bindArrives (s : State) (id : Nat) : State :=
  match s.flight? id with
  | some ⟨_, _, _, .bind t lid k p waits⟩ =>
    match s.launch? lid with
    | none => s.land id
    | some l =>
      if (s.tile t).state = .fenced ∨ s.colDisabled (tileCol t) then s.land id else
      let n := (s.sheafOf l).node k
      let i := (s.sheafOf l).images.getD n.image ⟨[], 0, [], [], 0⟩
      let stay (va : Nat) : State :=
        let e := ((s.lookup l.ctx (tileCol t) va).map fun e => e.1).getD 0
        let s := if waits then s else s.hostRecord (.of 4 l.ctx (tileCol t) 3 (originOf t 0) e va 0)
        s.refly id (s.tc + 1) (.bind t lid k p true)
      match s.codeFault l.ctx t i with
      | some (.held _ va) => stay va
      | some (.fault cause va) => if cause = 0x2B then stay va else (s.land id).bindRefused t l cause
      | _ =>
        let s := s.land id
        let evict := (s.tile t).evict
        let s := s.setTile t ((s.tile t).bindTo t n i p (s.incomingOf l.ctx t i))
        let s := State.retest { s with mem := memPut s.mem (cimBase t) i.head } t
        if evict then (s.stopTile t).updTile t fun T => { T with evict := true } else s
  | _ => s

def execTaskBind (id : Nat) (s : State) : Out := finish (s.bindArrives id)

/-- A line of a code page as it stands: its home's copy, or device memory. -/
def State.codeLine (s : State) (pa va mkey : Nat) : List Nat × Bool :=
  match (List.range 16).findSome? fun c => s.line? c pa with
  | some l => (bytesOfBv 64 l.data, l.p)
  | none => s.hbmLine pa va mkey

/-- The next part of the image arrives (14 R380). A poisoned line makes CIM words uncorrectable, and poisons
scratchpad (log entry 25). -/
def State.streamNext (s : State) (t : Nat) : State :=
  match (s.tile t).incoming with
  | [] => s
  | i :: rest =>
    let s := s.updTile t fun T => { T with incoming := rest }
    (List.range ((i.len + 63) / 64)).foldl (fun s j =>
      let (bs, q) := s.codeLine (i.pa + 64 * j) (i.va + 64 * j) i.mkey
      let o := (i.va + 64 * j) % 64
      let bs := (bs.drop o).take (min (64 - o) (i.len - 64 * j))
      let a := i.addr + 64 * j
      if cimBase t ≤ a then
        let s := { s with mem := memPut s.mem a bs }
        if q then s.updTile t fun T => { T with
          cimBad := (List.range 8).foldl (fun m w => setAdd m ((a - cimBase t) / 8 + w)) T.cimBad } else s
      else s.put a bs q) s

def execImageStream (t : Nat) (s : State) : Out := finish (s.streamNext t)

/-- Everything of a task that waits in DONE is at rest (04 R122). -/
def State.doneReady (s : State) (t : Nat) : Bool :=
  let T := s.tile t
  (T.cc 0).run == .inDone && T.pushes.isEmpty && T.hq.isEmpty && [1, 2, 3].all (fun c => (T.cc c).run == .dormant) &&
  [1, 2, 3, 4, 5].all (fun e => s.engIdle t e) && !(s.flights.any fun f => match f.fl with
    | .update .. => false
    | g => g.tile? == some t)

/-- The task of a tile is complete: the dispatcher counts it and the tile is free. CTXSCRUB sends its signal
first, then scrubs the tile and the column scratch of its column (14 R388). -/
def State.taskDone (s : State) (t : Nat) : State :=
  if !s.doneReady t then s
  else
    let T := s.tile t
    match T.endSig with
    | some (n + 1) => (s.updTile t fun T => { T with endSig := some 0 }).signalNow t 0 0 (n + 1) none
    | e =>
      let s := s.updLaunch T.launch fun l => l.updNode T.node fun x => { x with finished := x.finished + 1 }
      let s := if e.isSome then (s.scrubTile t).zeroScratch T.ctx (some (tileCol t)) else s
      s.updTile t fun T => { T with bound := false, task := false }

def execDoneCompletion (t : Nat) (s : State) : Out := finish (s.taskDone t)

/-- The flush of 12 R344: dirty lines of the write regions of a launch's nodes. -/
def State.launchFlush (s : State) (l : Launch) : State :=
  let rs := (s.sheafOf l).nodes.flatMap fun n => n.regions.filter fun r => r.2.2
  (List.range 16).foldl (fun s c => s.writeBack c fun x =>
    x.ctx == l.ctx && rs.any fun r => decide (x.va < r.1 + r.2.1) && decide (r.1 < x.va + 64)) s

/-- A node is complete; with the last of them the launch is (12 R344; 14 R379). -/
def State.nodeDone (s : State) (id k : Nat) : State :=
  let s := s.updLaunch id fun l => l.updNode k fun x => { x with complete := true }
  match s.launch? id with
  | none => s
  | some l =>
    if !(l.nodes.all fun n => n.complete) then s
    else
      let s := match l.cw with
        | none => s
        | some n =>
          let st := match l.killed with
            | some (c, o) => statusWord 0 ⟨true, c, o⟩
            | none => 0
          (s.launchFlush l).writeCw l.ctx (s.context l.ctx).grantCol n (w64 l.number) st
      { s with launches := s.launches.filter fun x => x.id != id }

def execNodeCompletion (l k : Nat) (s : State) : Out := finish (s.nodeDone l k)

end Sys2Proof.Machine
end

