-- ==== Sys2Proof/Machine/Land.lean ====
section
/-! DEFINITION. Sys2Proof/Machine/Land.lean: what lands: pending writes (04 R97; 06 R168; 14 R382), the effects that other units perform
for control-core words (14 R384 to R392; 15 R404 to R413; 16 R428), the delivery of engine faults and EFLT's actions (16 R424, R425),
waiting pushes (02 R32), the start of a handler (04 R125), and the home records of barriers (11 R313). -/

namespace Sys2Proof.Machine

/-- The landing of a vector register (06 R162, R168): masked lanes, and a write of only part keeps the old poison. -/
def State.landV (s : State) (t r : Nat) (m : MReg) (v : VVal) : State :=
  s.updTile t fun T =>
    let old := T.vreg r
    let new : VVal := if m = fullMask then v else
      ⟨buildV fun i j => if mbit m i j then lane v.v i j else lane old.v i j, v.p || old.p⟩
    { T with vregs := FM.set T.vregs r new, dirty := setAdd T.dirty r }

/-- The landing of a mask register. -/
def State.landM (s : State) (t r : Nat) (m : MReg) (v : MVal) : State :=
  s.updTile t fun T =>
    let old := T.mreg r
    let new : MVal := if m = fullMask then v else ⟨(v.v &&& m) ||| (old.v &&& ~~~m), v.p || old.p⟩
    { T with mregs := FM.set T.mregs r new }

/-- A POISON or SCRUB at tile scope (11 R320, R321): kind 0 a semaphore, 1 a token queue, 2 a barrier slot. A
reset queue lets one waiting push in (log entry 68). -/
def State.poisonObj (s : State) (t kind i cause : Nat) : State :=
  let T := s.tile t
  let o := originOf t 0
  (s.setTile t (match kind with
    | 0 => let x := T.semOf i; T.setSem i { x with pois := x.pois.poison cause o }
    | 1 => let x := T.tqOf i; T.setTq i { x with pois := x.pois.poison cause o }
    | _ => let x := T.barOf i; T.setBar i { x with pois := x.pois.poison cause o })).retest t
def State.scrubObj (s : State) (t kind i : Nat) (rst : Bool) : State :=
  let T := s.tile t
  let clear (x : SObj) : SObj := ⟨if rst then 0 else x.count, .clean⟩
  let s := s.setTile t (match kind with
    | 0 => T.setSem i (clear (T.semOf i))
    | 1 => T.setTq i (clear (T.tqOf i))
    | _ => T.setBar i ((T.barOf i).scrub rst))
  (if kind = 1 then s.soon [.pushes t i] else s).retest t

/-- The signal of a word that another unit has performed, with poison. -/
def State.reportP (s : State) (t c sig : Nat) (pois : Option (Nat × Nat)) : State :=
  if sig = 0 then s else s.toTile t 0 (.signal t 0 sig c pois)

/-- The end of a word that no value comes back to: its signal, and its context issues again. -/
def State.remoteEnd (s : State) (t c : Nat) (r : Remote) : State := (s.report t c r.sig).clearRmt t c r.op

/-- A value goes back to the word's context, whose register it reaches 3 tc later. The word counts as issuing
now (11 R319); one that was out over a stop keeps its context until the value lands (14 R391). -/
def State.answer (s : State) (t c : Nat) (r : Remote) (v : Word) : State :=
  if (s.tile t).state = .running ∧ (s.cc t c).rmt.any (fun q => decide (q.op < stoppedOp)) then
    let s := ((s.putS t c r.dst ⟨v, false⟩ 3 0).signalIn t 0 c r.sig 3 none).clearRmt t c 0
    s.updCc t c fun x => { x with nextAt := max x.nextAt ((s.tile t).clk + 1) }
  else s.toTile t 3 (.remote t c { r with op := 0 } [v.toNat, 0])

/-- Something under way for context `ctx` reaches `base` to `base + len` through an entry that it has looked up
(15 R407 step 3, R413): an access or put, a TSPILL, TFILL or CWPOST, a copy command's writes, runs or BFQ unit,
or the streaming of an image. -/
def State.shootBusy (s : State) (ctx base len : Nat) : Bool :=
  let hit (a n : Nat) : Bool := decide (a < base + len) && decide (base < a + n)
  let copies (t k : Nat) (c : CCmd) : Bool :=
    (c.out.any fun o => !o.phys.isEmpty && o.gs.any fun g => hit g.1 g.2.1.length) ||
      (c.runs.any fun r => (r.src ++ r.dst).any fun x => hit (4096 * x.1) 4096) ||
      (c.op == 0x13 && c.list.isSome && !((s.col (tileCol t)).held.any fun h => h.what == .copy t k))
  (s.flights.any fun f => match f.fl with
    | .access a => (s.tile a.t).ctx == ctx && a.stage == 0 && f.clk == .dev && decide (2 ≤ a.space) && decide (a.space ≤ 4) &&
        a.keys.any fun k => hit k.1 (max a.size 1)
    | .put p => (s.tile p.t).ctx == ctx && p.space == 4 && !p.written && f.clk == .dev && hit p.dst p.len
    | .remote t _ r vs => (s.tile t).ctx == ctx &&
        (((r.op == 0x51 || r.op == 0x52) && vs.getD 0 0 == 2 && vs.getD 6 0 != 0 && hit (vs.getD 2 0) (8 * vs.getD 4 0)) ||
          (r.op == 0x3C && hit ((s.context ctx).cwBlock + 16 * vs.getD 0 0) 16))
    | _ => false) ||
  (s.tiles.any fun T => T.2.ctx == ctx && T.2.ccmds.any fun k => copies T.1 k.1 k.2) ||
  (s.context ctx).tiles.any fun t => (s.tile t).incoming.any fun i => hit i.va i.len

/-- Entries of a context in a column, changed by `f` (15 R407 step 1). -/
def State.updEntries (s : State) (ctx col : Nat) (f : Cap → Cap) : State :=
  s.updCol col fun C => { C with
    entries := C.entries.map fun (p : Nat × Cap) => (p.1, if entValid p.2 && entCtx p.2 == ctx then f p.2 else p.2) }

/-- An entry overlaps a virtual range. -/
def entHits (e : Cap) (base len : Nat) : Bool := decide (entVa e < base + len) && decide (base < entVa e + 2 ^ entShift e)

/-- The shoot-down of a range in every column of a context's grant (15 R408). -/
def State.shootDown (s : State) (ctx base len : Nat) (inv : Bool) : State :=
  (s.context ctx).columns.foldl (fun s c => s.updEntries ctx c fun e =>
    if !entHits e base len then e else if inv then entSet e 8 1 0 else entSet e 9 2 1) s

/-- Peer ports that a kind-2 entry of the context names and that have not failed, as a mask. -/
def State.portsOf (s : State) (ctx : Nat) : Nat :=
  (List.range 8).foldl (fun m p =>
    let named := (s.context ctx).columns.any fun c => (s.col c).entries.any fun (q : Nat × Cap) =>
      entValid q.2 && entCtx q.2 == ctx && entKind q.2 == 2 && entPort q.2 == p
    if named && !s.sys.portFailed.contains p then m + 2 ^ p else m) 0

/-- TLD's installation (15 R404): every named column takes the entries, with ctx set, and remembers the image
for its refill walker. -/
def State.installTable (s : State) (ctx va : Nat) (f : Word) (es : List Cap) : State :=
  (tldCols f).foldl (fun s c =>
    let (p, _) := (s.context ctx).part c
    s.updCol c fun C => { C with
      entries := (List.zip (List.range es.length) es).foldl
        (fun (m : FM Cap) (ie : Nat × Cap) => FM.set m (p + tldFirst f + ie.1) (entSet ie.2 4 4 ctx)) C.entries
      images := FM.set C.images ctx (4096 * va + tldFirst f) }) s

/-- The entries that a TLD replaces are still in use. -/
def State.tableBusy (s : State) (ctx : Nat) (f : Word) (n : Nat) : Bool :=
  (tldCols f).any fun c =>
    let (p, _) := (s.context ctx).part c
    (List.range n).any fun i =>
      match FM.find? (s.col c).entries (p + tldFirst f + i) with
      | some e => entValid e && s.shootBusy ctx (entVa e) (2 ^ entShift e)
      | none => false

/-- TMAP's effect (15 R406): the frame is zeroed under the entry's key, then the entry is present in every
column that maps it with state 2. `f` is the frame's number of 4 KiB. -/
def State.mapFrame (s : State) (ctx col va perms f big : Nat) : State :=
  match s.lookup ctx col va with
  | none => s
  | some (_, e) =>
    let base := entVa e
    let n := 2 ^ sizeShift big / 64
    let s := (List.range n).foldl (fun s i =>
      let pa := f * 4096 + 64 * i
      let s := (List.range 16).foldl (fun s c => s.dropLine c pa) s
      s.hbmSetLine pa (base + 64 * i) (entKey e) (List.replicate 64 0) false) s
    (s.context ctx).columns.foldl (fun s c => s.updEntries ctx c fun e =>
      if entMatches e ctx va && entState e == 2 then entSet (entSet (entSet e 76 40 f) 13 3 perms) 9 2 0 else e) s

/-- TUNMAP's effect (15 R409): the entry's new state in every column that maps the page, and a returned frame to
the pool. -/
def State.unmapPage (s : State) (ctx va st ret frame big : Nat) : State :=
  let s := (s.context ctx).columns.foldl (fun s c => s.updEntries ctx c fun e =>
    if entMatches e ctx va then entSet e 9 2 st else e) s
  if ret = 1 then
    s.updContext ctx fun x => if big = 0 then { x with pool4 := x.pool4 ++ [frame] } else { x with pool64 := x.pool64 ++ [frame] }
  else s

/-- A completion word with a new value or status (11 R316, R320, R321). -/
def State.editCw (s : State) (ctx col n : Nat) (f : Word → Word → Word × Word) : State :=
  match s.devGet ctx col ((s.context ctx).cwBlock + 16 * n) 16 with
  | (some (bs, _), s) =>
    let r := f (w64 (leNat (bs.take 8))) (w64 (leNat (bs.drop 8)))
    s.putCw ctx col n r.1 r.2
  | (none, s) => s

/-- A deque's poison field and entries at its column. -/
def State.editDeque (s : State) (col n : Nat) (f : Deque → Deque) : State :=
  s.updCol col fun C => match FM.find? C.deques n with
    | some d => { C with deques := FM.set C.deques n (f d) }
    | none => C

/-- What keeps another unit from performing a control-core word's effect now: release order (12 R334), an
earlier SNAPWR (14 R385), a save that waits (R392), a hold of the column over whose culm a save or restore goes
(17 R443), accesses that a shoot-down waits for (15 R407). -/
def State.remoteWaits (s : State) (id t c : Nat) (r : Remote) (vs : List Nat) : Bool :=
  let v (i : Nat) : Nat := vs.getD i 0
  let ctx := (s.tile t).ctx
  match r.op with
  | 0x3C => decide (2 ≤ v 3) && !s.ctlDrained t c id
  | 0x142 => s.flights.any fun f => match f.fl with
      | .remote u d q ws => u == t && d == c && q.op == 0x44 && ws.getD 0 0 == v 0 && decide (f.id < id)
      | _ => false
  | 0x45 => (s.tile (v 0)).state == .stopped &&
      (s.saveWaits (v 0) || !s.slotReady (v 0) (tileCol (v 0)) || !(s.col (tileCol (v 0))).holders.isEmpty)
  | 0x46 => (s.tile (v 0)).state == .saved && (!s.slotReady (v 0) (tileCol (v 0)) || !(s.col (tileCol (v 0))).holders.isEmpty)
  | 0x145 => decide (s.tc < (s.tile (v 0)).scrubTo)
  | 0x49 => s.tableBusy ctx (w64 (v 1)) (vs.length - 2)
  | 0x4C => (s.mappings ctx (tileCol t) (v 0)).any fun e => s.shootBusy ctx (entVa e) (2 ^ entShift e)
  | 0x4D => s.shootBusy ctx (v 0) (v 1)
  | _ => false

/-- The end of a word that writes completion word `n`: at a fenced home nothing is written and its signal is
poisoned (17 R442). -/
def State.cwEnd (s : State) (t c : Nat) (r : Remote) (n : Nat) (f : State → State) : State :=
  match s.writeRefused t 0 2 0 ((s.context (s.tile t).ctx).cwBlock + 16 * n) with
  | some q => (s.reportP t c r.sig (some q)).clearRmt t c r.op
  | none => (f s).remoteEnd t c r

/-- The end of a CWPOST (11 R316), by the translation of its issue: at a fenced home nothing is written (17
R442). With `q` the flit is delivered poisoned (17 R438). -/
def State.cwpostEnd (s : State) (t c : Nat) (r : Remote) (vs : List Nat) (q : Bool) : State :=
  let ctx := (s.tile t).ctx
  let p := physOfNums (vs.drop 4)
  let s := if 2 ≤ vs.getD 3 0 then s.releaseSystem ctx else s
  if vs.length ≤ 4 then s.remoteEnd t c r
  else if s.colDisabled p.home then (s.reportP t c r.sig (some (0x57, originOf t 0))).clearRmt t c r.op
  else (s.writeCwAt ctx p (vs.getD 0 0) (w64 (vs.getD 1 0)) (w64 (vs.getD 2 0)) q).remoteEnd t c r

/-- An object's SCRUB or POISON at a deque's column or a completion word's home. -/
def State.remoteObj (s : State) (t c : Nat) (r : Remote) (vs : List Nat) : State :=
  let v (i : Nat) : Nat := vs.getD i 0
  let ctx := (s.tile t).ctx
  let o := originOf t 0
  if v 0 = 4 then
    if s.colDisabled (v 1) then (s.reportP t c r.sig (some (0x57, originOf t 0))).clearRmt t c r.op
    else
      (s.editDeque (v 1) (v 2) fun d =>
        if r.op = 0x39 then { d with pois := .clean, ents := if v 3 = 1 then [] else d.ents }
        else { d with pois := d.pois.poison (v 3) o }).remoteEnd t c r
  else
    s.cwEnd t c r (v 2) fun s => s.editCw ctx (tileCol t) (v 2) fun x st =>
      if r.op = 0x39 then (if v 3 = 1 then 0 else x, 0)
      else (x, if st.toNat / 2 ^ 16 % 2 = 1 then st else statusWord 0 ⟨true, v 3, o⟩)

/-- What a TSPILL or TFILL on its way has left to do: its operands, the translations of its pages, and its
registers as (number, value, poison, whether it is done). -/
structure Spill where
  sp : Nat
  unit : Nat
  a : Nat
  first : Nat
  n : Nat
  refused : Nat
  xs : List (Nat × Phys)
  regs : List (Nat × Nat × Nat × Nat)

def Spill.of (fill : Bool) (vs : List Nat) : Spill :=
  let v (i : Nat) : Nat := vs.getD i 0
  let rest := vs.drop (7 + 8 * v 6)
  let w := if fill then 4 else 3
  ⟨v 0, v 1, v 2, v 3, v 4, v 5, (List.range (v 6)).map fun i => (v (7 + 8 * i), physOfNums (vs.drop (8 + 8 * i))),
    (List.range (rest.length / w)).map fun i =>
      (rest.getD (w * i) 0, rest.getD (w * i + 1) 0, rest.getD (w * i + 2) 0, if fill then rest.getD (w * i + 3) 0 else 0)⟩
def Spill.nums (x : Spill) (fill : Bool) : List Nat :=
  [x.sp, x.unit, x.a, x.first, x.n, x.refused, x.xs.length] ++ (x.xs.flatMap fun p => p.1 :: p.2.nums) ++
    x.regs.flatMap fun r => if fill then [r.1, r.2.1, r.2.2.1, r.2.2.2] else [r.1, r.2.1, r.2.2.1]

/-- One register of a TSPILL or TFILL stored or loaded (16 R428); a fenced home does not execute the store (17
R442). -/
def State.spillOne (s : State) (t : Nat) (fill : Bool) (x : Spill) (j : Nat) : Spill × State :=
  let r := x.regs.getD j (0, 0, 0, 0)
  let a := x.a + 8 * r.1
  let put (v : Nat × Nat × Nat × Nat) : Spill := { x with regs := x.regs.mapIdx fun i y => if i = j then v else y }
  if fill then
    let ((bs, q), s) := s.readAt t x.sp x.unit a 8 x.xs
    (put (r.1, leNat bs, bit q 0, 1), s)
  else if (s.refusedAt t 0 x.sp x.unit a x.xs).isSome then ({ put (r.1, r.2.1, r.2.2.1, 1) with refused := 1 }, s)
  else (put (r.1, r.2.1, r.2.2.1, 1), s.writeAt t x.sp x.unit a (natLe 8 r.2.1) (r.2.2.1 == 1) x.xs)

/-- The end of a TSPILL, or of a TFILL with its registers from `r.dst` on, one tc after the last value (16 R428). -/
def State.spillEnds (s : State) (t c : Nat) (r : Remote) (fill : Bool) (x : Spill) : State :=
  if fill then
    let s := x.regs.foldl (fun s v =>
      if r.dst + v.1 = 0 then s else s.toTile t 1 (.sreg t c (r.dst + v.1) ⟨w64 v.2.1, v.2.2.1 == 1⟩ 0)) s
    s.toTile t 1 (.remote t c ⟨0, r.sig, 0⟩ [0, 0])
  else (s.reportP t c r.sig (if x.refused = 1 then some (0x57, originOf t 0) else none)).clearRmt t c r.op

/-- The turn of a TSPILL or TFILL: any of what is left is performed, in any order (16 R428; 12 R336). While its
tile is stopped nothing is, and what is left is translated again after it: a failure traps at the word, or is
held (15 R400, R403). -/
def State.spillTurn (s : State) (id t c : Nat) (r : Remote) (vs : List Nat) : State :=
  let fill := r.op == 0x52
  let x := Spill.of fill vs
  let later (s : State) (x : Spill) : State := s.refly id (s.tc + 1) (.remote t c r (x.nums fill))
  let col := tileCol t
  let ctx := (s.tile t).ctx
  if (s.tile t).state != .running then later s { x with xs := [] }
  else
    let left := (List.range x.regs.length).filter fun j => (x.regs.getD j (0, 0, 0, 0)).2.2.2 == 0
    let fails := if x.sp = 2 ∧ x.xs = [] then left.findSome? fun j =>
        match s.translate ctx col (x.a + 8 * (x.regs.getD j (0, 0, 0, 0)).1) 2 (if fill then 1 else 2) with
        | .ok _ => none
        | e => some e
      else none
    match fails with
    | some (.fault cause va) =>
      ((s.land id).clearRmt t c r.op).trap t c cause x.first (w64 va) (.ctl (decide (x.first + 1 < (s.cc t c).pc)))
    | some (.held i va) =>
      if (s.col col).held.any fun h => h.what == .ctl t c then later s x
      else later (s.holdAccess col (.ctl t c) ctx va (if fill then 0 else 1) (originOf t 0) i) x
    | _ =>
      let x := if x.xs = [] then { x with xs := s.capture ctx col x.sp (pagesOf x.a (8 * x.n)) } else x
      let (n, s) := takeFree s
      let late := (s.flight? id).any fun f => decide (f.due < s.tc)
      let (x, s) := left.foldl (fun (o : Spill × State) j => if late ∨ n / 2 ^ j % 2 = 1 then o.2.spillOne t fill o.1 j else o) (x, s)
      if x.regs.all fun v => v.2.2.2 == 1 then (s.land id).spillEnds t c r fill x
      else later s { x with regs := if fill then x.regs else x.regs.filter fun v => v.2.2.2 == 0 }

/-- The hold of an STEST of unit `u` ends with a pass (16 R437): the context issues again, and the value lands
one tc later. -/
def State.stestEnds (s : State) (t c : Nat) (r : Remote) (u : Nat) : State :=
  let v := w64 (s.transients t u)
  let s := s.updTile t fun T => if u = 0 then { T with hold0 := none } else { T with testing := FM.del T.testing u }
  ((s.putS t c r.dst ⟨v, false⟩ 1 0).signalIn t 0 c r.sig 1 none).clearRmt t c 0

/-- Another unit performs a control-core word's effect (14 R391). -/
def State.remotePerform (s : State) (t c : Nat) (r : Remote) (vs : List Nat) : State :=
  let v (i : Nat) : Nat := vs.getD i 0
  let ctx := (s.tile t).ctx
  let col := tileCol t
  match r.op with
  | 0 =>
    let s := if r.dst = 0 then s else s.updCc t c fun x => { x with regs := FM.set x.regs r.dst ⟨w64 (v 0), v 1 == 1⟩ }
    ((s.signalNow t 0 c r.sig none).orFlags t 0 (v 2)).clearRmt t c 0
  | 0x38 =>
    if vs.getD 0 0 = 4 ∧ s.colDisabled (vs.getD 1 0) then (s.reportP t c r.sig (some (0x57, originOf t 0))).clearRmt t c r.op
    else let (w, s) := s.synValue t vs; s.answer t c r w
  | 0x39 => s.remoteObj t c r vs
  | 0x3A => s.remoteObj t c r vs
  | 0x3C => s.cwpostEnd t c r vs false
  | 0x3E => (s.writeBack (v 0) (inWays ctx (v 1) (v 2))).remoteEnd t c r
  | 0x3F => ((s.writeBack (v 0) (inWays ctx (v 1) (v 2))).dropLines (v 0) (inWays ctx (v 1) (v 2))).remoteEnd t c r
  | 0x42 =>
    let x := s.stopTile (v 0)
    (if x = s then s else x.updTile (v 0) fun T => { T with halted := true }).remoteEnd t c r
  | 0x142 =>
    let s := s.updTile (v 0) fun T => { T with halted := false }
    if (s.tile (v 0)).state = .stopped ∧ !(s.tile (v 0)).evict then
      (s.resumeTile (v 0)).flyDev 1 (.remote t c { r with op := 0x242 } vs)
    else s.remoteEnd t c r
  | 0x43 => s.answer t c r ((s.snapView (v 0)).snapReg (v 0) (v 1))
  | 0x44 => (s.snapWrite (v 0) (v 1) (w64 (v 2))).remoteEnd t c r
  | 0x45 =>
    if (s.tile (v 0)).state = .stopped then
      let s := s.saveTile (v 0) (tileCol (v 0)) (v 1)
      s.flyDev ((s.tile (v 0)).scrubTo - s.tc) (.remote t c { r with op := 0x145 } vs)
    else s.remoteEnd t c r
  | 0x46 => ((s.restoreTile (v 0) (tileCol (v 0))).updTile (v 0) fun T => { T with halted := false }).remoteEnd t c r
  | 0x48 =>
    let x := s.cc t c
    s.tearDown ctx 2 (v 0) (originOf t 0) ((FM.get 0 x.tcause 1).toNat % 256) ((FM.get 0 x.tcause 2).toNat % 256)
  | 0x49 =>
    let es := (vs.drop 2).map fun e => BitVec.ofNat 128 e
    (s.installTable ctx (v 0) (w64 (v 1)) es).answer t c r (w64 (es.filter entValid).length)
  | 0x4A =>
    let e := (FM.get 0 (s.col (v 0)).entries (((s.context ctx).part (v 0)).1 + v 1)).toNat
    s.answer t c r (w64 (if v 2 = 0 then e % 2 ^ 64 else e / 2 ^ 64))
  | 0x4B => (s.mapFrame ctx col (v 0) (v 1) (v 2) (v 3)).answer t c r (w64 (v 2 * 4096))
  | 0x4C =>
    match s.mappings ctx col (v 0) with
    | [] => s.answer t c r 0
    | e :: _ => (s.unmapPage ctx (v 0) (v 1) (v 2) (entPa e / 4096) (ent e 0 4)).answer t c r (w64 (entPa e))
  | 0x4D =>
    let ports := if v 2 = 1 then s.portsOf ctx else 0
    let s := s.shootDown ctx (v 0) (v 1) (v 3 == 1)
    if ports = 0 then s.answer t c r 0
    else s.flyDev 98304 (.remote t c { r with op := 0x14D } [ports, 0, s.tc + 98304])
  | 0x53 => s.stestEnds t c r (unitOf (v 0) (v 1))
  | _ => s.remoteEnd t c r

/-- The turn of a control-core word's effect at another unit: it waits a tc where something keeps it; a save
closes the receive unit first (14 R392). -/
def State.remoteTurn (s : State) (id t c : Nat) (r : Remote) (vs : List Nat) : State :=
  if r.op = 0x51 ∨ r.op = 0x52 then s.spillTurn id t c r vs
  else if r.op = 0x45 ∧ (s.tile (vs.getD 0 0)).state = .stopped ∧ s.remoteWaits id t c r vs then
    (s.updTile (vs.getD 0 0) fun T => { T with recvOpen := false }).refly id (s.tc + 1) (.remote t c r vs)
  else if s.remoteWaits id t c r vs then s.refly id (s.tc + 1) (.remote t c r vs)
  else (s.land id).remotePerform t c r vs

/-- A filled queue entry with its flags: a matrix command's go with its window (07 R220). -/
def State.landQ (s : State) (t e q idx : Nat) (v : VVal) (fl : Nat) : State :=
  (s.updTile t fun T => T.setQueue q ((T.queue q).fill idx v)).orFlags t e fl

/-- What a flight does as it lands. The flights that other events perform are left as they are. -/
def State.landing (s : State) (id : Nat) : Fl → State
  | .sreg t c r v flag =>
    let s := if r = 0 then s.land id else (s.land id).updCc t c fun x => { x with regs := FM.set x.regs r v }
    s.orFlags t 0 flag
  | .areg t r v fl => ((s.land id).updTile t fun T => { T with aregs := FM.set T.aregs r v }).orFlags t 1 fl
  | .creg t r v fl => ((s.land id).updTile t fun T => { T with cregs := FM.set T.cregs r v }).orFlags t 1 fl
  | .vreg t r m v fl => ((s.land id).landV t r m v).orFlags t 2 fl
  | .mreg t r m v fl => ((s.land id).landM t r m v).orFlags t 2 fl
  | .tile t r vec win v fl =>
    let s := (s.land id).updTile t fun T => { T with accs := FM.set T.accs r v }
    if vec then s.orFlags t 2 fl else s.mtxFlags t win fl
  | .mstep t r rows win adds p fl => (s.land id).stepLands t r rows win adds p fl
  | .mdone t win k sig => (s.land id).mtxDone t win k sig
  | .mclose t sig => (s.land id).endWindow t sig
  | .qfill t e q idx v fl => (s.land id).landQ t e q idx v fl
  | .flags t e bits => (s.land id).orFlags t e bits
  | .signal t e sig c pois => (s.land id).signalNow t e c sig pois
  | .sysw t c reg v p => (s.land id).sysPut t c reg v p
  | .hend t c sig => (s.land id).finishHend t c sig
  | .semset t _ n v => (((s.land id).updTile t fun T => T.setSem n { T.semOf n with count := v })).retest t
  | .bhmap t n slot => (s.land id).updTile t fun T => { T with bh := FM.set T.bh n slot }
  | .binit t _ slot scope home target =>
    ((s.land id).updTile t fun T => T.setBar slot ((T.barOf slot).binit scope home target (originOf t 0))).retest t
  | .poison t _ kind i cause => (s.land id).poisonObj t kind i cause
  | .scrub t _ kind i rst => (s.land id).scrubObj t kind i rst
  | .mtwr t level field v => (s.land id).updTile t fun T => { T with shadow := FM.set T.shadow (8 * level + field) v }
  | .ringw t e ws => (s.land id).pushRing t e ws
  | .ringFork t e routine count => (s.land id).pushFork t e routine count
  | .mring t k v => (s.land id).updTile t fun T => { T with opr := FM.set T.opr k v }
  | .rowMask t m p => (s.land id).updTile t fun T => { T with rowMask := m, rowMaskP := p }
  | .mwindow t first cnt => (s.land id).openWindow t (id + 1) first cnt
  | .xring t out k r =>
    (s.land id).updTile t fun T => if out then { T with xout := FM.set T.xout k r } else { T with xin := FM.set T.xin k r }
  | .xgroup t g v => (s.land id).updTile t fun T => { T with xgroups := FM.set T.xgroups g v }
  | .xvmask t m p => (s.land id).updTile t fun T => { T with xvm := m, xvmP := p }
  | .xcfg t a n depth qexp enc =>
    (s.land id).updTile t (overArrays a n fun A => { A with depth := depth, qexp := qexp, enc := enc })
  | .xrgmask t a n rg => (s.land id).updTile t (overArrays a n fun A => { A with rgmask := rg })
  | .xpriv t a n on =>
    let ctx := (s.tile t).ctx
    (s.land id).updTile t (overArrays a n fun A => if on then { A with priv := true, owner := ctx } else { A with priv := false, owner := 0 })
  | .scratch t off bytes => (s.land id).put (spBase t + off) bytes false
  | .crec t base => (s.land id).updTile t fun T => { T with crec := some base }
  | .calEffect t op vs => if 7 ≤ op ∧ op ≤ 9 then (s.land id).statusEffect t op vs else (s.land id).calQuickEffect t op vs
  | .remote t c r vs => s.remoteTurn id t c r vs
  | .eflt .. => s
  | .access _ => s
  | .put _ => s
  | .home .. => s
  | .update .. => s
  | .launch .. => s
  | .bind .. => s

def execPendingWriteLands (id : Nat) (s : State) : Out :=
  match s.flight? id with
  | some f => finish (s.landing id f.fl)
  | none => finish s

/-- Context 0 takes engine faults now (16 R424): level 0, and no word of it awaits another unit. -/
def State.takesFaults (s : State) (t : Nat) : Bool :=
  let x := s.cc t 0
  x.tlvl == 0 && x.rmt.isNone && (s.outstanding t 0).isNone && !((s.tile t).pushes.any fun p => p.stream == 0)

/-- The pending fault of lowest engine. -/
def Tile.pendingFault (T : Tile) : Option (Nat × Fault0) :=
  [1, 2, 3, 4, 5].findSome? fun e =>
    let x := T.engine e
    if x.stop && x.pend then x.fault.map fun f => (e, f) else none

/-- Delivery of an engine fault (16 R422, R424): the held word is abandoned and its group's first word is TEPC1. -/
def State.deliverFault (s : State) (t : Nat) : State :=
  match (s.tile t).pendingFault with
  | none => s
  | some (e, f) =>
    if !s.takesFaults t then s
    else
      let x := s.cc t 0
      let s := (s.updEng t e fun y => { y with pend := false }).updTile t fun T => { T with endSig := none }
      s.trap t 0 f.cause (x.latch.start.getD x.pc) f.tval ⟨true, e, f.pfx, false, f.roff, f.wdone⟩

def execEngineFaultDelivery (t : Nat) (s : State) : Out := finish (s.deliverFault t)

/-- The flights of an EFLT action on engine `e`. -/
def Fl.isEflt (t e : Nat) : Fl → Bool
  | .eflt u d _ => u == t && d == e
  | _ => false
def State.landEflt (s : State) (t e : Nat) : State := { s with flights := s.flights.filter fun f => !f.fl.isEflt t e }

/-- An engine that rst and skip act on (16 R425). -/
def Tile.efltActs (T : Tile) (e : Nat) : Bool := (T.engine e).stop && !(T.engine e).pend

/-- rst (16 R425): the kept group is executed again. -/
def State.efltRst (s : State) (t e : Nat) : State :=
  let s := s.landEflt t e
  if !(s.tile t).efltActs e then s
  else (s.cpyRestart t e false).updEng t e fun x => { x with
    stop := false, latch := .empty, waitFrom := none, waitDone := (x.fault.map fun f => f.wdone && !f.group.isEmpty).getD false
    again := (x.fault.map fun f => f.group).getD [] ++ x.again, nextAt := max x.nextAt (s.tile t).clk }

/-- skip: the head goes past the reported group, if it is not past it. -/
def State.efltSkip (s : State) (t e : Nat) : State :=
  let s := s.landEflt t e
  if !(s.tile t).efltActs e then s
  else
    let x := (s.tile t).engine e
    let s := (s.cpyRestart t e true).updEng t e fun x => { x with
      stop := false, latch := .empty, waitFrom := none, waitDone := false, fault := none
      nextAt := max x.nextAt (s.tile t).clk }
    if (x.fault.map fun f => f.begun).getD true then s else s.passSource t e

def execEfltRst (t e : Nat) (s : State) : Out := finish (s.efltRst t e)
def execEfltSkip (t e : Nat) (s : State) : Out := finish (s.efltSkip t e)

/-- The command of stream 7 or 8 whose push `p` takes effect is no longer in flight. -/
def Tile.pushSent (T : Tile) (p : PushW) : Tile :=
  if p.stream = 8 then
    match List.find? (fun (c : Nat × CCmd) => c.2.phase == 3 && c.2.at' == p.seq && c.2.sig == 32 + p.cons) T.ccmds with
    | some c => { T with ccmds := FM.del T.ccmds c.1 }
    | none => T
  else if p.stream = 7 then
    match List.find? (fun (c : Nat × XCmd) => c.2.held == some p.seq && c.2.sig == 32 + p.cons) T.xcmds with
    | some c => { T with xcmds := FM.del T.xcmds c.1 }
    | none => T
  else T

/-- The command whose arrival had flight number `id` is no longer in flight (19 R462). -/
def Tile.arrivalSent (T : Tile) (id : Nat) : Tile := { T with
  ccmds := T.ccmds.filter fun c => !(c.2.phase == 3 && decide (256 ≤ c.2.sig) && c.2.at' == id)
  xcmds := T.xcmds.filter fun c => !(decide (256 ≤ c.2.sig) && c.2.held == some id) }
def State.arrivalSent (s : State) (t id : Nat) : State :=
  s.updTask t fun T => T.arrivalSent id

/-- The earliest push that waits at queue `q` takes effect where the queue has room (02 R32). -/
def State.pushWaiting (s : State) (t q : Nat) : State :=
  let T := s.tile t
  let o := T.tqOf q
  match T.pushes.find? fun p => tqIndex p.prod p.cons == q with
  | none => s
  | some p =>
    if 63 ≤ o.count then s
    else (s.setTile t ({ T.setTq q { o with count := o.count + 1 } with pushes := T.pushes.erase p }.pushSent p)).retest t

def execTokenPushTakesEffect (t q : Nat) (s : State) : Out := finish (s.pushWaiting t q)

/-- The lowest dormant handler context that HCTL enables (04 R125); while DONE waits, each is (04 R122). -/
def Tile.handlerEnabled (T : Tile) (k : Nat) : Bool := (T.cc 0).run == .inDone || T.hctl / 2 ^ k % 2 == 1
def Tile.freeHandler (T : Tile) : Option Nat := [1, 2, 3].find? fun k => (T.cc k).run == .dormant && T.handlerEnabled k

/-- The start of a handler (04 R125). -/
def State.startHandler (s : State) (t : Nat) : State :=
  let T := s.tile t
  match T.hq, T.freeHandler with
  | h :: hs, some k =>
    let regs : FM RegV := [(1, ⟨w64 h.off, false⟩), (2, ⟨w64 h.len, false⟩), (3, ⟨w64 h.origin, false⟩), (4, ⟨h.arg, false⟩)]
    let x := { CtlCtx.ended (T.cc k) with regs := regs, pc := h.pc, run := .running, nextAt := T.clk + 1 }
    s.setTile t { T.setCc k x with hq := hs }
  | _, _ => s

def execHandlerStart (t : Nat) (s : State) : Out := finish (s.startHandler t)

/-- A message from a home record to tile `t`: never before an earlier one to the same slot. -/
def State.sendUpdate (s : State) (t slot : Nat) (near : Bool) (fl : Fl) : State :=
  let (d, s) := s.fabricTime near 28 80
  let last := s.flights.foldl (fun m f => match f.fl with
    | .update u k _ _ => if u = t ∧ k = slot then max m f.due else m
    | .home u k what .. => if u = t ∧ k = slot ∧ 7 ≤ what then max m f.due else m
    | _ => m) 0
  s.fly .dev (max (s.tc + d) last) fl

/-- A home record sends its gen to every participant, with the poison field `f` where that has changed (11 R313,
R321). -/
def State.sendUpdates (s : State) (slot : Nat) (r : HomeRec) (f : Option PField) : State :=
  r.parts.foldl (fun s t => s.sendUpdate t slot (r.slot.scope == 1) (.update t slot r.slot.gen f)) s

/-- A column's home records of a context's slot poisoned (16 R433; 17 R442), with the messages that follow. -/
def State.poisonHome (s : State) (c key cause origin : Nat) : State :=
  match FM.find? (s.col c).homes key with
  | none => s
  | some r =>
    let r' := { r with slot := { r.slot with pois := r.slot.pois.poison cause origin } }
    (s.updCol c fun C => { C with homes := FM.set C.homes key r' }).sendUpdates (key % 1024) r' (some r'.slot.pois)

/-- What a change of a home record from `r` to `r'` sends: nothing, its new gen, or its poison field. -/
def State.homeTells (s : State) (slot : Nat) (r r' : HomeRec) : State :=
  if r'.slot.pois ≠ r.slot.pois then s.sendUpdates slot r' (some r'.slot.pois)
  else if r'.slot.gen ≠ r.slot.gen then s.sendUpdates slot r' none
  else s

/-- The poison field of a slot that a home record's field reaches: the first poison is kept, and only a SCRUB
clears (11 R302, R321). -/
def PField.told (p : PField) : Option PField → PField
  | none => p
  | some f => if f.bit then p.poison f.cause f.origin else .clean

/-- An arrival, BINIT, POISON or SCRUB is performed at a home record (11 R310 to R313, R320, R321). The
acknowledgement of the last three goes back as a message of kind 7 for BINIT, with the record's scope, home, gen
and target, and 8 for the others. -/
def State.homePerform (s : State) (t slot what a b : Nat) (pois : Option (Nat × Nat)) (sig c : Nat) : State :=
  let T := s.taskTile t
  let L := T.barOf slot
  let dc := if what = 1 then (if a % 4 = 1 then tileCol t else a / 4) else L.homeCol t
  let key := homeKey T.ctx slot
  let near := (if what = 1 then a % 4 else L.scope) == 1
  if s.colDisabled dc then
    let s := s.sendUpdate t slot near (.update t slot L.gen (some ⟨true, 0x57, originCol dc 1⟩))
    if what = 0 then s else s.sendUpdate t slot near (.home t slot 8 0 0 (some (0x57, originOf t 0)) sig c)
  else if what = 0 then
    match FM.find? (s.col dc).homes key with
    | none => s
    | some r =>
      let x := r.slot.arrive pois (originOf t a)
      let s := s.updCol dc fun C => { C with homes := FM.set C.homes key { r with slot := x } }
      s.homeTells slot r { r with slot := x }
  else if what = 1 then
    let r := FM.get ⟨.zero, []⟩ (s.col dc).homes key
    let x := r.slot.binit (a % 4) (a / 4) b (originOf t 0)
    let r' : HomeRec := ⟨x, setAdd r.parts t⟩
    let s := s.updCol dc fun C => { C with homes := FM.set C.homes key r' }
    let s := s.homeTells slot r r'
    s.sendUpdate t slot near
      (.home t slot 7 (a + 64 * x.gen) x.target (if x.pois.bit then some (x.pois.cause, x.pois.origin) else none) sig c)
  else
    let s := match FM.find? (s.col dc).homes key with
      | none => s
      | some r =>
        let x := if what = 2 then { r.slot with pois := r.slot.pois.poison a (originOf t 0) } else r.slot.scrub (what == 4)
        let s := s.updCol dc fun C => { C with homes := FM.set C.homes key { r with slot := x } }
        s.homeTells slot r { r with slot := x }
    s.sendUpdate t slot near (.home t slot 8 0 0 none sig c)

def execHomeArrival (id : Nat) (s : State) : Out :=
  match s.flight? id with
  | some f =>
    match f.fl with
    | .home t slot what a b pois sig c =>
      let s' := (s.land id).homePerform t slot what a b pois sig c
      finish (if what = 0 then s'.arrivalSent t id else s')
    | _ => finish s
  | none => finish s

/-- An update that arrived in tc `due` waits at its home record (14 R392): the receive unit is closed, the saved
task's slot is meant, or a put that arrived earlier waits still. -/
def State.updateWaits (s : State) (t slot due : Nat) : Bool :=
  let T := s.tile t
  !T.recvOpen || T.state == .saved || ((FM.find? s.saved t).isSome && !(T.barOf slot).init) ||
    s.flights.any fun f => match f.fl with
      | .put p => p.space != 4 && p.target == t && !p.written && !s.forSaved t p.t && p.arrived.any fun u => decide (u < due)
      | _ => false

/-- A home record's gen or poison field reaches a participant's slot (11 R313); an acknowledged BINIT clears no
poison (R310). -/
def State.updateLands (s : State) (id : Nat) : State :=
  match s.flight? id with
  | none => s
  | some f =>
    match f.fl with
    | .update t slot gen pois =>
      if s.updateWaits t slot f.due then s
      else ((s.land id).updTile t fun T => T.setBar slot { T.barOf slot with gen := gen, pois := (T.barOf slot).pois.told pois }).retest t
    | .home t slot what a b pois sig c =>
      if !(s.tile t).recvOpen || (s.tile t).state == .saved then s
      else if what = 7 then
        let q : Option PField := pois.map fun k => ⟨true, k.1, k.2⟩
        let s := (s.land id).updTile t fun T => T.setBar slot
          { T.barOf slot with
            init := true, scope := a % 4, home := a / 4 % 16, target := b, gen := a / 64, pois := (T.barOf slot).pois.told q }
        (((s.retest t).report t c sig).clearRmt t c 0x3B)
      else ((s.land id).reportP t c sig pois).clearRmt t c 0x3A
    | _ => s

def execHomeUpdate (id : Nat) (s : State) : Out := finish (s.updateLands id)

end Sys2Proof.Machine
end

