-- ==== Sys2Proof/Machine/HostIf.lean ====
section
/-! DEFINITION. Sys2Proof/Machine/HostIf.lean: the register block, the fault queue, replay and refill, the mailbox and the peer ports (18
R450 to R459; 15 R401 to R408; 14 R369 to R371; 02 R64 to R66). -/

namespace Sys2Proof.Machine

/-- READY0 to READY3 (17 R447, R448): a bit falls when its function is fenced or fails. -/
def State.columnReady (s : State) (c : Nat) : Bool := (s.col c).trained && !(s.col c).retained && !s.colDisabled c
def State.ready (s : State) (k : Nat) : Nat :=
  let y := s.sys
  match k with
  | 0 => maskOf 16 s.columnReady + y.readyHbm % 256 * 2 ^ 16 + maskOf 8 (fun p => y.readyLink / 2 ^ p % 2 == 1 && !y.portFailed.contains p) * 2 ^ 24 +
      bit y.readyHost 32 + bit y.readyMp 33
  | k + 1 => maskOf (if k = 2 then 48 else 64) fun i =>
      let t := 64 * k + i
      y.readyXb.contains t && s.columnReady (t / 11) && (s.tile t).state != .fenced

/-- GOVSTAT (18 R461). -/
def State.govstat (s : State) : Nat :=
  let y := s.sys
  y.watts % 2 ^ 16 + y.throttled % 2 ^ 16 * 2 ^ 16 + y.hbmThrottle % 256 * 2 ^ 32 + y.govMs % 2 ^ 24 * 2 ^ 40

/-- REFILL(c) as it reads (18 R452). -/
def State.refillReg (s : State) (c : Nat) : Nat :=
  let C := s.col c
  C.rfFirst % 4096 + C.rfCnt % 4096 * 2 ^ 12 + C.rfCtx % 16 * 2 ^ 24 + bit C.rfBusy 29 + bit C.rfErr 30 + C.rfBad % 4096 * 2 ^ 31

/-- A read of the register block (18 R450): 64 bits at an offset that is a multiple of 8. A device whose boot
has halted answers at BOOTST alone (R456). -/
def State.bar0 (s : State) (off : Nat) : Nat :=
  let y := s.sys
  if off = 8 then y.bootStage % 16 + y.bootErr % 256 * 2 ^ 8
  else if y.bootErr ≠ 0 then 0
  else if 0x180 ≤ off ∧ off < 0x200 then s.refillReg ((off - 0x180) / 8)
  else if 0x200 ≤ off ∧ off < 0x220 then s.ready ((off - 0x200) / 8)
  else if 0x400 ≤ off ∧ off < 0x800 then leNat ((List.range 8).map fun i => FM.get 0 y.mbox (off - 0x400 + i))
  else match off with
    | 0 => 0x74414E51 + Config.stepping % 2 ^ 16 * 2 ^ 32
    | 0x10 => y.sqBase
    | 0x18 => y.sqSize
    | 0x28 => y.sqHead
    | 0x30 => y.fqBase
    | 0x38 => y.fqSize
    | 0x40 => y.fqTail
    | 0x48 => y.fqHead
    | 0x50 => y.defsig
    | 0x300 => s.govstat
    | _ => 0

/-- The host interface responds: powered, and boot has not halted. -/
def Sys.alive (y : Sys) : Bool := y.bootErr == 0

/-- Ring sizes are powers of two from 64 to 65,536; any other value is ignored (log entry 26). -/
def ringSizeOk (v : Nat) : Bool := (List.range 11).any fun k => v == 64 * 2 ^ k

/-- The mailbox's go field (18 R455). -/
def Sys.mboxGo (y : Sys) : Bool := FM.get 0 y.mbox 12 != 0

/-- A host write of a register without behaviour of its own (18 R450, R455). The low 12 bits of a ring's base
are dropped, and FQHEAD is taken modulo twice FQSIZE (log entry 26). -/
def State.regWrite (s : State) (off v : Nat) : State :=
  let y := s.sys
  let set (f : Sys → Sys) : State := { s with sys := f y }
  if !y.alive then s
  else if 0x400 ≤ off ∧ off + 8 ≤ 0x800 then
    if y.mboxGo then s
    else set fun y => { y with mbox := (List.range 8).foldl (fun m i => FM.set m (off - 0x400 + i) (v / 256 ^ i % 256)) y.mbox }
  else match off with
    | 0x10 => if y.readyHost then s else set fun y => { y with sqBase := v / 4096 * 4096 }
    | 0x18 => if y.readyHost || !ringSizeOk v then s else set fun y => { y with sqSize := v }
    | 0x30 => if y.readyHost then s else set fun y => { y with fqBase := v / 4096 * 4096 }
    | 0x38 => if y.readyHost || !ringSizeOk v then s else set fun y => { y with fqSize := v }
    | 0x48 => set fun y => { y with fqHead := if y.fqSize = 0 then v else v % (2 * y.fqSize) }
    | _ => s

def execRegisterWrite (off v : Nat) (s : State) : Out := finish (s.regWrite off v)

/-- The doorbell (18 R450, R451). While SQSIZE is 0 there is no ring, and a write is ignored (log entry 26). -/
def State.doorbell (s : State) (v : Nat) : State :=
  if !s.sys.alive || s.sys.sqSize == 0 then s else { s with sys := { s.sys with sqTail := v % (2 * s.sys.sqSize) } }

def execSqdb (v : Nat) (s : State) : Out := finish (s.doorbell v)

/-- The earliest waiting record is written once the queue has space (15 R402). -/
def State.writeWaiting (s : State) : State :=
  match s.sys.fqWait with
  | [] => s
  | (r, _) :: rs => if s.sys.fqSpace then ({ s with sys := { s.sys with fqWait := rs } }).writeRecord r else s

def execFaultRecordWrite (s : State) : Out := finish s.writeWaiting

/-- A recheck finds a held access still at a not-present-stall entry (15 R400, R403): its entry passes orders 1
to 4, of which the kind is the second, and has state 1. -/
def State.stillHeld (s : State) (c : Nat) (h : Held) : Bool :=
  match s.lookup h.ctx c h.va with
  | none => false
  | some (_, e) =>
    let need := if h.kind = 2 then 3 else h.kind + 1
    entKind e + 2 == h.space && entPerms e &&& need == need && (FM.find? s.sys.keys (entKey e)).isSome && entState e == 1

/-- A write of a column's replay register (15 R403): accesses recorded up to N are translated again; what
passes, or fails otherwise, has its turn now, in the original order, though the wire may still be up. Waiting
binds of the column are tried again (R413). -/
def State.replayTo (s : State) (c n : Nat) : State :=
  let C := s.col c
  if n < C.replayed then s
  else
    let keep (h : Held) : Bool :=
      match h.seq with
      | some q => decide (n < q) || s.stillHeld c h
      | none => true
    let held := C.held.filter keep
    let freed := C.held.filter fun h => !keep h
    let s := (s.soon (freed.map fun h => .released c h.what)).setCol c { C with replayed := n, held := held, heldState := C.heldState && !held.isEmpty }
    { s with flights := s.flights.map fun f => match f.fl with
      | .bind t l k p true => if tileCol t = c then { f with due := s.tc + 1, fl := .bind t l k p false } else f
      | _ => f }

def execReplay (c n : Nat) (s : State) : Out := if s.sys.alive && decide (c < 16) then finish (s.replayTo c n) else finish s

/-- A column's stall wire falls for one of its holders: 0 the translation unit once it is Clear, 1 repair once
no repair is due, 2 the governor (14 R393; 15 R403; 17 R440; 18 R460). -/
def State.wireFalls (s : State) (c holder : Nat) : State :=
  let C := s.col c
  if (holder = 0 ∧ C.heldState) ∨ (holder = 1 ∧ C.failedWires ≠ []) then s
  else (s.setCol c { C with holders := setDel C.holders holder }).resumeFrom s

def execStallWireFall (c holder : Nat) (s : State) : Out := finish (s.wireFalls c holder)

/-- The entry that a refill of index `i` of context `ctx` installs: read from the last TLD's image and checked
alone (15 R405). -/
def State.refillEntry (s : State) (c ctx i : Nat) : Option Cap × State :=
  let x := s.context ctx
  match FM.find? (s.col c).images ctx with
  | none => (none, s)
  | some m =>
    let first := m % 4096
    if (x.part c).2 ≤ i ∨ i < first then (none, s)
    else
      match s.devGet ctx c (m / 4096 + 16 * (i - first)) 16 with
      | (some (bs, _), s) =>
        let e : Cap := bvOfBytes 128 bs
        (if (s.badEntry ctx c i [e]).isSome then none else some e, s)
      | (none, s) => (none, s)

/-- The refill walker (15 R405): every named entry that passes is installed; the first that fails is noted (log
entry 27). -/
def State.refillAll (s : State) (c ctx first n : Nat) : State :=
  (List.range n).foldl (fun s k =>
    let (e, s) := s.refillEntry c ctx (first + k)
    match e with
    | some e => s.updCol c fun C => { C with entries := FM.set C.entries (((s.context ctx).part c).1 + first + k) (entSet e 4 4 ctx) }
    | none => s.updCol c fun C => if C.rfErr then C else { C with rfErr := true, rfBad := first + k }) s

/-- A write of REFILL(c) (18 R452). -/
def State.refillWrite (s : State) (c v : Nat) : State :=
  let first := v % 4096
  let cnt := v / 2 ^ 12 % 4096
  let ctx := v / 2 ^ 24 % 16
  let go := v / 2 ^ 28 % 2
  let C := s.col c
  if go = 1 ∧ C.rfBusy then s
  else
    let s := s.setCol c { C with rfFirst := first, rfCnt := cnt, rfCtx := ctx }
    if go = 0 then s
    else (s.updCol c fun C => { C with rfErr := false, rfBad := 0 }).refillAll c ctx first (cnt + 1)

def execRefill (c v : Nat) (s : State) : Out := if s.sys.alive && decide (c < 16) then finish (s.refillWrite c v) else finish s

/-- Fields of the mailbox (18 R455): byte `i` of the body, and a field of `n` bytes. -/
def Sys.body (y : Sys) (i : Nat) : Nat := FM.get 0 y.mbox (16 + i)
def Sys.bodyNat (y : Sys) (i n : Nat) : Nat := leNat ((List.range n).map fun k => y.body (i + k))
def Sys.bodyBytes (y : Sys) (i n : Nat) : List Nat := (List.range n).map fun k => y.body (i + k)
def Sys.mboxOp (y : Sys) : Nat := FM.get 0 y.mbox 0 + 256 * FM.get 0 y.mbox 1
def Sys.mboxLen (y : Sys) : Nat := FM.get 0 y.mbox 2 + 256 * FM.get 0 y.mbox 3
def Sys.bodyZero (y : Sys) (i n : Nat) : Bool := (List.range n).all fun k => y.body (i + k) == 0

/-- The end of a request: response, its length, status, and go written 0. -/
def State.mboxEnd (s : State) (status : Nat) (resp : List Nat) : State :=
  let bytes := [(4, status % 256), (5, status / 256 % 256), (6, resp.length % 256), (7, resp.length / 256 % 256), (12, 0), (13, 0), (14, 0), (15, 0)] ++
    (List.zip (List.range resp.length) resp).map fun p => (16 + p.1, p.2)
  { s with sys := { s.sys with mbox := bytes.foldl (fun (m : FM Nat) p => FM.set m p.1 p.2) s.sys.mbox } }

/-- A request posted with opcode `op`; a body that breaks 18 R455 is refused with 0x0146. -/
def State.request (s : State) (op : Nat) (good : Sys → Bool) (run : State → State) : State :=
  let y := s.sys
  if !y.mboxGo || y.mboxOp != op || !y.alive then s
  else if 1008 < y.mboxLen || !good y then s.mboxEnd 0x0146 []
  else run s

def execMboxUnknownOpcode (s : State) : Out :=
  finish (if s.sys.mboxGo && s.sys.alive then s.mboxEnd 0x0146 [] else s)

/-- A context that host software has created and not torn down. -/
def State.live (s : State) (ctx : Nat) : Bool := decide (ctx < 16) && (s.context ctx).rec' != []

/-- The first index of a free run of `n` entries in column `c` (15 R397), the lowest. -/
def State.freePart (s : State) (c n : Nat) : Option Nat :=
  let used := (List.range 16).filterMap fun x =>
    let p := (s.context x).part c
    if p.2 = 0 then none else some p
  let starts := 0 :: used.map fun p => p.1 + p.2
  let ok := starts.filter fun f => decide (f + n ≤ 4096) && used.all fun p => decide (f + n ≤ p.1) || decide (p.1 + p.2 ≤ f)
  if n = 0 then some 0 else ok.foldl (fun (m : Option Nat) f => some (min f (m.getD f))) none

/-- Deque descriptors of a request as (deque, column, owner row, log2 of the capacity, rest). -/
def Sys.deqDesc (y : Sys) (i : Nat) : Nat × Nat × Nat × Nat × Nat :=
  let w := y.bodyNat (148 + 4 * i) 4
  (w % 256, w / 256 % 16, w / 2 ^ 12 % 16, w / 2 ^ 16 % 16, w / 2 ^ 20)

/-- The limits of a context record (14 R369). -/
def State.recordOk (s : State) (y : Sys) : Bool :=
  let ctx := y.body 0
  let grant := y.bodyNat 8 24
  let nw (c : Nat) : Nat := y.body (32 + c)
  let grants := (List.range 16).map nw |>.filter fun n => n != 0
  let others := (List.range 16).filter fun x => s.live x
  decide (ctx < 16) && !s.live ctx && decide (y.body 1 < 2) && (FM.find? s.sys.keys (y.body 2)).isSome &&
  decide (y.body 3 ≤ grants.foldl min (if grants = [] then 0 else 16)) && y.bodyZero 4 4 && decide (grant < 2 ^ 176) &&
  (List.range 176).all (fun t => grant / 2 ^ t % 2 == 0 || (!s.colDisabled (tileCol t) && others.all fun x => !(s.context x).granted t)) &&
  (List.range 16).all (fun c => decide (nw c ≤ 16) &&
    decide ((others.map fun x => FM.get 0 (s.context x).nw c).foldl (· + ·) (nw c) + (s.col c).retired.length ≤ 16)) &&
  y.bodyNat 48 8 % 4096 == 0 && y.bodyNat 56 8 % 65536 == 0 && y.bodyNat 64 8 % 64 == 0 && y.bodyZero 72 8

/-- The deques of a request may be allocated (11 R314). -/
def State.dequesOk (s : State) (y : Sys) (d : Nat) : Bool :=
  (List.range d).all fun i =>
    let (n, c, r, k, z) := y.deqDesc i
    z == 0 && decide (r ≤ 10) && decide (4 ≤ k) && decide (k ≤ 10) && !s.colDisabled c && (FM.find? (s.col c).deques n).isNone &&
    (List.range i).all fun j => let (m, e, _) := y.deqDesc j; !(m == n && e == c)

/-- Creation of a context (14 R369; 15 R397; 18 R455). -/
def State.create (s : State) : State :=
  let y := s.sys
  let ctx := y.body 0
  let d := y.bodyNat 144 2
  let size (c : Nat) : Nat := y.bodyNat (80 + 2 * c) 2
  let firsts := (List.range 16).map fun c => s.freePart c (size c)
  if !s.recordOk y || (List.range 16).any (fun c => decide (4096 < size c)) || firsts.any (fun f => f.isNone) || !s.dequesOk y d then
    s.mboxEnd 0x0140 []
  else
    let first (c : Nat) : Nat := (firsts.getD c none).getD 0
    let x : Context := { Context.none with
      rec' := y.bodyBytes 0 80, supok := y.body 1 == 1, ckey := y.body 2, bsplit := y.body 3, grant := y.bodyNat 8 24
      nw := (List.range 16).map fun (c : Nat) => (c, y.body (32 + c))
      cwBlock := y.bodyNat 48 8, ckpt := y.bodyNat 56 8, tdRec := y.bodyNat 64 8
      parts := (List.range 16).map fun (c : Nat) => (c, (first c, size c))
      keyGrant := y.bodyNat 112 32 }
    let s := s.setContext ctx x
    let s := (List.range 16).foldl (fun s c => s.updCol c fun C => { C with
      retired := C.retired.map fun w => if w / 16 = ctx then w + 1024 else w }) s
    let s := (List.range d).foldl (fun s i =>
      let (n, c, r, k, _) := y.deqDesc i
      s.updCol c fun C => { C with deques := FM.set C.deques n ⟨ctx, r, 2 ^ k, [], .clean⟩ }) s
    s.mboxEnd 0 ((List.range 16).flatMap fun c => natLe 2 (first c))

def execCreateContext (s : State) : Out :=
  finish (s.request 1 (fun y => decide (148 ≤ y.mboxLen) && y.bodyZero 146 2 && decide (y.bodyNat 144 2 ≤ 215) &&
    y.mboxLen == 148 + 4 * y.bodyNat 144 2) State.create)

def execTearDownContext (s : State) : Out :=
  finish (s.request 2 (fun y => y.mboxLen == 4 && y.bodyZero 1 3) fun s =>
    let ctx := s.sys.body 0
    if s.live ctx then (s.tearDown ctx 1 0 0 0 0).mboxEnd 0 [] else s.mboxEnd 0x0141 [])

/-- A valid translation entry names key slot `k`. -/
def State.keyNamed (s : State) (k : Nat) : Bool :=
  (List.range 16).any fun c => (s.col c).entries.any fun (p : Nat × Cap) => entValid p.2 && entKey p.2 == k

/-- The key that a wrapped key yields (18 R457). -/
def unwrapKey (pub wrapped : List Nat) : Option (List Nat) :=
  if pub.headD 0 ≠ 4 then none
  else match ecdhX Config.identityKey (beNat (cut pub 1 48), beNat (cut pub 49 48)) with
    | none => none
    | some x => kwUnwrap ((sha384 (natBe 48 x)).take 32) wrapped

def execLoadMatterKeySlot (s : State) : Out :=
  finish (s.request 3 (fun y => y.mboxLen == 176 && y.bodyZero 1 3 && y.bodyZero 101 3) fun s =>
    let y := s.sys
    let k := y.body 0
    match unwrapKey (y.bodyBytes 4 97) (y.bodyBytes 104 72) with
    | some key =>
      if s.keyNamed k then s.mboxEnd 0x0142 []
      else ({ s with sys := { y with keys := FM.set y.keys k (bvOfBytes 512 key) } }).mboxEnd 0 []
    | none => s.mboxEnd 0x0142 [])

def execClearMatterKeySlot (s : State) : Out :=
  finish (s.request 4 (fun y => y.mboxLen == 4 && y.bodyZero 1 3) fun s =>
    let y := s.sys
    if s.keyNamed (y.body 0) then s.mboxEnd 0x0143 []
    else ({ s with sys := { y with keys := FM.del y.keys (y.body 0) } }).mboxEnd 0 [])

/-- Frames of a pool are aligned to their size and lie in device memory. -/
def execFillReservePool (s : State) : Out :=
  finish (s.request 6 (fun y => y.body 0 == 1 && y.bodyZero 2 6 && decide (y.body 8 < 2) && y.bodyZero 9 3 &&
      decide (1 ≤ y.bodyNat 12 4) && decide (y.bodyNat 12 4 ≤ 124) && y.mboxLen == 16 + 8 * y.bodyNat 12 4) fun s =>
    let y := s.sys
    let ctx := y.body 1
    let big := y.body 8
    let fs := (List.range (y.bodyNat 12 4)).map fun i => y.bodyNat (16 + 8 * i) 8
    let x := s.context ctx
    let pool := if big = 0 then x.pool4 else x.pool64
    let size := if big = 0 then 4096 else 65536
    if !s.live ctx || decide (4096 < pool.length + fs.length) || fs.any (fun f => f % size != 0 || decide (hbmSize < f + size)) then
      s.mboxEnd 0x0144 []
    else
      let new := pool ++ fs.map fun f => f / 4096
      (s.setContext ctx (if big = 0 then { x with pool4 := new } else { x with pool64 := new })).mboxEnd 0 [])

/-- The psum of an entry after its frame `f` left the bitmap (15 R401): a psum of 2 that the cache can hold
again becomes 1, and an entry with no quarantined frame left gets 0. -/
def State.psumAfter (s : State) (c : Nat) (e : Cap) : Cap :=
  let bad := s.badPages.filter (entHolds e)
  if bad = [] then entSet e 28 2 0
  else if entPsum e = 2 ∧ (s.qcache c).length + bad.length ≤ 1024 then entSet e 28 2 1
  else e

/-- The clearing of a quarantine (15 R401). -/
def execClearQuarantine (s : State) : Out :=
  finish (s.request 6 (fun y => y.body 0 == 2 && y.bodyZero 2 6 && y.mboxLen == 16) fun s =>
    let y := s.sys
    let ctx := y.body 1
    let f := y.bodyNat 8 8 / 4096
    let entry := (List.range 16).findSome? fun c => List.find? (fun (p : Nat × Cap) => entCtx p.2 == ctx && entHolds p.2 f) (s.col c).entries
    match entry with
    | none => s.mboxEnd 0x0144 []
    | some (_, e) =>
      if !s.live ctx || y.bodyNat 8 8 % 4096 != 0 || !setHas s.badPages f then s.mboxEnd 0x0144 []
      else if s.shootBusy ctx (entVa e) (2 ^ entShift e) then s
      else
        let s := { s with badPages := setDel s.badPages f }
        let va := entVa e + (f * 4096 - entPa e / 2 ^ entShift e * 2 ^ entShift e)
        let s := (List.range 64).foldl (fun s i =>
          let pa := f * 4096 + 64 * i
          let s := (List.range 16).foldl (fun s c => s.dropLine c pa) s
          s.hbmSetLine pa (va + 64 * i) (entKey e) (List.replicate 64 0) false) s
        let s := (List.range 16).foldl (fun s c => s.updEntries ctx c fun q =>
          if entHolds q f && entPsum q != 0 then s.psumAfter c q else q) s
        s.mboxEnd 0 [])

/-- The move of a page's home (18 R455). Lines that were dirty in a fenced home are lost, and their granules
poisoned. -/
def execMovePageHome (s : State) : Out :=
  finish (s.request 6 (fun y => y.body 0 == 3 && y.bodyZero 2 6 && y.mboxLen == 17) fun s =>
    let y := s.sys
    let ctx := y.body 1
    let va := y.bodyNat 8 8
    let home := y.body 16
    let x := s.context ctx
    let entry := x.columns.findSome? fun c => (s.lookup ctx c va).map fun p => p.2
    match entry with
    | none => s.mboxEnd 0x0144 []
    | some e =>
      if !s.live ctx || entVa e != va || entKind e != 0 || entState e != 0 || decide (16 ≤ home) || s.colDisabled home then s.mboxEnd 0x0144 []
      else if s.shootBusy ctx va (2 ^ entShift e) then s
      else
        let old := entHome e
        let mine (l : BLine) : Bool := l.ctx == ctx && decide (va ≤ l.va) && decide (l.va < va + 2 ^ entShift e)
        let s :=
          if s.colDisabled old then
            ((s.col old).lines.filter fun l => mine l && l.dirty).foldl
              (fun s l => (s.enterSector (2 * l.key)).enterSector (2 * l.key + 1)) s
          else s.writeBack old mine
        let s := s.dropLines old mine
        let s := x.columns.foldl (fun s c => s.updEntries ctx c fun q => if entMatches q ctx va then entSet q 16 4 home else q) s
        s.mboxEnd 0 [])

/-- The quote of 18 R459, before its signature. -/
def State.quoteBytes (s : State) (ctx : Nat) (nonce : List Nat) : List Nat :=
  nonce ++ natBe 48 (Config.bootDigest 0) ++ natBe 48 (Config.bootDigest 1) ++ natLe 8 s.sys.defsig ++ sha384 (s.context ctx).rec' ++
    natLe 32 (maskOf 256 fun k => (FM.find? s.sys.keys k).isSome) ++ List.replicate 120 0

def execAttestationQuote (s : State) : Out :=
  finish (s.request 7 (fun y => y.mboxLen == 64 && y.bodyZero 1 15) fun s =>
    let ctx := s.sys.body 0
    if !s.live ctx then s.mboxEnd 0x0145 []
    else
      let q := s.quoteBytes ctx (s.sys.bodyBytes 16 48)
      let (k, s) := takeIn 1 (bpQ - 1) s
      s.mboxEnd 0 (q ++ ecdsaSign Config.deviceKey k q))

/-- A port fails (18 R453): it is marked and a type-7 record written. -/
def State.failPort (s : State) (p : Nat) : State :=
  if s.sys.portFailed.contains p then s
  else ({ s with sys := { s.sys with portFailed := setAdd s.sys.portFailed p } }).hostRecord (.of 7 0 0 0 0 0 0 p)

/-- The CRC failures of the flit at the head of a port count up to eight; traffic that arrives at the port
starts the count again. -/
def State.portAlive (s : State) (p : Nat) : State := { s with sys := { s.sys with portErrs := FM.set s.sys.portErrs p 0 } }

def execPeerFlitCrcFailure (p : Nat) (s : State) : Out :=
  if 8 ≤ p then finish s
  else
    let n := FM.get 0 s.sys.portErrs p + 1
    let s := { s with sys := { s.sys with portErrs := FM.set s.sys.portErrs p n } }
    finish (if 8 ≤ n then s.failPort p else s)

/-- A system shoot-down that awaits peers is settled for port `p`, which is fenced or has acknowledged; with no
port left its word gets its answer (15 R408). -/
def State.shootSettle (s : State) (f : Flight) (p : Nat) (fenced : Bool) : State :=
  match f.fl with
  | .remote t c r vs =>
    let pend := vs.getD 0 0 - 2 ^ p
    let mask := vs.getD 1 0 + (if fenced then 2 ^ p else 0)
    if pend = 0 then (s.land f.id).answer t c r (w64 mask)
    else s.refly f.id f.due (.remote t c r [pend, mask, vs.getD 2 0])
  | _ => s

/-- Whether a flight awaits peer `p`. -/
def Flight.awaitsPeer (f : Flight) (p : Nat) : Bool :=
  match f.fl with
  | .remote _ _ r vs => r.op == 0x14D && vs.getD 0 0 / 2 ^ p % 2 == 1
  | _ => false

/-- The record of the fencing of port `p`: it names the context, column and context-0 origin of the TSHD (15
R402, R408). -/
def State.fenceRecord (s : State) (f : Flight) (p : Nat) : FRec :=
  match f.fl with
  | .remote t .. => .of 3 (s.tile t).ctx (tileCol t) 0 (originOf t 0) 0 0 p
  | _ => .of 3 0 0 0 0 0 0 p

def execPeerShootdownTimeout (p : Nat) (s : State) : Out :=
  let late := s.flights.filter fun f => f.awaitsPeer p && decide (f.due ≤ s.tc)
  finish (late.foldl (fun s f => ((s.failPort p).hostRecord (s.fenceRecord f p)).shootSettle f p true) s)

def execPeerShootdownAcknowledgement (p : Nat) (s : State) : Out :=
  match s.flights.find? fun f => f.awaitsPeer p with
  | some f => finish ((s.portAlive p).shootSettle f p false)
  | none => finish s

/-- A peer's shoot-down is applied to the linked context's entries once no access uses them; it waits in
`peerReqs` until then (15 R407, R408). -/
def execPeerShootdownRequest (p ctx base len inv : Nat) (s : State) : Out :=
  let r := [p, ctx, base, len, inv]
  if s.shootBusy ctx base len then
    finish { s with sys := { s.sys with peerReqs := if s.sys.peerReqs.contains r then s.sys.peerReqs else s.sys.peerReqs ++ [r] } }
  else
    let s := { s with sys := { s.sys with peerReqs := s.sys.peerReqs.erase r } }
    finish ((s.portAlive p).shootDown ctx base len (inv == 1))

/-- The entry and virtual address by which a physical address of device memory is reached, for the key of a
memory-end access in the clear. -/
def State.entryAt (s : State) (pa : Nat) : Option (Cap × Nat) :=
  (List.range 16).findSome? fun c =>
    (List.find? (fun (p : Nat × Cap) => entHolds p.2 (pa / 4096)) (s.col c).entries).map fun p =>
      (p.2, entVa p.2 + pa % 2 ^ entShift p.2)

/-- A reduce packet at the receive side of a peer port (18 R453; 05 R154): each element in place, through the
key of the page that holds it. Nothing is done at an address that no page holds. -/
def State.peerReduce (s : State) (pa op ty : Nat) (vals : List Nat) : State :=
  let bs := vals.flatMap fun v => natLe (redSize ty) v
  (granules (bs.length + 1) pa bs).foldl (fun s (g : Nat × List Nat) =>
    match s.entryAt g.1 with
    | none => s
    | some (e, va) =>
      let x : Phys := ⟨0, g.1, 0, entHome e, entKey e, 0, setHas s.badPages (g.1 / 4096)⟩
      let s := s.writeBack x.home fun l => l.key == g.1 / 64
      let (line, q) := s.memEndRead x va
      let o := g.1 % 64
      let new := line.take o ++ redBytes op ty (cut line o g.2.length) g.2 ++ line.drop (o + g.2.length)
      s.memEndLine x va new q) s

def execPeerReduceReceive (p pa op ty : Nat) (vals : List Nat) (s : State) : Out :=
  if s.sys.portFailed.contains p then finish s else finish ((s.portAlive p).peerReduce pa op ty vals)

/-- An inbound access of the host or a peer (12 R342, R343): a read, with no bytes, changes nothing; a write is
performed line by line at the memory end. -/
def State.inbound (s : State) (pa : Nat) (bs : List Nat) : State :=
  (granules (bs.length + 1) pa bs).foldl (fun s (g : Nat × List Nat) => s.memEndPut g.1 g.2 false) s

def execInboundMemoryAccess (pa : Nat) (bs : List Nat) (s : State) : Out := finish (s.inbound pa bs)

end Sys2Proof.Machine
end

