-- ==== Sys2Proof/Machine/Load.lean ====
section
/-! DEFINITION. Sys2Proof/Machine/Load.lean: the loading of an object (02 R64 to R66; 14 R370, R371, R377). The spec gives the header, the
variant and section entries, the node descriptor and the refusals; the bytes of a ring section and of a capability list are the model's own
(log entry 28). -/

namespace Sys2Proof.Machine

/-- `n` bytes at offset `off` of the object at host address `pa`. -/
def State.objNat (s : State) (pa off n : Nat) : Nat := s.nat (hostBase + pa + off) n

/-- The header (02 R64). -/
def State.objHeader (s : State) (pa len : Nat) : Bool :=
  decide (32 ≤ len) && s.objNat pa 0 4 == 0x4B564C44 && s.objNat pa 4 2 == 1 && s.objNat pa 6 2 == 0 &&
  decide (1 ≤ s.objNat pa 8 4) && decide (s.objNat pa 8 4 ≤ 64) && s.objNat pa 12 4 == 0 && s.objNat pa 24 8 == len &&
  decide (s.objNat pa 16 8 + 32 * s.objNat pa 8 4 ≤ len)

/-- The variant entries as (mask, match, offset, length) (02 R65). -/
def State.objVariants (s : State) (pa : Nat) : List (Nat × Nat × Nat × Nat) :=
  (List.range (s.objNat pa 8 4)).map fun i =>
    let o := s.objNat pa 16 8 + 32 * i
    (s.objNat pa o 8, s.objNat pa (o + 8) 8, s.objNat pa (o + 16) 8, s.objNat pa (o + 24) 8)

/-- The section entries of a body as (kind, flags, length, offset). -/
def State.objSections (s : State) (pa off len : Nat) : List (Nat × Nat × Nat × Nat) :=
  (List.range (len / 16)).map fun i =>
    let o := off + 16 * i
    (s.objNat pa o 2, s.objNat pa (o + 2) 2, s.objNat pa (o + 4) 4, s.objNat pa (o + 8) 8)

/-- What a load has read so far: the images with the code bytes of each as (address, host offset, length), the
sheaves, and the refusal. -/
structure Load where
  images : List Image
  code : List (Nat × Nat × Nat)
  sheaves : List (List Node)
  err : Nat

def Load.refuse (x : Load) (code : Nat) : Load := if x.err = 0 then { x with err := code } else x

/-- The error that comes first of two: 0 is none, and the codes are tested in rising order. -/
def Load.worst (x : Load) (codes : List (Bool × Nat)) : Load :=
  match codes.find? fun c => c.1 with
  | some c => x.refuse c.2
  | none => x

/-- The latest image changed by `f`. -/
def Load.updLast (x : Load) (f : Image → Image) : Load :=
  match x.images.reverse with
  | [] => x.refuse 0x0130
  | i :: is => { x with images := (f i :: is).reverse }

def up64 (n : Nat) : Nat := (n + 63) / 64 * 64

/-- Where the next resident region of an image stands in its code pages: 64-aligned after what is there. -/
def Image.codeEnd (i : Image) : Nat := i.rings.foldl (fun m r => max m (up64 (r.at' + 8 * r.res))) (up64 (8 * i.words))

/-- A CIM image section. -/
def State.loadCim (s : State) (pa off len : Nat) (x : Load) : Load :=
  let va := s.objNat pa off 8
  let n := (len - 8) / 8
  let x := x.worst [(decide (len < 16) || len % 8 != 0 || va % 64 != 0 || decide (2 ^ 56 < va + len), 0x0130), (decide (8192 < n), 0x0133)]
  if x.err ≠ 0 then x
  else
    let head := s.bytes (hostBase + pa + off + 8) (min (8 * n) 4096)
    { x with images := x.images ++ [⟨head, n, [], [], va⟩], code := x.code ++ [(va, off + 8, 8 * n)] }

/-- A ring image section: engine, scratchpad offset, size and resident words, routines, resident words. -/
def State.loadRing (s : State) (pa off len : Nat) (x : Load) : Load :=
  let e := s.objNat pa off 1
  let base := s.objNat pa (off + 4) 4
  let w := s.objNat pa (off + 8) 2
  let p := s.objNat pa (off + 10) 2
  let n := s.objNat pa (off + 12) 2
  let body := 16 + (4 * n + 7) / 8 * 8
  let routines := (List.range n).map fun i => (s.objNat pa (off + 16 + 4 * i) 2, s.objNat pa (off + 18 + 4 * i) 2)
  match x.images.getLast? with
  | none => x.refuse 0x0130
  | some i =>
    let x := x.worst [
      (decide (len < 16) || s.objNat pa (off + 1) 3 != 0 || s.objNat pa (off + 14) 2 != 0 || decide (256 < n) || len != body + 8 * p ||
        e == 0 || decide (5 < e) || i.rings.any (fun r => r.eng == e), 0x0130),
      (!(ringSizeOk w && decide (w ≤ 8192)) || base % 4096 != 0 || decide (2 ^ 19 < base + 8 * w) || decide (w ≤ p) ||
        routines.any (fun r => decide (p < r.1 + r.2)), 0x0133)]
    if x.err ≠ 0 then x
    else
      let at' := i.codeEnd
      let x := x.updLast fun i => { i with rings := i.rings ++ [⟨e, base, w, p, routines, at'⟩] }
      { x with code := x.code ++ [(i.codeVa + at', off + body, 8 * p)] }

/-- A capability that the context's mapped ranges and grants cover (02 R66; 05 R129). -/
def State.capCovered (s : State) (ctx : Nat) (c : Cap) : Bool :=
  let x := s.context ctx
  let rest := c.toNat % 2 ^ 56 / 2 ^ 20
  decide (c.toNat < 2 ^ 112) && decide (capPerms c < 512) &&
  match capSpace c with
  | 0 => decide (capBase c % 2 ^ 20 + capLen c ≤ 2 ^ 19) &&
      (if capForeign c then decide (rest % 2 ^ 12 = 0 ∧ c.toNat % 2 ^ 56 < 2 ^ 41 ∧ capRow c < 11) && x.granted (capTile c 0)
       else rest == 0)
  | 1 => decide (capBase c % 2 ^ 25 + capLen c ≤ 0x1800000) &&
      (if capForeign c then decide (rest / 2 ^ 5 % 2 ^ 11 = 0 ∧ c.toNat % 2 ^ 56 < 2 ^ 41) && x.columns.contains (capCol c)
       else c.toNat % 2 ^ 56 < 2 ^ 25)
  | 2 | 3 | 4 => decide (capBase c + capLen c ≤ 2 ^ 56) && (pagesOf (capBase c) (capLen c)).all fun a =>
      x.columns.any fun k => match s.lookup ctx k a with
        | some (_, e) => entKind e + 2 == capSpace c
        | none => false
  | 5 => decide (capBase c + capLen c ≤ 0x10000)
  | _ => false

/-- A capability list section: entries of 24 bytes. -/
def State.loadCaps (s : State) (ctx pa off len : Nat) (x : Load) : Load :=
  if len % 24 ≠ 0 then x.refuse 0x0130
  else (List.range (len / 24)).foldl (fun x i =>
    let o := off + 24 * i
    let r := s.objNat pa o 1
    let c := s.objNat pa (o + 8) 16
    let x := x.worst [(decide (16 ≤ r) || s.objNat pa (o + 1) 7 != 0, 0x0130), (!s.capCovered ctx (BitVec.ofNat 128 c), 0x0134)]
    x.updLast fun im => { im with caps := im.caps ++ [(r, c)] }) x

/-- The limits of a node descriptor (14 R371), but those of its image. -/
def nodeOk (b : List Nat) : Bool :=
  let f (o n : Nat) : Nat := leNat (cut b o n)
  let nest := f 0 1 % 2 == 1
  let nd := f 3 1
  let nib (k : Nat) : Nat := f 4 4 / 16 ^ k % 16
  let dims := (List.range 6).map fun d => f (16 + 4 * d) 4
  let reg (k : Nat) : Bool :=
    let w := f (64 + 16 * k) 8
    let e := f (72 + 16 * k) 8
    w / 2 ^ 56 % 128 == 0 && decide (1 ≤ e) && decide (e ≤ 2 ^ 40) && decide (w % 2 ^ 56 + e ≤ 2 ^ 56)
  decide (f 0 1 < 8) && decide (f 1 1 < 4) && (f 0 1 / 2 % 2 == 1 || f 2 1 == 0) &&
  (if nest then decide (1 ≤ nd) && decide (nd ≤ 6) else nd == 0) &&
  ((List.range 8).all fun k => if k < nd then decide (nib k < nd) && (List.range k).all (fun j => nib j != nib k) else nib k == 15) &&
  decide (f 12 4 < 2 ^ 27) &&
  ((List.range 6).all fun d => if d < nd then decide (1 ≤ dims.getD d 0) else dims.getD d 0 == 0) &&
  decide ((dims.take nd).foldl (· * ·) 1 ≤ 2 ^ 32) && decide (f 40 1 ≤ 8) && (cut b 41 23).all (fun v => v == 0) &&
  (List.range (f 40 1)).all reg && (cut b 192 64).all (fun v => v == 0)

def nodeOf (b : List Nat) : Node :=
  let f (o n : Nat) : Nat := leNat (cut b o n)
  { nest := f 0 1 % 2 == 1, gang := if f 0 1 / 2 % 2 = 1 then some (f 2 1) else none, sup := f 0 1 / 4 % 2 == 1, prio := f 1 1
    ndims := f 3 1, order := (List.range (f 3 1)).map fun k => f 4 4 / 16 ^ k % 16, entry := f 8 2, image := f 10 2, place := f 12 4
    dims := (List.range 6).map fun d => f (16 + 4 * d) 4
    regions := (List.range (f 40 1)).map fun k =>
      (f (64 + 16 * k) 8 % 2 ^ 56, f (72 + 16 * k) 8, f (64 + 16 * k) 8 / 2 ^ 63 == 1) }

/-- A sheaf section. -/
def State.loadSheaf (s : State) (pa off len : Nat) (x : Load) : Load :=
  if len % 256 ≠ 0 ∨ len = 0 ∨ 1024 * 256 < len then x.refuse 0x0130
  else
    let bs := (List.range (len / 256)).map fun i => s.bytes (hostBase + pa + off + 256 * i) 256
    let x := if bs.all nodeOk then x else x.refuse 0x0130
    { x with sheaves := x.sheaves ++ [bs.map nodeOf] }

/-- The sections of the chosen body in file order. -/
def State.loadSections (s : State) (ctx pa : Nat) (secs : List (Nat × Nat × Nat × Nat)) : Load :=
  secs.foldl (fun x sec =>
    let (kind, _, len, off) := sec
    match kind with
    | 1 => s.loadCim pa off len x
    | 2 => s.loadRing pa off len x
    | 3 => s.loadSheaf pa off len x
    | 4 => if len % 4 ≠ 0 then x.refuse 0x0130 else if 96 * 4 < len then x.refuse 0x0133 else x
    | 5 => s.loadCaps ctx pa off len x
    | _ => x) ⟨[], [], [], 0⟩

/-- A placement mask names an enabled tile (14 R371). -/
def State.placeOk (s : State) (n : Node) : Bool :=
  (List.range 176).any fun t => n.place / 2 ^ tileCol t % 2 == 1 && n.place / 2 ^ (16 + tileRow t) % 2 == 1 && !s.colDisabled (tileCol t)

/-- Every gang of a sheaf fits the context's grant (14 R377). -/
def State.gangsFit (s : State) (ctx : Nat) (f : Sheaf) : Bool :=
  let l : Launch := ⟨0, ctx, 0, 0, none, [], none⟩
  (List.range f.nodes.length).all fun k =>
    if (f.node k).gang.isNone then true
    else
      let tasks := (f.gangOf k).flatMap fun i => List.replicate (min (f.node i).points 177) (f.node i)
      decide (tasks.length ≤ 176) &&
        (assignTiles (tasks.map fun n => (List.range 176).filter fun t => s.eligible l n t) []).isSome

/-- The code bytes of an object reach the task images' pages, where the context maps them (log entry 28). -/
def State.putCode (s : State) (ctx va : Nat) (bs : List Nat) : State :=
  (granules (bs.length + 1) va bs).foldl (fun s (g : Nat × List Nat) =>
    match (s.context ctx).columns.findSome? fun c => s.lookup ctx c g.1 with
    | some (i, e) =>
      if entKind e = 0 ∧ entState e = 0 ∧ (FM.find? s.sys.keys (entKey e)).isSome then
        let x : Phys := ⟨i, entPhys e g.1, 0, entHome e, entKey e, 0, setHas s.badPages (entPhys e g.1 / 4096)⟩
        let s := s.writeBack x.home fun l => l.key == x.pa / 64
        let (old, q) := s.memEndRead x g.1
        let o := x.pa % 64
        s.memEndLine x g.1 (old.take o ++ g.2 ++ old.drop (o + g.2.length)) (q && decide (g.2.length < 64))
      else s
    | none => s) s

/-- The lowest free sheaf ids of a context. -/
def freeSheafIds (m : FM Sheaf) (n : Nat) : List Nat := ((List.range 1024).filter fun i => (FM.find? m i).isNone).take n

/-- The refusal of a load once its sections are read, 0 for none: tested in the order of the codes (log entry 28). -/
def State.loadError (s : State) (ctx : Nat) (x : Load) : Nat :=
  let c := s.context ctx
  let nodes := x.sheaves.flatMap fun f => f
  let n := x.sheaves.length
  if x.err = 0x0130 ∨ nodes.any (fun n => match x.images[n.image]? with
      | some i => decide (i.words ≤ n.entry)
      | none => true) ∨ 502 < n ∨ (freeSheafIds c.sheaves n).length < n then 0x0130
  else if nodes.any fun n => !s.placeOk n then 0x0132
  else if x.err ≠ 0 then x.err
  else if !c.supok && nodes.any (fun n => n.sup) then 0x0135
  else if x.sheaves.any fun f => !s.gangsFit ctx ⟨f, x.images⟩ then 0x0136
  else 0

/-- The rows of a column move to their sites by the present DEFSIG, with what stands at each site; a fenced row
takes another site (01 R10, R11; 16 R433). They move as a load begins, where no task stands in the column (log
entry 6). -/
def State.resite (s : State) (c : Nat) : State :=
  let ts := (List.range 11).map fun r => tileAt r c
  let busy (t : Nat) : Bool := ((s.tile t).bound && (s.tile t).state != .fenced) || (FM.find? s.saved t).isSome
  if s.colDisabled c || ts.any busy || ts.all (fun t => (s.tile t).site == s.siteOf t) then s
  else ts.foldl (fun u t =>
    let u := if (s.tile t).state = .fenced then u.scrubTile t else u
    let T : Tile := match ts.find? fun k => (s.tile k).site == s.siteOf t with
      | some k =>
        let K := s.tile k
        { Tile.fresh t with
          mclk := K.mclk, arrays := K.arrays, verdicts := K.verdicts, scrubTo := K.scrubTo, xcal := K.xcal.filter fun w => w.2.op == calAuto }
      | none => Tile.fresh t
    u.setTile t { T with site := s.siteOf t }) s

/-- An object is loaded (02 R66; 14 R371). -/
def State.load (s : State) (ctx pa len : Nat) : State :=
  if !s.objHeader pa len then s.mboxEnd 0x0130 []
  else
    let vs := s.objVariants pa
    if vs.any fun v => decide (len < v.2.2.1 + v.2.2.2) then s.mboxEnd 0x0130 []
    else
      match vs.find? fun v => s.sys.defsig &&& v.1 == v.2.1 with
      | none => s.mboxEnd 0x0131 []
      | some (_, _, off, n) =>
        let secs := s.objSections pa off n
        if n % 16 ≠ 0 ∨ secs.any (fun x => x.1 == 0 || decide (6 < x.1) || x.2.1 != 0 || decide (len < x.2.2.1 + x.2.2.2)) then s.mboxEnd 0x0130 []
        else
          let x := s.loadSections ctx pa secs
          let e := s.loadError ctx x
          if e ≠ 0 then s.mboxEnd e []
          else
            let ids := freeSheafIds (s.context ctx).sheaves x.sheaves.length
            let s := x.code.foldl (fun s (c : Nat × Nat × Nat) => s.putCode ctx c.1 (s.bytes (hostBase + pa + c.2.1) c.2.2)) s
            let s := s.updContext ctx fun c => { c with
              sheaves := (List.zip ids x.sheaves).foldl (fun (m : FM Sheaf) p => FM.set m p.1 ⟨p.2, x.images⟩) c.sheaves }
            s.mboxEnd 0 (natLe 2 ids.length ++ [0, 0] ++ ids.flatMap fun i => natLe 2 i)

def execLoadObject (s : State) : Out :=
  finish (s.request 5 (fun y => y.mboxLen == 24 && y.bodyZero 1 7) fun s =>
    let ctx := s.sys.body 0
    if s.live ctx then ((List.range 16).foldl State.resite s).load ctx (s.sys.bodyNat 8 8) (s.sys.bodyNat 16 8) else s.mboxEnd 0x0130 [])

end Sys2Proof.Machine
end

