-- ==== Sys2Proof/Machine/Repair.lean ====
section
/-! DEFINITION. Sys2Proof/Machine/Repair.lean: resets and boot (18 R456; 00 R4), readiness (17 R447, R448), repair of the culms and bank stores
(17 R438 to R445), fencing of columns and tiles (17 R442; 16 R433), refresh and temperature (17 R446, R449) and the power governor (18 R460,
R461). -/

namespace Sys2Proof.Machine

/-- The field of DEFSIG for a column, and DEFSIG with another. -/
def Sys.defField (y : Sys) (c : Nat) : Nat := y.defsig / 16 ^ c % 16
def Sys.setDef (y : Sys) (c v : Nat) : Sys := { y with defsig := y.defsig - y.defField c * 16 ^ c + v * 16 ^ c }

/-- A tile is stopped without a save and never resumed (16 R433; 17 R442). -/
def State.haltTile (s : State) (t : Nat) : State := (s.stopTile t).updTile t fun T => { T with state := .fenced }

/-- The completion word of each launch with a task on one of the tiles is written poisoned (14 R379). -/
def State.poisonLaunches (s : State) (col : Nat) (tiles : List Nat) (cause origin : Nat) : State :=
  let here (l : Launch) : Bool := tiles.any fun t =>
    ((s.tile t).bound && (s.tile t).launch == l.id) || ((FM.find? s.saved t).map fun T => T.launch == l.id).getD false
  (s.launches.filter here).foldl (fun s l =>
    let s := s.updLaunch l.id fun x => { x with killed := some (x.killed.getD (cause, origin)) }
    match l.cw with
    | some n => s.writeCw l.ctx col n (w64 l.number) (statusWord 0 ⟨true, cause, origin⟩)
    | none => s) s

/-- Home records poisoned in every column: those that `f` picks by column and record. -/
def State.poisonHomes (s : State) (f : Nat → HomeRec → Bool) (cause origin : Nat) : State :=
  (List.range 16).foldl (fun s k =>
    ((s.col k).homes.filter fun (h : Nat × HomeRec) => f k h.2).foldl (fun s h => s.poisonHome k h.1 cause origin) s) s

/-- A column is fenced (17 R442). -/
def State.fenceColumn (s : State) (c : Nat) : State :=
  if (s.col c).fenced then s
  else
    let o := originCol c 0
    let tiles := (List.range 11).map fun r => tileAt r c
    let s := s.updCol c fun C => { C with fenced := true, failedWires := [] }
    let s := tiles.foldl (fun s t => s.haltTile t) s
    let s := s.poisonLaunches c tiles 0x57 o
    let s := s.poisonHomes (fun k r => k == c || r.parts.any fun t => tileCol t == c) 0x57 o
    let y := s.sys.setDef c 15
    ({ s with sys := { y with repairLog := y.repairLog ++ [(c, 64, 0)] } }).hostRecord (.of 6 0 c 0 0 0 0 0)

/-- A tile is fenced (16 R433); with the column's spare site gone the column is. -/
def State.fenceTile (s : State) (t : Nat) : State :=
  let c := tileCol t
  let T := s.tile t
  if T.state = .fenced ∨ s.colDisabled c then s
  else
    let o := originOf t 0
    let s := (s.haltTile t).poisonLaunches c [t] 0x56 o
    let s := s.poisonHomes (fun _ r => r.parts.contains t) 0x56 o
    let y := s.sys
    let s := { s with sys := { y with
      readyXb := setDel y.readyXb t, siteFenced := setAdd y.siteFenced (16 * c + T.site), repairLog := y.repairLog ++ [(c, 65, T.site)] } }
    let s := if y.defField c = 11 then { s with sys := s.sys.setDef c T.site } else s.fenceColumn c
    s.hostRecord (.of 5 T.ctx c 0 o 0 0 0)

/-- The fields of CREP (17 R439): spare `k`'s data wire, whether it is in use and whether it is fused; the half
and bad bits. -/
def crepMap (v : Word) (k : Nat) : Nat := v.toNat / 2 ^ (8 * k) % 64
def crepEn (v : Word) (k : Nat) : Bool := v.toNat / 2 ^ (8 * k + 7) % 2 == 1
def crepFused (v : Word) (k : Nat) : Bool := v.toNat / 2 ^ (32 + k) % 2 == 1
def crepHalf (v : Word) : Bool := v.toNat / 2 ^ 36 % 2 == 1
def crepSpare (v : Word) (k d : Nat) (en : Bool) : Word :=
  BitVec.ofNat 64 (v.toNat / 2 ^ (8 * k + 8) * 2 ^ (8 * k + 8) + (d % 64 + bit en 7) * 2 ^ (8 * k) + v.toNat % 2 ^ (8 * k))
def crepBit (v : Word) (n : Nat) : Word := v ||| BitVec.ofNat 64 (2 ^ n)

/-- The wire that carries data wire `w`, 64 + k for spare k; and the data wire that needs another when wire `w`
fails. -/
def crepCarrier (v : Word) (w : Nat) : Nat :=
  if 64 ≤ w then w
  else match [0, 1, 2, 3].find? fun k => crepEn v k && crepMap v k == w with
    | some k => 64 + k
    | none => w
def crepOrphan (v : Word) (w : Nat) : Option Nat :=
  if w < 64 then some w else if crepEn v (w - 64) then some (crepMap v (w - 64)) else none

/-- The wires of a sheath that are not good: those of a mask, and the data wires that fused spares replace (17
R441). -/
def badCount (v : Word) (m : Nat) : Nat :=
  ((List.range 68).filter fun i => m / 2 ^ i % 2 == 1 || [0, 1, 2, 3].any fun k => crepFused v k && crepEn v k && crepMap v k == i).length

/-- The repair of a wire of a sheath (17 R440, R441): a spare, half width, or bad; a fused spare's mapping
stays. The outcome is the new CREP, with the mask of failed wires. -/
def crepRepair (v : Word) (mask w : Nat) : Word × Nat :=
  let p := crepCarrier v w
  if mask / 2 ^ p % 2 = 1 then (v, mask)
  else
    let mask := mask + 2 ^ p
    let wide (v : Word) : Word := if 68 - badCount v mask < 34 then crepBit v 37 else crepBit v 36
    match crepOrphan v p with
    | none => (if crepHalf v then wide v else v, mask)
    | some d =>
      if crepHalf v || (decide (64 ≤ p) && crepFused v (p - 64)) then (wide v, mask)
      else
        let v := if 64 ≤ p then crepSpare v (p - 64) d false else v
        match [0, 1, 2, 3].find? fun k => !crepEn v k && !crepFused v k && mask / 2 ^ (64 + k) % 2 == 0 with
        | some k => (crepSpare v k d true, mask)
        | none => (wide v, mask)

/-- A failed wire of a column repaired; a sheath that sets bad fences the column (17 R442). -/
def State.repairWire (s : State) (c sh w : Nat) (log : Bool) : State :=
  let C := s.col c
  let v := FM.get 0 C.crep sh
  let r := crepRepair v (FM.get 0 C.badWires sh) w
  let s := s.setCol c { C with crep := FM.set C.crep sh r.1, badWires := FM.set C.badWires sh r.2 }
  let s := if log then { s with sys := { s.sys with repairLog := s.sys.repairLog ++ [(c, sh, crepCarrier v w)] } } else s
  if r.1.toNat / 2 ^ 37 % 2 = 1 then s.fenceColumn c else s

/-- The repairs of the log are applied again to a column (17 R444; 18 R456 stage 3). -/
def State.reapply (s : State) (c : Nat) : State :=
  (s.sys.repairLog.filter fun e => e.1 == c && decide (e.2.1 < 64)).foldl (fun s e => s.repairWire c e.2.1 e.2.2 false) s

/-- CREP as fused, at a cold reset; and without what a warm reset clears (17 R439). -/
def crepCold (v : Word) : Word :=
  [0, 1, 2, 3].foldl (fun v k => if crepFused v k then v else crepSpare v k 0 false) (BitVec.ofNat 64 (v.toNat % 2 ^ 36))
def crepWarm (v : Word) : Word :=
  [0, 1, 2, 3].foldl (fun v k => if crepFused v k then v else crepSpare v k (crepMap v k) false) (BitVec.ofNat 64 (v.toNat % 2 ^ 36))
def crepLoose (v : Word) : Bool := [0, 1, 2, 3].any fun k => crepEn v k && !crepFused v k

/-- An array through a cold reset (08 R226; 09 R260, R264, R267): cells, remap table and code sums stay, and the
mark uncertifiable. -/
def XArray.cold (A : XArray) : XArray :=
  { XArray.fresh with
    cells := A.cells, target := A.target, verified := A.verified, csr := A.csr, remap := A.remap
    cert := if A.cert.cstate = 3 then { Cert.none with cstate := 3, lapse := A.cert.lapse } else .none }

/-- The tiles after a reset: their sites by DEFSIG, each with the arrays of its physical site as `f` leaves them. -/
def State.freshTiles (s : State) (f : XArray → XArray) : FM Tile :=
  (List.range 176).filterMap fun t =>
    let site := s.siteOf t
    match List.find? (fun (p : Nat × Tile) => tileCol p.1 == tileCol t && p.2.site == site) s.tiles with
    | none => if site = t % 11 then none else some (t, { Tile.fresh t with site := site })
    | some (_, T) => some (t, { Tile.fresh t with site := site, mclk := T.mclk, arrays := T.arrays.map fun a => (a.1, f a.2) })

/-- A retired way stays retired; contexts are gone. -/
def retiredKept (l : List Nat) : List Nat := l.map fun w => if w < 1024 then w + 1024 else w

/-- Host memory alone, and all but the tiles' storage. -/
def hostOnly (m : List Host.Cell) : List Host.Cell := m.filter fun c => decide (hostBase ≤ c.1)
def inTiles (a : Nat) : Bool := decide (2 ^ 40 ≤ a) && decide (a < 2 ^ 42)

/-- The state that a cold reset leaves before boot (00 R4; log entry 29). -/
def State.coldBase (s : State) : State :=
  { State.reset with
    tc := s.tc, cur := s.cur, inputs := s.inputs, nextId := s.nextId, free := s.free, mem := hostOnly s.mem
    tiles := s.freshTiles XArray.cold
    cols := s.cols.map fun (c : Nat × Col) => (c.1, { Col.fresh with
      crep := c.2.crep.map fun (v : Nat × Word) => (v.1, crepCold v.2)
      spareRows := c.2.spareRows, spareCols := c.2.spareCols, retired := retiredKept c.2.retired })
    sys := { Sys.fresh with defsig := s.sys.defsig, repairLog := s.sys.repairLog } }

/-- What a warm reset leaves before stage 3 (17 R439, R444; log entry 29). -/
def State.warmBase (s : State) : State :=
  { State.reset with
    tc := s.tc, cur := s.cur, inputs := s.inputs, nextId := s.nextId, free := s.free
    mem := s.mem.filter fun c => !inTiles c.1
    pois := s.pois.filter fun g => !inTiles (64 * g)
    sectors := s.sectors, badPages := s.badPages
    tiles := s.freshTiles fun A => A
    nmus := s.nmus.map fun (n : Nat × Nmu) => (n.1, { Nmu.idle with
      aborts := n.2.aborts, lastCtx := n.2.lastCtx, lastAddr := n.2.lastAddr, fenced := n.2.fenced })
    cols := s.cols.map fun (c : Nat × Col) => (c.1, { Col.fresh with
      lines := c.2.lines, seqNo := c.2.seqNo, replayed := c.2.replayed, bfEnq := c.2.bfEnq, fenced := c.2.fenced
      crep := c.2.crep.map fun (v : Nat × Word) => (v.1, crepWarm v.2)
      retained := c.2.retained || c.2.crep.any fun (v : Nat × Word) => crepLoose v.2
      spareRows := c.2.spareRows, spareCols := c.2.spareCols, retired := c.2.retired })
    sys := { Sys.fresh with
      defsig := s.sys.defsig, repairLog := s.sys.repairLog, siteFenced := s.sys.siteFenced, keys := s.sys.keys, govMs := s.sys.govMs } }

/-- Boot in stage `stage`, or halted there with an error (18 R456). -/
def State.bootAt (s : State) (stage err : Nat) : State :=
  { s with sys := { s.sys with bootStage := stage, bootErr := err } }

/-- Stage 3 of boot: the repairs of the log are applied to every column that is not retained-unverified, whose own
repair comes with the end of its mark (17 R444). -/
def State.bootRepair (s : State) : State :=
  (List.range 16).foldl (fun s c => if (s.col c).retained then s else s.reapply c) s

/-- The end of the present stage of boot (18 R456): the next one, or a halt where a hash or a signature does not
match, which is free (log entry 29). -/
def State.bootStep (s : State) : State :=
  let (o, s) := takeIn 0 1 s
  match s.sys.bootStage with
  | 1 => if o = 1 then s.bootAt 1 1 else s.bootAt 2 0
  | 2 => if o = 1 then s.bootAt 2 2 else s.bootAt 3 0
  | 3 => s.bootRepair.bootAt 4 0
  | 4 => if o = 1 then s.bootAt 4 4 else { s with sys := { s.sys with bootStage := 5, readyMp := true } }
  | _ => s

/-- Boot is under way. -/
def Sys.booting (y : Sys) : Bool := decide (0 < y.bootStage) && decide (y.bootStage < 5) && y.bootErr == 0

def execColdReset (s : State) : Out := finish (s.coldBase.bootAt 1 0)

/-- A warm reset (17 R444; 18 R456): from stage 3 on. A boot ROM that has halted stays halted, and one that has not
started the monitor starts again (log entry 29). -/
def State.warmReset (s : State) : State :=
  if s.sys.bootErr = 1 ∨ s.sys.bootErr = 2 then s else s.warmBase.bootAt (if s.sys.bootStage < 3 then 1 else 3) 0

def execWarmReset (s : State) : Out := finish s.warmReset

/-- Function `f` is ready (18 R456 stage 5; 17 R447), by its READY bit: 0 to 15 a column, 16 to 23 a stack,
whose refresh starts, 24 to 31 a peer port, 32 the host interface, 64 on a tile's crossbars. -/
def State.becomesReady (s : State) (f : Nat) : State :=
  let y := s.sys
  if y.bootStage ≠ 5 then s
  else if f < 16 then s.updCol f fun C => { C with trained := true }
  else if f < 24 then
    { s with sys := { y with
      readyHbm := y.readyHbm ||| 2 ^ (f - 16)
      refresh := (List.range 32).foldl (fun m i => FM.set m (32 * (f - 16) + i) 7020) y.refresh
      bursts := (List.range 32).foldl (fun m i => FM.set m (32 * (f - 16) + i) (s.tc + 7020)) y.bursts } }
  else if f < 32 then { s with sys := { y with readyLink := y.readyLink ||| 2 ^ (f - 24) } }
  else if f = 32 then { s with sys := { y with readyHost := true } }
  else if 64 ≤ f ∧ f < 240 then { s with sys := { y with readyXb := setAdd y.readyXb (f - 64) } }
  else s

def execFunctionReady (f : Nat) (s : State) : Out := finish (s.becomesReady f)

/-- Repair is applied again to a retained-unverified column, and its mark cleared (17 R444). -/
def State.unmark (s : State) (c : Nat) : State :=
  if !(s.col c).retained then s
  else (s.reapply c).updCol c fun C => { C with retained := false, trained := true }

def execRepairReapplied (c : Nat) (s : State) : Out := finish (s.unmark c)

/-- Something in flight that crosses the culm of column `c`. -/
def Fl.crosses (c : Nat) : Fl → Bool
  | .put p => tileCol p.t == c || tileCol p.target == c
  | f => f.tile?.any fun t => tileCol t == c

/-- The next piece of a store, delivered poisoned (17 R438). -/
def State.poisonPiece (s : State) (f : Flight) (a : Access) : State :=
  match a.keys, s.view? f with
  | k :: ks, some v =>
    if !s.mayPerform v (s.unitAt a.t a.space a.unit k.1 a.phys) then s
    else
      let (b, s) := s.performPiece { a with result := { a.result with p := true } } k
      s.refly f.id f.due (.access { b with keys := ks, result := a.result })
  | _, _ => s

/-- A flit delivered poisoned (17 R438; 11 R323): the data of an access, the next piece of a store, the next
granule of a put, a register of a TSPILL or TFILL, the completion word of a CWPOST. -/
def State.poisonFlit (s : State) (f : Flight) : State :=
  match f.fl with
  | .access a =>
    if a.stage = 0 ∧ !accWrites a.op then s
    else if a.stage = 0 ∧ !a.atomic ∧ !isDeque a.op then s.poisonPiece f a
    else
      let q := if a.op = 0x28 then some (a.pois.getD (0x37, s.holderOf a.t a.space a.unit a.va a.phys)) else a.pois
      s.refly f.id f.due (.access { a with
        data := a.data.map fun b => (b.1, true), result := { a.result with p := a.result.p || a.stage != 0 }, pois := q })
  | .remote t c r vs =>
    if r.op = 0x3C ∧ !s.remoteWaits f.id t c r vs then (s.land f.id).cwpostEnd t c r vs true
    else if r.op = 0x51 ∨ r.op = 0x52 then
      let x := Spill.of (r.op == 0x52) vs
      let i := (x.regs.findIdx? fun v => v.2.2.2 == bit (r.op == 0x52) 0).getD x.regs.length
      s.refly f.id f.due (.remote t c r
        ({ x with regs := x.regs.mapIdx fun j (v : Nat × Nat × Nat × Nat) => if j = i then (v.1, v.2.1, 1, v.2.2.2) else v }.nums (r.op == 0x52)))
    else s
  | .put p =>
    if p.written || p.space == 4 || (s.putRefused p).isSome || !s.putTaken p || decide (granuleCount p.dst p.len ≤ p.done) then s
    else
      let p := s.readAll p
      let s := s.deliver p p.done
      let s := { s with pois := setAdd s.pois ((spBase p.target + (p.putPart p.done).1) / 64) }
      if p.done + 1 < granuleCount p.dst p.len then s.refly f.id (s.tc + 1) (.put { p with done := p.done + 1 })
      else s.putComplete f.id { p with done := p.done + 1 }
  | _ => s

/-- A flit of a copy command delivered poisoned: the next granule that it writes, or the first that it has read
ahead. -/
def CCmd.poisonFlit (c : CCmd) : CCmd :=
  let first (gs : List (Nat × List Nat × Bool)) : List (Nat × List Nat × Bool) := gs.mapIdx fun i g => if i = 0 then (g.1, g.2.1, true) else g
  match c.out with
  | some o => { c with out := some { o with gs := first o.gs } }
  | none => { c with ahead := c.ahead.mapIdx fun i r => if i = 0 then { r with gs := first r.gs } else r }

/-- A flit of a saved tile's slot delivered poisoned: a free line of it (14 R386). -/
def State.poisonSlot (s : State) (t : Nat) : State :=
  match FM.find? s.saved t with
  | none => s
  | some T =>
    let (n, s) := takeIn 0 81919 s
    match s.translate T.ctx (tileCol t) ((s.context T.ctx).slotVa t + 64 * n) 2 0 with
    | .ok p => if setHas s.badPages (p.pa / 4096) then s else s.enterSector (p.pa / 32)
    | _ => s

/-- What a flit's number names: a flight; from 2^40 on the copy command of slot k of tile t, as 16t + k; from
2^41 on the save of tile t. -/
def State.poisonNumber (s : State) (c id : Nat) : State :=
  if 2 ^ 41 ≤ id then if tileCol (id - 2 ^ 41) = c then s.poisonSlot (id - 2 ^ 41) else s
  else if 2 ^ 40 ≤ id then
    let t := (id - 2 ^ 40) / 16
    if tileCol t = c then s.updTile t fun T => { T with ccmds := T.ccmds.map fun k => if k.1 = id % 16 then (k.1, k.2.poisonFlit) else k }
    else s
  else match s.flight? id with
    | some f => if f.fl.crosses c then s.poisonFlit f else s
    | none => s

/-- A CRC failure of a flit in the culm (17 R438): it counts against its wire, and a flit that fails after 8
retries is delivered poisoned. -/
def State.crcFailure (s : State) (c sh w id : Nat) : State :=
  let C := s.col c
  let k := 68 * sh + w
  let recent := ((FM.get [] C.wireFails k).filter fun t => decide (s.tc < t + 1572864)) ++ [s.tc]
  let due := decide (16 ≤ recent.length)
  let n := FM.get 0 C.retries id + 1
  let kept := C.retries.filter fun (r : Nat × Nat) => decide (2 ^ 40 ≤ r.1) || s.flights.any fun f => f.id == r.1
  let s := s.setCol c { C with
    wireFails := FM.set C.wireFails k (if due then [] else recent)
    retries := if 9 ≤ n then FM.del kept id else FM.set kept id n }
  let s := if 9 ≤ n then s.poisonNumber c id else s
  if due then s.soon [.declare c sh w] else s

def execFlitCrcFailure (c sh wire id : Nat) (s : State) : Out :=
  if 16 ≤ c ∨ 64 ≤ sh ∨ 68 ≤ wire then finish s else finish (s.crcFailure c sh wire id)

/-- The hold of R440 on a column, with the tc in which it began. -/
def State.repairHold (s : State) (c : Nat) : State := s.updCol c fun C => { C with
  repairAt := if C.holders.contains 1 then C.repairAt else s.tc, holders := setAdd C.holders 1 }

/-- A wire is declared failed (17 R438, R440): the column's stall wire rises, and the repair is due. -/
def State.declareWire (s : State) (c sh w : Nat) : State :=
  if s.colDisabled c then s
  else (s.repairHold c).updCol c fun C => { C with
    failedWires := if C.failedWires.contains (sh, w) then C.failedWires else C.failedWires ++ [(sh, w)] }

def execWireFailureDeclared (c sh wire : Nat) (s : State) : Out :=
  if 16 ≤ c ∨ 64 ≤ sh ∨ 68 ≤ wire then finish s else finish (s.declareWire c sh wire)

/-- A flit of column `c` is in the culm (17 R440): an access, put or word of one of its tiles that moves, a
message to a home record or its answer, or the granules that a copy command is writing. A held access, a put
that its receive unit refuses and a word that waits have none there. -/
def State.flitsOut (s : State) (c : Nat) : Bool :=
  (s.flights.any fun f => match f.fl with
    | .access a => tileCol a.t == c && f.clk == .dev && a.space != 0 && a.space != 5 && a.op != 0x34 &&
        !(s.col c).held.any (fun h => h.what == .acc a.t (f.id + 1))
    | .put p => (tileCol p.t == c || tileCol p.target == c) && f.clk == .dev && (p.written || s.putTaken p)
    | .home t .. => tileCol t == c && decide (s.tc < f.due)
    | .update t .. => tileCol t == c && decide (s.tc < f.due)
    | .remote t k r vs => tileCol t == c && r.op != 0 && f.clk == .dev && decide (s.tc < f.due) && !s.remoteWaits f.id t k r vs
    | _ => false) ||
  s.tiles.any fun T => tileCol T.1 == c && T.2.ccmds.any fun k => k.2.out.isSome

/-- The hold of a repair has come to its longest, 7,200 tc (17 R440). -/
def State.repairEnds (s : State) (c : Nat) : Bool := decide ((s.col c).repairAt + 7199 ≤ s.tc)

/-- The repairs of a hold (17 R440): every wire declared by then. -/
def State.softRepair (s : State) (c : Nat) : State :=
  let ws := (s.col c).failedWires
  let s := s.updCol c fun C => { C with failedWires := [] }
  ws.foldl (fun s w => if (s.col c).fenced then s else s.repairWire c w.1 w.2 true) s

def execSoftRepair (c : Nat) (s : State) : Out := finish (s.softRepair c)

/-- The context, and the way of its grant, that hold physical way `way` of a column: the grants in the order of
the contexts (log entry 30). -/
def State.wayOwner (s : State) (c way : Nat) : Option (Nat × Nat) :=
  ((List.range 16).flatMap fun x => (List.range (FM.get 0 (s.context x).nw c)).map fun w => (x, w))[way]?

/-- A line of a way whose copy met an uncorrectable error is poisoned (11 R323): the `n`th line cached there, or
granule of column scratch. -/
def State.poisonInWay (s : State) (c x w n : Nat) : State :=
  if w < s.cacheWays x c then
    let ls := (s.col c).lines.filter fun l => l.ctx == x && l.way == w
    match ls[n % (max ls.length 1)]? with
    | some l => s.setLine c { l with p := true }
    | none => s
  else { s with pois := setAdd s.pois ((csBase x c w + 64 * (n % 24576)) / 64) }

/-- A spare row or column of a bank-store way is switched in under the column's hold, or the way is retired (17
R445). `bad` is 0, or one more than the place of a line whose copy failed. -/
def State.spareSwitch (s : State) (c way : Nat) (isCol : Bool) (bad : Nat) : State :=
  let C := s.col c
  let used := if isCol then FM.get 0 C.spareCols way else FM.get 0 C.spareRows way
  let o := s.wayOwner c way
  let s := s.repairHold c
  let s :=
    if (if isCol then 8 else 64) ≤ used then
      let k := match o with
        | some (x, w) => 16 * x + w
        | none => 1024 + way
      s.updCol c fun C => { C with retired := if C.retired.contains k then C.retired else C.retired ++ [k] }
    else
      s.updCol c fun C =>
        if isCol then { C with spareCols := FM.set C.spareCols way (used + 1) } else { C with spareRows := FM.set C.spareRows way (used + 1) }
  match o with
  | some (x, w) => if bad = 0 then s else s.poisonInWay c x w (bad - 1)
  | none => s

def execBankStoreSpareSwitch (c way isCol bad : Nat) (s : State) : Out :=
  if 16 ≤ c ∨ 16 ≤ way ∨ s.colDisabled c then finish s else finish (s.spareSwitch c way (isCol != 0) bad)

/-- The refresh interval, in tc, at a temperature of the hottest bank (17 R446). -/
def refreshEvery (temp : Nat) : Nat := if temp ≤ 85 then 7020 else if temp ≤ 95 then 3510 else 1755

/-- The temperatures of the hottest bank of each channel, in °C, set its interval from its next burst on, and a
stack's throttling (17 R446). -/
def State.temperatures (s : State) (temps : List Nat) : State :=
  let y := s.sys
  let hot (k : Nat) : Nat := (cut temps (32 * k) 32).foldl max 0
  { s with sys := { y with
    refresh := (List.zip (List.range 256) temps).foldl (fun (m : FM Nat) p => FM.set m p.1 (refreshEvery p.2)) y.refresh
    hbmThrottle := maskOf 8 fun k => decide (105 < hot k) || (y.hbmThrottle / 2 ^ k % 2 == 1 && decide (100 < hot k)) } }

def execHbmTemperatureRead (temps : List Nat) (s : State) : Out := finish (s.temperatures temps)

/-- A refresh burst of a channel, and the time of its next. -/
def execRefreshBurst (ch : Nat) (s : State) : Out :=
  if 256 ≤ ch then finish s
  else finish { s with sys := { s.sys with bursts := FM.set s.sys.bursts ch (s.tc + FM.get 7020 s.sys.refresh ch) } }

/-- A measurement of the module's power (18 R460, R461). Which columns have the highest activity, one at least,
is free (log entry 31). -/
def State.governor (s : State) (watts : Nat) : State :=
  let (n, s) := takeFree s
  let y := s.sys
  let busy := y.throttled != 0 || y.hbmThrottle != 0
  let thr := if 3000 < watts then y.throttled ||| n % 2 ^ 16 ||| 2 ^ (n / 2 ^ 16 % 16) else if watts < 2900 then 0 else y.throttled
  let s := { s with sys := { y with
    watts := min watts 65535, throttled := thr, govMs := if busy then min (y.govMs + 1) (2 ^ 24 - 1) else y.govMs } }
  if thr = 0 then ((List.range 16).foldl (fun s c => s.updCol c fun C => { C with holders := setDel C.holders 2 }) s).resumeFrom s
  else s

def execGovernorMeasurement (watts : Nat) (s : State) : Out := finish (s.governor watts)

/-- The governor raises or lowers the stall wire of a throttled column (18 R460; 14 R393): up at the start of
each 3,600 tc, for up to 1,800 of them (log entry 31). -/
def execGovernorThrottlePeriod (c up : Nat) (s : State) : Out :=
  if 16 ≤ c then finish s
  else finish ((s.updCol c fun C => { C with
    holders := if up ≠ 0 ∧ s.sys.throttled / 2 ^ c % 2 = 1 then setAdd C.holders 2 else setDel C.holders 2 }).resumeFrom s)

/-- The tile die reaches 110 °C, and 125 °C (17 R449). -/
def execThermalStopBinding (s : State) : Out := finish { s with sys := { s.sys with stopBinding := true } }
def execThermalPowerOff (s : State) : Out := finish { s with sys := { s.sys with powered := false } }

/-- An uncorrectable read of device memory enters its sector in the controller's record (11 R323, R325). -/
def execHbmUncorrectableRead (pa : Nat) (s : State) : Out :=
  if hbmSize ≤ pa ∨ setHas s.badPages (pa / 4096) then finish s else finish (s.enterSector (pa / 32))

end Sys2Proof.Machine
end

