-- ==== Sys2Proof/Machine/Check.lean ====
section
/-! DEFINITION. Sys2Proof/Machine/Check.lean: checkers, replays and self-tests (16 R430 to R437; 07 R221) and errors of storage (16 R430, R434,
R435; 11 R323). A mismatch event comes with the number of its mismatches: each has its entry and its self-test, and what the event ends in comes
with the last verdict (log entry 32). Units: 0 CTL, 1 ACC, 3 MTX, 4 XBR, 5 CPY, 6 receive unit, 7 digital route, 8 audits, 16 + p pipe p of
VEC, 64 + channel an NMU. -/

namespace Sys2Proof.Machine

/-- The engine, or 6 for the receive unit, whose origin a unit's reports carry, and the part. The matrix engine
does digital and audit work. -/
def unitEngine (u : Nat) : Nat := if 16 ≤ u then 2 else if 7 ≤ u then 3 else u
def unitPart (u : Nat) : Nat := if 16 ≤ u then u - 16 else 0

/-- The results of control-core words of a tile that are on their way, as (flight, context). -/
def State.pendingS (s : State) (t : Nat) : List (Nat × Nat) :=
  s.flights.filterMap fun f => match f.fl with
    | .sreg u c _ _ _ => if u = t then some (f.id, c) else none
    | _ => none

/-- The second replay of a control-core word fails: its result, flight `id`, lands poisoned and its context
traps, at its next word not issued (16 R422, R431). -/
def State.ctlError (s : State) (t id : Nat) (w : Word) : State :=
  match (s.pendingS t).find? fun p => p.1 == id with
  | none => s
  | some (_, c) =>
    let s := { s with flights := s.flights.map fun f =>
      match f.fl with
      | .sreg u d r v fl => if f.id = id then { f with fl := .sreg u d r { v with p := true } fl } else f
      | _ => f }
    let x := s.cc t c
    if x.run = .dormant then s else s.trap t c 0x13 x.pc w ⟨false, 0, false, true, 0, false⟩

/-- The access core's word faults before any of its accesses leaves (16 R431; 05 R132). -/
def State.accError (s : State) (t : Nat) (w : Word) : State :=
  let x := (s.tile t).engine 1
  match s.peek t 1 with
  | none => s
  | some r =>
    if x.stop || x.hold != .none then s
    else
      let sig := r.w.toNat / 2 ^ 48 % 256
      let pfx := x.latch.start.isSome
      let off := s.groupOff t 1
      let s := s.stopEngine t 1 0x13 w off x.waitDone pfx false (if pfx then x.group ++ [r] else [r]) (x.again.drop 1)
      if syncByteOk 1 sig && !(s.tile t).unmapped sig then
        s.signalNow t 1 0 ((s.tile t).resolveSig sig) (some (0x13, originOf t 1))
      else s

/-- The result of a vector word on its way: register, mask, entry, tile or stream. -/
def Fl.vecPoison (t : Nat) : Fl → Option Fl
  | .vreg u r m v fl => if u = t then some (.vreg u r m { v with p := true } fl) else none
  | .mreg u r m v fl => if u = t then some (.mreg u r m { v with p := true } fl) else none
  | .tile u r vec win v fl => if u = t ∧ vec then some (.tile u r vec win { v with p := true } fl) else none
  | .qfill u e q i v fl => if u = t ∧ e = 2 then some (.qfill u e q i { v with p := true } fl) else none
  | _ => none

/-- The vector engine: the earliest result is poisoned, with its word's signal, which lands in the same tc, and
the engine stops. -/
def State.vecError (s : State) (t part : Nat) (w : Word) : State :=
  let hit (f : Flight) : Option (Flight × Fl) := (f.fl.vecPoison t).map fun fl => (f, fl)
  let s :=
    match s.flights.findSome? hit with
    | none => s.updTile t fun T => { T with streams := T.streams.map fun (v : StreamV) => if v.pipe = part then { v with p := true } else v }
    | some (g, fl) => { s with flights := s.flights.map fun (f : Flight) =>
        if f.id = g.id then { f with fl := fl }
        else match f.fl with
          | .signal u e sig c _ => if u = t ∧ e = 2 ∧ f.due = g.due then { f with fl := .signal u e sig c (some (0x13, originOf t 2)) } else f
          | _ => f }
  let x := (s.tile t).engine 2
  if x.stop then s
  else s.stopEngine t 2 0x13 w (((x.group.head?).map fun r => r.off).getD 0) true (decide (1 < x.group.length)) true x.group x.again

/-- Work of an open window on its way (07 R221). -/
def Fl.ofWindow (t win : Nat) : Fl → Bool
  | .tile u _ vec w _ _ => u == t && !vec && w == win
  | .mstep u _ _ w _ _ _ => u == t && w == win
  | .mdone u w _ _ => u == t && w == win
  | .rowMask u _ _ => u == t
  | _ => false

/-- A word to be executed again without its wait. -/
def RWord.noWait (r : RWord) : RWord := ⟨BitVec.ofNat 64 (r.w.toNat % 2 ^ 56), r.off⟩

/-- The replay of a window (07 R221): its tiles and the row mask from the shadow copy, its commands again, those
first that an earlier replay has executed again. -/
def State.windowReplay (s : State) (t : Nat) (w : Window) : State :=
  let s := { s with flights := s.flights.filter fun f => !f.fl.ofWindow t w.id }
  let s := s.updTile t fun T => { T with
    accs := w.shadow.foldl (fun (m : FM TVal) p => FM.set m p.1 p.2) T.accs
    rowMask := w.mask, rowMaskP := w.maskP, replays := min (T.replays + 1) (2 ^ 32 - 1)
    mcmd := match T.mcmd with
      | some m => if m.win = w.id then none else some m
      | none => none
    window := some { w with kept := [], left := w.kept ++ w.left, flags := 0, replays := w.replays + 1 } }
  s.updEng t 3 fun x => { x with
    latch := .empty, waitFrom := none, waitDone := false, nextAt := (s.tile t).clk + 1
    again := (w.kept.flatMap fun r => r.group.map RWord.noWait) ++ (if x.latch.start.isSome then x.group else []) ++ x.again }

/-- The second replay of a window meets a mismatch: every held signal is poisoned, and what its replay had yet
to execute is not executed. -/
def State.windowLost (s : State) (t : Nat) (w : Window) (lw : Word) : State :=
  let s := { s with flights := s.flights.filter fun f => !f.fl.ofWindow t w.id }
  let s := s.updTile t fun T => { T with
    accs := (List.range w.cnt).foldl (fun (m : FM TVal) i => FM.set m (w.first + i) { T.accOf (w.first + i) with p := true }) T.accs
    mcmd := match T.mcmd with
      | some m => if m.win = w.id then none else some m
      | none => none
    window := none }
  let s := (w.kept ++ w.left).foldl (fun s r => s.signalNow t 3 0 r.sig (some (0x13, originOf t 3))) s
  let x := (s.tile t).engine 3
  let half := if w.left = [] then [] else x.partial
  let rest := x.again.drop ((w.left.flatMap fun r => r.group).length - half.length)
  let group := if half = [] then x.group else []
  s.stopEngine t 3 0x13 lw (((group.head?).map fun r => r.off).getD 0) true (decide (1 < group.length)) true group rest

/-- A mismatch outside any window: the tile of the earliest write on its way is poisoned, what has not started
of its command does not run, and the command's signal is sent poisoned. A command whose steps have all started
ends in an `mdone` no earlier than each of them. -/
def State.mtxError (s : State) (t : Nat) (lw : Word) : State :=
  let hit (f : Flight) : Option Fl := match f.fl with
    | .mstep u r m w a _ fl => if u = t then some (.mstep u r m w a true fl) else none
    | .tile u r vec w v fl => if u = t ∧ !vec then some (.tile u r vec w { v with p := true } fl) else none
    | .qfill u e q i v fl => if u = t ∧ e = 3 then some (.qfill u e q i { v with p := true } fl) else none
    | _ => none
  let first (f : Flight) : Option (Flight × Fl) := (hit f).map fun (fl : Fl) => (f, fl)
  match s.flights.findSome? first with
  | none => s
  | some (g, fl) =>
    let bad := some (0x13, originOf t 3)
    let s := { s with flights := s.flights.map fun (f : Flight) => if f.id = g.id then { f with fl := fl } else f }
    let ends (f : Flight) : Option (Nat × Nat) := match f.fl with
      | .mdone u _ _ sig => if u = t ∧ g.due ≤ f.due then some (f.id, sig) else none
      | .signal u e sig _ _ => if u = t ∧ e = 3 ∧ g.due = f.due then some (f.id, sig) else none
      | _ => none
    let s := match s.flights.findSome? ends, (s.tile t).mcmd with
      | some (d, sig), _ => (s.land d).signalNow t 3 0 sig bad
      | none, some m => (s.updTile t fun T => { T with mcmd := none }).signalNow t 3 0 m.sig bad
      | none, none => s
    let x := (s.tile t).engine 3
    if x.stop then s
    else s.stopEngine t 3 0x13 lw (((x.group.head?).map fun r => r.off).getD 0) true (decide (1 < x.group.length)) true x.group x.again

/-- A mismatch of the matrix datapath (07 R221). -/
def State.mtxMismatch (s : State) (t : Nat) (lw : Word) : State :=
  match (s.tile t).window with
  | some w =>
    let outside := ((s.tile t).mcmd.map fun m => m.win != w.id).getD false
    if outside then s.mtxError t lw
    else if w.replays < 2 then s.windowReplay t w
    else s.windowLost t w lw
  | none => s.mtxError t lw

/-- A vector of a crossbar command whose second replay fails: its rows land poisoned. -/
def State.xbrError (s : State) (t : Nat) (lw : Word) : State :=
  match List.find? (fun (p : Nat × XCmd) => p.2.started.isSome && decide (p.2.landed < p.2.inputs.length)) (s.tile t).xcmds with
  | none => s
  | some (k, c) =>
    let s := s.setXcmd t k { c with
      inputs := c.inputs.mapIdx fun i x => if i = c.landed then (x.1, x.2.1, true) else x
      pois := some (c.pois.getD (0x13, originOf t 4)) }
    s.stopUnit t 4 0x13 lw c.grp c.grp

/-- Digital work: the affected rows and the signal are poisoned (08 R242), or the outputs of a batch of the
backfill engine (13 R358). -/
def State.digitalError (s : State) (t : Nat) : State :=
  match List.find? (fun (p : Nat × XCmd) => p.2.started.isSome && decide (0 < p.2.slots)) (s.tile t).xcmds with
  | none => s.updCol (tileCol t) fun C => { C with batch := C.batch.map fun b =>
      if b.tile = t ∧ 0 < b.slots then { b with mismatch := true } else b }
  | some (k, c) => s.setXcmd t k { c with
      inputs := c.inputs.map fun x => (x.1, x.2.1, true), pois := some (c.pois.getD (0x13, originOf t 4)) }

/-- An audit: the signal is poisoned, the certificate unchanged (08 R245). -/
def State.auditError (s : State) (t : Nat) : State :=
  match List.find? (fun (p : Nat × XCmd) => p.2.audits != []) (s.tile t).xcmds with
  | none => s
  | some (k, c) =>
    (s.setXcmd t k { c with audits := c.audits.drop 1, pois := some (c.pois.getD (0x13, originOf t 4)) }).xcmdEnd t k

/-- A copy unit: a fault at the unit (10 R279). -/
def State.copyError (s : State) (t : Nat) (lw : Word) : State :=
  match List.find? (fun (p : Nat × CCmd) => p.2.phase == 0 && !p.2.stuck) (s.tile t).ccmds with
  | none => s
  | some (k, c) => s.cpyFault t k c 0x13 lw.toNat

/-- The receive unit: the next granule of a reduce is poisoned, and the put's signal (16 R431). -/
def State.receiveError (s : State) (t : Nat) : State :=
  let hit (f : Flight) : Option (Flight × Put) := match f.fl with
    | .put p => if p.target = t ∧ p.kind = 2 ∧ p.space = 0 ∧ !p.written ∧ (s.putRefused p).isNone ∧ s.putTaken p then some (f, p) else none
    | _ => none
  match s.flights.findSome? hit with
  | none => s
  | some (f, p) =>
    let n := granuleCount p.dst p.len
    let p := s.readAll p
    let a := (spBase t + (p.putPart p.done).1) / 64
    let s := (List.range (n - p.done)).foldl (fun s j => s.deliver p (p.done + j)) s
    let s := { s with pois := setAdd s.pois a }
    let s := match p.sem with
      | some k => (s.updTile t fun T => T.setSem k ((T.semOf k).inc (originOf p.t 1))).retest t
      | none => s
    (s.land f.id).flyTile p.t 1 (.signal p.t 1 p.sig 0 (some (0x13, originOf t 6)))

/-- The recovery of the last column of 16 R431's table; `id` is the result of unit 0 that is concerned. -/
def State.unitError (s : State) (t u id : Nat) (lw : Word) : State :=
  if 16 ≤ u then s.vecError t (u - 16) lw
  else match u with
    | 0 => s.ctlError t id lw
    | 1 => s.accError t lw
    | 4 => s.xbrError t lw
    | 5 => s.copyError t lw
    | 6 => s.receiveError t
    | 7 => s.digitalError t
    | 8 => s.auditError t
    | _ => s

/-- The `where` of an entry: the program counter of the context whose result is concerned, or the ring offset of
the group. -/
def State.logPlace (s : State) (t e id : Nat) : Nat :=
  if e = 0 then (s.cc t ((((s.pendingS t).find? fun p => p.1 == id).map fun p => p.2).getD 0)).pc % 2 ^ 13
  else if e = 6 then 0
  else s.groupOff t e % 2 ^ 13

/-- Replays that the event of a unit has had before its mismatch `i`. -/
def Tile.replaysMade (T : Tile) (u i : Nat) : Nat := if u = 3 then (T.window.map fun w => w.replays).getD 0 else i - 1

/-- Mismatch `i` of the `n` of an event (16 R430 to R432, R435): an entry in the log, and the self-test of the
unit, of at most 4,096 tc. Which checker it was is free. -/
def State.testBegins (s : State) (t u n i id : Nat) : State :=
  let e := unitEngine u
  let (k, s) := takeIn 0 1 s
  let w := logWord 0x13 (originOf t e) (unitPart u) k ((s.tile t).replaysMade u i) 0 (s.logPlace t e id)
  (s.logError t w).updTile t fun T => { T with testing := FM.set T.testing u (4 * n + i, s.tc + 4096, id) }

/-- A mismatch of a checker (16 R430 to R432): which result of a control-core word it concerns is free. A unit
under test meets none. -/
def State.mismatch (s : State) (t u fails : Nat) : State :=
  if !s.tileRuns t || fails == 0 || (FM.find? (s.tile t).testing u).isSome || (u == 0 && (s.pendingS t).isEmpty) then s
  else
    let (n, s) := takeFree s
    let ps := s.pendingS t
    s.testBegins t u (min fails 3) 1 (if u = 0 then ((ps[n % ps.length]?).map fun p => p.1).getD 0 else 0)

def execCheckerMismatch (t u fails : Nat) (s : State) : Out :=
  if 176 ≤ t ∨ 20 ≤ u ∨ (9 ≤ u ∧ u < 16) then finish s else finish (s.mismatch t u fails)

/-- Word 0 of an entry is that of a test that runs, of a unit of a tile or of an NMU. -/
def testOf (u : Nat) (w : Nat) : Bool :=
  w / 2 ^ 31 % 4 == 0 &&
    (if 64 ≤ u then w % 256 == 0x51 && w / 2 ^ 33 % 2 ^ 13 == u - 64
     else w % 256 == 0x13 && w / 2 ^ 8 % 16 == unitEngine u && w / 2 ^ 24 % 8 == unitPart u)

/-- The newest entry of the log that shows a test of unit `u` shows its verdict. -/
def setVerdict (u v : Nat) : List LogEnt → List LogEnt
  | [] => []
  | x :: xs => if testOf u x.w0.toNat then ⟨w64 (x.w0.toNat + v * 2 ^ 31), x.w1⟩ :: xs else x :: setVerdict u v xs
def Tile.testEnds (T : Tile) (u v : Nat) : Tile := { T with
  log := setVerdict u v T.log
  lasting := if v = 2 ∧ T.log.any (fun x => testOf u x.w0.toNat) then T.lasting + 1 else T.lasting }

/-- The entry of the test of unit `u`, with a transient verdict. -/
def Tile.testWord (T : Tile) (u : Nat) : Word :=
  ((T.log.find? fun x => testOf u x.w0.toNat).map fun x => w64 (x.w0.toNat + 2 ^ 31)).getD 0

/-- The verdicts of the last 2^30 tc among those of a unit. -/
def recentVerdicts (tc : Nat) (l : List Nat) : List Nat := l.filter fun x => decide (tc < x + 2 ^ 30)

/-- The self-test of an NMU ends (16 R432, R433). -/
def State.nmuVerdict (s : State) (ch : Nat) (fail : Bool) : State :=
  let N := s.nmu ch
  match N.test with
  | none => s
  | some (t, _) =>
    let recent := recentVerdicts s.tc N.verdicts
    let lasting := fail || decide (2 ≤ recent.length)
    (s.setNmu ch { N with
      test := none, fenced := N.fenced || lasting, verdicts := if lasting then recent else recent ++ [s.tc] }).updTile t
        fun T => T.testEnds (64 + ch) (if lasting then 2 else 1)

/-- A self-test ends (16 R432, R433). The verdict is lasting when the test fails, or the unit holds two
transient ones from earlier events; a replay of a window belongs to the event that began it. Else the replay or
the recovery of R431 proceeds, the replay's own mismatch follows where the event has one more, and the event
adds one transient verdict. One that STEST asked for has no entry (R437). -/
def State.verdict (s : State) (t u : Nat) (fail : Bool) : State :=
  let T := s.tile t
  if 64 ≤ u then s.nmuVerdict (u - 64) fail
  else match FM.find? T.testing u with
  | none => s
  | some (k, _, id) =>
    let n := k / 4
    let i := k % 4
    if n = 0 then
      if fail then (s.updTile t fun T => { T with testing := FM.del T.testing u, lasting := T.lasting + 1 }).fenceTile t else s
    else
      let same := u == 3 && T.window.any fun w => decide (0 < w.replays)
      let lasting := fail || decide (2 ≤ s.transients t u - bit same 0)
      let s := s.updTile t fun T => { T.testEnds u (if lasting then 2 else 1) with testing := FM.del T.testing u }
      if lasting then s.fenceTile t
      else
        let again := decide (i < n) && u != 3
        let s := if same || again then s
          else s.updTile t fun T => { T with verdicts := FM.set T.verdicts u (recentVerdicts s.tc (FM.get [] T.verdicts u) ++ [s.tc]) }
        let s := if u = 3 then s.mtxMismatch t (T.testWord u) else if i < 3 then s else s.unitError t u id (T.testWord u)
        if again || (decide (i < n) && (s.tile t).window.any fun w => decide (0 < w.replays)) then s.testBegins t u n (i + 1) id else s

def execSelfTestVerdict (t u fail : Nat) (s : State) : Out :=
  if 176 ≤ t ∨ 320 ≤ u then finish s else finish (s.verdict t u (fail != 0))

/-- An uncorrectable error of a tile's storage, or of its column's bank store, poisons its holder (16 R430; 11
R323): 0 a CIM word (R434), 1 a scratchpad granule, 2 a vector register, 3 a mask register, 4 an accumulator
tile, 5 s-register 32 · context + r, 6 an a-register, 7 the entries of a queue, 8 a bank-store line, 9 a line of
the L1, 10 a granule of column scratch. -/
def State.sramError (s : State) (t holder i : Nat) : State :=
  let c := tileCol t
  let entry (e : Nat) (s : State) : State :=
    let (n, s) := takeIn 0 8191 s
    s.logError t (logWord 0x37 (originOf t e) 0 2 0 3 n)
  match holder with
  | 0 => if 8192 ≤ i then s else s.updTile t fun T => { T with cimBad := setAdd T.cimBad i }
  | 1 => if 8192 ≤ i then s else entry 0 { s with pois := setAdd s.pois (spBase t / 64 + i) }
  | 2 => if 1024 ≤ i then s else entry 2 (s.updTile t fun T => { T with vregs := FM.set T.vregs i { FM.get VVal.zero T.vregs i with p := true } })
  | 3 => if 64 ≤ i then s else entry 2 (s.updTile t fun T => { T with mregs := FM.set T.mregs i { FM.get MVal.zero T.mregs i with p := true } })
  | 4 => if 64 ≤ i then s else entry 3 (s.updTile t fun T => { T with accs := FM.set T.accs i { T.accOf i with p := true } })
  | 5 =>
    if 128 ≤ i ∨ i % 32 = 0 then s
    else entry 0 (s.updCc t (i / 32) fun x => { x with regs := FM.set x.regs (i % 32) { FM.get RegV.zero x.regs (i % 32) with p := true } })
  | 6 => if 32 ≤ i then s else entry 1 (s.updTile t fun T => { T with aregs := FM.set T.aregs i { FM.get RegV.zero T.aregs i with p := true } })
  | 7 => entry 1 (s.updTile t fun T => { T with queues := T.queues.map fun (q : Nat × Queue) =>
      if q.1 = i then (q.1, { q.2 with ents := q.2.ents.map fun x => { x with data := x.data.map fun d => { d with p := true } } }) else q })
  | 8 => s.updCol c fun C => { C with lines := C.lines.map fun l => if l.key = i then { l with p := true } else l }
  | 9 => entry 1 (s.updTile t fun T => { T with l1 := T.l1.map fun l => if l.key = i then { l with p := true } else l })
  | 10 => { s with pois := setAdd s.pois (csBase (s.tile t).ctx c 0 / 64 + i % 2 ^ 19) }
  | _ => s

def execSramUncorrectableError (t holder idx : Nat) (s : State) : Out :=
  if 176 ≤ t then finish s else finish (s.sramError t holder idx)

/-- A correctable error of unit `u` is corrected, and counted in the log as transient: its entry has that
verdict (16 R430; log entry 32). -/
def execSramCorrectableError (t u : Nat) (s : State) : Out :=
  if 176 ≤ t ∨ 20 ≤ u ∨ (9 ≤ u ∧ u < 16) then finish s
  else finish (s.logError t (logWord 0x37 (originOf t (unitEngine u)) (unitPart u) 2 0 1 0))

end Sys2Proof.Machine
end

