-- ==== Sys2Proof/Machine/Dispatch.lean ====
section
/-! DEFINITION. Sys2Proof/Machine/Dispatch.lean: which meaning each instruction has, one arm per constructor of Instr. -/

namespace Sys2Proof.Machine

/-- What executing `i` does: one direct call of its meaning. -/
def exec (i : Instr) (s : State) : Host.Outcome State Fault Refusal :=
  match i with
  | .imx h ext => Sys2Proof.Machine.execImx h ext s
  | .scp h scope order => Sys2Proof.Machine.execScp h scope order s
  | .pmt h sink clear => Sys2Proof.Machine.execPmt h sink clear s
  | .nop h => Sys2Proof.Machine.execNop h s
  | .add h d a b => Sys2Proof.Machine.execAdd h d a b s
  | .sub h d a b => Sys2Proof.Machine.execSub h d a b s
  | .mul h d a b => Sys2Proof.Machine.execMul h d a b s
  | .mulh h d a b x => Sys2Proof.Machine.execMulh h d a b x s
  | .div h d a b x => Sys2Proof.Machine.execDiv h d a b x s
  | .rem h d a b x => Sys2Proof.Machine.execRem h d a b x s
  | .and h d a b => Sys2Proof.Machine.execAnd h d a b s
  | .or h d a b => Sys2Proof.Machine.execOr h d a b s
  | .xor h d a b => Sys2Proof.Machine.execXor h d a b s
  | .andn h d a b => Sys2Proof.Machine.execAndn h d a b s
  | .shl h d a b => Sys2Proof.Machine.execShl h d a b s
  | .shr h d a b x => Sys2Proof.Machine.execShr h d a b x s
  | .rot h d a b => Sys2Proof.Machine.execRot h d a b s
  | .min h d a b x => Sys2Proof.Machine.execMin h d a b x s
  | .max h d a b x => Sys2Proof.Machine.execMax h d a b x s
  | .clz h d a => Sys2Proof.Machine.execClz h d a s
  | .ctz h d a => Sys2Proof.Machine.execCtz h d a s
  | .popc h d a => Sys2Proof.Machine.execPopc h d a s
  | .addi h d a imm => Sys2Proof.Machine.execAddi h d a imm s
  | .muli h d a imm => Sys2Proof.Machine.execMuli h d a imm s
  | .andi h d a imm => Sys2Proof.Machine.execAndi h d a imm s
  | .ori h d a imm => Sys2Proof.Machine.execOri h d a imm s
  | .xori h d a imm => Sys2Proof.Machine.execXori h d a imm s
  | .shli h d a n => Sys2Proof.Machine.execShli h d a n s
  | .shri h d a n arith => Sys2Proof.Machine.execShri h d a n arith s
  | .li h d imm => Sys2Proof.Machine.execLi h d imm s
  | .sext h d a n => Sys2Proof.Machine.execSext h d a n s
  | .ext h d a pos width => Sys2Proof.Machine.execExt h d a pos width s
  | .exts h d a pos width => Sys2Proof.Machine.execExts h d a pos width s
  | .ins h d a pos width => Sys2Proof.Machine.execIns h d a pos width s
  | .fsh h d a b n => Sys2Proof.Machine.execFsh h d a b n s
  | .cmp h d a b cond => Sys2Proof.Machine.execCmp h d a b cond s
  | .seqi h d a imm => Sys2Proof.Machine.execSeqi h d a imm s
  | .slti h d a imm => Sys2Proof.Machine.execSlti h d a imm s
  | .sltui h d a imm => Sys2Proof.Machine.execSltui h d a imm s
  | .sel h d a b c => Sys2Proof.Machine.execSel h d a b c s
  | .b h cond a off => Sys2Proof.Machine.execB h cond a off s
  | .jmp h a imm => Sys2Proof.Machine.execJmp h a imm s
  | .call h off => Sys2Proof.Machine.execCall h off s
  | .callr h d a imm => Sys2Proof.Machine.execCallr h d a imm s
  | .ret h => Sys2Proof.Machine.execRet h s
  | .loop h a off => Sys2Proof.Machine.execLoop h a off s
  | .crng h d a b => Sys2Proof.Machine.execCrng h d a b s
  | .fork h eng routine cnt => Sys2Proof.Machine.execFork h eng routine cnt s
  | .ringp h d a eng => Sys2Proof.Machine.execRingp h d a eng s
  | .ringp2 h d a b eng => Sys2Proof.Machine.execRingp2 h d a b eng s
  | .ringq h d eng => Sys2Proof.Machine.execRingq h d eng s
  | .semset h n v => Sys2Proof.Machine.execSemset h n v s
  | .semrd h n d => Sys2Proof.Machine.execSemrd h n d s
  | .tokrd h prod cons d => Sys2Proof.Machine.execTokrd h prod cons d s
  | .bhmap h slot n => Sys2Proof.Machine.execBhmap h slot n s
  | .mtwr h level field a => Sys2Proof.Machine.execMtwr h level field a s
  | .sysrd h d reg => Sys2Proof.Machine.execSysrd h d reg s
  | .syswr h a reg => Sys2Proof.Machine.execSyswr h a reg s
  | .done h => Sys2Proof.Machine.execDone h s
  | .hend h => Sys2Proof.Machine.execHend h s
  | .synrd h d cfg kind col foreign idx => Sys2Proof.Machine.execSynrd h d cfg kind col foreign idx s
  | .scrub h kind col foreign idx rst => Sys2Proof.Machine.execScrub h kind col foreign idx rst s
  | .poison h kind col foreign idx cause => Sys2Proof.Machine.execPoison h kind col foreign idx cause s
  | .binitTile h slot target => Sys2Proof.Machine.execBinitTile h slot target s
  | .binitCol h slot target => Sys2Proof.Machine.execBinitCol h slot target s
  | .binitDev h slot target home => Sys2Proof.Machine.execBinitDev h slot target home s
  | .cwpost h n a => Sys2Proof.Machine.execCwpost h n a s
  | .ctlFence h => Sys2Proof.Machine.execCtlFence h s
  | .bsflush h col foreign first count => Sys2Proof.Machine.execBsflush h col foreign first count s
  | .bsinv h col foreign first count => Sys2Proof.Machine.execBsinv h col foreign first count s
  | .bspset h d n => Sys2Proof.Machine.execBspset h d n s
  | .launch h sheaf cwen cw => Sys2Proof.Machine.execLaunch h sheaf cwen cw s
  | .preemptStop h col row => Sys2Proof.Machine.execPreemptStop h col row s
  | .preemptResume h col row => Sys2Proof.Machine.execPreemptResume h col row s
  | .snaprd h d n row col => Sys2Proof.Machine.execSnaprd h d n row col s
  | .snapwr h a n row col => Sys2Proof.Machine.execSnapwr h a n row col s
  | .ctxsave h col row full => Sys2Proof.Machine.execCtxsave h col row full s
  | .ctxrest h col row => Sys2Proof.Machine.execCtxrest h col row s
  | .ctxscrub h => Sys2Proof.Machine.execCtxscrub h s
  | .ctxkill h cause => Sys2Proof.Machine.execCtxkill h cause s
  | .tld h d a b => Sys2Proof.Machine.execTld h d a b s
  | .trde h d a b x => Sys2Proof.Machine.execTrde h d a b x s
  | .tmap h d a b => Sys2Proof.Machine.execTmap h d a b s
  | .tunmap h d a st ret => Sys2Proof.Machine.execTunmap h d a st ret s
  | .tshd h d a b sys inv => Sys2Proof.Machine.execTshd h d a b sys inv s
  | .tprb h d a => Sys2Proof.Machine.execTprb h d a s
  | .trap h v code => Sys2Proof.Machine.execTrap h v code s
  | .tret h => Sys2Proof.Machine.execTret h s
  | .tspill h f l off => Sys2Proof.Machine.execTspill h f l off s
  | .tfill h f l off => Sys2Proof.Machine.execTfill h f l off s
  | .stest h d eng part => Sys2Proof.Machine.execStest h d eng part s
  | .errrd h d idx hi => Sys2Proof.Machine.execErrrd h d idx hi s
  | .errrdSt h d clr => Sys2Proof.Machine.execErrrdSt h d clr s
  | .ldq h q c index scale disp => Sys2Proof.Machine.execLdq h q c index scale disp s
  | .ldqs h q c ab astr len rows disp => Sys2Proof.Machine.execLdqs h q c ab astr len rows disp s
  | .ldqg h q c cl al ab len rows => Sys2Proof.Machine.execLdqg h q c cl al ab len rows s
  | .stq h q c index scale disp => Sys2Proof.Machine.execStq h q c index scale disp s
  | .stqs h q c ab astr len rows disp => Sys2Proof.Machine.execStqs h q c ab astr len rows disp s
  | .stqg h q c cl al ab len rows => Sys2Proof.Machine.execStqg h q c cl al ab len rows s
  | .ldb h d a imm => Sys2Proof.Machine.execLdb h d a imm s
  | .ldh h d a imm => Sys2Proof.Machine.execLdh h d a imm s
  | .ldw h d a imm => Sys2Proof.Machine.execLdw h d a imm s
  | .ldd h d a imm => Sys2Proof.Machine.execLdd h d a imm s
  | .stb h d a imm => Sys2Proof.Machine.execStb h d a imm s
  | .sth h d a imm => Sys2Proof.Machine.execSth h d a imm s
  | .stw h d a imm => Sys2Proof.Machine.execStw h d a imm s
  | .std h d a imm => Sys2Proof.Machine.execStd h d a imm s
  | .cld h d a imm => Sys2Proof.Machine.execCld h d a imm s
  | .cst h d a imm => Sys2Proof.Machine.execCst h d a imm s
  | .cder h d a b => Sys2Proof.Machine.execCder h d a b s
  | .cderLen h d a b => Sys2Proof.Machine.execCderLen h d a b s
  | .cperm h d a mask => Sys2Proof.Machine.execCperm h d a mask s
  | .cget h d a f => Sys2Proof.Machine.execCget h d a f s
  | .ctest h d a b need => Sys2Proof.Machine.execCtest h d a b need s
  | .aadd h d a b => Sys2Proof.Machine.execAadd h d a b s
  | .asub h d a b => Sys2Proof.Machine.execAsub h d a b s
  | .aaddi h d a imm => Sys2Proof.Machine.execAaddi h d a imm s
  | .amuli h d a imm => Sys2Proof.Machine.execAmuli h d a imm s
  | .ashli h d a n => Sys2Proof.Machine.execAshli h d a n s
  | .aandi h d a imm => Sys2Proof.Machine.execAandi h d a imm s
  | .ali h d imm => Sys2Proof.Machine.execAli h d imm s
  | .rdset h eng a => Sys2Proof.Machine.execRdset h eng a s
  | .rdget h eng d => Sys2Proof.Machine.execRdget h eng d s
  | .mark h => Sys2Proof.Machine.execMark h s
  | .amoadd h d a b w => Sys2Proof.Machine.execAmoadd h d a b w s
  | .amofadd h d a b w => Sys2Proof.Machine.execAmofadd h d a b w s
  | .amomin h d a b w u => Sys2Proof.Machine.execAmomin h d a b w u s
  | .amomax h d a b w u => Sys2Proof.Machine.execAmomax h d a b w u s
  | .amoand h d a b w => Sys2Proof.Machine.execAmoand h d a b w s
  | .amoor h d a b w => Sys2Proof.Machine.execAmoor h d a b w s
  | .amoxor h d a b w => Sys2Proof.Machine.execAmoxor h d a b w s
  | .amoswp h d a b w => Sys2Proof.Machine.execAmoswp h d a b w s
  | .amocas h d a b w => Sys2Proof.Machine.execAmocas h d a b w s
  | .mwait h d a b k => Sys2Proof.Machine.execMwait h d a b k s
  | .putr h cs cd so dof ln sen sem => Sys2Proof.Machine.execPutr h cs cd so dof ln sen sem s
  | .puth h cs cd so dof ln ha arg => Sys2Proof.Machine.execPuth h cs cd so dof ln ha arg s
  | .rred h cs cd so dof cnt op ty sen sem => Sys2Proof.Machine.execRred h cs cd so dof cnt op ty sen sem s
  | .dqpush h dq v st col foreign => Sys2Proof.Machine.execDqpush h dq v st col foreign s
  | .dqpop h dq v st col foreign => Sys2Proof.Machine.execDqpop h dq v st col foreign s
  | .dqsteal h dq v st col foreign => Sys2Proof.Machine.execDqsteal h dq v st col foreign s
  | .l1inv h c index scale disp => Sys2Proof.Machine.execL1inv h c index scale disp s
  | .l1inva h => Sys2Proof.Machine.execL1inva h s
  | .pref h q c index scale disp => Sys2Proof.Machine.execPref h q c index scale disp s
  | .qdrop h q n => Sys2Proof.Machine.execQdrop h q n s
  | .qrd h d q => Sys2Proof.Machine.execQrd h d q s
  | .accFence h => Sys2Proof.Machine.execAccFence h s
  | .vadd h d a b ty rnd sat => Sys2Proof.Machine.execVadd h d a b ty rnd sat s
  | .vsub h d a b ty rnd sat => Sys2Proof.Machine.execVsub h d a b ty rnd sat s
  | .vmul h d a b ty rnd sat => Sys2Proof.Machine.execVmul h d a b ty rnd sat s
  | .vfma h d a b ty rnd sat => Sys2Proof.Machine.execVfma h d a b ty rnd sat s
  | .vfms h d a b ty rnd sat => Sys2Proof.Machine.execVfms h d a b ty rnd sat s
  | .vdiv h d a b ty rnd sat => Sys2Proof.Machine.execVdiv h d a b ty rnd sat s
  | .vmin h d a b ty => Sys2Proof.Machine.execVmin h d a b ty s
  | .vmax h d a b ty => Sys2Proof.Machine.execVmax h d a b ty s
  | .vabs h d a ty => Sys2Proof.Machine.execVabs h d a ty s
  | .vneg h d a ty => Sys2Proof.Machine.execVneg h d a ty s
  | .vsqrt h d a ty rnd sat => Sys2Proof.Machine.execVsqrt h d a ty rnd sat s
  | .vrsq h d a ty rnd sat => Sys2Proof.Machine.execVrsq h d a ty rnd sat s
  | .vrcp h d a ty rnd sat => Sys2Proof.Machine.execVrcp h d a ty rnd sat s
  | .vexp h d a ty => Sys2Proof.Machine.execVexp h d a ty s
  | .vexp2 h d a ty => Sys2Proof.Machine.execVexp2 h d a ty s
  | .vlog h d a ty => Sys2Proof.Machine.execVlog h d a ty s
  | .vlog2 h d a ty => Sys2Proof.Machine.execVlog2 h d a ty s
  | .vtanh h d a ty => Sys2Proof.Machine.execVtanh h d a ty s
  | .vsigm h d a ty => Sys2Proof.Machine.execVsigm h d a ty s
  | .vgelu h d a ty => Sys2Proof.Machine.execVgelu h d a ty s
  | .vsilu h d a ty => Sys2Proof.Machine.execVsilu h d a ty s
  | .vsin h d a ty => Sys2Proof.Machine.execVsin h d a ty s
  | .vcos h d a ty => Sys2Proof.Machine.execVcos h d a ty s
  | .verf h d a ty => Sys2Proof.Machine.execVerf h d a ty s
  | .viadd h d a b ty sat => Sys2Proof.Machine.execViadd h d a b ty sat s
  | .visub h d a b ty sat => Sys2Proof.Machine.execVisub h d a b ty sat s
  | .vimul h d a b ty sat => Sys2Proof.Machine.execVimul h d a b ty sat s
  | .vimulh h d a b ty => Sys2Proof.Machine.execVimulh h d a b ty s
  | .vimad h d a b ty sat => Sys2Proof.Machine.execVimad h d a b ty sat s
  | .viabs h d a ty sat => Sys2Proof.Machine.execViabs h d a ty sat s
  | .vimin h d a b ty => Sys2Proof.Machine.execVimin h d a b ty s
  | .vimax h d a b ty => Sys2Proof.Machine.execVimax h d a b ty s
  | .vand h d a b => Sys2Proof.Machine.execVand h d a b s
  | .vor h d a b => Sys2Proof.Machine.execVor h d a b s
  | .vxor h d a b => Sys2Proof.Machine.execVxor h d a b s
  | .vandn h d a b => Sys2Proof.Machine.execVandn h d a b s
  | .vshl h d a b ty => Sys2Proof.Machine.execVshl h d a b ty s
  | .vshr h d a b ty arith => Sys2Proof.Machine.execVshr h d a b ty arith s
  | .vshli h d a n ty => Sys2Proof.Machine.execVshli h d a n ty s
  | .vshri h d a n ty arith => Sys2Proof.Machine.execVshri h d a n ty arith s
  | .vext h d a b sg => Sys2Proof.Machine.execVext h d a b sg s
  | .vins h d a b => Sys2Proof.Machine.execVins h d a b s
  | .vfsh h d a b n => Sys2Proof.Machine.execVfsh h d a b n s
  | .vpopc h d a => Sys2Proof.Machine.execVpopc h d a s
  | .vclz h d a => Sys2Proof.Machine.execVclz h d a s
  | .vcvt h d a dt ty rnd sat => Sys2Proof.Machine.execVcvt h d a dt ty rnd sat s
  | .vpack h d a b ty hs => Sys2Proof.Machine.execVpack h d a b ty hs s
  | .vunpk h d a sl ty => Sys2Proof.Machine.execVunpk h d a sl ty s
  | .vqnt h d a b ty => Sys2Proof.Machine.execVqnt h d a b ty s
  | .vdqnt h d a b ty => Sys2Proof.Machine.execVdqnt h d a b ty s
  | .vcmp h d a b ty cond => Sys2Proof.Machine.execVcmp h d a b ty cond s
  | .vcmpi h d a cond imm => Sys2Proof.Machine.execVcmpi h d a cond imm s
  | .vsel h d a b n => Sys2Proof.Machine.execVsel h d a b n s
  | .vclamp h d a b ty => Sys2Proof.Machine.execVclamp h d a b ty s
  | .mand h d a b => Sys2Proof.Machine.execMand h d a b s
  | .mor h d a b => Sys2Proof.Machine.execMor h d a b s
  | .mxor h d a b => Sys2Proof.Machine.execMxor h d a b s
  | .mnot h d a => Sys2Proof.Machine.execMnot h d a s
  | .mpopc h d a => Sys2Proof.Machine.execMpopc h d a s
  | .mset h d rs n => Sys2Proof.Machine.execMset h d rs n s
  | .vmov h d a => Sys2Proof.Machine.execVmov h d a s
  | .vsplat h d imm => Sys2Proof.Machine.execVsplat h d imm s
  | .vbcr h d a n => Sys2Proof.Machine.execVbcr h d a n s
  | .vbcc h d a n => Sys2Proof.Machine.execVbcc h d a n s
  | .vrotr h d a n => Sys2Proof.Machine.execVrotr h d a n s
  | .vrotc h d a n => Sys2Proof.Machine.execVrotc h d a n s
  | .vperm h d a b => Sys2Proof.Machine.execVperm h d a b s
  | .vlut h d a b => Sys2Proof.Machine.execVlut h d a b s
  | .vredr h d a op ty rnd sat => Sys2Proof.Machine.execVredr h d a op ty rnd sat s
  | .vredc h d a op ty rnd sat => Sys2Proof.Machine.execVredc h d a op ty rnd sat s
  | .vscan h d a op axis ty rnd sat => Sys2Proof.Machine.execVscan h d a op axis ty rnd sat s
  | .vtrn h d a => Sys2Proof.Machine.execVtrn h d a s
  | .vmovfa h d a q => Sys2Proof.Machine.execVmovfa h d a q s
  | .vmovta h d a q => Sys2Proof.Machine.execVmovta h d a q s
  | .vrotset h n m => Sys2Proof.Machine.execVrotset h n m s
  | .vloop h cnt off => Sys2Proof.Machine.execVloop h cnt off s
  | .expmax h d a new => Sys2Proof.Machine.execExpmax h d a new s
  | .expnrm h d a b => Sys2Proof.Machine.execExpnrm h d a b s
  | .vwelu h d a => Sys2Proof.Machine.execVwelu h d a s
  | .vwelm h d a => Sys2Proof.Machine.execVwelm h d a s
  | .conft h d a thr => Sys2Proof.Machine.execConft h d a thr s
  | .vrng h d a b => Sys2Proof.Machine.execVrng h d a b s
  | .vidx h d => Sys2Proof.Machine.execVidx h d s
  | .vargmx h d a ty => Sys2Proof.Machine.execVargmx h d a ty s
  | .mtov h d a => Sys2Proof.Machine.execMtov h d a s
  | .vtom h d a => Sys2Proof.Machine.execVtom h d a s
  | .mgo h ra rb fa fb acc kel aoff boff => Sys2Proof.Machine.execMgo h ra rb fa fb acc kel aoff boff s
  | .mgos h ra rb fa fb acc kel aoff boff => Sys2Proof.Machine.execMgos h ra rb fa fb acc kel aoff boff s
  | .mtstart h d n => Sys2Proof.Machine.execMtstart h d n s
  | .mtend h => Sys2Proof.Machine.execMtend h s
  | .mtsel h rs => Sys2Proof.Machine.execMtsel h rs s
  | .mtselLq h d => Sys2Proof.Machine.execMtselLq h d s
  | .mtrd h sel q => Sys2Proof.Machine.execMtrd h sel q s
  | .mringSet h k nslots base => Sys2Proof.Machine.execMringSet h k nslots base s
  | .mringAdv h k n => Sys2Proof.Machine.execMringAdv h k n s
  | .mspmeta h k mode metabase => Sys2Proof.Machine.execMspmeta h k mode metabase s
  | .mtzero h d n => Sys2Proof.Machine.execMtzero h d n s
  | .maccld h d a n => Sys2Proof.Machine.execMaccld h d a n s
  | .maccst h d a n => Sys2Proof.Machine.execMaccst h d a n s
  | .maccadd h d a b ty rnd sat => Sys2Proof.Machine.execMaccadd h d a b ty rnd sat s
  | .mscale h d a f => Sys2Proof.Machine.execMscale h d a f s
  | .mcvt h d a n ty rnd sat => Sys2Proof.Machine.execMcvt h d a n ty rnd sat s
  | .mflag h d mask => Sys2Proof.Machine.execMflag h d mask s
  | .mrstat h d clr => Sys2Proof.Machine.execMrstat h d clr s
  | .xcfg h a depth qexp enc n => Sys2Proof.Machine.execXcfg h a depth qexp enc n s
  | .xmask h a n rg => Sys2Proof.Machine.execXmask h a n rg s
  | .xgrp h g first nk nn => Sys2Proof.Machine.execXgrp h g first nk nn s
  | .xringSet h k out nslots base => Sys2Proof.Machine.execXringSet h k out nslots base s
  | .xringAdv h k out n => Sys2Proof.Machine.execXringAdv h k out n s
  | .xringVmask h base => Sys2Proof.Machine.execXringVmask h base s
  | .xmvm h g inp o inoff outoff nvec route vm => Sys2Proof.Machine.execXmvm h g inp o inoff outoff nvec route vm s
  | .xmvma h g inp o inoff outoff nvec route vm => Sys2Proof.Machine.execXmvma h g inp o inoff outoff nvec route vm s
  | .xclip h a clr off => Sys2Proof.Machine.execXclip h a clr off s
  | .xstat h a off => Sys2Proof.Machine.execXstat h a off s
  | .xcsum h a off => Sys2Proof.Machine.execXcsum h a off s
  | .xpriv h a n => Sys2Proof.Machine.execXpriv h a n s
  | .xprivRel h a n => Sys2Proof.Machine.execXprivRel h a n s
  | .xprogSet h a g amp sel => Sys2Proof.Machine.execXprogSet h a g amp sel s
  | .xprogRst h a g amp sel => Sys2Proof.Machine.execXprogRst h a g amp sel s
  | .xvfy h a g ng rep => Sys2Proof.Machine.execXvfy h a g ng rep s
  | .xsteep h a g ng p rm rep => Sys2Proof.Machine.execXsteep h a g ng p rm rep s
  | .xremap h a col => Sys2Proof.Machine.execXremap h a col s
  | .xrefMeas h a => Sys2Proof.Machine.execXrefMeas h a s
  | .xrefBase h a => Sys2Proof.Machine.execXrefBase h a s
  | .xrefProg h a => Sys2Proof.Machine.execXrefProg h a s
  | .xdrift h a n k clr => Sys2Proof.Machine.execXdrift h a n k clr s
  | .xcal h a => Sys2Proof.Machine.execXcal h a s
  | .xoffw h a src => Sys2Proof.Machine.execXoffw h a src s
  | .xgainw h a src => Sys2Proof.Machine.execXgainw h a src s
  | .xcert h a dth lk ebank => Sys2Proof.Machine.execXcert h a dth lk ebank s
  | .xcrd h a dst => Sys2Proof.Machine.execXcrd h a dst s
  | .xcld h a src => Sys2Proof.Machine.execXcld h a src s
  | .xfallOff h a n setptr ptr => Sys2Proof.Machine.execXfallOff h a n setptr ptr s
  | .xfallMan h a n setptr ptr => Sys2Proof.Machine.execXfallMan h a n setptr ptr s
  | .xfallAuto h a n setptr ptr => Sys2Proof.Machine.execXfallAuto h a n setptr ptr s
  | .xaudit h a n rate setptr ptr => Sys2Proof.Machine.execXaudit h a n rate setptr ptr s
  | .xrd h a g ng phys dst => Sys2Proof.Machine.execXrd h a g ng phys dst s
  | .xerase h a => Sys2Proof.Machine.execXerase h a s
  | .xeraseRt h a => Sys2Proof.Machine.execXeraseRt h a s
  | .cpy h rec desc => Sys2Proof.Machine.execCpy h rec desc s
  | .cpys h rec desc => Sys2Proof.Machine.execCpys h rec desc s
  | .cpyg h rec desc => Sys2Proof.Machine.execCpyg h rec desc s
  | .cpygSct h rec desc => Sys2Proof.Machine.execCpygSct h rec desc s
  | .cpyt h rec desc => Sys2Proof.Machine.execCpyt h rec desc s
  | .cpyx h rec desc => Sys2Proof.Machine.execCpyx h rec desc s
  | .fill h rec desc => Sys2Proof.Machine.execFill h rec desc s
  | .sbar h mask => Sys2Proof.Machine.execSbar h mask s
  | .pfch h rec desc => Sys2Proof.Machine.execPfch h rec desc s
  | .chksum h rec desc => Sys2Proof.Machine.execChksum h rec desc s
  | .crec h base => Sys2Proof.Machine.execCrec h base s
  | .cstat h rec dst => Sys2Proof.Machine.execCstat h rec dst s
  | .cdrain h => Sys2Proof.Machine.execCdrain h s
  | .nmuld h rec src slot n => Sys2Proof.Machine.execNmuld h rec src slot n s
  | .nmustat h rec dst ch => Sys2Proof.Machine.execNmustat h rec dst ch s
  | .kvgWait h rec desc => Sys2Proof.Machine.execKvgWait h rec desc s
  | .kvgMask h rec desc => Sys2Proof.Machine.execKvgMask h rec desc s
  | .kvout h rec desc => Sys2Proof.Machine.execKvout h rec desc s
  | .kvin h rec desc => Sys2Proof.Machine.execKvin h rec desc s
  | .kvst h rec desc => Sys2Proof.Machine.execKvst h rec desc s
  | .bfq h rec desc img => Sys2Proof.Machine.execBfq h rec desc img s
  | .bfctlLoad h rec desc => Sys2Proof.Machine.execBfctlLoad h rec desc s
  | .bfctlStat h rec dst => Sys2Proof.Machine.execBfctlStat h rec dst s
  | .bfctlDrain h rec => Sys2Proof.Machine.execBfctlDrain h rec s
  | .bfctlPause h rec => Sys2Proof.Machine.execBfctlPause h rec s
  | .bfctlRun h rec => Sys2Proof.Machine.execBfctlRun h rec s
  | .nadd d a b rnd sat ty => Sys2Proof.Machine.execNadd d a b rnd sat ty s
  | .nsub d a b rnd sat ty => Sys2Proof.Machine.execNsub d a b rnd sat ty s
  | .nmul d a b rnd sat ty => Sys2Proof.Machine.execNmul d a b rnd sat ty s
  | .nfma d a b rnd sat ty => Sys2Proof.Machine.execNfma d a b rnd sat ty s
  | .nmin d a b rnd sat ty => Sys2Proof.Machine.execNmin d a b rnd sat ty s
  | .nmax d a b rnd sat ty => Sys2Proof.Machine.execNmax d a b rnd sat ty s
  | .nabs d a rnd sat ty => Sys2Proof.Machine.execNabs d a rnd sat ty s
  | .nneg d a rnd sat ty => Sys2Proof.Machine.execNneg d a rnd sat ty s
  | .ncmpeq d a b rnd sat ty => Sys2Proof.Machine.execNcmpeq d a b rnd sat ty s
  | .ncmplt d a b rnd sat ty => Sys2Proof.Machine.execNcmplt d a b rnd sat ty s
  | .ncmple d a b rnd sat ty => Sys2Proof.Machine.execNcmple d a b rnd sat ty s
  | .nsel d a b m => Sys2Proof.Machine.execNsel d a b m s
  | .nand d a b => Sys2Proof.Machine.execNand d a b s
  | .nor d a b => Sys2Proof.Machine.execNor d a b s
  | .nxor d a b => Sys2Proof.Machine.execNxor d a b s
  | .nshl d a n => Sys2Proof.Machine.execNshl d a n s
  | .nshr d a n arith => Sys2Proof.Machine.execNshr d a n arith s
  | .ncvt d a p sfrom rnd sat sto => Sys2Proof.Machine.execNcvt d a p sfrom rnd sat sto s
  | .nbcst d a n => Sys2Proof.Machine.execNbcst d a n s
  | .nli d imm => Sys2Proof.Machine.execNli d imm s
  | .nlih d imm => Sys2Proof.Machine.execNlih d imm s
  | .nmov d a => Sys2Proof.Machine.execNmov d a s
  | .nrsum d a rnd sat ty => Sys2Proof.Machine.execNrsum d a rnd sat ty s
  | .nrmin d a rnd sat ty => Sys2Proof.Machine.execNrmin d a rnd sat ty s
  | .nrmax d a rnd sat ty => Sys2Proof.Machine.execNrmax d a rnd sat ty s
  | .nld d st => Sys2Proof.Machine.execNld d st s
  | .nst a sz => Sys2Proof.Machine.execNst a sz s
  | .nldp d => Sys2Proof.Machine.execNldp d s
  | .nskip n => Sys2Proof.Machine.execNskip n s
  | .nloop1 len cnt => Sys2Proof.Machine.execNloop1 len cnt s
  | .nloop2 len cnt => Sys2Proof.Machine.execNloop2 len cnt s
  | .nend => Sys2Proof.Machine.execNend s
  | .nnop => Sys2Proof.Machine.execNnop s
  | .nrcp d a rnd sat ty => Sys2Proof.Machine.execNrcp d a rnd sat ty s
  | .nclamp d a b rnd sat ty => Sys2Proof.Machine.execNclamp d a b rnd sat ty s
  | .nscl d a b rnd sat ty => Sys2Proof.Machine.execNscl d a b rnd sat ty s
  | .nramax d a rnd sat ty => Sys2Proof.Machine.execNramax d a rnd sat ty s
  | .ncmpne d a b rnd sat ty => Sys2Proof.Machine.execNcmpne d a b rnd sat ty s
  | .nandn d a b => Sys2Proof.Machine.execNandn d a b s
  | .nshuf d a b => Sys2Proof.Machine.execNshuf d a b s
  | .engineFaultDelivery t => Sys2Proof.Machine.execEngineFaultDelivery t s
  | .efltRst t e => Sys2Proof.Machine.execEfltRst t e s
  | .efltSkip t e => Sys2Proof.Machine.execEfltSkip t e s
  | .pendingWriteLands id => Sys2Proof.Machine.execPendingWriteLands id s
  | .tokenPushTakesEffect t q => Sys2Proof.Machine.execTokenPushTakesEffect t q s
  | .handlerStart t => Sys2Proof.Machine.execHandlerStart t s
  | .putDelivery id => Sys2Proof.Machine.execPutDelivery id s
  | .puthRetry id => Sys2Proof.Machine.execPuthRetry id s
  | .homeArrival id => Sys2Proof.Machine.execHomeArrival id s
  | .homeUpdate id => Sys2Proof.Machine.execHomeUpdate id s
  | .monitorWake t v => Sys2Proof.Machine.execMonitorWake t v s
  | .mwaitTimeout t => Sys2Proof.Machine.execMwaitTimeout t s
  | .monitorRetry t => Sys2Proof.Machine.execMonitorRetry t s
  | .matrixStep t => Sys2Proof.Machine.execMatrixStep t s
  | .arrayWorkStart t k => Sys2Proof.Machine.execArrayWorkStart t k s
  | .vectorRowsLand t k => Sys2Proof.Machine.execVectorRowsLand t k s
  | .digitalRouteStep t k => Sys2Proof.Machine.execDigitalRouteStep t k s
  | .audit t k => Sys2Proof.Machine.execAudit t k s
  | .auditOverdue t => Sys2Proof.Machine.execAuditOverdue t s
  | .automaticMeasurement t a => Sys2Proof.Machine.execAutomaticMeasurement t a s
  | .copyUnit t k => Sys2Proof.Machine.execCopyUnit t k s
  | .nmuRun ch => Sys2Proof.Machine.execNmuRun ch s
  | .nmuParityAbort ch => Sys2Proof.Machine.execNmuParityAbort ch s
  | .backfillBatch c => Sys2Proof.Machine.execBackfillBatch c s
  | .backfillLayerComplete c => Sys2Proof.Machine.execBackfillLayerComplete c s
  | .checkerMismatch t u fails => Sys2Proof.Machine.execCheckerMismatch t u fails s
  | .selfTestVerdict t u fail => Sys2Proof.Machine.execSelfTestVerdict t u fail s
  | .sramUncorrectableError t holder idx => Sys2Proof.Machine.execSramUncorrectableError t holder idx s
  | .cimUncorrectableFetch t ctx => Sys2Proof.Machine.execCimUncorrectableFetch t ctx s
  | .hbmUncorrectableRead pa => Sys2Proof.Machine.execHbmUncorrectableRead pa s
  | .faultRecordWrite => Sys2Proof.Machine.execFaultRecordWrite s
  | .launchAcceptance id => Sys2Proof.Machine.execLaunchAcceptance id s
  | .submissionEntryRead => Sys2Proof.Machine.execSubmissionEntryRead s
  | .bindingDecision => Sys2Proof.Machine.execBindingDecision s
  | .priorityPromotion l k => Sys2Proof.Machine.execPriorityPromotion l k s
  | .taskBind id => Sys2Proof.Machine.execTaskBind id s
  | .nodeCompletion l k => Sys2Proof.Machine.execNodeCompletion l k s
  | .doneCompletion t => Sys2Proof.Machine.execDoneCompletion t s
  | .stallWireFall c holder => Sys2Proof.Machine.execStallWireFall c holder s
  | .replay c n => Sys2Proof.Machine.execReplay c n s
  | .refill c v => Sys2Proof.Machine.execRefill c v s
  | .sqdb v => Sys2Proof.Machine.execSqdb v s
  | .registerWrite off v => Sys2Proof.Machine.execRegisterWrite off v s
  | .createContext => Sys2Proof.Machine.execCreateContext s
  | .tearDownContext => Sys2Proof.Machine.execTearDownContext s
  | .loadMatterKeySlot => Sys2Proof.Machine.execLoadMatterKeySlot s
  | .clearMatterKeySlot => Sys2Proof.Machine.execClearMatterKeySlot s
  | .loadObject => Sys2Proof.Machine.execLoadObject s
  | .fillReservePool => Sys2Proof.Machine.execFillReservePool s
  | .clearQuarantine => Sys2Proof.Machine.execClearQuarantine s
  | .movePageHome => Sys2Proof.Machine.execMovePageHome s
  | .attestationQuote => Sys2Proof.Machine.execAttestationQuote s
  | .mboxUnknownOpcode => Sys2Proof.Machine.execMboxUnknownOpcode s
  | .coldReset => Sys2Proof.Machine.execColdReset s
  | .warmReset => Sys2Proof.Machine.execWarmReset s
  | .functionReady f => Sys2Proof.Machine.execFunctionReady f s
  | .repairReapplied c => Sys2Proof.Machine.execRepairReapplied c s
  | .flitCrcFailure c sh wire id => Sys2Proof.Machine.execFlitCrcFailure c sh wire id s
  | .wireFailureDeclared c sh wire => Sys2Proof.Machine.execWireFailureDeclared c sh wire s
  | .softRepair c => Sys2Proof.Machine.execSoftRepair c s
  | .bankStoreSpareSwitch c way isCol bad => Sys2Proof.Machine.execBankStoreSpareSwitch c way isCol bad s
  | .hbmTemperatureRead temps => Sys2Proof.Machine.execHbmTemperatureRead temps s
  | .refreshBurst ch => Sys2Proof.Machine.execRefreshBurst ch s
  | .governorMeasurement watts => Sys2Proof.Machine.execGovernorMeasurement watts s
  | .governorThrottlePeriod c up => Sys2Proof.Machine.execGovernorThrottlePeriod c up s
  | .thermalStopBinding => Sys2Proof.Machine.execThermalStopBinding s
  | .thermalPowerOff => Sys2Proof.Machine.execThermalPowerOff s
  | .peerFlitCrcFailure p => Sys2Proof.Machine.execPeerFlitCrcFailure p s
  | .peerShootdownTimeout p => Sys2Proof.Machine.execPeerShootdownTimeout p s
  | .peerReduceReceive p pa op ty vals => Sys2Proof.Machine.execPeerReduceReceive p pa op ty vals s
  | .wordNotAnInstruction w => Sys2Proof.Machine.execWordNotAnInstruction w s
  | .fetchBeyondCimImage t ctx => Sys2Proof.Machine.execFetchBeyondCimImage t ctx s
  | .accessResponse id => Sys2Proof.Machine.execAccessResponse id s
  | .inboundMemoryAccess pa bytes => Sys2Proof.Machine.execInboundMemoryAccess pa bytes s
  | .peerShootdownRequest p ctx base len inv => Sys2Proof.Machine.execPeerShootdownRequest p ctx base len inv s
  | .peerShootdownAcknowledgement p => Sys2Proof.Machine.execPeerShootdownAcknowledgement p s
  | .imageStream t => Sys2Proof.Machine.execImageStream t s
  | .calibrationWordComplete t k => Sys2Proof.Machine.execCalibrationWordComplete t k s
  | .sramCorrectableError t u => Sys2Proof.Machine.execSramCorrectableError t u s

end Sys2Proof.Machine
end

