-- ==== Sys2Proof/Machine/Sched.lean ====
section
/-! DEFINITION. Sys2Proof/Machine/Sched.lean: what happens when (log entry 4). A tick advances the clocks by one tc and lists the work
of that tc in its order (11 R306): what lands, the work of units, columns and the device, and then the issue chances of the tiles. Each
later step takes one entry of the list. Where the spec gives no time, whether the work has its turn in a tc is a free choice. Here also
the fetch of the control core, of the rings and of a near-memory run (02 R28, R29; 04 R94, R95, R113; 10 R290). -/

namespace Sys2Proof.Machine

/-- A free choice of a tick, numbered within it (log entry 2). -/
def State.chance (s : State) (n : Nat) : Bool := Config.freeNat (s.free + n) % 2 == 1

/-- Numbers of choices that a tick sets aside. -/
def choices : Nat := 2 ^ 18

/-- The rank of an operation of the control core on an object: port A before port B (04 R94; 11 R306). -/
def portRank (c : Nat) : Nat := if c = 0 then 3 else 4

/-- The turn of something in flight within its tc: writes first, a vector word's tile after the matrix engine's
(07 R218); then what reaches objects, the control core's ports and then the engines in rising order, arrivals at
a receive unit, arrivals from a column synchronisation engine (11 R306); then the rest. -/
def Fl.rank : Fl → Nat
  | .sysw .. => 0
  | .bhmap .. => 0
  | .eflt .. => 0
  | .tile _ _ vec _ _ _ => if vec then 2 else 1
  | .semset _ c _ _ => portRank c
  | .binit _ c _ _ _ _ => portRank c
  | .poison _ c _ _ _ => portRank c
  | .scrub _ c _ _ _ => portRank c
  | .signal _ e _ c _ => if e = 0 then portRank c else 4 + e
  | .hend _ c _ => portRank c
  | .mdone .. => 7
  | .mclose .. => 7
  | .put p => if p.written then 5 else 10
  | .access a => if a.stage = 0 then 11 else 5
  | .home .. => 12
  | .update .. => 12
  | .remote _ c r _ => if r.op = 0 then portRank c else 13
  | .launch .. => 14
  | .bind .. => 15
  | _ => 1

/-- The columns whose bank stores a page at `va` of space `sp`, or a range of a capability, may lie in. -/
def State.storeOf (s : State) (t sp unit va : Nat) (xs : List (Nat × Phys)) : List Nat :=
  if sp = 1 then [unit] else if sp = 2 then ((s.physFor (s.tile t).ctx (tileCol t) 2 va xs).map fun p => p.home).toList else []
def State.storesOf (s : State) (t : Nat) (c : CReg) : List Nat :=
  if capSpace c.v = 1 then [capUnit c.v t]
  else if capSpace c.v = 2 then (s.col (tileCol t)).entries.filterMap fun (e : Nat × Cap) =>
    if entValid e.2 && entCtx e.2 == (s.tile t).ctx && entKind e.2 == 0 && entHits e.2 (capBase c.v) (capLen c.v) then some (entHome e.2) else none
  else []

/-- The bank store of one of the columns `cs` is held for a repair (17 R440), and tile `t` stands in another
column. -/
def State.storeHeld (s : State) (t : Nat) (cs : List Nat) : Bool := cs.any fun c => c != tileCol t && (s.col c).holders.contains 1

/-- A request from another column waits in the device fabric while its bank store is held for a repair (17 R440). -/
def State.underRepair (s : State) (f : Flight) : Bool :=
  match f.fl with
  | .access a => a.stage == 0 && s.storeHeld a.t (a.keys.flatMap fun k => s.storeOf a.t a.space a.unit k.1 a.phys)
  | .remote t _ r vs =>
    if r.op = 0x3C then decide (4 < vs.length) && s.storeHeld t [(physOfNums (vs.drop 4)).home]
    else if r.op = 0x51 ∨ r.op = 0x52 then
      let x := Spill.of (r.op == 0x52) vs
      s.storeHeld t (x.regs.flatMap fun v => s.storeOf t x.sp x.unit (x.a + 8 * v.1) x.xs)
    else false
  | _ => false

/-- An access held at a not-present-stall entry has no turn until a replay releases it (15 R403). -/
def State.accHeld (s : State) (f : Flight) : Bool :=
  match f.fl with
  | .access a => (s.col (tileCol a.t)).held.any fun h => h.what == .acc a.t (f.id + 1)
  | _ => false

/-- A flight whose time has come. A bind that waits for a replay has none. -/
def State.flightDue (s : State) (f : Flight) : Bool :=
  (match f.clk with
   | .dev => decide (f.due ≤ s.tc)
   | .tile t => s.tileRuns t && decide (f.due ≤ (s.tile t).clk)) &&
  (match f.fl with
   | .bind _ _ _ _ waits => !waits
   | _ => true) && !s.underRepair f && !s.accHeld f

/-- For how many tc a flight has been due. -/
def State.lateness (s : State) (f : Flight) : Nat :=
  match f.clk with
  | .dev => s.tc - f.due
  | .tile t => (s.tile t).clk - f.due
def State.insertLate (s : State) (f : Flight) : List Flight → List Flight
  | [] => [f]
  | g :: gs => if s.lateness g < s.lateness f then f :: g :: gs else g :: s.insertLate f gs

/-- Due flights of the ranks `lo` to `hi`, rank by rank: those that have waited longest first (17 R440), else in
the order of issue. -/
def State.flightTurns (s : State) (lo hi : Nat) : List Turn :=
  let due := (s.flights.filter s.flightDue).foldl (fun l f => s.insertLate f l) []
  (List.range (hi + 1 - lo)).flatMap fun r => (due.filter fun f => f.fl.rank == lo + r).map fun f => .lands f.id

/-- The access, command or word `w` is held in column `c`. -/
def State.isHeld (s : State) (c : Nat) (w : HeldWhat) : Bool := (s.col c).held.any fun h => h.what == w

/-- Array time of the array run `a` to `a + n - 1` may start for entry `k` (08 R233; 09 R252). -/
def Tile.arraysFree (T : Tile) (u k a n : Nat) : Bool :=
  (List.range n).all fun i => !T.arrayBusy u (a + i) && !T.arrayAwaited k (a + i)

/-- A word without array time over some of `n` arrays from `a` has not yet taken effect (09 R251, R252): what
follows it in the ring starts after it. XCRD has taken what it records. -/
def State.tableSet (s : State) (t a n : Nat) : Bool := s.flights.any fun f =>
  match f.fl with
  | .calEffect u op vs =>
    let m := if op = 0x10 ∨ op = 0x17 ∨ op = 0x18 then vs.getD 1 0 else 1
    u == t && decide (0xE ≤ op) && op != 0x15 && decide (vs.getD 0 0 < a + n) && decide (a < vs.getD 0 0 + m)
  | _ => false

/-- The array work of entry `k` may start now; what was planned for a tc is looked at again when its turn comes,
after the work that ends in the tc and the reference measurements that start in it (08 R233; 09 R252, R264). -/
def State.mayStart (s : State) (t k : Nat) : Bool :=
  let T := s.tile t
  match FM.find? T.xcmds k with
  | some c => c.started.isNone && T.arraysFree s.tc k c.first (c.nk * c.nn) && !s.tableSet t c.first (c.nk * c.nn)
  | none =>
    match FM.find? T.xcal k with
    | some w => w.started.isNone && T.arraysFree s.tc k w.array 1 && !s.tableSet t w.array 1
    | none => false

/-- A due reference measurement of an array may start, or the one in progress has run its time (09 R262, R264). -/
def State.mayMeasure (s : State) (t a : Nat) : Bool :=
  let T := s.tile t
  match List.find? (fun (w : Nat × CalW) => w.2.op == calAuto && w.2.array == a) T.xcal with
  | some w => w.2.started.any fun s0 => decide (s0 + 3600 ≤ s.tc)
  | none => (T.array a).k != 0 && decide ((T.array a).nextMeas ≤ T.mclk) && !T.arrayBusy s.tc a

def State.stands (s : State) (i : Instr) : Bool :=
  match i with
  | .arrayWorkStart t k => s.mayStart t k
  | .automaticMeasurement t a => s.mayMeasure t a
  | _ => true

/-- A unit of engine `e` is under test. -/
def Tile.tested (T : Tile) (e : Nat) : Bool := T.testing.any fun u => unitEngine u.1 == e && u.1 != 6

/-- A freeze (16 R431) holds engine `e`; in the control core it holds context `c` alone, the one whose result is
being computed again. -/
def State.frozen (s : State) (t e c : Nat) : Bool :=
  (s.tile t).tested e && (e != 0 || (FM.find? (s.tile t).testing 0).any fun v => (s.pendingS t).contains (v.2.2, c))

/-- A tc of a freeze passes for what it holds: the time that was left is left still. -/
def State.freezeFlight (s : State) (f : Flight) : Flight :=
  match f.clk, f.fl.issuer? with
  | .tile u, some (t, e, c) => if s.tileRuns u && s.frozen t e c then { f with due := f.due + 1 } else f
  | _, _ => f
def State.freezeTile (s : State) (t : Nat) : Tile :=
  let T := s.tile t
  if T.testing.isEmpty || !s.tileRuns t then T
  else { T with
    ctxs := T.ctxs.map fun (x : Nat × CtlCtx) => (x.1, if s.frozen t 0 x.1 then { x.2 with
      nextAt := x.2.nextAt + 1, fetched := x.2.fetched.map fun w => (w.1, w.2.1 + 1, w.2.2) } else x.2)
    divA := if s.frozen t 0 0 then T.divA + 1 else T.divA
    eng := T.eng.map fun (x : Nat × Eng) => (x.1, if x.1 ≠ 0 ∧ T.tested x.1 then { x.2 with nextAt := x.2.nextAt + 1 } else x.2)
    lastPipe := if T.tested 2 then T.lastPipe.map (· + 1) else T.lastPipe
    streams := if T.tested 2 then T.streams.map fun v => { v with at' := v.at' + 1 } else T.streams
    mcmd := if T.tested 3 then T.mcmd.map fun m => { m with startAt := m.startAt + 1 } else T.mcmd
    xcmds := if T.tested 4 then T.xcmds.map fun (c : Nat × XCmd) => (c.1, { c.2 with from' := c.2.from' + 1 }) else T.xcmds
    ccmds := if T.tested 5 then T.ccmds.map fun (c : Nat × CCmd) => (c.1, if c.2.phase = 3 then c.2 else { c.2 with at' := c.2.at' + 1 }) else T.ccmds }

/-- The matrix engine has a step slot that no command of its own uses (08 R242, R245): under the stall wire,
each (08 R235). -/
def State.slotFree (s : State) (t : Nat) : Bool :=
  let T := s.tile t
  if s.tileRuns t then decide (T.clk % 4 = 0) && T.mcmd.isNone && decide ((T.engine 3).nextAt ≤ T.clk) else decide (s.tc % 4 = 0)

/-- Its ring is empty, or its next command is held by a wait. -/
def State.slotFreeForAudit (s : State) (t : Nat) : Bool :=
  s.slotFree t && (!s.tileRuns t || ((s.tile t).ring 3).occ == 0 || ((s.tile t).engine 3).waitFrom.isSome)

/-- The digital step slot that a crossbar command takes in this tc (08 R242). -/
noncomputable def State.digitalTurn (s : State) (t : Nat) : List Turn :=
  let T := s.tile t
  if !s.tileWorks t || !s.slotFree t || T.tested 3 then [] else (((List.zip (List.range T.xcmds.length) T.xcmds).find? fun c =>
    c.2.2.started.isSome && c.2.2.hasDigital && decide (c.2.2.landed < c.2.2.vs.length) && !s.isHeld (tileCol t) (.xbar t c.2.1) &&
      s.chance (64 * t + c.1)).map fun c => Turn.event (.digitalRouteStep t c.2.1)).toList

/-- The starts of array work of the ring's commands, in frame tcs (08 R233; 09 R252). -/
noncomputable def State.startTurns (s : State) (t : Nat) : List Turn :=
  let T := s.tile t
  if !s.tileRuns t || s.tc % 18 != 0 || T.tested 4 then [] else
    ((T.xcmds.filter fun c => c.2.started.isNone && decide (c.2.from' ≤ T.clk)).map fun c => Turn.event (.arrayWorkStart t c.1)) ++
    ((T.xcal.filter fun w => w.2.started.isNone && decide (w.2.from' ≤ T.clk)).map fun w => Turn.event (.arrayWorkStart t w.1))

/-- The array work of the crossbar engine whose turn it is, but the starts of its commands: automatic
measurements in frame tcs, rows that land, digital step slots, audits, and the ends of units of array time. -/
noncomputable def State.xbarTurns (s : State) (t : Nat) : List Turn :=
  let T := s.tile t
  let works := s.tileWorks t
  let frame := decide (s.tc % 18 = 0)
  let wire := !(s.col (tileCol t)).holders.isEmpty
  let xs := List.zip (List.range T.xcmds.length) T.xcmds
  let ws := List.zip (List.range T.xcal.length) T.xcal
  let autos := if !frame || wire then [] else (T.arrays.filter fun a =>
    decide (a.2.k ≠ 0) && decide (a.2.nextMeas ≤ T.mclk)).map fun a => Turn.event (.automaticMeasurement t a.1)
  let ends := ws.flatMap fun w =>
    match w.2.2.started with
    | some s0 =>
      if w.2.2.op = calAuto then (if s0 + 3600 ≤ s.tc then [Turn.event (.automaticMeasurement t w.2.2.array)] else [])
      else if w.2.2.op < calAuto ∧ !w.2.2.fit ∧ s0 + (18 * w.2.2.cc + 4) / 5 ≤ s.tc then [Turn.event (.calibrationWordComplete t w.2.1)]
      else []
    | none => []
  let rows := if !works || T.tested 4 then [] else (T.xcmds.filter fun c =>
    match c.2.started with
    | some (s0, l0) =>
      if c.2.landed < c.2.vs.length then !c.2.hasDigital && decide (vecEnd s0 (c.2.landed - l0) + 6 ≤ s.tc) else c.2.audits.isEmpty && c.2.held.isNone
    | none => false).map fun c => Turn.event (.vectorRowsLand t c.1)
  let digital := s.digitalTurn t
  let audits := if !works || !s.slotFreeForAudit t || T.tested 3 || digital ≠ [] then [] else ((xs.find? fun c =>
    c.2.2.started.isSome && decide (c.2.2.landed = c.2.2.vs.length) && !c.2.2.audits.isEmpty && !s.isHeld (tileCol t) (.xbar t c.2.1) &&
      s.chance (64 * t + 8 + c.1)).map fun c => Turn.event (.audit t c.2.1)).toList
  let fits := if !works || !s.slotFreeForAudit t || T.tested 3 || digital ≠ [] || audits ≠ [] then [] else ((ws.find? fun w =>
    w.2.2.started.isSome && w.2.2.fit && decide (w.2.2.op < calAuto) && s.chance (2 ^ 17 + 2 ^ 13 + 256 * t + w.1)).map
      fun w => Turn.event (.calibrationWordComplete t w.2.1)).toList
  let overdue := match T.auditOverdue s.tc with
    | some k => if works && T.mcmd.isNone && !s.isHeld (tileCol t) (.xbar t k) then [Turn.event (.auditOverdue t)] else []
    | none => []
  ends ++ rows ++ digital ++ audits ++ fits ++ overdue ++ autos

/-- Copy commands whose turn it is: signals and records on their tc, units of work by free choice (10 R281),
unless a bank store that they may reach is held for a repair (17 R440). Under the stall wire a command in flight
goes on (20 R466); a status record, which is a pending write, stands with the tile's clock. -/
noncomputable def State.copyTurns (s : State) (t : Nat) : List Turn :=
  let T := s.tile t
  if !s.tileWorks t || T.tested 5 then []
  else (T.ccmds.filter fun c => match c.2.phase with
    | 3 => false
    | 0 => !c.2.stuck && !s.isHeld (tileCol t) (.copy t c.1) && !s.storeHeld t (c.2.caps.flatMap (s.storesOf t)) && s.chance (64 * t + 32 + c.1)
    | _ => decide (c.2.at' ≤ T.clk) || (!s.tileRuns t && c.2.op != 0xB && c.2.op != 0xE)).map fun c => .event (.copyUnit t c.1)

/-- The start of a handler, with what the tc before left (04 R125). -/
noncomputable def State.handlerTurns (s : State) (t : Nat) : List Turn :=
  let T := s.tile t
  if s.tileRuns t && !T.hq.isEmpty && T.freeHandler.isSome && (FM.find? T.testing 6).isNone then [.event (.handlerStart t)] else []

/-- The work of a tile's units that follows arrivals: the matrix step, MWAIT, the streaming of the image, the
end of the task, self-tests. -/
noncomputable def State.unitTurns (s : State) (t : Nat) : List Turn :=
  let T := s.tile t
  let on (b : Bool) (i : Instr) : List Turn := if b then [.event i] else []
  let runs := s.tileRuns t
  let mwait := match (T.engine 1).hold with
    | .mwait _ _ _ _ _ _ true (some d) _ _ _ => on (runs && decide (d ≤ T.clk)) (.mwaitTimeout t)
    | .mwait _ _ _ _ _ _ false _ n _ _ => on (runs && decide (n ≠ 0) && decide (n ≤ s.tc)) (.monitorRetry t)
    | _ => []
  on (runs && (T.mcmd.any fun m => decide (m.startAt ≤ T.clk)) && !T.tested 3) (.matrixStep t) ++ mwait ++
    on (!T.incoming.isEmpty && T.bound && s.chance (64 * t + 16)) (.imageStream t) ++
    on (runs && s.doneReady t) (.doneCompletion t) ++
    ((T.testing.filter fun u => decide (4 ≤ u.2.1) && (decide (u.2.2.1 ≤ s.tc) || s.chance (2 ^ 16 + 64 * t + u.1))).map
      fun u => .event (.selfTestVerdict t u.1 0))

/-- A batch's audits have waited 16,384 tc (08 R245; 13 R360): the matrix engine of its tile then starts no
command. -/
def State.batchOverdue (s : State) (t : Nat) : Bool :=
  (s.col (tileCol t)).batch.any fun b => b.tile == t && !b.audits.isEmpty && b.vals != [] && decide (b.auditFrom + 16384 ≤ s.tc)

/-- The present batch of column `c` may take a step: its digital work and its audits take step slots of the
matrix engine (08 R242, R245). -/
noncomputable def State.batchMay (s : State) (c : Nat) (b : Batch) : Bool :=
  let T := s.tile b.tile
  if 0 < b.slots then s.slotFree b.tile && !T.tested 3 && (s.digitalTurn b.tile).isEmpty && s.chance (2 ^ 15 + 8 * c)
  else if b.vals != [] && !b.audits.isEmpty then
    if s.batchOverdue b.tile then T.mcmd.isNone
    else s.slotFreeForAudit b.tile && !T.tested 3 && (s.digitalTurn b.tile).isEmpty && s.chance (2 ^ 15 + 8 * c)
  else s.chance (2 ^ 15 + 8 * c)

/-- The starts of batches in a frame tc (13 R355): those that are boosted or of priority 3, ahead of waiting
ring commands, or the others. -/
noncomputable def State.batchTurns (s : State) (urgent : Bool) (c : Nat) : List Turn :=
  let C := s.col c
  let ms := C.nextBatch
  if s.tc % 18 != 0 || s.isHeld c .backfill || s.colDisabled c || C.batch.isSome || ms.isEmpty ||
      (ms.any fun q => q.boosted || q.prio == 3) != urgent || !(urgent || s.chance (2 ^ 15 + 8 * c + 1)) then []
  else [.event (.backfillBatch c)]

/-- The work of a column: the backfill engine, evictions, the repair of wires, the governor's periods, the stall
wire. -/
noncomputable def State.colTurns (s : State) (c : Nat) : List Turn :=
  let C := s.col c
  let on (b : Bool) (i : Instr) : List Turn := if b then [.event i] else []
  let n := 2 ^ 15 + 8 * c
  let late := s.repairEnds c
  on (!s.isHeld c .backfill && !s.colDisabled c && C.batch.any (s.batchMay c)) (.backfillLayerComplete c) ++
    (if C.lines.isEmpty then [] else [.evict c]) ++
    on (!C.failedWires.isEmpty && (late || (!s.flitsOut c && s.chance (n + 2)))) (.softRepair c) ++
    on (C.holders.contains 1 && (late || (C.failedWires.isEmpty && s.chance (n + 3)))) (.stallWireFall c 1) ++
    on (s.sys.throttled / 2 ^ c % 2 == 1 && s.tc % 3600 == 0) (.governorThrottlePeriod c 1) ++
    on (C.holders.contains 2 && (decide (1799 ≤ s.tc % 3600) || (s.tc % 3600 != 0 && s.chance (n + 4)))) (.governorThrottlePeriod c 0) ++
    on (C.holders.contains 0 && !C.heldState) (.stallWireFall c 0)

/-- The posted request of the mailbox (18 R455). -/
noncomputable def State.mboxEvent (s : State) : Instr :=
  match s.sys.mboxOp with
  | 1 => .createContext
  | 2 => .tearDownContext
  | 3 => .loadMatterKeySlot
  | 4 => .clearMatterKeySlot
  | 5 => .loadObject
  | 6 => match s.sys.body 0 with
    | 1 => .fillReservePool
    | 2 => .clearQuarantine
    | 3 => .movePageHome
    | _ => .mboxUnknownOpcode
  | 7 => .attestationQuote
  | _ => .mboxUnknownOpcode

/-- The work of the host interface, the dispatcher, the memory ends and the peer ports. -/
noncomputable def State.devTurns (s : State) : List Turn :=
  let y := s.sys
  let on (b : Bool) (i : Instr) : List Turn := if b then [.event i] else []
  let n := 2 ^ 17
  let nodes := s.launches.flatMap fun l => (List.zip (List.range l.nodes.length) l.nodes).flatMap fun k =>
    on (!k.2.complete && decide (((s.sheafOf l).node k.1).points ≤ k.2.finished)) (.nodeCompletion l.id k.1) ++
      on (decide (1024 ≤ k.2.pass)) (.priorityPromotion l.id k.1)
  let runs := s.nmus.flatMap fun u =>
    match u.2.test with
    | some (t, d) => on (decide (d ≤ s.tc) || s.chance (n + 16 + u.1)) (.selfTestVerdict t (64 + u.1) 0)
    | none => match u.2.run with
    | some r => if r.ended then on (s.chance (n + 16 + u.1)) (.nmuRun u.1) else if s.tc % 3 = 0 then [] else [.nmu u.1]
    | none => on (!u.2.queue.isEmpty && s.chance (n + 16 + u.1)) (.nmuRun u.1)
  runs ++ on (!y.fqWait.isEmpty && y.fqSpace) .faultRecordWrite ++ on (y.mboxGo && y.readyMp && s.chance n) s.mboxEvent ++
    (if y.booting && s.chance (n + 3) then [.boot] else []) ++
    on (y.readyHost && y.alive && decide (y.sqHead ≠ y.sqTail) && s.chance (n + 1)) .submissionEntryRead ++ nodes ++
    on (s.chance (n + 2)) .bindingDecision ++
    (y.peerReqs.map fun r => .event (.peerShootdownRequest (r.getD 0 0) (r.getD 1 0) (r.getD 2 0) (r.getD 3 0) (r.getD 4 0))) ++
    (((List.range 256).filter fun ch => y.readyHbm / 2 ^ (ch / 32) % 2 == 1 && decide (FM.get 0 y.bursts ch ≤ s.tc)).map
      fun ch => .event (.refreshBurst ch))

/-- There is a word for engine `e`. -/
def State.engineFed (s : State) (t e : Nat) : Bool :=
  let x := (s.tile t).engine e
  !x.stop && x.hold == .none && (((s.tile t).ring e).occ != 0 || x.routine.isSome || !x.again.isEmpty)

/-- What comes before the issue chances of a tile: the chances of engines whose word may only send poison (11
R306), and of context 0 where an engine fault was there to deliver as the tc began (16 R424). -/
def State.firstTurns (s : State) (t : Nat) : List Turn :=
  let T := s.tile t
  (([1, 2, 3, 4, 5].filter fun e => s.engineFed t e).map fun e => .early t e) ++
    (if T.pendingFault.isSome && s.takesFaults t then [.faultA t] else [])

/-- The agenda of the present tc. -/
noncomputable def State.plan (s : State) : List Turn :=
  let ts := s.tiles.map fun t => t.1
  let on := ts.filter s.tileRuns
  ts.flatMap s.handlerTurns ++ s.flightTurns 0 9 ++ ts.flatMap s.xbarTurns ++ (List.range 16).flatMap (s.batchTurns true) ++
    ts.flatMap s.startTurns ++ (List.range 16).flatMap (s.batchTurns false) ++ ts.flatMap s.copyTurns ++ s.flightTurns 10 15 ++
    ts.flatMap s.unitTurns ++ (List.range 16).flatMap s.colTurns ++ s.devTurns ++ on.flatMap s.firstTurns ++ on.flatMap s.tileRound

/-- The clocks of a tile in a tick: its own stands while it does not run (14 R381, R393), that of its
measurements while the column's stall wire is up (09 R262). What a freeze holds stands too. -/
def State.tickTile (s : State) (t : Nat) : Tile :=
  let T := s.freezeTile t
  { T with
    clk := if s.tileRuns t then T.clk + 1 else T.clk
    mclk := if (s.col (tileCol t)).holders.isEmpty then T.mclk + 1 else T.mclk }

/-- One tc passes. -/
noncomputable def State.tick (s : State) : State :=
  let s := { s with
    tc := s.tc + 1, cur := .none, flights := s.flights.map s.freezeFlight
    tiles := s.tiles.map fun (t : Nat × Tile) => (t.1, s.tickTile t.1) }
  { s with turns := s.plan, free := s.free + choices }

/-- A part of the image that holds the address has not arrived (14 R380). -/
def Tile.awaits (T : Tile) (a : Nat) : Bool := T.incoming.any fun i => decide (i.addr ≤ a) && decide (a < i.addr + i.len)

/-- Context `c` fetches and issues in this tc (04 R94): it runs, and nothing holds it. -/
def State.ctlReady (s : State) (t c : Nat) : Bool :=
  let T := s.tile t
  let x := T.cc c
  s.tileRuns t && x.run == .running && decide (x.nextAt ≤ T.clk) && x.rmt.isNone && T.hold0.isNone &&
    !(T.pushes.any fun p => p.stream == c) && !s.isHeld (tileCol t) (.ctl t c) && !s.frozen t 0 c && !T.awaits (cimBase t + 8 * x.pc)

/-- What the control core gives a word of context `c` at decode. -/
def State.ctlEnv (s : State) (t c : Nat) : DecEnv :=
  let l := (s.cc t c).latch
  ⟨.ctl, s.ctlSup t c, c != 0, l.imx, l.scp, l.pmt⟩

/-- Runs what a stream's decoder gives, or takes the fault of decode. -/
noncomputable def State.runDecoded (s : State) (r : Except Nat Instr) : Out :=
  match r with
  | .ok i => exec i s
  | .error cause => finish (s.decodeCause cause)

/-- Fetch, decode and execution for a context of the control core (04 R95; 16 R434; 02 R29). -/
noncomputable def State.ctlRun (s : State) (t c : Nat) : Out :=
  if (s.tile t).cimLen ≤ (s.cc t c).pc then exec (.fetchBeyondCimImage t c) { s with cur := .ctl t c }
  else if (s.ctlFetch t c).2 then exec (.cimUncorrectableFetch t c) { s with cur := .ctl t c }
  else State.runDecoded { s.keepWord t c with cur := .ctl t c } (decode (s.ctlEnv t c) (s.ctlWord t c).toNat)

/-- The chance of a context of the control core. -/
noncomputable def State.ctlTurn (s : State) (t c : Nat) : Out := if !s.ctlReady t c then .next s else s.ctlRun t c

/-- Whether a context's word had effect, so that port B is taken. -/
def CtlCtx.moved (x y : CtlCtx) : Bool :=
  x.pc != y.pc || x.latch != y.latch || x.nextAt != y.nextAt || x.tlvl != y.tlvl || x.run != y.run

/-- The chance of context 0 while an engine fault is there to deliver (16 R424): a trap of its own word is
taken, and the fault stays pending; else the fault is taken, before the word issues. One that has arisen in this
tc does not abandon a word that is held. -/
noncomputable def State.faultTurn (s : State) (t : Nat) (held : Bool) : Out :=
  match s.ctlTurn t 0 with
  | .next u =>
    if (u.cc t 0).tlvl ≠ 0 ∨ !(u.tile t).bound ∨ !(held || (s.cc t 0).moved (u.cc t 0)) then .next u else exec (.engineFaultDelivery t) s
  | o => o

noncomputable def State.portATurn (s : State) (t : Nat) : Out :=
  if (s.tile t).pendingFault.isSome && s.takesFaults t then s.faultTurn t false else s.ctlTurn t 0

/-- The chance of handler context `c` at port B (04 R94): passed over where the port is taken in this tc. A word
that is held does not take the port. -/
noncomputable def State.portBTurn (s : State) (t c : Nat) : Out :=
  let T := s.tile t
  if T.rr / 4 = T.clk + 1 then .next s
  else match s.ctlTurn t c with
    | .next u =>
      if (s.cc t c).moved (u.cc t c) && (u.tile t).bound then .next (u.updTile t fun U => { U with rr := 4 * (T.clk + 1) + c })
      else .next u
    | o => o

/-- Ring-fed engine `e` may take its next word (02 R32, R49; 04 R113): engines 4 and 5 keep issuing while a push
of theirs waits. -/
def State.ringReady (s : State) (t e : Nat) : Bool :=
  let T := s.tile t
  let x := T.engine e
  s.tileRuns t && !x.stop && decide (x.nextAt ≤ T.clk) && !(e ≤ 3 && T.pushes.any fun p => p.stream == streamOf e 0) && !T.tested e &&
    !(e == 1 && s.isHeld (tileCol t) (.acc t 0)) && !(e == 4 && s.isHeld (tileCol t) (.xbar t 0)) &&
    !(e == 3 && ((T.auditOverdue s.tc).isSome || s.batchOverdue t))

/-- What a ring gives a word of engine `e` at decode (02 R29; log entry 15). -/
def State.ringEnv (s : State) (t e : Nat) : DecEnv :=
  let l := ((s.tile t).engine e).latch
  ⟨engineOf e, (s.tile t).sup, false, l.imx, l.scp, l.pmt⟩

/-- Fetch, decode and execution for a ring-fed engine. -/
noncomputable def State.ringWordTurn (s : State) (t e : Nat) : Out :=
  let s := s.reachFork t e
  match s.peek t e with
  | none => .next s
  | some w =>
    if (s.tile t).awaits (spBase t + ((s.tile t).ring e).base + 8 * w.off) then .next s
    else State.runDecoded { s with cur := .ring t e } (decode (s.ringEnv t e) w.w.toNat)

/-- A word of engine `e` that has issued and is held goes on, with the prefixes that it took (15 R403). -/
noncomputable def State.issuedTurn (s : State) (t e : Nat) : Out :=
  let x := (s.tile t).engine e
  match x.hold, x.group.getLast? with
  | .issued _ l, some w =>
    State.runDecoded { s with cur := .ring t e } (decode ⟨engineOf e, (s.tile t).sup, false, l.imx, l.scp, l.pmt⟩ w.w.toNat)
  | _, _ => .next s

/-- The chance of a ring-fed engine: its held word goes on, or its next word has its turn. -/
noncomputable def State.engineTurn (s : State) (t e : Nat) : Out :=
  if !s.ringReady t e then .next s
  else match ((s.tile t).engine e).hold with
    | .none => s.ringWordTurn t e
    | .mark sig scope order last => finish (s.markStep t sig scope order last)
    | .qdrop q n sig => finish (s.qdropStep t q n sig)
    | .rdset d v sig => finish (s.rdsetStep t d v sig)
    | .issued _ _ => s.issuedTurn t e
    | .mwait .. => .next s

/-- The early chance of engine `e` (11 R304, R306): a word that only sends poison as it issues, being stopped at
decode or in its checks, or skipped after a poisoned wait, has its turn before the waits of the tc are tested.
Any other waits for the engine's own turn. -/
noncomputable def State.earlyTurn (s : State) (t e : Nat) : Out :=
  match s.peek t e with
  | none => .next s
  | some w =>
    let x := (s.tile t).engine e
    let wait := w.w.toNat / 2 ^ 56
    let bad := match decode (s.ringEnv t e) w.w.toNat with
      | .ok _ => false
      | .error _ => true
    let poisoned := !x.waitDone && !(s.tile t).unmapped wait && match s.testWait t e wait with
      | .poisoned .. => true
      | _ => false
    if !s.ringReady t e || x.hold != .none then .next s
    else if bad || poisoned then s.engineTurn t e
    else if wait ≠ 0 ∧ !x.waitDone then .next s
    else match s.engineTurn t e with
      | .next u => if ((u.tile t).engine e).stop then .next u else .next s
      | o => o

/-- The next instruction of a near-memory run (10 R290). A program has passed its checks at NMULD (10 R292). -/
noncomputable def State.nmuTurn (s : State) (ch : Nat) : Out :=
  match (s.nmu ch).run with
  | none => .next s
  | some r =>
    if r.ended then .next s
    else match decodeNmu (r.prog.getD r.pc 0) with
      | .ok i => exec i { s with cur := .nmu ch }
      | .error _ => .next s

/-- The event by which a flight lands. -/
noncomputable def State.landEvent (s : State) (f : Flight) : Instr :=
  match f.fl with
  | .access _ => .accessResponse f.id
  | .put p => if s.putTaken p then .putDelivery f.id else .puthRetry f.id
  | .home _ _ what .. => if what < 7 then .homeArrival f.id else .homeUpdate f.id
  | .update .. => .homeUpdate f.id
  | .launch .. => .launchAcceptance f.id
  | .bind .. => .taskBind f.id
  | .eflt t e k => if k = 0 then .efltRst t e else .efltSkip t e
  | .remote _ _ r vs =>
    if r.op = 0x14D then .peerShootdownTimeout (((List.range 8).find? fun p => vs.getD 0 0 / 2 ^ p % 2 == 1).getD 0)
    else .pendingWriteLands f.id
  | _ => .pendingWriteLands f.id

noncomputable def State.landTurn (s : State) (id : Nat) : Out :=
  match s.flight? id with
  | none => .next s
  | some f => exec (s.landEvent f) s

/-- What a replay has released goes on, in its turn, though its column's wire may still be up (15 R403): a word
or access that meets a failure now takes it. -/
noncomputable def State.releasedTurn (s : State) (c : Nat) : HeldWhat → Out
  | .acc t 0 => s.issuedTurn t 1
  | .acc t (n + 1) => if (s.flight? n).any fun f => f.fl.tile? == some t then exec (.accessResponse n) s else .next s
  | .ctl t k => if (s.cc t k).waitDone then s.ctlRun t k else .next s
  | .copy t k => if s.tileWorks t then exec (.copyUnit t k) s else .next s
  | .xbar t 0 => s.issuedTurn t 4
  | .xbar t (k + 1) =>
    match FM.find? (s.tile t).xcmds (k + 1) with
    | some x => if !s.tileWorks t then .next s else if x.landed < x.vs.length then exec (.digitalRouteStep t (k + 1)) s else exec (.audit t (k + 1)) s
    | none => .next s
  | .backfill => exec (if (s.col c).batch.isSome then .backfillLayerComplete c else .backfillBatch c) s

/-- The turn of an entry of the agenda. -/
noncomputable def State.takeTurn (s : State) : Turn → Out
  | .portA t => s.portATurn t
  | .faultA t => if (s.tile t).pendingFault.isSome && s.takesFaults t then s.faultTurn t true else .next s
  | .early t e => s.earlyTurn t e
  | .portB t c => s.portBTurn t c
  | .engine t e => s.engineTurn t e
  | .nmu ch => s.nmuTurn ch
  | .lands id => s.landTurn id
  | .pushes t q => exec (.tokenPushTakesEffect t q) s
  | .mwake t v => exec (.monitorWake t v) s
  | .declare c sh w => exec (.wireFailureDeclared c sh w) s
  | .released c w => s.releasedTurn c w
  | .evict c => finish (s.mayEvict c)
  | .boot => finish (if s.sys.booting then s.bootStep else s)
  | .event i => if s.stands i then exec i s else .next s

/-- Events that come from outside the machine's own schedule: the host's accesses, peers, power and temperature
readings, failures of the hardware. -/
def isOutside (i : Instr) : Bool :=
  match i with
  | .sqdb _ => true
  | .registerWrite _ _ => true
  | .replay _ _ => true
  | .refill _ _ => true
  | .coldReset => true
  | .warmReset => true
  | .functionReady _ => true
  | .repairReapplied _ => true
  | .flitCrcFailure _ _ _ _ => true
  | .checkerMismatch _ _ _ => true
  | .selfTestVerdict _ _ _ => true
  | .sramUncorrectableError _ _ _ => true
  | .sramCorrectableError _ _ => true
  | .hbmUncorrectableRead _ => true
  | .nmuParityAbort _ => true
  | .bankStoreSpareSwitch _ _ _ _ => true
  | .hbmTemperatureRead _ => true
  | .governorMeasurement _ => true
  | .thermalStopBinding => true
  | .thermalPowerOff => true
  | .peerFlitCrcFailure _ => true
  | .peerReduceReceive _ _ _ _ _ => true
  | .inboundMemoryAccess _ _ => true
  | .peerShootdownRequest _ _ _ _ _ => true
  | .peerShootdownAcknowledgement _ => true
  | _ => false

/-- The first input whose time has come. -/
def State.dueInput (s : State) : Option (Nat × Instr) := s.inputs.find? fun p => decide (p.1 ≤ s.tc)

/-- One step: an unpowered device comes up by a cold reset (18 R456); an input that is due has its effect; else
the next entry of the agenda has its turn; with none left, one tc passes. -/
noncomputable def State.oneStep (s : State) : Out :=
  if !s.sys.powered then exec .coldReset { s with cur := .none }
  else match s.dueInput with
    | some p =>
      let s := { s with inputs := s.inputs.erase p, cur := .none }
      if isOutside p.2 then exec p.2 s else .next s
    | none => match s.turns with
      | [] => .next s.tick
      | u :: us => State.takeTurn { s with turns := us, cur := .none } u

/-- Nothing but the next entry of the agenda, `u`, comes next. -/
def State.atTurn (s : State) (u : Turn) : State :=
  { s with turns := [u], inputs := s.inputs.filter (fun p => !decide (p.1 ≤ s.tc)), sys := { s.sys with powered := true } }

/-- Tile 0 runs a task with supervisor privilege; its column is free (log entry 3). -/
def State.tile0Runs (s : State) : State :=
  (s.updCol 0 fun C => { C with holders := [], held := [] }).updTile 0 fun T => { T with
    bound := true, task := true, state := .running, sup := true, incoming := [], testing := [], pushes := [] }

/-- The word at the pc of context 0 of tile 0, whose turn is next. -/
def State.placeCtl (s : State) (w : Nat) : State :=
  let s := s.tile0Runs.updTile 0 fun T => { T with
    eng := T.eng.map fun (x : Nat × Eng) => (x.1, { x.2 with pend := false })
    cimLen := max 1 T.cimLen, cimOld := [], cimBad := T.cimBad.filter (fun k => k != 0), hold0 := none
    ctxs := FM.set T.ctxs 0 { T.cc 0 with run := .running, pc := 0, nextAt := 0, rmt := none, latch := .empty, waitDone := false, fetched := none } }
  ({ s with mem := memPut s.mem (cimBase 0) (natLe 8 w) }).atTurn (.portA 0)

/-- The word at the head of the ring of engine `e` of tile 0, a ring of 16 words at the start of the scratchpad,
whose turn is next. -/
def State.placeRing (s : State) (e w : Nat) : State :=
  let s := s.tile0Runs.updTile 0 fun T => { T with
    xcmds := [], rings := FM.set T.rings e ⟨0, 16, 0, 0, 1, [], []⟩, eng := FM.set T.eng e .idle }
  ({ s with mem := memPut s.mem (spBase 0) (natLe 8 w) }).atTurn (.engine 0 e)

/-- A near-memory run of one instruction at unit 0, with one line in each stream, whose turn is next. -/
def State.placeNmu (s : State) (w : Nat) : State :=
  let r : NmuRun := {
    tile := 0, slot := 0, unit := 0, prog := [w], pc := 0, loop1 := none, loop2 := none, regs := [], src := [(0, false)], inPos := 0,
    aux := [(0, false)], auxPos := 0, out := [], outLen := 64, param := 0, flags := 0, ended := false }
  (s.setNmu 0 { s.nmu 0 with run := some r }).atTurn (.nmu 0)

end Sys2Proof.Machine
end

