-- ==== Sys2Proof/Machine/Step.lean ====
section
/-! DEFINITION. Sys2Proof/Machine/Step.lean: one step of the machine, and the placing of a word where the next step runs it (log entries
3, 4). -/

namespace Sys2Proof.Machine

/-- One step. -/
noncomputable def step (s : State) : Host.Outcome State Fault Refusal := s.oneStep

/-- The state in which the next step fetches and runs the word `w` of `nbits` bits: 32 a near-memory
instruction; 64 a control-core word; 72 a word of the engine whose id stands in the ninth byte. -/
def State.withFetchWord (s : State) (nbits w : Nat) : State :=
  if nbits = 32 then s.placeNmu w
  else if nbits = 72 ∧ w / 2 ^ 64 % 8 ≠ 0 then s.placeRing (min (w / 2 ^ 64 % 8) 5) (w % 2 ^ 64)
  else s.placeCtl (w % 2 ^ 64)

end Sys2Proof.Machine
end

