-- ==== Sys2Proof/Safety.lean ====
section
/-! DEFINITION. Sys2Proof/Safety.lean: the terms in which the statements speak of a step: what stays as it was, when a word goes, and the
invariant of memory. -/

namespace Sys2Proof.Machine

/-- The memory is in canonical form: addresses strictly rising, no zero byte listed. -/
def State.Canonical (s : State) : Prop := Memory.wf s.mem = true

/-- Every byte reads as before, with its granule's poison and its location's tag. -/
def SameMemory (s u : State) : Prop :=
  ∀ a, memGet u.mem a = memGet s.mem a ∧ u.poisAt a = s.poisAt a ∧ u.tagAt a = s.tagAt a

/-- Every byte outside the `n` bytes from `a` reads as before. -/
def SameBytesBut (s u : State) (a n : Nat) : Prop := ∀ b, b < a ∨ a + n ≤ b → memGet u.mem b = memGet s.mem b

/-- Everything outside the tiles and memory is as before: columns, contexts, launches, near-memory units, host interface, the saved
tasks, the hardware's records of poisoned sectors, and time. -/
structure SameDevice (s u : State) : Prop where
  tc : u.tc = s.tc
  cols : u.cols = s.cols
  ctxs : u.ctxs = s.ctxs
  launches : u.launches = s.launches
  nmus : u.nmus = s.nmus
  sys : u.sys = s.sys
  saved : u.saved = s.saved
  parked : u.parked = s.parked
  sectors : u.sectors = s.sectors
  badPages : u.badPages = s.badPages

/-- No other tile changes. -/
def SameOthers (s u : State) (t : Nat) : Prop := ∀ v, v ≠ t → u.tile v = s.tile v

/-- The registers and trap registers of a control-core context, with its trap level, are as before. -/
structure SameRegs (x y : CtlCtx) : Prop where
  regs : y.regs = x.regs
  tlvl : y.tlvl = x.tlvl
  tcause : y.tcause = x.tcause
  tepc : y.tepc = x.tepc
  tval : y.tval = x.tval
  tstate : y.tstate = x.tstate

/-- A tile changed at most in its control-core contexts, in the objects that waits and signals act on, and in what these and its streams have
learned of stores to its CIM. -/
def TileButSync (T U : Tile) : Prop :=
  U = { T with ctxs := U.ctxs, sem := U.sem, tq := U.tq, pushes := U.pushes, bar := U.bar, bpend := U.bpend, know := U.know }

/-- The frame of a control-core word of context `c` of tile `t` that writes no more than the registers `ds`: memory, the device and every
other tile are as before, so are all registers and trap registers and the other contexts; of its tile nothing but control-core
contexts and the objects of waits and signals changes; what it adds in flight is writes to `ds` and its signal (04 R97). -/
structure CtlFrame (s u : State) (t c : Nat) (ds : List Nat) : Prop where
  memory : SameMemory s u
  device : SameDevice s u
  others : SameOthers s u t
  regs : ∀ d, SameRegs (s.cc t d) (u.cc t d)
  contexts : ∀ d, d ≠ c → u.cc t d = s.cc t d
  tile : TileButSync (s.tile t) (u.tile t)
  flights : ∃ fs, u.flights = s.flights ++ fs ∧
    ∀ f ∈ fs, (∃ d ∈ ds, ∃ v fl, f.fl = .sreg t c d v fl) ∨ ∃ sig, f.fl = .signal t 0 sig c none

/-- The frame of a control-core word of tile `t` whose effect is in flight or elsewhere: memory, the device, every other tile and every
s-register of the tile are as before, and of the tile nothing but control-core contexts and the objects of waits and signals changes. -/
structure CtlStays (s u : State) (t : Nat) : Prop where
  memory : SameMemory s u
  device : SameDevice s u
  others : SameOthers s u t
  regs : ∀ d, (u.cc t d).regs = (s.cc t d).regs
  tile : TileButSync (s.tile t) (u.tile t)

/-- The word of context `c` of tile `t` with header `h` is executed: its handles are mapped and its wait is satisfied, in the state `w`
with the wait's decrement or pop made (02 R32; 04 R119, R120). -/
structure CtlGoes (s : State) (t c : Nat) (h : Hdr) (w : State) : Prop where
  agent : s.cur = .ctl t c
  sound : s.bad = none
  waitMapped : (s.tile t).unmapped h.wait = false
  sigMapped : (s.tile t).unmapped h.sig = false
  passes : s.testWait t 0 h.wait = .pass w

/-- The word of ring-fed engine `e` of tile `t` with header `h` is executed: as for the control core; no earlier word holds the engine, and a
wait that was satisfied before a fault is not made again (16 R425). -/
structure RingGoes (s : State) (t e : Nat) (h : Hdr) (w : State) : Prop where
  agent : s.cur = .ring t e
  sound : s.bad = none
  waitMapped : (s.tile t).unmapped h.wait = false
  sigMapped : (s.tile t).unmapped h.sig = false
  idle : ((s.tile t).engine e).hold = .none
  passes : (if ((s.tile t).engine e).waitDone then WaitRes.pass s else s.testWait t e h.wait) = .pass w

/-- A near-memory run stands at an instruction. -/
structure NmuGoes (s : State) (ch : Nat) (r : NmuRun) : Prop where
  agent : s.cur = .nmu ch
  sound : s.bad = none
  run : (s.nmu ch).run = some r

/-- A control-core word has issued with the effect `f`, its signal `l` tc later: its context is past it (04 R94, R97). -/
def ctlDid (s w : State) (t c : Nat) (h : Hdr) (l : Nat) (f : State → State) : State :=
  ((f (w.observe t c h.wait)).signalIn t 0 c ((s.tile t).resolveSig h.sig) l none).ctlNext t c 1

/-- A control-core word has issued with the write of `v` to s[d] and its signal `l` tc later: its context is past it (04 R94, R97). -/
def ctlWrote (s w : State) (t c : Nat) (h : Hdr) (d l : Nat) (v : RegV) (flag : Nat) : State :=
  ctlDid s w t c h l fun u => u.putS t c d v l flag

/-- An access-core word has begun, with the write of `v` to a[d] and its signal `l` tc later (05 R127, R144). -/
def accWrote (s w : State) (t : Nat) (h : Hdr) (d l : Nat) (v : RegV) : State :=
  ((w.begin t 1).flyTile t l (.areg t d v 0)).signalIn t 1 0 ((s.tile t).resolveSig h.sig) l none

/-- Taking a trap (16 R422, R423): `u` is `s` with the trap entered in context `c` of tile `t`, one level up; `tst` is what the entry
leaves in TSTATE besides dz. Registers, pending writes, memory, the other contexts, tiles and units are as they were. -/
structure TrapTaken (s u : State) (t c cause epc : Nat) (val : Word) (tst : Nat) : Prop where
  level : (u.cc t c).tlvl = (s.cc t c).tlvl + 1
  pc : (u.cc t c).pc = (s.cc t c).tlvl + 1
  tcause : (u.cc t c).tcause = FM.set (s.cc t c).tcause ((s.cc t c).tlvl + 1) (BitVec.ofNat 64 cause)
  tepc : (u.cc t c).tepc = FM.set (s.cc t c).tepc ((s.cc t c).tlvl + 1) (BitVec.ofNat 64 epc)
  tval : (u.cc t c).tval = FM.set (s.cc t c).tval ((s.cc t c).tlvl + 1) val
  tstate : (u.cc t c).tstate = FM.set (s.cc t c).tstate ((s.cc t c).tlvl + 1)
    (BitVec.ofNat 64 ((FM.get 0 (s.cc t c).tstate ((s.cc t c).tlvl + 1)).toNat % 2 + tst))
  regs : (u.cc t c).regs = (s.cc t c).regs
  latch : (u.cc t c).latch = .empty
  run : (u.cc t c).run = .running
  next : (u.cc t c).nextAt = (s.tile t).clk + 3
  waits : (u.cc t c).waitFrom = none ∧ (u.cc t c).waitDone = false
  fresh : (u.cc t c).fresh = (s.cc t c).fresh
  fetched : (u.cc t c).fetched = (s.cc t c).fetched
  rmt : (u.cc t c).rmt = (s.cc t c).rmt
  others : ∀ d, d ≠ c → u.cc t d = s.cc t d
  tile : u.tile t = { s.tile t with ctxs := (u.tile t).ctxs }
  tiles : SameOthers s u t
  rest : u = { s with tiles := u.tiles }

/-- A pipe word of the vector engine has issued: the queues among its sources popped, its pipes taken, its effect `f`, its signal `l` tc
later (06 R161, R164, R166). -/
def vecDid (s w : State) (t : Nat) (h : Hdr) (rs : List Nat) (l : Nat) (f : State → State) : State :=
  (f (((w.begin t 2).popAll t rs).updTile t fun T => { T with lastPipe := some T.clk })).signalIn t 2 0
    ((s.tile t).resolveSig h.sig) l none

/-- `o` is the issue of a vector word that reads `rs` under m0 and writes its result to `d`, `l` tc later, at the positions `m`: a value
and flags with the property `p`, poisoned when a source or m0 is (06 R162, R167, R168). -/
def VecGives (s w : State) (t : Nat) (h : Hdr) (d : Nat) (rs : List Nat) (l : Nat) (m : MReg) (p : VReg → Nat → Prop) (o : Out) : Prop :=
  ∃ v fl, o = .next (vecDid s w t h rs l fun u =>
    u.putV t d l m ⟨v, (s.tile t).m0.p || rs.any fun r => ((s.tile t).vsrc r).p⟩ fl) ∧ p v fl

/-- `o` is the issue of a word of the destination class that gives each lane `f` of the operands, under m0 (06 R167), and sets the flags
of the active lanes (03 R81). -/
def LaneWord (s w : State) (t : Nat) (h : Hdr) (d : Nat) (rs : List Nat) (l : Nat) (f : List VReg → Nat → Nat → Nat × Nat)
    (o : Out) : Prop :=
  let vs := rs.map fun r => ((s.tile t).vsrc r).v
  VecGives s w t h d rs l (s.tile t).m0.v (fun v fl =>
    (∀ i j, i < 16 → j < 64 → lane v i j = (f vs i j).1 % 2 ^ 32) ∧
    ∀ b, fl.testBit b = true ↔
      ∃ i j, i < 16 ∧ j < 64 ∧ mbit (s.tile t).m0.v i j = true ∧ (f vs i j).2.testBit b = true) o

/-- The same for a word that gives each element of `n` bits, packed in the lanes, `f` of the operands' elements in its place. -/
def ElemWord (s w : State) (t : Nat) (h : Hdr) (d : Nat) (rs : List Nat) (l n : Nat) (f : List Nat → Nat × Nat) (o : Out) : Prop :=
  let at' (i j k : Nat) := rs.map fun r => slot n k (lane ((s.tile t).vsrc r).v i j)
  VecGives s w t h d rs l (s.tile t).m0.v (fun v fl =>
    (∀ i j k, i < 16 → j < 64 → k < 32 / n → slot n k (lane v i j) = (f (at' i j k)).1 % 2 ^ n) ∧
    ∀ b, fl.testBit b = true ↔ ∃ i j k, i < 16 ∧ j < 64 ∧ k < 32 / n ∧ mbit (s.tile t).m0.v i j = true ∧
      (f (at' i j k)).2.testBit b = true) o

/-- `o` is the issue of a word that writes the mask `d`, `l` tc later, at the positions `m`, with the poison bit `p`: bit (i, j) is
`f i j`. -/
def MaskWord (s w : State) (t : Nat) (h : Hdr) (d : Nat) (rs : List Nat) (l : Nat) (m : MReg) (p : Bool) (f : Nat → Nat → Bool)
    (o : Out) : Prop :=
  ∃ v fl, o = .next (vecDid s w t h rs l fun u => u.putM t d l m ⟨v, p⟩ fl) ∧ ∀ i j, i < 16 → j < 64 → mbit v i j = f i j

/-- A matrix word has issued: it enters the open window or closes it (`stay` are the tiles it writes where it may stay), has its effect
`f`, told its window, and is complete `l` tc later (07 R209, R220). -/
def mtxDid (s w : State) (t : Nat) (h : Hdr) (stay : Option (Int × Int)) (l : Nat) (f : Nat → State → State) : State :=
  let sig := (s.tile t).resolveSig h.sig
  let p := (w.begin t 3).enterWindow t sig stay
  if sig = 0 ∧ p.1.1 = 0 then f p.1.1 p.2 else (f p.1.1 p.2).flyTile t l (.mdone t p.1.1 p.1.2 sig)

end Sys2Proof.Machine
end

