-- ==== Sys2Proof/Certificates/Slice0/Obligations.lean ====
section
/-! DEFINITION. Sys2Proof/Certificates/Slice0/Obligations.lean: the statements for the provers, each with the rules of the spec that it
follows. A value that the spec leaves open is a free value in each (log entry 2). -/

open Sys2Proof Sys2Proof.Machine

/-- 02 R27 to R61 and the worked encodings of the spec's chapters, read bit by bit. -/
def Obligations.SampleWordsDecode : Prop :=
  decode (.plain .ctl) (0x01 * 2 ^ 40 + 3 * 2 ^ 29 + 1 * 2 ^ 18 + 2 * 2 ^ 7) = .ok (.add .plain 3 1 2) ∧
  decode (.plain .ctl) (0x2A * 2 ^ 40 + 1 * 2 ^ 24 + (2 ^ 24 - 3)) = .ok (.loop .plain 1 (2 ^ 64 - 3)) ∧
  decode (.plain .ctl) (0x13 * 2 ^ 40 + 5 * 2 ^ 29 + 4 * 2 ^ 18 + 1) = .ok (.addi .plain 5 4 1) ∧
  decode { DecEnv.plain .ctl with imx := some 0x20000 } 0x00001A00A0000123 = .ok (.li .plain 5 0x400000000123) ∧
  decode (.plain .acc) (0x01 * 2 ^ 40 + 1 * 2 ^ 36 + 2 * 2 ^ 32 + 7 * 2 ^ 27 + 4 * 2 ^ 24) = .ok (.ldq .plain 1 2 7 4 0) ∧
  decode (.plain .acc) 0x0000291418933000 = .ok (.putr .plain 1 4 3 2 9 1 12) ∧
  decode (.plain .vec) (0x21 * 2 ^ 56 + 0x23 * 2 ^ 48 + 0x04 * 2 ^ 40 + 12 * 2 ^ 29 + 3 * 2 ^ 18 + 1024 * 2 ^ 7 + 6) =
    .ok (.vfma ⟨0x21, 0x23, none, none⟩ 12 3 1024 6 0 0) ∧
  decode (.plain .vec) 0x00003D80D0180000 = .ok (.vmov .plain 1030 1030) ∧
  decode (.plain .mtx) 0x0000099000000001 = .ok (.mtzero .plain 1152 1) ∧
  decode (.plain .mtx) 0x0042070040000001 = .ok (.mringAdv ⟨0, 0x42, none, none⟩ 0 1) ∧
  decode (.plain .xbr) 0x0000010758000000 = .ok (.xcfg .plain 7 1 3 0 0) ∧
  decode (.plain .cpy) 0x0044050100200000 = .ok (.cpyx ⟨0, 0x44, none, none⟩ 1 2) ∧
  decode (.plain .cpy) 0x00000A0000000070 = .ok (.crec .plain 0x70) ∧
  decode (.plain .acc) (0xFC * 2 ^ 40 + 5) = .ok (.imx .plain 5) ∧
  decode (.plain .acc) (0xFD * 2 ^ 40 + 1 * 2 ^ 2 + 2) = .ok (.scp .plain 2 1) ∧
  decode (.plain .cpy) (0xFE * 2 ^ 40 + 1 * 2) = .ok (.pmt .plain 0 1) ∧
  decodeNmu 0x72E00000 = .ok (.nldp 23) ∧ decodeNmu 0x68000000 = .ok (.nld 0 0) ∧
  (∀ cls, decode (.plain cls) 0 = .ok (.wordNotAnInstruction 0)) ∧
  ∀ cls, decode (.plain cls) (0xF0 * 2 ^ 40) = .ok (.wordNotAnInstruction (0xF0 * 2 ^ 40))

/-- 02 R27 to R61; 10 R291: no bit of a well-formed instruction's operands is lost between its words and the decoder. -/
def Obligations.EncodedWordsDecodeBack : Prop :=
  (∀ (cls : Engine) (i : Instr) (g : Group) (handler : Bool), WellFormed cls i → encode i = some g →
    (handler = true ↔ ∃ h, i = .hend h) →
    g.word < 2 ^ 64 ∧ (∀ e, g.imx = some e → e < 2 ^ 40) ∧ decode (g.env cls true handler) g.word = .ok i) ∧
  ∀ (cls : Engine) (i : Instr) (w : Nat), WellFormed cls i → encodeNmu i = some w → w < 2 ^ 32 ∧ decodeNmu w = .ok i

/-- 02 R29 (R31, R34, R39, R44, R47) and 10 R292: the decoder says only well-formed instructions, and makes its checks in order. -/
def Obligations.DecodedWordsAreWellFormed : Prop :=
  (∀ (env : DecEnv) (w : Nat) (i : Instr), w < 2 ^ 64 → (∀ e, env.imx = some e → e < 2 ^ 40) → (∀ v, env.scp = some v → v < 20) →
    (∀ v, env.pmt = some v → 1 ≤ v ∧ v < 4) → decode env w = .ok i → WellFormed env.cls i) ∧
  (∀ (w : Nat) (i : Instr) (cls : Engine), decodeNmu w = .ok i → WellFormed cls i) ∧
  (∀ (env : DecEnv) (w c : Nat), decode env w = .error c → c ∈ [0x03, 0x04, 0x05, 0x07, 0x08, 0x09]) ∧
  (∀ (env : DecEnv) (w : Nat), w = 0 ∨ (bitsAt w 40 8 < 0xFC ∧ ∀ r ∈ rowsOf env.cls, r.op ≠ bitsAt w 40 8) →
    decode env w = .ok (.wordNotAnInstruction w)) ∧
  ∀ (env : DecEnv) (w : Nat) (r : Row), w ≠ 0 → bitsAt w 40 8 < 0xFC → (rowsOf env.cls).find? (fun r => r.op == bitsAt w 40 8) = some r →
    let rows := (rowsOf env.cls).filter fun r => r.op == bitsAt w 40 8
    let opnd := bitsAt w 0 40
    (privilegeOk env (bitsAt w 40 8) r.acc.sup = false → decode env w = .error 0x08) ∧
    (privilegeOk env (bitsAt w 40 8) r.acc.sup = true →
      (latchesOk env r = false → decode env w = .error 0x07) ∧
      (latchesOk env r = true →
        (syncOk env (bitsAt w 40 8) (bitsAt w 56 8) (bitsAt w 48 8) = false → decode env w = .error 0x05) ∧
        (syncOk env (bitsAt w 40 8) (bitsAt w 56 8) (bitsAt w 48 8) = true →
          (rows.find? (fun r => subMatches r.sub opnd) = none → decode env w = .error 0x03) ∧
          ∀ r', rows.find? (fun r => subMatches r.sub opnd) = some r' →
            let vs := r'.flds.map fun f => f.value opnd env.imx
            (reservedZero r' opnd env.imx = false → decode env w = .error 0x03) ∧
            (reservedZero r' opnd env.imx = true →
              (∀ c, operandChecks r' vs = .error c → decode env w = .error c) ∧
              (operandChecks r' vs = .ok () →
                decode env w = .ok (r'.build ⟨bitsAt w 56 8, bitsAt w 48 8, env.scp, env.pmt⟩ vs))))))

/-- 02 R31: kinds 101 to 111, a nonzero id of kind 000, an id above 5 or one's own of kind 001. -/
def Obligations.InvalidSyncBytes : Prop :=
  (∀ cls : Engine, ∀ b, b < 256 → (syncByteOk cls.id b = false ↔
    (b / 32 = 5 ∨ b / 32 = 6 ∨ b / 32 = 7) ∨ (b / 32 = 0 ∧ b % 32 ≠ 0) ∨ (b / 32 = 1 ∧ (5 < b % 32 ∨ b % 32 = cls.id)))) ∧
  ∀ (env : DecEnv) (w : Nat), w ≠ 0 → syncByteOk env.cls.id (bitsAt w 56 8) = false ∨ syncByteOk env.cls.id (bitsAt w 48 8) = false →
    (∀ r, bitsAt w 40 8 < 0xFC → (rowsOf env.cls).find? (fun r => r.op == bitsAt w 40 8) = some r →
      privilegeOk env (bitsAt w 40 8) r.acc.sup = true → latchesOk env r = true → decode env w = .error 0x05) ∧
    (bitsAt w 40 8 = 0xFF → env.imx = none → env.scp = none → env.pmt = none → decode env w = .error 0x05)

/-- 02 R27 to R29; 04 R94, R95, R113; 10 R290; 11 R306 (log entry 4): what one step is. -/
def Obligations.StepRunsDecodedWord : Prop :=
  (∀ s : State, s.sys.powered = false → step s = exec .coldReset { s with cur := .none }) ∧
  (∀ (s : State) (p : Nat × Instr), s.sys.powered = true → s.dueInput = some p →
    step s = if isOutside p.2 = true then exec p.2 { s with inputs := s.inputs.erase p, cur := .none }
      else .next { s with inputs := s.inputs.erase p, cur := .none }) ∧
  (∀ s : State, s.sys.powered = true → s.dueInput = none → s.turns = [] → step s = .next s.tick) ∧
  (∀ (s : State) (t c : Nat), let x := s.cc t c
    ((x.fetched = none ∨ ∃ pc at' w, x.fetched = some (pc, at', w) ∧ (pc ≠ x.pc ∨ at' ≠ x.nextAt)) →
      (∀ o ∈ (s.tile t).cimOld, o.idx ≠ x.pc) →
      s.ctlFetch t c = (BitVec.ofNat 64 (s.nat (cimBase t + 8 * x.pc) 8), setHas (s.tile t).cimBad x.pc)) ∧
    ∀ w, x.fetched = some (x.pc, x.nextAt, w) → s.ctlFetch t c = (w, false)) ∧
  ∀ (s : State) (us : List Turn) (u : Turn), s.sys.powered = true → s.dueInput = none → s.turns = u :: us →
    let v : State := { s with turns := us, cur := .none }
    let word (t c : Nat) : Word := s.ctlWord t c
    let at' (t c : Nat) : State := { s.keepWord t c with turns := us, cur := .ctl t c }
    let beyond (t c : Nat) : Prop := (s.tile t).cimLen ≤ (s.cc t c).pc
    let bad (t c : Nat) : Prop := (s.ctlFetch t c).2 = true
    (∀ t, u = .portA t → ((s.tile t).pendingFault = none ∨ s.takesFaults t = false) →
      (s.ctlReady t 0 = false → step s = .next v) ∧
      (s.ctlReady t 0 = true →
        (beyond t 0 → step s = exec (.fetchBeyondCimImage t 0) { s with turns := us, cur := .ctl t 0 }) ∧
        (¬ beyond t 0 → bad t 0 → step s = exec (.cimUncorrectableFetch t 0) { s with turns := us, cur := .ctl t 0 }) ∧
        (¬ beyond t 0 → ¬ bad t 0 →
          (∀ i, decode (s.ctlEnv t 0) (word t 0).toNat = .ok i → step s = exec i (at' t 0)) ∧
          ∀ k, decode (s.ctlEnv t 0) (word t 0).toNat = .error k → step s = finish ((at' t 0).decodeCause k)))) ∧
    (∀ t, (u = .portA t ∨ u = .faultA t) → (s.tile t).pendingFault ≠ none → s.takesFaults t = true →
      (s.ctlReady t 0 = false → step s = if u = .faultA t ∧ (s.cc t 0).tlvl = 0 ∧ (s.tile t).bound = true
        then exec (.engineFaultDelivery t) v else .next v) ∧
      (s.ctlReady t 0 = true → ¬ beyond t 0 → ¬ bad t 0 → ∀ i z, decode (s.ctlEnv t 0) (word t 0).toNat = .ok i →
        exec i (at' t 0) = .next z → step s = if (z.cc t 0).tlvl = 0 ∧ (z.tile t).bound = true ∧
            (u = .faultA t ∨ (s.cc t 0).moved (z.cc t 0) = true) then exec (.engineFaultDelivery t) v else .next z)) ∧
    (∀ t c, u = .portB t c →
      let passed : Prop := (s.tile t).rr / 4 = (s.tile t).clk + 1
      (s.ctlReady t c = false ∨ passed → step s = .next v) ∧
      (s.ctlReady t c = true → ¬ passed → ¬ beyond t c → ¬ bad t c →
        ∀ i, decode (s.ctlEnv t c) (word t c).toNat = .ok i →
          step s = match exec i (at' t c) with
            | .next z => if (s.cc t c).moved (z.cc t c) = true ∧ (z.tile t).bound = true then
                .next (z.updTile t fun U => { U with rr := 4 * ((s.tile t).clk + 1) + c }) else .next z
            | o => o)) ∧
    (∀ t e, u = .engine t e →
      (s.ringReady t e = false → step s = .next v) ∧
      (s.ringReady t e = true → ((s.tile t).engine e).hold = .none →
        let z : State := (v.reachFork t e)
        (z.peek t e = none → step s = .next z) ∧
        ∀ w, z.peek t e = some w → (z.tile t).awaits (spBase t + ((z.tile t).ring e).base + 8 * w.off) = false →
          (∀ i, decode (z.ringEnv t e) w.w.toNat = .ok i → step s = exec i { z with cur := .ring t e }) ∧
          ∀ k, decode (z.ringEnv t e) w.w.toNat = .error k → step s = finish (State.decodeCause { z with cur := .ring t e } k)) ∧
      (s.ringReady t e = true → ∀ sig l w i, ((s.tile t).engine e).hold = .issued sig l →
        ((s.tile t).engine e).group.getLast? = some w →
        decode ⟨engineOf e, (s.tile t).sup, false, l.imx, l.scp, l.pmt⟩ w.w.toNat = .ok i →
        step s = exec i { s with turns := us, cur := .ring t e })) ∧
    (∀ ch r i, u = .nmu ch → (s.nmu ch).run = some r → r.ended = false → decodeNmu (r.prog.getD r.pc 0) = .ok i →
      step s = exec i { s with turns := us, cur := .nmu ch }) ∧
    (∀ i, u = .event i → step s = if v.stands i = true then exec i v else .next v) ∧
    ∀ id f, u = .lands id → s.flight? id = some f → step s = exec (v.landEvent f) v

/-- 18 R456, 17 R447, 14 R388, 08 R226; zero memory is log entry 1, the values that the spec does not give log entry 5. -/
def Obligations.ResetLeaves : Prop :=
  let s := State.reset
  s.Canonical ∧ s.bad = none ∧ s.flights = [] ∧ s.turns = [] ∧ s.inputs = [] ∧ s.launches = [] ∧
  s.sys.bootStage = 0 ∧ s.sys.bootErr = 0 ∧ s.sys.readyHbm = 0 ∧ s.sys.readyLink = 0 ∧ s.sys.readyHost = false ∧ s.sys.readyMp = false ∧
  (∀ t, setHas s.sys.readyXb t = false) ∧ (∀ c, (s.col c).trained = false ∧ (s.col c).holders = []) ∧ (∀ x, s.live x = false) ∧
  (∀ k, FM.find? s.sys.keys k = none) ∧ (∀ a, memGet s.mem a = 0 ∧ s.poisAt a = false ∧ s.tagAt a = false) ∧
  ∀ t, let T := s.tile t
    T.bound = false ∧ T.cimLen = 0 ∧
    (∀ c r, s.sreg t c r = RegV.zero ∧ (s.cc t c).run = .dormant ∧ (s.cc t c).tlvl = 0 ∧ (s.cc t c).latch = .empty) ∧
    (∀ r, s.areg t r = RegV.zero ∧ s.creg t r = CReg.zero) ∧ (∀ r, T.vreg r = VVal.zero ∧ T.mreg r = MVal.zero ∧ T.accOf r = TVal.zero) ∧
    (∀ n, T.semOf n = SObj.zero ∧ T.tqOf n = SObj.zero ∧ T.barOf n = BSlot.zero ∧ FM.find? T.bh n = none ∧ (T.ring n).size = 0 ∧
      FM.get 0 T.eflag n = 0 ∧ ((T.queue n).ents = [])) ∧
    ∀ a, let A := s.array t a
      A.depth = 2 ∧ A.qexp = 0 ∧ A.enc = 1 ∧ A.rgmask = 0xFF ∧ A.k = 0 ∧ A.priv = false ∧ A.orphan = false ∧ A.cert = Cert.none ∧
        ∀ c, FM.get 0 A.xoff c = 0 ∧ FM.get 0x8000 A.xgain c = 0x8000

/-- The canonical form of memory is an invariant of `step`, from every state and not only from those a run reaches. -/
def Obligations.StepKeepsMemoryCanonical : Prop :=
  ∀ s u : State, s.Canonical → step s = .next u → u.Canonical

/-- 05 R130; 11 R324; 14 R386: the one write of bytes with a poison bit. -/
def Obligations.MemoryReadsWhatWasWritten : Prop :=
  ∀ (s : State) (a : Nat) (bs : List Nat) (p : Bool), s.Canonical →
    let u := s.put a bs p
    let n := bs.length
    u.Canonical ∧
    (∀ k, memGet u.mem k = if a ≤ k ∧ k < a + n then BitVec.ofNat 8 (bs.getD (k - a) 0) else memGet s.mem k) ∧
    (∀ g, setHas u.pois g =
      if 64 * g + 64 ≤ a ∨ a + n ≤ 64 * g ∨ n = 0 then setHas s.pois g
      else if a ≤ 64 * g ∧ 64 * g + 64 ≤ a + n then p
      else p || setHas s.pois g) ∧
    (∀ k, setHas u.tags k = if 16 * k + 16 ≤ a ∨ a + n ≤ 16 * k ∨ n = 0 then setHas s.tags k else false) ∧
    u = { s with mem := u.mem, pois := u.pois, tags := u.tags, tiles := u.tiles } ∧
    ∀ t, u.tile t = { s.tile t with dirty := (u.tile t).dirty } ∧
      ∀ k, setHas (u.tile t).dirty k = true ↔ setHas (s.tile t).dirty k = true ∨
        ∃ i, i < n ∧ dirtyPage (a + i) = some (t, k)

/-- 05 R127, R143 to R145, R157: the access-core words that write a[d] and reach no memory. -/
def Obligations.AccessRegisterWords : Prop :=
  ∀ (s w : State) (t : Nat) (h : Hdr) (d a b i n q e f need : Nat), RingGoes s t 1 h w →
    let x := s.areg t a
    let y := s.areg t b
    let k := s.creg t a
    let T := s.tile t
    let m : Word := BitVec.ofNat 64 i
    let out (l : Nat) (v : Word) (p : Bool) : Out := .next (accWrote s w t h d l ⟨v, p⟩)
    (s.accPending t [d, a, b] = false →
      exec (.aadd h d a b) s = out 1 (x.v + y.v) (x.p || y.p) ∧ exec (.asub h d a b) s = out 1 (x.v - y.v) (x.p || y.p) ∧
      exec (.ctest h d a b need) s = out 1
        (if k.tag = true ∧ (need % 2 = 1 → capPerms k.v % 2 = 1) ∧ (need / 2 % 2 = 1 → capPerms k.v / 2 % 2 = 1) ∧
            (need / 4 % 2 = 1 → capPerms k.v / 16 % 2 = 1) ∧ y.v.toNat ≤ capLen k.v then 1 else 0) y.p) ∧
    (s.accPending t [d, a] = false →
      exec (.aaddi h d a i) s = out 1 (x.v + m) x.p ∧ exec (.amuli h d a i) s = out 3 (x.v * m) x.p ∧
      exec (.aandi h d a i) s = out 1 (x.v &&& m) x.p ∧ (n < 64 → exec (.ashli h d a n) s = out 1 (x.v <<< n) x.p) ∧
      exec (.cget h d a 0) s = out 1 (BitVec.ofNat 64 (capBase k.v)) false ∧
      exec (.cget h d a 1) s = out 1 (BitVec.ofNat 64 (capLen k.v)) false ∧
      exec (.cget h d a 2) s = out 1 (BitVec.ofNat 64 (capPerms k.v)) false ∧
      exec (.cget h d a 3) s = out 1 (BitVec.ofNat 64 (capSpace k.v)) false ∧
      exec (.cget h d a 4) s = out 1 (if k.tag then 1 else 0) false) ∧
    (s.accPending t [d] = false →
      exec (.ali h d i) s = out 1 m false ∧
      exec (.qrd h d q) s = out 1 (BitVec.ofNat 64 ((T.queue q).filled + (T.queue q).ents.length * 16 +
        (if ((T.queue q).head?.map (·.p)).getD false then 256 else 0))) false ∧
      ((T.ring e).size = 0 → exec (.rdget h e d) s = out 1 0 false) ∧
      (∀ lw, lw ≤ 13 → (T.ring e).size = 2 ^ lw → exec (.rdget h e d) s = out 1
        (BitVec.ofNat 64 ((T.ring e).base / 4096 * 2 ^ 12 + lw * 2 ^ 24 + (T.ring e).res * 2 ^ 32)) false)) ∧
    (s.accPending t [d, a, b] = true → exec (.aadd h d a b) s = .next s ∧ exec (.asub h d a b) s = .next s ∧
      exec (.ctest h d a b f) s = .next s)

/-- 05 R129, R130, R145: derivation is monotone. TVAL of the failures is log entry 16. -/
def Obligations.CapabilitiesOnlyNarrow : Prop :=
  ∀ (s w : State) (t : Nat) (h : Hdr) (d a b mask : Nat), RingGoes s t 1 h w →
    let k := s.creg t a
    let x := s.areg t b
    let n := x.v.toNat
    let u := w.begin t 1
    let sig := (s.tile t).resolveSig h.sig
    let out (v : Cap) : Out := .next ((u.flyTile t 1 (.creg t (d % 64) ⟨v, k.tag⟩ 0)).signalIn t 1 0 sig 1 none)
    let stops (cause : Nat) (v : Word) : Out := .next (u.execFault t 1 cause v sig)
    let derives := k.tag = false ∨ (capPerms k.v / 2 ^ 8 % 2 = 1 ∧ n ≤ capLen k.v)
    (s.accPending t [d, a, b] = false → x.p = false → derives →
      (∃ v, exec (.cder h d a b) s = out v ∧ capPerms v = capPerms k.v ∧ capSpace v = capSpace k.v ∧
        v.toNat / 2 ^ 112 = k.v.toNat / 2 ^ 112 ∧
        (n ≤ capLen k.v → capLen v = capLen k.v - n) ∧ capOff v = (capOff k.v + n) % 2 ^ offBits (capSpace k.v) ∧
        capBase v / 2 ^ offBits (capSpace k.v) = capBase k.v / 2 ^ offBits (capSpace k.v)) ∧
      (∃ v, exec (.cderLen h d a b) s = out v ∧ capPerms v = capPerms k.v ∧ capSpace v = capSpace k.v ∧
        v.toNat / 2 ^ 112 = k.v.toNat / 2 ^ 112 ∧ capBase v = capBase k.v ∧ capLen v = n % 2 ^ 40)) ∧
    (s.accPending t [d, a] = false →
      ∃ v, exec (.cperm h d a mask) s = out v ∧ capPerms v = capPerms k.v &&& mask ∧ capSpace v = capSpace k.v ∧
        capBase v = capBase k.v ∧ capLen v = capLen k.v ∧ v.toNat / 2 ^ 112 = k.v.toNat / 2 ^ 112) ∧
    (s.accPending t [d, a, b] = false →
      (x.p = true → exec (.cder h d a b) s = stops 0x31 (BitVec.ofNat 64 b) ∧
        exec (.cderLen h d a b) s = stops 0x31 (BitVec.ofNat 64 b)) ∧
      (x.p = false → k.tag = true → capPerms k.v / 2 ^ 8 % 2 = 0 →
        (∃ v, exec (.cder h d a b) s = stops 0x22 v) ∧ ∃ v, exec (.cderLen h d a b) s = stops 0x22 v) ∧
      (x.p = false → k.tag = true → capPerms k.v / 2 ^ 8 % 2 = 1 → capLen k.v < n →
        (∃ v, exec (.cder h d a b) s = stops 0x21 v) ∧ ∃ v, exec (.cderLen h d a b) s = stops 0x21 v))

/-- 05 R131, R132, R139 to R142, R146: loads and stores as they issue; and R142, R147, R467: LDQG and STQG, issued, as their list is read:
in which tc that is is free (log entry 9). -/
def Obligations.LoadsAndStoresIssue : Prop :=
  (∀ (s : State) (t : Nat) (h : Hdr) (q c cl al ab len rows sig : Nat) (l : Latch), s.cur = .ring t 1 → s.bad = none →
    ((s.tile t).engine 1).hold = .issued sig l →
    let ready := s.listReady t (scpOrder h 0) = true
    let now (v : State) : Out := .next (if Config.freeFetch [t, s.tc] % 2 = 0 then v else s)
    let u := s.unhold t 1
    let at' := listedRows c cl al ab len rows s t
    (¬ ready → exec (.ldqg h q c cl al ab len rows) s = .next s ∧ exec (.stqg h q c cl al ab len rows) s = .next s) ∧
    (ready → s.regSink t [al, ab] = none → listCheck cl al rows s t = none →
      (s.rowsFail t c 1 at' = none → ∃ x : Access, exec (.ldqg h q c cl al ab len rows) s =
        now ((u.updTile t fun T => T.setQueue q ((u.tile t).queue q).alloc).send x) ∧ x.t = t ∧ x.op = 3 ∧ x.sig = sig ∧
        x.keys = at'.flatMap RowAt.pieces ∧ x.dst = 1024 + q ∧ x.stage = 0) ∧
      (∀ v, ((s.tile t).queue q).head? = some v → s.rowsFail t c 2 at' = none →
        v.p = false ∨ capSpace (s.creg t c).v < 3 ∨ sinkAllowed h = true →
        ∃ (x : Access) (hit : Nat → Bool), exec (.stqg h q c cl al ab len rows) s =
          now (((u.updTile t fun T => T.setQueue q (T.queue q).pop).dropL1 t hit).send x) ∧ x.t = t ∧ x.op = 6 ∧
          x.sig = sig ∧ x.keys = at'.flatMap RowAt.pieces ∧ x.result = v ∧ x.stage = 0)) ∧
    (ready → s.regSink t [al, ab] = none → ∀ cause v, cause ≠ 0x09 → listCheck cl al rows s t = some (.fault cause v) →
      exec (.ldqg h q c cl al ab len rows) s = now (u.execFault t 1 cause (BitVec.ofNat 64 v) sig) ∧
      exec (.stqg h q c cl al ab len rows) s = now (u.execFault t 1 cause (BitVec.ofNat 64 v) sig))) ∧
  ∀ (s w : State) (t : Nat) (h : Hdr) (q c index scale disp ab astr len rows cl al d a imm : Nat), RingGoes s t 1 h w →
    let u := w.begin t 1
    let sig := (s.tile t).resolveSig h.sig
    let fault (cause v : Nat) : Out := .next (u.execFault t 1 cause (BitVec.ofNat 64 v) sig)
    let free (rs : List Nat) : Prop := s.accPending t rs = false
    -- queue words: `rs` their registers, `sk` those that are sinks, `at'` their rows
    let loads (i : Instr) (op : Nat) (rs sk : List Nat) (at' : List RowAt) : Prop :=
      free (creg c :: rs) →
        (4 ≤ ((s.tile t).queue q).ents.length → exec i s = .next s) ∧
        (((s.tile t).queue q).ents.length < 4 → s.regSink t sk = none →
          (s.rowsFail t c 1 at' = none → ∃ x : Access, exec i s =
            .next ((u.updTile t fun T => T.setQueue q ((u.tile t).queue q).alloc).send x) ∧ x.t = t ∧ x.op = op ∧ x.sig = sig ∧
            x.keys = at'.flatMap RowAt.pieces ∧ x.dst = 1024 + q ∧ x.stage = 0) ∧
          (∀ cause v, cause ≠ 0x09 → s.rowsFail t c 1 at' = some (.fault cause v) → exec i s = fault cause v))
    let stores (i : Instr) (op : Nat) (rs sk : List Nat) (at' : List RowAt) : Prop :=
      free (creg c :: rs) →
        (((s.tile t).queue q).head? = none → exec i s = .next s) ∧
        (∀ v, ((s.tile t).queue q).head? = some v → s.regSink t sk = none →
          (s.rowsFail t c 2 at' = none → v.p = false ∨ capSpace (s.creg t c).v < 3 ∨ sinkAllowed h = true →
            ∃ (x : Access) (hit : Nat → Bool), exec i s =
              .next (((u.updTile t fun T => T.setQueue q (T.queue q).pop).dropL1 t hit).send x) ∧ x.t = t ∧ x.op = op ∧
              x.sig = sig ∧ x.keys = at'.flatMap RowAt.pieces ∧ x.result = v ∧ x.stage = 0) ∧
          (∀ cause f, cause ≠ 0x09 → s.rowsFail t c 2 at' = some (.fault cause f) → exec i s = fault cause f))
    let bytes (op : Nat) : Nat := 2 ^ ((op - 7) % 4)
    let at' := s.immAddr t a imm
    let reads (i : Instr) (op : Nat) : Prop := free [d, creg a] →
      (s.checkRange t (s.engSup t) (s.creg t a) ⟨[0, 1, 2, 3, 5], false, 1, bytes op⟩ at' (bytes op) = none →
        ∃ v, exec i s = .next v ∧ ((∃ x : Access, (v = u.send x ∨ ∃ k f, v = (({ u with free := k } : State).dropL1 t f).send x) ∧
            x.t = t ∧ x.op = op ∧ x.keys = [(addrNat at', 0)] ∧ x.size = bytes op ∧ x.dst = d ∧ x.sig = sig ∧ x.stage = 0) ∨
          (scpOrder h 0 = 0 ∧ ∃ l k, u.l1Line t (capSpace (s.creg t a).v) (capUnit (s.creg t a).v t) (addrNat at') = some l ∧
            v = (({ u with free := k } : State).flyTile t 5 (.areg t d ⟨BitVec.ofNat 64 (leNat (((bytesOfBv 64 l.data).drop
              (addrNat at' % 64)).take (bytes op))), l.p⟩ 0)).signalIn t 1 0 sig 5 none))) ∧
      (∀ cause v, cause ≠ 0x09 →
        s.checkRange t (s.engSup t) (s.creg t a) ⟨[0, 1, 2, 3, 5], false, 1, bytes op⟩ at' (bytes op) = some (.fault cause v) →
        exec i s = fault cause v)
    let writes (i : Instr) (op : Nat) : Prop := free [d, creg a] →
      (s.checkRange t (s.engSup t) (s.creg t a) ⟨[0, 1, 2, 3, 5], false, 2, bytes op⟩ at' (bytes op) = none →
        (s.areg t d).p = false ∨ capSpace (s.creg t a).v ≠ 3 ∨ sinkAllowed h = true →
        ∃ (x : Access) (hit : Nat → Bool), exec i s = .next ((u.dropL1 t hit).send x) ∧ x.t = t ∧ x.op = op ∧
          x.keys = [(addrNat at', 0)] ∧ x.size = bytes op ∧ x.sig = sig ∧ x.stage = 0 ∧ x.result.p = (s.areg t d).p ∧
          x.result.v = (s.areg t d).v.setWidth 32768) ∧
      (∀ cause v, cause ≠ 0x09 →
        s.checkRange t (s.engSup t) (s.creg t a) ⟨[0, 1, 2, 3, 5], false, 2, bytes op⟩ at' (bytes op) = some (.fault cause v) →
        exec i s = fault cause v)
    let ix := if scale = 7 then [] else [index]
    loads (.ldq h q c index scale disp) 1 ix ix [⟨s.memAddr t c index scale disp, 4096, 0⟩] ∧
    loads (.ldqs h q c ab astr len rows disp) 2 [ab, astr] [ab, astr] (stridedRows c ab astr len rows disp s t) ∧
    (free [creg c, creg cl, al, ab] →
      let held : Out := .next (u.updEng t 1 fun x => { x with hold := .issued sig ((s.tile t).engine 1).latch })
      (4 ≤ ((s.tile t).queue q).ents.length → exec (.ldqg h q c cl al ab len rows) s = .next s) ∧
      (((s.tile t).queue q).ents.length < 4 → exec (.ldqg h q c cl al ab len rows) s = held) ∧
      (((s.tile t).queue q).head? = none → exec (.stqg h q c cl al ab len rows) s = .next s) ∧
      (((s.tile t).queue q).head? ≠ none → exec (.stqg h q c cl al ab len rows) s = held)) ∧
    stores (.stq h q c index scale disp) 4 ix ix [⟨s.memAddr t c index scale disp, 4096, 0⟩] ∧
    stores (.stqs h q c ab astr len rows disp) 5 [ab, astr] [ab, astr] (stridedRows c ab astr len rows disp s t) ∧
    reads (.ldb h d a imm) 7 ∧ reads (.ldh h d a imm) 8 ∧ reads (.ldw h d a imm) 9 ∧ reads (.ldd h d a imm) 0xA ∧
    writes (.stb h d a imm) 0xB ∧ writes (.sth h d a imm) 0xC ∧ writes (.stw h d a imm) 0xD ∧ writes (.std h d a imm) 0xE

/-- 05 R146, R150, R152 to R154, R156: words whose work is done at another unit. -/
def Obligations.RemoteAccessWordsIssue : Prop :=
  ∀ (s w : State) (t : Nat) (h : Hdr) (d a b k imm wd un cs cd so dof ln sen sem ha arg cnt op ty dq v st col : Nat), RingGoes s t 1 h w →
    let u := w.begin t 1
    let sig := (s.tile t).resolveSig h.sig
    let free (rs : List Nat) : Prop := s.accPending t rs = false
    let n := if wd = 1 then 4 else 8
    let x := s.areg t b
    let e := s.areg t d
    let base := capOff (s.creg t a).v
    let sends (i : Instr) (p : Access → Prop) : Prop := ∃ (y : Access) (v : State), exec i s = .next (v.send y) ∧
      (v = u ∨ ∃ L, v = u.updTile t fun T => { T with amoLines := L }) ∧ y.t = t ∧ y.sig = sig ∧ y.stage = 0 ∧ p y
    let amo (i : Instr) (num uns : Nat) : Prop := free [d, b, creg a] →
      (s.checkRange t (s.engSup t) (s.creg t a) ⟨[0, 1, 2], false, 16, n⟩ (base : Nat) n = none →
        sends i fun y => y.op = num ∧ y.atomic = true ∧ y.keys = [(base, 0)] ∧ y.size = n ∧ y.dst = d ∧
          y.data = [(x.v.toNat, x.p), (e.v.toNat, e.p), (uns, wd == 1)]) ∧
      (∀ cause f, cause ≠ 0x09 →
        s.checkRange t (s.engSup t) (s.creg t a) ⟨[0, 1, 2], false, 16, n⟩ (base : Nat) n = some (.fault cause f) →
        exec i s = .next (u.execFault t 1 cause (BitVec.ofNat 64 f) sig))
    let deque (i : Instr) (num c : Nat) : Prop := free [v, st] → sends i fun y =>
      y.op = num ∧ y.va = dq ∧ y.unit = c ∧ y.x = st ∧ y.data = [((s.areg t v).v.toNat, (s.areg t v).p)] ∧ y.keys = [(dq, 0)]
    (free [creg d, creg a] →
      (capFail 5 a imm s t = none → sends (.cld h d a imm) fun y =>
        y.op = 0xF ∧ y.keys = [(addrNat (s.immAddr t a imm), 0)] ∧ y.size = 16 ∧ y.dst = creg d) ∧
      (capFail 10 a imm s t = none → sends (.cst h d a imm) fun y =>
        y.op = 0x10 ∧ y.keys = [(addrNat (s.immAddr t a imm), 0)] ∧ y.size = 16 ∧ y.cap = s.creg t d)) ∧
    amo (.amoadd h d a b wd) 0x1F 0 ∧ amo (.amofadd h d a b wd) 0x20 0 ∧ amo (.amomin h d a b wd un) 0x21 un ∧
    amo (.amomax h d a b wd un) 0x22 un ∧ amo (.amoand h d a b wd) 0x23 0 ∧ amo (.amoor h d a b wd) 0x24 0 ∧
    amo (.amoxor h d a b wd) 0x25 0 ∧ amo (.amoswp h d a b wd) 0x26 0 ∧ amo (.amocas h d a b wd) 0x27 0 ∧
    (free [d, b, creg a] →
      s.checkRange t (s.engSup t) (s.creg t a) ⟨[1, 2], false, 33, 8⟩ (base : Nat) 8 = none →
      ∃ (y : Access) (col key : Nat), exec (.mwait h d a b k) s = .next ((u.updEng t 1 fun z => { z with
        hold := .mwait d sig x.v base key col false (if k = 0 then none else some (2 ^ (k + 5))) 0 y.scope y.order }).send y) ∧
        y.op = 0x28 ∧ y.keys = [(base, 0)] ∧ y.data = [(x.v.toNat, false)]) ∧
    (free [creg cs, creg cd, so, dof, ln] →
      (s.putsOut t < 8 → putFail cs cd so dof [ln] (64 * sen + sem) (putLen ln 65536) [0, 4] 2 64 s t = none →
        exec (.putr h cs cd so dof ln sen sem) s = .next (u.sendPut h t 0 cs cd so dof
          (s.areg t ln).v.toNat 0 0 (if sen = 1 then some sem else none) 0 0 sig)) ∧
      (8 ≤ s.putsOut t → exec (.putr h cs cd so dof ln sen sem) s = .next s)) ∧
    (free [creg cs, creg cd, so, dof, ln, ha, arg] → s.putsOut t < 8 →
      putFail cs cd so dof [ln, ha] 0 (putLen ln 16384) [0] 64 64 s t = none →
      exec (.puth h cs cd so dof ln ha arg) s = .next (u.sendPut h t 1 cs cd so dof (s.areg t ln).v.toNat 0 0 none
        (s.areg t ha).v.toNat (s.areg t arg).v sig)) ∧
    (free [creg cs, creg cd, so, dof, cnt] → s.putsOut t < 8 →
      putFail cs cd so dof [cnt] (64 * sen + sem) (redLen cnt ty) [0, 4] 128 (redSize ty) s t = none →
      exec (.rred h cs cd so dof cnt op ty sen sem) s = .next (u.sendPut h t 2 cs cd so dof
        ((s.areg t cnt).v.toNat * redSize ty) op ty (if sen = 1 then some sem else none) 0 0 sig)) ∧
    deque (.dqpush h dq v st 0 0) 0x2C (tileCol t) ∧ deque (.dqpop h dq v st 0 0) 0x2D (tileCol t) ∧
    deque (.dqsteal h dq v st 0 0) 0x2E (tileCol t) ∧ deque (.dqsteal h dq v st col 1) 0x2E col ∧
    deque (.dqpush h dq v st col 1) 0x2C col ∧ deque (.dqpop h dq v st col 1) 0x2D col

/-- 05 R135, R143, R148, R149, R157; 12 R334: hints, queue and ring management, ordering words. -/
def Obligations.HintAndHoldWords : Prop :=
  ∀ (s w : State) (t : Nat) (h : Hdr) (q c index scale disp n e a : Nat), RingGoes s t 1 h w →
    let u := w.begin t 1
    let sig := (s.tile t).resolveSig h.sig
    let rs := creg c :: (if scale = 7 then [] else [index])
    let k := (s.creg t c).v
    let done (v : State) : Out := .next (v.signalIn t 1 0 sig 1 none)
    (s.accPending t rs = false →
      (s.hintAt t c index scale disp [1, 2] = none → exec (.l1inv h c index scale disp) s = done (u.dropL1 t fun _ => false)) ∧
      (∀ va line, s.hintAt t c index scale disp [1, 2] = some va → s.l1Key t (capSpace k) (capUnit k t) va = some line →
        exec (.l1inv h c index scale disp) s = done (u.dropL1 t fun y => y == line)) ∧
      (s.hintAt t c index scale disp [2] = none → exec (.pref h q c index scale disp) s = done u) ∧
      (∀ va, s.hintAt t c index scale disp [2] = some va → ∃ y : Access,
        exec (.pref h q c index scale disp) s = done (u.send y) ∧ y.op = 0x31 ∧ y.keys = [(va / 64 * 64, 0)] ∧ y.sig = 0)) ∧
    exec (.l1inva h) s = done (u.dropL1 t fun _ => true) ∧
    exec (.qdrop h q n) s = .next (u.updEng t 1 fun x => { x with hold := .qdrop (q % 1024) (n + 1) sig }) ∧
    exec (.mark h) s = .next (u.updEng t 1 fun x => { x with hold := .mark sig (scpScope h 0) (scpOrder h 0) s.nextId }) ∧
    exec (.accFence h) s = .next ((u.acquireL1 t (scpScope h 0) (scpOrder h 4)).flyDev 1 (.access { Access.blank t 0x34 sig with
      scope := scpScope h 0, order := scpOrder h 4 })) ∧
    (s.accPending t [a] = false →
      (rdsetOk (s.areg t a).v.toNat = true →
        exec (.rdset h e a) s = .next (u.updEng t 1 fun x => { x with hold := .rdset e (s.areg t a).v sig })) ∧
      (rdsetOk (s.areg t a).v.toNat = false → ∃ v, exec (.rdset h e a) s = .next (u.execFault t 1 0x09 v sig)))

/-- 05 R131, R133: orders 2 to 7 of the checks on a range of `n` bytes at `a`. -/
def Obligations.CapabilityChecksInOrder : Prop :=
  ∀ (s : State) (t : Nat) (sup : Bool) (c : CReg) (w : Need) (a : Int) (n : Nat),
    let sp := capSpace c.v
    let cause (k : Nat) : Prop := ∃ v, s.checkCap t sup c w a n = some (k, v)
    let space := sp ∈ w.spaces ∧ (sp = 5 → sup = true) ∧ (sp = 0 → capForeign c.v = true → w.foreign = true)
    let perms := capPerms c.v &&& w.perms = w.perms
    let within := (capOff c.v : Int) ≤ a ∧ a + n ≤ (capOff c.v : Int) + capLen c.v
    let scratch := sp = 1 → a.toNat + n ≤ s.scratchSize (s.tile t).ctx (scratchCol c.v t)
    (c.tag = false → cause 0x20) ∧
    (c.tag = true → ¬ space → cause 0x24) ∧
    (c.tag = true → space → ¬ perms → cause 0x22) ∧
    (c.tag = true → space → perms → a % w.align ≠ 0 → cause 0x23) ∧
    (c.tag = true → space → perms → a % w.align = 0 → ¬ within → cause 0x21) ∧
    (c.tag = true → space → perms → a % w.align = 0 → within → ¬ scratch → cause 0x26) ∧
    (s.checkCap t sup c w a n = none ↔ c.tag = true ∧ space ∧ perms ∧ a % w.align = 0 ∧ within ∧ scratch)

/-- 05 R134, R146, R147; 11 R324: a store to the scratchpad at its executing unit. -/
def Obligations.ScratchpadStoreWritesItsBytes : Prop :=
  ∀ (s : State) (id : Nat) (f : Flight) (x : Access) (va n : Nat), s.flight? id = some f → f.id = id → f.fl = .access x → s.bad = none → s.Canonical →
    0xB ≤ x.op → x.op ≤ 0xE → n = 2 ^ (x.op - 0xB) → x.size = n → x.space = 0 → x.stage = 0 → x.atomic = false → x.keys = [(va, 0)] →
    n ∣ va → va + n ≤ 2 ^ 19 → x.scope < 3 → x.order = 0 →
    (∀ v, s.view? ⟨id, .dev, 0, .access x⟩ = some v → s.before v = []) →
    let a := spBase x.t + va
    ∃ u, exec (.accessResponse id) s = .next u ∧
      ((u.mem = s.mem ∧ u.pois = s.pois ∧ u.tags = s.tags) ∨
        ((∀ i, i < n → memGet u.mem (a + i) = (x.result.v >>> (8 * i)).setWidth 8) ∧ SameBytesBut s u a n ∧
          u.poisAt a = (x.result.p || s.poisAt a) ∧ (∀ b, b / 64 ≠ a / 64 → u.poisAt b = s.poisAt b))) ∧
      SameOthers s u x.t ∧ u.cols = s.cols ∧ u.ctxs = s.ctxs ∧ u.sys = s.sys ∧ u.nmus = s.nmus ∧ u.launches = s.launches ∧
      (u.tile x.t) = { s.tile x.t with dirty := (u.tile x.t).dirty }

/-- 05 R127: what the access core's words leave alone as they issue, faults included. -/
def Obligations.AccessIssueFrame : Prop :=
  ∀ (s u w : State) (t : Nat) (h : Hdr) (d a b k m n q : Nat), RingGoes s t 1 h w →
    (∀ i ∈ [Instr.aadd h d a b, .asub h d a b, .aaddi h d a m, .amuli h d a m, .ashli h d a n, .aandi h d a m, .ali h d m, .cder h d a b,
        .cderLen h d a b, .cperm h d a m, .cget h d a k, .ctest h d a b k, .qrd h d q, .rdget h k d, .rdset h k a, .mark h,
        .qdrop h q n, .dqpush h k d a m n, .dqpop h k d a m n, .dqsteal h k d a m n, .l1inva h, .accFence h,
        .l1inv h k d a m, .pref h q k d a m],
      exec i s = .next u → SameMemory s u ∧ SameDevice s u ∧ SameOthers s u t ∧
        u.tile t = { s.tile t with eng := (u.tile t).eng, rings := (u.tile t).rings, sem := (u.tile t).sem, tq := (u.tile t).tq,
                                   pushes := (u.tile t).pushes, bar := (u.tile t).bar, bpend := (u.tile t).bpend,
                                   know := (u.tile t).know, ctxs := (u.tile t).ctxs, l1 := (u.tile t).l1 } ∧
        ∀ c, (u.cc t c).regs = (s.cc t c).regs) ∧
    (∀ i ∈ [Instr.ldq h q k d a m, .ldqs h q k d a b m n, .ldqg h q k d a b m n, .stq h q k d a m, .stqs h q k d a b m n,
        .stqg h q k d a b m n, .ldb h d a m, .ldh h d a m, .ldw h d a m, .ldd h d a m, .stb h d a m, .sth h d a m, .stw h d a m,
        .std h d a m, .cld h d a m, .cst h d a m, .amoadd h d a b k, .amofadd h d a b k, .amomin h d a b k m,
        .amomax h d a b k m, .amoand h d a b k, .amoor h d a b k, .amoxor h d a b k, .amoswp h d a b k, .amocas h d a b k,
        .mwait h d a b k, .putr h d a b k m n q, .puth h d a b k m n q, .rred h d a b k m n q k m],
      exec i s = .next u →
        (∀ x, x < 2 ^ 60 → memGet u.mem x = memGet s.mem x ∧ u.poisAt x = s.poisAt x ∧ u.tagAt x = s.tagAt x) ∧
        SameOthers s u t ∧ u.ctxs = s.ctxs ∧ u.launches = s.launches ∧ u.nmus = s.nmus ∧ u.saved = s.saved ∧
        u.tile t = { s.tile t with eng := (u.tile t).eng, rings := (u.tile t).rings, sem := (u.tile t).sem, tq := (u.tile t).tq,
                                   pushes := (u.tile t).pushes, bar := (u.tile t).bar, bpend := (u.tile t).bpend,
                                   know := (u.tile t).know, ctxs := (u.tile t).ctxs, l1 := (u.tile t).l1, queues := (u.tile t).queues,
                                   amoLines := (u.tile t).amoLines })

/-- 04 R104: the arithmetic, logic, shift and count words write the value that the rule gives to s[d], poisoned when a source is, one tc
after issue and three for the products. -/
def Obligations.ControlArithmeticWords : Prop :=
  ∀ (s w : State) (t c : Nat) (h : Hdr) (d a b : Nat), CtlGoes s t c h w →
    let x := s.sreg t c a
    let y := s.sreg t c b
    let out (l : Nat) (v : Word) : Out := .next (ctlWrote s w t c h d l ⟨v, x.p || y.p⟩ 0)
    let one (n : Nat) : Out := .next (ctlWrote s w t c h d 1 ⟨BitVec.ofNat 64 n, x.p⟩ 0)
    exec (.add h d a b) s = out 1 (x.v + y.v) ∧
    exec (.sub h d a b) s = out 1 (x.v - y.v) ∧
    exec (.mul h d a b) s = out 3 (x.v * y.v) ∧
    exec (.mulh h d a b 0) s = out 3 (BitVec.ofInt 64 (x.v.toInt * y.v.toInt / 2 ^ 64)) ∧
    exec (.mulh h d a b 1) s = out 3 (BitVec.ofNat 64 (x.v.toNat * y.v.toNat / 2 ^ 64)) ∧
    exec (.mulh h d a b 2) s = out 3 (BitVec.ofInt 64 (x.v.toInt * y.v.toNat / 2 ^ 64)) ∧
    exec (.and h d a b) s = out 1 (x.v &&& y.v) ∧
    exec (.or h d a b) s = out 1 (x.v ||| y.v) ∧
    exec (.xor h d a b) s = out 1 (x.v ^^^ y.v) ∧
    exec (.andn h d a b) s = out 1 (x.v &&& ~~~y.v) ∧
    exec (.shl h d a b) s = out 1 (x.v <<< y.v.toNat) ∧
    exec (.shr h d a b 0) s = out 1 (x.v >>> y.v.toNat) ∧
    exec (.shr h d a b 1) s = out 1 (x.v.sshiftRight y.v.toNat) ∧
    exec (.rot h d a b) s = out 1 (x.v.rotateRight (y.v.toNat % 64)) ∧
    exec (.min h d a b 0) s = out 1 (if x.v.slt y.v then x.v else y.v) ∧
    exec (.min h d a b 1) s = out 1 (if x.v.ult y.v then x.v else y.v) ∧
    exec (.max h d a b 0) s = out 1 (if x.v.slt y.v then y.v else x.v) ∧
    exec (.max h d a b 1) s = out 1 (if x.v.ult y.v then y.v else x.v) ∧
    (∃ n, exec (.clz h d a) s = one n ∧ n ≤ 64 ∧ x.v.toNat < 2 ^ (64 - n) ∧ (n < 64 → 2 ^ (63 - n) ≤ x.v.toNat)) ∧
    (∃ n, exec (.ctz h d a) s = one n ∧ n ≤ 64 ∧ 2 ^ n ∣ x.v.toNat ∧ (n < 64 → x.v.getLsbD n = true)) ∧
    exec (.popc h d a) s = one ((List.range 64).filter fun i => x.v.getLsbD i).length

/-- 04 R105, R98: the immediate words. An immediate is the sign-extended operand as 64 bits. -/
def Obligations.ControlImmediateWords : Prop :=
  ∀ (s w : State) (t c : Nat) (h : Hdr) (d a i n : Nat), CtlGoes s t c h w →
    let x := s.sreg t c a
    let y : Word := BitVec.ofNat 64 i
    let out (l : Nat) (v : Word) : Out := .next (ctlWrote s w t c h d l ⟨v, x.p⟩ 0)
    exec (.addi h d a i) s = out 1 (x.v + y) ∧
    exec (.muli h d a i) s = out 3 (x.v * y) ∧
    exec (.andi h d a i) s = out 1 (x.v &&& y) ∧
    exec (.ori h d a i) s = out 1 (x.v ||| y) ∧
    exec (.xori h d a i) s = out 1 (x.v ^^^ y) ∧
    (n < 64 →
      exec (.shli h d a n) s = out 1 (x.v <<< n) ∧
      exec (.shri h d a n 0) s = out 1 (x.v >>> n) ∧
      exec (.shri h d a n 1) s = out 1 (x.v.sshiftRight n)) ∧
    exec (.li h d i) s = .next (ctlWrote s w t c h d 1 ⟨y, false⟩ 0)

/-- 04 R98, R106; 03 R70: DIV and REM. -/
def Obligations.ControlDivisionWords : Prop :=
  ∀ (s w : State) (t c : Nat) (h : Hdr) (d a b : Nat), CtlGoes s t c h w →
    let x := s.sreg t c a
    let y := s.sreg t c b
    let out (v : Word) : Out := .next (ctlDid s w t c h 20 fun u =>
      (u.putS t c d ⟨v, x.p || y.p⟩ 20 (if y.v = 0 then 2 else 0)).useDivider t c)
    ((s.tile t).divFree c ≤ (s.tile t).clk →
      (y.v ≠ 0 →
        exec (.div h d a b 0) s = out (x.v.sdiv y.v) ∧ exec (.div h d a b 1) s = out (x.v / y.v) ∧
        exec (.rem h d a b 0) s = out (x.v.srem y.v) ∧ exec (.rem h d a b 1) s = out (x.v % y.v)) ∧
      (y.v = 0 → s.dz t c = false → ∀ k,
        exec (.div h d a b k) s = out (BitVec.allOnes 64) ∧ exec (.rem h d a b k) s = out x.v) ∧
      (y.v = 0 → s.dz t c = true → (s.cc t c).tlvl < 2 → ∀ k,
        exec (.div h d a b k) s = .next ((s.wordTrap t c 0x10 x.v).useDivider t c) ∧
        exec (.rem h d a b k) s = .next ((s.wordTrap t c 0x10 x.v).useDivider t c))) ∧
    ((s.tile t).clk < (s.tile t).divFree c → ∀ k, exec (.div h d a b k) s = .next s ∧ exec (.rem h d a b k) s = .next s)

/-- 04 R107, R108: bit by bit, the results of the bit-field words; compare and select. -/
def Obligations.ControlBitFieldsAndCompares : Prop :=
  (∀ (s w : State) (t c : Nat) (h : Hdr) (d a b n pos width : Nat), CtlGoes s t c h w → 1 ≤ width → pos + width ≤ 64 → 1 ≤ n → n ≤ 64 →
      let x := s.sreg t c a
      let y := s.sreg t c b
      let o := s.sreg t c d
      let out (v : Word) (p : Bool) : Out := .next (ctlWrote s w t c h d 1 ⟨v, p⟩ 0)
      (∃ v, exec (.ext h d a pos width) s = out v x.p ∧
        ∀ i, i < 64 → v.getLsbD i = (decide (i < width) && x.v.getLsbD (pos + i))) ∧
      (∃ v, exec (.exts h d a pos width) s = out v x.p ∧
        ∀ i, i < 64 → v.getLsbD i = x.v.getLsbD (pos + min i (width - 1))) ∧
      (∃ v, exec (.ins h d a pos width) s = out v (o.p || x.p) ∧
        ∀ i, i < 64 → v.getLsbD i = if pos ≤ i ∧ i < pos + width then x.v.getLsbD (i - pos) else o.v.getLsbD i) ∧
      (∃ v, exec (.sext h d a n) s = out v x.p ∧ ∀ i, i < 64 → v.getLsbD i = x.v.getLsbD (min i (n - 1))) ∧
      (n < 64 → exec (.fsh h d a b n) s = out ((x.v <<< (64 - n)) ||| (y.v >>> n)) (x.p || y.p)) ∧
      exec (.fsh h d a b 0) s = out y.v (x.p || y.p)) ∧
  (∀ (s w : State) (t c : Nat) (h : Hdr) (d a b k i : Nat), CtlGoes s t c h w →
      let x := s.sreg t c a
      let y := s.sreg t c b
      let z := s.sreg t c k
      let m : Word := BitVec.ofNat 64 i
      let out (q p : Bool) : Out := .next (ctlWrote s w t c h d 1 ⟨if q then 1 else 0, p⟩ 0)
      exec (.cmp h d a b 0) s = out (x.v == y.v) (x.p || y.p) ∧
      exec (.cmp h d a b 1) s = out (x.v != y.v) (x.p || y.p) ∧
      exec (.cmp h d a b 2) s = out (x.v.slt y.v) (x.p || y.p) ∧
      exec (.cmp h d a b 3) s = out (!x.v.slt y.v) (x.p || y.p) ∧
      exec (.cmp h d a b 4) s = out (x.v.ult y.v) (x.p || y.p) ∧
      exec (.cmp h d a b 5) s = out (!x.v.ult y.v) (x.p || y.p) ∧
      exec (.seqi h d a i) s = out (x.v == m) x.p ∧
      exec (.slti h d a i) s = out (x.v.slt m) x.p ∧
      exec (.sltui h d a i) s = out (x.v.ult m) x.p ∧
      exec (.sel h d a b k) s =
        .next (ctlWrote s w t c h d 1 ⟨if z.v = 0 then y.v else x.v, x.p || y.p || z.p⟩ 0)) ∧
  ∀ d a b x, d < 2 ^ 11 → a < 2 ^ 11 → b < 2 ^ 11 → x < 2 ^ 7 →
    (6 ≤ x → decode (.plain .ctl) (wordOf .plain 0x20 (d * 2 ^ 29 + a * 2 ^ 18 + b * 2 ^ 7 + x)) = .error 0x03) ∧
    (32 ≤ x → decode (.plain .ctl) (wordOf .plain 0x24 (d * 2 ^ 29 + a * 2 ^ 18 + b * 2 ^ 7 + x)) = .error 0x03) ∧
    (x < 6 → d < 32 → a < 32 → b < 32 →
      decode (.plain .ctl) (wordOf .plain 0x20 (d * 2 ^ 29 + a * 2 ^ 18 + b * 2 ^ 7 + x)) = .ok (.cmp .plain d a b x)) ∧
    (x < 32 → d < 32 → a < 32 → b < 32 →
      decode (.plain .ctl) (wordOf .plain 0x24 (d * 2 ^ 29 + a * 2 ^ 18 + b * 2 ^ 7 + x)) = .ok (.sel .plain d a b x))

/-- 04 R112 (latency R97): CRNG holds no state, its value is that of the four equations. -/
def Obligations.CounterGeneratorValue : Prop :=
  (∀ (s w : State) (t c : Nat) (h : Hdr) (d a b : Nat), CtlGoes s t c h w → ∀ z0 z1 z2 z3 : Word,
    z0 = (s.sreg t c a).v + (s.sreg t c b).v * 0x9E3779B97F4A7C15#64 →
    z1 = (z0 ^^^ (z0 >>> 30)) * 0xBF58476D1CE4E5B9#64 →
    z2 = (z1 ^^^ (z1 >>> 27)) * 0x94D049BB133111EB#64 →
    z3 = z2 ^^^ (z2 >>> 31) →
    exec (.crng h d a b) s = .next (ctlWrote s w t c h d 4 ⟨z3, (s.sreg t c a).p || (s.sreg t c b).p⟩ 0)) ∧
  ∀ d a b x, d < 2 ^ 11 → a < 2 ^ 11 → b < 2 ^ 11 → x < 2 ^ 7 → x ≠ 0 →
    decode (.plain .ctl) (wordOf .plain 0x2B (d * 2 ^ 29 + a * 2 ^ 18 + b * 2 ^ 7 + x)) = .error 0x03

/-- 04 R109 to R111, R100: the words that change the program counter. -/
def Obligations.ControlFlowWords : Prop :=
  ∀ (s w : State) (t c : Nat) (h : Hdr) (d a k off : Nat), CtlGoes s t c h w →
    let x := s.sreg t c a
    let r := s.sreg t c 31
    let pc := (s.cc t c).pc
    let m : Word := BitVec.ofNat 64 off
    let here := (BitVec.ofNat 64 pc + m).toNat
    let u := w.observe t c h.wait
    let sig := (s.tile t).resolveSig h.sig
    let holds := k = 0 ∨ (k = 1 ∧ x.v = 0) ∨ (k = 2 ∧ x.v ≠ 0) ∨ (k = 3 ∧ x.v.slt 0) ∨ (k = 4 ∧ !x.v.slt 0) ∨
      (k = 5 ∧ (0 : Word).slt x.v) ∨ (k = 6 ∧ !(0 : Word).slt x.v)
    let goes (target : Nat) : Out := .next ((u.branch t c target 3).signalNow t 0 c sig none)
    let links (q target : Nat) : Out :=
      .next (((u.linkS t c q target ⟨BitVec.ofNat 64 (pc + 1), false⟩).signalIn t 0 c sig 1 none).branch t c target 3)
    let stops (q : Nat) : Out := .next (s.wordTrap t c 0x31 (BitVec.ofNat 64 q))
    (k ≤ 6 → k = 0 ∨ x.p = false → holds → exec (.b h k a off) s = goes here) ∧
    (k ≤ 6 → x.p = false → ¬ holds → exec (.b h k a off) s = .next ((u.ctlNext t c 1).signalNow t 0 c sig none)) ∧
    (x.p = false → exec (.jmp h a off) s = goes (x.v + m).toNat) ∧
    (r.p = false → exec (.ret h) s = goes r.v.toNat) ∧
    exec (.call h off) s = links 31 here ∧
    (x.p = false → exec (.callr h d a off) s = links d (x.v + m).toNat) ∧
    (x.p = false → x.v ≠ 1 → exec (.loop h a off) s =
      .next (((u.linkS t c a here ⟨x.v - 1, false⟩).signalIn t 0 c sig 1 none).branch t c here 1)) ∧
    (x.p = false → x.v = 1 → exec (.loop h a off) s = .next (ctlWrote s w t c h a 1 ⟨0, false⟩ 0)) ∧
    ((s.cc t c).tlvl < 2 →
      (x.p = true → (0 < k → exec (.b h k a off) s = stops a) ∧ exec (.jmp h a off) s = stops a ∧
        exec (.callr h d a off) s = stops a ∧ exec (.loop h a off) s = stops a) ∧
      (r.p = true → exec (.ret h) s = stops 31))

/-- 02 R30, R32; 11 R304, R307, R308: the wait byte of kinds 001, 010 and 011 (numbers 32 + e, 64 + n). -/
def Obligations.WaitsTakeOneCount : Prop :=
  ∀ (s : State) (t p n e : Nat), n < 64 → e < 6 →
    let o := (s.tile t).semOf n
    let q := (s.tile t).tqOf (tqIndex e p)
    (o.pois.bit = false → (s.tile t).earlierWaiters p (64 + n) < o.count →
      ∃ w, s.testWait t p (64 + n) = .pass w ∧ (w.tile t).semOf n = { o with count := o.count - 1 } ∧
        (∀ m, m ≠ n → (w.tile t).semOf m = (s.tile t).semOf m) ∧ (w.tile t).tq = (s.tile t).tq) ∧
    (o.pois.bit = false → o.count = 0 → ∃ w, s.testWait t p (64 + n) = .hold w ∧ (w.tile t).sem = (s.tile t).sem) ∧
    (o.pois.bit = true →
      s.testWait t p (64 + n) = .poisoned s (statusWord o.count o.pois) o.pois.cause o.pois.origin) ∧
    (q.pois.bit = false → 0 < q.count →
      ∃ w, s.testWait t p (32 + e) = .pass w ∧ (w.tile t).tqOf (tqIndex e p) = { q with count := q.count - 1 } ∧
        (∀ m, m ≠ tqIndex e p → (w.tile t).tqOf m = (s.tile t).tqOf m) ∧ (w.tile t).sem = (s.tile t).sem) ∧
    (q.pois.bit = false → q.count = 0 → ∃ w, s.testWait t p (32 + e) = .hold w ∧ (w.tile t).tq = (s.tile t).tq) ∧
    (q.pois.bit = true →
      s.testWait t p (32 + e) = .poisoned s (statusWord q.count q.pois) q.pois.cause q.pois.origin)

/-- 02 R30, R32; 11 R302, R305, R307: the signal byte of kinds 001, 010 and 011. -/
def Obligations.SignalsAddOneCount : Prop :=
  ∀ (s : State) (t e c n d cause origin : Nat), n < 64 → d < 6 →
    let o := (s.tile t).semOf n
    let q := (s.tile t).tqOf (tqIndex e d)
    let clean := s.signal t e c (64 + n) none
    let bad := s.signal t e c (64 + n) (some (cause, origin))
    let push := s.signal t e c (32 + d) none
    let badPush := s.signal t e c (32 + d) (some (cause, origin))
    let first (p : PField) : PField := if p.bit then p else ⟨true, cause, origin⟩
    (o.count < 65535 → (clean.tile t).semOf n = { o with count := o.count + 1 }) ∧
    (65535 ≤ o.count → ((clean.tile t).semOf n).count = o.count ∧
      (o.pois.bit = true → ((clean.tile t).semOf n).pois = o.pois) ∧
      (o.pois.bit = false → ((clean.tile t).semOf n).pois = ⟨true, 0x32, originOf t e⟩)) ∧
    (bad.tile t).semOf n = { o with pois := first o.pois } ∧
    (q.count < 63 → ((s.tile t).pushes.any fun x => x.prod == e && x.cons == d) = false →
      (push.tile t).tqOf (tqIndex e d) = { q with count := q.count + 1 } ∧ (push.tile t).pushes = (s.tile t).pushes) ∧
    (63 ≤ q.count ∨ ((s.tile t).pushes.any fun x => x.prod == e && x.cons == d) = true →
      (push.tile t).tq = (s.tile t).tq ∧
      (push.tile t).pushes = (s.tile t).pushes ++ [⟨streamOf e c, e, d, (s.tile t).clk⟩]) ∧
    (badPush.tile t).tqOf (tqIndex e d) = { q with pois := first q.pois } ∧
    (badPush.tile t).pushes = (s.tile t).pushes

/-- 02 R41, R44, R45: the prefixes in a control-core context and in a ring-fed engine. -/
def Obligations.PrefixesAreLatched : Prop :=
  ∀ (s : State) (t c : Nat) (h : Hdr) (ext scope order sink clear : Nat),
    (s.cur = .ctl t c →
      let x := s.cc t c
      let l := x.latch
      let past (k : Latch) : Out := .next (s.updCc t c fun x => { x with
        latch := { k with start := some (l.start.getD x.pc) }, pc := x.pc + 1, waitFrom := none, waitDone := false, nextAt := (s.tile t).clk + 1 })
      let again : Out := .next (s.trap t c 0x06 x.pc (s.ctlWord t c) (.ctl false))
      exec (.imx h ext) s = (if l.imx.isSome then again else past { l with imx := some ext }) ∧
      exec (.scp h scope order) s = (if l.scp.isSome then again else past { l with scp := some (scope + 4 * order) }) ∧
      exec (.pmt h sink clear) s = (if l.pmt.isSome then again else past { l with pmt := some (sink + 2 * clear) })) ∧
    (s.cur = .ring t c → ∀ w, s.peek t c = some w → w.w.toNat / 2 ^ 48 % 256 = 0 →
      let x := (s.tile t).engine c
      let l := x.latch
      let past (put : Latch → Latch) : Out := .next ((s.pass t c).updEng t c fun x => { x with
        latch := { put x.latch with start := some (x.latch.start.getD w.off) }, nextAt := ((s.pass t c).tile t).clk + 1 })
      let again : Out := .next (s.stopEngine t c 0x06 w.w w.off false false false [w] (x.again.drop 1))
      exec (.imx h ext) s = (if l.imx.isSome then again else past fun l => { l with imx := some ext }) ∧
      exec (.scp h scope order) s = (if l.scp.isSome then again else past fun l => { l with scp := some (scope + 4 * order) }) ∧
      exec (.pmt h sink clear) s = (if l.pmt.isSome then again else past fun l => { l with pmt := some (sink + 2 * clear) }))

/-- 02 R50 (06 R161 for the vector engine's pipe; 07 R209 and R220 for the matrix engine's signal): NOP in every stream. -/
def Obligations.NopWaitsAndSignals : Prop :=
  (∀ (s w : State) (t c : Nat) (h : Hdr), CtlGoes s t c h w →
    exec (.nop h) s = .next (((w.observe t c h.wait).ctlNext t c 1).signalNow t 0 c ((s.tile t).resolveSig h.sig) none)) ∧
  (∀ (s w : State) (t e : Nat) (h : Hdr), RingGoes s t e h w → e = 1 ∨ e = 4 ∨ e = 5 →
    exec (.nop h) s = .next ((w.begin t e).signalNow t e 0 ((s.tile t).resolveSig h.sig) none)) ∧
  (∀ (s w : State) (t : Nat) (h : Hdr), RingGoes s t 2 h w → (s.tile t).pipeBusy = false →
    exec (.nop h) s = .next (((w.begin t 2).updTile t fun T => { T with lastPipe := some T.clk }).signalNow t 2 0
      ((s.tile t).resolveSig h.sig) none)) ∧
  (∀ (s w : State) (t : Nat) (h : Hdr), RingGoes s t 3 h w →
    exec (.nop h) s = .next (mtxDid s w t h (some (0, -1)) 1 fun _ u => u)) ∧
  (∀ (env : DecEnv) (wait sig opnd : Nat), wait < 256 → sig < 256 → opnd < 2 ^ 40 → syncOk env 0xFF wait sig = true →
    let word := wordOf ⟨wait, sig, none, none⟩ 0xFF opnd
    ((env.imx.isSome ∨ env.scp.isSome ∨ env.pmt.isSome) → decode env word = .error 0x07) ∧
    (env.imx = none → env.scp = none → env.pmt = none →
      (opnd ≠ 0 → decode env word = .error 0x03) ∧ (opnd = 0 → decode env word = .ok (.nop ⟨wait, sig, none, none⟩))))

/-- 16 R422, R423, R426; 02 R47; 04 R95; 16 R434: the words and fetches that trap. -/
def Obligations.TrapsAreTaken : Prop :=
  ∀ (s : State) (t c : Nat), s.cur = .ctl t c → s.bad = none →
    let x := s.cc t c
    let first := x.latch.start.getD x.pc
    let p := if x.latch.start.isSome then 4096 else 0
    (∀ (w : State) (h : Hdr) (v code : Nat), CtlGoes s t c h w →
      (x.tlvl < 2 → ∃ u, exec (.trap h v code) s = .next u ∧ TrapTaken s u t c code first (s.sreg t c v).v p) ∧
      (x.tlvl = 2 → exec (.trap h v code) s = finish (s.tearDown (s.tile t).ctx 3 code (originOf t 0)
        ((FM.get 0 x.tcause 1).toNat % 256) ((FM.get 0 x.tcause 2).toNat % 256)))) ∧
    (x.tlvl < 2 →
      (∀ n, ∃ u, exec (.wordNotAnInstruction n) s = .next u ∧
        TrapTaken s u t c (if n = 0 then 0x01 else 0x02) first (s.ctlWord t c) p) ∧
      (∃ u, exec (.fetchBeyondCimImage t c) s = .next u ∧ TrapTaken s u t c 0x0A x.pc (BitVec.ofNat 64 x.pc) 0) ∧
      (∃ u v, exec (.cimUncorrectableFetch t c) s = .next u ∧
        TrapTaken v u t c 0x14 x.pc (BitVec.ofNat 64 x.pc) 0 ∧
        ∃ e : LogEnt, v = s.updTile t fun T => { T with
          log := (e :: T.log).take 16, logCount := min (T.logCount + 1) (2 ^ 32 - 1) }))

/-- 16 R427; 04 R122, R123; 14 R388: the words that end a level or a task. -/
def Obligations.LevelsAndTasksEnd : Prop :=
  (∀ (s w : State) (t c : Nat) (h : Hdr), CtlGoes s t c h w →
    let x := s.cc t c
    let sig := (s.tile t).resolveSig h.sig
    let u := w.observe t c h.wait
    (0 < x.tlvl → exec (.tret h) s = .next ((u.updCc t c fun y => { y with
      tcause := FM.set y.tcause y.tlvl 0, pc := (FM.get 0 y.tepc y.tlvl).toNat, tlvl := y.tlvl - 1, latch := .empty
      waitFrom := none, waitDone := false, nextAt := (s.tile t).clk + 3 }).signalNow t 0 c sig none)) ∧
    exec (.done h) s = .next (u.updCc t c fun y => { y with run := .inDone, waitFrom := none, waitDone := false }) ∧
    exec (.ctxscrub h) s = .next ((u.updCc t c fun y => { y with run := .inDone, waitFrom := none, waitDone := false }).updTile t fun T =>
      { T with endSig := some sig }) ∧
    ((∀ f ∈ s.flights, ∀ r v k, f.fl = .sreg t c r v k → f.due ≤ (s.tile t).clk) →
      ∃ y, exec (.hend h) s = .next ((u.signalNow t 0 c sig none).updCc t c fun _ => y) ∧ y.run = .dormant ∧ y.regs = [] ∧
        y.latch = .empty ∧ y.tlvl = 0) ∧
    ((∃ f ∈ s.flights, ∃ r v k, f.fl = .sreg t c r v k ∧ (s.tile t).clk < f.due) →
      ∃ due, exec (.hend h) s = .next ((u.updCc t c fun y => { y with run := .inHend, waitFrom := none, waitDone := false }).fly (.tile t) due
          (.hend t c sig)) ∧ (s.tile t).clk < due ∧ ∀ f ∈ s.flights, ∀ r v k, f.fl = .sreg t c r v k → f.due ≤ due)) ∧
  (∀ (s : State) (t c : Nat) (h : Hdr), s.cur = .ctl t c → s.bad = none → (s.tile t).unmapped h.wait = false →
    (s.tile t).unmapped h.sig = false → (s.cc t c).tlvl = 0 →
    exec (.tret h) s = .next (s.wordTrap t c 0x09 (s.ctlWord t c)))

/-- 04 R113 to R117, R100: the words that feed the engines. -/
def Obligations.RingWords : Prop :=
  ∀ (s w : State) (t c : Nat) (h : Hdr) (d a b e k cnt : Nat), CtlGoes s t c h w →
    let x := s.sreg t c a
    let y := s.sreg t c b
    let r := (s.tile t).ring e
    let push (ws : List Word) (n : Nat) : Out := .next ((((((w.observe t c h.wait).flyTile t 1 (.ringw t e ws)).signalIn t 0 c
      ((s.tile t).resolveSig h.sig) 1 none).putS t c d ⟨BitVec.ofNat 64 (r.free - n), false⟩ 2 0)).ctlNext t c 1)
    let limit : Out := .next (s.wordTrap t c 0x09 (s.ctlWord t c))
    (r.size ≠ 0 → 1 ≤ r.cap →
      (1 ≤ r.free → x.p = false → exec (.ringp h d a e) s = push [x.v] 1) ∧
      (1 ≤ r.free → x.p = true → (s.cc t c).tlvl < 2 → exec (.ringp h d a e) s = .next (s.wordTrap t c 0x31 (BitVec.ofNat 64 a))) ∧
      (r.free = 0 → exec (.ringp h d a e) s = .next s) ∧
      (2 ≤ r.cap → 2 ≤ r.free → x.p = false → y.p = false → exec (.ringp2 h d a b e) s = push [x.v, y.v] 2) ∧
      (2 ≤ r.cap → r.free < 2 → exec (.ringp2 h d a b e) s = .next s) ∧
      (k < r.routines.length → 1 ≤ r.free →
        exec (.fork h e k cnt) s = .next (ctlDid s w t c h 1 fun u => u.flyTile t 1 (.ringFork t e k (cnt + 1)))) ∧
      (k < r.routines.length → r.free = 0 → exec (.fork h e k cnt) s = .next s)) ∧
    (r.size ≠ 0 → exec (.ringq h d e) s = .next (ctlWrote s w t c h d 2 ⟨s.ringState t e, false⟩ 0)) ∧
    ((s.cc t c).tlvl < 2 →
      (r.size = 0 → exec (.ringp h d a e) s = limit ∧ exec (.ringp2 h d a b e) s = limit ∧ exec (.fork h e k cnt) s = limit ∧
        exec (.ringq h d e) s = limit) ∧
      (r.cap < 2 → exec (.ringp2 h d a b e) s = limit) ∧ (r.routines.length ≤ k → exec (.fork h e k cnt) s = limit))

/-- 04 R101, R118, R119, R121; 16 R417: words on objects, handles, the shadow table and system registers. -/
def Obligations.ObjectAndRegisterWords : Prop :=
  ∀ (s w : State) (t c : Nat) (h : Hdr) (d a n v p q k reg : Nat), CtlGoes s t c h w →
    let x := s.sreg t c a
    let o := (w.tile t).semOf n
    let z := (w.tile t).tqOf (8 * p + q)
    let view (y : SObj) : Word := BitVec.ofNat 64 (y.count +
      (if y.pois.bit then 2 ^ 16 + y.pois.cause * 2 ^ 24 + y.pois.origin * 2 ^ 32 else 0))
    let later (fl : Fl) : Out := .next (ctlDid s w t c h 1 fun u => u.flyTile t 1 fl)
    let privileged := 0x82 ≤ reg ∧ reg ≤ 0x8A
    exec (.semset h n v) s = later (.semset t c n v) ∧
    exec (.semrd h n d) s = .next (ctlWrote s w t c h d 3 ⟨view o, false⟩ 0) ∧
    exec (.tokrd h p q d) s = .next (ctlWrote s w t c h d 3 ⟨view z, false⟩ 0) ∧
    exec (.bhmap h k n) s = later (.bhmap t n k) ∧
    (x.p = false → exec (.mtwr h p q a) s = later (.mtwr t p q x.v)) ∧
    (¬ privileged ∨ s.ctlSup t c = true →
      exec (.sysrd h d reg) s = .next (ctlWrote s w t c h d 2 (s.sysreg t c reg) 0) ∧
      (x.p = false ∨ 0x100 ≤ reg → exec (.syswr h a reg) s = later (.sysw t c reg x.v x.p))) ∧
    ((s.cc t c).tlvl < 2 →
      (privileged → s.ctlSup t c = false →
        exec (.sysrd h d reg) s = .next (s.wordTrap t c 0x08 (s.ctlWord t c)) ∧
        exec (.syswr h a reg) s = .next (s.wordTrap t c 0x08 (s.ctlWord t c))) ∧
      (x.p = true → exec (.mtwr h p q a) s = .next (s.wordTrap t c 0x31 (BitVec.ofNat 64 a))) ∧
      (x.p = true → reg < 0x82 → exec (.syswr h a reg) s = .next (s.wordTrap t c 0x31 (BitVec.ofNat 64 a))))

/-- 04 R102, R103; 16 R418 to R420: the system registers as a context reads them. -/
def Obligations.SystemRegisterValues : Prop :=
  ∀ (s : State) (t c : Nat),
    let T := s.tile t
    let x := s.cc t c
    let n64 (n : Nat) : Word := BitVec.ofNat 64 n
    (s.sysreg t c 0x000).v = n64 (T.row + t / 11 * 16 + T.site * 256) ∧
    (s.sysreg t c 0x001).v = n64 (T.ctx + c * 16 + (if s.ctlSup t c then 64 else 0)) ∧
    (s.sysreg t c 0x002).v = n64 T.clk ∧ (s.sysreg t c 0x003).v = n64 T.cimLen ∧ (s.sysreg t c 0x004).v = n64 s.sys.defsig ∧
    (s.sysreg t c 0x008).v = n64 T.hctl ∧
    (∀ e, e < 6 → (s.sysreg t c (0x010 + e)).v = n64 (FM.get 0 T.eflag e)) ∧
    (s.sysreg t c 0x080).v = n64 x.tlvl ∧
    (s.sysreg t c 0x082).v = FM.get 0 x.tcause 1 ∧ (s.sysreg t c 0x086).v = FM.get 0 x.tcause 2 ∧
    (s.sysreg t c 0x083).v = FM.get 0 x.tepc 1 ∧ (s.sysreg t c 0x087).v = FM.get 0 x.tepc 2 ∧
    (s.sysreg t c 0x084).v = FM.get 0 x.tval 1 ∧ (s.sysreg t c 0x088).v = FM.get 0 x.tval 2 ∧
    (s.sysreg t c 0x081).v = FM.get 0 x.tstate 0 ||| (if T.sup then 2 else 0) ∧
    (s.sysreg t c 0x085).v = FM.get 0 x.tstate 1 ||| 2 ∧ (s.sysreg t c 0x089).v = FM.get 0 x.tstate 2 ||| 2 ∧
    (∀ k, k < 3 → (s.sysreg t c (0x090 + 2 * k)).v = (FM.get 0 T.tsa k).setWidth 64 ∧
      (s.sysreg t c (0x091 + 2 * k)).v = ((FM.get 0 T.tsa k) >>> 64).setWidth 64) ∧
    (s.sysreg t c 0x096).v = n64 T.tsatag ∧
    (∀ e, 1 ≤ e → e ≤ 5 →
      (s.sysreg t c 0x08A).v.getLsbD e = (T.engine e).stop ∧ (s.sysreg t c 0x08A).v.getLsbD (24 + e) = (T.engine e).pend) ∧
    (∀ a, a < 32 → s.sysreg t c (0x100 + a) = FM.get RegV.zero T.aregs a) ∧
    (∀ reg, reg < 0x100 → (s.sysreg t c reg).p = false)

/-- 11 R310, R313, R316, R318 to R321; 12 R334: words on objects of the tile and on objects held elsewhere. -/
def Obligations.SynchronisationWords : Prop :=
  ∀ (s w : State) (t c : Nat) (h : Hdr) (d n cause target home : Nat), CtlGoes s t c h w →
    let T := s.tile t
    let u := w.observe t c h.wait
    let sig := T.resolveSig h.sig
    let b := T.barOf n
    let view (k : Nat) (p : PField) : Word := BitVec.ofNat 64 (k + (if p.bit then 2 ^ 16 + p.cause * 2 ^ 24 + p.origin * 2 ^ 32 else 0))
    let later (fl : Fl) : Out := .next (ctlDid s w t c h 1 fun u => u.flyTile t 1 fl)
    let drew (k : Nat) : State := { u with free := k }
    let now := w.tile t
    let ord := scpOrder h 0
    let r := if 2 ≤ ord ∧ scpScope h 0 = 3 then u.releaseSystem T.ctx else u
    let poisons (kind : Nat) : Out :=
      .next (((r.flyTile t 1 (.poison t c kind n cause)).signalIn t 0 c sig 1 none).ctlNext t c 1)
    exec (.synrd h d 0 0 0 0 n) s = .next (ctlWrote s w t c h d 3 ⟨view (now.semOf n).count (now.semOf n).pois, false⟩ 0) ∧
    exec (.synrd h d 0 1 0 0 n) s = .next (ctlWrote s w t c h d 3 ⟨view (now.tqOf n).count (now.tqOf n).pois, false⟩ 0) ∧
    exec (.synrd h d 1 2 0 0 n) s = .next (ctlWrote s w t c h d 3 ⟨BitVec.ofNat 64
      (b.target + b.scope * 2 ^ 16 + b.home * 2 ^ 18 + (if b.init then 2 ^ 22 else 0) + b.gen * 2 ^ 32), false⟩ 0) ∧
    (b.scope = 0 → exec (.synrd h d 0 2 0 0 n) s = .next (ctlWrote s w t c h d 3 ⟨view b.count b.pois, false⟩ 0)) ∧
    (b.scope ≠ 0 → ∃ l k, exec (.synrd h d 0 2 0 0 n) s =
        .next ((drew k).await t c d sig 0x38 l [2, b.homeCol t, 1024 * T.ctx + n, 0]) ∧ 1 ≤ l ∧ l ≤ (if b.scope = 1 then 48 else 160)) ∧
    (h.pmt = some 2 →
      exec (.scrub h 0 0 0 n 0) s = later (.scrub t c 0 n false) ∧ exec (.scrub h 1 0 0 n 1) s = later (.scrub t c 1 n true) ∧
      (b.scope = 0 → exec (.scrub h 2 0 0 n 0) s = later (.scrub t c 2 n false))) ∧
    (h.pmt ≠ some 2 → (s.cc t c).tlvl < 2 → ∀ kind, kind < 3 → ∀ rst,
      exec (.scrub h kind 0 0 n rst) s = .next (s.wordTrap t c 0x36 (s.ctlWord t c))) ∧
    (ord < 2 ∨ s.ctlDrained t c s.nextId = true → r.bad = none →
      exec (.poison h 0 0 0 n cause) s = poisons 0 ∧ exec (.poison h 1 0 0 n cause) s = poisons 1 ∧
      (b.scope = 0 → exec (.poison h 2 0 0 n cause) s = poisons 2) ∧
      (b.scope ≠ 0 → exec (.poison h 2 0 0 n cause) s =
        .next (((r.ctlNext t c 1).sendHome t n 2 cause 0 none sig c b.scope).holdSc t c sig 0x3A ord)) ∧
      (s.colDisabled (tileCol t) = true ∨ (∃ q, FM.find? (s.col (tileCol t)).deques n = some q ∧ q.ctx = T.ctx) →
        ∃ l k, exec (.poison h 4 0 0 n cause) s = .next ((({ r with free := k } : State).post t c sig 0x3A l
          [4, tileCol t, n, cause]).holdSc t c sig 0x3A ord) ∧ 1 ≤ l ∧ l ≤ 160)) ∧
    (2 ≤ ord → s.ctlDrained t c s.nextId = false → ∀ k, k < 3 → exec (.poison h k 0 0 n cause) s = .next s) ∧
    exec (.binitTile h n target) s = later (.binit t c n 0 0 target) ∧
    exec (.binitCol h n target) s = .next ((u.ctlNext t c 1).sendHome t n 1 1 target none sig c 1) ∧
    exec (.binitDev h n target home) s = .next ((u.ctlNext t c 1).sendHome t n 1 (2 + 4 * home) target none sig c 2) ∧
    (∀ va x, va = (s.context T.ctx).cwBlock + 16 * n → s.ctlXlate t va 16 2 2 = none →
      s.translate T.ctx (tileCol t) va 2 2 = .ok x → ∃ l k,
      exec (.cwpost h n d) s = .next (((drew k).post t c sig 0x3C l
        ([n, (s.sreg t c d).v.toNat, (view 0 ⟨(s.sreg t c d).p, 0x37, originOf t 0⟩).toNat, scpOrder h 2] ++ x.nums)).holdSc t c sig
          0x3C (scpOrder h 2)) ∧ 1 ≤ l ∧ l ≤ 260) ∧
    ((scpOrder h 4 < 2 ∨ (s.ctlDrained t c s.nextId = true ∧ scpScope h 0 ≠ 3)) →
      exec (.ctlFence h) s = .next ((u.ctlNext t c 1).signalNow t 0 c sig none)) ∧
    (2 ≤ scpOrder h 4 → s.ctlDrained t c s.nextId = true → scpScope h 0 = 3 → (u.releaseSystem T.ctx).bad = none →
      exec (.ctlFence h) s = .next (((u.releaseSystem T.ctx).ctlNext t c 1).signalNow t 0 c sig none)) ∧
    (s.ctlDrained t c s.nextId = false → 2 ≤ scpOrder h 4 → exec (.ctlFence h) s = .next s)

/-- 05 R137, R138; 14 R379, R384 to R387, R389: words that act through the column, the dispatcher or another tile. -/
def Obligations.BankLaunchAndTileWords : Prop :=
  ∀ (s w : State) (t c : Nat) (h : Hdr) (d a n first count col row full cause cw : Nat), CtlGoes s t c h w →
    let T := s.tile t
    let x := s.context T.ctx
    let u := w.observe t c h.wait
    let sig := T.resolveSig h.sig
    let v := tileAt row col
    let drew (k : Nat) : State := { u with free := k }
    let sends (i : Instr) (op : Nat) (vs : List Nat) : Prop := ∃ l k, exec i s = .next ((drew k).post t c sig op l vs)
    (first + count ≤ x.bsplit →
      (s.colDisabled (tileCol t) = false → sends (.bsflush h 0 0 first count) 0x3E [tileCol t, first, count] ∧
        sends (.bsinv h 0 0 first count) 0x3F [tileCol t, first, count]) ∧
      (s.colDisabled col = false → sends (.bsflush h col 1 first count) 0x3E [col, first, count] ∧
        sends (.bsinv h col 1 first count) 0x3F [col, first, count]) ∧
      (s.colDisabled col = true →
        exec (.bsflush h col 1 first count) s = .next ((u.ctlNext t c 1).signalNow t 0 c sig (some (0x57, originOf t 0))) ∧
        exec (.bsinv h col 1 first count) s = .next ((u.ctlNext t c 1).signalNow t 0 c sig (some (0x57, originOf t 0))))) ∧
    ((∀ k, FM.get 0 x.nw k ≠ 0 → n ≤ FM.get 0 x.nw k) → s.splitRefused T.ctx n = false →
      ∃ l k, exec (.bspset h d n) s = .next (((((drew k).zeroWays T.ctx x.bsplit n).updContext T.ctx fun y =>
        { y with bsplit := n }).putS t c d ⟨BitVec.ofNat 64 x.bsplit, false⟩ 2 0).post t c sig 0x40 l []) ∧ 2 ≤ l ∧ l ≤ 36870) ∧
    ((s.cc t c).tlvl < 2 → (∀ k, FM.get 0 x.nw k ≠ 0 → n ≤ FM.get 0 x.nw k) → s.splitRefused T.ctx n = true →
      exec (.bspset h d n) s = .next (s.wordTrap t c 0x25 (BitVec.ofNat 64 n))) ∧
    ((FM.find? x.sheaves n).isSome → s.openLaunches T.ctx < 64 → ∃ l k, exec (.launch h n 0 cw) s =
      .next ((((drew k).ctlNext t c 1).flyDev l (.launch t T.ctx n none sig (scpOrder h 2 != 0) (scpScope h 2 == 3))).holdSc t c sig 0x41 (scpOrder h 2))) ∧
    ((FM.find? x.sheaves n).isSome → s.openLaunches T.ctx < 64 → ∃ l k, exec (.launch h n 1 cw) s =
      .next ((((drew k).ctlNext t c 1).flyDev l (.launch t T.ctx n (some cw) sig (scpOrder h 2 != 0) (scpScope h 2 == 3))).holdSc t c sig 0x41 (scpOrder h 2))) ∧
    ((FM.find? x.sheaves n).isSome → 64 ≤ s.openLaunches T.ctx → exec (.launch h n 0 cw) s = .next s) ∧
    (row ≤ 10 → x.granted v = true →
      (v ≠ t → sends (.preemptStop h col row) 0x42 [v, 0] ∧ sends (.preemptResume h col row) 0x142 [v, 0] ∧
        (s.ctlXlate t (x.slotVa v) 5242880 2 3 = none →
          sends (.ctxsave h col row full) 0x45 [v, full] ∧
          ((s.tile v).state = .saved → (s.tile v).ctx = T.ctx → (FM.find? s.saved v).isSome →
            sends (.ctxrest h col row) 0x46 [v, 0]))) ∧
      ((s.tile v).ctx = T.ctx → (s.tile v).state = .stopped ∨ (s.tile v).state = .saved →
        (col = tileCol t → exec (.snaprd h d n row col) s = .next (ctlWrote s w t c h d 3 ⟨(s.snapView v).snapReg v n, false⟩ 0)) ∧
        (col ≠ tileCol t → ∃ l k, exec (.snaprd h d n row col) s = .next ((drew k).await t c d sig 0x43 l [v, n])) ∧
        sends (.snapwr h a n row col) 0x44 [v, n, (s.sreg t c a).v.toNat])) ∧
    sends (.ctxkill h cause) 0x48 [cause] ∧
    ((s.cc t c).tlvl < 2 →
      (x.bsplit < first + count → exec (.bsflush h col 1 first count) s = .next (s.wordTrap t c 0x09 (s.ctlWord t c)) ∧
        exec (.bsinv h col 1 first count) s = .next (s.wordTrap t c 0x09 (s.ctlWord t c))) ∧
      (v = t ∨ 10 < row ∨ x.granted v = false →
        exec (.preemptStop h col row) s = .next (s.wordTrap t c 0x09 (s.ctlWord t c)) ∧
        exec (.preemptResume h col row) s = .next (s.wordTrap t c 0x09 (s.ctlWord t c)) ∧
        exec (.ctxsave h col row full) s = .next (s.wordTrap t c 0x09 (s.ctlWord t c))) ∧
      ((s.tile v).state = .running →
        exec (.snaprd h d n row col) s = .next (s.wordTrap t c 0x09 (s.ctlWord t c)) ∧
        exec (.snapwr h a n row col) s = .next (s.wordTrap t c 0x09 (s.ctlWord t c))) ∧
      ((FM.find? x.sheaves n).isNone → exec (.launch h n 0 cw) s = .next (s.wordTrap t c 0x09 (s.ctlWord t c))))

/-- 15 R404 to R412: the translation words. TUNMAP's 0x28 is log entry 14. -/
def Obligations.TranslationWords : Prop :=
  ∀ (s w : State) (t c : Nat) (h : Hdr) (d a b st ret sys inv k : Nat), CtlGoes s t c h w →
    let T := s.tile t
    let x := s.context T.ctx
    let u := w.observe t c h.wait
    let sig := T.resolveSig h.sig
    let va := (s.sreg t c a).v
    let vb := (s.sreg t c b).v
    let clean := (s.sreg t c a).p = false ∧ (s.sreg t c b).p = false
    let drew (k : Nat) : State := { u with free := k }
    let asks (i : Instr) (op : Nat) (vs : List Nat) : Prop := ∃ l k, exec i s = .next ((drew k).await t c d sig op l vs)
    let traps (i : Instr) (cause : Nat) (v : Word) : Prop := exec i s = .next (s.wordTrap t c cause v)
    let entry := s.lookup T.ctx (tileCol t) va.toNat
    let maps := s.mappings T.ctx (tileCol t) va.toNat
    ((s.sreg t c a).p = false →
      (entry = none → exec (.tprb h d a) s = .next (ctlWrote s w t c h d 4 ⟨0, false⟩ 0)) ∧
      (∀ i e, entry = some (i, e) → exec (.tprb h d a) s = .next (ctlWrote s w t c h d 4 ⟨BitVec.ofNat 64
        (1 + entState e * 2 + entKind e * 2 ^ 3 + entPerms e * 2 ^ 5 + entHome e * 2 ^ 8 + ent e 0 4 * 2 ^ 12 +
          entPsum e * 2 ^ 16), false⟩ 0))) ∧
    (clean → x.columns.contains (va.toNat % 16) = true → vb.toNat < (x.part (va.toNat % 16)).2 →
      asks (.trde h d a b k) 0x4A [va.toNat % 16, vb.toNat, k]) ∧
    (s.ctlDrained t c s.nextId = false →
      exec (.tmap h d a b) s = .next s ∧ exec (.tunmap h d a st ret) s = .next s ∧ exec (.tshd h d a b sys inv) s = .next s ∧
      exec (.tld h d a b) s = .next s) ∧
    (s.ctlDrained t c s.nextId = true →
      (clean → s.ctlXlate t va.toNat (16 * tldCount vb) 2 1 = none → tldCheck a b s t c = none →
        ∃ es : List Nat, asks (.tld h d a b) 0x49 (va.toNat :: vb.toNat :: es)) ∧
      (∀ i e, entry = some (i, e) → entState e = 2 → vb.toNat < 8 → clean →
        (∀ f fs, ent e 0 4 = 0 → x.pool4 = f :: fs → ∃ l k, exec (.tmap h d a b) s = .next
          (({ u.setContext T.ctx { u.context T.ctx with pool4 := (u.context T.ctx).pool4.drop 1 } with free := k } : State).await
            t c d sig 0x4B l [va.toNat, vb.toNat, (u.context T.ctx).pool4.headD 0, 0])) ∧
        (∀ f fs, ent e 0 4 = 1 → x.pool64 = f :: fs → ∃ l k, exec (.tmap h d a b) s = .next
          (({ u.setContext T.ctx { u.context T.ctx with pool64 := (u.context T.ctx).pool64.drop 1 } with free := k } : State).await
            t c d sig 0x4B l [va.toNat, vb.toNat, (u.context T.ctx).pool64.headD 0, 1]))) ∧
      (maps ≠ [] → (∀ e ∈ maps, entState e = 0 ∧ (ret = 0 ∨ ent e 0 4 ≤ 1)) → (s.sreg t c a).p = false →
        asks (.tunmap h d a st ret) 0x4C [va.toNat, st, ret]) ∧
      (clean → 0 < vb.toNat → va.toNat + vb.toNat ≤ 2 ^ 56 → asks (.tshd h d a b sys inv) 0x4D [va.toNat, vb.toNat, sys, inv]) ∧
      ((s.cc t c).tlvl < 2 → clean →
        (entry = none → traps (.tmap h d a b) 0x28 va) ∧ (maps = [] → traps (.tunmap h d a st ret) 0x28 va) ∧
        ((∃ e ∈ maps, entState e ≠ 0) → traps (.tunmap h d a st ret) 0x2F va) ∧
        (∀ i e, entry = some (i, e) → (entState e ≠ 2 → traps (.tmap h d a b) 0x2F va) ∧
          (entState e = 2 → ent e 0 4 = 0 → vb.toNat < 8 → x.pool4 = [] → traps (.tmap h d a b) 0x2C va)) ∧
        (vb.toNat = 0 ∨ 2 ^ 56 < va.toNat + vb.toNat → traps (.tshd h d a b sys inv) 0x09 (s.ctlWord t c))))

/-- 16 R428, R436, R437: spills and fills through the save area, self-test, error log. -/
def Obligations.SpillTestAndLogWords : Prop :=
  ∀ (s w : State) (t c : Nat) (h : Hdr) (d f l off eng part idx : Nat), CtlGoes s t c h w →
    let T := s.tile t
    let u := w.observe t c h.wait
    let sig := T.resolveSig h.sig
    let area := s.saveArea t c
    let first := (s.cc t c).latch.start.getD (s.cc t c).pc
    let pages := s.capture T.ctx (tileCol t) (capSpace area.v) (pagesOf (capOff area.v + off) (8 * (l - f + 1)))
    let drew (k : Nat) : State := { u with free := k }
    (s.spillXlate t c f l off 2 = none → ∃ n k, exec (.tspill h f l off) s = .next ((drew k).await t c 0 sig 0x51 n
      (([capSpace area.v, scratchCol area.v t, capOff area.v + off, first, l - f + 1, 0, pages.length] ++
        pages.flatMap fun x => x.1 :: x.2.nums) ++
        (List.range (l - f + 1)).flatMap fun i => [i, (s.sreg t c (f + i)).v.toNat, if (s.sreg t c (f + i)).p then 1 else 0]))) ∧
    (s.spillXlate t c f l off 1 = none → ∃ n k, 4 ≤ n ∧ exec (.tfill h f l off) s = .next ((drew k).await t c f sig 0x52 n
      (([capSpace area.v, scratchCol area.v t, capOff area.v + off, first, l - f + 1, 0, pages.length] ++
        pages.flatMap fun x => x.1 :: x.2.nums) ++ (List.range (l - f + 1)).flatMap fun i => [i, 0, 0, 0]))) ∧
    ((s.cc t c).tlvl < 2 → ∀ cause va,
      (s.spillXlate t c f l off 2 = some (.fault cause va) →
        exec (.tspill h f l off) s = .next (s.wordTrap t c cause (BitVec.ofNat 64 va))) ∧
      (s.spillXlate t c f l off 1 = some (.fault cause va) →
        exec (.tfill h f l off) s = .next (s.wordTrap t c cause (BitVec.ofNat 64 va)))) ∧
    (eng ≠ 0 → s.engIdle t eng = true → ∃ n k, 1 ≤ n ∧ n ≤ 4096 ∧ exec (.stest h d eng part) s =
      .next (((((drew k).ctlNext t c 1).updCc t c fun x => { x with rmt := some ⟨d, sig, 0x53⟩ }).flyTile t n
        (.remote t c ⟨d, sig, 0x53⟩ [eng, part])).updTile t fun U =>
          { U with testing := FM.set U.testing (unitOf eng part) (0, s.tc + n, 0) })) ∧
    (∃ n k, 1 ≤ n ∧ n ≤ 4096 ∧ exec (.stest h d 0 part) s =
      .next (((((drew k).ctlNext t c 1).updCc t c fun x => { x with rmt := some ⟨d, sig, 0x53⟩ }).flyTile t n
        (.remote t c ⟨d, sig, 0x53⟩ [0, part])).updTile t fun U => { U with hold0 := some (T.clk + n) })) ∧
    ((s.cc t c).tlvl < 2 → eng ≠ 0 → s.engIdle t eng = false →
      exec (.stest h d eng part) s = .next (s.wordTrap t c 0x5A (BitVec.ofNat 64 (eng + 8 * part)))) ∧
    (∀ e, T.log[idx]? = some e → exec (.errrd h d idx 0) s = .next (ctlWrote s w t c h d 2 ⟨e.w0, false⟩ 0) ∧
      exec (.errrd h d idx 1) s = .next (ctlWrote s w t c h d 2 ⟨e.w1, false⟩ 0)) ∧
    (T.log.length ≤ idx → ∀ hi, exec (.errrd h d idx hi) s = .next (ctlWrote s w t c h d 2 ⟨0, false⟩ 0)) ∧
    (let counts : Word := BitVec.ofNat 64 (T.logCount + T.log.length * 2 ^ 32 + min T.lasting 255 * 2 ^ 40)
     exec (.errrdSt h d 0) s = .next (ctlWrote s w t c h d 2 ⟨counts, false⟩ 0) ∧
     exec (.errrdSt h d 1) s = .next ((ctlWrote s w t c h d 2 ⟨counts, false⟩ 0).updTile t fun U => { U with log := [] }))

/-- 04 R93, R97: what the control core's words leave alone as they issue, traps at level 0 or 1 included. -/
def Obligations.ControlWordsFrame : Prop :=
  (∀ (s u w : State) (t c : Nat) (h : Hdr) (d a b k m n : Nat), CtlGoes s t c h w →
    (∀ i ∈ [Instr.add h d a b, .sub h d a b, .mul h d a b, .mulh h d a b k, .and h d a b, .or h d a b, .xor h d a b, .andn h d a b,
        .shl h d a b, .shr h d a b k, .rot h d a b, .min h d a b k, .max h d a b k, .clz h d a, .ctz h d a, .popc h d a,
        .addi h d a m, .muli h d a m, .andi h d a m, .ori h d a m, .xori h d a m, .shli h d a n, .shri h d a n k, .li h d m,
        .sext h d a n, .ext h d a m n, .exts h d a m n, .ins h d a m n, .fsh h d a b n, .cmp h d a b k, .seqi h d a m,
        .slti h d a m, .sltui h d a m, .sel h d a b k, .crng h d a b, .semrd h n d, .tokrd h m n d, .errrd h d n k],
      exec i s = .next u → CtlFrame s u t c [d]) ∧
    ((s.sreg t c b).v ≠ 0 ∨ s.dz t c = false → ∀ i ∈ [Instr.div h d a b k, .rem h d a b k], exec i s = .next u →
      ∃ v, CtlFrame s v t c [d] ∧ (u = v ∨ u = v.updTile t fun T => { T with divA := (u.tile t).divA, divB := (u.tile t).divB }))) ∧
  ∀ (s u w : State) (t c : Nat) (h : Hdr) (d a b k m n : Nat), CtlGoes s t c h w → (s.cc t c).tlvl < 2 →
    (∀ i ∈ [Instr.b h k a m, .jmp h a m, .call h m, .callr h d a m, .ret h, .loop h a m, .nop h, .trap h a k, .tret h, .done h, .ringp h d a k,
        .ringp2 h d a b k, .ringq h d k, .fork h k m n, .semset h n m, .bhmap h m n, .mtwr h m n a, .sysrd h d m, .syswr h a m,
        .binitTile h n m, .binitCol h n m, .binitDev h n m k, .launch h n k m, .preemptStop h m n, .preemptResume h m n,
        .ctxkill h k, .bsflush h m a n k, .bsinv h m a n k, .snaprd h d m n k, .snapwr h a m n k, .trde h d a b k,
        .tunmap h d a m k, .tshd h d a b m k, .tprb h d a],
      exec i s = .next u → CtlStays s u t) ∧
    (exec (.stest h d (k + 1) m) s = .next u →
      ∃ v, CtlStays s v t ∧ (u = v ∨ u = v.updTile t fun T => { T with testing := (u.tile t).testing }))

/-- 04 R97, R125; 06 R162, R168; 16 R422, R424, R425; 02 R32; 14 R391: what comes about at a tile when its time has come. -/
def Obligations.TileLandings : Prop :=
  (∀ (s : State) (id due : Nat) (clk : Clk) (fl : Fl), s.bad = none → s.flight? id = some ⟨id, clk, due, fl⟩ →
    (∀ t c r x, fl = .sreg t c r x 0 → r ≠ 0 → ∃ u, exec (.pendingWriteLands id) s = .next u ∧ u.sreg t c r = x ∧
      (∀ d, d ≠ r → u.sreg t c d = s.sreg t c d) ∧ (∀ d, d ≠ c → u.cc t d = s.cc t d) ∧ SameMemory s u ∧ SameDevice s u ∧
      SameOthers s u t ∧ u.flights = s.flights.filter fun f => f.id != id) ∧
    (∀ t c b, fl = .sreg t c 0 RegV.zero b → ∃ u, exec (.pendingWriteLands id) s = .next u ∧
      FM.get 0 (u.tile t).eflag 0 = FM.get 0 (s.tile t).eflag 0 ||| b ∧ u.tile t = { s.tile t with eflag := (u.tile t).eflag }) ∧
    (∀ t r x, fl = .areg t r x 0 → ∃ u, exec (.pendingWriteLands id) s = .next u ∧ u.areg t r = x ∧
      (∀ d, d ≠ r → u.areg t d = s.areg t d) ∧ u.tile t = { s.tile t with aregs := (u.tile t).aregs } ∧ SameOthers s u t) ∧
    (∀ t r m x b, fl = .vreg t r m x b → ∃ u, exec (.pendingWriteLands id) s = .next u ∧
      (∀ i j, i < 16 → j < 64 → lane ((u.tile t).vreg r).v i j =
        if mbit m i j then lane x.v i j else lane ((s.tile t).vreg r).v i j) ∧
      ((u.tile t).vreg r).p = (x.p || (decide (m ≠ fullMask) && ((s.tile t).vreg r).p)) ∧
      (∀ q, q ≠ r → (u.tile t).vreg q = (s.tile t).vreg q) ∧
      FM.get 0 (u.tile t).eflag 2 = FM.get 0 (s.tile t).eflag 2 ||| b) ∧
    (∀ t r m x, fl = .mreg t r m x 0 → ∃ u, exec (.pendingWriteLands id) s = .next u ∧
      (∀ i j, i < 16 → j < 64 → mbit ((u.tile t).mreg r).v i j =
        if mbit m i j then mbit x.v i j else mbit ((s.tile t).mreg r).v i j) ∧
      ((u.tile t).mreg r).p = (x.p || (decide (m ≠ fullMask) && ((s.tile t).mreg r).p)) ∧
      ∀ q, q ≠ r → (u.tile t).mreg q = (s.tile t).mreg q) ∧
    (∀ t e q i x, fl = .qfill t e q i x 0 → ∃ u, exec (.pendingWriteLands id) s = .next u ∧
      ((u.tile t).queue q).ents = ((s.tile t).queue q).ents.map (fun y =>
        if y.idx = i ∧ y.data = none then { y with data := some x } else y) ∧
      ∀ k, k % 1024 ≠ q % 1024 → (u.tile t).queue k = (s.tile t).queue k) ∧
    (∀ t e sig c p, fl = .signal t e sig c p → exec (.pendingWriteLands id) s = .next ((s.land id).signalNow t e c sig p)) ∧
    (∀ t c r v p, fl = .remote t c r [v, p] → r.op = 0 → r.dst ≠ 0 → ∃ u : State, exec (.pendingWriteLands id) s =
      .next ((u.signalNow t 0 c r.sig none).clearRmt t c 0) ∧ u.sreg t c r.dst = ⟨BitVec.ofNat 64 v, p == 1⟩)) ∧
  (∀ (s : State) (t e : Nat) (f : Fault0), s.bad = none → (s.tile t).pendingFault = some (e, f) →
    let w := (s.updEng t e fun y => { y with pend := false }).updTile t fun T => { T with endSig := none }
    let x := s.cc t 0
    (s.takesFaults t = true → ∃ u, exec (.engineFaultDelivery t) s = .next u ∧
      TrapTaken w u t 0 f.cause (x.latch.start.getD x.pc) f.tval (2 ^ 8 + e * 2 ^ 9 + (if f.pfx then 2 ^ 12 else 0) +
        f.roff % 8192 * 2 ^ 16 + (if f.wdone then 2 ^ 30 else 0))) ∧
    (s.takesFaults t = false → exec (.engineFaultDelivery t) s = .next s)) ∧
  (∀ (s : State) (t e : Nat) (f : Fault0), s.bad = none → e ≠ 5 → (s.tile t).efltActs e = true →
    ((s.tile t).engine e).fault = some f →
    (∃ u, exec (.efltRst t e) s = .next u ∧ (u.tile t).engine e = { (s.tile t).engine e with
      stop := false, latch := .empty, waitFrom := none, waitDone := f.wdone && !f.group.isEmpty
      again := f.group ++ ((s.tile t).engine e).again, nextAt := max ((s.tile t).engine e).nextAt (s.tile t).clk }) ∧
    (f.begun = true → ∃ u, exec (.efltSkip t e) s = .next u ∧ (u.tile t).engine e = { (s.tile t).engine e with
      stop := false, latch := .empty, waitFrom := none, waitDone := false, fault := none
      nextAt := max ((s.tile t).engine e).nextAt (s.tile t).clk } ∧ (u.tile t).rings = (s.tile t).rings) ∧
    (f.begun = false → ((s.tile t).engine e).routine = none → ∃ u, exec (.efltSkip t e) s = .next u ∧
      ((u.tile t).ring e).head = (((s.tile t).ring e).head + 1) % (2 * ((s.tile t).ring e).cap))) ∧
  (∀ (s : State) (t q : Nat) (p : PushW), s.bad = none →
    (s.tile t).pushes.find? (fun p => 8 * p.prod + p.cons == q) = some p →
    (((s.tile t).tqOf q).count < 63 → ∃ u, exec (.tokenPushTakesEffect t q) s = .next u ∧
      (u.tile t).tqOf q = { (s.tile t).tqOf q with count := ((s.tile t).tqOf q).count + 1 } ∧
      (u.tile t).pushes = (s.tile t).pushes.erase p) ∧
    (63 ≤ ((s.tile t).tqOf q).count → exec (.tokenPushTakesEffect t q) s = .next s)) ∧
  (∀ (s : State) (t k : Nat) (h : HEntry) (hs : List HEntry), s.bad = none → (s.tile t).hq = h :: hs →
    1 ≤ k → k ≤ 3 → (s.cc t k).run = .dormant → ((s.tile t).hctl.testBit k = true ∨ (s.cc t 0).run = .inDone) →
    (∀ j, 1 ≤ j → j < k → (s.cc t j).run ≠ .dormant ∨ ((s.tile t).hctl.testBit j = false ∧ (s.cc t 0).run ≠ .inDone)) →
    ∃ u, exec (.handlerStart t) s = .next u ∧ (u.tile t).hq = hs ∧ (u.cc t k).run = .running ∧ (u.cc t k).pc = h.pc ∧
      u.sreg t k 1 = ⟨BitVec.ofNat 64 h.off, false⟩ ∧ u.sreg t k 2 = ⟨BitVec.ofNat 64 h.len, false⟩ ∧
      u.sreg t k 3 = ⟨BitVec.ofNat 64 h.origin, false⟩ ∧ u.sreg t k 4 = ⟨h.arg, false⟩ ∧
      (∀ r, 5 ≤ r → u.sreg t k r = RegV.zero) ∧ (u.cc t k).latch = .empty ∧ (u.cc t k).nextAt = (s.tile t).clk + 1 ∧
      (∀ d, d ≠ k → u.cc t d = s.cc t d) ∧ SameMemory s u ∧ SameDevice s u ∧ SameOthers s u t)

/-- 05 R152, R154, R155; 04 R125, R126; 11 R311, R313, R317; 14 R392; 16 R433: arrivals at tiles and home records. -/
def Obligations.ArrivalsAtTilesAndHomes : Prop :=
  (∀ (s : State) (id due : Nat) (clk : Clk) (p : Put), s.bad = none → s.flight? id = some ⟨id, clk, due, .put p⟩ →
    ∀ i ∈ [Instr.putDelivery id, .puthRetry id],
    let c := tileCol p.target
    let U := s.tile p.target
    let n := (p.dst % 64 + p.len + 63) / 64
    let granted := (s.context (s.tile p.t).ctx).grant.testBit p.target
    let refused (cause : Nat) : Prop := exec i s = .next ((s.land id).signalNow p.t 1 0 p.sig (some (cause, originOf p.t 1)))
    (p.written = true → s.tileRuns p.t = true → exec i s = .next ((s.land id).signalNow p.t 1 0 p.sig none)) ∧
    (p.written = false → p.space ≠ 4 →
      (s.colDisabled c = true → refused 0x57) ∧
      (s.colDisabled c = false → U.state = .fenced → refused 0x56) ∧
      (s.colDisabled c = false → U.state ≠ .fenced → granted = false → refused 0x27) ∧
      (s.colDisabled c = false → U.state ≠ .fenced → granted = true →
        (s.receives p = false → exec i s = .next (s.refly id (s.tc + 96) (.put { p with arrived := some (p.arrived.getD s.tc) }))) ∧
        (s.receives p = true → p.kind = 1 → 8 ≤ U.hq.length → exec i s = .next (s.refly id (s.tc + 96) (.put { p with arrived := none }))) ∧
        (s.receives p = true → (p.kind = 1 → U.hq.length < 8) → s.putBehind id p = false → p.order = 0 → p.done ≤ n →
          p.got.length ≤ p.sources →
          s.before ⟨id, p.t, 1, [s.putUnit p], false, true, false, false, p.order, p.scope⟩ = [] →
          ∃ r k m, p.got.length + r ≤ p.sources ∧ p.done + k ≤ n ∧
            let p' : Put := { p with got := p.got ++ (List.range r).map fun j => s.sourceGranule p (p.got.length + j) }
            let u := (List.range k).foldl (fun (v : State) j => v.deliver p' (p.done + j)) ({ s with free := m } : State)
            (∀ j, j < k → p'.hasPart (p.done + j) = true) ∧
            (p.done + k < n → exec i s = .next (u.refly id (s.tc + 1) (.put { p' with done := p.done + k }))) ∧
            (p.done + k = n → ∃ w, exec i s = .next w ∧ w.mem = u.mem ∧ w.pois = u.pois ∧ w.tags = u.tags ∧
              (∀ q, p.sem = some q →
                (w.tile p.target).semOf q = ((u.tile p.target).semOf q).inc (originOf p.t 1)) ∧
              (p.kind = 1 → (w.tile p.target).hq = (u.tile p.target).hq ++ [⟨p.handler, p.dst, p.len, originOf p.t 1, p.arg⟩]) ∧
              ∃ l, s.tc < l ∧ w.flights = (u.refly id l (.put { p' with done := n, written := true })).flights))))) ∧
  (∀ (s : State) (p : Put), p.space ≠ 4 → p.done = 0 → (s.tile p.target).recvOpen = true → (s.tile p.target).state ≠ .saved →
    FM.find? s.saved p.target = none → s.receives p = true) ∧
  (∀ (s : State) (p : Put), p.space ≠ 4 → p.done = 0 → (s.tile p.target).recvOpen = false ∨ (s.tile p.target).state = .saved →
    s.receives p = false) ∧
  (∀ (s : State) (p : Put) (i : Nat), s.Canonical → p.space ≠ 4 → p.kind ≠ 2 →
    p.got = (List.range p.sources).map (fun j => s.sourceGranule p j) →
    let lo := if i = 0 then 0 else 64 * i - p.dst % 64
    let hi := min p.len (64 * (i + 1) - p.dst % 64)
    (∀ j, lo ≤ j → j < hi → memGet (s.deliver p i).mem (spBase p.target + p.dst + j) = memGet s.mem (spBase p.t + p.src + j)) ∧
    SameBytesBut s (s.deliver p i) (spBase p.target + p.dst + lo) (hi - lo) ∧ SameDevice s (s.deliver p i) ∧
    (lo < hi → (∃ j, lo ≤ j ∧ j < hi ∧ s.poisAt (spBase p.t + p.src + j) = true) →
      (s.deliver p i).poisAt (spBase p.target + p.dst + lo) = true)) ∧
  (∀ (s : State) (id due t slot e sig c : Nat) (clk : Clk) (r : HomeRec), s.bad = none → (s.tile t).state ≠ .saved →
    s.flight? id = some ⟨id, clk, due, .home t slot 0 e 0 none sig c⟩ →
    let b := (s.tile t).barOf slot
    let dc := if b.scope = 2 then b.home else tileCol t
    let key := 1024 * (s.tile t).ctx + slot
    let x := r.slot
    s.colDisabled dc = false → FM.find? (s.col dc).homes key = some r → x.pois.bit = false →
    ∃ u, exec (.homeArrival id) s = .next u ∧
      (x.init = true → x.count + 1 ≠ x.target →
        FM.find? (u.col dc).homes key = some { r with slot := { x with count := x.count + 1 } } ∧
        u.flights = s.flights.filter fun f => f.id != id) ∧
      (x.init = true → x.count + 1 = x.target →
        FM.find? (u.col dc).homes key = some { r with slot := { x with count := 0, gen := (x.gen + 1) % 65536 } } ∧
        ∀ p ∈ r.parts, ∃ f ∈ u.flights, f.fl = .update p slot ((x.gen + 1) % 65536) none) ∧
      (x.init = false →
        FM.find? (u.col dc).homes key = some { r with slot := { x with pois := ⟨true, 0x33, originOf t e⟩ } } ∧
        ∀ p ∈ r.parts, ∃ f ∈ u.flights, f.fl = .update p slot x.gen (some ⟨true, 0x33, originOf t e⟩))) ∧
  (∀ (s : State) (id due t slot gen : Nat) (q : Option PField) (clk : Clk), s.bad = none →
    s.flight? id = some ⟨id, clk, due, .update t slot gen q⟩ →
    let b := (s.tile t).barOf slot
    let told : PField := match q with
      | none => b.pois
      | some f => if f.bit = false then .clean else if b.pois.bit = true then b.pois else f
    ((s.tile t).recvOpen = true → (s.tile t).state ≠ .saved → FM.find? s.saved t = none →
      (∀ f ∈ s.flights, ∀ p, f.fl = .put p → p.arrived = none) → ∃ u, exec (.homeUpdate id) s = .next u ∧
      (u.tile t).barOf slot = { b with gen := gen, pois := told } ∧
      (∀ k, k ≠ slot → (u.tile t).barOf k = (s.tile t).barOf k) ∧ SameMemory s u ∧ SameDevice s u ∧ SameOthers s u t) ∧
    ((s.tile t).recvOpen = false ∨ (s.tile t).state = .saved → exec (.homeUpdate id) s = .next s)) ∧
  (∀ (s : State) (t v dst sig addr key col n : Nat) (e : Word) (dl : Option Nat) (armed : Bool) (scope order : Nat), s.bad = none →
    ((s.tile t).engine 1).hold = .mwait dst sig e addr key col armed dl n scope order →
    let free (u : State) : Prop := ∀ c, ∀ m ∈ (u.col c).monitors, m.1 ≠ t
    (armed = true → ∃ u, exec (.monitorWake t v) s = .next u ∧ free u ∧
      ((u.tile t).engine 1).hold = .mwait dst sig e addr key col false none 0 scope order ∧
      ∃ f ∈ u.flights, ∃ a : Access, f.fl = .access a ∧ s.tc < f.due ∧ a.t = t ∧ a.op = 0x28 ∧ a.dst = dst ∧ a.sig = sig ∧
        a.stage = 1 ∧ a.result = ⟨BitVec.ofNat 32768 (v % 2 ^ 64), decide (2 ^ 64 ≤ v)⟩) ∧
    (armed = true → dl ≠ none → ∃ u : State, exec (.mwaitTimeout t) s = .next (u.signalNow t 1 0 sig none) ∧ free u ∧
      ((u.tile t).engine 1).hold = .none ∧ u.areg t dst = ⟨e, false⟩ ∧ ∀ d, d ≠ dst → u.areg t d = s.areg t d) ∧
    (armed = false → ∃ u, exec (.monitorRetry t) s = .next u ∧
      ((u.tile t).engine 1).hold = .mwait dst sig e addr key col false dl 0 scope order ∧
      ∃ f ∈ u.flights, ∃ a : Access, f.fl = .access a ∧ f.due = s.tc + 1 ∧ a.t = t ∧ a.op = 0x28 ∧ a.dst = dst ∧ a.stage = 0 ∧
        a.keys = [(addr, 0)] ∧ a.size = 8 ∧ a.scope = scope ∧ a.order = order)) ∧
  (∀ (s : State) (id due : Nat) (clk : Clk) (a : Access), s.bad = none → s.flight? id = some ⟨id, clk, due, .access a⟩ →
    7 ≤ a.op → a.op ≤ 0xA → a.stage = 1 → a.space ≠ 3 → s.tileRuns a.t = true →
    ∃ u : State, exec (.accessResponse id) s = .next (u.signalNow a.t 1 0 a.sig a.pois) ∧
      u.areg a.t a.dst = ⟨a.result.v.setWidth 64, a.result.p⟩ ∧ (∀ d, d ≠ a.dst → u.areg a.t d = s.areg a.t d) ∧
      u.flights = s.flights.filter fun f => f.id != id)

/-- 08 R233, R242, R245; 09 R252, R262, R264, R265; 10 R278, R292, R295, R299; 13 R355, R356: units that work on their own. -/
def Obligations.UnitsTakeTheirTurns : Prop :=
  (∀ (s : State) (t k : Nat) (c : XCmd), s.bad = none → FM.find? (s.tile t).xcmds k = some c →
    let x (u : State) : Option XCmd := FM.find? (u.tile t).xcmds k
    (∀ cause a, (s.tile t).startRoutes c = .error (cause, a) → ∃ u : State,
      exec (.arrayWorkStart t k) s = .next (u.signalNow t 4 0 c.sig (some (cause, originOf t 4))) ∧ x u = none) ∧
    (∀ rs, (s.tile t).startRoutes c = .ok rs → ∃ u c', exec (.arrayWorkStart t k) s = .next u ∧ x u = some c' ∧
      c'.started = some (s.tc, c.landed) ∧ c'.routes = rs ∧ c'.counted = true ∧ c'.landed = c.landed ∧ c'.sig = c.sig ∧
      SameMemory s u ∧ SameDevice s u ∧ SameOthers s u t) ∧
    (∀ st, c.started = some st → c.vs.length ≤ c.landed → c.audits = [] → c.held = none →
      (s.signalLater t 4 c.sig c.pois = none →
        exec (.vectorRowsLand t k) s = .next ((s.dropXcmd t k).signalNow t 4 0 c.sig c.pois)) ∧
      (∀ m, s.signalLater t 4 c.sig c.pois = some m →
        exec (.vectorRowsLand t k) s = .next ((s.setXcmd t k { c with held := some m }).signalNow t 4 0 c.sig c.pois))) ∧
    (∀ st, c.started = some st → c.landed + 1 < c.vs.length → ∃ u c', exec (.vectorRowsLand t k) s = .next u ∧ x u = some c' ∧
      c'.landed = c.landed + 1 ∧ c'.started = c.started ∧ c'.vs = c.vs ∧ SameDevice s u) ∧
    (1 < c.slots → exec (.digitalRouteStep t k) s = .next (s.setXcmd t k { c with slots := c.slots - 1 })) ∧
    (∀ i a rest img ps v, (i = Instr.audit t k ∨ (i = .auditOverdue t ∧ (s.tile t).auditOverdue s.tc = some k)) →
      c.audits = a :: rest →
      s.xbrRead t (((s.arrayOf t c a).image).getD 0) (256 * depthRows (s.arrayOf t c a).depth) = (.ok (img, ps), v) →
      v.bad = none → ∃ u : State, exec i s = .next u ∧
        (true ∈ ps → u.array t a = v.array t a ∧ (c.landed < c.vs.length → x u = some { c with
          audits := c.audits.filter (fun b => b != a), pois := some (c.pois.getD (0x37, originOf t 4)) })) ∧
        (true ∉ ps → (u.array t a).audits = (v.array t a).audits + 1 ∧
          ((u.array t a).amis = (v.array t a).amis + 1 ∨ ((u.array t a).amis = (v.array t a).amis ∧ (u.array t a).cert = (v.array t a).cert)) ∧
          ((u.array t a).cert ≠ (v.array t a).cert → (u.array t a).cert.cstate = 2 ∧ (u.array t a).cert.lapse = 4)))) ∧
  (∀ (s : State) (t k : Nat) (w : CalW), s.bad = none → FM.find? (s.tile t).xcmds k = none → FM.find? (s.tile t).xcal k = some w →
    let begun (cc : Nat) : Prop := exec (.arrayWorkStart t k) s = .next (s.setCal t k { w with started := some s.tc, cc := cc, pulses := 0 })
    let ended (u : State) : State := (u.dropCal t k).signalNow t 4 0 w.sig none
    ((w.op = 0xC ∨ w.op = 0x19) → w.row < 64 * w.vs.getD 1 0 → begun 8) ∧ (w.op = 0x11 → begun 2048) ∧
    ((w.op = 0x14 ∨ w.op = 0x16 ∨ (w.op = 0xF ∧ w.vs.getD 0 0 < 2)) → begun 1000) ∧
    (w.op = 0xB → w.row < 64 → ∃ u, exec (.arrayWorkStart t k) s = .next u ∧ (u.array t w.array).calValid = false ∧
      ((s.array t w.array).cert.cstate = 1 → (u.array t w.array).cert.cstate = 2 ∧ (u.array t w.array).cert.lapse = 3) ∧
      FM.find? (u.tile t).xcal k = some { w with started := some s.tc, cc := 50, pulses := 0 }) ∧
    (w.fit = true → ∃ m f, exec (.calibrationWordComplete t k) s =
      .next (ended ((({ s with free := f } : State)).updArray t w.array fun A => A.calibrate m))) ∧
    (w.fit = false → w.op = 0xB → 64 ≤ w.row → exec (.calibrationWordComplete t k) s = .next (ended s)) ∧
    (w.fit = false → w.op = 0xC → w.row + 1 < 64 * w.vs.getD 1 0 → (s.col (tileCol t)).holders = [] →
      ∃ u w', exec (.calibrationWordComplete t k) s = .next u ∧ FM.find? (u.tile t).xcal k = some w' ∧ w'.row = w.row + 1 ∧
        w'.cc = w.cc + 8 ∧ w'.started = w.started)) ∧
  (∀ (s : State) (t a : Nat), s.bad = none → (∀ p ∈ (s.tile t).xcal, ¬ (p.2.op = calAuto ∧ p.2.array = a)) →
    let A := s.array t a
    let next (v : State) : State := v.updArray t a fun B => { B with nextMeas := B.nextMeas + 2 ^ (B.k + 15) }
    (A.base = none → exec (.automaticMeasurement t a) s = .next (next s)) ∧
    (A.base ≠ none → ∃ u w, exec (.automaticMeasurement t a) s = .next u ∧ FM.find? (u.tile t).xcal s.nextId = some w ∧
      w.op = calAuto ∧ w.array = a ∧ w.started = some s.tc ∧ w.cc = 1000 ∧ w.sig = 0 ∧ u.array t a = (next s).array t a)) ∧
  (∀ (s : State) (t k : Nat) (c : CCmd), s.bad = none → FM.find? (s.tile t).ccmds k = some c →
    let sends : Prop :=
      (s.signalLater t 5 c.sig c.pois = none →
        exec (.copyUnit t k) s = .next (((s.dropCcmd t k).orFlags t 5 c.flags).signalNow t 5 0 c.sig c.pois)) ∧
      (∀ m, s.signalLater t 5 c.sig c.pois = some m →
        exec (.copyUnit t k) s = .next
          (((s.setCcmd t k { c with phase := 3, at' := m }).orFlags t 5 c.flags).signalNow t 5 0 c.sig c.pois))
    (c.phase = 2 → sends) ∧
    (c.phase = 1 → ∃ u, exec (.copyUnit t k) s = .next u ∧
      FM.find? (u.tile t).ccmds k = some { c with phase := 2, at' := (s.tile t).clk + 1 } ∧
      (c.rec' = 0 → u.mem = s.mem ∧ u.pois = s.pois) ∧
      (c.rec' ≠ 0 → ∀ base, (s.tile t).crec = some base → 64 ∣ base →
        u.mem = memPut s.mem (spBase t + base + 64 * (c.rec' - 1)) ([c.status, c.cause] ++ natLe 2 c.origin ++ natLe 4 c.unit ++
          natLe 8 c.bytes ++ [c.flags % 128, c.chan] ++ List.replicate 6 0 ++ natLe 8 c.result ++
          (List.range 16).flatMap fun r => natLe 2 (FM.get 0 c.masked r)))) ∧
    (c.phase = 0 → c.op ≠ 7 → c.op ≠ 0xC → ¬ (c.op = 0xF ∧ c.sub = 1) → c.out = none → (s.tile t).bfBlocked c = false → c.units ≤ c.unit →
      exec (.copyUnit t k) s = .next (s.setCcmd t k { c with
        phase := 1, at' := (s.tile t).clk, ahead := [], out := none, runs := [] })) ∧
    (c.phase = 0 → c.op = 7 ∨ c.op = 0xC →
      ((∃ e ∈ (s.tile t).ccmds, e.2.seq ∈ c.wait) → exec (.copyUnit t k) s = .next s) ∧
      ((∀ e ∈ (s.tile t).ccmds, e.2.seq ∉ c.wait) → c.op = 0xC ∨ c.scope ≠ 3 → sends)) ∧
    (∀ r rs cause va, c.phase = 0 → c.op = 5 → c.out = none → (s.tile t).bfBlocked c = false → c.unit < c.units → c.runs = r :: rs →
      r.fail = some (cause, va, false) → ∃ m, exec (.copyUnit t k) s = .next (({ s with free := m } : State).setCcmd t k { c with
        chan := r.ch, status := 1, cause := cause, origin := originOf t 5, result := va, pois := some (cause, originOf t 5)
        phase := 1, at' := (s.tile t).clk, ahead := [], out := none, runs := [] }))) ∧
  (∀ (s : State) (ch t k j : Nat) (q : List (Nat × Nat × Nat)) (c : CCmd) (r : CRun), s.bad = none →
    (s.nmu ch).queue = (t, k, j) :: q → FM.find? (s.tile t).ccmds k = some c →
    c.runs.find? (fun r => r.unit == j && r.fail.isNone) = some r →
    ((s.nmu ch).test ≠ none → exec (.nmuRun ch) s = .next s ∧ exec (.nmuParityAbort ch) s = .next s) ∧
    ((s.nmu ch).test = none →
      (∀ p, (s.nmu ch).run = none → r.out = none → (s.nmu ch).fenced = false → capSpace (c.cap 0).v ≠ 3 → s.boundProg t c = some p →
        (s.runInputs t c r).2.2.bad = none → ∃ u x, exec (.nmuRun ch) s = .next u ∧
        (u.nmu ch).run = some x ∧ x.prog = p ∧ x.pc = 0 ∧ x.tile = t ∧ x.slot = k ∧ x.unit = j ∧ x.ended = false ∧ x.out = [] ∧
        x.inPos = 0) ∧
      (c.out = none ∨ c.unit ≠ j → ∃ u e, exec (.nmuParityAbort ch) s = .next u ∧ (u.nmu ch).run = none ∧ (u.nmu ch).queue = q ∧
        (u.nmu ch).aborts = (s.nmu ch).aborts + 1 ∧ (u.nmu ch).lastCtx = (s.tile t).ctx ∧ (u.nmu ch).lastAddr = c.xAt j ∧
        (u.nmu ch).test = some (t, s.tc + 4096) ∧ (u.tile t).log = (e :: (s.tile t).log).take 16 ∧ e.w0.toNat % 2 ^ 8 = 0x51 ∧
        FM.find? (u.tile t).ccmds k = some (c.setRun j fun r => { r with fail := some (0x51, c.xAt j, false) }) ∧ SameMemory s u))) ∧
  (∀ (s : State) (c ctx : Nat) (b : Batch), s.bad = none → (s.col c).batch = some b → s.batchCtx c b = some ctx →
    let queue (u : State) : List BfReq := (u.col c).bfQueue
    ((s.context ctx).rec' = [] → exec (.backfillLayerComplete c) s = .next (s.bfAbandon c b)) ∧
    ((s.context ctx).rec' ≠ [] →
      (0 < b.slots → exec (.backfillLayerComplete c) s =
        .next (s.updCol c fun C => { C with batch := some { b with slots := b.slots - 1 } })) ∧
      (b.slots = 0 → s.tc < b.endAt → exec (.backfillLayerComplete c) s = .next s) ∧
      ∀ q o ms a, b.slots = 0 → b.endAt ≤ s.tc → b.vals ≠ [] → b.audits = [] → b.members = q.enq :: ms →
        (queue s).find? (fun r => r.enq == q.enq) = some q → b.outs.find? (fun r => r.1 == q.enq) = some o → b.addr = some a →
        let B := (s.col c).bf q.ctx
        let map := q.mapAt B b.layer
        let next : Option Batch := if ms = [] then none else some { b with members := ms, addr := none, todo := [] }
        (b.todo ≠ [] → s.translateRange q.ctx c a.1 (B.f 2 2) 2 2 = none → ∃ u m, exec (.backfillLayerComplete c) s = finish u ∧
          (u.col c).batch = some { b with todo := b.todo.filter fun i => m / 2 ^ i % 2 != 1 } ∧ queue u = queue s) ∧
        (∀ p v, b.todo = [] → s.translateRange q.ctx c (map + q.t / 4) 1 2 3 = none → s.code q.ctx c map q.t = (some (1, p), v) →
          (v.setCode q.ctx c map q.t 2).bad = none → ∃ u, exec (.backfillLayerComplete c) s = .next u ∧
          (u.col c).batch = next ∧ u.mem = (v.setCode q.ctx c map q.t 2).mem ∧
          (b.layer = q.g → queue u = (queue s).filter fun r => r.enq != q.enq) ∧
          (b.layer ≠ q.g → queue u = (queue s).map fun r => if r.enq = q.enq then { r with next := b.layer + 1, state := 1 } else r)))) ∧
  (∀ (s : State) (c wd : Nat) (q : BfReq) (qs : List BfReq) (as rs : List Nat) (ins : List (Nat × List Nat × Bool)), s.bad = none →
    (s.col c).batch = none → (s.col c).nextBatch = q :: qs →
    let B := (s.col c).bf q.ctx
    let t := B.tileOf q.next
    wd = xwidth ((s.tile t).array (B.group q.next 0 0).1).enc → as = B.arrays q.next wd →
    s.layerBad q.ctx t wd B as = none → (∀ a ∈ as, (s.tile t).arrayBusy s.tc a = false ∧ (s.tile t).arrayAwaited s.nextId a = false) →
    (s.col (tileCol t)).holders = [] → routesOf (s.tile t) (B.entry q.next 3 1) as = .ok rs →
    s.hidden c (512 * B.f 1 1) (q :: qs) = .ok (ins, []) →
    ∃ u b, exec (.backfillBatch c) s = .next u ∧ (u.col c).batch = some b ∧ b.members = (q :: qs).map (fun r => r.enq) ∧
      b.layer = q.next ∧ b.tile = t ∧ b.arrays = as ∧ b.routes = rs ∧ b.inputs = ins ∧
      b.endAt = s.tc + as.foldl (fun m a => max m ((1152 * (qs.length + 1) * (B.chunks q.next wd a).length + 4) / 5)) 0 + 6 ∧
      (∀ r ∈ (u.col c).bfQueue, r.enq ∈ b.members → r.state = 2))

/-- 11 R325; 15 R402; 16 R430 to R435; 17 R438 to R441, R444, R445: errors and repair. -/
def Obligations.ErrorsAndRepair : Prop :=
  (∀ (s : State) (t n fails : Nat), s.bad = none → t < 176 → s.tileRuns t = true → 0 < fails → (n < 9 ∨ (16 ≤ n ∧ n < 20)) →
    let eng := if 16 ≤ n then 2 else if 7 ≤ n then 3 else n
    ((FM.find? (s.tile t).testing n).isSome = true → exec (.checkerMismatch t n fails) s = .next s) ∧
    (FM.find? (s.tile t).testing n = none → (n = 0 → s.pendingS t ≠ []) → ∃ (u : State) (e : LogEnt) (id : Nat),
      exec (.checkerMismatch t n fails) s = .next u ∧ e.w0.toNat % 2 ^ 8 = 0x13 ∧ e.w0.toNat / 2 ^ 8 % 2 ^ 16 = originOf t eng ∧
      (n ≠ 3 → e.w0.toNat / 2 ^ 29 % 2 ^ 4 = 0) ∧
      (u.tile t).log = (e :: (s.tile t).log).take 16 ∧ (u.tile t).logCount = min ((s.tile t).logCount + 1) (2 ^ 32 - 1) ∧
      FM.find? (u.tile t).testing n = some (4 * min fails 3 + 1, s.tc + 4096, id) ∧ (n = 0 → ∃ c, (id, c) ∈ s.pendingS t) ∧
      u.tile t = { s.tile t with log := (u.tile t).log, logCount := (u.tile t).logCount, testing := (u.tile t).testing } ∧
      u.flights = s.flights ∧ SameMemory s u ∧ SameDevice s u ∧ SameOthers s u t)) ∧
  (∀ (s : State) (t n m i dl id : Nat), s.bad = none → t < 176 → n < 64 → m < 4 → i < 4 →
    FM.find? (s.tile t).testing n = some (4 * m + i, dl, id) →
    let fresh := (FM.get [] (s.tile t).verdicts n).filter fun v => decide (s.tc < v + 2 ^ 30)
    (m = 0 → exec (.selfTestVerdict t n 0) s = .next s) ∧
    (0 < m → 0 < i → i ≤ m → n ≠ 3 → fresh.length < 2 →
      (i < m → ∃ u, exec (.selfTestVerdict t n 0) s = .next u ∧ FM.find? (u.tile t).testing n = some (4 * m + (i + 1), s.tc + 4096, id) ∧
        (u.tile t).verdicts = (s.tile t).verdicts ∧ (u.tile t).lasting = (s.tile t).lasting ∧ (u.tile t).state = (s.tile t).state ∧
        u.flights = s.flights ∧ SameMemory s u ∧ SameDevice s u ∧ SameOthers s u t) ∧
      (i = m → m < 3 → ∃ u, exec (.selfTestVerdict t n 0) s = .next u ∧ FM.find? (u.tile t).testing n = none ∧
        FM.get [] (u.tile t).verdicts n = fresh ++ [s.tc] ∧ (u.tile t).lasting = (s.tile t).lasting ∧ (u.tile t).state = (s.tile t).state ∧
        u.flights = s.flights ∧ SameMemory s u ∧ SameDevice s u ∧ SameOthers s u t) ∧
      (i = m → m = 3 → 16 ≤ n → ((s.tile t).engine 2).stop = false → ∃ u f, exec (.selfTestVerdict t n 0) s = .next u ∧
        FM.find? (u.tile t).testing n = none ∧ FM.get [] (u.tile t).verdicts n = fresh ++ [s.tc] ∧ ((u.tile t).engine 2).stop = true ∧
        ((u.tile t).engine 2).pend = true ∧ ((u.tile t).engine 2).fault = some f ∧ f.cause = 0x13 ∧ f.tval = (s.tile t).testWord n)) ∧
    (∀ w, 0 < m → 0 < i → i ≤ m → n = 3 → (s.tile t).window = some w → w.replays < 2 →
      fresh.length < (if 0 < w.replays then 3 else 2) → (∀ c, (s.tile t).mcmd = some c → c.win = w.id) →
      ∃ u, exec (.selfTestVerdict t n 0) s = .next u ∧ (u.tile t).mcmd = none ∧
        (u.tile t).rowMask = w.mask ∧ (u.tile t).rowMaskP = w.maskP ∧
        (u.tile t).window = some { w with kept := [], left := w.kept ++ w.left, flags := 0, replays := w.replays + 1 } ∧
        ∀ p ∈ w.shadow, (∀ q ∈ w.shadow, q.1 = p.1 → q = p) → (u.tile t).accOf p.1 = p.2) ∧
    ((s.tile t).state ≠ .fenced → s.colDisabled (tileCol t) = false → (∀ l ∈ s.launches, l.cw = none) →
      ∃ u, exec (.selfTestVerdict t n 1) s = .next u ∧ (u.tile t).state = .fenced ∧
        setHas u.sys.siteFenced (16 * tileCol t + (s.tile t).site) = true)) ∧
  (∀ (s : State) (t ch t' dl : Nat), s.bad = none → t < 176 → ch < 256 → (s.nmu ch).test = some (t', dl) →
    let fresh := (s.nmu ch).verdicts.filter fun v => decide (s.tc < v + 2 ^ 30)
    (fresh.length < 2 → ∃ u, exec (.selfTestVerdict t (64 + ch) 0) s = .next u ∧
      u.nmu ch = { s.nmu ch with test := none, verdicts := fresh ++ [s.tc] } ∧ SameMemory s u ∧ u.flights = s.flights ∧ u.cols = s.cols) ∧
    ∃ u, exec (.selfTestVerdict t (64 + ch) 1) s = .next u ∧
      u.nmu ch = { s.nmu ch with test := none, verdicts := fresh, fenced := true } ∧ SameMemory s u ∧ u.flights = s.flights ∧ u.cols = s.cols) ∧
  (∀ (s : State) (t i : Nat), s.bad = none → t < 176 →
    let hit (holder : Nat) (p : State → Prop) : Prop := ∃ u, exec (.sramUncorrectableError t holder i) s = .next u ∧ u.mem = s.mem ∧
      u.tags = s.tags ∧ SameOthers s u t ∧ u.flights = s.flights ∧ p u
    (i < 8192 → hit 0 (fun u => setHas (u.tile t).cimBad i = true ∧ u.pois = s.pois ∧
      u.tile t = { s.tile t with cimBad := (u.tile t).cimBad })) ∧
    (i < 8192 → hit 1 (fun u => u.poisAt (spBase t + 64 * i) = true ∧ ∀ a, a / 64 ≠ spBase t / 64 + i → u.poisAt a = s.poisAt a)) ∧
    (i < 1024 → hit 2 (fun u => (u.tile t).vreg i = { (s.tile t).vreg i with p := true } ∧
      ∀ r, r ≠ i → (u.tile t).vreg r = (s.tile t).vreg r)) ∧
    (i < 64 → hit 3 (fun u => (u.tile t).mreg i = { (s.tile t).mreg i with p := true } ∧
      ∀ r, r ≠ i → (u.tile t).mreg r = (s.tile t).mreg r)) ∧
    (i < 64 → hit 4 (fun u => (u.tile t).accOf i = { (s.tile t).accOf i with p := true } ∧
      ∀ r, r ≠ i → (u.tile t).accOf r = (s.tile t).accOf r)) ∧
    (i < 128 → i % 32 ≠ 0 → hit 5 (fun u => u.sreg t (i / 32) (i % 32) = { s.sreg t (i / 32) (i % 32) with p := true })) ∧
    (i < 32 → hit 6 (fun u => u.areg t i = { s.areg t i with p := true } ∧ ∀ r, r ≠ i → u.areg t r = s.areg t r)) ∧
    (∀ n, n < 9 ∨ (16 ≤ n ∧ n < 20) → ∃ e : LogEnt, e.w0.toNat % 2 ^ 8 = 0x37 ∧ e.w0.toNat / 2 ^ 31 % 2 ^ 2 = 1 ∧
      exec (.sramCorrectableError t n) s = .next (s.updTile t fun T =>
        { T with log := (e :: T.log).take 16, logCount := min (T.logCount + 1) (2 ^ 32 - 1) }))) ∧
  (∀ (s : State) (pa : Nat), s.bad = none → pa < 2 ^ 39 → setHas s.badPages (pa / 4096) = false →
    let full := (s.sectors.filter fun k => k * 32 / 2 ^ 17 % 8 == pa / 32 * 32 / 2 ^ 17 % 8).length
    (setHas s.sectors (pa / 32) = true → exec (.hbmUncorrectableRead pa) s = .next s) ∧
    (setHas s.sectors (pa / 32) = false → full < 512 →
      exec (.hbmUncorrectableRead pa) s = .next { s with sectors := setAdd s.sectors (pa / 32) }) ∧
    (setHas s.sectors (pa / 32) = false → 512 ≤ full → ∃ u, exec (.hbmUncorrectableRead pa) s = .next u ∧
      u.badPages = setAdd s.badPages (pa / 4096) ∧ u.sectors = s.sectors.filter fun k => k / 128 != pa / 4096)) ∧
  (∀ (s : State) (r : FRec) (b : Bool) (rs : List (FRec × Bool)), s.bad = none → s.sys.fqWait = (r, b) :: rs →
    (s.sys.fqSpace = false → exec .faultRecordWrite s = .next s) ∧
    (s.sys.fqSpace = true → ∃ (u : State) (r' : FRec), exec .faultRecordWrite s = .next u ∧ u.sys.fqWait = rs ∧
      u.sys.fqTail = (s.sys.fqTail + 1) % (2 * s.sys.fqSize) ∧
      u.mem = (s.put (hostBase + s.sys.fqBase + 32 * (s.sys.fqTail % s.sys.fqSize)) (FRec.toBytes r') false).mem ∧
      r' = { r with seq := (s.col r.col).seqNo + 1 } ∧ (u.col r.col).seqNo = (s.col r.col).seqNo + 1)) ∧
  (∀ (s : State) (c sh w id n : Nat), s.bad = none → c < 16 → sh < 64 → w < 68 → n = FM.get 0 (s.col c).retries id + 1 →
    let k := 68 * sh + w
    let recent := ((FM.get [] (s.col c).wireFails k).filter fun x => decide (s.tc < x + 1572864)) ++ [s.tc]
    (n < 9 → ∃ u, exec (.flitCrcFailure c sh w id) s = .next u ∧ FM.get 0 (u.col c).retries id = n ∧ SameMemory s u ∧ u.flights = s.flights ∧
      (recent.length < 16 → FM.get [] (u.col c).wireFails k = recent ∧ u.turns = s.turns) ∧
      (16 ≤ recent.length → FM.get [] (u.col c).wireFails k = [] ∧ u.turns = .declare c sh w :: s.turns)) ∧
    (∀ f a, 9 ≤ n → id < 2 ^ 40 → s.flight? id = some f → f.id = id → f.fl = .access a → a.stage = 1 → a.op ≠ 0x28 → tileCol a.t = c →
      ∃ u, exec (.flitCrcFailure c sh w id) s = .next u ∧ u.flights = (s.refly id f.due (.access { a with
        data := a.data.map (fun b => (b.1, true)), result := { a.result with p := true } })).flights)) ∧
  (∀ (s : State) (c sh w : Nat), s.bad = none → c < 16 → sh < 64 → w < 68 → s.colDisabled c = false →
    (∃ u, exec (.wireFailureDeclared c sh w) s = .next u ∧ (sh, w) ∈ (u.col c).failedWires ∧
      (u.col c).holders = setAdd (s.col c).holders 1 ∧
      u.col c = { s.col c with failedWires := (u.col c).failedWires, holders := (u.col c).holders, repairAt := (u.col c).repairAt } ∧
      (1 ∉ (s.col c).holders → (u.col c).repairAt = s.tc) ∧ (1 ∈ (s.col c).holders → (u.col c).repairAt = (s.col c).repairAt) ∧
      u.tiles = s.tiles) ∧
    ((s.col c).failedWires = [(sh, w)] → w < 64 → FM.get 0 (s.col c).crep sh = 0 → FM.get 0 (s.col c).badWires sh = 0 →
      ∃ u, exec (.softRepair c) s = .next u ∧ (u.col c).failedWires = [] ∧
        FM.get 0 (u.col c).crep sh = BitVec.ofNat 64 (w + 2 ^ 7) ∧ FM.get 0 (u.col c).badWires sh = 2 ^ w ∧
        u.sys.repairLog = s.sys.repairLog ++ [(c, sh, w)] ∧ (u.col c).fenced = false ∧ (u.col c).holders = (s.col c).holders) ∧
    ((s.col c).retained = false → exec (.repairReapplied c) s = .next s) ∧
    ((s.col c).retained = true → (∀ e ∈ s.sys.repairLog, e.1 ≠ c) → exec (.repairReapplied c) s =
      .next (s.updCol c fun C => { C with retained := false, trained := true })) ∧
    (∀ holder, (holder = 0 ∧ (s.col c).heldState = true) ∨ (holder = 1 ∧ (s.col c).failedWires ≠ []) →
      exec (.stallWireFall c holder) s = .next s) ∧
    (∀ holder, ¬ (holder = 0 ∧ (s.col c).heldState = true) → ¬ (holder = 1 ∧ (s.col c).failedWires ≠ []) →
      ∃ u, exec (.stallWireFall c holder) s = .next u ∧
        u.col c = { s.col c with holders := (s.col c).holders.filter fun h => h != holder } ∧ u.tiles = s.tiles ∧ SameMemory s u)) ∧
  (∀ (s : State) (c way isCol : Nat), s.bad = none → c < 16 → way < 16 → s.colDisabled c = false →
    let used := if isCol ≠ 0 then FM.get 0 (s.col c).spareCols way else FM.get 0 (s.col c).spareRows way
    ∃ u, exec (.bankStoreSpareSwitch c way isCol 0) s = .next u ∧ (u.col c).holders = setAdd (s.col c).holders 1 ∧ SameMemory s u ∧
      (isCol = 0 → used < 64 → FM.get 0 (u.col c).spareRows way = used + 1 ∧ (u.col c).retired = (s.col c).retired) ∧
      (isCol ≠ 0 → used < 8 → FM.get 0 (u.col c).spareCols way = used + 1 ∧ (u.col c).retired = (s.col c).retired) ∧
      ((if isCol ≠ 0 then 8 else 64) ≤ used → (u.col c).spareRows = (s.col c).spareRows ∧ (u.col c).spareCols = (s.col c).spareCols ∧
        (u.col c).retired ≠ []))

/-- 12 R342; 15 R407, R408; 17 R444 to R449; 18 R453, R456, R460, R461: the device as a whole and its links. -/
def Obligations.ResetPowerAndLinks : Prop :=
  (∀ s : State, ∃ u, exec .coldReset s = .next u ∧ u.sys.powered = true ∧
    u.sys.bootStage = 1 ∧ u.sys.bootErr = 0 ∧ u.sys.readyMp = false ∧ u.flights = [] ∧ u.launches = [] ∧ u.ctxs = [] ∧ u.pois = [] ∧
    u.tags = [] ∧ u.sys.keys = [] ∧ u.sys.defsig = s.sys.defsig ∧ u.sys.repairLog = s.sys.repairLog ∧
    (∀ a, memGet u.mem a = if a < hostBase then 0 else memGet s.mem a) ∧
    ∀ t, (u.tile t).bound = false ∧ (u.tile t).ctxs = [] ∧ (u.tile t).vregs = [] ∧ (u.tile t).aregs = []) ∧
  (∀ (s : State) (us : List Turn), s.bad = none → s.sys.powered = true → s.dueInput = none → s.turns = .boot :: us → s.sys.bootErr = 0 →
    let k := s.sys.bootStage
    let at' (u : State) : Nat × Nat × Bool := (u.sys.bootStage, u.sys.bootErr, u.sys.readyMp)
    (k = 0 ∨ 5 ≤ k → step s = .next { s with turns := us, cur := .none }) ∧
    (k = 1 ∨ k = 2 → ∃ u, step s = .next u ∧ (at' u = (k + 1, 0, s.sys.readyMp) ∨ at' u = (k, k, s.sys.readyMp))) ∧
    (k = 3 → s.sys.repairLog = [] → ∃ u, step s = .next u ∧ at' u = (4, 0, s.sys.readyMp) ∧ u.cols = s.cols) ∧
    (k = 4 → ∃ u, step s = .next u ∧ (at' u = (5, 0, true) ∨ at' u = (4, 4, s.sys.readyMp)))) ∧
  (∀ s : State, s.bad = none →
    (s.sys.bootErr = 1 ∨ s.sys.bootErr = 2 → exec .warmReset s = .next s) ∧
    (s.sys.bootErr ≠ 1 → s.sys.bootErr ≠ 2 → ∃ u, exec .warmReset s = .next u ∧
      u.sys.bootStage = (if s.sys.bootStage < 3 then 1 else 3) ∧ u.sys.bootErr = 0 ∧ u.sys.readyMp = false ∧ u.flights = [] ∧ u.launches = [] ∧ u.ctxs = [] ∧
      u.sys.keys = s.sys.keys ∧ u.sys.siteFenced = s.sys.siteFenced ∧ u.sys.repairLog = s.sys.repairLog ∧ u.sys.defsig = s.sys.defsig ∧
      (∀ a, memGet u.mem a = if 2 ^ 40 ≤ a ∧ a < 2 ^ 42 then 0 else memGet s.mem a) ∧
      (∀ c, (u.col c).lines = (s.col c).lines ∧ (u.col c).fenced = (s.col c).fenced ∧ (u.col c).entries = []) ∧
      ∀ t, (u.tile t).bound = false ∧ (u.tile t).ctxs = [])) ∧
  (∀ (s : State) (f : Nat), s.bad = none →
    (s.sys.bootStage ≠ 5 → exec (.functionReady f) s = .next s) ∧
    (s.sys.bootStage = 5 → ∃ u, exec (.functionReady f) s = .next u ∧
      (f < 16 → u = s.updCol f fun C => { C with trained := true }) ∧
      (16 ≤ f → f < 24 → u.sys.readyHbm.testBit (f - 16) = true ∧ ∀ i, i < 32 →
        FM.get 0 u.sys.refresh (32 * (f - 16) + i) = 7020 ∧ FM.get 0 u.sys.bursts (32 * (f - 16) + i) = s.tc + 7020) ∧
      (24 ≤ f → f < 32 → u = { s with sys := { s.sys with readyLink := s.sys.readyLink ||| 2 ^ (f - 24) } }) ∧
      (f = 32 → u = { s with sys := { s.sys with readyHost := true } }) ∧
      (64 ≤ f → f < 240 → u = { s with sys := { s.sys with readyXb := setAdd s.sys.readyXb (f - 64) } }))) ∧
  (∀ (s : State) (temps : List Nat), s.bad = none → ∃ u, exec (.hbmTemperatureRead temps) s = .next u ∧
    (∀ ch x, ch < 256 → temps[ch]? = some x →
      FM.get 0 u.sys.refresh ch = if x ≤ 85 then 7020 else if x ≤ 95 then 3510 else 1755) ∧
    (∀ k, k < 8 → let hot := ((temps.drop (32 * k)).take 32).foldl max 0
      u.sys.hbmThrottle.testBit k = (decide (105 < hot) || (s.sys.hbmThrottle.testBit k && decide (100 < hot)))) ∧
    u.sys.bursts = s.sys.bursts ∧ u.tiles = s.tiles ∧ u.cols = s.cols) ∧
  (∀ (s : State) (ch : Nat), s.bad = none → ch < 256 → exec (.refreshBurst ch) s =
    .next { s with sys := { s.sys with bursts := FM.set s.sys.bursts ch (s.tc + FM.get 7020 s.sys.refresh ch) } }) ∧
  (∀ (s : State) (watts : Nat), s.bad = none → ∃ u, exec (.governorMeasurement watts) s = .next u ∧ u.sys.watts = min watts 65535 ∧
    (3000 < watts → (∃ c, c < 16 ∧ u.sys.throttled.testBit c = true) ∧
      ∀ c, s.sys.throttled.testBit c = true → u.sys.throttled.testBit c = true) ∧
    (2900 ≤ watts → watts ≤ 3000 → u.sys.throttled = s.sys.throttled) ∧
    (watts < 2900 → u.sys.throttled = 0 ∧ ∀ c, c < 16 → 2 ∉ (u.col c).holders) ∧
    u.sys.govMs = (if s.sys.throttled ≠ 0 ∨ s.sys.hbmThrottle ≠ 0 then min (s.sys.govMs + 1) (2 ^ 24 - 1) else s.sys.govMs)) ∧
  (∀ (s : State) (c up : Nat), s.bad = none → c < 16 → ∃ u, exec (.governorThrottlePeriod c up) s = .next u ∧ u.tiles = s.tiles ∧
    u.col c = { s.col c with holders := if up ≠ 0 ∧ s.sys.throttled.testBit c = true then setAdd (s.col c).holders 2
      else (s.col c).holders.filter fun h => h != 2 }) ∧
  (∀ s : State, s.bad = none →
    exec .thermalStopBinding s = .next { s with sys := { s.sys with stopBinding := true } } ∧
    exec .thermalPowerOff s = .next { s with sys := { s.sys with powered := false } }) ∧
  (∀ (s : State) (pa : Nat) (bs : List Nat), s.bad = none → s.Canonical → bs ≠ [] → pa % 64 + bs.length ≤ 64 → pa + bs.length ≤ 2 ^ 39 →
    setHas s.badPages (pa / 4096) = false → (∀ c, c < 16 → ∀ l ∈ (s.col c).lines, l.key = pa / 64 → l.dirty = false) →
    exec (.inboundMemoryAccess pa []) s = .next s ∧
    ∃ u, exec (.inboundMemoryAccess pa bs) s = .next u ∧
      (∀ i, i < bs.length → memGet u.mem (pa + i) = BitVec.ofNat 8 (bs.getD i 0)) ∧ SameBytesBut s u pa bs.length ∧
      ∀ c, c < 16 → ∀ l ∈ (u.col c).lines, l.key ≠ pa / 64) ∧
  (∀ (s : State) (p : Nat), s.bad = none → p < 8 →
    let n := FM.get 0 s.sys.portErrs p + 1
    (n < 8 → exec (.peerFlitCrcFailure p) s = .next { s with sys := { s.sys with portErrs := FM.set s.sys.portErrs p n } }) ∧
    (8 ≤ n → ∃ u, exec (.peerFlitCrcFailure p) s = .next u ∧ p ∈ u.sys.portFailed)) ∧
  (∀ (s : State) (p t c m d : Nat) (r : Remote) (f : Flight), s.bad = none → f ∈ s.flights → r.op = 0x14D →
    f.fl = .remote t c r [2 ^ p, m, d] → s.flights.filter (fun g => g.awaitsPeer p) = [f] →
    (exec (.peerShootdownAcknowledgement p) s = .next (((s.portAlive p).land f.id).answer t c r (BitVec.ofNat 64 m))) ∧
    (f.due ≤ s.tc → ∃ u : State, exec (.peerShootdownTimeout p) s =
      .next ((u.land f.id).answer t c r (BitVec.ofNat 64 (m + 2 ^ p))) ∧ p ∈ u.sys.portFailed ∧ u.flights = s.flights)) ∧
  (∀ (s : State) (p ctx base len inv : Nat), s.bad = none →
    (s.shootBusy ctx base len = true → ∃ u, exec (.peerShootdownRequest p ctx base len inv) s = .next u ∧ u.cols = s.cols ∧
      [p, ctx, base, len, inv] ∈ u.sys.peerReqs) ∧
    (s.shootBusy ctx base len = false → ∃ u, exec (.peerShootdownRequest p ctx base len inv) s = .next u ∧
      ∀ c ∈ (s.context ctx).columns, ∀ k, FM.find? (u.col c).entries k = (FM.find? (s.col c).entries k).map fun e =>
        if entValid e = true ∧ entCtx e = ctx ∧ entVa e < base + len ∧ base < entVa e + 2 ^ entShift e
        then (if inv = 1 then entSet e 8 1 0 else entSet e 9 2 1) else e)) ∧
  (∀ (s : State) (p pa op ty : Nat) (vals : List Nat), s.bad = none →
    (p ∈ s.sys.portFailed → exec (.peerReduceReceive p pa op ty vals) s = .next s) ∧
    (p ∉ s.sys.portFailed → ∀ e va bs, bs = vals.flatMap (fun v => natLe (redSize ty) v) → bs ≠ [] → pa % 64 + bs.length ≤ 64 →
      pa < 2 ^ 39 → s.entryAt pa = some (e, va) → setHas s.badPages (pa / 4096) = false →
      (∀ l ∈ (s.col (entHome e)).lines, l.key = pa / 64 → l.dirty = false) → (s.hbmLine pa va (entKey e)).2 = false →
      let line := (s.hbmLine pa va (entKey e)).1
      let old := (line.drop (pa % 64)).take bs.length
      ∃ u, exec (.peerReduceReceive p pa op ty vals) s = .next u ∧
        u.mem = memPut s.mem (pa / 64 * 64) (xtsBlocks true (s.keyBytes (entKey e)) (va / 64 * 64)
          (line.take (pa % 64) ++ redBytes op ty old bs ++ line.drop (pa % 64 + bs.length)))))

/-- 04 R96, R122; 14 R374 to R380, R388, R395; 15 R413; 18 R451: the dispatcher. -/
def Obligations.LaunchesAndTasks : Prop :=
  (∀ (s : State) (id due t ctx sheaf sig : Nat) (clk : Clk) (cw : Option Nat) (rel sys : Bool), s.bad = none →
    s.flight? id = some ⟨id, clk, due, .launch t ctx sheaf cw sig rel sys⟩ →
    let x := s.context ctx
    (rel = true → s.ctlDrained t 0 id = false →
      exec (.launchAcceptance id) s = .next (s.refly id (s.tc + 1) (.launch t ctx sheaf cw sig rel sys))) ∧
    (rel = false ∨ (s.ctlDrained t 0 id = true ∧ sys = false) →
      (x.tearing = true → exec (.launchAcceptance id) s =
        .next ((s.land id).setContext ctx { x with dropped := (x.dropped + 1) % 2 ^ 32 })) ∧
      (x.tearing = false → ∃ (u : State) (l : Launch), exec (.launchAcceptance id) s = .next ((u.report t 0 sig).clearRmt t 0 0x41) ∧
        u.context ctx = { x with accepted := (x.accepted + 1) % 2 ^ 64 } ∧ u.launches = s.launches ++ [l] ∧
        u.nextLaunch = s.nextLaunch + 1 ∧ l.id = s.nextLaunch ∧ l.ctx = ctx ∧ l.sheaf = sheaf ∧ l.cw = cw ∧ l.killed = none ∧
        l.number = (x.accepted + 1) % 2 ^ 64 ∧ l.nodes = (s.sheafOf l).nodes.map fun n => ⟨0, 0, false, 0, n.prio⟩))) ∧
  (∀ (s : State) (e : List Nat) (ctx sheaf : Nat), s.bad = none → s.sys.sqSize ≠ 0 → s.sys.sqHead ≠ s.sys.sqTail →
    e = s.bytes (hostBase + s.sys.sqBase + 64 * (s.sys.sqHead % s.sys.sqSize)) 64 → ctx = e.getD 0 0 →
    sheaf = e.getD 4 0 % 256 + 256 * (e.getD 5 0 % 256) →
    let x := s.context ctx
    let live : Prop := ctx < 16 ∧ x.rec' ≠ [] ∧ x.tearing = false
    let good : Prop := e.getD 1 0 < 2 ∧ e.getD 3 0 = 0 ∧ ∀ b ∈ e.drop 6, b = 0
    let openOnes := (s.launches.filter fun l => l.ctx == ctx).length
    let passes (u : State) : Prop := exec .submissionEntryRead s = .next u ∧ u.sys.sqHead = (s.sys.sqHead + 1) % (2 * s.sys.sqSize)
    (live → (FM.find? x.sheaves sheaf).isSome = true → good → openOnes < 64 → ∃ u l, passes u ∧ u.launches = s.launches ++ [l] ∧
      l.ctx = ctx ∧ l.sheaf = sheaf ∧ l.number = (x.accepted + 1) % 2 ^ 64 ∧
      l.cw = if e.getD 1 0 = 1 then some (e.getD 2 0) else none) ∧
    (live → (FM.find? x.sheaves sheaf).isSome = true → good → 64 ≤ openOnes → exec .submissionEntryRead s = .next s) ∧
    ((16 ≤ ctx ∨ (x.rec' = [] ∧ x.tearing = false) ∨ (live ∧ FM.find? x.sheaves sheaf = none) ∨ (live ∧ ¬ good)) →
      ∃ u, passes u ∧ u.launches = s.launches ∧ u.ctxs = s.ctxs) ∧
    (ctx < 16 → x.tearing = true → ∃ u, passes u ∧ u.launches = s.launches ∧
      u.context ctx = { x with dropped := (x.dropped + 1) % 2 ^ 32 })) ∧
  (∀ s : State, s.bad = none → s.saved = [] → (∀ t, t < 176 → (s.tile t).evict = false) →
    (s.bestCand = none → s.urgent = none → exec .bindingDecision s = .next s) ∧
    (∀ c k p t, s.bestCand = some c → c.tasks = [(k, p)] → c.tiles = [t] → ∃ u, exec .bindingDecision s = .next u ∧
      (u.tile t).bound = true ∧ (u.tile t).ctx = c.l.ctx ∧ (u.tile t).launch = c.l.id ∧ (u.tile t).node = k ∧ (u.tile t).task = false ∧
      (u.tile t).sup = (((s.sheafOf c.l).node k).sup && (s.context c.l.ctx).supok) ∧ SameOthers s u t ∧
      ∃ f ∈ u.flights, f.fl = .bind t c.l.id k p false ∧ s.tc < f.due)) ∧
  (∀ (s : State) (l : Launch) (k : Nat) (c : Cand), ((s.sheafOf l).node k).gang = none → s.cand? l k = some c →
    c.tasks = [(k, (l.st k).bound)] ∧ (l.st k).bound < ((s.sheafOf l).node k).points ∧ ∃ t, c.tiles = [t] ∧ t < 176 ∧
      s.tileFree t = true ∧ ((s.sheafOf l).node k).place.testBit (tileCol t) = true ∧
      ((s.sheafOf l).node k).place.testBit (16 + tileRow t) = true ∧ (s.context l.ctx).grant.testBit t = true) ∧
  (∀ (s : State) (id k : Nat) (l : Launch), s.bad = none → s.launches = [l] → l.id = id →
    (∃ u, exec (.priorityPromotion id k) s = .next u ∧ ∃ l', u.launches = [l'] ∧ ∀ i n, l.nodes[i]? = some n →
      l'.nodes[i]? = some (if i = k ∧ 1024 ≤ n.pass then { n with cur := min 3 (n.cur + 1), pass := 0 } else n)) ∧
    ((∀ i n, l.nodes[i]? = some n → i ≠ k → n.complete = true) → l.cw = none →
      ∃ u, exec (.nodeCompletion id k) s = .next u ∧ u.launches = [] ∧ SameMemory s u) ∧
    (∀ i n, l.nodes[i]? = some n → i ≠ k → n.complete = false →
      ∃ u l', exec (.nodeCompletion id k) s = .next u ∧ u.launches = [l'] ∧ SameMemory s u ∧
        ∀ i n, l.nodes[i]? = some n → l'.nodes[i]? = some (if i = k then { n with complete := true } else n))) ∧
  (∀ (s : State) (id due t lid k p : Nat) (clk : Clk) (waits : Bool) (l : Launch) (i : Image), s.bad = none →
    s.flight? id = some ⟨id, clk, due, .bind t lid k p waits⟩ → s.launch? lid = some l →
    let n := (s.sheafOf l).node k
    (s.sheafOf l).images[n.image]? = some i →
    ((s.tile t).state = .fenced ∨ s.colDisabled (tileCol t) = true → exec (.taskBind id) s = .next (s.land id)) ∧
    ((s.tile t).state ≠ .fenced → s.colDisabled (tileCol t) = false →
    (s.codeFault l.ctx t i = none → (s.tile t).evict = true → ∃ u, exec (.taskBind id) s = .next u ∧ (u.tile t).task = true ∧
      (u.tile t).state = .stopped ∧ (u.tile t).evict = true ∧ (u.cc t 0).pc = n.entry ∧ u.mem = memPut s.mem (cimBase t) i.head) ∧
    (s.codeFault l.ctx t i = none → (s.tile t).evict = false → ∃ u, exec (.taskBind id) s = .next u ∧ (u.tile t).bound = true ∧ (u.tile t).task = true ∧
      (u.cc t 0).run = .running ∧ (u.cc t 0).pc = n.entry ∧ (u.cc t 0).tlvl = 0 ∧ (u.tile t).cimLen = i.words ∧
      (∀ d, d < 6 → u.sreg t 0 (d + 1) = ⟨BitVec.ofNat 64 ((n.indices p).getD d 0), false⟩) ∧
      (∀ r, 7 ≤ r → u.sreg t 0 r = RegV.zero) ∧ (∀ c, c ≠ 0 → u.cc t c = CtlCtx.dormant) ∧
      (u.tile t).mreg 0 = ⟨BitVec.allOnes 1024, false⟩ ∧ (u.tile t).vregs = [] ∧ (u.tile t).accs = [] ∧ (u.tile t).hctl = 0xE ∧
      (∀ r, (∀ c ∈ i.caps, c.1 % 16 ≠ r) → FM.get CReg.zero (u.tile t).cregs r = CReg.zero) ∧
      u.mem = memPut s.mem (cimBase t) i.head ∧ (u.tile t).sem = (s.tile t).sem ∧ SameOthers s u t) ∧
    (∀ cause va, s.codeFault l.ctx t i = some (.fault cause va) → cause ≠ 0x2B → l.cw = none → ∃ u, exec (.taskBind id) s = .next u ∧
      (u.tile t).bound = false ∧ (u.tile t).task = false ∧ u.mem = s.mem ∧
      u.launches = s.launches.map fun x => if x.id = lid then { x with killed := some (x.killed.getD (cause, originOf t 0)) } else x) ∧
    (∀ e va, s.codeFault l.ctx t i = some (.held e va) ∨ s.codeFault l.ctx t i = some (.fault 0x2B va) → ∃ u, exec (.taskBind id) s = .next u ∧
      u.flights = (s.refly id (s.tc + 1) (.bind t lid k p true)).flights))) ∧
  (∀ (s : State) (t : Nat), s.bad = none →
    ((s.tile t).incoming = [] → exec (.imageStream t) s = .next s) ∧
    (∀ i rest, (s.tile t).incoming = i :: rest → cimBase t ≤ i.addr → i.va % 64 = 0 → i.len = 64 →
      (s.codeLine i.pa i.va i.mkey).2 = false → ∃ u, exec (.imageStream t) s = .next u ∧ (u.tile t).incoming = rest ∧
        u.mem = memPut s.mem i.addr ((s.codeLine i.pa i.va i.mkey).1.take 64)) ∧
    (s.doneReady t = false → exec (.doneCompletion t) s = .next s) ∧
    (s.doneReady t = true → (∀ n, (s.tile t).endSig = some (n + 1) →
        exec (.doneCompletion t) s = .next ((s.updTile t fun T => { T with endSig := some 0 }).signalNow t 0 0 (n + 1) none)) ∧
      ((s.tile t).endSig = none → ∃ u, exec (.doneCompletion t) s = .next u ∧ (u.tile t).bound = false ∧ (u.tile t).task = false ∧
        SameMemory s u ∧ SameOthers s u t ∧ ∀ l, s.launches = [l] → l.id = (s.tile t).launch → ∃ l', u.launches = [l'] ∧
          ∀ i n, l.nodes[i]? = some n →
            l'.nodes[i]? = some (if i = (s.tile t).node then { n with finished := n.finished + 1 } else n))))

/-- 14 R369, R371; 15 R401, R403, R405; 18 R450 to R459: what host software does to the device. -/
def Obligations.HostInterface : Prop :=
  (∀ (s : State) (v : Nat), s.bad = none → s.sys.bootErr = 0 →
    let y := s.sys
    let set (f : Sys) : Out := .next { s with sys := f }
    let legal : Prop := ∃ k, k < 11 ∧ v = 64 * 2 ^ k
    (y.sqSize ≠ 0 → exec (.sqdb v) s = set { y with sqTail := v % (2 * y.sqSize) }) ∧ (y.sqSize = 0 → exec (.sqdb v) s = .next s) ∧
    (y.readyHost = false → exec (.registerWrite 0x10 v) s = set { y with sqBase := v / 4096 * 4096 } ∧
      exec (.registerWrite 0x30 v) s = set { y with fqBase := v / 4096 * 4096 } ∧
      (legal → exec (.registerWrite 0x18 v) s = set { y with sqSize := v } ∧ exec (.registerWrite 0x38 v) s = set { y with fqSize := v }) ∧
      (¬ legal → exec (.registerWrite 0x18 v) s = .next s ∧ exec (.registerWrite 0x38 v) s = .next s)) ∧
    (y.fqSize ≠ 0 → exec (.registerWrite 0x48 v) s = set { y with fqHead := v % (2 * y.fqSize) }) ∧
    (∀ off, 0x400 ≤ off → off + 8 ≤ 0x800 → FM.get 0 y.mbox 12 = 0 → ∃ u, exec (.registerWrite off v) s = .next u ∧
      (∀ i, i < 8 → FM.get 0 u.sys.mbox (off - 0x400 + i) = v / 256 ^ i % 256) ∧
      ∀ k, k < off - 0x400 ∨ off - 0x400 + 8 ≤ k → FM.get 0 u.sys.mbox k = FM.get 0 y.mbox k)) ∧
  (∀ (s : State) (c n v : Nat), s.bad = none → s.sys.bootErr = 0 → c < 16 →
    (n < (s.col c).replayed → exec (.replay c n) s = .next s) ∧
    ((s.col c).replayed ≤ n → ∃ u, exec (.replay c n) s = .next u ∧ (u.col c).replayed = n ∧ SameMemory s u ∧ u.tiles = s.tiles ∧
      ∀ h, h ∈ (u.col c).held ↔ h ∈ (s.col c).held ∧ ∀ q, h.seq = some q → n < q ∨ s.stillHeld c h = true) ∧
    (v / 2 ^ 28 % 2 = 0 → exec (.refill c v) s = .next (s.updCol c fun C =>
      { C with rfFirst := v % 4096, rfCnt := v / 2 ^ 12 % 4096, rfCtx := v / 2 ^ 24 % 16 })) ∧
    (v / 2 ^ 28 % 2 = 1 → (s.col c).rfBusy = false → FM.find? (s.col c).images (v / 2 ^ 24 % 16) = none →
      ∃ u, exec (.refill c v) s = .next u ∧ (u.col c).rfErr = true ∧ (u.col c).rfBad = v % 4096 ∧ (u.col c).entries = (s.col c).entries) ∧
    (v / 2 ^ 28 % 2 = 1 → (s.col c).rfBusy = true → exec (.refill c v) s = .next s) ∧
    (∀ (m : Nat) (bs : List Nat) (q : Bool) (r : State), v / 2 ^ 28 % 2 = 1 → v / 2 ^ 12 % 4096 = 0 → (s.col c).rfBusy = false →
      let x := v / 2 ^ 24 % 16
      let i := v % 4096
      let e := bvOfBytes 128 bs
      let s0 := s.updCol c fun C => { C with rfFirst := i, rfCnt := 0, rfCtx := x, rfErr := false, rfBad := 0 }
      FM.find? (s.col c).images x = some m → m % 4096 ≤ i → i < ((s.context x).part c).2 →
      s0.devGet x c (m / 4096 + 16 * (i - m % 4096)) 16 = (some (bs, q), r) → r.bad = none → (r.col c).rfErr = false →
      (r.badEntry x c i [e] = none → exec (.refill c v) s = .next (r.updCol c fun C =>
        { C with entries := FM.set C.entries (((r.context x).part c).1 + i) (entSet e 4 4 x) })) ∧
      (r.badEntry x c i [e] ≠ none → exec (.refill c v) s = .next (r.updCol c fun C => { C with rfErr := true, rfBad := i })))) ∧
  (∀ (s : State) (i : Instr) (op len : Nat), s.bad = none →
    (i, op, len) ∈ [(Instr.tearDownContext, 2, 4), (.loadMatterKeySlot, 3, 176), (.clearMatterKeySlot, 4, 4), (.loadObject, 5, 24),
      (.clearQuarantine, 6, 16), (.movePageHome, 6, 17), (.attestationQuote, 7, 64)] →
    (FM.get 0 s.sys.mbox 12 = 0 ∨ s.sys.mboxOp ≠ op → exec i s = .next s) ∧
    (FM.get 0 s.sys.mbox 12 ≠ 0 → s.sys.mboxOp = op → s.sys.bootErr = 0 → s.sys.mboxLen ≠ len →
      exec i s = .next (s.mboxEnd 0x0146 []))) ∧
  (∀ (s : State) (st : Nat) (resp : List Nat), st < 65536 → resp.length ≤ 1008 →
    let m (k : Nat) : Nat := FM.get 0 (s.mboxEnd st resp).sys.mbox k
    m 4 + 256 * m 5 = st ∧ m 6 + 256 * m 7 = resp.length ∧ m 12 = 0 ∧ (∀ i, i < resp.length → m (16 + i) = resp.getD i 0) ∧
    s.mboxEnd st resp = { s with sys := { s.sys with mbox := (s.mboxEnd st resp).sys.mbox } }) ∧
  (∀ (s : State) (op sub : Nat) (i : Instr), s.sys.mboxOp = op → s.sys.body 0 = sub →
    (i, op) ∈ [(Instr.createContext, 1), (.tearDownContext, 2), (.loadMatterKeySlot, 3), (.clearMatterKeySlot, 4), (.loadObject, 5),
      (.attestationQuote, 7)] ∨ (i, op, sub) ∈ [(Instr.fillReservePool, 6, 1), (.clearQuarantine, 6, 2), (.movePageHome, 6, 3)] ∨
      (i = .mboxUnknownOpcode ∧ (op = 0 ∨ 7 < op ∨ (op = 6 ∧ (sub = 0 ∨ 3 < sub)))) → s.mboxEvent = i) ∧
  (∀ s : State, s.bad = none → FM.get 0 s.sys.mbox 12 ≠ 0 → s.sys.bootErr = 0 → s.sys.mboxLen ≤ 1008 →
    let y := s.sys
    let ctx := y.body 0
    let ends (i : Instr) (u : State) (st : Nat) (resp : List Nat) : Prop := exec i s = .next (u.mboxEnd st resp)
    exec .mboxUnknownOpcode s = .next (s.mboxEnd 0x0146 []) ∧
    (y.mboxOp = 1 → y.mboxLen = 148 → y.bodyZero 144 4 = true →
      let size (c : Nat) : Nat := y.bodyNat (80 + 2 * c) 2
      (s.recordOk y = false → ends .createContext s 0x0140 []) ∧
      (∀ first : Nat → Nat, s.recordOk y = true → (∀ c, c < 16 → size c ≤ 4096 ∧ s.freePart c (size c) = some (first c)) →
        ∃ u : State, ends .createContext u 0 ((List.range 16).flatMap fun c => natLe 2 (first c)) ∧ s.live ctx = false ∧
          (u.context ctx).rec' = y.bodyBytes 0 80 ∧ (u.context ctx).grant = y.bodyNat 8 24 ∧
          (u.context ctx).supok = decide (y.body 1 = 1) ∧ (u.context ctx).accepted = 0 ∧
          (∀ c, c < 16 → FM.get (0, 0) (u.context ctx).parts c = (first c, size c)) ∧
          (∀ x, x ≠ ctx → u.context x = s.context x) ∧ SameMemory s u)) ∧
    (y.mboxOp = 2 → y.mboxLen = 4 → y.bodyZero 1 3 = true → (s.live ctx = false → ends .tearDownContext s 0x0141 []) ∧
      (s.live ctx = true → (s.tearDown ctx 1 0 0 0 0).bad = none → ends .tearDownContext (s.tearDown ctx 1 0 0 0 0) 0 [])) ∧
    (y.mboxOp = 3 → y.mboxLen = 176 → y.bodyZero 1 3 = true → y.bodyZero 101 3 = true →
      let key := unwrapKey (y.bodyBytes 4 97) (y.bodyBytes 104 72)
      (key = none ∨ s.keyNamed ctx = true → ends .loadMatterKeySlot s 0x0142 []) ∧
      (∀ k, key = some k → s.keyNamed ctx = false →
        ends .loadMatterKeySlot { s with sys := { y with keys := FM.set y.keys ctx (bvOfBytes 512 k) } } 0 [])) ∧
    (y.mboxOp = 4 → y.mboxLen = 4 → y.bodyZero 1 3 = true → (s.keyNamed ctx = true → ends .clearMatterKeySlot s 0x0143 []) ∧
      (s.keyNamed ctx = false → ends .clearMatterKeySlot { s with sys := { y with keys := FM.del y.keys ctx } } 0 [])) ∧
    (y.mboxOp = 5 → y.mboxLen = 24 → y.bodyZero 1 7 = true →
      let pa := y.bodyNat 8 8
      let n := y.bodyNat 16 8
      (s.live ctx = false ∨ s.objHeader pa n = false → ends .loadObject s 0x0130 []) ∧
      (s.live ctx = true → s.objHeader pa n = true → (∀ v ∈ s.objVariants pa, v.2.2.1 + v.2.2.2 ≤ n) →
        ((∀ v ∈ s.objVariants pa, s.sys.defsig &&& v.1 ≠ v.2.1) → ends .loadObject s 0x0131 []) ∧
        (∀ v, (s.objVariants pa).find? (fun v => s.sys.defsig &&& v.1 == v.2.1) = some v →
          let secs := s.objSections pa v.2.2.1 v.2.2.2
          let x := s.loadSections ctx pa secs
          v.2.2.2 % 16 = 0 → (∀ z ∈ secs, 1 ≤ z.1 ∧ z.1 ≤ 6 ∧ z.2.1 = 0 ∧ z.2.2.1 + z.2.2.2 ≤ n) →
            (s.loadError ctx x ≠ 0 → ends .loadObject s (s.loadError ctx x) []) ∧
            (s.loadError ctx x = 0 → x.code = [] →
              let ids := freeSheafIds (s.context ctx).sheaves x.sheaves.length
              ∃ u : State, ends .loadObject u 0 (natLe 2 ids.length ++ [0, 0] ++ ids.flatMap fun i => natLe 2 i) ∧
                (∀ p ∈ List.zip ids x.sheaves, FM.find? (u.context ctx).sheaves p.1 = some ⟨p.2, x.images⟩) ∧ SameMemory s u)))) ∧
    (y.mboxOp = 7 → y.mboxLen = 64 → y.bodyZero 1 15 = true → (s.live ctx = false → ends .attestationQuote s 0x0145 []) ∧
      (s.live ctx = true → ∃ k f, ends .attestationQuote { s with free := f } 0
        (s.quoteBytes ctx (y.bodyBytes 16 48) ++ ecdsaSign Config.deviceKey k (s.quoteBytes ctx (y.bodyBytes 16 48)))))) ∧
  (∀ s : State, s.bad = none → FM.get 0 s.sys.mbox 12 ≠ 0 → s.sys.bootErr = 0 → s.sys.mboxOp = 6 →
    let y := s.sys
    let ctx := y.body 1
    let x := s.context ctx
    let ends (i : Instr) (u : State) (st : Nat) : Prop := exec i s = .next (u.mboxEnd st [])
    (y.body 0 = 1 → y.bodyZero 2 6 = true → y.body 8 < 2 → y.bodyZero 9 3 = true → ∀ n, n = y.bodyNat 12 4 → 1 ≤ n → n ≤ 124 →
      y.mboxLen = 16 + 8 * n →
      let fs := (List.range n).map fun i => y.bodyNat (16 + 8 * i) 8
      let size := if y.body 8 = 0 then 4096 else 65536
      let pool := if y.body 8 = 0 then x.pool4 else x.pool64
      let good : Prop := s.live ctx = true ∧ pool.length + n ≤ 4096 ∧ ∀ f ∈ fs, f % size = 0 ∧ f + size ≤ 2 ^ 39
      (¬ good → ends .fillReservePool s 0x0144) ∧
      (good → ends .fillReservePool (s.setContext ctx (if y.body 8 = 0 then { x with pool4 := x.pool4 ++ fs.map (· / 4096) }
        else { x with pool64 := x.pool64 ++ fs.map (· / 4096) })) 0)) ∧
    (y.body 0 = 2 → y.bodyZero 2 6 = true → y.mboxLen = 16 →
      let f := y.bodyNat 8 8 / 4096
      let held (e : Cap) : Prop := ∃ c, c < 16 ∧ ∃ k, (k, e) ∈ (s.col c).entries ∧ entCtx e = ctx ∧ entHolds e f = true
      ((∀ e, ¬ held e) ∨ s.live ctx = false ∨ y.bodyNat 8 8 % 4096 ≠ 0 ∨ setHas s.badPages f = false → ends .clearQuarantine s 0x0144) ∧
      ((∃ e, held e) → (∀ e, held e → s.shootBusy ctx (entVa e) (2 ^ entShift e) = false) → s.live ctx = true →
        y.bodyNat 8 8 % 4096 = 0 → setHas s.badPages f = true → f < 2 ^ 27 →
        ∃ u : State, ends .clearQuarantine u 0 ∧ u.badPages = s.badPages.filter fun g => g != f)) ∧
    (y.body 0 = 3 → y.bodyZero 2 6 = true → y.mboxLen = 17 →
      let va := y.bodyNat 8 8
      let home := y.body 16
      let entry := x.columns.findSome? fun c => (s.lookup ctx c va).map fun p => p.2
      let ok (e : Cap) : Prop := s.live ctx = true ∧ entVa e = va ∧ entKind e = 0 ∧ entState e = 0 ∧ home < 16 ∧ s.colDisabled home = false
      (entry = none → ends .movePageHome s 0x0144) ∧
      (∀ e, entry = some e → (¬ ok e → ends .movePageHome s 0x0144) ∧
        (ok e → s.shootBusy ctx va (2 ^ entShift e) = false → s.colDisabled (entHome e) = false →
          (∀ l ∈ (s.col (entHome e)).lines, l.ctx = ctx → va ≤ l.va → l.va < va + 2 ^ entShift e → l.dirty = false) →
          ∃ u : State, ends .movePageHome u 0 ∧ u.mem = s.mem ∧
            ∀ c ∈ x.columns, ∀ k, FM.find? (u.col c).entries k = (FM.find? (s.col c).entries k).map fun q =>
              if entMatches q ctx va = true then entSet q 16 4 home else q))))

/-- 07 R206, R209, R216, R220; 08 R232 to R236; 09 R252, R254; 10 R276: what the words of engines 3, 4 and 5 leave alone as they issue. -/
def Obligations.EngineIssueFrame : Prop :=
  ∀ (s u w : State) (t : Nat) (h : Hdr) (a b c d e f g k m n p : Nat),
    let T := s.tile t
    let U := u.tile t
    (RingGoes s t 3 h w →
      ∀ i ∈ [Instr.mringSet h k m n, .mringAdv h k m, .mspmeta h k m n, .mtsel h m, .mtselLq h d, .mgo h a b c d e f g k,
          .mgos h a b c d e f g k, .mtzero h d n, .maccld h d a n, .maccst h d a n, .mcvt h d a n k m p, .maccadd h d a b k m n,
          .mscale h d a k, .mtrd h k n, .mflag h d m, .mrstat h d k, .mtstart h d n, .mtend h, .nop h],
        exec i s = .next u → SameMemory s u ∧ SameDevice s u ∧ SameOthers s u t ∧
          U = { T with eng := U.eng, rings := U.rings, sem := U.sem, tq := U.tq, pushes := U.pushes, bar := U.bar, bpend := U.bpend,
                       know := U.know, ctxs := U.ctxs, queues := U.queues, mcmd := U.mcmd, active := U.active, window := U.window,
                       replays := U.replays, eflag := U.eflag } ∧
          ∀ x, (U.cc x).regs = (T.cc x).regs) ∧
    (RingGoes s t 4 h w →
      (∀ i ∈ [Instr.xcfg h a b c d n, .xmask h a n m, .xpriv h a n, .xprivRel h a n, .xgrp h g a b c, .xringSet h k a b c, .xringAdv h k a b,
          .xringVmask h k, .xmvm h a b c d e f g k, .xmvma h a b c d e f g k, .xclip h a b c, .xstat h a b, .xcsum h a b, .xprogSet h a b c d,
          .xprogRst h a b c d, .xrefMeas h a, .xrefBase h a, .xrefProg h a, .xdrift h a n k b, .xoffw h a b, .xgainw h a b,
          .xcert h a b c d, .xcrd h a b, .xcld h a b, .xfallOff h a n b c, .xfallMan h a n b c, .xfallAuto h a n b c, .xaudit h a n b c d,
          .xrd h a b c d e, .xerase h a, .xeraseRt h a],
        exec i s = .next u → SameMemory s u ∧ SameDevice s u ∧ SameOthers s u t ∧
          U = { T with eng := U.eng, rings := U.rings, sem := U.sem, tq := U.tq, pushes := U.pushes, bar := U.bar, bpend := U.bpend,
                       know := U.know, ctxs := U.ctxs, xcmds := U.xcmds, xcal := U.xcal } ∧
          ∀ x, (U.cc x).regs = (T.cc x).regs) ∧
      (∀ i ∈ [Instr.xremap h a b, .xvfy h a b c d, .xsteep h a b c d e f, .xcal h a],
        exec i s = .next u → SameOthers s u t ∧
          U = { T with eng := U.eng, rings := U.rings, sem := U.sem, tq := U.tq, pushes := U.pushes, bar := U.bar, bpend := U.bpend,
                       know := U.know, ctxs := U.ctxs, xcmds := U.xcmds, xcal := U.xcal, arrays := U.arrays } ∧
          (∀ x, x ≠ a → U.array x = T.array x) ∧ ∀ x, (U.cc x).regs = (T.cc x).regs)) ∧
    (RingGoes s t 5 h w →
      ∀ i ∈ [Instr.cpy h a b, .cpys h a b, .cpyg h a b, .cpygSct h a b, .cpyt h a b, .cpyx h a b, .fill h a b, .pfch h a b, .chksum h a b,
          .sbar h m, .crec h a, .cstat h a b, .cdrain h, .nmuld h a b c n, .nmustat h a b c, .kvgWait h a b, .kvgMask h a b,
          .kvst h a b, .kvout h a b, .kvin h a b, .bfq h a b c, .bfctlLoad h a b, .bfctlStat h a b, .bfctlDrain h a, .bfctlPause h a,
          .bfctlRun h a],
        exec i s = .next u → SameMemory s u ∧ SameDevice s u ∧ SameOthers s u t ∧
          U = { T with eng := U.eng, rings := U.rings, sem := U.sem, tq := U.tq, pushes := U.pushes, bar := U.bar, bpend := U.bpend,
                       know := U.know, ctxs := U.ctxs, ccmds := U.ccmds, cseq := U.cseq } ∧
          ∀ x, (U.cc x).regs = (T.cc x).regs)

/-- 07 R199 to R201, R209, R211 to R215, R219, and NOP (02 R50): the matrix words beside MGO and MGOS. -/
def Obligations.MatrixWords : Prop :=
  ∀ (s w : State) (t : Nat) (h : Hdr) (d a b k n base mode meta' rs ty rnd sat f sel mask clr : Nat), RingGoes s t 3 h w →
    let T := s.tile t
    let D := T.oprD k
    let ring (base nslots head mode mt : Nat) : Nat := base + nslots * 2 ^ 8 + head * 2 ^ 16 + mode * 2 ^ 22 + mt * 2 ^ 24
    let sets (v : Nat) : Out := .next (mtxDid s w t h none 1 fun _ u => u.flyTile t 1 (.mring t k v))
    let head (q : Nat) : VVal := ((T.queue q).head?).getD VVal.zero
    let tile (r : Nat) : TVal := T.accOf (accIdx r)
    let upTo (i : Instr) (r m : Nat) : Prop :=
      (s.accPendingM t true (accIdx r) ((accIdx r : Int) + m - 1) = true → exec i s = .next s)
    let settled (r m : Nat) : Prop := s.accPendingM t true (accIdx r) ((accIdx r : Int) + m - 1) = false
    let room (q : Nat) : Prop := ((T.queue q).ents.length < 4)
    let fills (i : Instr) (q : Nat) (p : Bool) (more : State → State) (ok : VReg → Nat → Prop) : Prop :=
      ∃ v g, exec i s = .next (mtxDid s w t h none 6 fun _ u => more (u.fillSq t q ⟨v, p⟩ g)) ∧ ok v g
    let lanes (f : Nat → Nat → Nat) (v : VReg) (_ : Nat) : Prop := ∀ i j, i < 16 → j < 64 → lane v i j = f i j % 2 ^ 32
    exec (.mringSet h k n base) s = sets (ring base n 0 0 0) ∧
    (oprSlots D = 0 → exec (.mringAdv h k n) s = .next (s.decodeFault t 3 9)) ∧
    (oprSlots D ≠ 0 → exec (.mringAdv h k n) s =
      sets (ring (oprBase D) (oprSlots D) ((oprHead D + n) % oprSlots D) (oprMode D) (oprMeta D))) ∧
    (oprSlots D = 0 ∨ 0x80000 < meta' * 2048 + oprSlots D * 2048 → exec (.mspmeta h k mode meta') s = .next (s.decodeFault t 3 9)) ∧
    (oprSlots D ≠ 0 → meta' * 2048 + oprSlots D * 2048 ≤ 0x80000 → exec (.mspmeta h k mode meta') s =
      sets (ring (oprBase D) (oprSlots D) (oprHead D) mode meta')) ∧
    exec (.mtsel h rs) s = .next (mtxDid s w t h (some (0, -1)) 1 fun _ u => u.flyTile t 1 (.rowMask t (rs % 2 ^ 16) false)) ∧
    (((T.queue d).head?) = none → exec (.mtselLq h d) s = .next s ∧ exec (.maccld h a d n) s = .next s) ∧
    (((T.queue d).head?) ≠ none →
      (∃ m, exec (.mtselLq h d) s = .next (mtxDid s w t h none 1 fun _ u => (u.popAll t [d]).flyTile t 1 (.rowMask t m (head d).p)) ∧
        ∀ i, m.testBit i = (decide (i < 16) && decide (lane (head d).v i 0 ≠ 0))) ∧
      ∃ v : Nat → Tile32, exec (.maccld h a d n) s = .next (mtxDid s w t h none 4 fun win u =>
          (List.range (n + 1)).foldl (fun u q => u.putAcc t (accIdx a + q) 4 win ⟨v q, (head d).p⟩ 0) (u.popAll t [d])) ∧
        ∀ q i j, q < 4 → i < 16 → j < 16 → elem (v q) i j = lane (head d).v i (16 * q + j)) ∧
    exec (.mtzero h d n) s = .next (mtxDid s w t h (some ((accIdx d : Int), (accIdx d : Int) + n - 1)) 1 fun win u =>
      (List.range n).foldl (fun u i => u.putAcc t (accIdx d + i) 1 win TVal.zero 0) u) ∧
    upTo (.maccst h d a n) a (n + 1) ∧ upTo (.mcvt h d a n ty rnd sat) a (n + 1) ∧ upTo (.maccadd h d a b 6 rnd sat) a 1 ∧
    upTo (.maccadd h d a b 6 rnd sat) b 1 ∧ upTo (.mscale h d a f) a 1 ∧
    (¬ room d → exec (.maccst h d a n) s = .next s ∧ exec (.mcvt h d a n ty rnd sat) s = .next s ∧
      exec (.mflag h d mask) s = .next s ∧ exec (.mrstat h d clr) s = .next s) ∧
    (room d → settled a (n + 1) → n < 4 →
      let p := (List.range (n + 1)).any fun q => (T.accOf (accIdx a + q)).p
      let x (i m : Nat) : Nat := elem (T.accOf (accIdx a + m / 16)).v i (m % 16)
      fills (.maccst h d a n) d p id (fun v g => g = 0 ∧ lanes (fun i j => if j < 16 * (n + 1) then x i j else 0) v g) ∧
      (ty = 0 ∨ ty = 1 ∨ ty = 6 ∨ ty = 7 ∨ ty = 8 ∨ ty = 9 →
        fills (.mcvt h d a n ty rnd sat) d p id (fun v _ => ∀ i m, i < 16 → m < 64 * (32 / tyBits ty) →
          slot (tyBits ty) (m % (32 / tyBits ty)) (lane v i (m / (32 / tyBits ty))) =
            if m < 16 * (n + 1) then (mcvtElem ty rnd sat (x i m)).1 % 2 ^ tyBits ty else 0))) ∧
    (settled a 1 → settled b 1 → ∃ v g, exec (.maccadd h d a b 6 rnd sat) s =
        .next (mtxDid s w t h (some ((accIdx d : Int), (accIdx d : Int))) 6 fun win u =>
          u.putAcc t (accIdx d) 6 win ⟨v, (tile a).p || (tile b).p⟩ g) ∧
      ∀ i j, i < 16 → j < 16 → elem v i j =
        (fp32.fit rnd (sat == 1) (fAdd rnd (fp32.read (elem (tile a).v i j)) (fp32.read (elem (tile b).v i j)))).1 % 2 ^ 32) ∧
    (settled a 1 → ∃ v g, exec (.mscale h d a f) s =
        .next (mtxDid s w t h (some ((accIdx d : Int), (accIdx d : Int))) 6 fun win u => u.putAcc t (accIdx d) 6 win ⟨v, (tile a).p⟩ g) ∧
      ∀ i j, i < 16 → j < 16 → elem v i j =
        (fp32.fit 0 false (fMul (fp32.read (elem (tile a).v i j)) (fp32.read (f % 2 ^ 32)))).1 % 2 ^ 32) ∧
    (room (1028 + n) →
      let half (tab : FM Word) (i j : Nat) : Nat :=
        if i < 6 ∧ j < 16 then tabField tab i (j / 2) / 2 ^ (32 * (j % 2)) else 0
      (sel = 0 → fills (.mtrd h sel n) (1028 + n) false id (lanes (half T.shadow))) ∧
      (sel = 1 → fills (.mtrd h sel n) (1028 + n) false id (lanes (half T.active))) ∧
      (sel = 2 → fills (.mtrd h sel n) (1028 + n) false id (lanes fun i j => if i < 8 ∧ j = 0 then T.oprD i else 0))) ∧
    (¬ room (1028 + n) → exec (.mtrd h sel n) s = .next s) ∧
    (room d →
      fills (.mflag h d mask) d false (fun u => u.flyTile t 1 (.sysw t 0 0x13 (BitVec.ofNat 64 mask) false))
        (lanes fun i j => if i = 0 ∧ j = 0 then FM.get 0 T.eflag 3 ||| (T.window.map fun W => W.flags).getD 0 else 0) ∧
      fills (.mrstat h d clr) d false (fun u => if clr = 1 then u.updTile t fun U => { U with replays := 0 } else u)
        (lanes fun i j => if i = 0 then (match T.window with
          | none => [0, 0, 0, min T.replays (2 ^ 32 - 1), 0, 0]
          | some W => [1, W.kept.length, W.replays, min T.replays (2 ^ 32 - 1), W.first, W.cnt]).getD j 0 else 0)) ∧
    exec (.mtstart h d n) s = .next (mtxDid s w t h none 1 fun _ u => u.flyTile t 1 (.mwindow t (accIdx d) (n + 1))) ∧
    exec (.mtend h) s = .next ((w.begin t 3).flyTile t 1 (.mclose t (T.resolveSig h.sig))) ∧
    exec (.nop h) s = .next (mtxDid s w t h (some (0, -1)) 1 fun _ u => u)

/-- 07 R202 to R206, R209: the start of a matrix command. -/
def Obligations.MatrixCommandsStart : Prop :=
  ∀ (s w : State) (t : Nat) (h : Hdr) (ra rb fa fb acc kel aoff boff : Nat), RingGoes s t 3 h w →
    let T := s.tile t
    let u := w.begin t 3
    let sig := T.resolveSig h.sig
    let A := T.oprD ra
    let B := T.oprD rb
    let step := stepKind fa fb (decide (oprMode A ≠ 0)) (decide (oprMode B ≠ 0))
    let c1 : Prop := (fa < 4 ∨ fb < 4) ∧ kel % 32 ≠ 0
    let c2 : Prop := oprSlots A = 0 ∨ oprSlots B = 0
    let c3 : Prop := step = none
    let c4 : Prop := 4 ≤ fa ∧ kel % 16 ≠ 0
    let field (l f : Nat) : Nat := (FM.get 0 T.shadow (8 * l + f)).toNat
    let c5 : Prop := ∃ l, l < 6 ∧ (4096 < field l 0 ∨ 2 ^ 16 ≤ field l 1 ∨ 2 ^ 16 ≤ field l 2 ∨ 2 ^ 7 ≤ field l 3 ∨
      ∃ f, 4 ≤ f ∧ f < 8 ∧ field l f ≠ 0)
    let r := tileRange T.shadow acc
    let c6 : Prop := r.1 < 0 ∨ 63 < r.2
    let stops (cause n : Nat) : Out := .next (u.execFault t 3 cause (BitVec.ofNat 64 n) sig)
    let common (i : Instr) : Prop :=
      (c1 → exec i s = stops 0x11 1) ∧ (¬ c1 → c2 → exec i s = stops 0x12 2) ∧
      (¬ c1 → ¬ c2 → c3 → exec i s = stops 0x12 3) ∧ (¬ c1 → ¬ c2 → ¬ c3 → c4 → exec i s = stops 0x12 4)
    let starts (i : Instr) (nest : Bool) (lo hi : Int) (xs : List Int) (iters : Nat) : Prop :=
      (s.accPendingIn t xs = true → exec i s = .next s) ∧
      (s.accPendingIn t xs = false → ∀ e ua ub p, step = some (e, ua, ub, p) →
        let n := (kel + e - 1) / e * iters
        let q := u.enterWindow t sig (some (lo, hi))
        exec i s = .next ((q.2.updTile t fun U => { U with
            mcmd := some ⟨if nest then 1 else 2, fa, fb, ra, rb, acc, kel, aoff, boff, oprHead A, oprHead B, 0, n, T.clk + 2, sig,
              (((q.2.tile t).engine 3).group.head?.map fun x => x.off).getD 0, q.1.1, q.1.2⟩
            active := if nest then T.shadow else T.active }).updEng t 3 fun E => { E with nextAt := T.clk + 2 + p * n }))
    let mgo := Instr.mgo h ra rb fa fb acc kel aoff boff
    let mgos := Instr.mgos h ra rb fa fb acc kel aoff boff
    common mgo ∧ common mgos ∧
    (¬ c1 → ¬ c2 → ¬ c3 → ¬ c4 →
      (c5 → exec mgo s = stops 0x12 5) ∧ (¬ c5 → c6 → exec mgo s = stops 0x12 6) ∧
      (¬ c5 → ¬ c6 → starts mgo true r.1 r.2 (tabTiles T.shadow acc) ((List.range 6).map fun l => max (field l 0 % 2 ^ 13) 1).prod) ∧
      starts mgos false acc acc [(acc : Int)] 1) ∧
    (∀ x : Int, x ∈ tabTiles T.shadow acc ↔ ∃ k : Nat → Nat, (∀ l, l < 6 → k l < max (field l 0 % 2 ^ 13) 1) ∧
      x = acc + ((List.range 6).map fun l => (k l : Int) * (BitVec.ofNat 7 (field l 3)).toInt).sum) ∧
    (r.1 = acc + ((List.range 6).map fun l => min (((max (field l 0 % 2 ^ 13) 1 : Nat) - 1 : Int) * (BitVec.ofNat 7 (field l 3)).toInt) 0).sum ∧
     r.2 = acc + ((List.range 6).map fun l => max (((max (field l 0 % 2 ^ 13) 1 : Nat) - 1 : Int) * (BitVec.ofNat 7 (field l 3)).toInt) 0).sum)

/-- 07 R207, R208, R218 to R220: the steps of a matrix command, their landing, and what a window holds back. -/
def Obligations.MatrixStepsAndWindows : Prop :=
  (∀ (s : State) (t : Nat) (m : MCmd) (e ua ub p : Nat), s.bad = none → (s.tile t).mcmd = some m →
    let T := s.tile t
    let A := T.oprD m.ra
    let B := T.oprD m.rb
    stepKind m.fa m.fb (decide (oprMode A ≠ 0)) (decide (oprMode B ≠ 0)) = some (e, ua, ub, p) →
    let nk := (m.kel + e - 1) / e
    let tab := if m.kind = 1 then T.active else []
    let k := m.step % nk
    let idx (l : Nat) : Nat := m.step / nk / ((List.range l).map fun q => tabCnt tab q).prod % tabCnt tab l
    let off (stride : FM Word → Nat → Int) : Int := ((List.range 6).map fun l => (idx l : Int) * stride tab l).sum
    let live := m.kel - e * k
    let slots (r hd : Nat) (o : Int) (n : Nat) : List Nat :=
      (List.range (if n = 2 then min 2 ((min live 384 + 191) / 192) else min n 1)).map fun (q : Nat) =>
        spBase t + oprBase (T.oprD r) * 4096 + 4096 * (((hd : Int) + o + (q : Int)) % oprSlots (T.oprD r)).toNat
    let panel (fmt r hd : Nat) (o : Int) (n : Nat) : Panel := ⟨fmt, oprMode (T.oprD r), slots r hd o n,
      spBase t + oprMeta (T.oprD r) * 2048 + 2048 * (((hd : Int) + o) % oprSlots (T.oprD r)).toNat⟩
    let a := s.readPanel (panel m.fa m.ra m.hA (m.aoff + off tabA + (ua * k : Nat)) ua)
    let b := s.readPanel (panel m.fb m.rb m.hB (m.boff + off tabB + (ub * k : Nat)) ub)
    let adds := stepAdds a.1 b.1 (decide (ua + ub = 3)) live T.rowMask
    let u := s.flyTile t 12 (.mstep t ((m.acc : Int) + off tabC).toNat T.rowMask m.win adds.1 (a.2 || b.2 || T.rowMaskP) adds.2)
    exec (.matrixStep t) s = .next (if m.step + 1 < m.steps
      then u.updTile t fun U => { U with mcmd := some { m with step := m.step + 1, startAt := m.startAt + p } }
      else (u.updTile t fun U => { U with mcmd := none, mlast := some m }).flyTile t 12 (.mdone t m.win m.kept m.sig))) ∧
  (∀ (s : State) (t r rows win fl : Nat) (add : Tile32) (p : Bool),
    let x := (s.tile t).accOf r
    let y := ((s.stepLands t r rows win [add] p fl).tile t).accOf r
    y.p = (x.p || p) ∧ (∀ q, q ≠ r → ((s.stepLands t r rows win [add] p fl).tile t).accOf q = (s.tile t).accOf q) ∧
    ∀ i j, i < 16 → j < 16 → elem y.v i j = if rows.testBit i
      then (fp32.fit 0 false (fAdd 0 (fp32.read (elem x.v i j)) (fp32.read (elem add i j)))).1 % 2 ^ 32 else elem x.v i j) ∧
  (∀ (s : State) (t win k sig fl : Nat),
    ((s.tile t).window = none → s.mtxDone t win k sig = s.signalNow t 3 0 sig none ∧ s.mtxFlags t win fl = s.orFlags t 3 fl) ∧
    (∀ W, (s.tile t).window = some W →
      (win ≠ W.id → s.mtxDone t win k sig = s.signalNow t 3 0 sig none ∧ s.mtxFlags t win fl = s.orFlags t 3 fl) ∧
      (win = W.id → win ≠ 0 →
        (∃ W' : Window, s.mtxDone t win k sig = s.updTile t (fun U => { U with window := some W' }) ∧
          W' = { W with kept := W'.kept } ∧ W'.kept.length = W.kept.length ∧
          ∀ (i : Nat) (r : Retained), W.kept[i]? = some r → W'.kept[i]? = some { r with done := decide (i = k) || r.done }) ∧
        s.mtxFlags t win fl = s.updTile t fun U => { U with window := some { W with flags := W.flags ||| fl } }) ∧
      s.closeWindow t = (W.kept.filter fun r => r.done).foldl (fun v r => v.signalNow t 3 0 r.sig none)
        ((s.updTile t fun U => { U with window := none }).orFlags t 3 W.flags)))

/-- 10 R290, R291: register instructions of a run. NRAMAX's other lanes are log entry 17. -/
def Obligations.NearMemoryRegisterWords : Prop :=
  ∀ (s : State) (ch : Nat) (r : NmuRun) (d a b m rnd sat ty n p sfrom sto imm : Nat), NmuGoes s ch r →
    let t := nty ty
    let did (v : Line) (q : Bool) (fl : Nat) : State :=
      s.setNmu ch { s.nmu ch with run := some ({ r.setReg d (v, q) with flags := r.flags ||| fl } : NmuRun).advance }
    let el (w k : Nat) (v : Line) : Nat := v.toNat / 2 ^ (w * k) % 2 ^ w
    let elems (i : Instr) (rs : List Nat) (w : Nat) (f : List Nat → Nat × Nat) : Prop :=
      ∃ v fl, exec i s = .next (did v (rs.any fun x => (r.reg x).2) fl) ∧
        (∀ k, k < 512 / w → el w k v = (f (rs.map fun x => el w k (r.reg x).1)).1 % 2 ^ w) ∧
        ∀ c, fl.testBit c = true ↔ ∃ k, k < 512 / w ∧ (f (rs.map fun x => el w k (r.reg x).1)).2.testBit c = true
    let typed (i : Instr) (rs : List Nat) (f : List FV → FX) (g : List Int → Int) : Prop := elems i rs (tyBits t) fun es =>
      if ty = 4 then (ity 0).fit (sat == 1) (g (es.map (ity 0).read)) else (ffmt t).fit rnd (sat == 1) (f (es.map (ffmt t).read))
    let cmp (i : Instr) (f : FV → FV → Bool × Nat) (g : Int → Int → Bool) : Prop := elems i [a, b] (tyBits t) fun es =>
      let x := if ty = 4 then (g ((ity 0).read (nv es 0)) ((ity 0).read (nv es 1)), 0) else f ((ffmt t).read (nv es 0)) ((ffmt t).read (nv es 1))
      (if x.1 = true then 2 ^ tyBits t - 1 else 0, x.2)
    let bits (i : Instr) (rs : List Nat) (v : Line) : Prop :=
      exec i s = .next (s.setNmu ch { s.nmu ch with run := some (r.setReg d (v, rs.any fun x => (r.reg x).2)).advance })
    let R (x : Nat) : Line := (r.reg x).1
    (ty < 5 →
      typed (.nadd d a b rnd sat ty) [a, b] (fun x => fAdd rnd (fv x 0) (fv x 1)) (fun x => iv x 0 + iv x 1) ∧
      typed (.nsub d a b rnd sat ty) [a, b] (fun x => fAdd rnd (fv x 0) (fv x 1).neg) (fun x => iv x 0 - iv x 1) ∧
      typed (.nmul d a b rnd sat ty) [a, b] (fun x => fMul (fv x 0) (fv x 1)) (fun x => iv x 0 * iv x 1) ∧
      typed (.nfma d a b rnd sat ty) [a, b, d] (fun x => fFma rnd (fv x 0) (fv x 1) (fv x 2)) (fun x => iv x 0 * iv x 1 + iv x 2) ∧
      typed (.nmin d a b rnd sat ty) [a, b] (fun x => fMin (fv x 0) (fv x 1)) (fun x => min (iv x 0) (iv x 1)) ∧
      typed (.nmax d a b rnd sat ty) [a, b] (fun x => fMax (fv x 0) (fv x 1)) (fun x => max (iv x 0) (iv x 1)) ∧
      typed (.nabs d a rnd sat ty) [a] (fun x => ⟨(fv x 0).abs, 0⟩) (fun x => (iv x 0).natAbs) ∧
      typed (.nneg d a rnd sat ty) [a] (fun x => ⟨(fv x 0).neg, 0⟩) (fun x => -(iv x 0)) ∧
      typed (.nclamp d a b rnd sat ty) [d, a, b] (fun x => let lo := fMax (fv x 0) (fv x 1)
        ⟨(fMin lo.v (fv x 2)).v, (fMin lo.v (fv x 2)).fl ||| lo.fl⟩) (fun x => min (max (iv x 0) (iv x 1)) (iv x 2)) ∧
      cmp (.ncmpeq d a b rnd sat ty) (fCmp 0) (fun x y => decide (x = y)) ∧ cmp (.ncmpne d a b rnd sat ty) (fCmp 1) (fun x y => decide (x ≠ y)) ∧
      cmp (.ncmplt d a b rnd sat ty) (fCmp 2) (fun x y => decide (x < y)) ∧ cmp (.ncmple d a b rnd sat ty) (fCmp 3) (fun x y => decide (x ≤ y)) ∧
      (∀ op i, (op, i) ∈ [(0, Instr.nrsum d a rnd sat ty), (1, .nrmin d a rnd sat ty), (2, .nrmax d a rnd sat ty)] →
        exec i s = .next (did (BitVec.ofNat 512 (nmuReduce t op rnd sat (R a)).1) (r.reg a).2 (nmuReduce t op rnd sat (R a)).2)) ∧
      (ty = 4 → ∃ v fl k, exec (.nramax d a rnd sat ty) s = .next (({ did v (r.reg a).2 fl with free := k } : State)) ∧
        ∃ x : Int, el 32 0 v = ((ity 0).fit (sat == 1) x).1 % 2 ^ 32 ∧ (∀ j, j < 16 → (((ity 0).read (el 32 j (R a))).natAbs : Int) ≤ x) ∧
          ((∃ j, j < 16 ∧ x = ((ity 0).read (el 32 j (R a))).natAbs))) ∧
      (ty < 4 → ∃ v fl k, exec (.nramax d a rnd sat ty) s = .next (({ did v (r.reg a).2 fl with free := k } : State)))) ∧
    (ty < 2 → typed (.nrcp d a rnd sat ty) [a] (fun x => fRcp (fv x 0)) (fun _ => 0)) ∧
    (ty < 4 → ∃ v fl, exec (.nscl d a b rnd sat ty) s = .next (did v ((r.reg a).2 || (r.reg b).2) fl) ∧
      ∀ k, k < 512 / tyBits t → el (tyBits t) k v = ((ffmt t).fit rnd (sat == 1) (fMul ((ffmt t).read (el (tyBits t) k (R a)))
        (.fin false 1 ((ity 0).read (el 32 0 (R b)))))).1 % 2 ^ tyBits t) ∧
    bits (.nsel d a b m) [m, a, b] ((R m &&& R a) ||| (~~~(R m) &&& R b)) ∧ bits (.nand d a b) [a, b] (R a &&& R b) ∧
    bits (.nor d a b) [a, b] (R a ||| R b) ∧ bits (.nxor d a b) [a, b] (R a ^^^ R b) ∧ bits (.nandn d a b) [a, b] (R a &&& ~~~(R b)) ∧
    bits (.nmov d a) [a] (R a) ∧
    elems (.nshl d a n) [a] 32 (fun x => (if n < 32 then nv x 0 * 2 ^ n else 0, 0)) ∧
    elems (.nshr d a n 0) [a] 32 (fun x => (if n < 32 then nv x 0 / 2 ^ n else 0, 0)) ∧
    elems (.nshr d a n 1) [a] 32 (fun x => ((ity 0).wrap ((ity 0).read (nv x 0) / 2 ^ min n 32), 0)) ∧
    (∃ v, bits (.nbcst d a n) [a] v ∧ (n < 16 → ∀ k, k < 16 → el 32 k v = el 32 n (R a))) ∧
    (∃ v, bits (.nli d imm) [] v ∧ ∀ k, k < 16 → el 32 k v = imm % 2 ^ 32) ∧
    elems (.nlih d imm) [d] 32 (fun x => (nv x 0 % 2048 + imm % 2 ^ 21 * 2048, 0)) ∧
    (∃ v, bits (.nshuf d a b) [a, b] v ∧ ∀ k, k < 64 → el 8 k v = el 8 (el 8 k (R b) % 64) (R a)) ∧
    (sfrom < 5 → sto < 5 →
      let f := nty sfrom
      let g := nty sto
      let fb := tyBits f
      let gb := tyBits g
      let c := 512 / max fb gb
      let cv (x : Nat) : Nat := (convert f g rnd sat x).1 % 2 ^ gb
      ∃ v fl, exec (.ncvt d a p sfrom rnd sat sto) s = .next (did v ((r.reg a).2 || (decide (gb < fb) && (r.reg d).2)) fl) ∧
        (fb ≤ gb → ∀ k, k < c → el gb k v = cv (el fb (if fb < gb then p * c + k else k) (R a))) ∧
        (gb < fb → ∀ k, k < 512 / gb → el gb k v = if p * c ≤ k ∧ k < p * c + c then cv (el fb (k - p * c) (R a)) else el gb k (R d)))

/-- 10 R290, R291: streams, loops and the position of a run. -/
def Obligations.NearMemoryStreamsAndLoops : Prop :=
  (∀ (s : State) (ch : Nat) (r : NmuRun) (d a sz n len cnt : Nat), NmuGoes s ch r →
    let did (q : NmuRun) : Out := .next (s.setNmu ch { s.nmu ch with run := some q })
    exec (.nld d 0) s = did ({ r.setReg d (r.src.getD r.inPos (0, false)) with inPos := r.inPos + 1 } : NmuRun).advance ∧
    exec (.nld d 1) s = did ({ r.setReg d (r.aux.getD r.auxPos (0, false)) with auxPos := r.auxPos + 1 } : NmuRun).advance ∧
    (∃ bs : List (Nat × Bool), exec (.nst a sz) s = did ({ r with out := (r.out ++ bs).take r.outLen } : NmuRun).advance ∧
      bs.length = 64 / 2 ^ sz ∧ ∀ k, k < 64 / 2 ^ sz → bs.getD k (0, false) = ((r.reg a).1.toNat / 2 ^ (8 * k) % 256, (r.reg a).2)) ∧
    exec (.nldp d) s = did (r.setReg d (r.param, false)).advance ∧
    exec (.nskip n) s = did ({ r with inPos := r.inPos + n } : NmuRun).advance ∧ exec .nnop s = did r.advance ∧
    (0 < cnt → exec (.nloop1 len cnt) s = did { r with pc := r.pc + 1, loop1 := some (r.pc + 1, r.pc + 1 + len, cnt) } ∧
      exec (.nloop2 len cnt) s = did { r with pc := r.pc + 1, loop2 := some (r.pc + 1, r.pc + 1 + len, cnt) }) ∧
    (cnt = 0 → exec (.nloop1 len cnt) s = did { r with pc := r.pc + len + 2 } ∧ exec (.nloop2 len cnt) s = did { r with pc := r.pc + len + 2 }) ∧
    exec .nend s = did { r with ended := true }) ∧
  ∀ (r : NmuRun) (f l n f' l' n' : Nat),
    let at1 : Prop := r.loop1 = some (f, l, n) ∧ l = r.pc
    let at2 : Prop := r.loop2 = some (f', l', n') ∧ l' = r.pc
    (r.loop1 = none → r.loop2 = none → r.advance = { r with pc := r.pc + 1 }) ∧
    (at2 → 1 < n' → r.advance = { r with pc := f', loop2 := some (f', l', n' - 1) }) ∧
    (at1 → (r.loop2 = none ∨ ∃ x y z, r.loop2 = some (x, y, z) ∧ y ≠ r.pc) → 1 < n → r.advance = { r with pc := f, loop1 := some (f, l, n - 1) }) ∧
    (at1 → r.loop2 = none → n ≤ 1 → r.advance = { r with pc := r.pc + 1, loop1 := none }) ∧
    (at1 → at2 → n' ≤ 1 → 1 < n → r.advance = { r with pc := f, loop1 := some (f, l, n - 1), loop2 := none }) ∧
    (r.loop1 = none → at2 → n' ≤ 1 → r.advance = { r with pc := r.pc + 1, loop2 := none })

/-- 10 R276 to R279, R286, R287, R296, R298; 13 R361, R365, R367: copy words with a descriptor as they issue. -/
def Obligations.CopyDescriptorWords : Prop :=
  ∀ (s w : State) (t : Nat) (h : Hdr) (rec desc img : Nat), RingGoes s t 5 h w →
    let T := s.tile t
    let u := w.begin t 5
    let sig := T.resolveSig h.sig
    let grp := ((u.tile t).engine 5).group
    let d := s.readDesc t desc
    let a := spBase t + 128 * desc
    let poisoned : Bool := s.poisAt a || s.poisAt (a + 64)
    let stops (cause : Nat) (v : Word) : Out := .next (u.execFault t 5 cause v sig)
    let entry (i : Instr) : Prop :=
      (rec ≠ 0 → T.crec = none → exec i s = .next (s.decodeFault t 5 9)) ∧
      (rec = 0 ∨ T.crec ≠ none → 16 ≤ s.copyCount t ∨ (∃ c ∈ T.ccmds, c.2.op = 0xC) → exec i s = .next s)
    let free : Prop := (rec = 0 ∨ T.crec ≠ none) ∧ s.copyCount t < 16 ∧ ∀ c ∈ T.ccmds, c.2.op ≠ 0xC
    let word (i : Instr) (op sub : Nat) (used : List Nat) (chk : List CFail) (mk : CCmd → CCmd) : Prop :=
      entry i ∧ (free →
        (poisoned = true → exec i s = stops 0x31 (BitVec.ofNat 64 (128 * desc))) ∧
        (poisoned = false →
          (∀ (n cause : Nat) (v : Option Nat), chk[n]? = some (some (cause, v)) → (∀ m : Nat, m < n → chk[m]? = some none) →
            exec i s = stops cause (match v with
              | some v => BitVec.ofNat 64 v
              | none => ((grp.getLast?).map fun (x : RWord) => x.w).getD 0)) ∧
          ((∀ c ∈ chk, c = none) → exec i s = .next (u.startCopy t (mk (CCmd.new h t op sub rec sig 0 d used grp))))))
    let n := d.f 48 8
    let op := d.f 56 8
    let rows := op + 1
    let S := d.addr 0 32
    let D := d.addr 1 40
    let p := signed64 (d.f 112 8)
    let q := signed64 (d.f 120 8)
    let sd := classOf (d.cap 0) false ||| classOf (d.cap 1) true
    let k4 := (n + 4095) / 4096
    let range (cap : Nat) (spaces : List Nat) (perms align : Nat) (x : Int) (m : Nat) : CFail :=
      s.cpyCheck t (d.cap cap) spaces perms align x m
    let kind (cap : Nat) (spaces : List Nat) (perms : Nat) (x : Int) : CFail := s.cpyKind t (d.cap cap) spaces perms x
    let all : List Nat := [0, 1, 2, 3, 4]
    let es := 2 ^ (op % 4)
    let R := op / 4 % 2 ^ 16 + 1
    let C := op / 2 ^ 18 % 2 ^ 16 + 1
    let user : Bool := opF op 0 3 == 5
    let prog := FM.get [] (s.context T.ctx).nmu (opF op 16 3)
    let dst := atDest op
    let kn := kvRows op * kvN op
    let B := (s.col (tileCol t)).bf T.ctx
    word (.cpy h rec desc) 1 0 [0, 1] [d.need [dS, dD, dLen] true, lenBad n, range 0 all 1 64 S n, range 1 all 2 64 D n]
      (fun c => { c with units := k4, cls := sd }) ∧
    word (.cpys h rec desc) 2 0 [0, 1] [d.need [dS, dD, dLen, dOp, dP] (decide (op < 2 ^ 16)), lenBad n, strideBad S p, strideBad D q,
      s.rowsCheck t (d.cap 0) 1 S p rows n, s.rowsCheck t (d.cap 1) 2 D q rows n] (fun c => { c with units := rows, cls := sd }) ∧
    (let need := d.need [dS, dD, dLen, dOp, dP, dX] (decide (op < 2 ^ 16))
     let list := range 2 [0, 1, 2] 1 64 (d.addr 2 96) (4 * rows)
     let cls := classOf (d.cap 0) false ||| classOf (d.cap 1) true ||| classOf (d.cap 2) false
     word (.cpyg h rec desc) 3 0 [0, 1] [need, lenBad n, list, kind 0 all 1 S, range 1 all 2 64 D (n * rows)]
       (fun c => { c with units := rows, cls := cls }) ∧
     word (.cpygSct h rec desc) 3 1 [0, 1] [need, lenBad n, list, range 0 all 1 64 S (n * rows), kind 1 all 2 D]
       (fun c => { c with units := rows, cls := cls })) ∧
    word (.cpyt h rec desc) 4 0 [0, 1] [d.need [dS, dD, dOp, dP] (op % 4 != 3 && decide (op < 2 ^ 34)),
      if R * es % 64 ≠ 0 ∨ C * es % 64 ≠ 0 then wordBad else none, strideBad S p, strideBad D q,
      s.rowsCheck t (d.cap 0) 1 S p R (C * es), s.rowsCheck t (d.cap 1) 2 D q C (R * es)] (fun c => { c with units := C, cls := sd }) ∧
    word (.fill h rec desc) 6 0 [1] [d.need [dD, dLen, dOp] true, lenBad n, range 1 all 2 64 D n]
      (fun c => { c with units := k4, cls := classOf (d.cap 1) true }) ∧
    (entry (.pfch h rec desc) ∧ (free →
      let ok : Prop := poisoned = false ∧ d.need [dS, dLen] true = none ∧ lenBad n = none ∧ range 0 [2] 1 64 S n = none
      ∃ m, exec (.pfch h rec desc) s = .next (u.startCopy t { CCmd.new h t 8 0 rec sig 0 d [0] grp with units := m, cls := 4 }) ∧
        (ok → m = k4) ∧ (¬ ok → m = 0))) ∧
    word (.chksum h rec desc) 9 0 [0] [d.need [dS, dLen, dOp] (decide (op < 2 ^ 32)), lenBad n, range 0 all 1 64 S n]
      (fun c => { c with units := k4, crc := d.f 56 4, cls := classOf (d.cap 0) false }) ∧
    word (.cpyx h rec desc) 5 0 [0, 1]
      [d.need ([dS, dD, dLen, dOp] ++ (if opF op 0 3 = 0 ∨ opF op 0 3 = 3 then [[(64, 4)]] else if opF op 0 3 = 1 then [[(68, 4)]]
          else if user = true then [[(64, 64)]] else [])) (cpyxOpOk op),
        if n % 256 ≠ 0 then wordBad else none, lenBad n, if user && prog.isEmpty then some (0x53, some (opF op 16 3)) else none,
        if user && (nmuBytesOut prog != userOut (opF op 19 3) 4096 || (nmuUsesAux prog && opF op 22 1 == 0)) then some (0x50, some (128 * desc)) else none,
        range 0 (if dst = true then all else [2]) 1 (if dst = true then 64 else 4096) S n,
        range 1 (if dst = true then [2] else all) (if dst = true then 3 else 2) (if dst = true then 4096 else 64) D (xOut op n)]
      (fun c => { c with units := k4, cls := sd }) ∧
    (let kvg (m : Bool) : List CFail := [d.need [dS, dD, dX, dY, dOp, dP] (kvOk d m), kvAlign d, kind 0 [2] 1 S,
       range 1 [0, 1] 2 64 D (kn * kvTb op), s.kvTables t d]
     word (.kvgWait h rec desc) 0xF 0 [0, 1, 2, 3] (kvg false)
       (fun c => { c with units := kn, cls := classOf (d.cap 1) true ||| classOf (d.cap 2) false ||| classOf (d.cap 3) false ||| 4 ||| 0 }) ∧
     word (.kvgMask h rec desc) 0xF 1 [0, 1, 2, 3] (kvg true)
       (fun c => { c with units := kn, cls := classOf (d.cap 1) true ||| classOf (d.cap 2) false ||| classOf (d.cap 3) false ||| 4 ||| 2 })) ∧
    word (.kvst h rec desc) 0x12 0 [0, 1, 2, 3]
      [d.need [dS, dD, dX, dY, dOp, dP] (kvOk d false), kvAlign d, range 0 [0, 1] 1 64 S (kn * kvTb op), kind 1 [2] 2 D, s.kvTables t d]
      (fun c => { c with units := kn, cls := classOf (d.cap 0) false ||| classOf (d.cap 2) false ||| classOf (d.cap 3) false ||| 4 }) ∧
    (let kv (x y : Nat) : List CFail := [d.need [dS, dD, dLen, dOp] (decide (op < 256)), if n % 4096 ≠ 0 then wordBad else lenBad n,
       range 0 [x] 1 4096 S n, range 1 [y] 2 4096 D n]
     word (.kvout h rec desc) 0x10 0 [0, 1] (kv 2 3) (fun c => { c with units := k4, cls := 4 }) ∧
     word (.kvin h rec desc) 0x11 0 [0, 1] (kv 3 2) (fun c => { c with units := k4, cls := 4 })) ∧
    word (.bfq h rec desc img) 0x13 0 [0, 1, 2, 3]
      ([d.need [dS, dD, dX, dY, dOp, dP] (decide (op < 2 ^ 30)), range 1 [2] 2 64 D 0, kind 2 [2] 1 (d.addr 2 96), kind 3 [2] 0x13 (d.addr 3 104),
        ((List.range (4 * bfqRows op)).find? fun i => s.poisAt (spBase t + 4096 * img + 64 * i)).map fun i => (0x31, some (4096 * img + 64 * i)),
        if bfqTable B d = true then none else some (0x50, some (128 * desc))] ++
        (List.range (bfqRows op)).map fun r => range 0 [2] 1 64 (bfqHid d r) (512 * B.f 1 1))
      (fun c => { c with
        units := bfqRows op, cls := 5
        ext := (List.range (bfqRows op)).flatMap fun r => [leNat ((s.bytes (spBase t + 4096 * img + 256 * r) 8).take 4),
          leNat ((s.bytes (spBase t + 4096 * img + 256 * r) 8).drop 4)] }) ∧
    word (.bfctlLoad h rec desc) 0x14 0 [0] [d.need [dS, dLen] true,
      if 96 ≤ n ∧ n ≤ 4160 ∧ n % 32 = 0 then none else some (0x50, some (128 * desc)), range 0 [2] 1 64 S n] (fun c => { c with cls := 4 })

/-- 10 R276, R278, R284, R285, R292, R295; 13 R365: copy words without a descriptor. NMULD past the scratchpad is log entry 18. -/
def Obligations.CopyControlWords : Prop :=
  ∀ (s w : State) (t : Nat) (h : Hdr) (mask base rec dst src slot n ch : Nat), RingGoes s t 5 h w →
    let T := s.tile t
    let u := w.begin t 5
    let sig := T.resolveSig h.sig
    let new (op sub rec : Nat) : CCmd := CCmd.new h t op sub rec sig 0 ⟨0, [], []⟩ [] ((u.tile t).engine 5).group
    let noArea : Prop := rec ≠ 0 ∧ T.crec = none
    let full : Prop := 16 ≤ s.copyCount t ∨ ∃ c ∈ T.ccmds, c.2.op = 0xC
    let enters (i : Instr) (v : State) (c : CCmd) : Prop :=
      (noArea → exec i s = .next (s.decodeFault t 5 9)) ∧ (¬ noArea → full → exec i s = .next s) ∧
      (¬ noArea → ¬ full → exec i s = .next (v.startCopy t c))
    let status (i : Instr) (op : Nat) (bs : List Nat) : Prop :=
      (noArea → exec i s = .next (s.decodeFault t 5 9)) ∧ (¬ noArea → full ∨ sbarAhead 2 s t = true → exec i s = .next s) ∧
      (¬ noArea → ¬ full → sbarAhead 2 s t = false → exec i s = .next ((u.flyTile t 6 (.scratch t (128 * dst) bs)).startCopy t
        { new op 0 rec with phase := 1, at' := (u.tile t).clk + 5, units := 0, cls := 2 }))
    let busy : Prop := s.copyCount t ≠ 0
    (full → exec (.sbar h mask) s = .next s) ∧
    (¬ full → ∃ ws, exec (.sbar h mask) s = .next (u.startCopy t { new 7 0 0 with wait := ws, cls := 0, ext := [mask] }) ∧
      ∀ q, q ∈ ws ↔ ∃ c ∈ T.ccmds, c.2.seq = q ∧ c.2.cls &&& mask ≠ 0) ∧
    (busy → exec (.crec h base) s = .next s) ∧
    (¬ busy → exec (.crec h base) s = .next ((u.flyTile t 1 (.crec t (4096 * base))).signalIn t 5 0 sig 1 none)) ∧
    (full → exec (.cdrain h) s = .next s) ∧
    (¬ full → exec (.cdrain h) s = .next (u.startCopy t { new 0xC 0 0 with wait := T.ccmds.map fun c => c.2.seq })) ∧
    (∃ m, status (.cstat h rec dst) 0xB ([s.copyCount t, if (T.engine 5).stop = true then 1 else 0] ++ List.replicate 6 0 ++ natLe 8 m ++
        List.replicate 48 0) ∧
      ∀ q, m.testBit q = true ↔ ∃ c ∈ T.ccmds, c.2.rec' = q + 1) ∧
    (0x80000 < 128 * src + 4 * n → exec (.nmuld h rec src slot n) s = .next (s.decodeFault t 5 9)) ∧
    (128 * src + 4 * n ≤ 0x80000 → enters (.nmuld h rec src slot n) u { new 0xD 0 rec with ext := [src, slot, n], cls := 1 }) ∧
    (∃ m, status (.nmustat h rec dst ch) 0xE ([m] ++ List.replicate 7 0 ++ natLe 8 (FM.get 0 (s.nmu ch).runs T.ctx) ++
        natLe 4 (s.nmu ch).aborts ++ List.replicate 4 0 ++
        natLe 8 (if (s.nmu ch).lastCtx = T.ctx then (s.nmu ch).lastAddr else 0) ++ List.replicate 32 0) ∧
      ∀ i, m.testBit i = true ↔ i < 8 ∧ FM.get [] (s.context T.ctx).nmu i ≠ []) ∧
    enters (.bfctlStat h rec dst) u { new 0x14 1 rec with
      img := (s.col (tileCol t)).bfRecord T.ctx, ext := [dst], cls := 2 } ∧
    enters (.bfctlDrain h rec) u (new 0x14 2 rec) ∧ enters (.bfctlPause h rec) u (new 0x14 3 rec) ∧
    enters (.bfctlRun h rec) u (new 0x14 4 rec)

/-- 06 R173, R174 with R162 to R168: the floating words. The exact values of the special functions are log entry 10. -/
def Obligations.VectorFloatWords : Prop :=
  ∀ (s w : State) (t : Nat) (h : Hdr) (d a b ty rnd sat : Nat), RingGoes s t 2 h w → ty = 6 ∨ ty = 7 →
    let gives (i : Instr) (rs : List Nat) (l rnd sat : Nat) (f : List FV → FX) : Prop :=
      vecBusy rs [d] s t = false →
        ElemWord s w t h d rs l (tyBits ty) (fun es => (ffmt ty).fit rnd (sat == 1) (f (es.map (ffmt ty).read))) (exec i s)
    gives (.vadd h d a b ty rnd sat) [a, b] 8 rnd sat (fun x => fAdd rnd (fv x 0) (fv x 1)) ∧
    gives (.vsub h d a b ty rnd sat) [a, b] 8 rnd sat (fun x => fAdd rnd (fv x 0) (fv x 1).neg) ∧
    gives (.vmul h d a b ty rnd sat) [a, b] 8 rnd sat (fun x => fMul (fv x 0) (fv x 1)) ∧
    gives (.vfma h d a b ty rnd sat) [a, b, d] 8 rnd sat (fun x => fFma rnd (fv x 0) (fv x 1) (fv x 2)) ∧
    gives (.vfms h d a b ty rnd sat) [a, b, d] 8 rnd sat (fun x => fFma rnd (fv x 0).neg (fv x 1) (fv x 2)) ∧
    gives (.vdiv h d a b ty rnd sat) [a, b] 24 rnd sat (fun x => fDiv 64 (fv x 0) (fv x 1)) ∧
    gives (.vmin h d a b ty) [a, b] 8 0 0 (fun x => fMin (fv x 0) (fv x 1)) ∧
    gives (.vmax h d a b ty) [a, b] 8 0 0 (fun x => fMax (fv x 0) (fv x 1)) ∧
    gives (.vabs h d a ty) [a] 8 0 0 (fun x => ⟨(fv x 0).abs, 0⟩) ∧
    gives (.vneg h d a ty) [a] 8 0 0 (fun x => ⟨(fv x 0).neg, 0⟩) ∧
    gives (.vsqrt h d a ty rnd sat) [a] 24 rnd sat (fun x => fSqrt 64 (fv x 0)) ∧
    gives (.vrsq h d a ty rnd sat) [a] 12 rnd sat (fun x => fRsq (fv x 0)) ∧
    gives (.vrcp h d a ty rnd sat) [a] 12 rnd sat (fun x => fRcp (fv x 0)) ∧
    gives (.vexp h d a ty) [a] 16 0 0 (fun x => fExp (fv x 0)) ∧ gives (.vexp2 h d a ty) [a] 16 0 0 (fun x => fExp2 (fv x 0)) ∧
    gives (.vlog h d a ty) [a] 16 0 0 (fun x => fLn (fv x 0)) ∧ gives (.vlog2 h d a ty) [a] 16 0 0 (fun x => fLog2 (fv x 0)) ∧
    gives (.vtanh h d a ty) [a] 20 0 0 (fun x => fTanh (fv x 0)) ∧ gives (.vsigm h d a ty) [a] 20 0 0 (fun x => fSigm (fv x 0)) ∧
    gives (.vgelu h d a ty) [a] 20 0 0 (fun x => fGelu (fv x 0)) ∧ gives (.vsilu h d a ty) [a] 20 0 0 (fun x => fSilu (fv x 0)) ∧
    gives (.vsin h d a ty) [a] 20 0 0 (fun x => fSin (fv x 0)) ∧ gives (.vcos h d a ty) [a] 20 0 0 (fun x => fCos (fv x 0)) ∧
    gives (.verf h d a ty) [a] 20 0 0 (fun x => fErf (fv x 0))

/-- 06 R175 to R179: words on integers, bits and packed slots. -/
def Obligations.VectorIntegerAndBitWords : Prop :=
  ∀ (s w : State) (t : Nat) (h : Hdr) (d a b ty n k sat x ty2 rnd : Nat), RingGoes s t 2 h w →
    let ints (i : Instr) (rs : List Nat) (l sat : Nat) (f : List Int → Int) : Prop :=
      vecBusy rs [d] s t = false → ElemWord s w t h d rs l (tyBits ty) (fun es => (ity ty).fit (sat == 1) (f (es.map (ity ty).read))) (exec i s)
    let elems (i : Instr) (rs : List Nat) (f : List Nat → Nat) : Prop :=
      vecBusy rs [d] s t = false → ElemWord s w t h d rs 5 (tyBits ty) (fun es => (f es, 0)) (exec i s)
    let lanes (i : Instr) (rs : List Nat) (l : Nat) (f : List Nat → Nat × Nat) : Prop :=
      vecBusy rs [d] s t = false → LaneWord s w t h d rs l (fun vs i j => f (vs.map fun v => lane v i j)) (exec i s)
    let wd := tyBits ty
    let pos (y : Nat) := y % 32
    let width (y : Nat) := y / 256 % 64
    let bad (y : Nat) : Prop := width y = 0 ∨ 32 < pos y + width y
    let field (x y : Nat) := x / 2 ^ pos y % 2 ^ width y
    (ty = 0 ∨ ty = 1 ∨ ty = 2 ∨ ty = 3 →
      ints (.viadd h d a b ty sat) [a, b] 5 sat (fun x => iv x 0 + iv x 1) ∧
      ints (.visub h d a b ty sat) [a, b] 5 sat (fun x => iv x 0 - iv x 1) ∧
      ints (.vimul h d a b ty sat) [a, b] 8 sat (fun x => iv x 0 * iv x 1) ∧
      ints (.vimulh h d a b ty) [a, b] 8 0 (fun x => iv x 0 * iv x 1 / 2 ^ wd) ∧
      ints (.vimad h d a b ty sat) [a, b, d] 8 sat (fun x => iv x 0 * iv x 1 + iv x 2) ∧
      ints (.viabs h d a ty sat) [a] 5 sat (fun x => (iv x 0).natAbs) ∧
      ints (.vimin h d a b ty) [a, b] 5 0 (fun x => min (iv x 0) (iv x 1)) ∧
      ints (.vimax h d a b ty) [a, b] 5 0 (fun x => max (iv x 0) (iv x 1)) ∧
      elems (.vshl h d a b ty) [a, b] (fun e => if nv e 1 < wd then nv e 0 * 2 ^ nv e 1 else 0) ∧
      elems (.vshr h d a b ty 0) [a, b] (fun e => if nv e 1 < wd then nv e 0 / 2 ^ nv e 1 else 0) ∧
      elems (.vshr h d a b ty 1) [a, b] (fun e => (ity ty).wrap ((ity ty).read (nv e 0) / 2 ^ min (nv e 1) wd)) ∧
      elems (.vshli h d a n ty) [a] (fun e => if n < wd then nv e 0 * 2 ^ n else 0) ∧
      elems (.vshri h d a n ty 0) [a] (fun e => if n < wd then nv e 0 / 2 ^ n else 0) ∧
      elems (.vshri h d a n ty 1) [a] (fun e => (ity ty).wrap ((ity ty).read (nv e 0) / 2 ^ min n wd))) ∧
    lanes (.vand h d a b) [a, b] 4 (fun x => (nv x 0 &&& nv x 1, 0)) ∧ lanes (.vor h d a b) [a, b] 4 (fun x => (nv x 0 ||| nv x 1, 0)) ∧
    lanes (.vxor h d a b) [a, b] 4 (fun x => (nv x 0 ^^^ nv x 1, 0)) ∧
    lanes (.vandn h d a b) [a, b] 4 (fun x => (nv x 0 - (nv x 0 &&& nv x 1), 0)) ∧
    (vecBusy [a, b] [d] s t = false →
      ∃ f : List Nat → Nat × Nat, LaneWord s w t h d [a, b] 5 (fun vs i j => f (vs.map fun v => lane v i j)) (exec (.vext h d a b x) s) ∧
        ∀ e y, (bad y → f [e, y] = (0, fCL)) ∧ (¬ bad y → (f [e, y]).2 = 0 ∧
          (x = 0 ∨ field e y < 2 ^ (width y - 1) → (f [e, y]).1 = field e y) ∧
          (x = 1 → 2 ^ (width y - 1) ≤ field e y → (f [e, y]).1 + 2 ^ width y = 2 ^ 32 + field e y))) ∧
    (vecBusy [a, b, d] [d] s t = false →
      ∃ f : List Nat → Nat × Nat, LaneWord s w t h d [a, b, d] 5 (fun vs i j => f (vs.map fun v => lane v i j)) (exec (.vins h d a b) s) ∧
        ∀ e y o, o < 2 ^ 32 → (bad y → f [e, y, o] = (o, fCL)) ∧ (¬ bad y → (f [e, y, o]).2 = 0 ∧
          ∀ m, ((f [e, y, o]).1).testBit m =
            if pos y ≤ m ∧ m < pos y + width y then e.testBit (m - pos y) else o.testBit m)) ∧
    lanes (.vfsh h d a b n) [a, b] 5 (fun x => ((nv x 0 * 2 ^ 32 + nv x 1) / 2 ^ n, 0)) ∧
    lanes (.vpopc h d a) [a] 5 (fun x => (((List.range 32).filter fun i => (nv x 0).testBit i).length, 0)) ∧
    lanes (.vclz h d a) [a] 5 (fun x => (if nv x 0 = 0 then 32 else 31 - Nat.log2 (nv x 0), 0)) ∧
    (tyBits ty ≤ 32 → lanes (.vcvt h d a ty2 ty rnd sat) [a] 8 (fun x => convert ty ty2 rnd sat (nv x 0 % 2 ^ wd))) ∧
    (vecBusy [a, b, d] [d] s t = false → 2 * (k + 1) * wd ≤ 32 →
      ∃ f : List Nat → Nat, LaneWord s w t h d [a, b, d] 8 (fun vs i j => (f (vs.map fun v => lane v i j), 0)) (exec (.vpack h d a b ty k) s) ∧
        ∀ x y o, o < 2 ^ 32 → slot wd (2 * k) (f [x, y, o]) = slot wd 0 x ∧ slot wd (2 * k + 1) (f [x, y, o]) = slot wd 0 y ∧
          ∀ m, m < 32 / wd → m ≠ 2 * k → m ≠ 2 * k + 1 → slot wd m (f [x, y, o]) = slot wd m o) ∧
    lanes (.vunpk h d a k ty) [a] 8 (fun x => (slot wd k (nv x 0), 0))

/-- 06 R181 to R185, R188: compare, select, mask and movement words. -/
def Obligations.VectorMaskAndMoveWords : Prop :=
  ∀ (s w : State) (t : Nat) (h : Hdr) (d a b n q cond imm rows : Nat), RingGoes s t 2 h w →
    let T := s.tile t
    let m0 := T.m0
    let mk (r : Nat) : MVal := T.mreg (T.mphys r)
    let x (r i j : Nat) : Nat := lane (T.vsrc r).v i j
    let sx (r i j : Nat) : Int := (ity 0).read (x r i j)
    let fx (r i j : Nat) : FV := fp32.read (x r i j)
    let test (y z : Int) : Bool := [decide (y = z), decide (y ≠ z), decide (y < z), decide (y ≤ z), decide (z < y), decide (z ≤ y)].getD cond false
    let moves (i : Instr) (rs : List Nat) (l : Nat) (f : Nat → Nat → Nat) : Prop :=
      vecBusy rs [d] s t = false → LaneWord s w t h d rs l (fun _ i j => (f i j, 0)) (exec i s)
    let tests (i : Instr) (rs : List Nat) (l : Nat) (f : Nat → Nat → Bool) : Prop :=
      vecBusy rs [] s t = false → MaskWord s w t h d rs l m0.v (m0.p || rs.any fun r => (T.vsrc r).p) f (exec i s)
    let masks (i : Instr) (rs : List Nat) (f : Nat → Nat → Bool) : Prop :=
      vecBusy [] [] s t = false → MaskWord s w t h d [] 4 fullMask (rs.any fun r => (mk r).p) f (exec i s)
    let gives (rs : List Nat) (l : Nat) (m : MReg) (p : Bool) (f : Nat → Nat → Nat) (o : Out) : Prop :=
      ∃ v fl, o = .next (vecDid s w t h rs l fun u => u.putV t d l m ⟨v, p⟩ fl) ∧
        ∀ i j, i < 16 → j < 64 → mbit m i j = true → lane v i j = f i j
    (cond < 6 → tests (.vcmp h d a b 0 cond) [a, b] 5 (fun i j => test (sx a i j) (sx b i j)) ∧
      tests (.vcmp h d a b 6 cond) [a, b] 5 (fun i j => (fCmp cond (fx a i j) (fx b i j)).1) ∧
      tests (.vcmpi h d a cond imm) [a] 5 (fun i j => test (sx a i j) ((ity 0).read imm))) ∧
    tests (.vtom h d a) [a] 4 (fun i j => decide (x a i j ≠ 0)) ∧
    (vecBusy [a, b] [d] s t = false → gives [a, b] 4 m0.v (m0.p || (mk n).p || (T.vsrc a).p || (T.vsrc b).p)
      (fun i j => if mbit (mk n).v i j then x a i j else x b i j) (exec (.vsel h d a b n) s)) ∧
    (vecBusy [a, b, d] [d] s t = false →
      LaneWord s w t h d [a, b, d] 5 (fun _ i j => ((ity 0).wrap (min (max (sx d i j) (sx a i j)) (sx b i j)),
        if sx d i j = min (max (sx d i j) (sx a i j)) (sx b i j) then 0 else fCL)) (exec (.vclamp h d a b 0) s) ∧
      ∃ f : List VReg → Nat → Nat → Nat × Nat, LaneWord s w t h d [a, b, d] 5 f (exec (.vclamp h d a b 6) s) ∧
        ∀ vs i j, (f vs i j).1 = (fp32.write 0 false (fMin (fMax (fp32.read (lane (vv vs 2) i j)) (fp32.read (lane (vv vs 0) i j))).v
          (fp32.read (lane (vv vs 1) i j))).v).1) ∧
    masks (.mand h d a b) [a, b] (fun i j => mbit (mk a).v i j && mbit (mk b).v i j) ∧
    masks (.mor h d a b) [a, b] (fun i j => mbit (mk a).v i j || mbit (mk b).v i j) ∧
    masks (.mxor h d a b) [a, b] (fun i j => mbit (mk a).v i j != mbit (mk b).v i j) ∧
    masks (.mnot h d a) [a] (fun i j => !mbit (mk a).v i j) ∧
    masks (.mset h d rows n) [] (fun i j => rows.testBit i && decide (j < n)) ∧
    (vecBusy [] [d] s t = false →
      gives [] 5 fullMask (mk a).p (fun i j => if j = 0 then ((List.range 64).filter fun k => mbit (mk a).v i k).length else 0)
        (exec (.mpopc h d a) s) ∧
      gives [] 4 m0.v (m0.p || (mk a).p) (fun i j => if mbit (mk a).v i j then 2 ^ 32 - 1 else 0) (exec (.mtov h d a) s) ∧
      (q < 4 → ∃ m, (∀ i j, i < 16 → j < 64 → mbit m i j = decide (j / 16 = q)) ∧
        gives [] 8 m (T.accOf (accIdx a)).p (fun i j => elem (T.accOf (accIdx a)).v i (j % 16)) (exec (.vmovfa h d a q) s))) ∧
    (vecBusy [a] [] s t = false → q < 4 → ∃ v, exec (.vmovta h d a q) s =
        .next (vecDid s w t h [a] 8 fun u => u.flyTile t 8 (.tile t (accIdx d) true 0 ⟨v, (T.vsrc a).p⟩ 0)) ∧
      ∀ i j, i < 16 → j < 16 → elem v i j = x a i (16 * q + j)) ∧
    moves (.vmov h d a) [a] 4 (x a) ∧ moves (.vsplat h d imm) [] 4 (fun _ _ => imm) ∧ moves (.vidx h d) [] 4 (fun i j => 64 * i + j) ∧
    moves (.vbcr h d a n) [a] 8 (fun i _ => x a i n) ∧ moves (.vbcc h d a n) [a] 8 (fun _ j => x a n j) ∧
    moves (.vrotr h d a n) [a] 8 (fun i j => x a i ((j + n) % 64)) ∧ moves (.vrotc h d a n) [a] 8 (fun i j => x a ((i + n) % 16) j) ∧
    moves (.vperm h d a b) [a, b] 8 (fun i j => x a i (x b i j % 64)) ∧
    moves (.vlut h d a b) [a, b] 8 (fun i j => x a (x b i j % 1024 / 64) (x b i j % 64)) ∧
    moves (.vtrn h d a) [a] 12 (fun i j => x a (j % 16) (16 * (j / 16) + i)) ∧
    moves (.vrng h d a b) [a, b] 8 (fun i j => (crng (w64 (x a i j)) (w64 (x b i j))).toNat)

/-- 06 R180, R186, R187, R189 to R192: words that work along rows. -/
def Obligations.VectorRowWords : Prop :=
  ∀ (s w : State) (t : Nat) (h : Hdr) (d a b op ty rnd sat thr : Nat), RingGoes s t 2 h w →
    let T := s.tile t
    let m0 := T.m0
    let on (i j : Nat) : Bool := mbit m0.v i j
    let x (r i j : Nat) : Nat := lane (T.vsrc r).v i j
    let free (rs ds : List Nat) : Prop := vecBusy rs ds s t = false
    let whole (rs : List Nat) (l : Nat) (f : Nat → Nat → Nat) (o : Out) : Prop :=
      free rs [d] → VecGives s w t h d rs l fullMask (fun v _ => ∀ i j, i < 16 → j < 64 → lane v i j = f i j % 2 ^ 32) o
    let col0 (f : Nat → Nat) (i j : Nat) : Nat := if j = 0 then f i else 0
    let state (r i : Nat) : Welford := welAt (T.vsrc r).v i
    let put (W : Welford) (j : Nat) : Nat := [W.n, W.mu, W.m2].getD j 0
    whole [a] 16 (col0 fun i => (redRow op ty rnd sat (on i) (x a i)).1) (exec (.vredr h d a op ty rnd sat) s) ∧
    whole [a] 16 (col0 fun i => (((List.range 64).filter (on i)).map (x a i)).sum) (exec (.vredr h d a 0 0 rnd 0) s) ∧
    whole [a] 12 (fun i j => if i = 0 then (redCol op ty rnd sat (fun r => on r j) fun r => x a r j).1 else 0)
      (exec (.vredc h d a op ty rnd sat) s) ∧
    whole [a] 24 (fun i j => (scanLine op ty rnd sat 64 true (on i) (x a i)).1.getD j 0) (exec (.vscan h d a op 0 ty rnd sat) s) ∧
    whole [a] 24 (fun i j => (scanLine op ty rnd sat 16 false (fun r => on r j) fun r => x a r j).1.getD i 0)
      (exec (.vscan h d a op 1 ty rnd sat) s) ∧
    (free [a] [d] → VecGives s w t h d [a] 20 fullMask (fun v fl => fl = 0 ∧ ∀ i, i < 16 →
      (∀ j, 2 ≤ j → j < 64 → lane v i j = 0) ∧
      ((∀ j, j < 64 → on i j = false) → lane v i 0 = 2 ^ 32 - 1 ∧ lane v i 1 = 2 ^ 31) ∧
      (∀ j, j < 64 → on i j = true → lane v i 0 < 64 ∧ on i (lane v i 0) = true ∧ lane v i 1 = x a i (lane v i 0) ∧
        (ity 0).read (x a i j) ≤ (ity 0).read (lane v i 1) ∧
        (j < lane v i 0 → (ity 0).read (x a i j) < (ity 0).read (lane v i 1)))) (exec (.vargmx h d a 0) s)) ∧
    whole [a] 20 (fun i j => let r := (argmax 6 (on i) (x a i)).getD (2 ^ 32 - 1, fp32.infBits true)
      if j = 0 then r.1 else if j = 1 then r.2 else 0) (exec (.vargmx h d a 6) s) ∧
    (let emp (f : Nat → (Nat × Nat) × Nat) (i j : Nat) : Nat := if j = 0 then (f i).1.1 else if j = 1 then (f i).1.2 else 0
     (free [a] [d] → ∃ v fl, exec (.expmax h d a 1) s =
        .next (vecDid s w t h [a] 20 fun u => u.putV t d 20 fullMask ⟨v, m0.p || (T.vsrc a).p⟩ fl) ∧
        ∀ i j, i < 16 → j < 64 → lane v i j = emp (fun i => expmaxRow 0 (2 ^ 31) (on i) (x a i)) i j % 2 ^ 32) ∧
     (free [a] [d] → ∃ v fl, exec (.expmax h d a 0) s =
        .next (vecDid s w t h [a] 20 fun u => u.putV t d 20 fullMask ⟨v, m0.p || (T.vsrc a).p || (T.vsrc d).p⟩ fl) ∧
        ∀ i j, i < 16 → j < 64 → lane v i j = emp (fun i => expmaxRow (x d i 0) (x d i 1) (on i) (x a i)) i j % 2 ^ 32)) ∧
    (free [a, b] [d] → ∃ f : List VReg → Nat → Nat → Nat × Nat, LaneWord s w t h d [a, b] 20 f (exec (.expnrm h d a b) s) ∧
      ∀ vs i j, (f vs i j).1 = (fp32.fit 0 false
        (fMul (rneF (exp2Sixteenth ((ity 0).read (lane (vv vs 0) i j) - (ity 0).read (lane (vv vs 1) i 1)))).1
          (rneF (fRcp (fp32.read (lane (vv vs 1) i 0)))).1)).1) ∧
    (free [a, d] [d] → VecGives s w t h d [a, d] 16 fullMask (fun v _ => ∀ i j, i < 16 → j < 64 →
      ((∀ k, k < 64 → on i k = false) → lane v i j = x d i j) ∧
      (∀ B, welBatch (on i) (x a i) = some B → lane v i j = put (welMerge (state d i) B.1).1 j % 2 ^ 32)) (exec (.vwelu h d a) s)) ∧
    (free [a] [d] → ∃ v fl, exec (.vwelm h d a) s =
        .next (vecDid s w t h [a] 12 fun u => u.putV t d 12 fullMask ⟨v, (T.vsrc a).p || (T.vsrc d).p⟩ fl) ∧
        ∀ i j, i < 16 → j < 64 → lane v i j = put (welMerge (state d i) (state a i)).1 j % 2 ^ 32) ∧
    (let k := T.mreg (T.mphys d)
     free [a] [] → ∃ v m fl, exec (.conft h d a thr) s =
        .next (vecDid s w t h [a] 24 fun u => u.putM t d 24 m ⟨v, m0.p || (T.vsrc a).p || k.p⟩ fl) ∧
        ∀ i j, i < 16 → j < 64 → mbit m i j = on i 0 ∧
          mbit v i j = (mbit k.v i j || (fCmp 5 (rneF (fRcp (fp32.read (x a i 0)))).1 (fp32.read (thr % 2 ^ 32))).1)) ∧
    (free [a] [d, b] → ∃ e c fl, exec (.vqnt h d a b ty) s =
        .next (vecDid s w t h [a] 16 fun u => (u.putV t d 16 fullMask ⟨e, (T.vsrc a).p || m0.p⟩ fl).putV t b 16 fullMask
          ⟨c, (T.vsrc a).p || m0.p⟩ 0) ∧
        ∀ i j, i < 16 → j < 64 → lane c i j = (if j < 2 then (quantBlock ty on (T.vsrc a).v i j).1 else 0) ∧
          (ty = 1 ∨ ty = 9 ∨ ty = 10 → 16 ≤ j → lane e i j = 0) ∧ (ty = 11 → 8 ≤ j → lane e i j = 0) ∧
          ∀ k, k < 32 / tyBits ty → j < 2 * tyBits ty → ty = 1 ∨ ty = 9 ∨ ty = 10 ∨ ty = 11 →
            slot (tyBits ty) k (lane e i j) = (quantBlock ty on (T.vsrc a).v i (j / tyBits ty)).2.1.getD
              (32 / tyBits ty * (j % tyBits ty) + k) 0 % 2 ^ tyBits ty) ∧
    (free [a, b] [d] → LaneWord s w t h d [a, b] 16 (fun vs i j => dequant ty (vv vs 0) (vv vs 1) i j) (exec (.vdqnt h d a b ty) s))

/-- 06 R161, R164, R170, R171: the control words of the vector engine. -/
def Obligations.VectorControlWords : Prop :=
  (∀ (s w : State) (t : Nat) (h : Hdr) (n m cnt off : Nat), RingGoes s t 2 h w →
    let T := s.tile t
    let u := w.begin t 2
    let sig := T.resolveSig h.sig
    let back (x p : Nat) : Nat := if 0 < p then (x + p - 1) % p else x
    let vlc := (if T.vlc = 0 then cnt else T.vlc) - 1
    let turned : State := u.updTile t fun U => { U with vlc := vlc, vbase := back T.vbase T.rotN, mbase := back T.mbase T.rotM }
    exec (.vrotset h n m) s =
      .next ((u.updTile t fun U => { U with rotN := 8 * n, rotM := 4 * m, vbase := 0, mbase := 0 }).signalNow t 2 0 sig none) ∧
    (∀ q x, (T.engine 2).routine = some q → s.peek t 2 = some x →
      let target : Int := x.off + (BitVec.ofNat 64 off).toInt
      (q.first ≤ target → target ≤ x.off → x.off ≤ q.last →
        (vlc = 0 → exec (.vloop h cnt off) s = .next (turned.signalNow t 2 0 sig none)) ∧
        (vlc ≠ 0 → exec (.vloop h cnt off) s = .next ((turned.updEng t 2 fun E => { E with
          routine := some { q with next := target.toNat } }).signalNow t 2 0 sig none))) ∧
      (target < q.first ∨ x.off < target ∨ q.last < x.off → exec (.vloop h cnt off) s = .next (s.decodeFault t 2 9))) ∧
    ((T.engine 2).routine = none → exec (.vloop h cnt off) s = .next (s.decodeFault t 2 9))) ∧
  ∀ (T : Tile) (cnt k : Nat), T.vlc = 0 → 0 < cnt → k ≤ cnt → 0 < k →
    (Nat.repeat (fun U : Tile => U.loopTurn cnt) k T).vlc = cnt - k

/-- 06 R161, R162, R164, R166, R167, R169: what the vector words leave alone as they issue. -/
def Obligations.VectorIssueFrame : Prop :=
  ∀ (s u w : State) (t : Nat) (h : Hdr) (d a b k m n q : Nat), RingGoes s t 2 h w →
    let T := s.tile t
    let U := u.tile t
    let writes (fl : Fl) : Prop :=
      (∃ r ∈ [d, b], ∃ m v g, r < 1024 ∧ fl = .vreg t (T.vphys r) m v g) ∨ (∃ m v g, fl = .mreg t (T.mphys d) m v g) ∨
      (∃ v, fl = .tile t (accIdx d) true 0 v 0) ∨ (∃ r ∈ [d, b], ∃ p v g, isSq r = true ∧ fl = .qfill t 2 r p v g) ∨
      (∃ g, fl = .flags t 2 g) ∨ fl = .signal t 2 (T.resolveSig h.sig) 0 none
    (∀ i ∈ [Instr.vadd h d a b k m n, .vsub h d a b k m n, .vmul h d a b k m n, .vfma h d a b k m n, .vfms h d a b k m n,
        .vdiv h d a b k m n, .vmin h d a b k, .vmax h d a b k, .vabs h d a k, .vneg h d a k, .vsqrt h d a k m n, .vrsq h d a k m n,
        .vrcp h d a k m n, .vexp h d a k, .vexp2 h d a k, .vlog h d a k, .vlog2 h d a k, .vtanh h d a k, .vsigm h d a k, .vgelu h d a k,
        .vsilu h d a k, .vsin h d a k, .vcos h d a k, .verf h d a k, .viadd h d a b k m, .visub h d a b k m, .vimul h d a b k m,
        .vimulh h d a b k, .vimad h d a b k m, .viabs h d a k m, .vimin h d a b k, .vimax h d a b k, .vand h d a b, .vor h d a b,
        .vxor h d a b, .vandn h d a b, .vshl h d a b k, .vshr h d a b k m, .vshli h d a k m, .vshri h d a k m n, .vext h d a b k,
        .vins h d a b, .vfsh h d a b k, .vpopc h d a, .vclz h d a, .vcvt h d a k m n q, .vpack h d a b k m, .vunpk h d a k m,
        .vqnt h d a b k, .vdqnt h d a b k, .vcmp h d a b k m, .vcmpi h d a k m, .vsel h d a b k, .vclamp h d a b k, .mand h d a b,
        .mor h d a b, .mxor h d a b, .mnot h d a, .mset h d k m, .mpopc h d a, .mtov h d a, .vtom h d a, .vmov h d a, .vsplat h d k,
        .vidx h d, .vbcr h d a k, .vbcc h d a k, .vrotr h d a k, .vrotc h d a k, .vperm h d a b, .vlut h d a b, .vtrn h d a,
        .vrng h d a b, .vmovfa h d a k, .vmovta h d a k, .vredr h d a k m n q, .vredc h d a k m n q, .vscan h d a k b m n q,
        .vargmx h d a k, .expmax h d a k, .expnrm h d a b, .vwelu h d a, .vwelm h d a, .conft h d a k],
      exec i s = .next u → SameMemory s u ∧ SameDevice s u ∧ SameOthers s u t ∧
        U = { T with eng := U.eng, rings := U.rings, sem := U.sem, tq := U.tq, pushes := U.pushes, bar := U.bar, bpend := U.bpend,
                     know := U.know, ctxs := U.ctxs, queues := U.queues, streams := U.streams, lastPipe := U.lastPipe } ∧
        ∃ fs, u.flights = s.flights ++ fs ∧ ∀ f ∈ fs, writes f.fl) ∧
    (∀ i ∈ [Instr.vrotset h n m, .vloop h n m], exec i s = .next u →
        SameMemory s u ∧ SameDevice s u ∧ SameOthers s u t ∧
        U = { T with eng := U.eng, rings := U.rings, sem := U.sem, tq := U.tq, pushes := U.pushes, bar := U.bar, bpend := U.bpend,
                     know := U.know, ctxs := U.ctxs, rotN := U.rotN, rotM := U.rotM, vlc := U.vlc, vbase := U.vbase, mbase := U.mbase })

/-- 08 R232, R234, R236, R238, R239, R246, R248: the crossbar words beside XMVM and XMVMA. -/
def Obligations.CrossbarConfigurationWords : Prop :=
  ∀ (s w : State) (t : Nat) (h : Hdr) (a n k depth qexp enc rg nk nn out base clr off : Nat), RingGoes s t 4 h w →
    let T := s.tile t
    let u := w.begin t 4
    let sig := T.resolveSig h.sig
    let foreign (b : Nat) : Prop := (T.array b).orphan = true ∨ ((T.array b).priv = true ∧ (T.array b).owner ≠ T.ctx)
    let notOwn (b : Nat) : Prop := ¬((T.array b).priv = true ∧ (T.array b).orphan = false ∧ (T.array b).owner = T.ctx)
    let sends (i : Instr) (l m : Nat) (fl : Fl) : Prop := exec i s = .next ((u.flyTile t l fl).signalIn t 4 0 sig m none)
    let stops (i : Instr) (b : Nat) : Prop := exec i s = .next (u.execFault t 4 0x43 (BitVec.ofNat 64 (b * 256 + 4)) sig)
    let config (i : Instr) (bad : Nat → Prop) (fl : Fl) : Prop :=
      (arraysIdle a (n + 1) s t = false → exec i s = .next s) ∧
      (arraysIdle a (n + 1) s t = true → ((∀ m, m ≤ n → ¬ bad (a + m)) → sends i 1 1 fl) ∧
        ∀ m, m ≤ n → bad (a + m) → (∀ q, q < m → ¬ bad (a + q)) → stops i (a + m))
    let wide : Prop := ∃ m, m ≤ n ∧ 2 ^ (depthRows (T.array (a + m)).depth / 64) ≤ rg
    let r := T.xring out k
    let unread : Prop := ∃ c ∈ T.xcmds, c.2.started = none
    let status (i : Instr) (op : Nat) (vs : List Nat) (bad : Prop) : Prop :=
      ((∃ c ∈ T.xcmds, c.2.first ≤ a ∧ a < c.2.first + c.2.nk * c.2.nn ∧ c.2.landed < c.2.vs.length) → exec i s = .next s) ∧
      (¬ (∃ c ∈ T.xcmds, c.2.first ≤ a ∧ a < c.2.first + c.2.nk * c.2.nn ∧ c.2.landed < c.2.vs.length) →
        (¬ bad → sends i 1 6 (.calEffect t op (a :: vs))) ∧ (bad → stops i a))
    config (.xcfg h a depth qexp enc n) foreign (.xcfg t a (n + 1) depth qexp enc) ∧
    (¬ wide → config (.xmask h a n rg) foreign (.xrgmask t a (n + 1) rg)) ∧
    (wide → exec (.xmask h a n rg) s = .next (s.decodeFault t 4 9)) ∧
    config (.xpriv h a n) foreign (.xpriv t a (n + 1) true) ∧
    config (.xprivRel h a n) notOwn (.xpriv t a (n + 1) false) ∧
    sends (.xgrp h k a nk nn) 1 1 (.xgroup t k ⟨a, nk + 1, nn + 1⟩) ∧
    (unread → exec (.xringSet h k out n base) s = .next s ∧ (r.nslots ≠ 0 → exec (.xringAdv h k out n) s = .next s) ∧
      exec (.xringVmask h base) s = .next s) ∧
    (¬ unread →
      sends (.xringSet h k out n base) 1 1 (.xring t (out == 1) k ⟨base, n, 0⟩) ∧
      (r.nslots ≠ 0 → sends (.xringAdv h k out n) 1 1 (.xring t (out == 1) k { r with head := (r.head + n) % r.nslots })) ∧
      ∃ m, sends (.xringVmask h base) 3 2 (.xvmask t m ((List.range 16).any fun i => u.poisAt (spBase t + 4096 * base + 256 * i))) ∧
        ∀ i, i < 16 → m.testBit i = decide (u.nat (spBase t + 4096 * base + 256 * i) 4 ≠ 0)) ∧
    (r.nslots = 0 → exec (.xringAdv h k out n) s = .next (s.decodeFault t 4 9)) ∧
    status (.xclip h a clr off) 7 [clr, off] False ∧ status (.xstat h a off) 8 [off] False ∧
    status (.xcsum h a off) 9 [off] (foreign a)

/-- 08 R228, R229, R231, R232, R240 to R242: the crossbar's compute words. -/
def Obligations.CrossbarProducts : Prop :=
  (∀ (s w : State) (t : Nat) (h : Hdr) (acc : Bool) (g i o inoff outoff nvec route vm : Nat), RingGoes s t 4 h w →
    let T := (s.calSeen t).tile t
    let u := w.begin t 4
    let sig := (s.tile t).resolveSig h.sig
    let word : Instr := if acc = true then .xmvma h g i o inoff outoff nvec route vm else .xmvm h g i o inoff outoff nvec route vm
    let stops (cause a check : Nat) : Out := .next (u.execFault t 4 cause (BitVec.ofNat 64 (a * 256 + check)) sig)
    let ri := T.xring 0 i
    let ro := T.xring 1 o
    let full : Prop := 8 ≤ (s.tile t).xcmds.length
    (full → exec word s = .next s) ∧
    (¬ full → FM.find? T.xgroups g = none → exec word s = stops 0x41 0 1) ∧
    (∀ x, FM.find? T.xgroups g = some x →
      let enc := (T.array x.first).enc
      let outs := (List.range ((if enc = 1 then 1 else 2) * x.nn)).map fun m => (ro.head + outoff + m) % ro.nslots
      let c2 : Prop := ri.nslots = 0 ∨ ro.nslots = 0 ∨ ri.nslots < x.nk ∨ ro.nslots < (if enc = 1 then 1 else 2) * x.nn
      let c3 : Prop := ∃ a ∈ x.arrays, (T.array a).enc ≠ enc
      let c4 (a : Nat) : Prop := (T.array a).foreign T.ctx = true
      let clash : Prop := ∃ c ∈ (s.tile t).xcmds, c.2.o = o ∧ ∃ m ∈ c.2.outIdx, m ∈ outs
      (¬ full → c2 → exec word s = stops 0x41 0 2) ∧ (¬ full → ¬ c2 → c3 → exec word s = stops 0x41 0 3) ∧
      (¬ full → ¬ c2 → ¬ c3 → (∃ a ∈ x.arrays, c4 a) → ∃ a ∈ x.arrays, c4 a ∧ exec word s = stops 0x43 a 4) ∧
      (¬ full → ¬ c2 → ¬ c3 → (∀ a ∈ x.arrays, ¬ c4 a) →
        ((∃ a ∈ x.arrays, ∃ e, (T.array a).route route = .error e) →
          ∃ a ∈ x.arrays, ∃ e, (T.array a).route route = .error e ∧ exec word s = stops e a 5) ∧
        ((∀ a ∈ x.arrays, ∃ r, (T.array a).route route = .ok r) →
          (clash → exec word s = .next s) ∧
          (¬ clash → ∃ c : XCmd, exec word s = .next (({ u with nextId := u.nextId + 1 } : State).updTile t fun U =>
              { U with xcmds := FM.set U.xcmds s.nextId c }) ∧
            c.acc = acc ∧ c.first = x.first ∧ c.nk = x.nk ∧ c.nn = x.nn ∧ c.enc = enc ∧ c.route = route ∧ c.sig = sig ∧
            c.started = none ∧ c.landed = 0 ∧ c.from' = T.clk + 2 ∧ c.pois = none ∧
            c.ins = (List.range x.nk).map (fun q => 4096 * ri.base + 8192 * ((ri.head + inoff + q) % ri.nslots)) ∧
            c.outs = outs.map (fun m => 4096 * ro.base + 16384 * m) ∧
            (∀ v, v ∈ c.vs ↔ v ≤ nvec ∧ (vm = 0 ∨ T.xvm.testBit v = true)) ∧
            c.routes.length = x.arrays.length ∧
            ∀ q a, x.arrays[q]? = some a → (T.array a).route route = .ok (c.routes.getD q 0)))))) ∧
  (∀ A : XArray,
    let ok : Prop := A.cert.cstate = 1 ∧ A.cert.depth = A.depth ∧ A.cert.qexp = A.qexp ∧ A.cert.enc = A.enc
    let digital : Except Nat Nat := match A.shadowPtr with
      | some _ => .ok 1
      | none => .error 0x44
    (ok → A.route 0 = .ok 0) ∧ (¬ ok → A.policy = 2 → A.route 0 = digital) ∧ (¬ ok → A.policy ≠ 2 → A.route 0 = .error 0x40) ∧
    (ok ∨ A.policy ≠ 0 → A.route 1 = digital) ∧ (¬ ok → A.policy = 0 → A.route 1 = .error 0x44) ∧
    (A.cert.cstate = 3 → A.route 2 = .error 0x40) ∧ (A.cert.cstate ≠ 3 → A.route 2 = .ok 2)) ∧
  (∀ (s : State) (A : XArray) (e : Nat) (x : List Nat),
    let r := s.arrayOut A 0 e x
    r.1.1.length = xwidth A.enc ∧ (∀ j, j < xwidth A.enc → (r.1.1.getD j 0 - A.ideal x j).natAbs ≤ e) ∧
    (∀ c, c < 512 → r.1.2.testBit c = true → ∃ k, k < 8 ∧ 254 < planeFloor A.rows A.qexp A.code x c k) ∧
    (∀ c k, c < 512 → k < 8 → 256 < planeFloor A.rows A.qexp A.code x c k → r.1.2.testBit c = true) ∧
    ∃ f, r.2 = { s with free := f })

/-- 09 R250 to R274: the calibration words as they issue. -/
def Obligations.CalibrationWordsIssue : Prop :=
  ∀ (s w : State) (t : Nat) (h : Hdr) (a n g ng amp sel p rm rep col k clr src dth lk ebank dst rate setptr ptr phys : Nat),
    RingGoes s t 4 h w →
    let S := (s.calSeen t).tile t
    let A := S.array a
    let u := w.begin t 4
    let sig := (s.tile t).resolveSig h.sig
    let foreign (m : Nat) : Prop := ∃ b, a ≤ b ∧ b < a + m ∧ (S.array b).foreign S.ctx = true
    let stops (v : State) (cause detail : Nat) : Out := .next (v.execFault t 4 cause (BitVec.ofNat 64 (a * 65536 + detail)) sig)
    let cal (i : Instr) (m : Nat) (priv : Prop) (own : Option (Nat × Nat)) (own2 : List Nat → Option (Nat × Nat)) (rd : CalRead)
        (fail : Nat → State → State) (eff : List Nat → State → State) : Prop :=
      (calBusy a m s t = true → exec i s = .next s) ∧
      (calBusy a m s t = false →
        (priv → foreign m → exec i s = stops (fail 0x43 u) 0x43 0) ∧
        (¬(priv ∧ foreign m) →
          (∀ c d, own = some (c, d) → exec i s = stops (fail c u) c d) ∧
          (own = none → (∀ x v, s.calRead t a rd ≠ (.error (.held x), v)) →
            (∀ c d, own2 (s.bytes (spBase t + rd.off) rd.len) = some (c, d) → exec i s = stops u c d) ∧
            (own2 (s.bytes (spBase t + rd.off) rd.len) = none →
              (∀ bs v, u.calRead t a rd = (.ok bs, v) → v.bad = none → exec i s = .next (eff bs v)) ∧
              (∀ c d v, u.calRead t a rd = (.error (.cause c d), v) → v.bad = none → exec i s = stops v c d)))))
    let plain (_ : Nat) (v : State) : State := v
    let no2 (_ : List Nat) : Option (Nat × Nat) := none
    let work (i : Instr) (op : Nat) (vs : List Nat) (own : Option (Nat × Nat)) (own2 : List Nat → Option (Nat × Nat)) (rd : CalRead) : Prop :=
      cal i 1 (op ≠ 0x1A) own own2 rd plain fun bs v =>
        let W : CalW := ⟨op, vs, a, (s.tile t).clk + 2, none, 0, 0, 0, none, [], 0, bs, false, sig, ((v.tile t).engine 4).group⟩
        ({ v with nextId := v.nextId + 1 } : State).updTile t fun U => { U with xcal := FM.set U.xcal s.nextId W }
    let quick (i : Instr) (op m l : Nat) (vs : List Nat) (own : Option (Nat × Nat)) (own2 : List Nat → Option (Nat × Nat))
        (rd : CalRead) (fail : Nat → State → State) : Prop :=
      cal i m (op ≠ 0x15) own own2 rd fail fun bs v => (v.flyTile t l (.calEffect t op (vs ++ bs))).signalIn t 4 0 sig l none
    let no : CalRead := ⟨0, 0, 0, 0⟩
    let image : Option (Nat × Nat) := if A.image = none then some (0x4B, 0) else none
    let erase : Option (Nat × Nat) := if A.priv = true ∧ A.orphan = false ∧ A.owner ≠ S.ctx then some (0x43, 0) else none
    let uncert : Bool := decide (A.cert.cstate = 3)
    let unver : Option (Nat × Nat) := (unverified A).map fun q => (0x47, 8 * q.1 + q.2)
    work (.xprogSet h a g amp sel) 0xB [0, g, amp] none no2 ⟨4096 * sel, 16384, 0, 0⟩ ∧
    work (.xprogRst h a g amp sel) 0xB [1, g, amp] none no2 ⟨4096 * sel, 16384, 0, 0⟩ ∧
    work (.xvfy h a g ng rep) 0xC [g, ng + 1, 0, 0, rep] image no2 ⟨0, 0, 64 * g, 64 * (ng + 1)⟩ ∧
    work (.xsteep h a g ng p rm rep) 0xD [g, ng + 1, p + 1, rm, rep] image no2 ⟨0, 0, 64 * g, 64 * (ng + 1)⟩ ∧
    quick (.xremap h a col) 0xE 1 6 [a, col]
      (if uncert = true then some (0x46, 0) else if A.freeSpare = none then some (0x45, 0) else none) no2 no
      (fun c v => if c = 0x45 then v.updArray t a XArray.markUncert else v) ∧
    work (.xrefMeas h a) 0xF [0] (if A.base = none then some (0x4E, 0) else none) no2 no ∧
    work (.xrefBase h a) 0xF [1] none no2 no ∧ work (.xrefProg h a) 0xF [2] none no2 no ∧
    quick (.xdrift h a n k clr) 0x10 (n + 1) 6 [a, n + 1, k, clr] none no2 no plain ∧
    work (.xcal h a) 0x11 [] (if uncert = true then some (0x46, 0) else if A.image = none then some (0x4B, 0) else unver) no2
      ⟨0, 0, 0, depthRows (s.array t a).depth⟩ ∧
    quick (.xoffw h a src) 0x12 1 21 [a] none (fun bs => if (List.range 512).any fun c =>
        decide ((ity 3).read (half bs c) < -2048) || decide (2047 < (ity 3).read (half bs c)) then some (9, 0) else none)
      ⟨1024 * src, 1024, 0, 0⟩ plain ∧
    quick (.xgainw h a src) 0x13 1 21 [a] none no2 ⟨1024 * src, 1024, 0, 0⟩ plain ∧
    work (.xcert h a dth lk ebank) 0x14 [dth, lk, ebank]
      (if uncert = true then some (0x46, 0) else if unver ≠ none then unver
       else if ¬(A.calValid = true ∧ A.calDepth = A.depth ∧ A.calQexp = A.qexp ∧ A.calEnc = A.enc) then some (0x48, 0)
       else if A.base = none then some (0x4E, 0) else if ebank < A.calres then some (0x49, 0) else none) no2 no ∧
    quick (.xcrd h a dst) 0x15 1 69 ([a, dst] ++ A.sealed a (s.tile t).site) none no2 no plain ∧
    work (.xcld h a src) 0x16 [] (if uncert = true then some (0x46, 0) else none)
      (fun bs => if A.accepts a S.site bs = true then none else some (0x4C, 0)) ⟨4096 * src, 4096, 0, 0⟩ ∧
    quick (.xfallOff h a n setptr ptr) 0x17 (n + 1) 6 [a, n + 1, 0, setptr, ptr] none no2 no plain ∧
    quick (.xfallMan h a n setptr ptr) 0x17 (n + 1) 6 [a, n + 1, 1, setptr, ptr] none no2 no plain ∧
    quick (.xfallAuto h a n setptr ptr) 0x17 (n + 1) 6 [a, n + 1, 2, setptr, ptr] none no2 no plain ∧
    quick (.xaudit h a n rate setptr ptr) 0x18 (n + 1) 6 [a, n + 1, rate, setptr, ptr]
      (if rate ≠ 0 ∧ setptr = 0 ∧ ∃ m, m ≤ n ∧ (S.array (a + m)).image = none then some (0x4B, 0) else none) no2 no plain ∧
    work (.xrd h a g ng phys dst) 0x19 [g, ng + 1, phys, dst] none no2 no ∧
    work (.xerase h a) 0x1A [0] erase no2 no ∧ work (.xeraseRt h a) 0x1A [1] erase no2 no
end

