-- ==== Sys2Proof/Laws/Exec.lean ====
section
/-! SUPPORT. Sys2Proof/Laws/Exec.lean: the arm of each constructor, as an equation to rewrite with. -/

namespace Sys2Proof.Machine

@[simp] theorem exec_imx (h : Hdr) (ext : Nat) (s : State) : exec (.imx h ext) s = execImx h ext s := rfl
@[simp] theorem exec_scp (h : Hdr) (scope order : Nat) (s : State) : exec (.scp h scope order) s = execScp h scope order s := rfl
@[simp] theorem exec_pmt (h : Hdr) (sink clear : Nat) (s : State) : exec (.pmt h sink clear) s = execPmt h sink clear s := rfl
@[simp] theorem exec_nop (h : Hdr) (s : State) : exec (.nop h) s = execNop h s := rfl
@[simp] theorem exec_add (h : Hdr) (d a b : Nat) (s : State) : exec (.add h d a b) s = execAdd h d a b s := rfl
@[simp] theorem exec_sub (h : Hdr) (d a b : Nat) (s : State) : exec (.sub h d a b) s = execSub h d a b s := rfl
@[simp] theorem exec_mul (h : Hdr) (d a b : Nat) (s : State) : exec (.mul h d a b) s = execMul h d a b s := rfl
@[simp] theorem exec_mulh (h : Hdr) (d a b x : Nat) (s : State) : exec (.mulh h d a b x) s = execMulh h d a b x s := rfl
@[simp] theorem exec_div (h : Hdr) (d a b x : Nat) (s : State) : exec (.div h d a b x) s = execDiv h d a b x s := rfl
@[simp] theorem exec_rem (h : Hdr) (d a b x : Nat) (s : State) : exec (.rem h d a b x) s = execRem h d a b x s := rfl
@[simp] theorem exec_and (h : Hdr) (d a b : Nat) (s : State) : exec (.and h d a b) s = execAnd h d a b s := rfl
@[simp] theorem exec_or (h : Hdr) (d a b : Nat) (s : State) : exec (.or h d a b) s = execOr h d a b s := rfl
@[simp] theorem exec_xor (h : Hdr) (d a b : Nat) (s : State) : exec (.xor h d a b) s = execXor h d a b s := rfl
@[simp] theorem exec_andn (h : Hdr) (d a b : Nat) (s : State) : exec (.andn h d a b) s = execAndn h d a b s := rfl
@[simp] theorem exec_shl (h : Hdr) (d a b : Nat) (s : State) : exec (.shl h d a b) s = execShl h d a b s := rfl
@[simp] theorem exec_shr (h : Hdr) (d a b x : Nat) (s : State) : exec (.shr h d a b x) s = execShr h d a b x s := rfl
@[simp] theorem exec_rot (h : Hdr) (d a b : Nat) (s : State) : exec (.rot h d a b) s = execRot h d a b s := rfl
@[simp] theorem exec_min (h : Hdr) (d a b x : Nat) (s : State) : exec (.min h d a b x) s = execMin h d a b x s := rfl
@[simp] theorem exec_max (h : Hdr) (d a b x : Nat) (s : State) : exec (.max h d a b x) s = execMax h d a b x s := rfl
@[simp] theorem exec_clz (h : Hdr) (d a : Nat) (s : State) : exec (.clz h d a) s = execClz h d a s := rfl
@[simp] theorem exec_ctz (h : Hdr) (d a : Nat) (s : State) : exec (.ctz h d a) s = execCtz h d a s := rfl
@[simp] theorem exec_popc (h : Hdr) (d a : Nat) (s : State) : exec (.popc h d a) s = execPopc h d a s := rfl
@[simp] theorem exec_addi (h : Hdr) (d a imm : Nat) (s : State) : exec (.addi h d a imm) s = execAddi h d a imm s := rfl
@[simp] theorem exec_muli (h : Hdr) (d a imm : Nat) (s : State) : exec (.muli h d a imm) s = execMuli h d a imm s := rfl
@[simp] theorem exec_andi (h : Hdr) (d a imm : Nat) (s : State) : exec (.andi h d a imm) s = execAndi h d a imm s := rfl
@[simp] theorem exec_ori (h : Hdr) (d a imm : Nat) (s : State) : exec (.ori h d a imm) s = execOri h d a imm s := rfl
@[simp] theorem exec_xori (h : Hdr) (d a imm : Nat) (s : State) : exec (.xori h d a imm) s = execXori h d a imm s := rfl
@[simp] theorem exec_shli (h : Hdr) (d a n : Nat) (s : State) : exec (.shli h d a n) s = execShli h d a n s := rfl
@[simp] theorem exec_shri (h : Hdr) (d a n arith : Nat) (s : State) : exec (.shri h d a n arith) s = execShri h d a n arith s := rfl
@[simp] theorem exec_li (h : Hdr) (d imm : Nat) (s : State) : exec (.li h d imm) s = execLi h d imm s := rfl
@[simp] theorem exec_sext (h : Hdr) (d a n : Nat) (s : State) : exec (.sext h d a n) s = execSext h d a n s := rfl
@[simp] theorem exec_ext (h : Hdr) (d a pos width : Nat) (s : State) : exec (.ext h d a pos width) s = execExt h d a pos width s := rfl
@[simp] theorem exec_exts (h : Hdr) (d a pos width : Nat) (s : State) : exec (.exts h d a pos width) s = execExts h d a pos width s := rfl
@[simp] theorem exec_ins (h : Hdr) (d a pos width : Nat) (s : State) : exec (.ins h d a pos width) s = execIns h d a pos width s := rfl
@[simp] theorem exec_fsh (h : Hdr) (d a b n : Nat) (s : State) : exec (.fsh h d a b n) s = execFsh h d a b n s := rfl
@[simp] theorem exec_cmp (h : Hdr) (d a b cond : Nat) (s : State) : exec (.cmp h d a b cond) s = execCmp h d a b cond s := rfl
@[simp] theorem exec_seqi (h : Hdr) (d a imm : Nat) (s : State) : exec (.seqi h d a imm) s = execSeqi h d a imm s := rfl
@[simp] theorem exec_slti (h : Hdr) (d a imm : Nat) (s : State) : exec (.slti h d a imm) s = execSlti h d a imm s := rfl
@[simp] theorem exec_sltui (h : Hdr) (d a imm : Nat) (s : State) : exec (.sltui h d a imm) s = execSltui h d a imm s := rfl
@[simp] theorem exec_sel (h : Hdr) (d a b c : Nat) (s : State) : exec (.sel h d a b c) s = execSel h d a b c s := rfl
@[simp] theorem exec_b (h : Hdr) (cond a off : Nat) (s : State) : exec (.b h cond a off) s = execB h cond a off s := rfl
@[simp] theorem exec_jmp (h : Hdr) (a imm : Nat) (s : State) : exec (.jmp h a imm) s = execJmp h a imm s := rfl
@[simp] theorem exec_call (h : Hdr) (off : Nat) (s : State) : exec (.call h off) s = execCall h off s := rfl
@[simp] theorem exec_callr (h : Hdr) (d a imm : Nat) (s : State) : exec (.callr h d a imm) s = execCallr h d a imm s := rfl
@[simp] theorem exec_ret (h : Hdr) (s : State) : exec (.ret h) s = execRet h s := rfl
@[simp] theorem exec_loop (h : Hdr) (a off : Nat) (s : State) : exec (.loop h a off) s = execLoop h a off s := rfl
@[simp] theorem exec_crng (h : Hdr) (d a b : Nat) (s : State) : exec (.crng h d a b) s = execCrng h d a b s := rfl
@[simp] theorem exec_fork (h : Hdr) (eng routine cnt : Nat) (s : State) : exec (.fork h eng routine cnt) s = execFork h eng routine cnt s := rfl
@[simp] theorem exec_ringp (h : Hdr) (d a eng : Nat) (s : State) : exec (.ringp h d a eng) s = execRingp h d a eng s := rfl
@[simp] theorem exec_ringp2 (h : Hdr) (d a b eng : Nat) (s : State) : exec (.ringp2 h d a b eng) s = execRingp2 h d a b eng s := rfl
@[simp] theorem exec_ringq (h : Hdr) (d eng : Nat) (s : State) : exec (.ringq h d eng) s = execRingq h d eng s := rfl
@[simp] theorem exec_semset (h : Hdr) (n v : Nat) (s : State) : exec (.semset h n v) s = execSemset h n v s := rfl
@[simp] theorem exec_semrd (h : Hdr) (n d : Nat) (s : State) : exec (.semrd h n d) s = execSemrd h n d s := rfl
@[simp] theorem exec_tokrd (h : Hdr) (prod cons d : Nat) (s : State) : exec (.tokrd h prod cons d) s = execTokrd h prod cons d s := rfl
@[simp] theorem exec_bhmap (h : Hdr) (slot n : Nat) (s : State) : exec (.bhmap h slot n) s = execBhmap h slot n s := rfl
@[simp] theorem exec_mtwr (h : Hdr) (level field a : Nat) (s : State) : exec (.mtwr h level field a) s = execMtwr h level field a s := rfl
@[simp] theorem exec_sysrd (h : Hdr) (d reg : Nat) (s : State) : exec (.sysrd h d reg) s = execSysrd h d reg s := rfl
@[simp] theorem exec_syswr (h : Hdr) (a reg : Nat) (s : State) : exec (.syswr h a reg) s = execSyswr h a reg s := rfl
@[simp] theorem exec_done (h : Hdr) (s : State) : exec (.done h) s = execDone h s := rfl
@[simp] theorem exec_hend (h : Hdr) (s : State) : exec (.hend h) s = execHend h s := rfl
@[simp] theorem exec_synrd (h : Hdr) (d cfg kind col foreign idx : Nat) (s : State) : exec (.synrd h d cfg kind col foreign idx) s = execSynrd h d cfg kind col foreign idx s := rfl
@[simp] theorem exec_scrub (h : Hdr) (kind col foreign idx rst : Nat) (s : State) : exec (.scrub h kind col foreign idx rst) s = execScrub h kind col foreign idx rst s := rfl
@[simp] theorem exec_poison (h : Hdr) (kind col foreign idx cause : Nat) (s : State) : exec (.poison h kind col foreign idx cause) s = execPoison h kind col foreign idx cause s := rfl
@[simp] theorem exec_binitTile (h : Hdr) (slot target : Nat) (s : State) : exec (.binitTile h slot target) s = execBinitTile h slot target s := rfl
@[simp] theorem exec_binitCol (h : Hdr) (slot target : Nat) (s : State) : exec (.binitCol h slot target) s = execBinitCol h slot target s := rfl
@[simp] theorem exec_binitDev (h : Hdr) (slot target home : Nat) (s : State) : exec (.binitDev h slot target home) s = execBinitDev h slot target home s := rfl
@[simp] theorem exec_cwpost (h : Hdr) (n a : Nat) (s : State) : exec (.cwpost h n a) s = execCwpost h n a s := rfl
@[simp] theorem exec_ctlFence (h : Hdr) (s : State) : exec (.ctlFence h) s = execCtlFence h s := rfl
@[simp] theorem exec_bsflush (h : Hdr) (col foreign first count : Nat) (s : State) : exec (.bsflush h col foreign first count) s = execBsflush h col foreign first count s := rfl
@[simp] theorem exec_bsinv (h : Hdr) (col foreign first count : Nat) (s : State) : exec (.bsinv h col foreign first count) s = execBsinv h col foreign first count s := rfl
@[simp] theorem exec_bspset (h : Hdr) (d n : Nat) (s : State) : exec (.bspset h d n) s = execBspset h d n s := rfl
@[simp] theorem exec_launch (h : Hdr) (sheaf cwen cw : Nat) (s : State) : exec (.launch h sheaf cwen cw) s = execLaunch h sheaf cwen cw s := rfl
@[simp] theorem exec_preemptStop (h : Hdr) (col row : Nat) (s : State) : exec (.preemptStop h col row) s = execPreemptStop h col row s := rfl
@[simp] theorem exec_preemptResume (h : Hdr) (col row : Nat) (s : State) : exec (.preemptResume h col row) s = execPreemptResume h col row s := rfl
@[simp] theorem exec_snaprd (h : Hdr) (d n row col : Nat) (s : State) : exec (.snaprd h d n row col) s = execSnaprd h d n row col s := rfl
@[simp] theorem exec_snapwr (h : Hdr) (a n row col : Nat) (s : State) : exec (.snapwr h a n row col) s = execSnapwr h a n row col s := rfl
@[simp] theorem exec_ctxsave (h : Hdr) (col row full : Nat) (s : State) : exec (.ctxsave h col row full) s = execCtxsave h col row full s := rfl
@[simp] theorem exec_ctxrest (h : Hdr) (col row : Nat) (s : State) : exec (.ctxrest h col row) s = execCtxrest h col row s := rfl
@[simp] theorem exec_ctxscrub (h : Hdr) (s : State) : exec (.ctxscrub h) s = execCtxscrub h s := rfl
@[simp] theorem exec_ctxkill (h : Hdr) (cause : Nat) (s : State) : exec (.ctxkill h cause) s = execCtxkill h cause s := rfl
@[simp] theorem exec_tld (h : Hdr) (d a b : Nat) (s : State) : exec (.tld h d a b) s = execTld h d a b s := rfl
@[simp] theorem exec_trde (h : Hdr) (d a b x : Nat) (s : State) : exec (.trde h d a b x) s = execTrde h d a b x s := rfl
@[simp] theorem exec_tmap (h : Hdr) (d a b : Nat) (s : State) : exec (.tmap h d a b) s = execTmap h d a b s := rfl
@[simp] theorem exec_tunmap (h : Hdr) (d a st ret : Nat) (s : State) : exec (.tunmap h d a st ret) s = execTunmap h d a st ret s := rfl
@[simp] theorem exec_tshd (h : Hdr) (d a b sys inv : Nat) (s : State) : exec (.tshd h d a b sys inv) s = execTshd h d a b sys inv s := rfl
@[simp] theorem exec_tprb (h : Hdr) (d a : Nat) (s : State) : exec (.tprb h d a) s = execTprb h d a s := rfl
@[simp] theorem exec_trap (h : Hdr) (v code : Nat) (s : State) : exec (.trap h v code) s = execTrap h v code s := rfl
@[simp] theorem exec_tret (h : Hdr) (s : State) : exec (.tret h) s = execTret h s := rfl
@[simp] theorem exec_tspill (h : Hdr) (f l off : Nat) (s : State) : exec (.tspill h f l off) s = execTspill h f l off s := rfl
@[simp] theorem exec_tfill (h : Hdr) (f l off : Nat) (s : State) : exec (.tfill h f l off) s = execTfill h f l off s := rfl
@[simp] theorem exec_stest (h : Hdr) (d eng part : Nat) (s : State) : exec (.stest h d eng part) s = execStest h d eng part s := rfl
@[simp] theorem exec_errrd (h : Hdr) (d idx hi : Nat) (s : State) : exec (.errrd h d idx hi) s = execErrrd h d idx hi s := rfl
@[simp] theorem exec_errrdSt (h : Hdr) (d clr : Nat) (s : State) : exec (.errrdSt h d clr) s = execErrrdSt h d clr s := rfl
@[simp] theorem exec_ldq (h : Hdr) (q c index scale disp : Nat) (s : State) : exec (.ldq h q c index scale disp) s = execLdq h q c index scale disp s := rfl
@[simp] theorem exec_ldqs (h : Hdr) (q c ab astr len rows disp : Nat) (s : State) : exec (.ldqs h q c ab astr len rows disp) s = execLdqs h q c ab astr len rows disp s := rfl
@[simp] theorem exec_ldqg (h : Hdr) (q c cl al ab len rows : Nat) (s : State) : exec (.ldqg h q c cl al ab len rows) s = execLdqg h q c cl al ab len rows s := rfl
@[simp] theorem exec_stq (h : Hdr) (q c index scale disp : Nat) (s : State) : exec (.stq h q c index scale disp) s = execStq h q c index scale disp s := rfl
@[simp] theorem exec_stqs (h : Hdr) (q c ab astr len rows disp : Nat) (s : State) : exec (.stqs h q c ab astr len rows disp) s = execStqs h q c ab astr len rows disp s := rfl
@[simp] theorem exec_stqg (h : Hdr) (q c cl al ab len rows : Nat) (s : State) : exec (.stqg h q c cl al ab len rows) s = execStqg h q c cl al ab len rows s := rfl
@[simp] theorem exec_ldb (h : Hdr) (d a imm : Nat) (s : State) : exec (.ldb h d a imm) s = execLdb h d a imm s := rfl
@[simp] theorem exec_ldh (h : Hdr) (d a imm : Nat) (s : State) : exec (.ldh h d a imm) s = execLdh h d a imm s := rfl
@[simp] theorem exec_ldw (h : Hdr) (d a imm : Nat) (s : State) : exec (.ldw h d a imm) s = execLdw h d a imm s := rfl
@[simp] theorem exec_ldd (h : Hdr) (d a imm : Nat) (s : State) : exec (.ldd h d a imm) s = execLdd h d a imm s := rfl
@[simp] theorem exec_stb (h : Hdr) (d a imm : Nat) (s : State) : exec (.stb h d a imm) s = execStb h d a imm s := rfl
@[simp] theorem exec_sth (h : Hdr) (d a imm : Nat) (s : State) : exec (.sth h d a imm) s = execSth h d a imm s := rfl
@[simp] theorem exec_stw (h : Hdr) (d a imm : Nat) (s : State) : exec (.stw h d a imm) s = execStw h d a imm s := rfl
@[simp] theorem exec_std (h : Hdr) (d a imm : Nat) (s : State) : exec (.std h d a imm) s = execStd h d a imm s := rfl
@[simp] theorem exec_cld (h : Hdr) (d a imm : Nat) (s : State) : exec (.cld h d a imm) s = execCld h d a imm s := rfl
@[simp] theorem exec_cst (h : Hdr) (d a imm : Nat) (s : State) : exec (.cst h d a imm) s = execCst h d a imm s := rfl
@[simp] theorem exec_cder (h : Hdr) (d a b : Nat) (s : State) : exec (.cder h d a b) s = execCder h d a b s := rfl
@[simp] theorem exec_cderLen (h : Hdr) (d a b : Nat) (s : State) : exec (.cderLen h d a b) s = execCderLen h d a b s := rfl
@[simp] theorem exec_cperm (h : Hdr) (d a mask : Nat) (s : State) : exec (.cperm h d a mask) s = execCperm h d a mask s := rfl
@[simp] theorem exec_cget (h : Hdr) (d a f : Nat) (s : State) : exec (.cget h d a f) s = execCget h d a f s := rfl
@[simp] theorem exec_ctest (h : Hdr) (d a b need : Nat) (s : State) : exec (.ctest h d a b need) s = execCtest h d a b need s := rfl
@[simp] theorem exec_aadd (h : Hdr) (d a b : Nat) (s : State) : exec (.aadd h d a b) s = execAadd h d a b s := rfl
@[simp] theorem exec_asub (h : Hdr) (d a b : Nat) (s : State) : exec (.asub h d a b) s = execAsub h d a b s := rfl
@[simp] theorem exec_aaddi (h : Hdr) (d a imm : Nat) (s : State) : exec (.aaddi h d a imm) s = execAaddi h d a imm s := rfl
@[simp] theorem exec_amuli (h : Hdr) (d a imm : Nat) (s : State) : exec (.amuli h d a imm) s = execAmuli h d a imm s := rfl
@[simp] theorem exec_ashli (h : Hdr) (d a n : Nat) (s : State) : exec (.ashli h d a n) s = execAshli h d a n s := rfl
@[simp] theorem exec_aandi (h : Hdr) (d a imm : Nat) (s : State) : exec (.aandi h d a imm) s = execAandi h d a imm s := rfl
@[simp] theorem exec_ali (h : Hdr) (d imm : Nat) (s : State) : exec (.ali h d imm) s = execAli h d imm s := rfl
@[simp] theorem exec_rdset (h : Hdr) (eng a : Nat) (s : State) : exec (.rdset h eng a) s = execRdset h eng a s := rfl
@[simp] theorem exec_rdget (h : Hdr) (eng d : Nat) (s : State) : exec (.rdget h eng d) s = execRdget h eng d s := rfl
@[simp] theorem exec_mark (h : Hdr) (s : State) : exec (.mark h) s = execMark h s := rfl
@[simp] theorem exec_amoadd (h : Hdr) (d a b w : Nat) (s : State) : exec (.amoadd h d a b w) s = execAmoadd h d a b w s := rfl
@[simp] theorem exec_amofadd (h : Hdr) (d a b w : Nat) (s : State) : exec (.amofadd h d a b w) s = execAmofadd h d a b w s := rfl
@[simp] theorem exec_amomin (h : Hdr) (d a b w u : Nat) (s : State) : exec (.amomin h d a b w u) s = execAmomin h d a b w u s := rfl
@[simp] theorem exec_amomax (h : Hdr) (d a b w u : Nat) (s : State) : exec (.amomax h d a b w u) s = execAmomax h d a b w u s := rfl
@[simp] theorem exec_amoand (h : Hdr) (d a b w : Nat) (s : State) : exec (.amoand h d a b w) s = execAmoand h d a b w s := rfl
@[simp] theorem exec_amoor (h : Hdr) (d a b w : Nat) (s : State) : exec (.amoor h d a b w) s = execAmoor h d a b w s := rfl
@[simp] theorem exec_amoxor (h : Hdr) (d a b w : Nat) (s : State) : exec (.amoxor h d a b w) s = execAmoxor h d a b w s := rfl
@[simp] theorem exec_amoswp (h : Hdr) (d a b w : Nat) (s : State) : exec (.amoswp h d a b w) s = execAmoswp h d a b w s := rfl
@[simp] theorem exec_amocas (h : Hdr) (d a b w : Nat) (s : State) : exec (.amocas h d a b w) s = execAmocas h d a b w s := rfl
@[simp] theorem exec_mwait (h : Hdr) (d a b k : Nat) (s : State) : exec (.mwait h d a b k) s = execMwait h d a b k s := rfl
@[simp] theorem exec_putr (h : Hdr) (cs cd so dof ln sen sem : Nat) (s : State) : exec (.putr h cs cd so dof ln sen sem) s = execPutr h cs cd so dof ln sen sem s := rfl
@[simp] theorem exec_puth (h : Hdr) (cs cd so dof ln ha arg : Nat) (s : State) : exec (.puth h cs cd so dof ln ha arg) s = execPuth h cs cd so dof ln ha arg s := rfl
@[simp] theorem exec_rred (h : Hdr) (cs cd so dof cnt op ty sen sem : Nat) (s : State) : exec (.rred h cs cd so dof cnt op ty sen sem) s = execRred h cs cd so dof cnt op ty sen sem s := rfl
@[simp] theorem exec_dqpush (h : Hdr) (dq v st col foreign : Nat) (s : State) : exec (.dqpush h dq v st col foreign) s = execDqpush h dq v st col foreign s := rfl
@[simp] theorem exec_dqpop (h : Hdr) (dq v st col foreign : Nat) (s : State) : exec (.dqpop h dq v st col foreign) s = execDqpop h dq v st col foreign s := rfl
@[simp] theorem exec_dqsteal (h : Hdr) (dq v st col foreign : Nat) (s : State) : exec (.dqsteal h dq v st col foreign) s = execDqsteal h dq v st col foreign s := rfl
@[simp] theorem exec_l1inv (h : Hdr) (c index scale disp : Nat) (s : State) : exec (.l1inv h c index scale disp) s = execL1inv h c index scale disp s := rfl
@[simp] theorem exec_l1inva (h : Hdr) (s : State) : exec (.l1inva h) s = execL1inva h s := rfl
@[simp] theorem exec_pref (h : Hdr) (q c index scale disp : Nat) (s : State) : exec (.pref h q c index scale disp) s = execPref h q c index scale disp s := rfl
@[simp] theorem exec_qdrop (h : Hdr) (q n : Nat) (s : State) : exec (.qdrop h q n) s = execQdrop h q n s := rfl
@[simp] theorem exec_qrd (h : Hdr) (d q : Nat) (s : State) : exec (.qrd h d q) s = execQrd h d q s := rfl
@[simp] theorem exec_accFence (h : Hdr) (s : State) : exec (.accFence h) s = execAccFence h s := rfl
@[simp] theorem exec_vadd (h : Hdr) (d a b ty rnd sat : Nat) (s : State) : exec (.vadd h d a b ty rnd sat) s = execVadd h d a b ty rnd sat s := rfl
@[simp] theorem exec_vsub (h : Hdr) (d a b ty rnd sat : Nat) (s : State) : exec (.vsub h d a b ty rnd sat) s = execVsub h d a b ty rnd sat s := rfl
@[simp] theorem exec_vmul (h : Hdr) (d a b ty rnd sat : Nat) (s : State) : exec (.vmul h d a b ty rnd sat) s = execVmul h d a b ty rnd sat s := rfl
@[simp] theorem exec_vfma (h : Hdr) (d a b ty rnd sat : Nat) (s : State) : exec (.vfma h d a b ty rnd sat) s = execVfma h d a b ty rnd sat s := rfl
@[simp] theorem exec_vfms (h : Hdr) (d a b ty rnd sat : Nat) (s : State) : exec (.vfms h d a b ty rnd sat) s = execVfms h d a b ty rnd sat s := rfl
@[simp] theorem exec_vdiv (h : Hdr) (d a b ty rnd sat : Nat) (s : State) : exec (.vdiv h d a b ty rnd sat) s = execVdiv h d a b ty rnd sat s := rfl
@[simp] theorem exec_vmin (h : Hdr) (d a b ty : Nat) (s : State) : exec (.vmin h d a b ty) s = execVmin h d a b ty s := rfl
@[simp] theorem exec_vmax (h : Hdr) (d a b ty : Nat) (s : State) : exec (.vmax h d a b ty) s = execVmax h d a b ty s := rfl
@[simp] theorem exec_vabs (h : Hdr) (d a ty : Nat) (s : State) : exec (.vabs h d a ty) s = execVabs h d a ty s := rfl
@[simp] theorem exec_vneg (h : Hdr) (d a ty : Nat) (s : State) : exec (.vneg h d a ty) s = execVneg h d a ty s := rfl
@[simp] theorem exec_vsqrt (h : Hdr) (d a ty rnd sat : Nat) (s : State) : exec (.vsqrt h d a ty rnd sat) s = execVsqrt h d a ty rnd sat s := rfl
@[simp] theorem exec_vrsq (h : Hdr) (d a ty rnd sat : Nat) (s : State) : exec (.vrsq h d a ty rnd sat) s = execVrsq h d a ty rnd sat s := rfl
@[simp] theorem exec_vrcp (h : Hdr) (d a ty rnd sat : Nat) (s : State) : exec (.vrcp h d a ty rnd sat) s = execVrcp h d a ty rnd sat s := rfl
@[simp] theorem exec_vexp (h : Hdr) (d a ty : Nat) (s : State) : exec (.vexp h d a ty) s = execVexp h d a ty s := rfl
@[simp] theorem exec_vexp2 (h : Hdr) (d a ty : Nat) (s : State) : exec (.vexp2 h d a ty) s = execVexp2 h d a ty s := rfl
@[simp] theorem exec_vlog (h : Hdr) (d a ty : Nat) (s : State) : exec (.vlog h d a ty) s = execVlog h d a ty s := rfl
@[simp] theorem exec_vlog2 (h : Hdr) (d a ty : Nat) (s : State) : exec (.vlog2 h d a ty) s = execVlog2 h d a ty s := rfl
@[simp] theorem exec_vtanh (h : Hdr) (d a ty : Nat) (s : State) : exec (.vtanh h d a ty) s = execVtanh h d a ty s := rfl
@[simp] theorem exec_vsigm (h : Hdr) (d a ty : Nat) (s : State) : exec (.vsigm h d a ty) s = execVsigm h d a ty s := rfl
@[simp] theorem exec_vgelu (h : Hdr) (d a ty : Nat) (s : State) : exec (.vgelu h d a ty) s = execVgelu h d a ty s := rfl
@[simp] theorem exec_vsilu (h : Hdr) (d a ty : Nat) (s : State) : exec (.vsilu h d a ty) s = execVsilu h d a ty s := rfl
@[simp] theorem exec_vsin (h : Hdr) (d a ty : Nat) (s : State) : exec (.vsin h d a ty) s = execVsin h d a ty s := rfl
@[simp] theorem exec_vcos (h : Hdr) (d a ty : Nat) (s : State) : exec (.vcos h d a ty) s = execVcos h d a ty s := rfl
@[simp] theorem exec_verf (h : Hdr) (d a ty : Nat) (s : State) : exec (.verf h d a ty) s = execVerf h d a ty s := rfl
@[simp] theorem exec_viadd (h : Hdr) (d a b ty sat : Nat) (s : State) : exec (.viadd h d a b ty sat) s = execViadd h d a b ty sat s := rfl
@[simp] theorem exec_visub (h : Hdr) (d a b ty sat : Nat) (s : State) : exec (.visub h d a b ty sat) s = execVisub h d a b ty sat s := rfl
@[simp] theorem exec_vimul (h : Hdr) (d a b ty sat : Nat) (s : State) : exec (.vimul h d a b ty sat) s = execVimul h d a b ty sat s := rfl
@[simp] theorem exec_vimulh (h : Hdr) (d a b ty : Nat) (s : State) : exec (.vimulh h d a b ty) s = execVimulh h d a b ty s := rfl
@[simp] theorem exec_vimad (h : Hdr) (d a b ty sat : Nat) (s : State) : exec (.vimad h d a b ty sat) s = execVimad h d a b ty sat s := rfl
@[simp] theorem exec_viabs (h : Hdr) (d a ty sat : Nat) (s : State) : exec (.viabs h d a ty sat) s = execViabs h d a ty sat s := rfl
@[simp] theorem exec_vimin (h : Hdr) (d a b ty : Nat) (s : State) : exec (.vimin h d a b ty) s = execVimin h d a b ty s := rfl
@[simp] theorem exec_vimax (h : Hdr) (d a b ty : Nat) (s : State) : exec (.vimax h d a b ty) s = execVimax h d a b ty s := rfl
@[simp] theorem exec_vand (h : Hdr) (d a b : Nat) (s : State) : exec (.vand h d a b) s = execVand h d a b s := rfl
@[simp] theorem exec_vor (h : Hdr) (d a b : Nat) (s : State) : exec (.vor h d a b) s = execVor h d a b s := rfl
@[simp] theorem exec_vxor (h : Hdr) (d a b : Nat) (s : State) : exec (.vxor h d a b) s = execVxor h d a b s := rfl
@[simp] theorem exec_vandn (h : Hdr) (d a b : Nat) (s : State) : exec (.vandn h d a b) s = execVandn h d a b s := rfl
@[simp] theorem exec_vshl (h : Hdr) (d a b ty : Nat) (s : State) : exec (.vshl h d a b ty) s = execVshl h d a b ty s := rfl
@[simp] theorem exec_vshr (h : Hdr) (d a b ty arith : Nat) (s : State) : exec (.vshr h d a b ty arith) s = execVshr h d a b ty arith s := rfl
@[simp] theorem exec_vshli (h : Hdr) (d a n ty : Nat) (s : State) : exec (.vshli h d a n ty) s = execVshli h d a n ty s := rfl
@[simp] theorem exec_vshri (h : Hdr) (d a n ty arith : Nat) (s : State) : exec (.vshri h d a n ty arith) s = execVshri h d a n ty arith s := rfl
@[simp] theorem exec_vext (h : Hdr) (d a b sg : Nat) (s : State) : exec (.vext h d a b sg) s = execVext h d a b sg s := rfl
@[simp] theorem exec_vins (h : Hdr) (d a b : Nat) (s : State) : exec (.vins h d a b) s = execVins h d a b s := rfl
@[simp] theorem exec_vfsh (h : Hdr) (d a b n : Nat) (s : State) : exec (.vfsh h d a b n) s = execVfsh h d a b n s := rfl
@[simp] theorem exec_vpopc (h : Hdr) (d a : Nat) (s : State) : exec (.vpopc h d a) s = execVpopc h d a s := rfl
@[simp] theorem exec_vclz (h : Hdr) (d a : Nat) (s : State) : exec (.vclz h d a) s = execVclz h d a s := rfl
@[simp] theorem exec_vcvt (h : Hdr) (d a dt ty rnd sat : Nat) (s : State) : exec (.vcvt h d a dt ty rnd sat) s = execVcvt h d a dt ty rnd sat s := rfl
@[simp] theorem exec_vpack (h : Hdr) (d a b ty hs : Nat) (s : State) : exec (.vpack h d a b ty hs) s = execVpack h d a b ty hs s := rfl
@[simp] theorem exec_vunpk (h : Hdr) (d a sl ty : Nat) (s : State) : exec (.vunpk h d a sl ty) s = execVunpk h d a sl ty s := rfl
@[simp] theorem exec_vqnt (h : Hdr) (d a b ty : Nat) (s : State) : exec (.vqnt h d a b ty) s = execVqnt h d a b ty s := rfl
@[simp] theorem exec_vdqnt (h : Hdr) (d a b ty : Nat) (s : State) : exec (.vdqnt h d a b ty) s = execVdqnt h d a b ty s := rfl
@[simp] theorem exec_vcmp (h : Hdr) (d a b ty cond : Nat) (s : State) : exec (.vcmp h d a b ty cond) s = execVcmp h d a b ty cond s := rfl
@[simp] theorem exec_vcmpi (h : Hdr) (d a cond imm : Nat) (s : State) : exec (.vcmpi h d a cond imm) s = execVcmpi h d a cond imm s := rfl
@[simp] theorem exec_vsel (h : Hdr) (d a b n : Nat) (s : State) : exec (.vsel h d a b n) s = execVsel h d a b n s := rfl
@[simp] theorem exec_vclamp (h : Hdr) (d a b ty : Nat) (s : State) : exec (.vclamp h d a b ty) s = execVclamp h d a b ty s := rfl
@[simp] theorem exec_mand (h : Hdr) (d a b : Nat) (s : State) : exec (.mand h d a b) s = execMand h d a b s := rfl
@[simp] theorem exec_mor (h : Hdr) (d a b : Nat) (s : State) : exec (.mor h d a b) s = execMor h d a b s := rfl
@[simp] theorem exec_mxor (h : Hdr) (d a b : Nat) (s : State) : exec (.mxor h d a b) s = execMxor h d a b s := rfl
@[simp] theorem exec_mnot (h : Hdr) (d a : Nat) (s : State) : exec (.mnot h d a) s = execMnot h d a s := rfl
@[simp] theorem exec_mpopc (h : Hdr) (d a : Nat) (s : State) : exec (.mpopc h d a) s = execMpopc h d a s := rfl
@[simp] theorem exec_mset (h : Hdr) (d rs n : Nat) (s : State) : exec (.mset h d rs n) s = execMset h d rs n s := rfl
@[simp] theorem exec_vmov (h : Hdr) (d a : Nat) (s : State) : exec (.vmov h d a) s = execVmov h d a s := rfl
@[simp] theorem exec_vsplat (h : Hdr) (d imm : Nat) (s : State) : exec (.vsplat h d imm) s = execVsplat h d imm s := rfl
@[simp] theorem exec_vbcr (h : Hdr) (d a n : Nat) (s : State) : exec (.vbcr h d a n) s = execVbcr h d a n s := rfl
@[simp] theorem exec_vbcc (h : Hdr) (d a n : Nat) (s : State) : exec (.vbcc h d a n) s = execVbcc h d a n s := rfl
@[simp] theorem exec_vrotr (h : Hdr) (d a n : Nat) (s : State) : exec (.vrotr h d a n) s = execVrotr h d a n s := rfl
@[simp] theorem exec_vrotc (h : Hdr) (d a n : Nat) (s : State) : exec (.vrotc h d a n) s = execVrotc h d a n s := rfl
@[simp] theorem exec_vperm (h : Hdr) (d a b : Nat) (s : State) : exec (.vperm h d a b) s = execVperm h d a b s := rfl
@[simp] theorem exec_vlut (h : Hdr) (d a b : Nat) (s : State) : exec (.vlut h d a b) s = execVlut h d a b s := rfl
@[simp] theorem exec_vredr (h : Hdr) (d a op ty rnd sat : Nat) (s : State) : exec (.vredr h d a op ty rnd sat) s = execVredr h d a op ty rnd sat s := rfl
@[simp] theorem exec_vredc (h : Hdr) (d a op ty rnd sat : Nat) (s : State) : exec (.vredc h d a op ty rnd sat) s = execVredc h d a op ty rnd sat s := rfl
@[simp] theorem exec_vscan (h : Hdr) (d a op axis ty rnd sat : Nat) (s : State) : exec (.vscan h d a op axis ty rnd sat) s = execVscan h d a op axis ty rnd sat s := rfl
@[simp] theorem exec_vtrn (h : Hdr) (d a : Nat) (s : State) : exec (.vtrn h d a) s = execVtrn h d a s := rfl
@[simp] theorem exec_vmovfa (h : Hdr) (d a q : Nat) (s : State) : exec (.vmovfa h d a q) s = execVmovfa h d a q s := rfl
@[simp] theorem exec_vmovta (h : Hdr) (d a q : Nat) (s : State) : exec (.vmovta h d a q) s = execVmovta h d a q s := rfl
@[simp] theorem exec_vrotset (h : Hdr) (n m : Nat) (s : State) : exec (.vrotset h n m) s = execVrotset h n m s := rfl
@[simp] theorem exec_vloop (h : Hdr) (cnt off : Nat) (s : State) : exec (.vloop h cnt off) s = execVloop h cnt off s := rfl
@[simp] theorem exec_expmax (h : Hdr) (d a new : Nat) (s : State) : exec (.expmax h d a new) s = execExpmax h d a new s := rfl
@[simp] theorem exec_expnrm (h : Hdr) (d a b : Nat) (s : State) : exec (.expnrm h d a b) s = execExpnrm h d a b s := rfl
@[simp] theorem exec_vwelu (h : Hdr) (d a : Nat) (s : State) : exec (.vwelu h d a) s = execVwelu h d a s := rfl
@[simp] theorem exec_vwelm (h : Hdr) (d a : Nat) (s : State) : exec (.vwelm h d a) s = execVwelm h d a s := rfl
@[simp] theorem exec_conft (h : Hdr) (d a thr : Nat) (s : State) : exec (.conft h d a thr) s = execConft h d a thr s := rfl
@[simp] theorem exec_vrng (h : Hdr) (d a b : Nat) (s : State) : exec (.vrng h d a b) s = execVrng h d a b s := rfl
@[simp] theorem exec_vidx (h : Hdr) (d : Nat) (s : State) : exec (.vidx h d) s = execVidx h d s := rfl
@[simp] theorem exec_vargmx (h : Hdr) (d a ty : Nat) (s : State) : exec (.vargmx h d a ty) s = execVargmx h d a ty s := rfl
@[simp] theorem exec_mtov (h : Hdr) (d a : Nat) (s : State) : exec (.mtov h d a) s = execMtov h d a s := rfl
@[simp] theorem exec_vtom (h : Hdr) (d a : Nat) (s : State) : exec (.vtom h d a) s = execVtom h d a s := rfl
@[simp] theorem exec_mgo (h : Hdr) (ra rb fa fb acc kel aoff boff : Nat) (s : State) : exec (.mgo h ra rb fa fb acc kel aoff boff) s = execMgo h ra rb fa fb acc kel aoff boff s := rfl
@[simp] theorem exec_mgos (h : Hdr) (ra rb fa fb acc kel aoff boff : Nat) (s : State) : exec (.mgos h ra rb fa fb acc kel aoff boff) s = execMgos h ra rb fa fb acc kel aoff boff s := rfl
@[simp] theorem exec_mtstart (h : Hdr) (d n : Nat) (s : State) : exec (.mtstart h d n) s = execMtstart h d n s := rfl
@[simp] theorem exec_mtend (h : Hdr) (s : State) : exec (.mtend h) s = execMtend h s := rfl
@[simp] theorem exec_mtsel (h : Hdr) (rs : Nat) (s : State) : exec (.mtsel h rs) s = execMtsel h rs s := rfl
@[simp] theorem exec_mtselLq (h : Hdr) (d : Nat) (s : State) : exec (.mtselLq h d) s = execMtselLq h d s := rfl
@[simp] theorem exec_mtrd (h : Hdr) (sel q : Nat) (s : State) : exec (.mtrd h sel q) s = execMtrd h sel q s := rfl
@[simp] theorem exec_mringSet (h : Hdr) (k nslots base : Nat) (s : State) : exec (.mringSet h k nslots base) s = execMringSet h k nslots base s := rfl
@[simp] theorem exec_mringAdv (h : Hdr) (k n : Nat) (s : State) : exec (.mringAdv h k n) s = execMringAdv h k n s := rfl
@[simp] theorem exec_mspmeta (h : Hdr) (k mode metabase : Nat) (s : State) : exec (.mspmeta h k mode metabase) s = execMspmeta h k mode metabase s := rfl
@[simp] theorem exec_mtzero (h : Hdr) (d n : Nat) (s : State) : exec (.mtzero h d n) s = execMtzero h d n s := rfl
@[simp] theorem exec_maccld (h : Hdr) (d a n : Nat) (s : State) : exec (.maccld h d a n) s = execMaccld h d a n s := rfl
@[simp] theorem exec_maccst (h : Hdr) (d a n : Nat) (s : State) : exec (.maccst h d a n) s = execMaccst h d a n s := rfl
@[simp] theorem exec_maccadd (h : Hdr) (d a b ty rnd sat : Nat) (s : State) : exec (.maccadd h d a b ty rnd sat) s = execMaccadd h d a b ty rnd sat s := rfl
@[simp] theorem exec_mscale (h : Hdr) (d a f : Nat) (s : State) : exec (.mscale h d a f) s = execMscale h d a f s := rfl
@[simp] theorem exec_mcvt (h : Hdr) (d a n ty rnd sat : Nat) (s : State) : exec (.mcvt h d a n ty rnd sat) s = execMcvt h d a n ty rnd sat s := rfl
@[simp] theorem exec_mflag (h : Hdr) (d mask : Nat) (s : State) : exec (.mflag h d mask) s = execMflag h d mask s := rfl
@[simp] theorem exec_mrstat (h : Hdr) (d clr : Nat) (s : State) : exec (.mrstat h d clr) s = execMrstat h d clr s := rfl
@[simp] theorem exec_xcfg (h : Hdr) (a depth qexp enc n : Nat) (s : State) : exec (.xcfg h a depth qexp enc n) s = execXcfg h a depth qexp enc n s := rfl
@[simp] theorem exec_xmask (h : Hdr) (a n rg : Nat) (s : State) : exec (.xmask h a n rg) s = execXmask h a n rg s := rfl
@[simp] theorem exec_xgrp (h : Hdr) (g first nk nn : Nat) (s : State) : exec (.xgrp h g first nk nn) s = execXgrp h g first nk nn s := rfl
@[simp] theorem exec_xringSet (h : Hdr) (k out nslots base : Nat) (s : State) : exec (.xringSet h k out nslots base) s = execXringSet h k out nslots base s := rfl
@[simp] theorem exec_xringAdv (h : Hdr) (k out n : Nat) (s : State) : exec (.xringAdv h k out n) s = execXringAdv h k out n s := rfl
@[simp] theorem exec_xringVmask (h : Hdr) (base : Nat) (s : State) : exec (.xringVmask h base) s = execXringVmask h base s := rfl
@[simp] theorem exec_xmvm (h : Hdr) (g inp o inoff outoff nvec route vm : Nat) (s : State) : exec (.xmvm h g inp o inoff outoff nvec route vm) s = execXmvm h g inp o inoff outoff nvec route vm s := rfl
@[simp] theorem exec_xmvma (h : Hdr) (g inp o inoff outoff nvec route vm : Nat) (s : State) : exec (.xmvma h g inp o inoff outoff nvec route vm) s = execXmvma h g inp o inoff outoff nvec route vm s := rfl
@[simp] theorem exec_xclip (h : Hdr) (a clr off : Nat) (s : State) : exec (.xclip h a clr off) s = execXclip h a clr off s := rfl
@[simp] theorem exec_xstat (h : Hdr) (a off : Nat) (s : State) : exec (.xstat h a off) s = execXstat h a off s := rfl
@[simp] theorem exec_xcsum (h : Hdr) (a off : Nat) (s : State) : exec (.xcsum h a off) s = execXcsum h a off s := rfl
@[simp] theorem exec_xpriv (h : Hdr) (a n : Nat) (s : State) : exec (.xpriv h a n) s = execXpriv h a n s := rfl
@[simp] theorem exec_xprivRel (h : Hdr) (a n : Nat) (s : State) : exec (.xprivRel h a n) s = execXprivRel h a n s := rfl
@[simp] theorem exec_xprogSet (h : Hdr) (a g amp sel : Nat) (s : State) : exec (.xprogSet h a g amp sel) s = execXprogSet h a g amp sel s := rfl
@[simp] theorem exec_xprogRst (h : Hdr) (a g amp sel : Nat) (s : State) : exec (.xprogRst h a g amp sel) s = execXprogRst h a g amp sel s := rfl
@[simp] theorem exec_xvfy (h : Hdr) (a g ng rep : Nat) (s : State) : exec (.xvfy h a g ng rep) s = execXvfy h a g ng rep s := rfl
@[simp] theorem exec_xsteep (h : Hdr) (a g ng p rm rep : Nat) (s : State) : exec (.xsteep h a g ng p rm rep) s = execXsteep h a g ng p rm rep s := rfl
@[simp] theorem exec_xremap (h : Hdr) (a col : Nat) (s : State) : exec (.xremap h a col) s = execXremap h a col s := rfl
@[simp] theorem exec_xrefMeas (h : Hdr) (a : Nat) (s : State) : exec (.xrefMeas h a) s = execXrefMeas h a s := rfl
@[simp] theorem exec_xrefBase (h : Hdr) (a : Nat) (s : State) : exec (.xrefBase h a) s = execXrefBase h a s := rfl
@[simp] theorem exec_xrefProg (h : Hdr) (a : Nat) (s : State) : exec (.xrefProg h a) s = execXrefProg h a s := rfl
@[simp] theorem exec_xdrift (h : Hdr) (a n k clr : Nat) (s : State) : exec (.xdrift h a n k clr) s = execXdrift h a n k clr s := rfl
@[simp] theorem exec_xcal (h : Hdr) (a : Nat) (s : State) : exec (.xcal h a) s = execXcal h a s := rfl
@[simp] theorem exec_xoffw (h : Hdr) (a src : Nat) (s : State) : exec (.xoffw h a src) s = execXoffw h a src s := rfl
@[simp] theorem exec_xgainw (h : Hdr) (a src : Nat) (s : State) : exec (.xgainw h a src) s = execXgainw h a src s := rfl
@[simp] theorem exec_xcert (h : Hdr) (a dth lk ebank : Nat) (s : State) : exec (.xcert h a dth lk ebank) s = execXcert h a dth lk ebank s := rfl
@[simp] theorem exec_xcrd (h : Hdr) (a dst : Nat) (s : State) : exec (.xcrd h a dst) s = execXcrd h a dst s := rfl
@[simp] theorem exec_xcld (h : Hdr) (a src : Nat) (s : State) : exec (.xcld h a src) s = execXcld h a src s := rfl
@[simp] theorem exec_xfallOff (h : Hdr) (a n setptr ptr : Nat) (s : State) : exec (.xfallOff h a n setptr ptr) s = execXfallOff h a n setptr ptr s := rfl
@[simp] theorem exec_xfallMan (h : Hdr) (a n setptr ptr : Nat) (s : State) : exec (.xfallMan h a n setptr ptr) s = execXfallMan h a n setptr ptr s := rfl
@[simp] theorem exec_xfallAuto (h : Hdr) (a n setptr ptr : Nat) (s : State) : exec (.xfallAuto h a n setptr ptr) s = execXfallAuto h a n setptr ptr s := rfl
@[simp] theorem exec_xaudit (h : Hdr) (a n rate setptr ptr : Nat) (s : State) : exec (.xaudit h a n rate setptr ptr) s = execXaudit h a n rate setptr ptr s := rfl
@[simp] theorem exec_xrd (h : Hdr) (a g ng phys dst : Nat) (s : State) : exec (.xrd h a g ng phys dst) s = execXrd h a g ng phys dst s := rfl
@[simp] theorem exec_xerase (h : Hdr) (a : Nat) (s : State) : exec (.xerase h a) s = execXerase h a s := rfl
@[simp] theorem exec_xeraseRt (h : Hdr) (a : Nat) (s : State) : exec (.xeraseRt h a) s = execXeraseRt h a s := rfl
@[simp] theorem exec_cpy (h : Hdr) (rec desc : Nat) (s : State) : exec (.cpy h rec desc) s = execCpy h rec desc s := rfl
@[simp] theorem exec_cpys (h : Hdr) (rec desc : Nat) (s : State) : exec (.cpys h rec desc) s = execCpys h rec desc s := rfl
@[simp] theorem exec_cpyg (h : Hdr) (rec desc : Nat) (s : State) : exec (.cpyg h rec desc) s = execCpyg h rec desc s := rfl
@[simp] theorem exec_cpygSct (h : Hdr) (rec desc : Nat) (s : State) : exec (.cpygSct h rec desc) s = execCpygSct h rec desc s := rfl
@[simp] theorem exec_cpyt (h : Hdr) (rec desc : Nat) (s : State) : exec (.cpyt h rec desc) s = execCpyt h rec desc s := rfl
@[simp] theorem exec_cpyx (h : Hdr) (rec desc : Nat) (s : State) : exec (.cpyx h rec desc) s = execCpyx h rec desc s := rfl
@[simp] theorem exec_fill (h : Hdr) (rec desc : Nat) (s : State) : exec (.fill h rec desc) s = execFill h rec desc s := rfl
@[simp] theorem exec_sbar (h : Hdr) (mask : Nat) (s : State) : exec (.sbar h mask) s = execSbar h mask s := rfl
@[simp] theorem exec_pfch (h : Hdr) (rec desc : Nat) (s : State) : exec (.pfch h rec desc) s = execPfch h rec desc s := rfl
@[simp] theorem exec_chksum (h : Hdr) (rec desc : Nat) (s : State) : exec (.chksum h rec desc) s = execChksum h rec desc s := rfl
@[simp] theorem exec_crec (h : Hdr) (base : Nat) (s : State) : exec (.crec h base) s = execCrec h base s := rfl
@[simp] theorem exec_cstat (h : Hdr) (rec dst : Nat) (s : State) : exec (.cstat h rec dst) s = execCstat h rec dst s := rfl
@[simp] theorem exec_cdrain (h : Hdr) (s : State) : exec (.cdrain h) s = execCdrain h s := rfl
@[simp] theorem exec_nmuld (h : Hdr) (rec src slot n : Nat) (s : State) : exec (.nmuld h rec src slot n) s = execNmuld h rec src slot n s := rfl
@[simp] theorem exec_nmustat (h : Hdr) (rec dst ch : Nat) (s : State) : exec (.nmustat h rec dst ch) s = execNmustat h rec dst ch s := rfl
@[simp] theorem exec_kvgWait (h : Hdr) (rec desc : Nat) (s : State) : exec (.kvgWait h rec desc) s = execKvgWait h rec desc s := rfl
@[simp] theorem exec_kvgMask (h : Hdr) (rec desc : Nat) (s : State) : exec (.kvgMask h rec desc) s = execKvgMask h rec desc s := rfl
@[simp] theorem exec_kvout (h : Hdr) (rec desc : Nat) (s : State) : exec (.kvout h rec desc) s = execKvout h rec desc s := rfl
@[simp] theorem exec_kvin (h : Hdr) (rec desc : Nat) (s : State) : exec (.kvin h rec desc) s = execKvin h rec desc s := rfl
@[simp] theorem exec_kvst (h : Hdr) (rec desc : Nat) (s : State) : exec (.kvst h rec desc) s = execKvst h rec desc s := rfl
@[simp] theorem exec_bfq (h : Hdr) (rec desc img : Nat) (s : State) : exec (.bfq h rec desc img) s = execBfq h rec desc img s := rfl
@[simp] theorem exec_bfctlLoad (h : Hdr) (rec desc : Nat) (s : State) : exec (.bfctlLoad h rec desc) s = execBfctlLoad h rec desc s := rfl
@[simp] theorem exec_bfctlStat (h : Hdr) (rec dst : Nat) (s : State) : exec (.bfctlStat h rec dst) s = execBfctlStat h rec dst s := rfl
@[simp] theorem exec_bfctlDrain (h : Hdr) (rec : Nat) (s : State) : exec (.bfctlDrain h rec) s = execBfctlDrain h rec s := rfl
@[simp] theorem exec_bfctlPause (h : Hdr) (rec : Nat) (s : State) : exec (.bfctlPause h rec) s = execBfctlPause h rec s := rfl
@[simp] theorem exec_bfctlRun (h : Hdr) (rec : Nat) (s : State) : exec (.bfctlRun h rec) s = execBfctlRun h rec s := rfl
@[simp] theorem exec_nadd (d a b rnd sat ty : Nat) (s : State) : exec (.nadd d a b rnd sat ty) s = execNadd d a b rnd sat ty s := rfl
@[simp] theorem exec_nsub (d a b rnd sat ty : Nat) (s : State) : exec (.nsub d a b rnd sat ty) s = execNsub d a b rnd sat ty s := rfl
@[simp] theorem exec_nmul (d a b rnd sat ty : Nat) (s : State) : exec (.nmul d a b rnd sat ty) s = execNmul d a b rnd sat ty s := rfl
@[simp] theorem exec_nfma (d a b rnd sat ty : Nat) (s : State) : exec (.nfma d a b rnd sat ty) s = execNfma d a b rnd sat ty s := rfl
@[simp] theorem exec_nmin (d a b rnd sat ty : Nat) (s : State) : exec (.nmin d a b rnd sat ty) s = execNmin d a b rnd sat ty s := rfl
@[simp] theorem exec_nmax (d a b rnd sat ty : Nat) (s : State) : exec (.nmax d a b rnd sat ty) s = execNmax d a b rnd sat ty s := rfl
@[simp] theorem exec_nabs (d a rnd sat ty : Nat) (s : State) : exec (.nabs d a rnd sat ty) s = execNabs d a rnd sat ty s := rfl
@[simp] theorem exec_nneg (d a rnd sat ty : Nat) (s : State) : exec (.nneg d a rnd sat ty) s = execNneg d a rnd sat ty s := rfl
@[simp] theorem exec_ncmpeq (d a b rnd sat ty : Nat) (s : State) : exec (.ncmpeq d a b rnd sat ty) s = execNcmpeq d a b rnd sat ty s := rfl
@[simp] theorem exec_ncmplt (d a b rnd sat ty : Nat) (s : State) : exec (.ncmplt d a b rnd sat ty) s = execNcmplt d a b rnd sat ty s := rfl
@[simp] theorem exec_ncmple (d a b rnd sat ty : Nat) (s : State) : exec (.ncmple d a b rnd sat ty) s = execNcmple d a b rnd sat ty s := rfl
@[simp] theorem exec_nsel (d a b m : Nat) (s : State) : exec (.nsel d a b m) s = execNsel d a b m s := rfl
@[simp] theorem exec_nand (d a b : Nat) (s : State) : exec (.nand d a b) s = execNand d a b s := rfl
@[simp] theorem exec_nor (d a b : Nat) (s : State) : exec (.nor d a b) s = execNor d a b s := rfl
@[simp] theorem exec_nxor (d a b : Nat) (s : State) : exec (.nxor d a b) s = execNxor d a b s := rfl
@[simp] theorem exec_nshl (d a n : Nat) (s : State) : exec (.nshl d a n) s = execNshl d a n s := rfl
@[simp] theorem exec_nshr (d a n arith : Nat) (s : State) : exec (.nshr d a n arith) s = execNshr d a n arith s := rfl
@[simp] theorem exec_ncvt (d a p sfrom rnd sat sto : Nat) (s : State) : exec (.ncvt d a p sfrom rnd sat sto) s = execNcvt d a p sfrom rnd sat sto s := rfl
@[simp] theorem exec_nbcst (d a n : Nat) (s : State) : exec (.nbcst d a n) s = execNbcst d a n s := rfl
@[simp] theorem exec_nli (d imm : Nat) (s : State) : exec (.nli d imm) s = execNli d imm s := rfl
@[simp] theorem exec_nlih (d imm : Nat) (s : State) : exec (.nlih d imm) s = execNlih d imm s := rfl
@[simp] theorem exec_nmov (d a : Nat) (s : State) : exec (.nmov d a) s = execNmov d a s := rfl
@[simp] theorem exec_nrsum (d a rnd sat ty : Nat) (s : State) : exec (.nrsum d a rnd sat ty) s = execNrsum d a rnd sat ty s := rfl
@[simp] theorem exec_nrmin (d a rnd sat ty : Nat) (s : State) : exec (.nrmin d a rnd sat ty) s = execNrmin d a rnd sat ty s := rfl
@[simp] theorem exec_nrmax (d a rnd sat ty : Nat) (s : State) : exec (.nrmax d a rnd sat ty) s = execNrmax d a rnd sat ty s := rfl
@[simp] theorem exec_nld (d st : Nat) (s : State) : exec (.nld d st) s = execNld d st s := rfl
@[simp] theorem exec_nst (a sz : Nat) (s : State) : exec (.nst a sz) s = execNst a sz s := rfl
@[simp] theorem exec_nldp (d : Nat) (s : State) : exec (.nldp d) s = execNldp d s := rfl
@[simp] theorem exec_nskip (n : Nat) (s : State) : exec (.nskip n) s = execNskip n s := rfl
@[simp] theorem exec_nloop1 (len cnt : Nat) (s : State) : exec (.nloop1 len cnt) s = execNloop1 len cnt s := rfl
@[simp] theorem exec_nloop2 (len cnt : Nat) (s : State) : exec (.nloop2 len cnt) s = execNloop2 len cnt s := rfl
@[simp] theorem exec_nend (s : State) : exec .nend s = execNend s := rfl
@[simp] theorem exec_nnop (s : State) : exec .nnop s = execNnop s := rfl
@[simp] theorem exec_nrcp (d a rnd sat ty : Nat) (s : State) : exec (.nrcp d a rnd sat ty) s = execNrcp d a rnd sat ty s := rfl
@[simp] theorem exec_nclamp (d a b rnd sat ty : Nat) (s : State) : exec (.nclamp d a b rnd sat ty) s = execNclamp d a b rnd sat ty s := rfl
@[simp] theorem exec_nscl (d a b rnd sat ty : Nat) (s : State) : exec (.nscl d a b rnd sat ty) s = execNscl d a b rnd sat ty s := rfl
@[simp] theorem exec_nramax (d a rnd sat ty : Nat) (s : State) : exec (.nramax d a rnd sat ty) s = execNramax d a rnd sat ty s := rfl
@[simp] theorem exec_ncmpne (d a b rnd sat ty : Nat) (s : State) : exec (.ncmpne d a b rnd sat ty) s = execNcmpne d a b rnd sat ty s := rfl
@[simp] theorem exec_nandn (d a b : Nat) (s : State) : exec (.nandn d a b) s = execNandn d a b s := rfl
@[simp] theorem exec_nshuf (d a b : Nat) (s : State) : exec (.nshuf d a b) s = execNshuf d a b s := rfl
@[simp] theorem exec_engineFaultDelivery (t : Nat) (s : State) : exec (.engineFaultDelivery t) s = execEngineFaultDelivery t s := rfl
@[simp] theorem exec_efltRst (t e : Nat) (s : State) : exec (.efltRst t e) s = execEfltRst t e s := rfl
@[simp] theorem exec_efltSkip (t e : Nat) (s : State) : exec (.efltSkip t e) s = execEfltSkip t e s := rfl
@[simp] theorem exec_pendingWriteLands (id : Nat) (s : State) : exec (.pendingWriteLands id) s = execPendingWriteLands id s := rfl
@[simp] theorem exec_tokenPushTakesEffect (t q : Nat) (s : State) : exec (.tokenPushTakesEffect t q) s = execTokenPushTakesEffect t q s := rfl
@[simp] theorem exec_handlerStart (t : Nat) (s : State) : exec (.handlerStart t) s = execHandlerStart t s := rfl
@[simp] theorem exec_putDelivery (id : Nat) (s : State) : exec (.putDelivery id) s = execPutDelivery id s := rfl
@[simp] theorem exec_puthRetry (id : Nat) (s : State) : exec (.puthRetry id) s = execPuthRetry id s := rfl
@[simp] theorem exec_homeArrival (id : Nat) (s : State) : exec (.homeArrival id) s = execHomeArrival id s := rfl
@[simp] theorem exec_homeUpdate (id : Nat) (s : State) : exec (.homeUpdate id) s = execHomeUpdate id s := rfl
@[simp] theorem exec_monitorWake (t v : Nat) (s : State) : exec (.monitorWake t v) s = execMonitorWake t v s := rfl
@[simp] theorem exec_mwaitTimeout (t : Nat) (s : State) : exec (.mwaitTimeout t) s = execMwaitTimeout t s := rfl
@[simp] theorem exec_monitorRetry (t : Nat) (s : State) : exec (.monitorRetry t) s = execMonitorRetry t s := rfl
@[simp] theorem exec_matrixStep (t : Nat) (s : State) : exec (.matrixStep t) s = execMatrixStep t s := rfl
@[simp] theorem exec_arrayWorkStart (t k : Nat) (s : State) : exec (.arrayWorkStart t k) s = execArrayWorkStart t k s := rfl
@[simp] theorem exec_vectorRowsLand (t k : Nat) (s : State) : exec (.vectorRowsLand t k) s = execVectorRowsLand t k s := rfl
@[simp] theorem exec_digitalRouteStep (t k : Nat) (s : State) : exec (.digitalRouteStep t k) s = execDigitalRouteStep t k s := rfl
@[simp] theorem exec_audit (t k : Nat) (s : State) : exec (.audit t k) s = execAudit t k s := rfl
@[simp] theorem exec_auditOverdue (t : Nat) (s : State) : exec (.auditOverdue t) s = execAuditOverdue t s := rfl
@[simp] theorem exec_automaticMeasurement (t a : Nat) (s : State) : exec (.automaticMeasurement t a) s = execAutomaticMeasurement t a s := rfl
@[simp] theorem exec_copyUnit (t k : Nat) (s : State) : exec (.copyUnit t k) s = execCopyUnit t k s := rfl
@[simp] theorem exec_nmuRun (ch : Nat) (s : State) : exec (.nmuRun ch) s = execNmuRun ch s := rfl
@[simp] theorem exec_nmuParityAbort (ch : Nat) (s : State) : exec (.nmuParityAbort ch) s = execNmuParityAbort ch s := rfl
@[simp] theorem exec_backfillBatch (c : Nat) (s : State) : exec (.backfillBatch c) s = execBackfillBatch c s := rfl
@[simp] theorem exec_backfillLayerComplete (c : Nat) (s : State) : exec (.backfillLayerComplete c) s = execBackfillLayerComplete c s := rfl
@[simp] theorem exec_checkerMismatch (t u fails : Nat) (s : State) : exec (.checkerMismatch t u fails) s = execCheckerMismatch t u fails s := rfl
@[simp] theorem exec_selfTestVerdict (t u fail : Nat) (s : State) : exec (.selfTestVerdict t u fail) s = execSelfTestVerdict t u fail s := rfl
@[simp] theorem exec_sramUncorrectableError (t holder idx : Nat) (s : State) : exec (.sramUncorrectableError t holder idx) s = execSramUncorrectableError t holder idx s := rfl
@[simp] theorem exec_cimUncorrectableFetch (t ctx : Nat) (s : State) : exec (.cimUncorrectableFetch t ctx) s = execCimUncorrectableFetch t ctx s := rfl
@[simp] theorem exec_hbmUncorrectableRead (pa : Nat) (s : State) : exec (.hbmUncorrectableRead pa) s = execHbmUncorrectableRead pa s := rfl
@[simp] theorem exec_faultRecordWrite (s : State) : exec .faultRecordWrite s = execFaultRecordWrite s := rfl
@[simp] theorem exec_launchAcceptance (id : Nat) (s : State) : exec (.launchAcceptance id) s = execLaunchAcceptance id s := rfl
@[simp] theorem exec_submissionEntryRead (s : State) : exec .submissionEntryRead s = execSubmissionEntryRead s := rfl
@[simp] theorem exec_bindingDecision (s : State) : exec .bindingDecision s = execBindingDecision s := rfl
@[simp] theorem exec_priorityPromotion (l k : Nat) (s : State) : exec (.priorityPromotion l k) s = execPriorityPromotion l k s := rfl
@[simp] theorem exec_taskBind (id : Nat) (s : State) : exec (.taskBind id) s = execTaskBind id s := rfl
@[simp] theorem exec_nodeCompletion (l k : Nat) (s : State) : exec (.nodeCompletion l k) s = execNodeCompletion l k s := rfl
@[simp] theorem exec_doneCompletion (t : Nat) (s : State) : exec (.doneCompletion t) s = execDoneCompletion t s := rfl
@[simp] theorem exec_stallWireFall (c holder : Nat) (s : State) : exec (.stallWireFall c holder) s = execStallWireFall c holder s := rfl
@[simp] theorem exec_replay (c n : Nat) (s : State) : exec (.replay c n) s = execReplay c n s := rfl
@[simp] theorem exec_refill (c v : Nat) (s : State) : exec (.refill c v) s = execRefill c v s := rfl
@[simp] theorem exec_sqdb (v : Nat) (s : State) : exec (.sqdb v) s = execSqdb v s := rfl
@[simp] theorem exec_registerWrite (off v : Nat) (s : State) : exec (.registerWrite off v) s = execRegisterWrite off v s := rfl
@[simp] theorem exec_createContext (s : State) : exec .createContext s = execCreateContext s := rfl
@[simp] theorem exec_tearDownContext (s : State) : exec .tearDownContext s = execTearDownContext s := rfl
@[simp] theorem exec_loadMatterKeySlot (s : State) : exec .loadMatterKeySlot s = execLoadMatterKeySlot s := rfl
@[simp] theorem exec_clearMatterKeySlot (s : State) : exec .clearMatterKeySlot s = execClearMatterKeySlot s := rfl
@[simp] theorem exec_loadObject (s : State) : exec .loadObject s = execLoadObject s := rfl
@[simp] theorem exec_fillReservePool (s : State) : exec .fillReservePool s = execFillReservePool s := rfl
@[simp] theorem exec_clearQuarantine (s : State) : exec .clearQuarantine s = execClearQuarantine s := rfl
@[simp] theorem exec_movePageHome (s : State) : exec .movePageHome s = execMovePageHome s := rfl
@[simp] theorem exec_attestationQuote (s : State) : exec .attestationQuote s = execAttestationQuote s := rfl
@[simp] theorem exec_mboxUnknownOpcode (s : State) : exec .mboxUnknownOpcode s = execMboxUnknownOpcode s := rfl
@[simp] theorem exec_coldReset (s : State) : exec .coldReset s = execColdReset s := rfl
@[simp] theorem exec_warmReset (s : State) : exec .warmReset s = execWarmReset s := rfl
@[simp] theorem exec_functionReady (f : Nat) (s : State) : exec (.functionReady f) s = execFunctionReady f s := rfl
@[simp] theorem exec_repairReapplied (c : Nat) (s : State) : exec (.repairReapplied c) s = execRepairReapplied c s := rfl
@[simp] theorem exec_flitCrcFailure (c sh wire id : Nat) (s : State) : exec (.flitCrcFailure c sh wire id) s = execFlitCrcFailure c sh wire id s := rfl
@[simp] theorem exec_wireFailureDeclared (c sh wire : Nat) (s : State) : exec (.wireFailureDeclared c sh wire) s = execWireFailureDeclared c sh wire s := rfl
@[simp] theorem exec_softRepair (c : Nat) (s : State) : exec (.softRepair c) s = execSoftRepair c s := rfl
@[simp] theorem exec_bankStoreSpareSwitch (c way isCol bad : Nat) (s : State) : exec (.bankStoreSpareSwitch c way isCol bad) s = execBankStoreSpareSwitch c way isCol bad s := rfl
@[simp] theorem exec_hbmTemperatureRead (temps : List Nat) (s : State) : exec (.hbmTemperatureRead temps) s = execHbmTemperatureRead temps s := rfl
@[simp] theorem exec_refreshBurst (ch : Nat) (s : State) : exec (.refreshBurst ch) s = execRefreshBurst ch s := rfl
@[simp] theorem exec_governorMeasurement (watts : Nat) (s : State) : exec (.governorMeasurement watts) s = execGovernorMeasurement watts s := rfl
@[simp] theorem exec_governorThrottlePeriod (c up : Nat) (s : State) : exec (.governorThrottlePeriod c up) s = execGovernorThrottlePeriod c up s := rfl
@[simp] theorem exec_thermalStopBinding (s : State) : exec .thermalStopBinding s = execThermalStopBinding s := rfl
@[simp] theorem exec_thermalPowerOff (s : State) : exec .thermalPowerOff s = execThermalPowerOff s := rfl
@[simp] theorem exec_peerFlitCrcFailure (p : Nat) (s : State) : exec (.peerFlitCrcFailure p) s = execPeerFlitCrcFailure p s := rfl
@[simp] theorem exec_peerShootdownTimeout (p : Nat) (s : State) : exec (.peerShootdownTimeout p) s = execPeerShootdownTimeout p s := rfl
@[simp] theorem exec_peerReduceReceive (p pa op ty : Nat) (vals : List Nat) (s : State) : exec (.peerReduceReceive p pa op ty vals) s = execPeerReduceReceive p pa op ty vals s := rfl
@[simp] theorem exec_wordNotAnInstruction (w : Nat) (s : State) : exec (.wordNotAnInstruction w) s = execWordNotAnInstruction w s := rfl
@[simp] theorem exec_fetchBeyondCimImage (t ctx : Nat) (s : State) : exec (.fetchBeyondCimImage t ctx) s = execFetchBeyondCimImage t ctx s := rfl
@[simp] theorem exec_accessResponse (id : Nat) (s : State) : exec (.accessResponse id) s = execAccessResponse id s := rfl
@[simp] theorem exec_inboundMemoryAccess (pa : Nat) (bytes : List Nat) (s : State) : exec (.inboundMemoryAccess pa bytes) s = execInboundMemoryAccess pa bytes s := rfl
@[simp] theorem exec_peerShootdownRequest (p ctx base len inv : Nat) (s : State) : exec (.peerShootdownRequest p ctx base len inv) s = execPeerShootdownRequest p ctx base len inv s := rfl
@[simp] theorem exec_peerShootdownAcknowledgement (p : Nat) (s : State) : exec (.peerShootdownAcknowledgement p) s = execPeerShootdownAcknowledgement p s := rfl
@[simp] theorem exec_imageStream (t : Nat) (s : State) : exec (.imageStream t) s = execImageStream t s := rfl
@[simp] theorem exec_calibrationWordComplete (t k : Nat) (s : State) : exec (.calibrationWordComplete t k) s = execCalibrationWordComplete t k s := rfl
@[simp] theorem exec_sramCorrectableError (t u : Nat) (s : State) : exec (.sramCorrectableError t u) s = execSramCorrectableError t u s := rfl

end Sys2Proof.Machine
end

