-- ==== Sys2Proof/Laws/Mem.lean ====
section
/-! SUPPORT. Sys2Proof/Laws/Mem.lean: the laws of memory: what a write is read back as, what it leaves alone, and that every operation on
memory keeps the one canonical form. -/

namespace Sys2Proof.Machine

/-- The first address listed lies above `k`. -/
def Memory.above (k : Nat) : List Host.Cell → Prop
  | [] => True
  | (a, _) :: _ => k < a

theorem wf_cons {c : Host.Cell} {m : List Host.Cell} :
    Memory.wf (c :: m) = true ↔ c.2 ≠ 0 ∧ Memory.above c.1 m ∧ Memory.wf m = true := by
  obtain ⟨k, v⟩ := c
  cases m with
  | nil => simp [Memory.wf, Memory.above]
  | cons d m => obtain ⟨k', v'⟩ := d; simp [Memory.wf, Memory.above, and_assoc]

theorem above_lt {k : Nat} {m : List Host.Cell} (h : Memory.wf m = true) (ha : Memory.above k m) : ∀ c ∈ m, k < c.1 := by
  induction m generalizing k with
  | nil => simp
  | cons d m ih =>
    obtain ⟨-, hb, hw⟩ := wf_cons.1 h
    have hd : k < d.1 := ha
    intro c hc
    rcases List.mem_cons.1 hc with rfl | hc
    · exact hd
    · exact Nat.lt_trans hd (ih hw hb c hc)

theorem above_of_lt {k : Nat} {m : List Host.Cell} (h : ∀ c ∈ m, k < c.1) : Memory.above k m := by
  cases m with
  | nil => trivial
  | cons d m => exact h d (List.mem_cons_self ..)

theorem memGet_above {k : Nat} {m : List Host.Cell} (h : ∀ c ∈ m, k < c.1) : memGet m k = 0 := by
  induction m with
  | nil => rfl
  | cons d m ih =>
    obtain ⟨a, v⟩ := d
    have : k < a := h (a, v) (List.mem_cons_self ..)
    simp only [memGet, if_neg (show ¬k = a by omega)]
    exact ih fun c hc => h c (List.mem_cons_of_mem _ hc)

theorem memIns_wf {m : List Host.Cell} {a : Nat} {b : BitVec 8} (hb : b ≠ 0) (h : Memory.wf m = true) :
    Memory.wf (memIns m a b) = true ∧ ∀ k, k < a → Memory.above k m → Memory.above k (memIns m a b) := by
  induction m with
  | nil => exact ⟨wf_cons.2 ⟨hb, trivial, rfl⟩, fun k hk _ => by simpa [memIns, Memory.above] using hk⟩
  | cons d m ih =>
    obtain ⟨x, v⟩ := d
    obtain ⟨hv, hx, hw⟩ := wf_cons.1 h
    unfold memIns
    split
    · next hlt => exact ⟨wf_cons.2 ⟨hb, hlt, h⟩, fun k hk _ => hk⟩
    · split
      · next heq =>
        subst heq
        exact ⟨wf_cons.2 ⟨hb, hx, hw⟩, fun k hk _ => hk⟩
      · next h1 h2 =>
        exact ⟨wf_cons.2 ⟨hv, (ih hw).2 x (by omega) hx, (ih hw).1⟩, fun k _ hk => hk⟩

theorem memDel_wf {m : List Host.Cell} {a : Nat} (h : Memory.wf m = true) :
    Memory.wf (memDel m a) = true ∧ ∀ k, Memory.above k m → Memory.above k (memDel m a) := by
  induction m with
  | nil => exact ⟨h, fun _ hk => hk⟩
  | cons d m ih =>
    obtain ⟨x, v⟩ := d
    obtain ⟨hv, hx, hw⟩ := wf_cons.1 h
    unfold memDel
    split
    · refine ⟨hw, fun k hk => above_of_lt fun c hc => ?_⟩
      exact Nat.lt_trans (show k < x from hk) (above_lt hw hx c hc)
    · exact ⟨wf_cons.2 ⟨hv, (ih hw).2 x hx, (ih hw).1⟩, fun k hk => hk⟩

/-- Writing a byte keeps the canonical form. -/
theorem memSet_wf {m : List Host.Cell} {a : Nat} {b : BitVec 8} (h : Memory.wf m = true) : Memory.wf (memSet m a b) = true := by
  unfold memSet
  split
  · exact (memDel_wf h).1
  · next hb => exact (memIns_wf hb h).1

theorem memGet_memIns {m : List Host.Cell} {a k : Nat} {b : BitVec 8} :
    memGet (memIns m a b) k = if k = a then b else memGet m k := by
  induction m with
  | nil => simp [memIns, memGet]
  | cons d m ih =>
    obtain ⟨x, v⟩ := d
    unfold memIns
    split
    · simp [memGet]
    · split
      · next heq => subst heq; simp only [memGet]; split <;> rfl
      · next h1 h2 =>
        simp only [memGet, ih]
        split
        · next hk => subst hk; rw [if_neg (by omega)]
        · rfl

theorem memGet_memDel {m : List Host.Cell} {a k : Nat} (h : Memory.wf m = true) :
    memGet (memDel m a) k = if k = a then 0 else memGet m k := by
  induction m with
  | nil => simp [memDel, memGet]
  | cons d m ih =>
    obtain ⟨x, v⟩ := d
    obtain ⟨-, hx, hw⟩ := wf_cons.1 h
    unfold memDel
    split
    · next heq =>
      subst heq
      simp only [memGet]
      split
      · next hk => subst hk; exact memGet_above (above_lt hw hx)
      · rfl
    · next hne =>
      simp only [memGet, ih hw]
      split
      · next hk => subst hk; rw [if_neg (by omega)]
      · rfl

/-- A byte that has been written reads as written, and every other byte as before. -/
theorem memGet_memSet {m : List Host.Cell} {a k : Nat} {b : BitVec 8} (h : Memory.wf m = true) :
    memGet (memSet m a b) k = if k = a then b else memGet m k := by
  unfold memSet
  split
  · next hb => subst hb; exact memGet_memDel h
  · exact memGet_memIns

/-- Writing bytes keeps the canonical form. -/
theorem memPut_wf {m : List Host.Cell} {a : Nat} {bs : List Nat} (h : Memory.wf m = true) : Memory.wf (memPut m a bs) = true := by
  induction bs generalizing m a with
  | nil => exact h
  | cons b bs ih => exact ih (memSet_wf h)

/-- Bytes that have been written read as written, and every other byte as before. -/
theorem memGet_memPut {m : List Host.Cell} {a k : Nat} {bs : List Nat} (h : Memory.wf m = true) :
    memGet (memPut m a bs) k = if a ≤ k ∧ k < a + bs.length then BitVec.ofNat 8 (bs.getD (k - a) 0) else memGet m k := by
  induction bs generalizing m a with
  | nil => rw [if_neg (by simp only [List.length_nil]; omega), memPut]
  | cons b bs ih =>
    rw [memPut, ih (memSet_wf h), memGet_memSet h]
    by_cases hk : k = a
    · subst hk
      rw [if_neg (by omega), if_pos rfl, if_pos (by simp only [List.length_cons]; omega)]; simp
    · by_cases hr : a + 1 ≤ k ∧ k < a + 1 + bs.length
      · rw [if_pos hr, if_pos (by simp only [List.length_cons]; omega)]
        obtain ⟨j, rfl⟩ : ∃ j, k = a + (j + 1) := ⟨k - a - 1, by omega⟩
        have e1 : a + (j + 1) - (a + 1) = j := by omega
        have e2 : a + (j + 1) - a = j + 1 := by omega
        simp [e1, e2]
      · rw [if_neg hr, if_neg hk, if_neg (by simp only [List.length_cons]; omega)]

/-- Dropping the bytes of an area keeps the canonical form. -/
theorem memFilter_wf {m : List Host.Cell} (p : Host.Cell → Bool) (h : Memory.wf m = true) : Memory.wf (m.filter p) = true := by
  induction m with
  | nil => exact h
  | cons d m ih =>
    obtain ⟨hv, hx, hw⟩ := wf_cons.1 h
    rw [List.filter_cons]
    split
    · exact wf_cons.2 ⟨hv, above_of_lt fun c hc => above_lt hw hx c (List.mem_filter.1 hc).1, ih hw⟩
    · exact ih hw

/-- What dropping the bytes of an area leaves: zero there, the rest as before. -/
theorem memGet_memFilter {m : List Host.Cell} {k : Nat} (p : Nat → Bool) :
    memGet (m.filter fun c => p c.1) k = if p k = true then memGet m k else 0 := by
  induction m with
  | nil => simp [memGet]
  | cons d m ih =>
    obtain ⟨x, v⟩ := d
    rw [List.filter_cons]
    by_cases hk : k = x
    · subst hk
      split
      · next hp =>
        simp [memGet]
      · next hp =>
        have hp : ¬p k = true := hp
        rw [ih]; simp [hp]
    · split
      · simp only [memGet, if_neg hk, ih]
      · simp only [memGet, if_neg hk, ih]

/-- Folding writes that keep the canonical form keeps it. -/
theorem foldl_wf {α : Type} (f : List Host.Cell → α → List Host.Cell) (hf : ∀ m x, Memory.wf m = true → Memory.wf (f m x) = true)
    {m : List Host.Cell} (xs : List α) (h : Memory.wf m = true) : Memory.wf (xs.foldl f m) = true := by
  induction xs generalizing m with
  | nil => exact h
  | cons x xs ih => exact ih (hf m x h)

theorem Canonical_foldl {α : Type} (f : State → α → State) (hf : ∀ s x, s.Canonical → (f s x).Canonical)
    {s : State} (xs : List α) (h : s.Canonical) : (xs.foldl f s).Canonical := by
  induction xs generalizing s with
  | nil => exact h
  | cons x xs ih => exact ih (hf s x h)

/-- A state with the memory of a canonical one is canonical. -/
theorem Canonical_of_mem {s u : State} (h : s.Canonical) (hm : u.mem = s.mem) : u.Canonical := by
  unfold State.Canonical; rw [hm]; exact h

theorem setHas_setAdd {m : List Nat} {n k : Nat} : setHas (setAdd m n) k = (k == n || setHas m k) := by
  induction m with
  | nil => simp [setAdd, setHas]
  | cons x m ih =>
    unfold setAdd
    split
    · simp [setHas]
    · split
      · next h => subst h; simp [setHas]
      · simp only [setHas, ih]
        cases (k == x) <;> cases (k == n) <;> rfl

theorem setHas_filter {m : List Nat} {k : Nat} (p : Nat → Bool) : setHas (m.filter p) k = (p k && setHas m k) := by
  induction m with
  | nil => simp [setHas]
  | cons x m ih =>
    rw [List.filter_cons]
    by_cases hk : k = x
    · subst hk
      split
      · next hp => simp [setHas, hp]
      · next hp => simp only [Bool.not_eq_true] at hp; simp [ih, hp]
    · have : (k == x) = false := by simpa using hk
      split <;> simp [setHas, ih, this]

theorem setHas_setPut {m : List Nat} {n k : Nat} {b : Bool} :
    setHas (setPut m n b) k = if k = n then b else setHas m k := by
  unfold setPut
  cases b with
  | true => simp only [if_true, setHas_setAdd]; by_cases h : k = n <;> simp [h]
  | false =>
    simp only [setDel, setHas_filter, Bool.false_eq_true, if_false]
    by_cases h : k = n <;> simp [h]

/-- Marking a page dirty changes no memory. -/
@[simp] theorem markDirty_mem (s : State) (a : Nat) : (s.markDirty a).mem = s.mem := by
  unfold State.markDirty; split <;> rfl

theorem putGranule_canonical {s : State} {a : Nat} {bs : List Nat} {p : Bool} (h : s.Canonical) :
    (s.putGranule a bs p).Canonical := memPut_wf h

theorem put_canonical {s : State} {a : Nat} {bs : List Nat} {p : Bool} (h : s.Canonical) : (s.put a bs p).Canonical :=
  Canonical_foldl _ (fun _ _ hs => putGranule_canonical hs) _ h

theorem cimPut_canonical {s : State} {t a : Nat} {bs : List Nat} (h : s.Canonical) : (s.cimPut t a bs).Canonical := memPut_wf h

theorem scrubTile_canonical {s : State} {t : Nat} (h : s.Canonical) : (s.scrubTile t).Canonical := memFilter_wf _ h

theorem zeroScratch_canonical {s : State} {x : Nat} {c : Option Nat} (h : s.Canonical) : (s.zeroScratch x c).Canonical :=
  memFilter_wf _ h

theorem zeroWays_canonical {s : State} {x m n : Nat} (h : s.Canonical) : (s.zeroWays x m n).Canonical := memFilter_wf _ h

/-- The memory of a placed word is canonical where the memory was. -/
theorem withFetchWord_mem {s : State} {n w : Nat} (h : s.Canonical) : (s.withFetchWord n w).Canonical := by
  unfold State.withFetchWord
  split
  · exact h
  · split <;> exact memPut_wf h

theorem reset_canonical : State.reset.Canonical := rfl

end Sys2Proof.Machine
end

