-- ==== Sys2Proof/Laws/State.lean ====
section
/-! SUPPORT. Sys2Proof/Laws/State.lean: what each update of State leaves alone, field by field, and reading back what was set. -/

namespace Sys2Proof.Machine

/-- A map gives back what was set. -/
@[simp] theorem FM.get_set_same {α : Type} (d v : α) (m : FM α) (n : Nat) : FM.get d (FM.set m n v) n = v := by
  induction m with
  | nil => simp [FM.set, FM.get]
  | cons p m ih =>
    obtain ⟨k, w⟩ := p
    by_cases h : n < k
    · simp [FM.set, FM.get, h]
    · by_cases e : n = k
      · simp [FM.set, FM.get, e]
      · simp [FM.set, FM.get, h, e, ih]

/-- Setting one key leaves the others. -/
theorem FM.get_set_other {α : Type} (d v : α) (m : FM α) {n k : Nat} (h : k ≠ n) :
    FM.get d (FM.set m n v) k = FM.get d m k := by
  induction m with
  | nil => simp [FM.set, FM.get, h]
  | cons p m ih =>
    obtain ⟨j, w⟩ := p
    by_cases a : n < j
    · simp [FM.set, FM.get, a, h]
    · by_cases b : n = j
      · subst b; simp [FM.set, FM.get, h]
      · simp [FM.set, FM.get, a, b, ih]

@[simp] theorem State.setTile_tc (s : State) (t : Nat) (v : Tile) : (s.setTile t v).tc = s.tc := rfl
@[simp] theorem State.setTile_cur (s : State) (t : Nat) (v : Tile) : (s.setTile t v).cur = s.cur := rfl
@[simp] theorem State.setTile_turns (s : State) (t : Nat) (v : Tile) : (s.setTile t v).turns = s.turns := rfl
@[simp] theorem State.setTile_inputs (s : State) (t : Nat) (v : Tile) : (s.setTile t v).inputs = s.inputs := rfl
@[simp] theorem State.setTile_flights (s : State) (t : Nat) (v : Tile) : (s.setTile t v).flights = s.flights := rfl
@[simp] theorem State.setTile_parked (s : State) (t : Nat) (v : Tile) : (s.setTile t v).parked = s.parked := rfl
@[simp] theorem State.setTile_nextId (s : State) (t : Nat) (v : Tile) : (s.setTile t v).nextId = s.nextId := rfl
@[simp] theorem State.setTile_free (s : State) (t : Nat) (v : Tile) : (s.setTile t v).free = s.free := rfl
@[simp] theorem State.setTile_bad (s : State) (t : Nat) (v : Tile) : (s.setTile t v).bad = s.bad := rfl
@[simp] theorem State.setTile_mem (s : State) (t : Nat) (v : Tile) : (s.setTile t v).mem = s.mem := rfl
@[simp] theorem State.setTile_pois (s : State) (t : Nat) (v : Tile) : (s.setTile t v).pois = s.pois := rfl
@[simp] theorem State.setTile_tags (s : State) (t : Nat) (v : Tile) : (s.setTile t v).tags = s.tags := rfl
@[simp] theorem State.setTile_sectors (s : State) (t : Nat) (v : Tile) : (s.setTile t v).sectors = s.sectors := rfl
@[simp] theorem State.setTile_badPages (s : State) (t : Nat) (v : Tile) : (s.setTile t v).badPages = s.badPages := rfl
@[simp] theorem State.setTile_saved (s : State) (t : Nat) (v : Tile) : (s.setTile t v).saved = s.saved := rfl
@[simp] theorem State.setTile_cols (s : State) (t : Nat) (v : Tile) : (s.setTile t v).cols = s.cols := rfl
@[simp] theorem State.setTile_ctxs (s : State) (t : Nat) (v : Tile) : (s.setTile t v).ctxs = s.ctxs := rfl
@[simp] theorem State.setTile_launches (s : State) (t : Nat) (v : Tile) : (s.setTile t v).launches = s.launches := rfl
@[simp] theorem State.setTile_nextLaunch (s : State) (t : Nat) (v : Tile) : (s.setTile t v).nextLaunch = s.nextLaunch := rfl
@[simp] theorem State.setTile_nmus (s : State) (t : Nat) (v : Tile) : (s.setTile t v).nmus = s.nmus := rfl
@[simp] theorem State.setTile_sys (s : State) (t : Nat) (v : Tile) : (s.setTile t v).sys = s.sys := rfl

@[simp] theorem State.updTile_tc (s : State) (t : Nat) (f : Tile → Tile) : (s.updTile t f).tc = s.tc := rfl
@[simp] theorem State.updTile_cur (s : State) (t : Nat) (f : Tile → Tile) : (s.updTile t f).cur = s.cur := rfl
@[simp] theorem State.updTile_turns (s : State) (t : Nat) (f : Tile → Tile) : (s.updTile t f).turns = s.turns := rfl
@[simp] theorem State.updTile_inputs (s : State) (t : Nat) (f : Tile → Tile) : (s.updTile t f).inputs = s.inputs := rfl
@[simp] theorem State.updTile_flights (s : State) (t : Nat) (f : Tile → Tile) : (s.updTile t f).flights = s.flights := rfl
@[simp] theorem State.updTile_parked (s : State) (t : Nat) (f : Tile → Tile) : (s.updTile t f).parked = s.parked := rfl
@[simp] theorem State.updTile_nextId (s : State) (t : Nat) (f : Tile → Tile) : (s.updTile t f).nextId = s.nextId := rfl
@[simp] theorem State.updTile_free (s : State) (t : Nat) (f : Tile → Tile) : (s.updTile t f).free = s.free := rfl
@[simp] theorem State.updTile_bad (s : State) (t : Nat) (f : Tile → Tile) : (s.updTile t f).bad = s.bad := rfl
@[simp] theorem State.updTile_mem (s : State) (t : Nat) (f : Tile → Tile) : (s.updTile t f).mem = s.mem := rfl
@[simp] theorem State.updTile_pois (s : State) (t : Nat) (f : Tile → Tile) : (s.updTile t f).pois = s.pois := rfl
@[simp] theorem State.updTile_tags (s : State) (t : Nat) (f : Tile → Tile) : (s.updTile t f).tags = s.tags := rfl
@[simp] theorem State.updTile_sectors (s : State) (t : Nat) (f : Tile → Tile) : (s.updTile t f).sectors = s.sectors := rfl
@[simp] theorem State.updTile_badPages (s : State) (t : Nat) (f : Tile → Tile) : (s.updTile t f).badPages = s.badPages := rfl
@[simp] theorem State.updTile_saved (s : State) (t : Nat) (f : Tile → Tile) : (s.updTile t f).saved = s.saved := rfl
@[simp] theorem State.updTile_cols (s : State) (t : Nat) (f : Tile → Tile) : (s.updTile t f).cols = s.cols := rfl
@[simp] theorem State.updTile_ctxs (s : State) (t : Nat) (f : Tile → Tile) : (s.updTile t f).ctxs = s.ctxs := rfl
@[simp] theorem State.updTile_launches (s : State) (t : Nat) (f : Tile → Tile) : (s.updTile t f).launches = s.launches := rfl
@[simp] theorem State.updTile_nextLaunch (s : State) (t : Nat) (f : Tile → Tile) : (s.updTile t f).nextLaunch = s.nextLaunch := rfl
@[simp] theorem State.updTile_nmus (s : State) (t : Nat) (f : Tile → Tile) : (s.updTile t f).nmus = s.nmus := rfl
@[simp] theorem State.updTile_sys (s : State) (t : Nat) (f : Tile → Tile) : (s.updTile t f).sys = s.sys := rfl

@[simp] theorem State.setCol_tc (s : State) (c : Nat) (v : Col) : (s.setCol c v).tc = s.tc := rfl
@[simp] theorem State.setCol_cur (s : State) (c : Nat) (v : Col) : (s.setCol c v).cur = s.cur := rfl
@[simp] theorem State.setCol_turns (s : State) (c : Nat) (v : Col) : (s.setCol c v).turns = s.turns := rfl
@[simp] theorem State.setCol_inputs (s : State) (c : Nat) (v : Col) : (s.setCol c v).inputs = s.inputs := rfl
@[simp] theorem State.setCol_flights (s : State) (c : Nat) (v : Col) : (s.setCol c v).flights = s.flights := rfl
@[simp] theorem State.setCol_parked (s : State) (c : Nat) (v : Col) : (s.setCol c v).parked = s.parked := rfl
@[simp] theorem State.setCol_nextId (s : State) (c : Nat) (v : Col) : (s.setCol c v).nextId = s.nextId := rfl
@[simp] theorem State.setCol_free (s : State) (c : Nat) (v : Col) : (s.setCol c v).free = s.free := rfl
@[simp] theorem State.setCol_bad (s : State) (c : Nat) (v : Col) : (s.setCol c v).bad = s.bad := rfl
@[simp] theorem State.setCol_mem (s : State) (c : Nat) (v : Col) : (s.setCol c v).mem = s.mem := rfl
@[simp] theorem State.setCol_pois (s : State) (c : Nat) (v : Col) : (s.setCol c v).pois = s.pois := rfl
@[simp] theorem State.setCol_tags (s : State) (c : Nat) (v : Col) : (s.setCol c v).tags = s.tags := rfl
@[simp] theorem State.setCol_sectors (s : State) (c : Nat) (v : Col) : (s.setCol c v).sectors = s.sectors := rfl
@[simp] theorem State.setCol_badPages (s : State) (c : Nat) (v : Col) : (s.setCol c v).badPages = s.badPages := rfl
@[simp] theorem State.setCol_tiles (s : State) (c : Nat) (v : Col) : (s.setCol c v).tiles = s.tiles := rfl
@[simp] theorem State.setCol_saved (s : State) (c : Nat) (v : Col) : (s.setCol c v).saved = s.saved := rfl
@[simp] theorem State.setCol_ctxs (s : State) (c : Nat) (v : Col) : (s.setCol c v).ctxs = s.ctxs := rfl
@[simp] theorem State.setCol_launches (s : State) (c : Nat) (v : Col) : (s.setCol c v).launches = s.launches := rfl
@[simp] theorem State.setCol_nextLaunch (s : State) (c : Nat) (v : Col) : (s.setCol c v).nextLaunch = s.nextLaunch := rfl
@[simp] theorem State.setCol_nmus (s : State) (c : Nat) (v : Col) : (s.setCol c v).nmus = s.nmus := rfl
@[simp] theorem State.setCol_sys (s : State) (c : Nat) (v : Col) : (s.setCol c v).sys = s.sys := rfl

@[simp] theorem State.updCol_tc (s : State) (c : Nat) (f : Col → Col) : (s.updCol c f).tc = s.tc := rfl
@[simp] theorem State.updCol_cur (s : State) (c : Nat) (f : Col → Col) : (s.updCol c f).cur = s.cur := rfl
@[simp] theorem State.updCol_turns (s : State) (c : Nat) (f : Col → Col) : (s.updCol c f).turns = s.turns := rfl
@[simp] theorem State.updCol_inputs (s : State) (c : Nat) (f : Col → Col) : (s.updCol c f).inputs = s.inputs := rfl
@[simp] theorem State.updCol_flights (s : State) (c : Nat) (f : Col → Col) : (s.updCol c f).flights = s.flights := rfl
@[simp] theorem State.updCol_parked (s : State) (c : Nat) (f : Col → Col) : (s.updCol c f).parked = s.parked := rfl
@[simp] theorem State.updCol_nextId (s : State) (c : Nat) (f : Col → Col) : (s.updCol c f).nextId = s.nextId := rfl
@[simp] theorem State.updCol_free (s : State) (c : Nat) (f : Col → Col) : (s.updCol c f).free = s.free := rfl
@[simp] theorem State.updCol_bad (s : State) (c : Nat) (f : Col → Col) : (s.updCol c f).bad = s.bad := rfl
@[simp] theorem State.updCol_mem (s : State) (c : Nat) (f : Col → Col) : (s.updCol c f).mem = s.mem := rfl
@[simp] theorem State.updCol_pois (s : State) (c : Nat) (f : Col → Col) : (s.updCol c f).pois = s.pois := rfl
@[simp] theorem State.updCol_tags (s : State) (c : Nat) (f : Col → Col) : (s.updCol c f).tags = s.tags := rfl
@[simp] theorem State.updCol_sectors (s : State) (c : Nat) (f : Col → Col) : (s.updCol c f).sectors = s.sectors := rfl
@[simp] theorem State.updCol_badPages (s : State) (c : Nat) (f : Col → Col) : (s.updCol c f).badPages = s.badPages := rfl
@[simp] theorem State.updCol_tiles (s : State) (c : Nat) (f : Col → Col) : (s.updCol c f).tiles = s.tiles := rfl
@[simp] theorem State.updCol_saved (s : State) (c : Nat) (f : Col → Col) : (s.updCol c f).saved = s.saved := rfl
@[simp] theorem State.updCol_ctxs (s : State) (c : Nat) (f : Col → Col) : (s.updCol c f).ctxs = s.ctxs := rfl
@[simp] theorem State.updCol_launches (s : State) (c : Nat) (f : Col → Col) : (s.updCol c f).launches = s.launches := rfl
@[simp] theorem State.updCol_nextLaunch (s : State) (c : Nat) (f : Col → Col) : (s.updCol c f).nextLaunch = s.nextLaunch := rfl
@[simp] theorem State.updCol_nmus (s : State) (c : Nat) (f : Col → Col) : (s.updCol c f).nmus = s.nmus := rfl
@[simp] theorem State.updCol_sys (s : State) (c : Nat) (f : Col → Col) : (s.updCol c f).sys = s.sys := rfl

@[simp] theorem State.setContext_tc (s : State) (x : Nat) (v : Context) : (s.setContext x v).tc = s.tc := rfl
@[simp] theorem State.setContext_cur (s : State) (x : Nat) (v : Context) : (s.setContext x v).cur = s.cur := rfl
@[simp] theorem State.setContext_turns (s : State) (x : Nat) (v : Context) : (s.setContext x v).turns = s.turns := rfl
@[simp] theorem State.setContext_inputs (s : State) (x : Nat) (v : Context) : (s.setContext x v).inputs = s.inputs := rfl
@[simp] theorem State.setContext_flights (s : State) (x : Nat) (v : Context) : (s.setContext x v).flights = s.flights := rfl
@[simp] theorem State.setContext_parked (s : State) (x : Nat) (v : Context) : (s.setContext x v).parked = s.parked := rfl
@[simp] theorem State.setContext_nextId (s : State) (x : Nat) (v : Context) : (s.setContext x v).nextId = s.nextId := rfl
@[simp] theorem State.setContext_free (s : State) (x : Nat) (v : Context) : (s.setContext x v).free = s.free := rfl
@[simp] theorem State.setContext_bad (s : State) (x : Nat) (v : Context) : (s.setContext x v).bad = s.bad := rfl
@[simp] theorem State.setContext_mem (s : State) (x : Nat) (v : Context) : (s.setContext x v).mem = s.mem := rfl
@[simp] theorem State.setContext_pois (s : State) (x : Nat) (v : Context) : (s.setContext x v).pois = s.pois := rfl
@[simp] theorem State.setContext_tags (s : State) (x : Nat) (v : Context) : (s.setContext x v).tags = s.tags := rfl
@[simp] theorem State.setContext_sectors (s : State) (x : Nat) (v : Context) : (s.setContext x v).sectors = s.sectors := rfl
@[simp] theorem State.setContext_badPages (s : State) (x : Nat) (v : Context) : (s.setContext x v).badPages = s.badPages := rfl
@[simp] theorem State.setContext_tiles (s : State) (x : Nat) (v : Context) : (s.setContext x v).tiles = s.tiles := rfl
@[simp] theorem State.setContext_saved (s : State) (x : Nat) (v : Context) : (s.setContext x v).saved = s.saved := rfl
@[simp] theorem State.setContext_cols (s : State) (x : Nat) (v : Context) : (s.setContext x v).cols = s.cols := rfl
@[simp] theorem State.setContext_launches (s : State) (x : Nat) (v : Context) : (s.setContext x v).launches = s.launches := rfl
@[simp] theorem State.setContext_nextLaunch (s : State) (x : Nat) (v : Context) : (s.setContext x v).nextLaunch = s.nextLaunch := rfl
@[simp] theorem State.setContext_nmus (s : State) (x : Nat) (v : Context) : (s.setContext x v).nmus = s.nmus := rfl
@[simp] theorem State.setContext_sys (s : State) (x : Nat) (v : Context) : (s.setContext x v).sys = s.sys := rfl

@[simp] theorem State.updContext_tc (s : State) (x : Nat) (f : Context → Context) : (s.updContext x f).tc = s.tc := rfl
@[simp] theorem State.updContext_cur (s : State) (x : Nat) (f : Context → Context) : (s.updContext x f).cur = s.cur := rfl
@[simp] theorem State.updContext_turns (s : State) (x : Nat) (f : Context → Context) : (s.updContext x f).turns = s.turns := rfl
@[simp] theorem State.updContext_inputs (s : State) (x : Nat) (f : Context → Context) : (s.updContext x f).inputs = s.inputs := rfl
@[simp] theorem State.updContext_flights (s : State) (x : Nat) (f : Context → Context) : (s.updContext x f).flights = s.flights := rfl
@[simp] theorem State.updContext_parked (s : State) (x : Nat) (f : Context → Context) : (s.updContext x f).parked = s.parked := rfl
@[simp] theorem State.updContext_nextId (s : State) (x : Nat) (f : Context → Context) : (s.updContext x f).nextId = s.nextId := rfl
@[simp] theorem State.updContext_free (s : State) (x : Nat) (f : Context → Context) : (s.updContext x f).free = s.free := rfl
@[simp] theorem State.updContext_bad (s : State) (x : Nat) (f : Context → Context) : (s.updContext x f).bad = s.bad := rfl
@[simp] theorem State.updContext_mem (s : State) (x : Nat) (f : Context → Context) : (s.updContext x f).mem = s.mem := rfl
@[simp] theorem State.updContext_pois (s : State) (x : Nat) (f : Context → Context) : (s.updContext x f).pois = s.pois := rfl
@[simp] theorem State.updContext_tags (s : State) (x : Nat) (f : Context → Context) : (s.updContext x f).tags = s.tags := rfl
@[simp] theorem State.updContext_sectors (s : State) (x : Nat) (f : Context → Context) : (s.updContext x f).sectors = s.sectors := rfl
@[simp] theorem State.updContext_badPages (s : State) (x : Nat) (f : Context → Context) : (s.updContext x f).badPages = s.badPages := rfl
@[simp] theorem State.updContext_tiles (s : State) (x : Nat) (f : Context → Context) : (s.updContext x f).tiles = s.tiles := rfl
@[simp] theorem State.updContext_saved (s : State) (x : Nat) (f : Context → Context) : (s.updContext x f).saved = s.saved := rfl
@[simp] theorem State.updContext_cols (s : State) (x : Nat) (f : Context → Context) : (s.updContext x f).cols = s.cols := rfl
@[simp] theorem State.updContext_launches (s : State) (x : Nat) (f : Context → Context) : (s.updContext x f).launches = s.launches := rfl
@[simp] theorem State.updContext_nextLaunch (s : State) (x : Nat) (f : Context → Context) : (s.updContext x f).nextLaunch = s.nextLaunch := rfl
@[simp] theorem State.updContext_nmus (s : State) (x : Nat) (f : Context → Context) : (s.updContext x f).nmus = s.nmus := rfl
@[simp] theorem State.updContext_sys (s : State) (x : Nat) (f : Context → Context) : (s.updContext x f).sys = s.sys := rfl

@[simp] theorem State.updCc_tc (s : State) (t c : Nat) (f : CtlCtx → CtlCtx) : (s.updCc t c f).tc = s.tc := rfl
@[simp] theorem State.updCc_cur (s : State) (t c : Nat) (f : CtlCtx → CtlCtx) : (s.updCc t c f).cur = s.cur := rfl
@[simp] theorem State.updCc_turns (s : State) (t c : Nat) (f : CtlCtx → CtlCtx) : (s.updCc t c f).turns = s.turns := rfl
@[simp] theorem State.updCc_inputs (s : State) (t c : Nat) (f : CtlCtx → CtlCtx) : (s.updCc t c f).inputs = s.inputs := rfl
@[simp] theorem State.updCc_flights (s : State) (t c : Nat) (f : CtlCtx → CtlCtx) : (s.updCc t c f).flights = s.flights := rfl
@[simp] theorem State.updCc_parked (s : State) (t c : Nat) (f : CtlCtx → CtlCtx) : (s.updCc t c f).parked = s.parked := rfl
@[simp] theorem State.updCc_nextId (s : State) (t c : Nat) (f : CtlCtx → CtlCtx) : (s.updCc t c f).nextId = s.nextId := rfl
@[simp] theorem State.updCc_free (s : State) (t c : Nat) (f : CtlCtx → CtlCtx) : (s.updCc t c f).free = s.free := rfl
@[simp] theorem State.updCc_bad (s : State) (t c : Nat) (f : CtlCtx → CtlCtx) : (s.updCc t c f).bad = s.bad := rfl
@[simp] theorem State.updCc_mem (s : State) (t c : Nat) (f : CtlCtx → CtlCtx) : (s.updCc t c f).mem = s.mem := rfl
@[simp] theorem State.updCc_pois (s : State) (t c : Nat) (f : CtlCtx → CtlCtx) : (s.updCc t c f).pois = s.pois := rfl
@[simp] theorem State.updCc_tags (s : State) (t c : Nat) (f : CtlCtx → CtlCtx) : (s.updCc t c f).tags = s.tags := rfl
@[simp] theorem State.updCc_sectors (s : State) (t c : Nat) (f : CtlCtx → CtlCtx) : (s.updCc t c f).sectors = s.sectors := rfl
@[simp] theorem State.updCc_badPages (s : State) (t c : Nat) (f : CtlCtx → CtlCtx) : (s.updCc t c f).badPages = s.badPages := rfl
@[simp] theorem State.updCc_saved (s : State) (t c : Nat) (f : CtlCtx → CtlCtx) : (s.updCc t c f).saved = s.saved := rfl
@[simp] theorem State.updCc_cols (s : State) (t c : Nat) (f : CtlCtx → CtlCtx) : (s.updCc t c f).cols = s.cols := rfl
@[simp] theorem State.updCc_ctxs (s : State) (t c : Nat) (f : CtlCtx → CtlCtx) : (s.updCc t c f).ctxs = s.ctxs := rfl
@[simp] theorem State.updCc_launches (s : State) (t c : Nat) (f : CtlCtx → CtlCtx) : (s.updCc t c f).launches = s.launches := rfl
@[simp] theorem State.updCc_nextLaunch (s : State) (t c : Nat) (f : CtlCtx → CtlCtx) : (s.updCc t c f).nextLaunch = s.nextLaunch := rfl
@[simp] theorem State.updCc_nmus (s : State) (t c : Nat) (f : CtlCtx → CtlCtx) : (s.updCc t c f).nmus = s.nmus := rfl
@[simp] theorem State.updCc_sys (s : State) (t c : Nat) (f : CtlCtx → CtlCtx) : (s.updCc t c f).sys = s.sys := rfl

@[simp] theorem State.updEng_tc (s : State) (t e : Nat) (f : Eng → Eng) : (s.updEng t e f).tc = s.tc := rfl
@[simp] theorem State.updEng_cur (s : State) (t e : Nat) (f : Eng → Eng) : (s.updEng t e f).cur = s.cur := rfl
@[simp] theorem State.updEng_turns (s : State) (t e : Nat) (f : Eng → Eng) : (s.updEng t e f).turns = s.turns := rfl
@[simp] theorem State.updEng_inputs (s : State) (t e : Nat) (f : Eng → Eng) : (s.updEng t e f).inputs = s.inputs := rfl
@[simp] theorem State.updEng_flights (s : State) (t e : Nat) (f : Eng → Eng) : (s.updEng t e f).flights = s.flights := rfl
@[simp] theorem State.updEng_parked (s : State) (t e : Nat) (f : Eng → Eng) : (s.updEng t e f).parked = s.parked := rfl
@[simp] theorem State.updEng_nextId (s : State) (t e : Nat) (f : Eng → Eng) : (s.updEng t e f).nextId = s.nextId := rfl
@[simp] theorem State.updEng_free (s : State) (t e : Nat) (f : Eng → Eng) : (s.updEng t e f).free = s.free := rfl
@[simp] theorem State.updEng_bad (s : State) (t e : Nat) (f : Eng → Eng) : (s.updEng t e f).bad = s.bad := rfl
@[simp] theorem State.updEng_mem (s : State) (t e : Nat) (f : Eng → Eng) : (s.updEng t e f).mem = s.mem := rfl
@[simp] theorem State.updEng_pois (s : State) (t e : Nat) (f : Eng → Eng) : (s.updEng t e f).pois = s.pois := rfl
@[simp] theorem State.updEng_tags (s : State) (t e : Nat) (f : Eng → Eng) : (s.updEng t e f).tags = s.tags := rfl
@[simp] theorem State.updEng_sectors (s : State) (t e : Nat) (f : Eng → Eng) : (s.updEng t e f).sectors = s.sectors := rfl
@[simp] theorem State.updEng_badPages (s : State) (t e : Nat) (f : Eng → Eng) : (s.updEng t e f).badPages = s.badPages := rfl
@[simp] theorem State.updEng_saved (s : State) (t e : Nat) (f : Eng → Eng) : (s.updEng t e f).saved = s.saved := rfl
@[simp] theorem State.updEng_cols (s : State) (t e : Nat) (f : Eng → Eng) : (s.updEng t e f).cols = s.cols := rfl
@[simp] theorem State.updEng_ctxs (s : State) (t e : Nat) (f : Eng → Eng) : (s.updEng t e f).ctxs = s.ctxs := rfl
@[simp] theorem State.updEng_launches (s : State) (t e : Nat) (f : Eng → Eng) : (s.updEng t e f).launches = s.launches := rfl
@[simp] theorem State.updEng_nextLaunch (s : State) (t e : Nat) (f : Eng → Eng) : (s.updEng t e f).nextLaunch = s.nextLaunch := rfl
@[simp] theorem State.updEng_nmus (s : State) (t e : Nat) (f : Eng → Eng) : (s.updEng t e f).nmus = s.nmus := rfl
@[simp] theorem State.updEng_sys (s : State) (t e : Nat) (f : Eng → Eng) : (s.updEng t e f).sys = s.sys := rfl

@[simp] theorem State.fly_tc (s : State) (k : Clk) (d : Nat) (fl : Fl) : (s.fly k d fl).tc = s.tc := rfl
@[simp] theorem State.fly_cur (s : State) (k : Clk) (d : Nat) (fl : Fl) : (s.fly k d fl).cur = s.cur := rfl
@[simp] theorem State.fly_turns (s : State) (k : Clk) (d : Nat) (fl : Fl) : (s.fly k d fl).turns = s.turns := rfl
@[simp] theorem State.fly_inputs (s : State) (k : Clk) (d : Nat) (fl : Fl) : (s.fly k d fl).inputs = s.inputs := rfl
@[simp] theorem State.fly_parked (s : State) (k : Clk) (d : Nat) (fl : Fl) : (s.fly k d fl).parked = s.parked := rfl
@[simp] theorem State.fly_free (s : State) (k : Clk) (d : Nat) (fl : Fl) : (s.fly k d fl).free = s.free := rfl
@[simp] theorem State.fly_bad (s : State) (k : Clk) (d : Nat) (fl : Fl) : (s.fly k d fl).bad = s.bad := rfl
@[simp] theorem State.fly_mem (s : State) (k : Clk) (d : Nat) (fl : Fl) : (s.fly k d fl).mem = s.mem := rfl
@[simp] theorem State.fly_pois (s : State) (k : Clk) (d : Nat) (fl : Fl) : (s.fly k d fl).pois = s.pois := rfl
@[simp] theorem State.fly_tags (s : State) (k : Clk) (d : Nat) (fl : Fl) : (s.fly k d fl).tags = s.tags := rfl
@[simp] theorem State.fly_sectors (s : State) (k : Clk) (d : Nat) (fl : Fl) : (s.fly k d fl).sectors = s.sectors := rfl
@[simp] theorem State.fly_badPages (s : State) (k : Clk) (d : Nat) (fl : Fl) : (s.fly k d fl).badPages = s.badPages := rfl
@[simp] theorem State.fly_tiles (s : State) (k : Clk) (d : Nat) (fl : Fl) : (s.fly k d fl).tiles = s.tiles := rfl
@[simp] theorem State.fly_saved (s : State) (k : Clk) (d : Nat) (fl : Fl) : (s.fly k d fl).saved = s.saved := rfl
@[simp] theorem State.fly_cols (s : State) (k : Clk) (d : Nat) (fl : Fl) : (s.fly k d fl).cols = s.cols := rfl
@[simp] theorem State.fly_ctxs (s : State) (k : Clk) (d : Nat) (fl : Fl) : (s.fly k d fl).ctxs = s.ctxs := rfl
@[simp] theorem State.fly_launches (s : State) (k : Clk) (d : Nat) (fl : Fl) : (s.fly k d fl).launches = s.launches := rfl
@[simp] theorem State.fly_nextLaunch (s : State) (k : Clk) (d : Nat) (fl : Fl) : (s.fly k d fl).nextLaunch = s.nextLaunch := rfl
@[simp] theorem State.fly_nmus (s : State) (k : Clk) (d : Nat) (fl : Fl) : (s.fly k d fl).nmus = s.nmus := rfl
@[simp] theorem State.fly_sys (s : State) (k : Clk) (d : Nat) (fl : Fl) : (s.fly k d fl).sys = s.sys := rfl

@[simp] theorem State.flyTile_tc (s : State) (t l : Nat) (fl : Fl) : (s.flyTile t l fl).tc = s.tc := rfl
@[simp] theorem State.flyTile_cur (s : State) (t l : Nat) (fl : Fl) : (s.flyTile t l fl).cur = s.cur := rfl
@[simp] theorem State.flyTile_turns (s : State) (t l : Nat) (fl : Fl) : (s.flyTile t l fl).turns = s.turns := rfl
@[simp] theorem State.flyTile_inputs (s : State) (t l : Nat) (fl : Fl) : (s.flyTile t l fl).inputs = s.inputs := rfl
@[simp] theorem State.flyTile_parked (s : State) (t l : Nat) (fl : Fl) : (s.flyTile t l fl).parked = s.parked := rfl
@[simp] theorem State.flyTile_free (s : State) (t l : Nat) (fl : Fl) : (s.flyTile t l fl).free = s.free := rfl
@[simp] theorem State.flyTile_bad (s : State) (t l : Nat) (fl : Fl) : (s.flyTile t l fl).bad = s.bad := rfl
@[simp] theorem State.flyTile_mem (s : State) (t l : Nat) (fl : Fl) : (s.flyTile t l fl).mem = s.mem := rfl
@[simp] theorem State.flyTile_pois (s : State) (t l : Nat) (fl : Fl) : (s.flyTile t l fl).pois = s.pois := rfl
@[simp] theorem State.flyTile_tags (s : State) (t l : Nat) (fl : Fl) : (s.flyTile t l fl).tags = s.tags := rfl
@[simp] theorem State.flyTile_sectors (s : State) (t l : Nat) (fl : Fl) : (s.flyTile t l fl).sectors = s.sectors := rfl
@[simp] theorem State.flyTile_badPages (s : State) (t l : Nat) (fl : Fl) : (s.flyTile t l fl).badPages = s.badPages := rfl
@[simp] theorem State.flyTile_tiles (s : State) (t l : Nat) (fl : Fl) : (s.flyTile t l fl).tiles = s.tiles := rfl
@[simp] theorem State.flyTile_saved (s : State) (t l : Nat) (fl : Fl) : (s.flyTile t l fl).saved = s.saved := rfl
@[simp] theorem State.flyTile_cols (s : State) (t l : Nat) (fl : Fl) : (s.flyTile t l fl).cols = s.cols := rfl
@[simp] theorem State.flyTile_ctxs (s : State) (t l : Nat) (fl : Fl) : (s.flyTile t l fl).ctxs = s.ctxs := rfl
@[simp] theorem State.flyTile_launches (s : State) (t l : Nat) (fl : Fl) : (s.flyTile t l fl).launches = s.launches := rfl
@[simp] theorem State.flyTile_nextLaunch (s : State) (t l : Nat) (fl : Fl) : (s.flyTile t l fl).nextLaunch = s.nextLaunch := rfl
@[simp] theorem State.flyTile_nmus (s : State) (t l : Nat) (fl : Fl) : (s.flyTile t l fl).nmus = s.nmus := rfl
@[simp] theorem State.flyTile_sys (s : State) (t l : Nat) (fl : Fl) : (s.flyTile t l fl).sys = s.sys := rfl

@[simp] theorem State.flyDev_tc (s : State) (l : Nat) (fl : Fl) : (s.flyDev l fl).tc = s.tc := rfl
@[simp] theorem State.flyDev_cur (s : State) (l : Nat) (fl : Fl) : (s.flyDev l fl).cur = s.cur := rfl
@[simp] theorem State.flyDev_turns (s : State) (l : Nat) (fl : Fl) : (s.flyDev l fl).turns = s.turns := rfl
@[simp] theorem State.flyDev_inputs (s : State) (l : Nat) (fl : Fl) : (s.flyDev l fl).inputs = s.inputs := rfl
@[simp] theorem State.flyDev_parked (s : State) (l : Nat) (fl : Fl) : (s.flyDev l fl).parked = s.parked := rfl
@[simp] theorem State.flyDev_free (s : State) (l : Nat) (fl : Fl) : (s.flyDev l fl).free = s.free := rfl
@[simp] theorem State.flyDev_bad (s : State) (l : Nat) (fl : Fl) : (s.flyDev l fl).bad = s.bad := rfl
@[simp] theorem State.flyDev_mem (s : State) (l : Nat) (fl : Fl) : (s.flyDev l fl).mem = s.mem := rfl
@[simp] theorem State.flyDev_pois (s : State) (l : Nat) (fl : Fl) : (s.flyDev l fl).pois = s.pois := rfl
@[simp] theorem State.flyDev_tags (s : State) (l : Nat) (fl : Fl) : (s.flyDev l fl).tags = s.tags := rfl
@[simp] theorem State.flyDev_sectors (s : State) (l : Nat) (fl : Fl) : (s.flyDev l fl).sectors = s.sectors := rfl
@[simp] theorem State.flyDev_badPages (s : State) (l : Nat) (fl : Fl) : (s.flyDev l fl).badPages = s.badPages := rfl
@[simp] theorem State.flyDev_tiles (s : State) (l : Nat) (fl : Fl) : (s.flyDev l fl).tiles = s.tiles := rfl
@[simp] theorem State.flyDev_saved (s : State) (l : Nat) (fl : Fl) : (s.flyDev l fl).saved = s.saved := rfl
@[simp] theorem State.flyDev_cols (s : State) (l : Nat) (fl : Fl) : (s.flyDev l fl).cols = s.cols := rfl
@[simp] theorem State.flyDev_ctxs (s : State) (l : Nat) (fl : Fl) : (s.flyDev l fl).ctxs = s.ctxs := rfl
@[simp] theorem State.flyDev_launches (s : State) (l : Nat) (fl : Fl) : (s.flyDev l fl).launches = s.launches := rfl
@[simp] theorem State.flyDev_nextLaunch (s : State) (l : Nat) (fl : Fl) : (s.flyDev l fl).nextLaunch = s.nextLaunch := rfl
@[simp] theorem State.flyDev_nmus (s : State) (l : Nat) (fl : Fl) : (s.flyDev l fl).nmus = s.nmus := rfl
@[simp] theorem State.flyDev_sys (s : State) (l : Nat) (fl : Fl) : (s.flyDev l fl).sys = s.sys := rfl

@[simp] theorem State.land_tc (s : State) (id : Nat) : (s.land id).tc = s.tc := rfl
@[simp] theorem State.land_cur (s : State) (id : Nat) : (s.land id).cur = s.cur := rfl
@[simp] theorem State.land_turns (s : State) (id : Nat) : (s.land id).turns = s.turns := rfl
@[simp] theorem State.land_inputs (s : State) (id : Nat) : (s.land id).inputs = s.inputs := rfl
@[simp] theorem State.land_parked (s : State) (id : Nat) : (s.land id).parked = s.parked := rfl
@[simp] theorem State.land_nextId (s : State) (id : Nat) : (s.land id).nextId = s.nextId := rfl
@[simp] theorem State.land_free (s : State) (id : Nat) : (s.land id).free = s.free := rfl
@[simp] theorem State.land_bad (s : State) (id : Nat) : (s.land id).bad = s.bad := rfl
@[simp] theorem State.land_mem (s : State) (id : Nat) : (s.land id).mem = s.mem := rfl
@[simp] theorem State.land_pois (s : State) (id : Nat) : (s.land id).pois = s.pois := rfl
@[simp] theorem State.land_tags (s : State) (id : Nat) : (s.land id).tags = s.tags := rfl
@[simp] theorem State.land_sectors (s : State) (id : Nat) : (s.land id).sectors = s.sectors := rfl
@[simp] theorem State.land_badPages (s : State) (id : Nat) : (s.land id).badPages = s.badPages := rfl
@[simp] theorem State.land_tiles (s : State) (id : Nat) : (s.land id).tiles = s.tiles := rfl
@[simp] theorem State.land_saved (s : State) (id : Nat) : (s.land id).saved = s.saved := rfl
@[simp] theorem State.land_cols (s : State) (id : Nat) : (s.land id).cols = s.cols := rfl
@[simp] theorem State.land_ctxs (s : State) (id : Nat) : (s.land id).ctxs = s.ctxs := rfl
@[simp] theorem State.land_launches (s : State) (id : Nat) : (s.land id).launches = s.launches := rfl
@[simp] theorem State.land_nextLaunch (s : State) (id : Nat) : (s.land id).nextLaunch = s.nextLaunch := rfl
@[simp] theorem State.land_nmus (s : State) (id : Nat) : (s.land id).nmus = s.nmus := rfl
@[simp] theorem State.land_sys (s : State) (id : Nat) : (s.land id).sys = s.sys := rfl

@[simp] theorem State.soon_tc (s : State) (ts : List Turn) : (s.soon ts).tc = s.tc := rfl
@[simp] theorem State.soon_cur (s : State) (ts : List Turn) : (s.soon ts).cur = s.cur := rfl
@[simp] theorem State.soon_inputs (s : State) (ts : List Turn) : (s.soon ts).inputs = s.inputs := rfl
@[simp] theorem State.soon_flights (s : State) (ts : List Turn) : (s.soon ts).flights = s.flights := rfl
@[simp] theorem State.soon_parked (s : State) (ts : List Turn) : (s.soon ts).parked = s.parked := rfl
@[simp] theorem State.soon_nextId (s : State) (ts : List Turn) : (s.soon ts).nextId = s.nextId := rfl
@[simp] theorem State.soon_free (s : State) (ts : List Turn) : (s.soon ts).free = s.free := rfl
@[simp] theorem State.soon_bad (s : State) (ts : List Turn) : (s.soon ts).bad = s.bad := rfl
@[simp] theorem State.soon_mem (s : State) (ts : List Turn) : (s.soon ts).mem = s.mem := rfl
@[simp] theorem State.soon_pois (s : State) (ts : List Turn) : (s.soon ts).pois = s.pois := rfl
@[simp] theorem State.soon_tags (s : State) (ts : List Turn) : (s.soon ts).tags = s.tags := rfl
@[simp] theorem State.soon_sectors (s : State) (ts : List Turn) : (s.soon ts).sectors = s.sectors := rfl
@[simp] theorem State.soon_badPages (s : State) (ts : List Turn) : (s.soon ts).badPages = s.badPages := rfl
@[simp] theorem State.soon_tiles (s : State) (ts : List Turn) : (s.soon ts).tiles = s.tiles := rfl
@[simp] theorem State.soon_saved (s : State) (ts : List Turn) : (s.soon ts).saved = s.saved := rfl
@[simp] theorem State.soon_cols (s : State) (ts : List Turn) : (s.soon ts).cols = s.cols := rfl
@[simp] theorem State.soon_ctxs (s : State) (ts : List Turn) : (s.soon ts).ctxs = s.ctxs := rfl
@[simp] theorem State.soon_launches (s : State) (ts : List Turn) : (s.soon ts).launches = s.launches := rfl
@[simp] theorem State.soon_nextLaunch (s : State) (ts : List Turn) : (s.soon ts).nextLaunch = s.nextLaunch := rfl
@[simp] theorem State.soon_nmus (s : State) (ts : List Turn) : (s.soon ts).nmus = s.nmus := rfl
@[simp] theorem State.soon_sys (s : State) (ts : List Turn) : (s.soon ts).sys = s.sys := rfl

@[simp] theorem State.retest_tc (s : State) (t : Nat) : (s.retest t).tc = s.tc := rfl
@[simp] theorem State.retest_cur (s : State) (t : Nat) : (s.retest t).cur = s.cur := rfl
@[simp] theorem State.retest_inputs (s : State) (t : Nat) : (s.retest t).inputs = s.inputs := rfl
@[simp] theorem State.retest_flights (s : State) (t : Nat) : (s.retest t).flights = s.flights := rfl
@[simp] theorem State.retest_parked (s : State) (t : Nat) : (s.retest t).parked = s.parked := rfl
@[simp] theorem State.retest_nextId (s : State) (t : Nat) : (s.retest t).nextId = s.nextId := rfl
@[simp] theorem State.retest_free (s : State) (t : Nat) : (s.retest t).free = s.free := rfl
@[simp] theorem State.retest_bad (s : State) (t : Nat) : (s.retest t).bad = s.bad := rfl
@[simp] theorem State.retest_mem (s : State) (t : Nat) : (s.retest t).mem = s.mem := rfl
@[simp] theorem State.retest_pois (s : State) (t : Nat) : (s.retest t).pois = s.pois := rfl
@[simp] theorem State.retest_tags (s : State) (t : Nat) : (s.retest t).tags = s.tags := rfl
@[simp] theorem State.retest_sectors (s : State) (t : Nat) : (s.retest t).sectors = s.sectors := rfl
@[simp] theorem State.retest_badPages (s : State) (t : Nat) : (s.retest t).badPages = s.badPages := rfl
@[simp] theorem State.retest_tiles (s : State) (t : Nat) : (s.retest t).tiles = s.tiles := rfl
@[simp] theorem State.retest_saved (s : State) (t : Nat) : (s.retest t).saved = s.saved := rfl
@[simp] theorem State.retest_cols (s : State) (t : Nat) : (s.retest t).cols = s.cols := rfl
@[simp] theorem State.retest_ctxs (s : State) (t : Nat) : (s.retest t).ctxs = s.ctxs := rfl
@[simp] theorem State.retest_launches (s : State) (t : Nat) : (s.retest t).launches = s.launches := rfl
@[simp] theorem State.retest_nextLaunch (s : State) (t : Nat) : (s.retest t).nextLaunch = s.nextLaunch := rfl
@[simp] theorem State.retest_nmus (s : State) (t : Nat) : (s.retest t).nmus = s.nmus := rfl
@[simp] theorem State.retest_sys (s : State) (t : Nat) : (s.retest t).sys = s.sys := rfl

@[simp] theorem State.setTile_tile (s : State) (t : Nat) (v : Tile) : (s.setTile t v).tile t = v := by
  simp [State.setTile, State.tile]
theorem State.setTile_other (s : State) {t k : Nat} (v : Tile) (h : k ≠ t) : (s.setTile t v).tile k = s.tile k := by
  simp [State.setTile, State.tile, FM.get_set_other _ _ _ h]
@[simp] theorem State.updTile_tile (s : State) (t : Nat) (f : Tile → Tile) : (s.updTile t f).tile t = f (s.tile t) := by
  simp [State.updTile]
theorem State.updTile_other (s : State) {t k : Nat} (f : Tile → Tile) (h : k ≠ t) : (s.updTile t f).tile k = s.tile k := by
  simp [State.updTile, State.setTile_other _ _ h]
@[simp] theorem State.setCol_col (s : State) (c : Nat) (v : Col) : (s.setCol c v).col c = v := by
  simp [State.setCol, State.col]
theorem State.setCol_other (s : State) {c k : Nat} (v : Col) (h : k ≠ c) : (s.setCol c v).col k = s.col k := by
  simp [State.setCol, State.col, FM.get_set_other _ _ _ h]
@[simp] theorem State.setContext_context (s : State) (x : Nat) (v : Context) : (s.setContext x v).context x = v := by
  simp [State.setContext, State.context]
theorem State.setContext_other (s : State) {x k : Nat} (v : Context) (h : k ≠ x) : (s.setContext x v).context k = s.context k := by
  simp [State.setContext, State.context, FM.get_set_other _ _ _ h]
@[simp] theorem State.updCc_cc (s : State) (t c : Nat) (f : CtlCtx → CtlCtx) : (s.updCc t c f).cc t c = f (s.cc t c) := by
  simp [State.updCc, State.cc, Tile.cc, Tile.setCc]
theorem State.updCc_other (s : State) (t : Nat) {c k : Nat} (f : CtlCtx → CtlCtx) (h : k ≠ c) : (s.updCc t c f).cc t k = s.cc t k := by
  simp [State.updCc, State.cc, Tile.cc, Tile.setCc, FM.get_set_other _ _ _ h]
@[simp] theorem State.updEng_engine (s : State) (t e : Nat) (f : Eng → Eng) :
    ((s.updEng t e f).tile t).engine e = f ((s.tile t).engine e) := by
  simp [State.updEng, Tile.engine, Tile.setEngine]

@[simp] theorem State.fly_flights (s : State) (k : Clk) (d : Nat) (fl : Fl) :
    (s.fly k d fl).flights = s.flights ++ [⟨s.nextId, k, d, fl⟩] := rfl
@[simp] theorem State.flyTile_flights (s : State) (t l : Nat) (fl : Fl) :
    (s.flyTile t l fl).flights = s.flights ++ [⟨s.nextId, .tile t, (s.tile t).clk + l, fl⟩] := rfl
@[simp] theorem State.flyDev_flights (s : State) (l : Nat) (fl : Fl) :
    (s.flyDev l fl).flights = s.flights ++ [⟨s.nextId, .dev, s.tc + l, fl⟩] := rfl
@[simp] theorem State.fly_nextId (s : State) (k : Clk) (d : Nat) (fl : Fl) : (s.fly k d fl).nextId = s.nextId + 1 := rfl
@[simp] theorem State.flyTile_nextId (s : State) (t l : Nat) (fl : Fl) : (s.flyTile t l fl).nextId = s.nextId + 1 := rfl
@[simp] theorem State.flyDev_nextId (s : State) (l : Nat) (fl : Fl) : (s.flyDev l fl).nextId = s.nextId + 1 := rfl

end Sys2Proof.Machine
end

