-- ==== Sys2Proof/Laws/Ops.lean ====
section
/-! SUPPORT. Sys2Proof/Laws/Ops.lean: what the shared operations can do, said once: the end of a meaning, the wait, and the issue of a
word in the control core and in a ring-fed engine. -/

namespace Sys2Proof.Machine

theorem finish_eq_next {s : State} (h : s.bad = none) : finish s = .next s := by simp [finish, h]

/-- A meaning that ends in a next state ends in that state, and nothing beyond device memory was reached. -/
theorem of_finish_eq_next {s u : State} (h : finish s = .next u) : u = s ∧ s.bad = none := by
  unfold finish at h
  split at h
  · cases h
  · next hb => cases h; exact ⟨rfl, hb⟩

/-- What a wait that is satisfied leaves alone. -/
structure WaitKeeps (s w : State) : Prop where
  bad : w.bad = s.bad
  mem : w.mem = s.mem
  pois : w.pois = s.pois
  tags : w.tags = s.tags
  flights : w.flights = s.flights
  nextId : w.nextId = s.nextId
  device : SameDevice s w
  cur : w.cur = s.cur

theorem SameDevice.refl (s : State) : SameDevice s s := ⟨rfl, rfl, rfl, rfl, rfl, rfl, rfl, rfl, rfl, rfl⟩

theorem WaitKeeps.refl (s : State) : WaitKeeps s s := ⟨rfl, rfl, rfl, rfl, rfl, rfl, .refl s, rfl⟩

theorem WaitKeeps.setTile (s : State) (t : Nat) (v : Tile) : WaitKeeps s (s.setTile t v) :=
  ⟨rfl, rfl, rfl, rfl, rfl, rfl, ⟨rfl, rfl, rfl, rfl, rfl, rfl, rfl, rfl, rfl, rfl⟩, rfl⟩

theorem WaitKeeps.soon (s : State) (t : Nat) (v : Tile) (ts : List Turn) : WaitKeeps s ((s.setTile t v).soon ts) :=
  ⟨rfl, rfl, rfl, rfl, rfl, rfl, ⟨rfl, rfl, rfl, rfl, rfl, rfl, rfl, rfl, rfl, rfl⟩, rfl⟩

theorem waitBar_keeps {s w : State} {t p n : Nat} (h : s.waitBar t p n = .pass w) : WaitKeeps s w := by
  simp only [State.waitBar] at h
  repeat' split at h
  all_goals cases h
  all_goals exact .setTile ..

/-- A wait that is satisfied changes its tile and the agenda alone (02 R32; 11 R307, R312). -/
theorem testWait_keeps {s w : State} {t p b : Nat} (h : s.testWait t p b = .pass w) : WaitKeeps s w := by
  simp only [State.testWait] at h
  split at h
  · split at h
    · cases h
    · split at h
      · split at h
        · cases h; exact .soon ..
        · cases h; exact .setTile ..
      · cases h
  · split at h
    · cases h
    · split at h
      · cases h; exact .setTile ..
      · cases h
  · split at h
    · cases h
    · split at h
      · cases h; exact .setTile ..
      · cases h
  · split at h
    · cases h
    · exact waitBar_keeps h
  · cases h; exact .refl s

theorem CtlGoes.keeps {s w : State} {t c : Nat} {h : Hdr} (g : CtlGoes s t c h w) : WaitKeeps s w := testWait_keeps g.passes

theorem RingGoes.keeps {s w : State} {t e : Nat} {h : Hdr} (g : RingGoes s t e h w) : WaitKeeps s w := by
  have hp := g.passes
  split at hp
  · cases hp; exact .refl s
  · exact testWait_keeps hp

theorem CtlGoes.curTile {s w : State} {t c : Nat} {h : Hdr} (g : CtlGoes s t c h w) : s.curTile = t := by
  simp [State.curTile, g.agent]
theorem CtlGoes.curCtx {s w : State} {t c : Nat} {h : Hdr} (g : CtlGoes s t c h w) : s.curCtx = c := by
  simp [State.curCtx, g.agent]
theorem RingGoes.curTile {s w : State} {t e : Nat} {h : Hdr} (g : RingGoes s t e h w) : s.curTile = t := by
  simp [State.curTile, g.agent]
theorem RingGoes.curEng {s w : State} {t e : Nat} {h : Hdr} (g : RingGoes s t e h w) : s.curEng = e := by
  simp [State.curEng, g.agent]

/-- The wait of a control-core word that is satisfied passes. -/
theorem ctlWait_passes {s w : State} {t c n : Nat} (h : s.testWait t 0 n = .pass w) : s.ctlWait t c n = .pass w := by
  simp [State.ctlWait, h]

/-- A control-core word that goes, and that nothing else holds or fails, has its effect. -/
theorem ctlIssue_goes {s w : State} {t c : Nat} {h : Hdr} (g : CtlGoes s t c h w) (k : CtlChecks)
    (eff : Nat → Nat → Nat → State → State) (hd : k.dec s t c = none) (hb : k.busy s t c = false) (hh : k.hold s t c = none)
    (hc : k.chk s t c = none) :
    ctlIssue h s k eff = finish (eff t c ((s.tile t).resolveSig h.sig) (w.observe t c h.wait)) := by
  simp [ctlIssue, g.curTile, g.curCtx, g.waitMapped, g.sigMapped, hd, hb, hh, hc, ctlWait_passes g.passes]

/-- A word of a ring-fed engine that goes, and that nothing else holds, begins and has its effect. -/
theorem engIssue_goes {s w : State} {t e : Nat} {h : Hdr} (g : RingGoes s t e h w) (k : EngChecks)
    (eff : Nat → Nat → State → State) (hb : k.busy s t = false) (hh : ∀ u, k.hold true u t = none) :
    engIssue h s k eff = finish (eff t ((s.tile t).resolveSig h.sig) (w.begin t e)) := by
  have hp := g.passes
  simp [engIssue, g.curTile, g.curEng, g.waitMapped, g.sigMapped, hb, hh, hp, g.idle]

@[simp] theorem State.observe_bad (s : State) (t c n : Nat) : (s.observe t c n).bad = s.bad := by
  unfold State.observe; split <;> rfl
@[simp] theorem State.ctlNext_bad (s : State) (t c l : Nat) : (s.ctlNext t c l).bad = s.bad := rfl
@[simp] theorem State.putS_bad (s : State) (t c r : Nat) (v : RegV) (l f : Nat) : (s.putS t c r v l f).bad = s.bad := by
  unfold State.putS; split <;> rfl
@[simp] theorem State.signalIn_bad (s : State) (t e c g l : Nat) (p : Option (Nat × Nat)) : (s.signalIn t e c g l p).bad = s.bad := by
  unfold State.signalIn; split <;> rfl
@[simp] theorem State.passSource_bad (s : State) (t e : Nat) : (s.passSource t e).bad = s.bad := by
  simp only [State.passSource]; split <;> rfl
@[simp] theorem State.pass_bad (s : State) (t e : Nat) : (s.pass t e).bad = s.bad := by
  simp only [State.pass]; repeat' split
  all_goals simp
@[simp] theorem State.begin_bad (s : State) (t e : Nat) : (s.begin t e).bad = s.bad := by
  simp only [State.begin, State.updEng]
  split <;> simp

/-- A control-core word that only writes a register issues so. -/
theorem ctlWrite_goes {s w : State} {t c : Nat} {h : Hdr} (g : CtlGoes s t c h w) (d l : Nat) (v : State → Nat → Nat → RegV) :
    ctlWrite h s d l v = .next (ctlWrote s w t c h d l (v s t c) 0) := by
  rw [ctlWrite, ctlIssue_goes g _ _ rfl rfl rfl rfl, finish_eq_next]
  · rfl
  · simp [g.keeps.bad, g.sound]

/-- An access-core word that only writes an a-register begins so. -/
theorem accWrite_goes {s w : State} {t : Nat} {h : Hdr} (g : RingGoes s t 1 h w) (d l : Nat) (rs : List Nat)
    (v : State → Nat → RegV) (hp : s.accPending t (d :: rs) = false) :
    accWrite h s d l rs v = .next (accWrote s w t h d l (v s t)) := by
  rw [accWrite, engIssue_goes g _ _ hp fun _ => rfl, finish_eq_next]
  · rfl
  · simp [g.keeps.bad, g.sound]

/-- A trap at level 0 or 1 reaches nothing beyond device memory (16 R422). -/
theorem trap_bad {s : State} {t c cause epc : Nat} {val : Word} {i : TrapInfo} (hb : s.bad = none) (hl : (s.cc t c).tlvl < 2) :
    (s.trap t c cause epc val i).bad = none := by
  unfold State.trap
  have : ¬ ((s.cc t c).tlvl + 1 = 3) := by omega
  simp only [this, if_false]
  exact hb

theorem wordTrap_bad {s : State} {t c cause : Nat} {val : Word} (hb : s.bad = none) (hl : (s.cc t c).tlvl < 2) :
    (s.wordTrap t c cause val).bad = none := trap_bad hb hl

/-- What the entry of a trap leaves in TSTATE besides dz (16 R419). -/
theorem trap_taken {s : State} {t c cause epc : Nat} {val : Word} {i : TrapInfo} (hl : (s.cc t c).tlvl < 2) :
    TrapTaken s (s.trap t c cause epc val i) t c cause epc val
      (bit i.ring 8 + i.eng * 2 ^ 9 + bit i.pfx 12 + bit i.impr 13 + i.roff % 8192 * 2 ^ 16 + bit i.wdone 30) := by
  have : ¬ ((s.cc t c).tlvl + 1 = 3) := by omega
  unfold State.trap
  simp only [this, if_false]
  constructor
  all_goals simp [State.updCc, State.updTile, State.cc, State.tile, State.setTile, Tile.setCc, Tile.cc, FM.get_set_same]
  · simp [tstateEntry, Nat.add_assoc]
  · intro d hd
    rw [FM.get_set_other _ _ _ hd]
  · intro v hv
    simp [State.tile, FM.get_set_other _ _ _ hv]

@[simp] theorem State.signal_bad (s : State) (t e c g : Nat) (p : Option (Nat × Nat)) : (s.signal t e c g p).bad = s.bad := by
  simp only [State.signal, State.updTile_bad, State.signalObj]
  split
  · simp only [State.arriveSlot]
    split <;> rfl
  · split
    · simp only [State.pushToken]
      repeat' split
      all_goals rfl
    all_goals rfl

@[simp] theorem State.signalNow_bad (s : State) (t e c g : Nat) (p : Option (Nat × Nat)) : (s.signalNow t e c g p).bad = s.bad := by
  unfold State.signalNow
  split
  · rfl
  · exact s.signal_bad ..

@[simp] theorem State.branch_bad (s : State) (t c g l : Nat) : (s.branch t c g l).bad = s.bad := rfl
@[simp] theorem State.linkS_bad (s : State) (t c r g : Nat) (v : RegV) : (s.linkS t c r g v).bad = s.bad := by
  unfold State.linkS
  split <;> simp
@[simp] theorem State.useDivider_bad (s : State) (t c : Nat) : (s.useDivider t c).bad = s.bad := rfl

theorem CtlGoes.bad {s w : State} {t c : Nat} {h : Hdr} (g : CtlGoes s t c h w) : w.bad = none := by rw [g.keeps.bad, g.sound]
theorem RingGoes.bad {s w : State} {t e : Nat} {h : Hdr} (g : RingGoes s t e h w) : w.bad = none := by rw [g.keeps.bad, g.sound]

/-- A control-core word that goes and fails a check on its values traps, or does what the check adds (04 R120; 16 R423). -/
theorem ctlIssue_traps {s w : State} {t c : Nat} {h : Hdr} (g : CtlGoes s t c h w) (k : CtlChecks)
    (eff : Nat → Nat → Nat → State → State) {cause : Nat} {v : Word} (hd : k.dec s t c = none) (hb : k.busy s t c = false)
    (hh : k.hold s t c = none) (hc : k.chk s t c = some (cause, v)) :
    ctlIssue h s k eff = finish (k.onTrap (s.wordTrap t c cause v) t c) := by
  simp [ctlIssue, g.curTile, g.curCtx, g.waitMapped, g.sigMapped, hd, hb, hh, hc, ctlWait_passes g.passes]

/-- A control-core word beyond a limit fixed at decode traps before its wait (04 R120). -/
theorem ctlIssue_decodes {s : State} {t c : Nat} {h : Hdr} (hc : s.cur = .ctl t c) (hw : (s.tile t).unmapped h.wait = false)
    (hg : (s.tile t).unmapped h.sig = false) (k : CtlChecks) (eff : Nat → Nat → Nat → State → State) {cause : Nat}
    (hd : k.dec s t c = some cause) : ctlIssue h s k eff = finish (s.wordTrap t c cause (s.ctlWord t c)) := by
  simp [ctlIssue, State.curTile, State.curCtx, hc, hw, hg, hd]

/-- A control-core word that something besides its wait holds stays where it is. -/
theorem ctlIssue_busy {s w : State} {t c : Nat} {h : Hdr} (g : CtlGoes s t c h w) (k : CtlChecks)
    (eff : Nat → Nat → Nat → State → State) (hd : k.dec s t c = none) (hb : k.busy s t c = true) :
    ctlIssue h s k eff = .next s := by
  simp [ctlIssue, g.curTile, g.curCtx, g.waitMapped, g.sigMapped, hd, hb, ctlWait_passes g.passes, finish_eq_next g.sound]

end Sys2Proof.Machine
end

