-- ==== Sys2Proof/Laws/Vec.lean ====
section
/-! SUPPORT. Sys2Proof/Laws/Vec.lean: what the vector combinators give, lane by lane and element by element. -/

namespace Sys2Proof.Machine

theorem joinLanes_digit (w : Nat) (l : List Nat) (k : Nat) : joinLanes w l / 2 ^ (w * k) % 2 ^ w = l.getD k 0 % 2 ^ w := by
  induction l generalizing k with
  | nil => simp [joinLanes]
  | cons x xs ih =>
    have hp : 0 < 2 ^ w := Nat.two_pow_pos w
    cases k with
    | zero => simp [joinLanes]
    | succ k =>
      rw [joinLanes, Nat.mul_add, Nat.mul_one, Nat.add_comm (w * k), Nat.pow_add, ← Nat.div_div_eq_div_mul,
        Nat.add_mul_div_left _ _ hp, Nat.div_eq_of_lt (Nat.mod_lt _ hp), Nat.zero_add, ih]
      simp

theorem positions_eq : positions = (List.range 1024).map fun k => (k / 64, k % 64) := by decide +kernel

theorem positions_getD {α : Type} (f : Nat × Nat → α) (z : α) {i j : Nat} (hi : i < 16) (hj : j < 64) :
    (positions.map f).getD (64 * i + j) z = f (i, j) := by
  have hk : 64 * i + j < 1024 := by omega
  have h1 : (64 * i + j) / 64 = i := by omega
  have h2 : (64 * i + j) % 64 = j := by omega
  simp [positions_eq, List.getD_eq_getElem?_getD, hk, h1, h2]

theorem div_mod_pow_of_mod {n a b c : Nat} (h : a + b ≤ c) : n % 2 ^ c / 2 ^ a % 2 ^ b = n / 2 ^ a % 2 ^ b := by
  apply Nat.eq_of_testBit_eq
  intro k
  simp only [Nat.testBit_mod_two_pow, Nat.testBit_div_two_pow]
  by_cases hk : k < b
  · simp [hk]; intro; omega
  · simp [hk]

theorem lane_ofNat (n : Nat) {i j : Nat} (hi : i < 16) (hj : j < 64) :
    lane (BitVec.ofNat 32768 n) i j = n / 2 ^ (32 * (64 * i + j)) % 2 ^ 32 := by
  rw [lane, BitVec.toNat_ofNat]
  exact div_mod_pow_of_mod (by omega)

theorem lane_buildV (f : Nat → Nat → Nat) {i j : Nat} (hi : i < 16) (hj : j < 64) : lane (buildV f) i j = f i j % 2 ^ 32 := by
  rw [buildV, lane_ofNat _ hi hj, joinLanes_digit, positions_getD (fun p => f p.1 p.2) 0 hi hj]

theorem mbit_buildM (f : Nat → Nat → Bool) {i j : Nat} (hi : i < 16) (hj : j < 64) : mbit (buildM f) i j = f i j := by
  have h := joinLanes_digit 1 (positions.map fun p => bit (f p.1 p.2) 0) (64 * i + j)
  rw [positions_getD (fun p => bit (f p.1 p.2) 0) 0 hi hj, Nat.one_mul] at h
  have h2 : ∀ n : Nat, (BitVec.ofNat 1024 n).toNat / 2 ^ (64 * i + j) % 2 = n / 2 ^ (64 * i + j) % 2 ^ 1 := fun n => by
    rw [BitVec.toNat_ofNat]
    exact div_mod_pow_of_mod (b := 1) (by omega)
  rw [mbit, buildM, h2, h]
  cases f i j <;> simp [bit]

theorem joinFlags_testBit (l : List Nat) (b : Nat) : (joinFlags l).testBit b = true ↔ ∃ x ∈ l, x.testBit b = true := by
  have key : ∀ (l : List Nat) (a : Nat), (l.foldl (fun a b => a ||| b) a).testBit b = true ↔
      a.testBit b = true ∨ ∃ x ∈ l, x.testBit b = true := by
    intro l
    induction l with
    | nil => simp
    | cons x xs ih => intro a; simp [ih, or_assoc]
  simpa [joinFlags] using key l 0

theorem mem_positions {i j : Nat} : (i, j) ∈ positions ↔ i < 16 ∧ j < 64 := by
  simp [positions]

theorem lane_buildVF (act : Nat → Nat → Bool) (f : Nat → Nat → Nat × Nat) {i j : Nat} (hi : i < 16) (hj : j < 64) :
    lane (buildVF act f).1 i j = (f i j).1 % 2 ^ 32 := by
  simp only [buildVF, gather, List.map_map]
  rw [lane_ofNat _ hi hj, joinLanes_digit, positions_getD _ 0 hi hj]; rfl

theorem flags_buildVF (act : Nat → Nat → Bool) (f : Nat → Nat → Nat × Nat) (b : Nat) :
    (buildVF act f).2.testBit b = true ↔ ∃ i j, i < 16 ∧ j < 64 ∧ act i j = true ∧ (f i j).2.testBit b = true := by
  simp only [buildVF, gather, joinFlags_testBit, List.mem_map, Prod.exists]
  constructor
  · rintro ⟨x, ⟨p, q, fl, ⟨i, j, hm, he⟩, rfl⟩, hb⟩
    simp only [Prod.mk.injEq] at he
    obtain ⟨rfl, hq⟩ := he
    have hfl : (f i j).2 = fl := by rw [hq]
    subst hfl
    by_cases ha : act i j = true
    · exact ⟨i, j, (mem_positions.1 hm).1, (mem_positions.1 hm).2, ha, by simpa [ha] using hb⟩
    · simp [ha] at hb
  · rintro ⟨i, j, hi, hj, ha, hb⟩
    exact ⟨_, ⟨_, _, _, ⟨i, j, mem_positions.2 ⟨hi, hj⟩, rfl⟩, rfl⟩, by simpa [ha] using hb⟩

theorem slot_packed {w : Nat} (hw : w ∣ 32) (f : List Nat → Nat × Nat) (xs : List Nat) {k : Nat} (hk : k < 32 / w) :
    slot w k ((packed w f xs).1 % 2 ^ 32) = (f (xs.map fun x => slot w k x)).1 % 2 ^ w := by
  have hwk : w * k + w ≤ 32 := by
    have := Nat.mul_div_cancel' hw
    calc w * k + w = w * (k + 1) := by ring
      _ ≤ w * (32 / w) := Nat.mul_le_mul_left _ hk
      _ = 32 := this
  rw [slot, div_mod_pow_of_mod hwk, packed, joinLanes_digit]
  simp [List.getD_eq_getElem?_getD, hk]

theorem flags_packed {w : Nat} (f : List Nat → Nat × Nat) (xs : List Nat) (b : Nat) :
    (packed w f xs).2.testBit b = true ↔ ∃ k, k < 32 / w ∧ (f (xs.map fun x => slot w k x)).2.testBit b = true := by
  simp [packed, joinFlags_testBit]

@[simp] theorem State.popAll_bad (s : State) (t : Nat) (rs : List Nat) : (s.popAll t rs).bad = s.bad := rfl

theorem vecIssue_goes {s w : State} {t : Nat} {h : Hdr} (g : RingGoes s t 2 h w) {rs ds : List Nat} (l : Nat)
    (eff : Nat → Tile → State → State) (hb : vecBusy rs ds s t = false)
    (he : ∀ u : State, u.bad = none → (eff t (s.tile t) u).bad = none) :
    vecIssue h s rs ds l eff = .next (vecDid s w t h rs l (eff t (s.tile t))) := by
  rw [vecIssue, engIssue_goes g _ _ hb fun _ => rfl, finish_eq_next]
  · rfl
  · simp [he _ (show ((((w.begin t 2).popAll t rs).updTile t fun T => { T with lastPipe := some T.clk }) : State).bad = none by
      simp [g.bad])]

@[simp] theorem State.putV_bad (s : State) (t d l : Nat) (m : MReg) (v : VVal) (fl : Nat) : (s.putV t d l m v fl).bad = s.bad := by
  simp only [State.putV]
  repeat' split
  all_goals simp
@[simp] theorem State.putM_bad (s : State) (t d l : Nat) (m : MReg) (v : MVal) (fl : Nat) : (s.putM t d l m v fl).bad = s.bad := by
  simp [State.putM]

theorem vecWord_gives {s w : State} {t : Nat} {h : Hdr} (g : RingGoes s t 2 h w) {d : Nat} {rs : List Nat} (l : Nat)
    (f : List VReg → Nat → Nat → Nat × Nat) (hb : vecBusy rs [d] s t = false) : LaneWord s w t h d rs l f (vecWord h s d rs l f) := by
  let vs := rs.map fun r => ((s.tile t).vsrc r).v
  refine ⟨(buildVF (mbit (s.tile t).m0.v) (f vs)).1, (buildVF (mbit (s.tile t).m0.v) (f vs)).2, ?_,
    fun i j hi hj => lane_buildVF _ _ hi hj, fun b => flags_buildVF _ _ b⟩
  rw [vecWord, vecIssue_goes g l _ hb]
  · simp only [List.any_map, List.map_map]; rfl
  · intro u hu; simpa using hu

theorem vecElem_gives {s w : State} {t : Nat} {h : Hdr} (g : RingGoes s t 2 h w) {d n : Nat} {rs : List Nat} (l : Nat)
    (f : List Nat → Nat × Nat) (hn : n ∣ 32) (hb : vecBusy rs [d] s t = false) :
    ElemWord s w t h d rs l n f (vecLane h s d rs l (packed n f)) := by
  obtain ⟨v, fl, ho, hv, hf⟩ := vecWord_gives g l (fun vs i j => packed n f (vs.map fun v => lane v i j)) hb
  refine ⟨v, fl, ho, ?_, ?_⟩
  · intro i j k hi hj hk
    rw [hv i j hi hj, slot_packed hn _ _ hk]
    simp [Function.comp_def]
  · intro b
    rw [hf b]
    simp only [flags_packed]
    constructor
    · rintro ⟨i, j, hi, hj, ha, k, hk, hb⟩
      exact ⟨i, j, k, hi, hj, hk, ha, by simpa [Function.comp_def] using hb⟩
    · rintro ⟨i, j, k, hi, hj, hk, ha, hb⟩
      exact ⟨i, j, hi, hj, ha, k, hk, by simpa [Function.comp_def] using hb⟩

end Sys2Proof.Machine
end

