-- ==== Sys2Proof/Tests/Slice0.lean ====
section
/-! SUPPORT. Sys2Proof/Tests/Slice0.lean: ill-formed terms that the checks refuse, words of the spec's encodings, single steps with the
values the spec gives, and for every statement with hypotheses a concrete state that meets them (witness_…). -/

namespace Sys2Proof.Tests

open Sys2Proof Sys2Proof.Machine

set_option Elab.async false

/-! Well-formedness: one ill-formed term for each check. -/

theorem test_wf_class : instrOk .vec (.add .plain 1 2 3) = false := by decide
theorem test_wf_regS : instrOk .ctl (.add .plain 32 2 3) = false := by decide
theorem test_wf_regA : instrOk .acc (.aadd .plain 1 32 3) = false := by decide
theorem test_wf_regC : instrOk .acc (.ldd .plain 1 3 0) = false := by decide
theorem test_wf_queue_index : instrOk .acc (.ldq .plain 4 0 0 7 0) = false ∧ instrOk .acc (.stq .plain 3 0 0 7 0) = false := by decide
theorem test_wf_vector_source : instrOk .vec (.vadd .plain 0 1028 0 6 0 0) = false := by decide
theorem test_wf_vector_destination : instrOk .vec (.vadd .plain 1024 0 0 6 0 0) = false := by decide
theorem test_wf_vector_gap : instrOk .vec (.vadd .plain 1031 0 0 6 0 0) = false := by decide
theorem test_wf_mask : instrOk .vec (.mnot .plain 1087 1088) = false := by decide
theorem test_wf_accumulator : instrOk .mtx (.mtzero .plain 1151 1) = false := by decide
theorem test_wf_tiles_past_the_end : instrOk .mtx (.mtzero .plain 1215 2) = false := by decide
theorem test_wf_near_register : instrOk .cpy (.nldp 24) = false := by decide
theorem test_wf_modifier : instrOk .ctl (.cmp .plain 1 2 3 6) = false := by decide
theorem test_wf_range : instrOk .ctl (.sext .plain 1 2 0) = false ∧ instrOk .ctl (.sext .plain 1 2 65) = false := by decide
theorem test_wf_field_sum : instrOk .ctl (.ext .plain 1 2 33 32) = false := by decide
theorem test_wf_immediate : instrOk .ctl (.addi .plain 1 2 (2 ^ 57)) = false := by decide
theorem test_wf_wait_byte : instrOk .ctl (.nop ⟨0xA0, 0, none, none⟩) = false ∧ instrOk .ctl (.nop ⟨0x20, 0, none, none⟩) = false ∧
    instrOk .ctl (.nop ⟨1, 0, none, none⟩) = false := by decide
theorem test_wf_signal_byte : instrOk .acc (.aadd ⟨0, 0x26, none, none⟩ 1 2 3) = false := by decide
theorem test_wf_scp : instrOk .ctl (.add ⟨0, 0, some 6, none⟩ 1 2 3) = false := by decide
theorem test_wf_pmt : instrOk .ctl (.add ⟨0, 0, none, some 2⟩ 1 2 3) = false := by decide
theorem test_wf_prefix_header : instrOk .ctl (.imx ⟨0x40, 0, none, none⟩ 1) = false := by decide
theorem test_wf_scp_order : instrOk .acc (.scp .plain 2 5) = false := by decide
theorem test_wf_pmt_empty : instrOk .acc (.pmt .plain 0 0) = false := by decide
theorem test_wf_done_signal : instrOk .ctl (.done ⟨0, 0x40, none, none⟩) = false := by decide
theorem test_wf_hend_wait : instrOk .ctl (.hend ⟨0x40, 0, none, none⟩) = false := by decide
theorem test_wf_system_register : instrOk .ctl (.sysrd .plain 1 0x0A) = false := by decide
theorem test_wf_object : instrOk .ctl (.synrd .plain 1 0 0 0 0 64) = false := by decide

/-! Decoding: words that the spec's chapters write out (02 R61; the worked examples of 04, 05, 06, 07, 08, 09, 10, 11, 12, 13, 14, 15,
16). -/

theorem test_decode_control :
    decode (.plain .ctl) 0x0000010060040100 = .ok (.add .plain 3 1 2) ∧
    decode (.plain .ctl) 0x00001A0020000005 = .ok (.li .plain 1 5) ∧
    decode (.plain .ctl) 0x0000030060040080 = .ok (.mul .plain 3 1 1) ∧
    decode (.plain .ctl) 0x00002A0001FFFFFD = .ok (.loop .plain 1 (2 ^ 64 - 3)) ∧
    decode (.plain .ctl) 0x00002C0200030002 = .ok (.fork .plain 2 2 3) ∧
    decode (.plain .ctl) 0x0000250000000003 = .ok (.b .plain 0 0 3) ∧
    decode (.plain .ctl) 0x000025100100000A = .ok (.b .plain 2 1 10) ∧
    decode (.plain .ctl) 0x00001C0060280124 = .ok (.ext .plain 3 10 36 4) ∧
    decode (.plain .ctl) 0x0000050080080180 = .ok (.div .plain 4 2 3 0) ∧
    decode (.plain .ctl) 0x00002D0060500A8D = .ok (.ringp2 .plain 3 20 21 5) := by
  refine ⟨rfl, rfl, rfl, rfl, rfl, rfl, rfl, rfl, rfl, rfl⟩

theorem test_decode_control_system :
    decode (.plain .ctl) 0x0000340020000083 = .ok (.sysrd .plain 1 0x083) ∧
    decode (.plain .ctl) 0x0000350020000083 = .ok (.syswr .plain 1 0x083) ∧
    decode (.plain .ctl) 0x0000320A00000000 = .ok (.bhmap .plain 40 0) ∧
    decode (.plain .ctl) 0x00403B0A00010008 = .ok (.binitCol ⟨0, 0x40, none, none⟩ 40 8) ∧
    decode (.plain .ctl) 0x0000380400000025 = .ok (.synrd .plain 5 0 1 0 0 16) ∧
    decode (.plain .ctl) 0x00004F0000000060 = .ok (.trap .plain 0 0x60) ∧
    decode (.plain .ctl) 0x00005100207C0040 = .ok (.tspill .plain 1 31 0x40) ∧
    decode (.plain .ctl) 0x0000500000000000 = .ok (.tret .plain) ∧
    decode (.plain .ctl) 0x0000360000000000 = .ok (.done .plain) ∧
    decode (.plain .ctl) 0x0000470000000000 = .ok (.ctxscrub .plain) ∧
    decode (.plain .ctl) 0x0000410000818005 = .ok (.launch .plain 5 1 3) := by
  refine ⟨rfl, rfl, rfl, rfl, rfl, rfl, rfl, rfl, rfl, rfl, rfl⟩

theorem test_decode_translation :
    decode (.plain .ctl) 0x0000490080040100 = .ok (.tld .plain 4 1 2) ∧
    decode (.plain .ctl) 0x00004B00A0040100 = .ok (.tmap .plain 5 1 2) ∧
    decode (.plain .ctl) 0x00004C00C0040002 = .ok (.tunmap .plain 6 1 2 0) ∧
    decode (.plain .ctl) 0x00004D0060040101 = .ok (.tshd .plain 3 1 2 1 0) ∧
    decode (.plain .ctl) 0x00004E00E0040000 = .ok (.tprb .plain 7 1) := by
  refine ⟨rfl, rfl, rfl, rfl, rfl⟩

theorem test_decode_access :
    decode (.plain .acc) 0x000001123C000000 = .ok (.ldq .plain 1 2 7 4 0) ∧
    decode (.plain .acc) 0x0000291418933000 = .ok (.putr .plain 1 4 3 2 9 1 12) ∧
    decode (.plain .acc) 0x00001E0000000000 = .ok (.mark .plain) ∧
    decode (.plain .acc) 0x00000A00C10C0000 = .ok (.ldd .plain 6 67 0) ∧
    decode (.plain .acc) 0x00001F00810C0280 = .ok (.amoadd .plain 4 67 5 0) ∧
    decode (.plain .acc) 0x00001B00A0000001 = .ok (.ali .plain 5 1) ∧
    decode { DecEnv.plain .acc with scp := some 10 } 0x0000260061080100 = .ok (.amoswp ⟨0, 0, some 10, none⟩ 3 66 2 0) ∧
    decode (.plain .acc) 0x0020044234000000 = .ok (.stq ⟨0, 0x20, none, none⟩ 4 2 6 4 0) ∧
    decode (.plain .acc) 0x0000340000000000 = .ok (.accFence .plain) := by
  refine ⟨rfl, rfl, rfl, rfl, rfl, rfl, rfl, rfl, rfl⟩

theorem test_decode_vector :
    decode (.plain .vec) 0x21230401800E0006 = .ok (.vfma ⟨0x21, 0x23, none, none⟩ 12 3 1024 6 0 0) ∧
    decode (.plain .vec) 0x0000030010020006 = .ok (.vmul .plain 0 1024 1024 6 0 0) ∧
    decode (.plain .vec) 0x0020010100200086 = .ok (.vadd ⟨0, 0x20, none, none⟩ 8 8 1 6 0 0) ∧
    decode (.plain .vec) 0x00004C0003FFFFFE = .ok (.vloop .plain 3 (2 ^ 64 - 2)) ∧
    decode (.plain .vec) 0x00003D80D0180000 = .ok (.vmov .plain 1030 1030) ∧
    decode (.plain .vec) 0x00003C8800040003 = .ok (.mset .plain 1088 3 4) ∧
    decode (.plain .vec) 0x00434D0280100001 = .ok (.expmax ⟨0, 0x43, none, none⟩ 20 4 1) := by
  refine ⟨rfl, rfl, rfl, rfl, rfl, rfl, rfl⟩

theorem test_decode_matrix :
    decode (.plain .mtx) 0x0000070000040040 = .ok (.mringSet .plain 0 4 0x40) ∧
    decode (.plain .mtx) 0x0042070140000001 = .ok (.mringAdv ⟨0, 0x42, none, none⟩ 1 1) ∧
    decode (.plain .mtx) 0x0000099000000001 = .ok (.mtzero .plain 1152 1) := by
  refine ⟨rfl, rfl, rfl⟩

theorem test_decode_crossbar :
    decode (.plain .xbr) 0x0000010758000000 = .ok (.xcfg .plain 7 1 3 0 0) ∧
    decode (.plain .xbr) 0x0000040000011010 = .error 3 ∧
    decode (.plain .xbr) 0x0000110500000000 = .ok (.xcal .plain 5) ∧
    decode { DecEnv.plain .xbr with imx := some 0x40 } 0x0000140506800000 = .ok (.xcert .plain 5 6 32 64) ∧
    decode { DecEnv.plain .xbr with imx := some 0x400010 } 0x0000170500A00000 = .ok (.xfallAuto .plain 5 0 1 0x400010) := by
  refine ⟨rfl, rfl, rfl, rfl, rfl⟩

theorem test_decode_copy :
    decode (.plain .cpy) 0x0044050100200000 = .ok (.cpyx ⟨0, 0x44, none, none⟩ 1 2) ∧
    decode (.plain .cpy) 0x00000A0000000070 = .ok (.crec .plain 0x70) ∧
    decode (.plain .cpy) 0x2100000109028000 = .ok (.wordNotAnInstruction 0x2100000109028000) ∧
    decode (.plain .cpy) 0x2100010902800000 = .ok (.cpy ⟨0x21, 0, none, none⟩ 9 40) ∧
    decode (.plain .cpy) 0x00200C0000000000 = .ok (.cdrain ⟨0, 0x20, none, none⟩) ∧
    decode (.plain .cpy) 0x0000140000000003 = .ok (.bfctlPause .plain 0) ∧
    decode (.plain .cpy) 0x2121130000200020 = .ok (.bfq ⟨0x21, 0x21, none, none⟩ 0 2 0x20) ∧
    decodeNmu 0x72E00000 = .ok (.nldp 23) ∧ decodeNmu 0x68000000 = .ok (.nld 0 0) := by
  refine ⟨rfl, rfl, rfl, rfl, rfl, rfl, rfl, rfl, rfl⟩

theorem test_decode_prefixes :
    decode (.plain .acc) 0x0000FD000000000A = .ok (.scp .plain 2 2) ∧
    decode (.plain .acc) 0x0000FE0000000002 = .ok (.pmt .plain 0 1) ∧
    decode (.plain .acc) 0x0000FC0000020000 = .ok (.imx .plain 0x20000) ∧
    decode (.plain .acc) 0x2100FF0000000000 = .error 5 ∧
    decode (.plain .cpy) 0x2100FF0000000000 = .ok (.nop ⟨0x21, 0, none, none⟩) := by
  refine ⟨rfl, rfl, rfl, rfl, rfl⟩

/-! Single steps from reset with a word placed (log entry 3), and the values the spec gives. -/

/-- What a step answers, where it is a next state. -/
def nextIs (o : Out) (p : State → Bool) : Bool :=
  match o with
  | .next u => p u
  | _ => false

/-- 04 R97: ADDI's result is due one tc after issue; the next word is at pc + 1. -/
theorem test_step_addi : nextIs (step (State.reset.withFetchWord 64 0x000013002004000A)) (fun u =>
    (u.cc 0 0).pc == 1 && u.flights.map (fun f => (f.due, f.fl)) == [(1, .sreg 0 0 1 ⟨10, false⟩ 0)]) = true := by decide +kernel

/-- 16 R423: TRAP 0x60 enters level 1 at word 1 with its code and its own address. -/
theorem test_step_trap : nextIs (step (State.reset.withFetchWord 64 0x00004F0000000060)) (fun u =>
    (u.cc 0 0).pc == 1 && (u.cc 0 0).tlvl == 1 && FM.get 0 (u.cc 0 0).tcause 1 == 0x60 && FM.get 0 (u.cc 0 0).tepc 1 == 0) = true := by
  decide +kernel

/-- 02 R47: a word whose opcode is not assigned raises 0x02 with the word in TVAL. -/
theorem test_step_reserved : nextIs (step (State.reset.withFetchWord 64 0x0000F00000000001)) (fun u =>
    FM.get 0 (u.cc 0 0).tcause 1 == 2 && FM.get 0 (u.cc 0 0).tval 1 == 0x0000F00000000001) = true := by decide +kernel

/-- 02 R44: a prefix is latched with its own address. -/
theorem test_step_prefix : nextIs (step (State.reset.withFetchWord 64 0x0000FC0000020000)) (fun u =>
    (u.cc 0 0).latch == ⟨some 0x20000, none, none, some 0⟩ && (u.cc 0 0).pc == 1) = true := by decide +kernel

/-- 04 R113: a ring-fed engine passes its word. -/
theorem test_step_ali : nextIs (step (State.reset.withFetchWord 72 (2 ^ 64 + 0x00001B00A0000001))) (fun u =>
    ((u.tile 0).ring 1).head == 1 && u.flights.map (fun f => f.fl) == [.areg 0 5 ⟨1, false⟩ 0]) = true := by decide +kernel

/-- 06 R162, R175: VSPLAT reaches every lane. -/
theorem test_step_vsplat : nextIs (step (State.reset.withFetchWord 72 (2 * 2 ^ 64 + 0x00003E0000000007))) (fun u =>
    u.flights.map (fun f => match f.fl with
      | .vreg _ r _ v _ => r == 0 && lane v.v 0 0 == 7 && lane v.v 15 63 == 7
      | _ => false) == [true]) = true := by decide +kernel

/-- 10 R290: NMU instructions go one after another. -/
theorem test_step_nldp : nextIs (step (State.reset.withFetchWord 32 0x72E00000)) (fun u =>
    ((u.nmu 0).run.map (·.pc)) == some 1) = true := by decide +kernel

/-- 14 R388: CTXSCRUB ends the task as DONE does. -/
theorem test_step_ctxscrub : nextIs (step (State.reset.withFetchWord 64 0x0000470000000000)) (fun u =>
    (u.cc 0 0).run == .inDone && (u.tile 0).endSig == some 0) = true := by decide +kernel

/-- 04 R112, worked out by hand for counter 0 and key 0: every equation gives 0. -/
theorem test_crng_zero : nextIs (step (State.reset.withFetchWord 64 0x00002B0020000000)) (fun u =>
    u.flights.map (fun f => (f.due, f.fl)) == [(4, .sreg 0 0 1 ⟨0, false⟩ 0)]) = true := by decide +kernel

/-- A store of a word's bytes is little-endian, and zero bytes are not listed (log entry 1). -/
theorem test_put : (State.reset.put 0x100 [1, 0, 2] false).mem = [(0x100, 1), (0x102, 2)] := by decide +kernel

/-! Witnesses: states that meet the hypotheses of the statements. -/

/-- Tile 0 runs a task; `f` has changed the state. -/
noncomputable def tileWith (f : State → State) : State := f State.reset.tile0Runs
noncomputable def ctlAt (f : State → State) : State := { tileWith f with cur := .ctl 0 0 }
noncomputable def ringAt (e : Nat) (f : State → State) : State := { tileWith f with cur := .ring 0 e }

theorem goesC {s : State} {t c : Nat} (hc : s.cur = .ctl t c) (hb : s.bad = none) : CtlGoes s t c .plain s :=
  ⟨hc, hb, rfl, rfl, rfl⟩

theorem goesR {s : State} {t e : Nat} (hc : s.cur = .ring t e) (hb : s.bad = none) (hh : ((s.tile t).engine e).hold = .none := by rfl) :
    RingGoes s t e .plain s := ⟨hc, hb, rfl, rfl, hh, by split <;> rfl⟩

/-- A word that waits on sem5 where a permit stands goes, in the state with the permit taken. -/
theorem witness_goes_with_wait : ∃ s w, CtlGoes s 0 0 ⟨0x45, 0, none, none⟩ w ∧ ((s.tile 0).semOf 5).count = 1 ∧ ((w.tile 0).semOf 5).count = 0 :=
  ⟨ctlAt fun s => s.updTile 0 fun T => T.setSem 5 ⟨1, .clean⟩, _, ⟨rfl, rfl, rfl, rfl, rfl⟩, rfl, rfl⟩

/-- Context 0 with the registers `m`. -/
def sregs (m : FM RegV) (s : State) : State := s.updCc 0 0 fun x => { x with regs := m }
def aregs (m : FM RegV) (s : State) : State := s.updTile 0 fun T => { T with aregs := m }
/-- A capability with its tag. -/
def cap (space perms len base : Nat) : CReg := ⟨BitVec.ofNat 128 (space * 2 ^ 108 + perms * 2 ^ 96 + len * 2 ^ 56 + base), true⟩
def cregs (m : FM CReg) (s : State) : State := s.updTile 0 fun T => { T with cregs := m }
/-- A write to a[r] is on its way. -/
def pendingA (r : Nat) (s : State) : State := s.flyTile 0 1 (.areg 0 r RegV.zero 0)

theorem witness_EncodedWordsDecodeBack :
    (WellFormed .ctl (.add .plain 3 1 2) ∧ encode (.add .plain 3 1 2) = some ⟨none, none, none, 0x0000010060040100⟩) ∧
    (WellFormed .ctl (.li .plain 5 0x400000000123) ∧
      encode (.li .plain 5 0x400000000123) = some ⟨some 0x20000, none, none, 0x00001A00A0000123⟩) ∧
    (WellFormed .ctl (.hend .plain) ∧ encode (.hend .plain) = some ⟨none, none, none, 0x0000370000000000⟩) ∧
    (WellFormed .cpy (.nldp 23) ∧ encodeNmu (.nldp 23) = some 0x72E00000) := by
  refine ⟨⟨rfl, rfl⟩, ⟨rfl, rfl⟩, ⟨rfl, rfl⟩, rfl, rfl⟩

/-- A word of each check of R29 (02): it decodes, or the check named stops it. -/
theorem witness_DecodedWordsAreWellFormed :
    decode (.plain .ctl) 0x0000010060040100 = .ok (.add .plain 3 1 2) ∧ decodeNmu 0x72E00000 = .ok (.nldp 23) ∧
    decode ⟨.ctl, false, false, none, none, none⟩ 0x0000360000000000 = .ok (.done .plain) ∧
    decode ⟨.ctl, false, false, none, none, none⟩ 0x0000480000000060 = .error 8 ∧
    decode { DecEnv.plain .ctl with imx := some 1 } 0x0000010060040100 = .error 7 ∧
    decode (.plain .ctl) 0x2000010060040100 = .error 5 ∧ decode (.plain .ctl) 0x0000010060040101 = .error 3 ∧
    decode (.plain .ctl) 0x0000010400040100 = .error 4 ∧ decode (.plain .ctl) 0x00001C0060281064 = .error 9 := by
  refine ⟨rfl, rfl, rfl, rfl, rfl, rfl, rfl, rfl, rfl⟩

theorem witness_InvalidSyncBytes : syncByteOk 0 0xA0 = false ∧ syncByteOk 0 0x20 = false ∧ syncByteOk 0 0x26 = false ∧
    syncByteOk 0 0x01 = false ∧ syncByteOk 0 0x25 = true ∧ syncByteOk 0 0x9F = true ∧ bitsAt 0xA000010060040100 56 8 = 0xA0 ∧
    bitsAt 0xA000010060040100 40 8 = 1 ∧ bitsAt 0xA000FF0000000000 40 8 = 0xFF := by decide

theorem witness_StepRunsDecodedWord :
    (∃ s : State, s.sys.powered = false) ∧
    (∃ (s : State) (p : Nat × Instr), s.sys.powered = true ∧ s.dueInput = some p ∧ isOutside p.2 = true) ∧
    (State.reset.sys.powered = true ∧ State.reset.dueInput = none ∧ State.reset.turns = []) ∧
    (let s := State.reset.withFetchWord 64 0x0000010060040100
     s.dueInput = none ∧ s.turns = [.portA 0] ∧ s.ctlReady 0 0 = true ∧ (s.cc 0 0).pc < (s.tile 0).cimLen ∧
      setHas (s.tile 0).cimBad (s.cc 0 0).pc = false ∧ decode (s.ctlEnv 0 0) (s.ctlWord 0 0).toNat = .ok (.add .plain 3 1 2)) ∧
    (let s := State.reset.withFetchWord 64 0x2000010060040100
     s.ctlReady 0 0 = true ∧ decode (s.ctlEnv 0 0) (s.ctlWord 0 0).toNat = .error 5) ∧
    (let s := (State.reset.withFetchWord 64 0x0000010060040100).updTile 0 fun T => { T with cimLen := 0 }
     s.ctlReady 0 0 = true ∧ (s.tile 0).cimLen ≤ (s.cc 0 0).pc) ∧
    (let s := (State.reset.withFetchWord 72 (2 ^ 64 + 0x00001B00A0000001))
     s.turns = [.engine 0 1] ∧ s.ringReady 0 1 = true ∧ ((s.tile 0).engine 1).hold = .none ∧
      (s.reachFork 0 1).peek 0 1 = some ⟨0x00001B00A0000001, 0⟩ ∧ s.dueInput = none) ∧
    (let s := State.reset.withFetchWord 32 0x72E00000
     s.turns = [.nmu 0] ∧ s.dueInput = none ∧ ∃ r, (s.nmu 0).run = some r ∧ r.ended = false ∧
      decodeNmu (r.prog.getD r.pc 0) = .ok (.nldp 23)) := by
  refine ⟨⟨{ State.reset with sys := { State.reset.sys with powered := false } }, rfl⟩,
    ⟨{ State.reset with inputs := [(0, .warmReset)] }, _, rfl, rfl, rfl⟩, ⟨rfl, rfl, rfl⟩, ⟨rfl, rfl, rfl, ?_, rfl, rfl⟩, ⟨rfl, rfl⟩, ⟨rfl, ?_⟩,
    ⟨rfl, rfl, rfl, rfl, rfl⟩, rfl, rfl, _, rfl, rfl, rfl⟩
  · decide +kernel
  · decide +kernel

theorem witness_StepKeepsMemoryCanonical : ∃ u, (State.reset.put 0 [1] true).Canonical ∧ step (State.reset.put 0 [1] true) = .next u :=
  ⟨_, rfl, rfl⟩

theorem witness_MemoryReadsWhatWasWritten : (State.reset.put 0x3F [1, 2, 0] true).Canonical := rfl

theorem witness_AccessRegisterWords :
    (∃ s : State, RingGoes s 0 1 .plain s ∧ s.accPending 0 [1, 2, 3] = false ∧ s.accPending 0 [1, 2] = false ∧ s.accPending 0 [1] = false ∧
      ((s.tile 0).ring 2).size = 0 ∧ ((s.tile 0).ring 3).size = 2 ^ 13) ∧
    ∃ s : State, RingGoes s 0 1 .plain s ∧ s.accPending 0 [1, 2, 3] = true :=
  ⟨⟨ringAt 1 fun s => s.updTile 0 fun T => { T with rings := FM.set T.rings 3 ⟨4096, 8192, 0, 0, 0, [], []⟩ }, goesR rfl rfl,
      rfl, rfl, rfl, rfl, rfl⟩,
    ringAt 1 (pendingA 2), goesR rfl rfl, rfl⟩

theorem witness_CapabilitiesOnlyNarrow :
    (∃ s : State, RingGoes s 0 1 .plain s ∧ s.accPending 0 [64, 65, 2] = false ∧ (s.areg 0 2).p = false ∧ (s.creg 0 65).tag = false) ∧
    (∃ s : State, RingGoes s 0 1 .plain s ∧ s.accPending 0 [64, 65, 2] = false ∧ (s.areg 0 2).p = false ∧ (s.creg 0 65).tag = true ∧
      capPerms (s.creg 0 65).v / 2 ^ 8 % 2 = 1 ∧ (s.areg 0 2).v.toNat = capLen (s.creg 0 65).v) ∧
    (∃ s : State, RingGoes s 0 1 .plain s ∧ (s.areg 0 2).p = true) ∧
    (∃ s : State, RingGoes s 0 1 .plain s ∧ (s.creg 0 65).tag = true ∧ capPerms (s.creg 0 65).v / 2 ^ 8 % 2 = 0) ∧
    ∃ s : State, RingGoes s 0 1 .plain s ∧ (s.creg 0 65).tag = true ∧ capPerms (s.creg 0 65).v / 2 ^ 8 % 2 = 1 ∧
      capLen (s.creg 0 65).v < (s.areg 0 2).v.toNat :=
  ⟨⟨ringAt 1 id, goesR rfl rfl, rfl, rfl, rfl⟩,
    ⟨ringAt 1 (cregs [(1, cap 0 0x103 16 64)] ∘ aregs [(2, ⟨16, false⟩)]), goesR rfl rfl, rfl, rfl, rfl, rfl, rfl⟩,
    ⟨ringAt 1 (aregs [(2, ⟨16, true⟩)]), goesR rfl rfl, rfl⟩,
    ⟨ringAt 1 (cregs [(1, cap 0 3 16 64)]), goesR rfl rfl, rfl, rfl⟩,
    ringAt 1 (cregs [(1, cap 0 0x103 16 64)] ∘ aregs [(2, ⟨17, false⟩)]), goesR rfl rfl, rfl, rfl, by decide +kernel⟩

/-- The access core with a capability of the whole scratchpad in c1. -/
noncomputable def scratchCap (f : State → State) : State := ringAt 1 (f ∘ cregs [(1, cap 0 0x3FF 0x80000 0)])

def full4 (s : State) : State := s.updTile 0 fun T => T.setQueue 4 (((T.queue 4).alloc).fill 0 ⟨0, false⟩)
/-- A word of the access engine that has issued waits for its list. -/
noncomputable def issued1 (f : State → State) : State :=
  scratchCap (f ∘ fun s => s.updEng 0 1 fun x => { x with hold := .issued 5 .empty })

theorem witness_LoadsAndStoresIssue :
    (∃ s : State, RingGoes s 0 1 .plain s ∧ s.accPending 0 (creg 1 :: [2, 3]) = false ∧ ((s.tile 0).queue 0).ents.length < 4 ∧
      s.regSink 0 [2, 3] = none ∧ s.rowsFail 0 1 1 [⟨s.memAddr 0 1 2 0 0, 4096, 0⟩] = none ∧
      s.rowsFail 0 1 1 (stridedRows 1 2 3 3 15 0 s 0) = none ∧ ((s.tile 0).queue 4).head? = none ∧
      s.checkRange 0 (s.engSup 0) (s.creg 0 65) ⟨[0, 1, 2, 3, 5], false, 1, 8⟩ (s.immAddr 0 65 0x7FFF8) 8 = none ∧
      s.checkRange 0 (s.engSup 0) (s.creg 0 65) ⟨[0, 1, 2, 3, 5], false, 1, 8⟩ (s.immAddr 0 65 0x80000) 8 = some (.fault 0x21 0x80000) ∧
      s.rowsFail 0 1 1 [⟨1, 4096, 0⟩] = some (.fault 0x23 1)) ∧
    (∃ s : State, RingGoes s 0 1 .plain s ∧ 4 ≤ ((s.tile 0).queue 0).ents.length) ∧
    (∃ s v, RingGoes s 0 1 .plain s ∧ ((s.tile 0).queue 4).head? = some v ∧ v.p = false ∧
      s.rowsFail 0 1 2 [⟨s.memAddr 0 1 2 7 0, 4096, 0⟩] = none) ∧
    (∃ s v, RingGoes s 0 1 .plain s ∧ s.accPending 0 [creg 1, creg 2, 3, 4] = false ∧ ((s.tile 0).queue 4).head? = some v) ∧
    (∃ s v, s.cur = .ring 0 1 ∧ s.bad = none ∧ ((s.tile 0).engine 1).hold = .issued 5 .empty ∧ s.listReady 0 0 = true ∧
      s.regSink 0 [2, 3] = none ∧ listCheck 1 2 15 s 0 = none ∧ s.rowsFail 0 1 1 (listedRows 1 1 2 3 0 15 s 0) = none ∧
      s.rowsFail 0 1 2 (listedRows 1 1 2 3 0 15 s 0) = none ∧ ((s.tile 0).queue 4).head? = some v ∧ v.p = false) ∧
    (∃ s : State, s.cur = .ring 0 1 ∧ s.bad = none ∧ ((s.tile 0).engine 1).hold = .issued 5 .empty ∧ s.listReady 0 0 = true ∧
      s.regSink 0 [2, 3] = none ∧ listCheck 0 2 15 s 0 = some (.fault 0x20 0)) ∧
    ∃ s : State, s.cur = .ring 0 1 ∧ s.bad = none ∧ ((s.tile 0).engine 1).hold = .issued 5 .empty ∧ s.listReady 0 0 = false := by
  refine ⟨⟨scratchCap id, goesR rfl rfl, rfl, ?_, rfl, rfl, ?_, rfl, rfl, ?_, rfl⟩,
    ⟨scratchCap fun s => s.updTile 0 fun T => T.setQueue 0 (((((T.queue 0).alloc).alloc).alloc).alloc), goesR rfl rfl, ?_⟩,
    ⟨scratchCap full4, _, goesR rfl rfl, rfl, rfl, rfl⟩, ⟨scratchCap full4, _, goesR rfl rfl, rfl, rfl⟩,
    ⟨issued1 full4, _, rfl, rfl, rfl, rfl, rfl, ?_, ?_, ?_, rfl, rfl⟩, ⟨issued1 id, rfl, rfl, rfl, rfl, rfl, ?_⟩,
    issued1 fun s => { s with nextId := 1, flights := [⟨0, .dev, 9, .access { Access.blank 0 1 0 with keys := [(0, 0)], size := 64 }⟩] },
      rfl, rfl, rfl, ?_⟩ <;>
  decide +kernel

/-- Context 0 has four ways of column scratch in column 0. -/
def scratchWays (s : State) : State := s.updContext 0 fun x => { x with nw := [(0, 4)] }

theorem witness_RemoteAccessWordsIssue :
    ∃ s : State, RingGoes s 0 1 .plain s ∧ s.accPending 0 [64, 65, 2, 3] = false ∧ capFail 5 65 0x7FFF0 s 0 = none ∧ capFail 10 65 0 s 0 = none ∧
      s.checkRange 0 (s.engSup 0) (s.creg 0 65) ⟨[0, 1, 2], false, 16, 8⟩ 0 8 = none ∧
      s.checkRange 0 (s.engSup 0) (s.creg 0 66) ⟨[1, 2], false, 33, 8⟩ 0 8 = none ∧
      s.checkRange 0 (s.engSup 0) (s.creg 0 67) ⟨[0, 1, 2], false, 16, 8⟩ 0 8 = some (.fault 0x20 0) ∧
      s.putsOut 0 < 8 ∧ putFail 65 65 2 3 [4] 64 (putLen 4 65536) [0, 4] 2 64 s 0 = none ∧
      putFail 65 65 2 3 [4, 5] 0 (putLen 4 16384) [0] 64 64 s 0 = none ∧ putFail 65 65 2 3 [4] 0 (redLen 4 0) [0, 4] 128 4 s 0 = none := by
  refine ⟨ringAt 1 (scratchWays ∘ cregs [(1, cap 0 0x3FF 0x80000 0), (2, cap 1 0x3FF 64 0)] ∘ aregs [(4, ⟨64, false⟩)]), goesR rfl rfl,
    rfl, ?_, rfl, rfl, ?_, rfl, ?_, rfl, rfl, rfl⟩ <;> decide +kernel

theorem witness_RemoteAccessWordsIssue_full : ∃ s : State, RingGoes s 0 1 .plain s ∧ 8 ≤ s.putsOut 0 := by
  refine ⟨ringAt 1 fun s => (List.range 8).foldl (fun s _ => s.sendPut .plain 0 0 65 65 0 0 64 0 0 none 0 0 0) s, goesR rfl rfl, ?_⟩
  decide +kernel

theorem witness_HintAndHoldWords :
    (∃ s : State, RingGoes s 0 1 .plain s ∧ s.accPending 0 [creg 1] = false ∧ s.hintAt 0 1 0 7 0 [1, 2] = none ∧ s.hintAt 0 1 0 7 0 [2] = none ∧
      rdsetOk (s.areg 0 4).v.toNat = true ∧ rdsetOk (s.areg 0 5).v.toNat = false) ∧
    (∃ (s : State) (line : Nat), RingGoes s 0 1 .plain s ∧ s.hintAt 0 2 0 7 63 [1, 2] = some 63 ∧ s.l1Key 0 1 0 63 = some line) := by
  refine ⟨⟨scratchCap (aregs [(4, ⟨0x00C001000, false⟩), (5, ⟨1, false⟩)]), goesR rfl rfl, rfl, rfl, rfl, ?_, ?_⟩,
    ringAt 1 (scratchWays ∘ cregs [(2, cap 1 0x3FF 64 0)]), _, goesR rfl rfl, ?_, rfl⟩ <;> decide +kernel

/-- Each failing check of R131 (05), and a range that ends where its capability does. -/
theorem witness_CapabilityChecksInOrder :
    let s := scratchCap scratchWays
    let need : Need := ⟨[0, 1], false, 3, 8⟩
    s.checkCap 0 false ⟨0, false⟩ need 0 8 = some (0x20, 0) ∧
    s.checkCap 0 false (cap 2 3 16 0) need 0 8 = some (0x24, 0) ∧
    s.checkCap 0 false (cap 0 1 16 0) need 0 8 = some (0x22, 0) ∧
    s.checkCap 0 false (cap 0 3 16 0) need 4 8 = some (0x23, 4) ∧
    s.checkCap 0 false (cap 0 3 16 0) need 16 8 = some (0x21, 16) ∧
    s.checkCap 0 false (cap 1 3 0x700000 0) need 0x600000 8 = some (0x26, 0x600000) ∧
    s.checkCap 0 false (cap 0 3 16 0) need 8 8 = none := by
  refine ⟨?_, ?_, ?_, ?_, ?_, ?_, ?_⟩ <;> decide +kernel

/-- An STD to the last eight bytes of the scratchpad, alone in flight. -/
noncomputable def storing : State :=
  (tileWith id).fly .dev 1 (.access { Access.blank 0 0xE 0 with keys := [(0x7FFF8, 0)], size := 8 })

theorem witness_ScratchpadStoreWritesItsBytes :
    ∃ f x, storing.flight? 0 = some f ∧ f.id = 0 ∧ f.fl = .access x ∧ storing.bad = none ∧ storing.Canonical ∧ x.op = 0xE ∧ x.size = 8 ∧
      x.space = 0 ∧ x.stage = 0 ∧ x.atomic = false ∧ x.keys = [(0x7FFF8, 0)] ∧ x.scope < 3 ∧ x.order = 0 ∧
      ∀ v, storing.view? ⟨0, .dev, 0, .access x⟩ = some v → storing.before v = [] := by
  refine ⟨_, _, rfl, rfl, rfl, rfl, rfl, rfl, rfl, rfl, rfl, rfl, rfl, by decide, rfl, ?_⟩
  rintro v hv
  obtain rfl := Option.some.inj hv
  rfl

theorem witness_AccessIssueFrame : ∃ s u v, RingGoes s 0 1 .plain s ∧ exec (.aadd .plain 1 2 3) s = .next u ∧
    exec (.ldd .plain 1 65 0) s = .next v :=
  ⟨scratchCap id, _, _, goesR rfl rfl, rfl, rfl⟩

theorem witness_ControlArithmeticWords : ∃ s : State, CtlGoes s 0 0 .plain s ∧ (s.sreg 0 0 1).v = BitVec.allOnes 64 ∧ (s.sreg 0 0 2).p = true :=
  ⟨ctlAt (sregs [(1, ⟨BitVec.allOnes 64, false⟩), (2, ⟨1, true⟩)]), goesC rfl rfl, rfl, rfl⟩

theorem witness_ControlImmediateWords : ∃ s : State, CtlGoes s 0 3 .plain s := ⟨{ tileWith id with cur := .ctl 0 3 }, goesC rfl rfl⟩

theorem witness_ControlDivisionWords :
    (∃ s : State, CtlGoes s 0 0 .plain s ∧ (s.tile 0).divFree 0 ≤ (s.tile 0).clk ∧ (s.sreg 0 0 2).v ≠ 0) ∧
    (∃ s : State, CtlGoes s 0 0 .plain s ∧ (s.tile 0).divFree 0 ≤ (s.tile 0).clk ∧ (s.sreg 0 0 2).v = 0 ∧ s.dz 0 0 = false) ∧
    (∃ s : State, CtlGoes s 0 0 .plain s ∧ (s.tile 0).divFree 0 ≤ (s.tile 0).clk ∧ (s.sreg 0 0 2).v = 0 ∧ s.dz 0 0 = true ∧ (s.cc 0 0).tlvl < 2) ∧
    ∃ s : State, CtlGoes s 0 0 .plain s ∧ (s.tile 0).clk < (s.tile 0).divFree 0 := by
  refine ⟨⟨ctlAt (sregs [(2, ⟨1, false⟩)]), goesC rfl rfl, ?_, ?_⟩, ⟨ctlAt id, goesC rfl rfl, ?_, rfl, rfl⟩,
    ⟨ctlAt fun s => s.updCc 0 0 fun x => { x with tstate := [(0, 1)] }, goesC rfl rfl, ?_, rfl, rfl, ?_⟩,
    ctlAt fun s => s.updTile 0 fun T => { T with divA := 1 }, goesC rfl rfl, ?_⟩ <;> decide +kernel

theorem witness_ControlBitFieldsAndCompares : CtlGoes (ctlAt id) 0 0 .plain (ctlAt id) ∧ 1 ≤ 1 ∧ 63 + 1 ≤ 64 ∧ 1 ≤ 64 ∧
    decode (.plain .ctl) 0x0000200000000006 = .error 3 ∧ decode (.plain .ctl) 0x0000200000000005 = .ok (.cmp .plain 0 0 0 5) ∧
    decode (.plain .ctl) 0x0000240000000020 = .error 3 ∧
    decode (.plain .ctl) 0x000024000000001F = .ok (.sel .plain 0 0 0 31) :=
  ⟨goesC rfl rfl, by decide, by decide, by decide, rfl, rfl, rfl, rfl⟩

theorem witness_CounterGeneratorValue : CtlGoes (ctlAt id) 0 0 .plain (ctlAt id) ∧
    decode (.plain .ctl) 0x00002B0000000001 = .error 3 := ⟨goesC rfl rfl, rfl⟩

theorem witness_ControlFlowWords :
    (∃ s : State, CtlGoes s 0 0 .plain s ∧ (s.sreg 0 0 1).p = false ∧ (s.sreg 0 0 1).v = 1 ∧ (s.sreg 0 0 2).v ≠ 1 ∧ (s.sreg 0 0 31).p = false) ∧
    ∃ s : State, CtlGoes s 0 0 .plain s ∧ (s.cc 0 0).tlvl < 2 ∧ (s.sreg 0 0 1).p = true ∧ (s.sreg 0 0 31).p = true := by
  refine ⟨⟨ctlAt (sregs [(1, ⟨1, false⟩)]), goesC rfl rfl, rfl, rfl, ?_, rfl⟩,
    ctlAt (sregs [(1, ⟨1, true⟩), (31, ⟨4, true⟩)]), goesC rfl rfl, ?_, rfl, rfl⟩ <;> decide +kernel

/-- Tile 0 with semaphore 63 and the queue that feeds engine 1 from engine 2 at these counts. -/
noncomputable def counts (a b : SObj) : State := tileWith fun s => s.updTile 0 fun T => (T.setSem 63 a).setTq (tqIndex 2 1) b

theorem witness_WaitsTakeOneCount :
    (let s := counts ⟨1, .clean⟩ ⟨1, .clean⟩
     ((s.tile 0).semOf 63).pois.bit = false ∧ (s.tile 0).earlierWaiters 1 (64 + 63) < ((s.tile 0).semOf 63).count ∧
      ((s.tile 0).tqOf (tqIndex 2 1)).pois.bit = false ∧ 0 < ((s.tile 0).tqOf (tqIndex 2 1)).count) ∧
    (let s := counts ⟨0, .clean⟩ ⟨0, .clean⟩
     ((s.tile 0).semOf 63).count = 0 ∧ ((s.tile 0).tqOf (tqIndex 2 1)).count = 0) ∧
    (let s := counts ⟨0, ⟨true, 0x51, 5⟩⟩ ⟨0, ⟨true, 0x51, 5⟩⟩
     ((s.tile 0).semOf 63).pois.bit = true ∧ ((s.tile 0).tqOf (tqIndex 2 1)).pois.bit = true) := by
  refine ⟨⟨rfl, ?_, rfl, ?_⟩, ⟨rfl, rfl⟩, rfl, rfl⟩ <;> decide +kernel

theorem witness_SignalsAddOneCount :
    (let s := counts ⟨65534, .clean⟩ ⟨62, .clean⟩
     ((s.tile 0).semOf 63).count < 65535 ∧ ((s.tile 0).tqOf (tqIndex 2 1)).count < 63 ∧
      ((s.tile 0).pushes.any fun x => x.prod == 2 && x.cons == 1) = false) ∧
    (let s := counts ⟨65535, ⟨true, 0x51, 5⟩⟩ ⟨63, .clean⟩
     65535 ≤ ((s.tile 0).semOf 63).count ∧ 63 ≤ ((s.tile 0).tqOf (tqIndex 2 1)).count) := by
  refine ⟨⟨?_, ?_, rfl⟩, ?_, ?_⟩ <;> decide +kernel

theorem witness_PrefixesAreLatched : (ctlAt id).cur = .ctl 0 0 ∧
    ∃ (s : State) (w : RWord), s.cur = .ring 0 2 ∧ s.peek 0 2 = some w ∧ ((s.tile 0).engine 2).latch.scp.isSome = true :=
  ⟨rfl, { (State.reset.withFetchWord 72 (2 * 2 ^ 64 + 5)).updEng 0 2 fun x => { x with latch := ⟨none, some 4, none, some 0⟩ } with
    cur := .ring 0 2 }, _, rfl, rfl, rfl⟩

theorem witness_NopWaitsAndSignals : CtlGoes (ctlAt id) 0 0 .plain (ctlAt id) ∧ RingGoes (ringAt 5 id) 0 5 .plain (ringAt 5 id) ∧
    (RingGoes (ringAt 2 id) 0 2 .plain (ringAt 2 id) ∧ ((ringAt 2 id).tile 0).pipeBusy = false) ∧
    RingGoes (ringAt 3 id) 0 3 .plain (ringAt 3 id) ∧ syncOk (.plain .vec) 0xFF 0x21 0x9F = true :=
  ⟨goesC rfl rfl, goesR rfl rfl, ⟨goesR rfl rfl, rfl⟩, goesR rfl rfl, rfl⟩

theorem witness_TrapsAreTaken :
    (∃ s : State, s.cur = .ctl 0 0 ∧ s.bad = none ∧ CtlGoes s 0 0 .plain s ∧ (s.cc 0 0).tlvl = 1) ∧
    ∃ s : State, s.cur = .ctl 0 0 ∧ s.bad = none ∧ CtlGoes s 0 0 .plain s ∧ (s.cc 0 0).tlvl = 2 :=
  ⟨⟨ctlAt fun s => s.updCc 0 0 fun x => { x with tlvl := 1 }, rfl, rfl, goesC rfl rfl, rfl⟩,
    ctlAt fun s => s.updCc 0 0 fun x => { x with tlvl := 2 }, rfl, rfl, goesC rfl rfl, rfl⟩

theorem witness_LevelsAndTasksEnd :
    (∃ s : State, CtlGoes s 0 0 .plain s ∧ 0 < (s.cc 0 0).tlvl) ∧
    (∃ s : State, CtlGoes s 0 1 .plain s ∧ s.flights = []) ∧
    (∃ s f, CtlGoes s 0 1 .plain s ∧ f ∈ s.flights ∧ f.fl = .sreg 0 1 1 RegV.zero 0 ∧ (s.tile 0).clk < f.due) ∧
    ∃ s : State, s.cur = .ctl 0 0 ∧ s.bad = none ∧ (s.tile 0).unmapped 0 = false ∧ (s.cc 0 0).tlvl = 0 := by
  refine ⟨⟨ctlAt fun s => s.updCc 0 0 fun x => { x with tlvl := 1 }, goesC rfl rfl, by decide +kernel⟩,
    ⟨{ tileWith id with cur := .ctl 0 1 }, goesC rfl rfl, rfl⟩,
    ⟨{ tileWith (fun s => s.flyTile 0 20 (.sreg 0 1 1 RegV.zero 0)) with cur := .ctl 0 1 }, _, goesC rfl rfl, List.mem_cons_self, rfl, ?_⟩,
    ctlAt id, rfl, rfl, rfl, rfl⟩
  decide +kernel

/-- Ring 2 of tile 0 holds `n` of its two circular words, behind a resident routine of one word. -/
noncomputable def ringHolds (n : Nat) (f : State → State) : State :=
  ctlAt fun s => f (s.updTile 0 fun T => { T with rings := FM.set T.rings 2 ⟨0, 3, 1, 0, n, [(0, 1)], []⟩ })

theorem witness_RingWords :
    (let s := ringHolds 0 id
     CtlGoes s 0 0 .plain s ∧ ((s.tile 0).ring 2).size ≠ 0 ∧ 2 ≤ ((s.tile 0).ring 2).cap ∧ 2 ≤ ((s.tile 0).ring 2).free ∧
      0 < ((s.tile 0).ring 2).routines.length ∧ ((s.tile 0).ring 2).routines.length ≤ 1 ∧ ((s.tile 0).ring 3).size = 0 ∧
      (s.sreg 0 0 1).p = false) ∧
    (let s := ringHolds 2 id
     CtlGoes s 0 0 .plain s ∧ ((s.tile 0).ring 2).free = 0 ∧ 2 ≤ ((s.tile 0).ring 2).cap) ∧
    (let s := ringHolds 1 (sregs [(1, ⟨0, true⟩)])
     CtlGoes s 0 0 .plain s ∧ 1 ≤ ((s.tile 0).ring 2).free ∧ ((s.tile 0).ring 2).free < 2 ∧ (s.sreg 0 0 1).p = true ∧ (s.cc 0 0).tlvl < 2) := by
  refine ⟨⟨goesC rfl rfl, ?_, ?_, ?_, ?_, ?_, rfl, rfl⟩, ⟨goesC rfl rfl, rfl, ?_⟩, goesC rfl rfl, ?_, ?_, rfl, ?_⟩ <;> decide +kernel

theorem witness_ObjectAndRegisterWords :
    (∃ s : State, CtlGoes s 0 0 .plain s ∧ (s.sreg 0 0 1).p = false ∧ s.ctlSup 0 0 = true) ∧
    ∃ s : State, CtlGoes s 0 0 .plain s ∧ (s.sreg 0 0 1).p = true ∧ s.ctlSup 0 0 = false ∧ (s.cc 0 0).tlvl < 2 := by
  refine ⟨⟨ctlAt id, goesC rfl rfl, rfl, rfl⟩, ctlAt fun s => (sregs [(1, ⟨0, true⟩)] s).updTile 0 fun T => { T with sup := false },
    goesC rfl rfl, rfl, rfl, ?_⟩
  decide +kernel

/-- Context 0 after `f`. -/
def ctx0 (f : Context → Context) (s : State) : State := s.updContext 0 f
def tile0 (f : Tile → Tile) (s : State) : State := s.updTile 0 f
def col0 (f : Col → Col) (s : State) : State := s.updCol 0 f
/-- An entry of a page of size code `size` at virtual and physical address 0, in state `st`, all permissions, key slot 0. -/
def entry (size st kind : Nat) : Cap := BitVec.ofNat 128 (size + 0x100 + st * 0x200 + kind * 0x800 + 0xE000)
/-- Column 0 translates through one such entry; key slot 0 is loaded. -/
def maps (size st : Nat) (s : State) : State :=
  col0 (fun C => { C with entries := [(0, entry size st 0)] }) { s with sys := { s.sys with keys := [(0, 5)] } }

theorem witness_SystemRegisterValues : (5 : Nat) < 6 ∧ (2 : Nat) < 3 ∧ (31 : Nat) < 32 ∧ (0xFF : Nat) < 0x100 := by decide

theorem witness_SynchronisationWords :
    (∃ s : State, CtlGoes s 0 0 .plain s ∧ ((s.tile 0).barOf 0).scope = 0 ∧ ((s.tile 0).barOf 1023).scope = 1 ∧
      ((s.tile 0).barOf 5).scope = 2 ∧ (s.cc 0 0).tlvl < 2 ∧ s.ctlXlate 0 ((s.context 0).cwBlock + 16 * 255) 16 2 2 = none ∧
      s.ctlDrained 0 0 s.nextId = true ∧
      ∃ q, FM.find? (s.col 0).deques 2047 = some q ∧ q.ctx = (s.tile 0).ctx ∧ s.colDisabled 0 = false) ∧
    (∃ s : State, CtlGoes s 0 0 ⟨0, 0, none, some 2⟩ s) ∧ (∃ s : State, CtlGoes s 0 0 ⟨0, 0, some 0xF, none⟩ s ∧ (s.releaseSystem 0).bad = none) ∧
    ∃ s : State, CtlGoes s 0 0 ⟨0, 0, some 8, none⟩ s ∧ s.ctlDrained 0 0 s.nextId = false := by
  refine ⟨⟨ctlAt (maps 0 0 ∘ col0 (fun C => { C with deques := [(2047, ⟨0, 0, 4, [], .clean⟩)] }) ∘
      tile0 fun T => { T with bar := [(5, ⟨true, 2, 3, 0, 0, 0, .clean⟩), (1023, ⟨true, 1, 0, 0, 0, 0, .clean⟩)] }), goesC rfl rfl,
      rfl, rfl, rfl, ?_, rfl, rfl, _, rfl, rfl, rfl⟩,
    ⟨ctlAt id, rfl, rfl, rfl, rfl, rfl⟩, ⟨ctlAt id, ⟨rfl, rfl, rfl, rfl, rfl⟩, rfl⟩,
    ctlAt (fun s => s.flyDev 9 (.semset 0 0 1 1)), ⟨rfl, rfl, rfl, rfl, rfl⟩, ?_⟩ <;> decide +kernel

/-- A context that may use tiles 0 and 1, with sheaf 0. -/
def granted (s : State) : State := ctx0 (fun x => { x with grant := 3, sheaves := [(0, ⟨[], []⟩)], bsplit := 1, nw := [(0, 4)] }) s

theorem witness_BankLaunchAndTileWords :
    (∃ s : State, CtlGoes s 0 0 .plain s ∧ 0 + 1 ≤ (s.context 0).bsplit ∧ s.colDisabled (tileCol 0) = false ∧ s.colDisabled 15 = true ∧
      (∀ k, FM.get 0 (s.context 0).nw k ≠ 0 → 4 ≤ FM.get 0 (s.context 0).nw k) ∧ s.splitRefused 0 4 = false ∧
      (FM.find? (s.context 0).sheaves 0).isSome ∧ s.openLaunches 0 < 64 ∧ (s.context 0).granted (tileAt 1 0) = true ∧
      s.ctlXlate 0 ((s.context 0).slotVa 1) 5242880 2 3 = none ∧ (s.tile 1).state = .saved ∧ (s.tile 1).ctx = (s.tile 0).ctx ∧
      (FM.find? s.saved 1).isSome ∧ (s.cc 0 0).tlvl < 2 ∧ (s.context 0).bsplit < 1 + 1 ∧ (s.context 0).granted (tileAt 2 0) = false ∧
      (s.tile 0).state = .running ∧ (FM.find? (s.context 0).sheaves 1).isNone) ∧
    ∃ s : State, CtlGoes s 0 0 .plain s ∧ (FM.find? (s.context 0).sheaves 0).isSome ∧ 64 ≤ s.openLaunches 0 := by
  refine ⟨⟨ctlAt (maps 4 0 ∘ granted ∘ fun s => { s.updTile 1 fun T => { T with state := .saved } with
      saved := [(1, Tile.fresh 1)], cols := FM.set s.cols 15 { Col.fresh with fenced := true } }), goesC rfl rfl,
      ?_, rfl, rfl, ?_, rfl, rfl, ?_, rfl, ?_, rfl, rfl, rfl, ?_, ?_, rfl, rfl, rfl⟩,
    ctlAt (granted ∘ fun s => { s with launches := List.replicate 64 ⟨0, 0, 0, 1, none, [], none⟩ }), goesC rfl rfl, rfl, ?_⟩
  all_goals first | decide +kernel | skip
  intro k hk
  by_cases h : k = 0
  · subst h; decide +kernel
  · exact absurd (show FM.get 0 [(0, 4)] k = 0 by simp [FM.get, h]) hk

/-- TLD's registers name no column, so that any image passes its checks. -/
noncomputable def imaged : State := ctlAt (maps 0 0 ∘ granted)

theorem imaged_maps : imaged.ctlXlate 0 (imaged.sreg 0 0 0).v.toNat (16 * tldCount (imaged.sreg 0 0 4).v) 2 1 = none := by decide +kernel

theorem imaged_checks : tldCheck 0 4 imaged 0 0 = none := by
  have fields : tldFields 0 4 imaged 0 0 = none := by decide +kernel
  have cols : tldCols (imaged.sreg 0 0 4).v = [] := by decide +kernel
  simp only [tldCheck, fields, imaged_maps, cols]
  split <;> rfl

theorem witness_TranslationWords :
    (∃ s : State, CtlGoes s 0 0 .plain s ∧ s.lookup 0 0 0 = none ∧ (s.context 0).columns.contains 0 = true ∧ 15 < ((s.context 0).part 0).2 ∧
      s.ctlDrained 0 0 s.nextId = true ∧ (s.cc 0 0).tlvl < 2 ∧ (s.sreg 0 0 1).v = 0 ∧ (s.sreg 0 0 1).p = false ∧
      (s.sreg 0 0 2).v = 2 ^ 56 ∧ (s.sreg 0 0 2).p = false ∧ (s.sreg 0 0 3).v = 2 ^ 56 + 1) ∧
    (∃ s : State, CtlGoes s 0 0 .plain s ∧ s.ctlDrained 0 0 s.nextId = false) ∧
    (∀ st < 3, ∃ s i e f g, CtlGoes s 0 0 .plain s ∧ s.lookup 0 0 0 = some (i, e) ∧ entState e = st ∧ ent e 0 4 = 0 ∧
      (s.context 0).pool4 = f :: g) ∧
    (∃ s i e f g, CtlGoes s 0 0 .plain s ∧ s.lookup 0 0 0 = some (i, e) ∧ entState e = 2 ∧ ent e 0 4 = 1 ∧ (s.context 0).pool64 = f :: g) ∧
    (∃ s i e, CtlGoes s 0 0 .plain s ∧ s.lookup 0 0 0 = some (i, e) ∧ entState e = 2 ∧ ent e 0 4 = 0 ∧ (s.context 0).pool4 = []) ∧
    ∃ s : State, CtlGoes s 0 0 .plain s ∧ s.ctlXlate 0 (s.sreg 0 0 0).v.toNat (16 * tldCount (s.sreg 0 0 4).v) 2 1 = none ∧
      tldCheck 0 4 s 0 0 = none ∧ s.ctlDrained 0 0 s.nextId = true := by
  refine ⟨⟨ctlAt (sregs [(2, ⟨2 ^ 56, false⟩), (3, ⟨2 ^ 56 + 1, false⟩)] ∘ granted ∘ ctx0 fun x => { x with parts := [(0, (0, 16))] }),
      goesC rfl rfl, rfl, ?_, ?_, rfl, ?_, rfl, rfl, rfl, rfl, rfl⟩,
    ⟨ctlAt (fun s => s.flyDev 9 (.semset 0 0 1 1)), goesC rfl rfl, ?_⟩, ?_,
    ⟨ctlAt (maps 1 2 ∘ ctx0 fun x => { x with pool64 := [3] }), _, _, _, _, goesC rfl rfl, rfl, rfl, rfl, rfl⟩,
    ⟨ctlAt (maps 0 2), _, _, goesC rfl rfl, rfl, rfl, rfl, rfl⟩, ?_⟩
  · decide +kernel
  · decide +kernel
  · decide +kernel
  · decide +kernel
  · intro st hst
    match st, hst with
    | 0, _ => exact ⟨ctlAt (maps 0 0 ∘ ctx0 fun x => { x with pool4 := [3] }), _, _, _, _, goesC rfl rfl, rfl, rfl, rfl, rfl⟩
    | 1, _ => exact ⟨ctlAt (maps 0 1 ∘ ctx0 fun x => { x with pool4 := [3] }), _, _, _, _, goesC rfl rfl, rfl, rfl, rfl, rfl⟩
    | 2, _ => exact ⟨ctlAt (maps 0 2 ∘ ctx0 fun x => { x with pool4 := [3] }), _, _, _, _, goesC rfl rfl, rfl, rfl, rfl, rfl⟩
  · exact ⟨imaged, goesC rfl rfl, imaged_maps, imaged_checks, rfl⟩

theorem witness_SpillTestAndLogWords :
    (∃ s : State, CtlGoes s 0 0 .plain s ∧ s.spillXlate 0 0 1 31 0 2 = none ∧ s.spillXlate 0 0 1 31 0 1 = none ∧
      s.spillXlate 0 0 1 1 0x80000 2 = some (.fault 0x21 0x80000) ∧ s.spillXlate 0 0 1 1 0x80000 1 = some (.fault 0x21 0x80000) ∧
      (s.cc 0 0).tlvl < 2 ∧ s.engIdle 0 5 = true ∧ (s.tile 0).log[15]? = some ⟨0x60, 0⟩ ∧ (s.tile 0).log.length ≤ 16) ∧
    ∃ s : State, CtlGoes s 0 0 .plain s ∧ (s.cc 0 0).tlvl < 2 ∧ s.engIdle 0 5 = false := by
  refine ⟨⟨ctlAt (tile0 fun T => { T with log := List.replicate 16 ⟨0x60, 0⟩, tsa := [(0, (cap 0 0x3FF 0x80000 0).v)], tsatag := 1 }),
      goesC rfl rfl, ?_, ?_, ?_, ?_, ?_, rfl, rfl, ?_⟩,
    ctlAt (tile0 fun T => { T with rings := [(5, ⟨0, 3, 1, 0, 1, [], []⟩)] }), goesC rfl rfl, ?_, ?_⟩ <;> decide +kernel

theorem witness_ControlWordsFrame :
    (∃ s u v w x : State, CtlGoes s 0 0 .plain s ∧ exec (.add .plain 3 1 2) s = .next u ∧ exec (.sel .plain 3 1 2 0) s = .next v ∧
      s.dz 0 0 = false ∧ (s.cc 0 0).tlvl < 2 ∧ exec (.jmp .plain 1 0) s = .next w ∧ exec (.div .plain 3 1 2 0) s = .next x) ∧
    ∃ s u v : State, CtlGoes s 0 0 .plain s ∧ (s.sreg 0 0 2).v ≠ 0 ∧ exec (.rem .plain 3 1 2 0) s = .next u ∧
      (s.cc 0 0).tlvl < 2 ∧ exec (.b .plain 1 2 0) s = .next v := by
  refine ⟨⟨ctlAt id, _, _, _, _, goesC rfl rfl, rfl, rfl, rfl, ?_, rfl, rfl⟩,
    ctlAt (sregs [(2, ⟨3, false⟩)]), _, _, goesC rfl rfl, ?_, rfl, ?_, rfl⟩ <;> decide +kernel

/-- Tile 0 runs, and `fl` alone is in flight. -/
noncomputable def flying (fl : Fl) (f : State → State) : State := { tileWith f with flights := [⟨0, .dev, 0, fl⟩] }

/-- A fault of engine 5, and the engine stopped with it. -/
def fault5 (begun : Bool) : Fault0 := ⟨0x41, 7, 8191, false, false, begun, [⟨5, 0⟩]⟩
def stopped (e : Nat) (pend begun : Bool) (s : State) : State :=
  s.updEng 0 e fun x => { x with stop := true, pend := pend, fault := some (fault5 begun) }

theorem ne_by {α : Type} {x a b : α} (h : x = a) (n : a ≠ b) : x ≠ b := h ▸ n
theorem lt_by {x a b : Nat} (h : x = a) (n : a < b) : x < b := h ▸ n

theorem bit_by {x a i : Nat} {b : Bool} (h : x = a) (n : a.testBit i = b) : x.testBit i = b := h ▸ n

theorem witness_TileLandings :
    (∀ fl, (flying fl id).bad = none ∧ (flying fl id).flight? 0 = some ⟨0, .dev, 0, fl⟩) ∧
    (∃ s : State, s.bad = none ∧ (s.tile 0).pendingFault = some (5, fault5 true) ∧ s.takesFaults 0 = true) ∧
    (∃ s : State, s.bad = none ∧ (s.tile 0).pendingFault = some (1, fault5 true) ∧ s.takesFaults 0 = false) ∧
    (∀ b, ∃ s : State, s.bad = none ∧ (s.tile 0).efltActs 4 = true ∧ ((s.tile 0).engine 4).fault = some (fault5 b) ∧
      ((s.tile 0).engine 4).routine = none) ∧
    (∀ n, ∃ s : State, s.bad = none ∧ (s.tile 0).pushes.find? (fun p => 8 * p.prod + p.cons == 17) = some ⟨6, 2, 1, 0⟩ ∧
      ((s.tile 0).tqOf 17).count = n) ∧
    ∃ s : State, ∃ h hs, s.bad = none ∧ (s.tile 0).hq = h :: hs ∧ (s.cc 0 3).run = .dormant ∧
      ((s.tile 0).hctl.testBit 3 = true ∨ (s.cc 0 0).run = .inDone) ∧ ∀ j, 1 ≤ j → j < 3 →
        (s.cc 0 j).run ≠ .dormant ∨ ((s.tile 0).hctl.testBit j = false ∧ (s.cc 0 0).run ≠ .inDone) := by
  refine ⟨fun _ => ⟨rfl, rfl⟩, ⟨tileWith (stopped 5 true true), rfl, rfl, rfl⟩,
    ⟨tileWith (stopped 1 true true ∘ stopped 5 true true ∘ fun s => s.updCc 0 0 fun x => { x with tlvl := 1 }), rfl, rfl, rfl⟩,
    fun b => ⟨tileWith (stopped 4 false b), rfl, rfl, rfl, rfl⟩,
    fun n => ⟨tileWith (tile0 fun T => { T with pushes := [⟨6, 2, 1, 0⟩], tq := [(17, ⟨n, .clean⟩)] }), rfl, rfl, rfl⟩,
    tileWith (tile0 fun T => { T with hq := [⟨9, 0, 64, 1, 0⟩], hctl := 0xA, ctxs := [(1, { CtlCtx.dormant with run := .running })] }), _, _,
      rfl, rfl, rfl, .inl (by decide +kernel), ?_⟩
  intro j h1 h3
  match j, h1, h3 with
  | 1, _, _ => exact .inl (by decide +kernel)
  | 2, _, _ => exact .inr ⟨by decide +kernel, by decide +kernel⟩

/-- A put of 64 bytes from tile 1 to the end of tile 0's scratchpad. -/
def put1 (kind : Nat) (written : Bool) : Put :=
  ⟨1, kind, 0, 0, 0x7FFC0, 64, 0, 0, some 63, 9, 5, 3, 0, 0, false, written, 0, 0, 0, 0, [], [], [], none⟩

/-- A slot of column scope with its home record. -/
noncomputable def homed (init : Bool) (count : Nat) : State :=
  flying (.home 0 1023 0 1 0 none 0 0) (tile0 (fun T => { T with bar := [(1023, ⟨true, 1, 0, 0, 0, 0, .clean⟩)] }) ∘
    col0 fun C => { C with homes := [(1023, ⟨⟨init, 1, 0, 2, count, 65535, .clean⟩, [0, 1]⟩)] })

theorem open_by {s : State} {c : Nat} (h : (s.col c).fenced = false) (d : s.sys.defsig = defsigFull)
    (n : (defsigFull / 16 ^ c % 16 == 15) = false) : s.colDisabled c = false := by simp [State.colDisabled, h, d, n]

noncomputable def mwaiting (armed : Bool) (dl : Option Nat) (scope order : Nat) : State :=
  tileWith fun s => s.updEng 0 1 fun x => { x with hold := .mwait 31 5 7 0x1000 0x1000 0 armed dl 0 scope order }

theorem witness_ArrivalsAtTilesAndHomes :
    (∀ kind written, ∃ s : State, s.bad = none ∧ s.flight? 0 = some ⟨0, .dev, 0, .put (put1 kind written)⟩ ∧ s.tileRuns 0 = true ∧
      s.colDisabled 0 = false ∧ (s.tile 0).state ≠ .fenced ∧ (s.context (s.tile 1).ctx).grant.testBit 0 = true ∧
      s.receives (put1 kind written) = true ∧ (s.tile 0).hq.length < 8 ∧ s.putBehind 0 (put1 kind written) = false ∧
      (put1 kind written).got.length ≤ (put1 kind written).sources ∧
      s.before ⟨0, 1, 1, [s.putUnit (put1 kind written)], false, true, false, false, 0, 0⟩ = []) ∧
    (∃ s : State, s.flight? 0 = some ⟨0, .dev, 0, .put (put1 0 false)⟩ ∧ s.colDisabled 0 = true) ∧
    (∃ s : State, s.flight? 0 = some ⟨0, .dev, 0, .put (put1 0 false)⟩ ∧ s.colDisabled 0 = false ∧ (s.tile 0).state = .fenced) ∧
    (∃ s : State, s.flight? 0 = some ⟨0, .dev, 0, .put (put1 0 false)⟩ ∧ s.colDisabled 0 = false ∧ (s.tile 0).state ≠ .fenced ∧
      (s.context (s.tile 1).ctx).grant.testBit 0 = false) ∧
    (∃ s : State, s.flight? 0 = some ⟨0, .dev, 0, .put (put1 1 false)⟩ ∧ s.colDisabled 0 = false ∧ (s.tile 0).state ≠ .fenced ∧
      (s.context (s.tile 1).ctx).grant.testBit 0 = true ∧ s.receives (put1 1 false) = true ∧ 8 ≤ (s.tile 0).hq.length) ∧
    (∃ s : State, s.flight? 0 = some ⟨0, .dev, 0, .put (put1 1 false)⟩ ∧ s.colDisabled 0 = false ∧ (s.tile 0).state ≠ .fenced ∧
      (s.context (s.tile 1).ctx).grant.testBit 0 = true ∧ s.receives (put1 1 false) = false) ∧
    State.reset.Canonical ∧
    (∀ init count, ∃ r, (homed init count).bad = none ∧ ((homed init count).tile 0).state ≠ .saved ∧
      (homed init count).flight? 0 = some ⟨0, .dev, 0, .home 0 1023 0 1 0 none 0 0⟩ ∧ (homed init count).colDisabled 0 = false ∧
      FM.find? ((homed init count).col 0).homes 1023 = some r ∧ r.slot.pois.bit = false ∧ r.slot.init = init ∧ r.slot.count = count ∧
      r.slot.target = 2) ∧
    (∀ b q, ∃ s : State, s.bad = none ∧ s.flight? 0 = some ⟨0, .dev, 0, .update 0 1023 65535 q⟩ ∧ (s.tile 0).recvOpen = b ∧
      (s.tile 0).state ≠ .saved ∧ FM.find? s.saved 0 = none ∧ ∀ f ∈ s.flights, ∀ p, f.fl = .put p → p.arrived = none) ∧
    (∀ armed dl scope order, (mwaiting armed dl scope order).bad = none ∧
      (((mwaiting armed dl scope order).tile 0).engine 1).hold = .mwait 31 5 7 0x1000 0x1000 0 armed dl 0 scope order) ∧
    ∃ (s : State) (a : Access), s.bad = none ∧ s.flight? 0 = some ⟨0, .dev, 0, .access a⟩ ∧ a.op = 0xA ∧ a.stage = 1 ∧ a.space = 4 ∧
      s.tileRuns a.t = true := by
  refine ⟨fun k b => ⟨flying (.put (put1 k b)) granted, rfl, rfl, rfl, open_by rfl rfl rfl, ne_by (a := .running) rfl nofun, bit_by (a := 3) rfl rfl, rfl,
      lt_by (a := 0) rfl (by decide), ?_, Nat.zero_le _, ?_⟩,
    ⟨flying (.put (put1 0 false)) (granted ∘ col0 fun C => { C with fenced := true }), rfl, by decide +kernel⟩,
    ⟨flying (.put (put1 0 false)) (tile0 fun T => { T with state := .fenced }), rfl, open_by rfl rfl rfl, rfl⟩,
    ⟨flying (.put (put1 0 false)) id, rfl, open_by rfl rfl rfl, ne_by (a := .running) rfl nofun, bit_by (a := 0) rfl rfl⟩,
    ⟨flying (.put (put1 1 false)) (granted ∘ tile0 fun T => { T with hq := List.replicate 8 ⟨9, 0, 64, 1, 0⟩ }), rfl, rfl, by decide +kernel,
      by decide +kernel, by decide +kernel, by decide +kernel⟩,
    ⟨flying (.put (put1 1 false)) (granted ∘ tile0 fun T => { T with recvOpen := false }), rfl, rfl, by decide +kernel, by decide +kernel,
      by decide +kernel⟩,
    rfl, fun i c => ⟨_, rfl, ne_by (a := .running) rfl nofun, rfl, open_by rfl rfl rfl, rfl, rfl, rfl, rfl, rfl⟩,
    fun b q => ⟨flying (.update 0 1023 65535 q) (tile0 fun T => { T with recvOpen := b }), rfl, rfl, rfl, ne_by (a := .running) (by cases b <;> rfl) nofun,
      rfl, fun f hf p e => by rw [List.mem_singleton.mp hf] at e; cases e⟩,
    fun _ _ _ _ => ⟨rfl, rfl⟩,
    flying (.access { Access.blank 0 0xA 0 with stage := 1, space := 4 }) id, _, rfl, rfl, rfl, rfl, rfl, rfl⟩
  all_goals cases b <;> rfl

/-- An XMVM of one vector at array 0, and with the fields of `f`. -/
def xcmd0 (f : XCmd → XCmd) : XCmd := f
  { acc := false, g := 0, i := 0, o := 0, islot := 0, oslot := 0, nvec := 1, vm := 0, xvm := 0, xvmP := false, outIdx := [], first := 0,
    nk := 1, nn := 1, ins := [0], outs := [0], vs := [0], vp := false, route := 2, enc := 1, from' := 0, started := none, counted := false,
    routes := [], certs := [], inputs := [], landed := 0, slots := 0, audits := [], auditFrom := 0, delivered := [], sig := 7, pois := none,
    held := none, grp := [], snaps := [] }
noncomputable def xat (f : XCmd → XCmd) (g : State → State) : State := tileWith (tile0 (fun T => { T with xcmds := [(9, xcmd0 f)] }) ∘ g)

/-- A calibration word of opcode `op` at array 159, at row `row`. -/
def calw (op row : Nat) (fit : Bool) : CalW :=
  ⟨op, [0, 1], 159, 0, some 0, 0, row, 0, none, [], 0, [], fit, 5, []⟩
noncomputable def calAt (w : CalW) : State := tileWith (tile0 fun T => { T with xcal := [(9, w)] })

def ccmd0 (f : CCmd → CCmd) : CCmd := f
  { op := 0, sub := 0, rec' := 0, desc := 0, img := [], caps := [], sig := 0, seq := 1, phase := 0, at' := 0, unit := 0, units := 0, bytes := 0,
    flags := 0, scope := 0, order := 0, sink := false, cls := 0, wait := [], stuck := false, ahead := [], list := none, prog := none,
    out := none, runs := [], masked := [], bitmap := [], crc := 0, status := 0, cause := 0, origin := 0, chan := 0, result := 0, pois := none,
    ext := [], grp := [] }
noncomputable def cat (f : CCmd → CCmd) (g : State → State) : State := tileWith (tile0 (fun T => { T with ccmds := [(9, ccmd0 f)] }) ∘ g)

/-- A table image of two layers with one array of K and of V in tile 0, 512 rows and 256 columns, route raw. -/
def table2 : List Nat :=
  ([2, 1] ++ natLe 2 512 ++ List.replicate 60 0) ++ ([1, 0, 0, 1] ++ [0, 1, 0, 0] ++ [1, 1, 0, 0] ++ List.replicate 20 0) ++
    ([1, 0, 0, 2] ++ [0, 1, 0, 0] ++ [1, 1, 0, 0] ++ List.replicate 20 0)
def bfreq : BfReq := ⟨0, 1, 0, false, 0, 1, 1, 1, 1, 0, 0, 0, 0, 0, 0, 5⟩
noncomputable def filling : State := tileWith (maps 4 0 ∘ granted ∘ col0 fun C => { C with
  bfCtx := [(0, { BfCtx.empty with table := table2 })], bfQueue := [bfreq] })

/-- A read of `n` lines each of which is like `q`, whatever the free choices. -/
theorem read_by {S : State} {ctx col va n : Nat} {q : Bool} (pg : S.translateRange ctx col va (64 * (n + 1)) 2 1 = none)
    (ln : ∀ i, i < n + 1 → ∃ p, S.translate ctx col (va + 64 * i) 2 1 = .ok p ∧ ∀ k, ∃ l m,
      ({ S with free := k } : State).bsLine ctx p (va + 64 * i) = ((l, q), { S with free := m })) (good : S.bad = none) :
    ∃ img ps v, S.devRead ctx col va (64 * (n + 1)) = (.ok (img, ps), v) ∧ v.bad = none ∧ ps.contains true = q := by
  have run : ∀ j, j ≤ n + 1 → ∃ l m, (List.range j).foldl (devLine ctx col va) (([], []), S) =
      ((l, List.replicate j q), { S with free := m }) := by
    intro j hj
    induction j with
    | zero => exact ⟨[], S.free, rfl⟩
    | succ j ih =>
      obtain ⟨l, m, e⟩ := ih (by omega)
      obtain ⟨p, hp, hl⟩ := ln j (by omega)
      obtain ⟨b, k, hb⟩ := hl m
      have hp' : ({ S with free := m } : State).translate ctx col (va + 64 * j) 2 1 = .ok p := hp
      refine ⟨b :: l, k, ?_⟩
      rw [List.range_succ, List.foldl_append, e]
      simp only [List.foldl_cons, List.foldl_nil, devLine, hp', hb, List.replicate_succ]
  obtain ⟨l, m, e⟩ := run (n + 1) (Nat.le_refl _)
  have r : S.devRead ctx col va (64 * (n + 1)) = (.ok (l.reverse.flatten.take (64 * (n + 1)), List.replicate (n + 1) q), { S with free := m }) := by
    rw [State.devRead, pg, show (64 * (n + 1) + 63) / 64 = n + 1 by omega]
    simp only [e, List.reverse_replicate]
  exact ⟨_, _, _, r, good, by cases q <;> simp⟩

/-- A vector whose rows have landed and whose audit is overdue, and one whose rows have not landed; the shadow copies are at 0. -/
noncomputable def auditing (landed : Nat) (f : State → State) : State :=
  xat (fun c => { c with started := some (0, 0), landed := landed, audits := [0] })
    (f ∘ maps 4 0 ∘ tile0 fun T => { T with arrays := [(0, { XArray.fresh with depth := 0 })] })
noncomputable def clean : State := auditing 1 fun s => { s with tc := 16384 }
/-- All of the page is quarantined. -/
noncomputable def quarantined : State := auditing 0 (col0 fun C => { C with entries := C.entries.map fun p => (p.1, entSet p.2 28 2 2) })

theorem clean_reads : ∃ img ps v, clean.xbrRead 0 0 32768 = (.ok (img, ps), v) ∧ v.bad = none ∧ ps.contains true = false := by
  refine read_by (n := 511) (by decide +kernel) (fun i hi => ⟨⟨0, 64 * i, 0, 0, 0, 0, false⟩, ?_, fun k => ?_⟩) rfl
  · have all : ∀ i, i < 512 → clean.translate 0 0 (0 + 64 * i) 2 1 = .ok ⟨0, 64 * i, 0, 0, 0, 0, false⟩ := by decide +kernel
    exact all i hi
  · have far : 64 * i < hbmSize := Nat.lt_of_lt_of_le (Nat.mul_lt_mul_of_pos_left hi (by decide)) (by decide)
    have lines (j : Nat) : (({ clean with free := j } : State).col 0).lines = [] := rfl
    have ways : ({ clean with free := k + 1 } : State).cacheWays 0 0 = 0 := rfl
    have d : ({ clean with free := k } : State).colDisabled 0 = false := open_by rfl rfl rfl
    have good : ({ clean with free := k + 1 } : State).bad = none := rfl
    have sound (pa : Nat) : (({ clean with free := k + 1 } : State).hbmLine pa (0 + 64 * i) 0).2 = false := by
      simp [State.hbmLine, show clean.sectors = [] from rfl, show clean.badPages = [] from rfl, setHas]
    refine ⟨(({ clean with free := k + 1 } : State).hbmLine (64 * i) (0 + 64 * i) 0).1, k + 1, ?_⟩
    have e : ({ clean with free := k } : State).mayEvict 0 = { clean with free := k + 1 } := by
      have l : (({ clean with free := k + 1 } : State).col 0).lines = [] := rfl
      simp [State.mayEvict, takeFree, l]
    have y : ({ clean with free := k + 1 } : State).beyond (64 * i) = { clean with free := k + 1 } := by
      rw [State.beyond, if_pos (.inl far)]
    have n : ({ clean with free := k + 1 } : State).line? 0 (64 * i) = none := rfl
    simp only [State.bsLine, d, e, y, n, Bool.false_eq_true, if_false]
    rw [if_pos (show ({ clean with free := k + 1 } : State).cacheWays (clean.tile 0).ctx 0 = 0 from rfl)]
    exact congrArg (fun q => ((_, q), _)) (sound _)

theorem quarantined_reads : ∃ img ps v, quarantined.xbrRead 0 0 32768 = (.ok (img, ps), v) ∧ v.bad = none ∧ ps.contains true = true := by
  refine read_by (n := 511) (by decide +kernel) (fun i hi => ⟨⟨0, 64 * i, 0, 0, 0, 0, true⟩, ?_, fun k => ⟨List.replicate 64 0, k, ?_⟩⟩) rfl
  · have all : ∀ i, i < 512 → quarantined.translate 0 0 (0 + 64 * i) 2 1 = .ok ⟨0, 64 * i, 0, 0, 0, 0, true⟩ := by decide +kernel
    exact all i hi
  · have d : ({ quarantined with free := k } : State).colDisabled 0 = false := open_by rfl rfl rfl
    simp only [State.bsLine, d, Bool.false_eq_true, if_false, if_true]

theorem hidden_by {r : Except (Nat × Nat) (List (Nat × List Nat × Bool) × List (BfReq × Nat))}
    (h : (match r with | .ok x => x.2.isEmpty | .error _ => false) = true) : ∃ ins, r = .ok (ins, []) := by
  obtain _ | ⟨ins, _ | _⟩ := r
  · cases h
  · exact ⟨ins, rfl⟩
  · cases h

def alive (s : State) : State := ctx0 (fun x => { x with rec' := [1], grant := 3 }) s
/-- A batch of one request at layer 0, with the fields of `f`. -/
def batch0 (f : Batch → Batch) : Batch := f ⟨[5], 0, 0, [0], [0], [], 0, 0, [], 0, [], [], [], [], [], false, none, []⟩
def layered : BfReq := { bfreq with next := 0, g := 0 }
noncomputable def layering (f : Batch → Batch) : State := alive (tileWith (maps 4 0 ∘ col0 fun C => { C with
  bfCtx := [(0, { BfCtx.empty with table := table2 })], bfQueue := [layered], batch := some (batch0 f) }))
noncomputable def orphaned : State := tileWith (col0 fun C => { C with bfQueue := [layered], batch := some (batch0 id) })
def filled (b : Batch) : Batch := { b with outs := [(5, [], [])], vals := [(0, [0])], addr := some (4096, false) }
def filling2 (b : Batch) : Batch := { filled b with todo := [0] }

/-- A unit of CPYX queued at unit 7, which is under the test `test`. -/
def run1 : CRun := ⟨0, 7, [], [], none, 0, none⟩
noncomputable def queuedRun (test : Option (Nat × Nat)) : State :=
  cat (fun c => { c with op := 5, img := List.replicate 56 0 ++ [5], units := 1, runs := [run1], prog := some [0x72E00000] })
    fun s => s.setNmu 7 { Nmu.idle with queue := [(0, 9, 0)], test := test }

/-- Queues of tile 0 from engines 4 and 5 to the control core, full. -/
noncomputable def fullQueue : State → State := tile0 fun T => { T with tq := [(32, ⟨63, .clean⟩), (40, ⟨63, .clean⟩)] }

theorem witness_UnitsTakeTheirTurns :
    (∃ (s : State) (c : XCmd), ∃ cause a, s.bad = none ∧ FM.find? (s.tile 0).xcmds 9 = some c ∧ (s.tile 0).startRoutes c = .error (cause, a)) ∧
    (∃ (s : State) (c : XCmd), ∃ rs, s.bad = none ∧ FM.find? (s.tile 0).xcmds 9 = some c ∧ (s.tile 0).startRoutes c = .ok rs ∧ 1 < c.slots) ∧
    (∃ (s : State) (c : XCmd), ∃ st, s.bad = none ∧ FM.find? (s.tile 0).xcmds 9 = some c ∧ c.started = some st ∧ c.vs.length ≤ c.landed ∧ c.audits = [] ∧
      c.held = none ∧ s.signalLater 0 4 c.sig c.pois = none) ∧
    (∃ (s : State) (c : XCmd), ∃ st, s.bad = none ∧ FM.find? (s.tile 0).xcmds 9 = some c ∧ c.started = some st ∧ c.landed + 1 < c.vs.length) ∧
    (∃ (s : State) (c : XCmd), s.bad = none ∧ FM.find? (s.tile 0).xcmds 9 = some c ∧ c.audits = [0] ∧ (s.tile 0).auditOverdue s.tc = some 9 ∧
      ∃ img ps v, s.xbrRead 0 (((s.arrayOf 0 c 0).image).getD 0) (256 * depthRows (s.arrayOf 0 c 0).depth) = (.ok (img, ps), v) ∧ v.bad = none ∧
        ps.contains true = false) ∧
    (∃ (s : State) (c : XCmd), s.bad = none ∧ FM.find? (s.tile 0).xcmds 9 = some c ∧ c.audits = [0] ∧ c.landed < c.vs.length ∧
      ∃ img ps v, s.xbrRead 0 (((s.arrayOf 0 c 0).image).getD 0) (256 * depthRows (s.arrayOf 0 c 0).depth) = (.ok (img, ps), v) ∧ v.bad = none ∧
        ps.contains true = true) ∧
    (∀ op row fit, (calAt (calw op row fit)).bad = none ∧ FM.find? ((calAt (calw op row fit)).tile 0).xcmds 9 = none ∧
      FM.find? ((calAt (calw op row fit)).tile 0).xcal 9 = some (calw op row fit) ∧ ((calAt (calw op row fit)).col (tileCol 0)).holders = []) ∧
    (∃ s : State, s.bad = none ∧ (s.tile 0).xcal = [] ∧ (s.array 0 159).base = none) ∧
    (∃ s : State, s.bad = none ∧ (s.tile 0).xcal = [] ∧ (s.array 0 159).base ≠ none) ∧
    (∀ f, (cat f id).bad = none ∧ FM.find? ((cat f id).tile 0).ccmds 9 = some (ccmd0 f)) ∧
    ((cat id id).signalLater 0 5 0 none = none ∧ (cat id fullQueue).signalLater 0 5 32 none = some 0) ∧
    (xat id fullQueue).signalLater 0 4 32 none = some 0 ∧
    ((ccmd0 id).out = none ∧ ((cat id id).tile 0).bfBlocked (ccmd0 id) = false) ∧
    (∃ (s : State) (c : CCmd), ∃ e ∈ (s.tile 0).ccmds, s.bad = none ∧ FM.find? (s.tile 0).ccmds 9 = some c ∧ c.phase = 0 ∧ c.op = 7 ∧ e.2.seq ∈ c.wait) ∧
    (∃ (s : State) (c : CCmd), s.bad = none ∧ FM.find? (s.tile 0).ccmds 9 = some c ∧ c.phase = 0 ∧ c.op = 0xC ∧
      ∀ e ∈ (s.tile 0).ccmds, e.2.seq ∉ c.wait) ∧
    (∃ (s : State) (c : CCmd) (r : CRun), s.bad = none ∧ FM.find? (s.tile 0).ccmds 9 = some c ∧ c.phase = 0 ∧ c.op = 5 ∧ c.out = none ∧
      (s.tile 0).bfBlocked c = false ∧ c.unit < c.units ∧ c.runs = [r] ∧ r.fail = some (0x51, 4096, false)) ∧
    (∃ (s : State) (c : CCmd) (r : CRun) (p : List Nat), s.bad = none ∧ (s.nmu 7).queue = [(0, 9, 0)] ∧ FM.find? (s.tile 0).ccmds 9 = some c ∧
      c.runs.find? (fun r => r.unit == 0 && r.fail.isNone) = some r ∧ (s.nmu 7).test = none ∧ (s.nmu 7).run = none ∧ r.out = none ∧
      (s.nmu 7).fenced = false ∧ capSpace (c.cap 0).v ≠ 3 ∧ s.boundProg 0 c = some p ∧ (s.runInputs 0 c r).2.2.bad = none ∧ c.out = none) ∧
    (∃ (s : State) (c : CCmd), s.bad = none ∧ (s.nmu 7).queue = [(0, 9, 0)] ∧ FM.find? (s.tile 0).ccmds 9 = some c ∧
      (c.runs.find? (fun r => r.unit == 0 && r.fail.isNone)).isSome = true ∧ (s.nmu 7).test ≠ none) ∧
    (∀ n e, let f (b : Batch) : Batch := { b with slots := n, endAt := e }
      (layering f).bad = none ∧ ((layering f).col 0).batch = some (batch0 f) ∧ (layering f).batchCtx 0 (batch0 f) = some 0 ∧
      ((layering f).context 0).rec' ≠ []) ∧
    (let s := orphaned
     s.bad = none ∧ (s.col 0).batch = some (batch0 id) ∧ s.batchCtx 0 (batch0 id) = some 0 ∧ (s.context 0).rec' = []) ∧
    (let s := layering filled
     let b := batch0 filled
     ∃ q o a, b.slots = 0 ∧ b.endAt ≤ s.tc ∧ b.vals ≠ [] ∧ b.audits = [] ∧ b.members = [5] ∧ q.enq = 5 ∧ q.g = b.layer ∧
      (s.col 0).bfQueue.find? (fun r => r.enq == q.enq) = some q ∧ b.outs.find? (fun r => r.1 == q.enq) = some o ∧ b.addr = some a ∧ b.todo = [] ∧
      s.translateRange q.ctx 0 (q.mapAt ((s.col 0).bf q.ctx) b.layer + q.t / 4) 1 2 3 = none ∧
      (s.code q.ctx 0 (q.mapAt ((s.col 0).bf q.ctx) b.layer) q.t).1 = some (1, false) ∧
      ((s.code q.ctx 0 (q.mapAt ((s.col 0).bf q.ctx) b.layer) q.t).2.setCode q.ctx 0 (q.mapAt ((s.col 0).bf q.ctx) b.layer) q.t 2).bad =
        none) ∧
    (let s := layering filling2
     ∃ a, (batch0 filling2).todo ≠ [] ∧ (batch0 filling2).addr = some a ∧ s.translateRange 0 0 a.1 (((s.col 0).bf 0).f 2 2) 2 2 = none) ∧
    ∃ as rs, filling.bad = none ∧ (filling.col 0).batch = none ∧ (filling.col 0).nextBatch = [bfreq] ∧
      as = ((filling.col 0).bf 0).arrays 1 256 ∧ as = [0, 1] ∧ filling.layerBad 0 0 256 ((filling.col 0).bf 0) as = none ∧
      (∀ a ∈ as, (filling.tile 0).arrayBusy filling.tc a = false ∧ (filling.tile 0).arrayAwaited filling.nextId a = false) ∧
      (filling.col 0).holders = [] ∧ routesOf (filling.tile 0) (((filling.col 0).bf 0).entry 1 3 1) as = .ok rs ∧
      ∃ ins, filling.hidden 0 (512 * ((filling.col 0).bf 0).f 1 1) [bfreq] = .ok (ins, []) := by
  refine ⟨⟨xat (fun c => { c with route := 0 }) id, _, _, _, rfl, rfl, rfl⟩, ⟨xat (fun c => { c with slots := 2 }) id, _, _, rfl, rfl, rfl, by decide⟩,
    ⟨xat (fun c => { c with started := some (0, 0), landed := 1 }) id, _, _, rfl, rfl, rfl, by decide, rfl, rfl, rfl⟩,
    ⟨xat (fun c => { c with started := some (0, 0), vs := [0, 255] }) id, _, _, rfl, rfl, rfl, by decide⟩,
    ⟨clean, _, rfl, rfl, rfl, rfl, clean_reads⟩,
    ⟨quarantined, _, rfl, rfl, rfl, by decide, quarantined_reads⟩,
    fun _ _ _ => ⟨rfl, rfl, rfl, rfl⟩, ⟨tileWith id, rfl, rfl, rfl⟩,
    ⟨tileWith (tile0 fun T => { T with arrays := [(159, { XArray.fresh with base := some [0] })] }), rfl, rfl, by decide +kernel⟩,
    fun _ => ⟨rfl, rfl⟩, ⟨rfl, by decide +kernel⟩, by decide +kernel, ⟨rfl, rfl⟩,
    ⟨cat (fun c => { c with op := 7, wait := [1] }) id, _, _, List.mem_singleton.mpr rfl, rfl, rfl, rfl, rfl, List.mem_singleton.mpr rfl⟩,
    ⟨cat (fun c => { c with op := 0xC }) id, _, rfl, rfl, rfl, rfl, fun _ _ => List.not_mem_nil⟩,
    ⟨cat (fun c => { c with op := 5, units := 1, runs := [{ run1 with fail := some (0x51, 4096, false) }] }) id, _, _, rfl, rfl, rfl, rfl, rfl, rfl,
      by decide, rfl, rfl⟩,
    ⟨queuedRun none, _, _, _, rfl, rfl, rfl, rfl, rfl, rfl, rfl, rfl, by decide +kernel, rfl, by decide +kernel, rfl⟩,
    ⟨queuedRun (some (0, 9)), _, rfl, rfl, rfl, rfl, nofun⟩, fun _ _ => ⟨rfl, rfl, rfl, nofun⟩, ⟨rfl, rfl, rfl, rfl⟩,
    ⟨layered, _, _, rfl, by decide, nofun, rfl, rfl, rfl, rfl, rfl, rfl, rfl, rfl, ?_, ?_, ?_⟩, ⟨_, nofun, rfl, ?_⟩,
    [0, 1], _, rfl, rfl, rfl, ?_, rfl, ?_, ?_, rfl, rfl, hidden_by ?_⟩ <;> decide +kernel

/-- A column whose wires are as `f` says. -/
noncomputable def colWith (f : Col → Col) : State := tileWith (col0 f)

/-- Window 3 keeps one command. -/
def window3 : Window := ⟨3, 0, 4, [], 0, false, [⟨[], 5, false⟩], [], 0, 0⟩

/-- Unit `n` of tile 0 is under a test, and has one transient verdict. -/
noncomputable def testing (n : Nat) (x : Nat × Nat × Nat) : State :=
  tileWith (tile0 fun T => { T with testing := [(n, x)], verdicts := [(n, [0])], window := some window3 })
theorem find_one {α : Type} (k : Nat) (v : α) : FM.find? [(k, v)] k = some v := by simp [FM.find?]

theorem one_recent (n : Nat) (x : Nat × Nat × Nat) :
    ((FM.get [] ((testing n x).tile 0).verdicts n).filter fun v => decide ((testing n x).tc < v + 2 ^ 30)).length < 2 := by
  rw [show FM.get [] ((testing n x).tile 0).verdicts n = [0] by
    rw [show ((testing n x).tile 0).verdicts = [(n, [0])] from rfl]; simp [FM.get]]
  exact Nat.lt_of_le_of_lt (List.length_filter_le _ _) (by decide)

/-- 512 poisoned sectors of stack 0. -/
noncomputable def fullOf : State := { State.reset with sectors := List.range 512 }

theorem witness_ErrorsAndRepair :
    (let s := flying (.sreg 0 3 31 RegV.zero 0) id
     s.bad = none ∧ s.tileRuns 0 = true ∧ s.pendingS 0 ≠ [] ∧ ∀ n, FM.find? (s.tile 0).testing n = none) ∧
    (∀ n x, (testing n x).bad = none ∧ (testing n x).tileRuns 0 = true ∧ FM.find? ((testing n x).tile 0).testing n = some x ∧
      ((FM.get [] ((testing n x).tile 0).verdicts n).filter fun v => decide ((testing n x).tc < v + 2 ^ 30)).length < 2 ∧
      ((testing n x).tile 0).state ≠ .fenced ∧ ((testing n x).tile 0).window = some window3 ∧ window3.replays < 2 ∧
      ((testing n x).tile 0).mcmd = none ∧ (((testing n x).tile 0).engine 2).stop = false ∧
      (testing n x).colDisabled (tileCol 0) = false ∧ ∀ l ∈ (testing n x).launches, l.cw = none) ∧
    (∃ s : State, s.bad = none ∧ (s.nmu 255).test = some (175, 9) ∧
      ((s.nmu 255).verdicts.filter fun v => decide (s.tc < v + 2 ^ 30)).length < 2) ∧
    (State.reset.bad = none ∧ (19 : Nat) < 20 ∧ (127 : Nat) % 32 ≠ 0) ∧
    (fullOf.bad = none ∧ (2 ^ 39 - 1 < 2 ^ 39) ∧ setHas fullOf.badPages ((2 ^ 39 - 1) / 4096) = false ∧ setHas fullOf.sectors (16352 / 32) = true ∧
      setHas fullOf.sectors (16384 / 32) = false ∧
      512 ≤ (fullOf.sectors.filter fun k => k * 32 / 2 ^ 17 % 8 == 16384 / 32 * 32 / 2 ^ 17 % 8).length ∧
      (fullOf.sectors.filter fun k => k * 32 / 2 ^ 17 % 8 == (2 ^ 39 - 1) / 32 * 32 / 2 ^ 17 % 8).length < 512) ∧
    (∃ s : State, ∃ r b rs, s.bad = none ∧ s.sys.fqWait = (r, b) :: rs ∧ r.ty = 4 ∧ s.sys.fqSpace = true) ∧
    (∃ s : State, ∃ r b rs, s.bad = none ∧ s.sys.fqWait = (r, b) :: rs ∧ r.ty = 8 ∧ s.sys.fqSpace = true) ∧
    (∃ s : State, ∃ r b rs, s.bad = none ∧ s.sys.fqWait = (r, b) :: rs ∧ s.sys.fqSpace = false) ∧
    (∃ s : State, s.bad = none ∧ 8 = FM.get 0 (s.col 15).retries 3 + 1 ∧
      ((FM.get [] (s.col 15).wireFails (68 * 63 + 67)).filter fun x => decide (s.tc < x + 1572864)).length + 1 = 16) ∧
    (∃ (s : State) (f : Flight) (a : Access), s.bad = none ∧ 9 = FM.get 0 (s.col 0).retries 0 + 1 ∧ s.flight? 0 = some f ∧ f.id = 0 ∧
      f.fl = .access a ∧ a.stage = 1 ∧ tileCol a.t = 0) ∧
    (let s := colWith fun C => { C with failedWires := [(63, 63)], heldState := true }
     s.bad = none ∧ s.colDisabled 0 = false ∧ (s.col 0).failedWires = [(63, 63)] ∧ FM.get 0 (s.col 0).crep 63 = 0 ∧
      FM.get 0 (s.col 0).badWires 63 = 0 ∧ (s.col 0).retained = false ∧ (s.col 0).heldState = true ∧ (s.col 0).failedWires ≠ []) ∧
    (let s := colWith fun C => { C with retained := true }
     (s.col 0).retained = true ∧ (∀ e ∈ s.sys.repairLog, e.1 ≠ 0) ∧ (s.col 0).heldState = false ∧ (s.col 0).failedWires = []) ∧
    let s := colWith fun C => { C with spareRows := [(15, 64), (1, 63)], spareCols := [(15, 8), (1, 7)] }
    s.colDisabled 0 = false ∧ 64 ≤ FM.get 0 (s.col 0).spareRows 15 ∧ FM.get 0 (s.col 0).spareRows 1 < 64 ∧ 8 ≤ FM.get 0 (s.col 0).spareCols 15 ∧
      FM.get 0 (s.col 0).spareCols 1 < 8 := by
  refine ⟨⟨rfl, rfl, ?_, fun _ => rfl⟩, fun n x => ⟨rfl, rfl, find_one _ _, one_recent _ _, ne_by (a := .running) rfl nofun, rfl, by decide, rfl, rfl,
      open_by rfl rfl rfl, nofun⟩,
    ⟨State.reset.setNmu 255 { Nmu.idle with test := some (175, 9), verdicts := [0] }, rfl, rfl, ?_⟩, ⟨rfl, by decide, by decide⟩,
    ⟨rfl, ?_, rfl, ?_, ?_, ?_, ?_⟩,
    ⟨{ State.reset with sys := { Sys.fresh with fqSize := 64, fqTail := 63, fqWait := [(.of 4 0 0 0 0 0 0 0, false)] } }, _, _, _,
      rfl, rfl, rfl, rfl⟩,
    ⟨{ State.reset with sys := { Sys.fresh with fqSize := 64, fqTail := 63, fqWait := [(.of 8 0 0 0 0 0 0 0, false)] } }, _, _, _,
      rfl, rfl, rfl, rfl⟩,
    ⟨{ State.reset with sys := { Sys.fresh with fqSize := 64, fqTail := 64, fqWait := [(.of 1 0 0 0 0 0 0 0, true)] } }, _, _, _, rfl, rfl, rfl⟩,
    ⟨State.reset.updCol 15 fun C => { C with retries := [(3, 7)], wireFails := [(68 * 63 + 67, List.replicate 15 0)] }, rfl, rfl, ?_⟩,
    ⟨flying (.access { Access.blank 0 0xE 0 with stage := 1 }) (col0 fun C => { C with retries := [(0, 8)] }), _, _, rfl, rfl, rfl, rfl, rfl, rfl, rfl⟩,
    ⟨rfl, rfl, rfl, rfl, rfl, rfl, rfl, ?_⟩, ⟨rfl, nofun, rfl, rfl⟩, rfl, ?_, ?_, ?_, ?_⟩ <;> decide +kernel

/-- A shoot-down that awaits port 7. -/
def awaited : Flight := ⟨0, .dev, 5, .remote 0 0 ⟨1, 0, 0x14D⟩ [2 ^ 7, 0, 0]⟩
/-- A load of context 0 at 4096, not yet performed. -/
def loading : Fl := .access { Access.blank 0 7 0 with space := 2, keys := [(4096, 0)], size := 8 }

/-- Port 3 has failed; a page is mapped at 0. -/
noncomputable def failing3 : State := (maps 0 0 { State.reset with sys := { Sys.fresh with portFailed := [3] } })

theorem witness_ResetPowerAndLinks :
    State.reset.bad = none ∧ State.reset.sys.repairLog = [] ∧ State.reset.sys.bootErr ≠ 1 ∧ State.reset.sys.bootStage ≠ 5 ∧
    (∀ k, k < 6 → ∃ s : State, s.bad = none ∧ s.sys.powered = true ∧ s.dueInput = none ∧ s.turns = [.boot] ∧ s.sys.bootErr = 0 ∧
      s.sys.bootStage = k ∧ s.sys.repairLog = []) ∧
    (∃ s : State, s.bad = none ∧ s.sys.bootErr = 2) ∧ (∃ s : State, s.bad = none ∧ s.sys.bootStage = 5) ∧
    (∃ s : State, s.bad = none ∧ s.Canonical ∧ ([1, 2] : List Nat) ≠ [] ∧ (2 ^ 39 - 2) % 64 + 2 ≤ 64 ∧ setHas s.badPages ((2 ^ 39 - 2) / 4096) = false ∧
      ∀ c, c < 16 → ∀ l ∈ (s.col c).lines, l.key = (2 ^ 39 - 2) / 64 → l.dirty = false) ∧
    (∃ s : State, s.bad = none ∧ FM.get 0 s.sys.portErrs 0 + 1 < 8 ∧ 8 ≤ FM.get 0 s.sys.portErrs 7 + 1) ∧
    (∃ s : State, s.bad = none ∧ awaited ∈ s.flights ∧ s.flights.filter (fun g => g.awaitsPeer 7) = [awaited] ∧ awaited.due ≤ s.tc) ∧
    (∃ s : State, s.bad = none ∧ s.shootBusy 0 4096 1 = true ∧ s.shootBusy 0 4104 8 = false) ∧
    ∃ s : State, ∃ e va, s.bad = none ∧ 3 ∈ s.sys.portFailed ∧ 7 ∉ s.sys.portFailed ∧ s.entryAt 60 = some (e, va) ∧
      ([5].flatMap fun v => natLe (redSize 0) v) ≠ [] ∧ 60 % 64 + ([5].flatMap fun v => natLe (redSize 0) v).length ≤ 64 ∧
      setHas s.badPages (60 / 4096) = false ∧ (∀ l ∈ (s.col (entHome e)).lines, l.key = 60 / 64 → l.dirty = false) ∧
      (s.hbmLine 60 va (entKey e)).2 = false := by
  refine ⟨rfl, rfl, by decide, by decide,
    fun k _ => ⟨{ State.reset with turns := [.boot], sys := { Sys.fresh with bootStage := k } }, rfl, rfl, rfl, rfl, rfl, rfl, rfl⟩,
    ⟨{ State.reset with sys := { Sys.fresh with bootErr := 2 } }, rfl, rfl⟩,
    ⟨{ State.reset with sys := { Sys.fresh with bootStage := 5 } }, rfl, rfl⟩,
    ⟨State.reset, rfl, rfl, nofun, by decide, rfl, fun _ _ l h => absurd (show l ∈ ([] : List BLine) from h) List.not_mem_nil⟩,
    ⟨{ State.reset with sys := { Sys.fresh with portErrs := [(0, 6), (7, 7)] } }, rfl, by decide +kernel, by decide +kernel⟩,
    ⟨{ State.reset with flights := [awaited], tc := 5 }, rfl, List.mem_singleton.mpr rfl, rfl, by decide⟩,
    ⟨flying loading id, rfl, by decide +kernel, by decide +kernel⟩,
    failing3, entry 0 0 0, 60, rfl, by decide +kernel, by decide +kernel, ?_, ?_, ?_, ?_,
      fun l h => absurd (show l ∈ ([] : List BLine) from h) List.not_mem_nil, ?_⟩ <;> decide +kernel

/-- A nest node of one point that may run on any tile. -/
def node1 : Node := ⟨false, none, false, 0, 0, [], 0, 0, 2 ^ 27 - 1, [], []⟩
/-- An image of one CIM word, with nothing past its head. -/
def image1 : Image := ⟨List.replicate 4096 0, 1, [], [], 0⟩
def launch1 : Launch := ⟨0, 0, 0, 1, none, [⟨0, 0, false, 0, 0⟩], none⟩
/-- Context 0 with a sheaf of one node, whose launch is open. -/
noncomputable def launched (f : State → State) : State :=
  f (ctx0 (fun x => { x with rec' := [1], grant := 3, sheaves := [(0, ⟨[node1], [image1]⟩)] }) { State.reset with
    launches := [launch1], nextLaunch := 1, sys := { Sys.fresh with readyMp := true } })
/-- The submission ring holds `e`. -/
noncomputable def submits (e : List Nat) (s : State) : State :=
  { s with mem := memPut s.mem hostBase e, sys := { s.sys with sqSize := 64, sqTail := 1 } }
noncomputable def entered (s : State) : List Nat := s.bytes (hostBase + s.sys.sqBase + 64 * (s.sys.sqHead % s.sys.sqSize)) 64

theorem witness_LaunchesAndTasks :
    (∃ s : State, s.bad = none ∧ s.flight? 0 = some ⟨0, .dev, 0, .launch 0 0 0 (some 255) 5 false true⟩ ∧ (s.context 0).tearing = false) ∧
    (∃ s : State, s.bad = none ∧ s.flight? 0 = some ⟨0, .dev, 0, .launch 0 0 0 none 5 true false⟩ ∧ s.ctlDrained 0 0 0 = true ∧
      (s.context 0).tearing = true) ∧
    (∃ s : State, s.bad = none ∧ s.flight? 1 = some ⟨1, .dev, 0, .launch 0 0 0 none 5 true false⟩ ∧ s.ctlDrained 0 0 1 = false) ∧
    (∃ s : State, s.bad = none ∧ s.sys.sqSize ≠ 0 ∧ s.sys.sqHead ≠ s.sys.sqTail ∧ entered s = 0 :: 1 :: 255 :: List.replicate 61 0 ∧
      (s.context 0).rec' ≠ [] ∧ (s.context 0).tearing = false ∧ (FM.find? (s.context 0).sheaves 0).isSome = true ∧
      (s.launches.filter fun l => l.ctx == 0).length < 64) ∧
    (∃ s : State, s.bad = none ∧ s.sys.sqSize ≠ 0 ∧ s.sys.sqHead ≠ s.sys.sqTail ∧ entered s = List.replicate 64 0 ∧
      (s.context 0).rec' ≠ [] ∧ (s.context 0).tearing = false ∧ (FM.find? (s.context 0).sheaves 0).isSome = true ∧
      64 ≤ (s.launches.filter fun l => l.ctx == 0).length) ∧
    (∃ s : State, s.bad = none ∧ s.sys.sqSize ≠ 0 ∧ s.sys.sqHead ≠ s.sys.sqTail ∧ entered s = 16 :: List.replicate 63 0) ∧
    (∃ s : State, s.bad = none ∧ s.sys.sqSize ≠ 0 ∧ s.sys.sqHead ≠ s.sys.sqTail ∧ entered s = List.replicate 64 0 ∧ (s.context 0).tearing = true) ∧
    (State.reset.saved = [] ∧ (∀ t, t < 176 → (State.reset.tile t).evict = false) ∧ State.reset.bestCand = none ∧ State.reset.urgent = none) ∧
    (∃ (s : State) (c : Cand), s.bad = none ∧ s.saved = [] ∧ (∀ t, t < 176 → (s.tile t).evict = false) ∧ s.bestCand = some c ∧ c.tasks = [(0, 0)] ∧
      c.tiles = [0] ∧ ((s.sheafOf launch1).node 0).gang = none ∧ s.cand? launch1 0 = some c ∧ s.launches = [launch1] ∧ launch1.id = 0) ∧
    (∃ s : State, ∃ l i, s.bad = none ∧ s.flight? 0 = some ⟨0, .dev, 0, .bind 0 0 0 0 false⟩ ∧ s.launch? 0 = some l ∧
      (s.sheafOf l).images[((s.sheafOf l).node 0).image]? = some i ∧ s.codeFault l.ctx 0 i = none) ∧
    (∃ s : State, ∃ l i, s.bad = none ∧ s.flight? 0 = some ⟨0, .dev, 0, .bind 0 0 0 0 false⟩ ∧ s.launch? 0 = some l ∧
      (s.sheafOf l).images[((s.sheafOf l).node 0).image]? = some i ∧ (s.tile 0).state = .fenced) ∧
    (∃ s : State, ∃ l i, s.bad = none ∧ s.flight? 0 = some ⟨0, .dev, 0, .bind 0 0 0 0 false⟩ ∧ s.launch? 0 = some l ∧
      (s.sheafOf l).images[((s.sheafOf l).node 0).image]? = some i ∧ s.codeFault l.ctx 0 i = none ∧ (s.tile 0).evict = true ∧
      (s.tile 0).state ≠ .fenced ∧ s.colDisabled (tileCol 0) = false) ∧
    (∃ s : State, ∃ l i va, s.bad = none ∧ s.flight? 0 = some ⟨0, .dev, 0, .bind 0 0 0 0 false⟩ ∧ s.launch? 0 = some l ∧
      (s.sheafOf l).images[((s.sheafOf l).node 0).image]? = some i ∧ s.codeFault l.ctx 0 i = some (.fault 0x2B va)) ∧
    (∃ s : State, ∃ l i va, s.bad = none ∧ s.flight? 0 = some ⟨0, .dev, 0, .bind 0 0 0 0 false⟩ ∧ s.launch? 0 = some l ∧
      (s.sheafOf l).images[((s.sheafOf l).node 0).image]? = some i ∧ s.codeFault l.ctx 0 i = some (.fault 0x28 va) ∧ l.cw = none) ∧
    (∃ s : State, ∃ l i e va, s.bad = none ∧ s.flight? 0 = some ⟨0, .dev, 0, .bind 0 0 0 0 false⟩ ∧ s.launch? 0 = some l ∧
      (s.sheafOf l).images[((s.sheafOf l).node 0).image]? = some i ∧ s.codeFault l.ctx 0 i = some (.held e va)) ∧
    (∃ s : State, ∃ i rest, s.bad = none ∧ (s.tile 0).incoming = i :: rest ∧ cimBase 0 ≤ i.addr ∧ i.va % 64 = 0 ∧ i.len = 64 ∧
      (s.codeLine i.pa i.va i.mkey).2 = false) ∧
    (∃ s : State, s.bad = none ∧ (s.tile 0).incoming = [] ∧ s.doneReady 0 = false) ∧
    ∀ sig, ∃ s : State, s.bad = none ∧ s.doneReady 0 = true ∧ (s.tile 0).endSig = sig ∧ s.launches = [launch1] ∧ launch1.id = (s.tile 0).launch := by
  refine ⟨⟨flying (.launch 0 0 0 (some 255) 5 false true) id, rfl, rfl, rfl⟩,
    ⟨flying (.launch 0 0 0 none 5 true false) (ctx0 fun x => { x with tearing := true }), rfl, rfl, rfl, rfl⟩,
    ⟨{ tileWith id with flights := [⟨0, .dev, 9, .semset 0 0 1 1⟩, ⟨1, .dev, 0, .launch 0 0 0 none 5 true false⟩] }, rfl, rfl, ?_⟩,
    ⟨launched (submits [0, 1, 255]), rfl, ?_, ?_, ?_, ?_, rfl, rfl, ?_⟩,
    ⟨launched (submits [] ∘ fun s => { s with launches := List.replicate 64 launch1 }), rfl, ?_, ?_, ?_, ?_, rfl, rfl, ?_⟩,
    ⟨submits [16] State.reset, rfl, ?_, ?_, ?_⟩,
    ⟨submits [] (ctx0 (fun x => { x with tearing := true }) State.reset), rfl, ?_, ?_, ?_, rfl⟩,
    ⟨rfl, fun t _ => rfl, rfl, rfl⟩,
    ⟨launched id, _, rfl, rfl, fun t _ => rfl, rfl, rfl, rfl, rfl, rfl, rfl, rfl⟩,
    ⟨launched (maps 0 0 ∘ fun s => { s with flights := [⟨0, .dev, 0, .bind 0 0 0 0 false⟩] }), _, _, rfl, rfl, rfl, rfl, rfl⟩,
    ⟨launched (tile0 (fun T => { T with state := .fenced }) ∘ fun s => { s with flights := [⟨0, .dev, 0, .bind 0 0 0 0 false⟩] }), _, _, rfl, rfl, rfl, rfl, rfl⟩,
    ⟨launched (maps 0 0 ∘ tile0 (fun T => { T with evict := true }) ∘ fun s => { s with flights := [⟨0, .dev, 0, .bind 0 0 0 0 false⟩] }), _, _, rfl, rfl, rfl, rfl, rfl, rfl, ne_by (a := .running) rfl nofun,
      open_by rfl rfl rfl⟩,
    ⟨launched (maps 0 2 ∘ fun s => { s with flights := [⟨0, .dev, 0, .bind 0 0 0 0 false⟩] }), _, _, _, rfl, rfl, rfl, rfl, rfl⟩,
    ⟨launched fun s => { s with flights := [⟨0, .dev, 0, .bind 0 0 0 0 false⟩] }, _, _, _, rfl, rfl, rfl, rfl, rfl, rfl⟩,
    ⟨launched (maps 0 1 ∘ fun s => { s with flights := [⟨0, .dev, 0, .bind 0 0 0 0 false⟩] }), _, _, _, _, rfl, rfl, rfl, rfl, rfl⟩,
    ⟨tileWith (tile0 fun T => { T with incoming := [⟨cimBase 0 + 4096, 4096, 4096, 0, 64⟩] }), _, _, rfl, rfl, ?_, rfl, rfl, rfl⟩,
    ⟨tileWith id, rfl, rfl, rfl⟩,
    fun sig => ⟨{ tileWith (tile0 fun T => { T with endSig := sig, ctxs := [(0, { CtlCtx.dormant with run := .inDone })] }) with launches := [launch1] },
      rfl, rfl, rfl, rfl, rfl⟩⟩ <;> decide +kernel

/-- A request is posted in the mailbox; key slot 0 is loaded. -/
noncomputable def posted (op len : Nat) (body : FM Nat) (f : State → State) : State :=
  f { State.reset with sys := { Sys.fresh with keys := [(0, 5)], mbox := [(0, op), (2, len % 256), (3, len / 256), (12, 1)] ++ body.map fun p => (16 + p.1, p.2) } }
/-- An object of 64 bytes at host address 0: a header and one variant that every device matches, without sections. -/
noncomputable def object (mask : Nat) (s : State) : State :=
  { s with mem := memPut s.mem hostBase (natLe 4 0x4B564C44 ++ [1, 0, 0, 0, 1, 0, 0, 0, 0, 0, 0, 0] ++ natLe 8 32 ++ natLe 8 64 ++
    natLe 8 mask ++ natLe 8 0 ++ natLe 8 64 ++ natLe 8 0) }
/-- Accesses of context 0 at page 0 are held in column 0, the first with record 3. -/
noncomputable def holding : State :=
  tileWith (maps 0 1 ∘ col0 fun C => { C with held := [⟨.ctl 0 0, 0, 0, 0, 0, 0, 0, some 3⟩, ⟨.ctl 0 1, 0, 0, 0, 0, 0, 0, none⟩], replayed := 2 })

/-- Context 0 has two entries in column 0 and a table image at 0: its second entry is invalid where the page is quarantined (`q`), and else
what the empty memory deciphers to. -/
noncomputable def tabled (q : Bool) : State :=
  tileWith (col0 (fun C => { C with images := [(0, 0)], entries := if q then C.entries.map fun p => (p.1, entSet p.2 28 2 2) else C.entries }) ∘ maps 4 0 ∘
    ctx0 fun x => { x with parts := [(0, (0, 2))], keyGrant := 1 })
theorem tabled_part (q : Bool) : 1 < (((tabled q).context 0).part 0).2 := by cases q <;> decide +kernel
theorem tabled_reads (q : Bool) : ∃ bs p r, (tabled q).devGet 0 0 (0 / 4096 + 16 * (1 - 0 % 4096)) 16 = (some (bs, p), r) ∧ r.bad = none ∧
    (r.col 0).rfErr = false ∧ (r.badEntry 0 0 1 [bvOfBytes 128 bs]).isSome = !q := by
  cases q <;> exact ⟨_, _, _, rfl, rfl, rfl, by decide +kernel⟩

theorem witness_HostInterface :
    (∃ s : State, s.bad = none ∧ s.sys.bootErr = 0 ∧ s.sys.sqSize ≠ 0 ∧ s.sys.fqSize ≠ 0 ∧ s.sys.readyHost = false ∧ FM.get 0 s.sys.mbox 12 = 0) ∧
    ((∃ k, k < 11 ∧ 65536 = 64 * 2 ^ k) ∧ ¬ (∃ k, k < 11 ∧ 131072 = 64 * 2 ^ k) ∧ (State.reset.sys.sqSize = 0)) ∧
    (holding.bad = none ∧ holding.sys.bootErr = 0 ∧ (1 < (holding.col 0).replayed) ∧ (holding.col 0).replayed ≤ 2 ∧ (holding.col 0).rfBusy = false ∧
      FM.find? (holding.col 0).images 0 = none) ∧
    (∃ s : State, s.bad = none ∧ s.sys.bootErr = 0 ∧ (s.col 15).rfBusy = true) ∧
    (∀ q, let s := tabled q
      s.bad = none ∧ s.sys.bootErr = 0 ∧ (s.col 0).rfBusy = false ∧ FM.find? (s.col 0).images 0 = some 0 ∧ 0 % 4096 ≤ 1 ∧ 1 < ((s.context 0).part 0).2 ∧
      ∃ bs p r, s.devGet 0 0 (0 / 4096 + 16 * (1 - 0 % 4096)) 16 = (some (bs, p), r) ∧ r.bad = none ∧ (r.col 0).rfErr = false ∧
        (r.badEntry 0 0 1 [bvOfBytes 128 bs]).isSome = !q) ∧
    (∀ op len, (posted op len [] id).bad = none ∧ (posted op len [] id).sys.bootErr = 0 ∧ FM.get 0 (posted op len [] id).sys.mbox 12 ≠ 0) ∧
    (∀ op < 8, (posted op 4 [(0, 3)] id).sys.mboxOp = op ∧ (posted op 4 [(0, 3)] id).sys.body 0 = 3 ∧ (posted op 1008 [] id).sys.mboxLen = 1008) ∧
    (let s := posted 1 148 [(8, 3), (81, 16)] id
     s.recordOk s.sys = true ∧ s.sys.mboxLen = 148 ∧ s.sys.bodyZero 144 4 = true ∧
      ∀ c, c < 16 → s.sys.bodyNat (80 + 2 * c) 2 ≤ 4096 ∧ s.freePart c (s.sys.bodyNat (80 + 2 * c) 2) = some 0) ∧
    (let s := posted 1 148 [(0, 16)] id
     s.recordOk s.sys = false) ∧
    (let s := posted 2 4 [] alive
     s.sys.bodyZero 1 3 = true ∧ s.live 0 = true ∧ (s.tearDown 0 1 0 0 0 0).bad = none ∧ s.live 15 = false) ∧
    (let s := posted 4 4 [] (maps 0 0)
     s.sys.bodyZero 1 3 = true ∧ s.keyNamed 0 = true ∧ s.keyNamed 255 = false) ∧
    (let s := posted 3 176 [] (maps 0 0)
     s.sys.bodyZero 1 3 = true ∧ s.sys.bodyZero 101 3 = true ∧ s.keyNamed 0 = true) ∧
    (let s := posted 5 24 [(16, 64)] (object 0 ∘ alive)
     s.sys.bodyZero 1 7 = true ∧ s.live 0 = true ∧ s.objHeader 0 64 = true ∧ (∀ v ∈ s.objVariants 0, v.2.2.1 + v.2.2.2 ≤ 64) ∧
      (s.objVariants 0).find? (fun v => s.sys.defsig &&& v.1 == v.2.1) = some (0, 0, 64, 0) ∧ s.objSections 0 64 0 = [] ∧
      s.loadError 0 (s.loadSections 0 0 []) = 0 ∧ (s.loadSections 0 0 []).code = [] ∧ s.objHeader 0 63 = false) ∧
    (let s := posted 5 24 [(16, 64)] (object 1 ∘ alive)
     s.objHeader 0 64 = true ∧ (∀ v ∈ s.objVariants 0, v.2.2.1 + v.2.2.2 ≤ 64) ∧ ∀ v ∈ s.objVariants 0, s.sys.defsig &&& v.1 ≠ v.2.1) ∧
    (let s := posted 7 64 [] alive
     s.sys.bodyZero 1 15 = true ∧ s.live 0 = true) ∧
    (let s := posted 6 24 [(0, 1), (12, 1), (17, 16)] alive
     s.sys.body 0 = 1 ∧ s.sys.bodyZero 2 6 = true ∧ s.sys.body 8 < 2 ∧ s.sys.bodyZero 9 3 = true ∧ s.sys.bodyNat 12 4 = 1 ∧
      s.sys.mboxLen = 16 + 8 * 1 ∧ s.live 0 = true ∧ (s.context 0).pool4.length + 1 ≤ 4096 ∧ s.sys.bodyNat 16 8 % 4096 = 0 ∧
      s.sys.bodyNat 16 8 + 4096 ≤ 2 ^ 39) ∧
    (let s := posted 6 16 [(0, 2)] (alive ∘ maps 0 0 ∘ fun s => { s with badPages := [0] })
     s.sys.body 0 = 2 ∧ s.sys.bodyZero 2 6 = true ∧ s.sys.mboxLen = 16 ∧ (0, entry 0 0 0) ∈ (s.col 0).entries ∧ entCtx (entry 0 0 0) = 0 ∧
      entHolds (entry 0 0 0) 0 = true ∧ (∀ c, c < 16 → ∀ p ∈ (s.col c).entries, s.shootBusy 0 (entVa p.2) (2 ^ entShift p.2) = false) ∧
      s.live 0 = true ∧ s.sys.bodyNat 8 8 % 4096 = 0 ∧ setHas s.badPages 0 = true) ∧
    (let s := posted 6 17 [(0, 3), (16, 15)] (alive ∘ maps 0 0)
     s.sys.bodyZero 2 6 = true ∧ s.sys.mboxLen = 17 ∧ ((s.context 0).columns.findSome? fun c => (s.lookup 0 c 0).map fun p => p.2) = some (entry 0 0 0) ∧
      s.live 0 = true ∧ entVa (entry 0 0 0) = 0 ∧ entKind (entry 0 0 0) = 0 ∧ entState (entry 0 0 0) = 0 ∧ s.colDisabled 15 = false ∧
      s.shootBusy 0 0 (2 ^ entShift (entry 0 0 0)) = false ∧ s.colDisabled (entHome (entry 0 0 0)) = false ∧ (s.col 0).lines = []) ∧
    let s := posted 6 17 [(0, 3), (16, 16)] alive
    ((s.context 0).columns.findSome? fun c => (s.lookup 0 c 0).map fun p => p.2) = none := by
  refine ⟨⟨{ State.reset with sys := { Sys.fresh with sqSize := 64, fqSize := 65536 } }, rfl, rfl, ?_, ?_, rfl, rfl⟩, ⟨⟨10, ?_, ?_⟩, ?_, rfl⟩,
    ⟨rfl, rfl, ?_, ?_, rfl, rfl⟩,
    ⟨tileWith fun s => s.updCol 15 fun C => { C with rfBusy := true }, rfl, rfl, rfl⟩, fun q => ⟨rfl, rfl, rfl, rfl, by decide, tabled_part q, tabled_reads q⟩,
    fun op len => ⟨rfl, rfl, ne_by (a := 1) rfl (by decide)⟩, ?_, ?_, ?_, ?_, ?_, ?_, ?_, ?_, ?_, ?_, ?_, ?_, ?_⟩
  · decide
  · decide
  · decide
  · decide
  · rintro ⟨k, hk, h⟩
    have all : ∀ k, k < 11 → 131072 ≠ 64 * 2 ^ k := by decide
    exact all k hk h
  all_goals decide +kernel

theorem witness_EngineIssueFrame :
    (∃ s u v : State, RingGoes s 0 3 .plain s ∧ exec (.mringSet .plain 0 0 0) s = .next u ∧ exec (.mgo .plain 0 1 2 3 4 5 6 7) s = .next v) ∧
    (∃ s u v w : State, RingGoes s 0 4 .plain s ∧ exec (.xcfg .plain 159 2 0 1 0) s = .next u ∧ exec (.xmvm .plain 0 0 0 0 0 0 0 0) s = .next v ∧
      exec (.xcal .plain 0) s = .next w) ∧
    ∃ s u v : State, RingGoes s 0 5 .plain s ∧ exec (.cpy .plain 0 0) s = .next u ∧ exec (.crec .plain 64) s = .next v :=
  ⟨⟨ringAt 3 id, _, _, goesR rfl rfl, rfl, rfl⟩, ⟨ringAt 4 id, _, _, _, goesR rfl rfl, rfl, rfl, rfl⟩, ringAt 5 id, _, _, goesR rfl rfl, rfl, rfl⟩

/-- An entry for four queued values: `n` of them allocated, the head filled. -/
def queued (q n : Nat) (s : State) : State :=
  tile0 (fun T => T.setQueue q ⟨(⟨0, some VVal.zero⟩ :: (List.range 3).map fun i => ⟨i + 1, none⟩).take n, n % 4⟩) s
/-- Rings 0 to 7 of the matrix engine have 63 slots at offset 0. -/
noncomputable def mtx (f : State → State) : State :=
  ringAt 3 (f ∘ tile0 fun T => { T with opr := (List.range 8).map fun k => (k, 63 * 2 ^ 8) })
def writing (fl : Fl) (s : State) : State := s.flyTile 0 9 fl

theorem witness_MatrixWords :
    (∃ s : State, RingGoes s 0 3 .plain s ∧ oprSlots ((s.tile 0).oprD 7) = 0 ∧ ((s.tile 0).queue 4).head? = none ∧
      ((s.tile 0).queue 1031).ents.length < 4 ∧ ((s.tile 0).queue 4).ents.length < 4 ∧
      s.accPendingM 0 true (accIdx 60) ((accIdx 60 : Int) + 4 - 1) = false) ∧
    (let s := mtx id
     RingGoes s 0 3 .plain s ∧ oprSlots ((s.tile 0).oprD 7) = 63 ∧ 0 * 2048 + oprSlots ((s.tile 0).oprD 7) * 2048 ≤ 0x80000 ∧
      0x80000 < 255 * 2048 + oprSlots ((s.tile 0).oprD 7) * 2048) ∧
    (let s := mtx (queued 1031 4)
     RingGoes s 0 3 .plain s ∧ ((s.tile 0).queue 1031).head? ≠ none ∧ ¬ ((s.tile 0).queue 1031).ents.length < 4) ∧
    let s := mtx (writing (.mstep 0 (accIdx 60 + 3) 65535 0 [] false 0))
    RingGoes s 0 3 .plain s ∧ s.accPendingM 0 true (accIdx 60) ((accIdx 60 : Int) + 4 - 1) = true := by
  refine ⟨⟨ringAt 3 id, goesR rfl rfl, rfl, rfl, ?_, ?_, rfl⟩, ⟨goesR rfl rfl, ?_, ?_, ?_⟩, ⟨goesR rfl rfl, ?_, ?_⟩, goesR rfl rfl, ?_⟩ <;>
    decide +kernel

theorem witness_MatrixCommandsStart :
    (let s := mtx id
     RingGoes s 0 3 .plain s ∧ oprSlots ((s.tile 0).oprD 0) ≠ 0 ∧ oprSlots ((s.tile 0).oprD 8) = 0 ∧ oprMode ((s.tile 0).oprD 0) = 0 ∧
      stepKind 0 2 false false = some (192, 1, 1, 4) ∧ stepKind 3 3 false false = some (384, 1, 1, 4) ∧ stepKind 4 7 false false = some (96, 1, 1, 8) ∧
      stepKind 0 3 false false = none ∧ stepKind 0 2 true true = none ∧ 33 % 32 ≠ 0 ∧ 48 % 16 = 0 ∧ 47 % 16 ≠ 0 ∧
      (∀ l, l < 6 → ∀ f, f < 8 → (FM.get 0 (s.tile 0).shadow (8 * l + f)).toNat = 0) ∧ tileRange (s.tile 0).shadow 63 = (63, 63) ∧
      s.accPendingIn 0 [63] = false) ∧
    (let s := mtx (tile0 fun T => { T with shadow := [(40, 4097)] })
     RingGoes s 0 3 .plain s ∧ 4096 < (FM.get 0 (s.tile 0).shadow (8 * 5 + 0)).toNat) ∧
    (let s := mtx (tile0 fun T => { T with shadow := [(0, 2), (3, 0x7F)] })
     RingGoes s 0 3 .plain s ∧ (tileRange (s.tile 0).shadow 0).1 < 0 ∧ tileRange (s.tile 0).shadow 63 = (62, 63) ∧
      tabTiles (s.tile 0).shadow 63 = [63, 62]) ∧
    let s := mtx (writing (.tile 0 63 false 0 TVal.zero 0))
    RingGoes s 0 3 .plain s ∧ s.accPendingIn 0 [63] = true := by
  refine ⟨⟨goesR rfl rfl, ?_, ?_, ?_, ?_, ?_, ?_, ?_, ?_, ?_, ?_, ?_, ?_, ?_, ?_⟩, ⟨goesR rfl rfl, ?_⟩, ⟨goesR rfl rfl, ?_, ?_, ?_⟩, goesR rfl rfl, ?_⟩ <;>
    decide +kernel

theorem witness_MatrixStepsAndWindows :
    (∃ (s : State) (m : MCmd), s.bad = none ∧ (s.tile 0).mcmd = some m ∧ m.step + 1 < m.steps ∧
      stepKind m.fa m.fb (decide (oprMode ((s.tile 0).oprD m.ra) ≠ 0)) (decide (oprMode ((s.tile 0).oprD m.rb) ≠ 0)) = some (192, 1, 1, 4)) ∧
    (∃ (s : State) (m : MCmd), s.bad = none ∧ (s.tile 0).mcmd = some m ∧ m.step + 1 = m.steps ∧
      stepKind m.fa m.fb (decide (oprMode ((s.tile 0).oprD m.ra) ≠ 0)) (decide (oprMode ((s.tile 0).oprD m.rb) ≠ 0)) = some (96, 1, 1, 8)) ∧
    (State.reset.tile 0).window = none ∧ ((mtx (tile0 fun T => { T with window := some window3 })).tile 0).window = some window3 ∧
    window3.kept[0]? = some ⟨[], 5, false⟩ ∧ window3.id = 3 ∧ (3 : Nat) ≠ 0 := by
  refine ⟨⟨mtx (tile0 fun T => { T with mcmd := some ⟨1, 0, 0, 0, 1, 0, 384, 0, 0, 0, 0, 0, 2, 0, 5, 0, 0, 0⟩ }), _, rfl, rfl, ?_, ?_⟩,
    ⟨mtx (tile0 fun T => { T with mcmd := some ⟨2, 4, 7, 0, 1, 63, 96, 0, 0, 0, 0, 0, 1, 0, 5, 0, 3, 0⟩ }), _, rfl, rfl, ?_, ?_⟩,
    rfl, rfl, rfl, rfl, ?_⟩ <;> decide +kernel

/-- Unit 7 is in a run whose position is `pc`. -/
def run0 (f : NmuRun → NmuRun) : NmuRun := f
  { tile := 0, slot := 0, unit := 0, prog := [0x72E00000], pc := 5, loop1 := none, loop2 := none, regs := [], src := [(1, true)], inPos := 0, aux := [],
    auxPos := 0, out := [], outLen := 64, param := 0, flags := 0, ended := false }
noncomputable def nmuAt (f : NmuRun → NmuRun) : State :=
  { tileWith (fun s => s.setNmu 7 { Nmu.idle with run := some (run0 f) }) with cur := .nmu 7 }

theorem witness_NearMemoryRegisterWords : NmuGoes (nmuAt id) 7 (run0 id) ∧ (4 : Nat) < 5 ∧ (3 : Nat) < 4 ∧ (1 : Nat) < 2 ∧ (15 : Nat) < 16 :=
  ⟨⟨rfl, rfl, rfl⟩, by decide, by decide, by decide, by decide⟩

theorem witness_NearMemoryStreamsAndLoops :
    NmuGoes (nmuAt id) 7 (run0 id) ∧ 0 < 1 ∧ ((run0 id).loop1 = none ∧ (run0 id).loop2 = none) ∧
    (∃ r : NmuRun, r = run0 (fun r => { r with loop2 := some (3, 5, 2) }) ∧ r.loop2 = some (3, 5, 2) ∧ 5 = r.pc ∧ 1 < 2) ∧
    (∃ r : NmuRun, r = run0 (fun r => { r with loop1 := some (3, 5, 2), loop2 := some (3, 4, 2) }) ∧ r.loop1 = some (3, 5, 2) ∧ 5 = r.pc ∧
      r.loop2 = some (3, 4, 2) ∧ 4 ≠ r.pc) ∧
    (∃ r : NmuRun, r = run0 (fun r => { r with loop1 := some (3, 5, 1) }) ∧ r.loop1 = some (3, 5, 1) ∧ 5 = r.pc ∧ r.loop2 = none ∧ 1 ≤ 1) ∧
    (∃ r : NmuRun, r = run0 (fun r => { r with loop1 := some (3, 5, 2), loop2 := some (4, 5, 1) }) ∧ r.loop1 = some (3, 5, 2) ∧ 5 = r.pc ∧
      r.loop2 = some (4, 5, 1)) ∧
    (∃ r : NmuRun, r = run0 (fun r => { r with loop2 := some (4, 5, 1) }) ∧ r.loop1 = none ∧ r.loop2 = some (4, 5, 1) ∧ 5 = r.pc) := by
  refine ⟨⟨rfl, rfl, rfl⟩, by decide, ⟨rfl, rfl⟩, ⟨_, rfl, rfl, rfl, by decide⟩, ⟨_, rfl, rfl, rfl, rfl, by decide⟩,
    ⟨_, rfl, rfl, rfl, rfl, by decide⟩, ⟨_, rfl, rfl, rfl, rfl⟩, ⟨_, rfl, rfl, rfl, rfl⟩⟩

/-- A descriptor at the start of the scratchpad (10 R277): capabilities S, D, X and Y, addresses from them, and the other fields. -/
def descOf (sp dp xp yp : Option Nat) (len op p q : Nat) : List Nat :=
  let c (k : Option Nat) : List Nat := natLe 16 ((k.map fun x => (cap x 0x3FF 0x80000 0).v.toNat).getD 0)
  c sp ++ c dp ++ natLe 8 0 ++ natLe 8 (if dp.isSome then 4096 else 0) ++ natLe 8 len ++ natLe 8 op ++ c xp ++ c yp ++ natLe 8 0 ++ natLe 8 0 ++
    natLe 8 p ++ natLe 8 q
noncomputable def described (bs : List Nat) (f : State → State) : State :=
  ringAt 5 (f ∘ fun s => { s with mem := memPut s.mem (spBase 0) bs, tags := [0, 1, 4, 5].map fun k => spBase 0 / 16 + k })
/-- The word enters its slot: no check stops it. -/
def enters (i : Instr) (s : State) : Bool := nextIs (exec i s) fun u => (u.tile 0).ccmds.length == 1

theorem witness_CopyDescriptorWords :
    (let s := described (descOf (some 0) (some 0) none none 64 0 0 0) id
     RingGoes s 0 5 .plain s ∧ s.copyCount 0 < 16 ∧ (s.poisAt (spBase 0) || s.poisAt (spBase 0 + 64)) = false ∧
      (s.readDesc 0 0).need [dS, dD, dLen] true = none ∧ lenBad ((s.readDesc 0 0).f 48 8) = none ∧
      s.cpyCheck 0 ((s.readDesc 0 0).cap 0) [0, 1, 2, 3, 4] 1 64 ((s.readDesc 0 0).addr 0 32) 64 = none ∧
      s.cpyCheck 0 ((s.readDesc 0 0).cap 1) [0, 1, 2, 3, 4] 2 64 ((s.readDesc 0 0).addr 1 40) 64 = none) ∧
    (let s := described [] (tile0 fun T => { T with crec := none, ccmds := (List.range 16).map fun k => (k, ccmd0 id) })
     RingGoes s 0 5 .plain s ∧ (s.tile 0).crec = none ∧ 16 ≤ s.copyCount 0) ∧
    (let s := described [] fun s => { s with pois := [spBase 0 / 64 + 1] }
     RingGoes s 0 5 .plain s ∧ s.poisAt (spBase 0 + 64) = true) ∧
    (let s := described (descOf (some 0) (some 0) none none 63 0 0 0) id
     RingGoes s 0 5 .plain s ∧ (s.readDesc 0 0).need [dS, dD, dLen] true = none ∧ lenBad ((s.readDesc 0 0).f 48 8) = some (9, none)) ∧
    enters (.cpys .plain 0 0) (described (descOf (some 0) (some 0) none none 64 1 (2 ^ 64 - 64 + 64) 64) id) = true ∧
    enters (.cpyg .plain 0 0) (described (descOf (some 0) (some 0) (some 0) none 64 1 0 0) id) = true ∧
    enters (.cpygSct .plain 0 0) (described (descOf (some 0) (some 0) (some 0) none 64 1 0 0) id) = true ∧
    enters (.cpyt .plain 0 0) (described (descOf (some 0) (some 0) none none 0 (15 * 4 + 15 * 2 ^ 18 + 2) 64 64) id) = true ∧
    enters (.fill .plain 0 0) (described (descOf none (some 0) none none 64 255 0 0) id) = true ∧
    enters (.pfch .plain 0 0) (described (descOf (some 2) none none none 4096 0 0 0) id) = true ∧
    enters (.chksum .plain 0 0) (described (descOf (some 0) none none none 64 (2 ^ 32 - 1) 0 0) id) = true ∧
    enters (.cpyx .plain 0 0) (described (descOf (some 2) (some 0) none none 4096 0 0 0) id) = true ∧
    enters (.kvgWait .plain 0 0) (described (descOf (some 2) (some 0) (some 0) (some 0) 0 64 0 0) id) = true ∧
    enters (.kvgMask .plain 0 0) (described (descOf (some 2) (some 0) (some 0) (some 0) 0 64 0 0) id) = true ∧
    enters (.kvst .plain 0 0) (described (descOf (some 0) (some 2) (some 0) (some 0) 0 16384 0 0) id) = true ∧
    enters (.kvout .plain 0 0) (described (descOf (some 2) (some 3) none none 4096 255 0 0) id) = true ∧
    enters (.kvin .plain 0 0) (described (descOf (some 3) (some 2) none none 4096 0 0 0) id) = true ∧
    enters (.bfq .plain 0 0 1) (described (descOf (some 2) (some 2) (some 2) (some 2) 0 (2 ^ 8 + 2 ^ 16) 512 0)
      (col0 fun C => { C with bfCtx := [(0, { BfCtx.empty with table := table2 })] })) = true ∧
    enters (.bfctlLoad .plain 0 0) (described (descOf (some 2) none none none 96 0 0 0) id) = true := by
  refine ⟨⟨goesR rfl rfl, ?_, ?_, ?_, ?_, ?_, ?_⟩, ⟨goesR rfl rfl, rfl, ?_⟩, ⟨goesR rfl rfl, ?_⟩, ⟨goesR rfl rfl, ?_, ?_⟩,
    ?_, ?_, ?_, ?_, ?_, ?_, ?_, ?_, ?_, ?_, ?_, ?_, ?_, ?_, ?_⟩ <;> decide +kernel

theorem witness_CopyControlWords :
    (let s := ringAt 5 id
     RingGoes s 0 5 .plain s ∧ (s.tile 0).crec = none ∧ s.copyCount 0 = 0 ∧ 0x80000 < 128 * 4095 + 4 * 33 ∧ 128 * 4095 + 4 * 32 ≤ 0x80000) ∧
    (let s := ringAt 5 (tile0 fun T => { T with ccmds := (List.range 16).map fun k => (k, ccmd0 id) })
     RingGoes s 0 5 .plain s ∧ 16 ≤ s.copyCount 0 ∧ s.copyCount 0 ≠ 0) ∧
    (∃ s : State, RingGoes s 0 5 .plain s ∧ s.copyCount 0 < 16 ∧ ∃ c ∈ (s.tile 0).ccmds, c.2.op = 0xC) ∧
    ∃ s : State, RingGoes s 0 5 .plain s ∧ s.copyCount 0 < 16 ∧ (∀ c ∈ (s.tile 0).ccmds, c.2.op ≠ 0xC) ∧ sbarAhead 2 s 0 = true := by
  refine ⟨⟨goesR rfl rfl, rfl, rfl, ?_, ?_⟩, ⟨goesR rfl rfl, ?_, ?_⟩,
    ⟨ringAt 5 (tile0 fun T => { T with ccmds := [(9, ccmd0 fun c => { c with op := 0xC })] }), goesR rfl rfl, ?_, _, List.mem_singleton.mpr rfl, rfl⟩,
    ringAt 5 (tile0 fun T => { T with ccmds := [(9, ccmd0 fun c => { c with op := 7, wait := [1], scope := 3, ext := [2] })] }), goesR rfl rfl, ?_,
      fun c h => by rw [List.mem_singleton.mp h]; decide, ?_⟩ <;> decide +kernel

theorem witness_VectorFloatWords : ∃ s : State, RingGoes s 0 2 .plain s ∧ vecBusy [0, 255, 1023] [63] s 0 = false ∧
    vecBusy [3] [7] s 0 = false := ⟨ringAt 2 id, goesR rfl rfl, rfl, rfl⟩

theorem witness_VectorIntegerAndBitWords :
    (∃ s : State, RingGoes s 0 2 .plain s ∧ vecBusy [3, 4, 5] [5] s 0 = false ∧ tyBits 3 ≤ 32 ∧ 2 * (1 + 1) * tyBits 1 ≤ 32 ∧
      (0 / 256 % 64 = 0 ∧ 32 < 31 % 32 + (2 * 256 + 31) / 256 % 64 ∧ ¬ (32 < (1 * 256 + 31) % 32 + (1 * 256 + 31) / 256 % 64))) ∧
    ∃ s : State, RingGoes s 0 2 .plain s ∧ vecBusy [1024, 4] [5] s 0 = false := by
  refine ⟨⟨ringAt 2 id, goesR rfl rfl, rfl, ?_, ?_, ?_⟩, ringAt 2 (queued 1024 4), goesR rfl rfl, ?_⟩ <;> decide +kernel

theorem witness_VectorMaskAndMoveWords : ∃ s : State, RingGoes s 0 2 .plain s ∧ vecBusy [3, 4, 5] [5] s 0 = false ∧ vecBusy [3, 4] [] s 0 = false ∧
    vecBusy [] [5] s 0 = false ∧ vecBusy [] [] s 0 = false ∧ (5 : Nat) < 6 ∧ (3 : Nat) < 4 :=
  ⟨ringAt 2 id, goesR rfl rfl, rfl, rfl, rfl, rfl, by decide, by decide⟩

theorem witness_VectorRowWords :
    (∃ s : State, RingGoes s 0 2 .plain s ∧ vecBusy [3] [5] s 0 = false ∧ vecBusy [3, 5] [5] s 0 = false ∧ vecBusy [3] [5, 6] s 0 = false ∧
      vecBusy [3] [] s 0 = false ∧ ∀ j, j < 64 → mbit (s.tile 0).m0.v 0 j = false) ∧
    ∃ s : State, RingGoes s 0 2 .plain s ∧ vecBusy [3] [5] s 0 = false ∧ mbit (s.tile 0).m0.v 15 63 = true := by
  refine ⟨⟨ringAt 2 id, goesR rfl rfl, rfl, rfl, rfl, rfl, ?_⟩,
    ringAt 2 (tile0 fun T => { T with mregs := [(0, ⟨fullMask, false⟩)] }), goesR rfl rfl, rfl, ?_⟩ <;> decide +kernel

/-- Engine 2 executes the word at `off` of a routine of the words 4 to 9. -/
noncomputable def looping (off : Nat) : State :=
  { (State.reset.withFetchWord 72 (2 * 2 ^ 64 + 5)).updEng 0 2 fun x => { x with again := [⟨5, off⟩], routine := some ⟨4, off, 9, 1⟩ } with
    cur := .ring 0 2 }

theorem witness_VectorControlWords :
    (∃ s : State, RingGoes s 0 2 .plain s ∧ ((s.tile 0).engine 2).routine = none) ∧
    (∀ off ∈ [4, 9], ∃ q x, RingGoes (looping off) 0 2 .plain (looping off) ∧ (((looping off).tile 0).engine 2).routine = some q ∧
      (looping off).peek 0 2 = some x ∧ x.off = off ∧ q.first = 4 ∧ q.last = 9) ∧
    ∃ T : Tile, T.vlc = 0 := by
  refine ⟨⟨ringAt 2 id, goesR rfl rfl, rfl⟩, fun off h => ?_, (State.reset.tile 0), rfl⟩
  simp only [List.mem_cons, List.not_mem_nil, or_false] at h
  rcases h with rfl | rfl <;> exact ⟨_, _, goesR rfl rfl, rfl, rfl, rfl, rfl, rfl⟩

theorem witness_VectorIssueFrame : ∃ s u v : State, RingGoes s 0 2 .plain s ∧ exec (.vand .plain 1 2 3) s = .next u ∧
    exec (.vrotset .plain 1 1) s = .next v := ⟨ringAt 2 id, _, _, goesR rfl rfl, rfl, rfl⟩

/-- Array 159 with the fields of `f`. -/
noncomputable def xbr (f : XArray → XArray) (g : State → State) : State :=
  ringAt 4 (tile0 (fun T => { T with arrays := [(159, f XArray.fresh)] }) ∘ g)

theorem witness_CrossbarConfigurationWords :
    (let s := xbr id id
     RingGoes s 0 4 .plain s ∧ arraysIdle 159 1 s 0 = true ∧ ¬ ((s.tile 0).array 159).orphan = true ∧ ((s.tile 0).array 159).priv = false ∧
      2 ^ (depthRows ((s.tile 0).array 159).depth / 64) ≤ 256 ∧ ¬ (2 ^ (depthRows ((s.tile 0).array 159).depth / 64) ≤ 255) ∧
      ((s.tile 0).xring 0 7).nslots = 0 ∧ (s.tile 0).xcmds = []) ∧
    (let s := xbr (fun A => { A with priv := true, owner := 1 }) (tile0 fun T => { T with xin := [(7, ⟨0, 63, 62⟩)] })
     RingGoes s 0 4 .plain s ∧ ((s.tile 0).array 159).priv = true ∧ ((s.tile 0).array 159).owner ≠ (s.tile 0).ctx ∧
      arraysIdle 159 1 s 0 = true ∧ ((s.tile 0).xring 0 7).nslots = 63) ∧
    (let s := xbr (fun A => { A with priv := true }) id
     ((s.tile 0).array 159).priv = true ∧ ((s.tile 0).array 159).orphan = false ∧ ((s.tile 0).array 159).owner = (s.tile 0).ctx) ∧
    let s := xbr id (tile0 (fun T => { T with xcmds := [(9, xcmd0 fun c => { c with first := 159 })] }) ∘ fun s => { s with nextId := 10 })
    RingGoes s 0 4 .plain s ∧ arraysIdle 159 1 s 0 = false ∧
      ∃ c ∈ (s.tile 0).xcmds, c.2.started = none ∧ c.2.first ≤ 159 ∧ 159 < c.2.first + c.2.nk * c.2.nn ∧ c.2.landed < c.2.vs.length := by
  refine ⟨⟨goesR rfl rfl, ?_, ?_, rfl, ?_, ?_, rfl, rfl⟩, ⟨goesR rfl rfl, rfl, ?_, ?_, rfl⟩, ⟨rfl, rfl, rfl⟩, goesR rfl rfl, ?_, _,
    List.mem_singleton.mpr rfl, rfl, ?_, ?_, ?_⟩ <;> decide +kernel

/-- Group 31 of two arrays from 158 on, in raw form, with rings of 63 slots. -/
noncomputable def grouped (f : XArray → XArray) (g : State → State) : State :=
  xbr f (tile0 (fun T => { T with xgroups := [(31, ⟨158, 2, 1⟩)], xin := [(7, ⟨0, 63, 62⟩)], xout := [(7, ⟨0, 31, 30⟩)] }) ∘ g)

theorem witness_CrossbarProducts :
    (let s := grouped id id
     RingGoes s 0 4 .plain s ∧ (s.tile 0).xcmds = [] ∧ FM.find? ((s.calSeen 0).tile 0).xgroups 30 = none ∧
      FM.find? ((s.calSeen 0).tile 0).xgroups 31 = some ⟨158, 2, 1⟩ ∧ (((s.calSeen 0).tile 0).xring 0 6).nslots = 0 ∧
      (((s.calSeen 0).tile 0).xring 0 7).nslots = 63 ∧ (((s.calSeen 0).tile 0).xring 1 7).nslots = 31 ∧
      ∀ a ∈ [158, 159], (((s.calSeen 0).tile 0).array a).enc = (((s.calSeen 0).tile 0).array 158).enc ∧
        (((s.calSeen 0).tile 0).array a).foreign ((s.calSeen 0).tile 0).ctx = false ∧ (((s.calSeen 0).tile 0).array a).route 2 = .ok 2 ∧
        (((s.calSeen 0).tile 0).array a).route 0 = .error 0x40) ∧
    (let s := grouped (fun A => { A with enc := 0 }) id
     RingGoes s 0 4 .plain s ∧ (((s.calSeen 0).tile 0).array 159).enc ≠ (((s.calSeen 0).tile 0).array 158).enc) ∧
    (let s := grouped (fun A => { A with orphan := true }) id
     RingGoes s 0 4 .plain s ∧ (((s.calSeen 0).tile 0).array 159).foreign ((s.calSeen 0).tile 0).ctx = true) ∧
    (let s := grouped id (tile0 fun T => { T with xcmds := [(9, xcmd0 fun c => { c with o := 7, outIdx := [30] })] })
     RingGoes s 0 4 .plain s ∧ (s.tile 0).xcmds.length < 8 ∧ ∃ c ∈ (s.tile 0).xcmds, c.2.o = 7 ∧ 30 ∈ c.2.outIdx) ∧
    (let s := grouped id (tile0 fun T => { T with xcmds := (List.range 8).map fun k => (k, xcmd0 id) })
     RingGoes s 0 4 .plain s ∧ 8 ≤ (s.tile 0).xcmds.length) ∧
    ∃ A : XArray, A.cert.cstate = 1 ∧ A.cert.depth = A.depth ∧ A.cert.qexp = A.qexp ∧ A.cert.enc = A.enc := by
  refine ⟨⟨goesR rfl rfl, rfl, rfl, rfl, rfl, rfl, rfl, ?_⟩, ⟨goesR rfl rfl, ?_⟩, ⟨goesR rfl rfl, rfl⟩,
    ⟨goesR rfl rfl, ?_, _, List.mem_singleton.mpr rfl, rfl, ?_⟩, ⟨goesR rfl rfl, ?_⟩,
    { XArray.fresh with cert := { Cert.none with cstate := 1, depth := 2, enc := 1 } }, rfl, rfl, rfl, rfl⟩
  · intro a h
    simp only [List.mem_cons, List.not_mem_nil, or_false] at h
    rcases h with rfl | rfl <;> exact ⟨rfl, rfl, rfl, rfl⟩
  all_goals decide +kernel

theorem witness_CalibrationWordsIssue :
    (∃ s bs v, RingGoes s 0 4 .plain s ∧ calBusy 159 1 s 0 = false ∧ (((s.calSeen 0).tile 0).array 159).foreign ((s.calSeen 0).tile 0).ctx = false ∧
      s.calRead 0 159 ⟨4096 * 127, 4096, 0, 0⟩ = (.ok bs, v) ∧ v.bad = none) ∧
    (∃ s v, RingGoes s 0 4 .plain s ∧ calBusy 159 1 s 0 = false ∧ s.calRead 0 159 ⟨4096 * 127, 4096, 0, 0⟩ = (.error (.cause 0x31 0), v) ∧
      v.bad = none) ∧
    (∃ s : State, RingGoes s 0 4 .plain s ∧ calBusy 159 1 s 0 = true) ∧
    (∃ s : State, RingGoes s 0 4 .plain s ∧ calBusy 159 1 s 0 = false ∧
      (((s.calSeen 0).tile 0).array 159).foreign ((s.calSeen 0).tile 0).ctx = true) ∧
    (∃ s : State, RingGoes s 0 4 .plain s ∧ calBusy 159 1 s 0 = false ∧
      (((s.calSeen 0).tile 0).array 159).image = none ∧ (((s.calSeen 0).tile 0).array 159).base = none ∧
      (((s.calSeen 0).tile 0).array 159).cert.cstate ≠ 3 ∧ (((s.calSeen 0).tile 0).array 159).calValid = false) ∧
    ∃ s : State, RingGoes s 0 4 .plain s ∧ calBusy 159 1 s 0 = false ∧ (((s.calSeen 0).tile 0).array 159).cert.cstate = 3 ∧
      (((s.calSeen 0).tile 0).array 159).image = some 0 ∧ (((s.calSeen 0).tile 0).array 159).base ≠ none := by
  refine ⟨⟨xbr id id, _, _, goesR rfl rfl, ?_, rfl, rfl, rfl⟩,
    ⟨xbr id (fun s => { s with pois := [spBase 0 / 64 + 8191] }), _, goesR rfl rfl, ?_, rfl, rfl⟩,
    ⟨xbr id (tile0 (fun T => { T with xcmds := [(9, xcmd0 fun c => { c with first := 159 })] }) ∘ fun s => { s with nextId := 10 }), goesR rfl rfl, ?_⟩,
    ⟨xbr (fun A => { A with orphan := true }) id, goesR rfl rfl, ?_, rfl⟩, ⟨xbr id id, goesR rfl rfl, ?_, rfl, rfl, ?_, rfl⟩,
    xbr (fun A => { A with image := some 0, base := some [0], cert := { A.cert with cstate := 3 } }) id, goesR rfl rfl, ?_, rfl, rfl, ?_⟩ <;>
    decide +kernel

end Sys2Proof.Tests
end

/-! ### Every step keeps memory canonical (O7)

`State.Canonical` speaks of the memory alone, and the model writes memory through `Memory.put`, which keeps the
form (`put_canonical`). So the argument follows the model's calls: each function that makes a next state has one
lemma `<function>_canonical`, proved by the cases of its definition from the lemmas of the functions it calls.
The lemmas stand in the order of the model's files. `exec_canonical` covers every instruction, `oneStep_canonical`
every turn, and `step_canonical` is the whole step. -/

section
namespace Sys2Proof.Machine

/-- The next state of an outcome, if there is one, is canonical. -/
def CanonicalOut (o : Out) : Prop := ∀ u, o = .next u → u.Canonical
/-- The state that an operation may answer is canonical. -/
def CanonicalOpt (o : Option State) : Prop := ∀ u, o = some u → u.Canonical
/-- The state in which a wait leaves the machine, whatever its result. -/
def WaitRes.state : WaitRes → State
  | .pass s | .hold s | .poisoned s .. => s

theorem next_canonical {s : State} (h : s.Canonical) : CanonicalOut (.next s) := by
  rintro _ ⟨⟩; exact h
theorem fault_canonical {r : Fault} : CanonicalOut (.fault r) := nofun
theorem some_canonical {s : State} (h : s.Canonical) : CanonicalOpt (some s) := by
  rintro _ ⟨⟩; exact h
theorem none_canonical : CanonicalOpt none := nofun
theorem snd_canonical {α : Type} {p : α × State} {a : α} {u : State} (h : p.2.Canonical) (e : p = (a, u)) :
    u.Canonical := by
  subst e; exact h
theorem pair_canonical {α : Type} {a : α} {s : State} (h : s.Canonical) : (a, s).2.Canonical := h
theorem fst_canonical {α : Type} {p : State × α} {a : α} {u : State} (h : p.1.Canonical) (e : p = (u, a)) :
    u.Canonical := by
  subst e; exact h
theorem snd_snd_canonical {α β : Type} {p : α × β × State} {a : α} {b : β} {u : State}
    (h : p.2.2.Canonical) (e : p = (a, b, u)) : u.Canonical := by
  subst e; exact h
theorem state_canonical {r q : WaitRes} (h : r.state.Canonical) (e : r = q) : q.state.Canonical := e ▸ h

theorem ite_canonical {c : Prop} [Decidable c] {s u : State} (hs : s.Canonical) (hu : u.Canonical) :
    (if c then s else u).Canonical := by
  split
  · exact hs
  · exact hu

theorem getD_canonical {o : Option State} {s : State} (ho : CanonicalOpt o) (h : s.Canonical) :
    (o.getD s).Canonical := by
  cases o with
  | none => exact h
  | some u => exact ho u rfl

theorem finish_canonical {s : State} (h : s.Canonical) : CanonicalOut (finish s) := by
  unfold finish; split
  · exact fault_canonical
  · exact next_canonical h

theorem foldl_canonical {α : Type} {f : State → α → State} {s : State} {xs : List α} (h : s.Canonical)
    (hf : ∀ s x, s.Canonical → (f s x).Canonical) : (xs.foldl f s).Canonical := Canonical_foldl f hf xs h

theorem foldl_snd_canonical {α β : Type} {f : β × State → α → β × State} {p : β × State} {xs : List α}
    (h : p.2.Canonical) (hf : ∀ p x, p.2.Canonical → (f p x).2.Canonical) : (xs.foldl f p).2.Canonical := by
  induction xs generalizing p with
  | nil => exact h
  | cons x xs ih => exact ih (hf p x h)

theorem foldl_fst_canonical {α β : Type} {f : State × β → α → State × β} {p : State × β} {xs : List α}
    (h : p.1.Canonical) (hf : ∀ p x, p.1.Canonical → (f p x).1.Canonical) : (xs.foldl f p).1.Canonical := by
  induction xs generalizing p with
  | nil => exact h
  | cons x xs ih => exact ih (hf p x h)

theorem foldl_opt_canonical {α : Type} {f : Option State → α → Option State} {o : Option State} {xs : List α}
    (h : CanonicalOpt o) (hf : ∀ o x, CanonicalOpt o → CanonicalOpt (f o x)) : CanonicalOpt (xs.foldl f o) := by
  induction xs generalizing o with
  | nil => exact h
  | cons x xs ih => exact ih (hf o x h)

/-- What holds a control-core word, or adds to its trap, keeps memory canonical. -/
structure CtlChecks.Keeps (k : CtlChecks) : Prop where
  hold : ∀ s t c, s.Canonical → CanonicalOpt (k.hold s t c)
  onTrap : ∀ s t c, s.Canonical → (k.onTrap s t c).Canonical

/-- Checks that hold no word and add nothing to a trap keep memory canonical. -/
theorem CtlChecks.Keeps.plain {k : CtlChecks} (hh : k.hold = fun _ _ _ => .none)
    (ht : k.onTrap = fun s _ _ => s) : k.Keeps where
  hold _ _ _ _ := by rw [hh]; exact none_canonical
  onTrap _ _ _ h := by rw [ht]; exact h

/-- Checks that hold a word in a canonical state, and add nothing to a trap, keep memory canonical. -/
theorem CtlChecks.Keeps.of_hold {dec : State → Nat → Nat → Option Nat} {busy : State → Nat → Nat → Bool}
    {hold : State → Nat → Nat → Option State} {chk : State → Nat → Nat → Option (Nat × Word)}
    (hh : ∀ s t c, s.Canonical → CanonicalOpt (hold s t c)) :
    (CtlChecks.mk dec busy hold chk fun s _ _ => s).Keeps :=
  ⟨hh, fun _ _ _ h => h⟩

/-- The state in which a word of a ring-fed engine is held is canonical. -/
def EngChecks.Keeps (k : EngChecks) : Prop := ∀ b s t, s.Canonical → CanonicalOpt (k.hold b s t)

/-- Checks that hold no word that has issued keep memory canonical. -/
theorem EngChecks.Keeps.plain {k : EngChecks} (hh : k.hold = fun _ _ _ => .none) : k.Keeps :=
  fun _ _ _ _ => by rw [hh]; exact none_canonical

section

variable {s : State} {hd : Hdr} {bs rs vs : List Nat} {lw tval val value : Word} {pois : Option (Nat × Nat)}
variable {a b bad base big c cause ch clr cnt col cond ctx d desc due e eng entry f fails first fl foreign full
  handle holder i id idx imm inv j k key kind l len map n need off op order origin p pa part q r reason rec rec'
  ret rnd route row sat scope sh sheaf sig slot sp st status sub t target tc1 tc2 tok ty u unit v va w wait way
  what win wire x : Nat}

/-! ### `Sys2Proof/Machine/Mem.lean` -/

theorem takeFree_canonical (h : s.Canonical) : (takeFree s).2.Canonical := h
theorem takeIn_canonical {lo hi : Nat} (h : s.Canonical) : (takeIn lo hi s).2.Canonical := takeFree_canonical h

/-! ### `Sys2Proof/Machine/Base.lean` -/

theorem setTile_canonical {v : Tile} (h : s.Canonical) : (s.setTile t v).Canonical := h
theorem updTile_canonical {f : Tile → Tile} (h : s.Canonical) : (s.updTile t f).Canonical := h
theorem updCol_canonical {f : Col → Col} (h : s.Canonical) : (s.updCol c f).Canonical := h
theorem updContext_canonical {f : Context → Context} (h : s.Canonical) : (s.updContext x f).Canonical := h
theorem updCc_canonical {f : CtlCtx → CtlCtx} (h : s.Canonical) : (s.updCc t c f).Canonical := h
theorem updEng_canonical {f : Eng → Eng} (h : s.Canonical) : (s.updEng t e f).Canonical := h
theorem fly_canonical {clk : Clk} {fl : Fl} (h : s.Canonical) : (s.fly clk due fl).Canonical := h
theorem flyTile_canonical {fl : Fl} (h : s.Canonical) : (s.flyTile t l fl).Canonical := h
theorem flyDev_canonical {fl : Fl} (h : s.Canonical) : (s.flyDev l fl).Canonical := h
theorem land_canonical (h : s.Canonical) : (s.land id).Canonical := h
theorem soon_canonical {ts : List Turn} (h : s.Canonical) : (s.soon ts).Canonical := h
theorem retest_canonical (h : s.Canonical) : (s.retest t).Canonical := h

theorem writeRecord_canonical {r : FRec} (h : s.Canonical) : (s.writeRecord r).Canonical := by
  unfold State.writeRecord
  refine updCol_canonical ?_
  show Memory.wf _ = true
  exact put_canonical h

theorem hostRecord_canonical {r : FRec} (h : s.Canonical) : (s.hostRecord r).Canonical := by
  fun_cases State.hostRecord s r
  · exact writeRecord_canonical h
  · exact h

theorem resumeFrom_canonical {old : State} (h : s.Canonical) : (s.resumeFrom old).Canonical :=
  foldl_canonical h fun _ _ ht => ht

/-! ### `Sys2Proof/Machine/Xlate.lean` -/

theorem beyond_canonical (h : s.Canonical) : (s.beyond pa).Canonical := by
  fun_cases State.beyond s pa <;> exact h

theorem markPsum_canonical (h : s.Canonical) : (s.markPsum f).Canonical := foldl_canonical h fun _ _ hs => hs

theorem cacheFull_canonical (h : s.Canonical) : (s.cacheFull f).Canonical :=
  foldl_canonical h fun _ _ hs => ite_canonical hs hs

theorem enterSector_canonical {sec : Nat} (h : s.Canonical) : (s.enterSector sec).Canonical := by
  fun_cases State.enterSector s sec
  · exact h
  · exact h
  · exact hostRecord_canonical (cacheFull_canonical (markPsum_canonical h))

theorem hbmPut_canonical {p : Bool} (h : s.Canonical) : (s.hbmPut pa bs p).Canonical := by
  fun_cases State.hbmPut s pa bs p
  · exact h
  · exact foldl_canonical (memPut_wf h) fun _ _ hs => enterSector_canonical hs
  · exact memPut_wf h

theorem hbmSetLine_canonical {mkey : Nat} {p : Bool} (h : s.Canonical) :
    (s.hbmSetLine pa va mkey bs p).Canonical :=
  hbmPut_canonical (beyond_canonical h)

theorem dropLine_canonical (h : s.Canonical) : (s.dropLine c pa).Canonical := h
theorem setLine_canonical {l : BLine} (h : s.Canonical) : (s.setLine c l).Canonical := h

theorem writeBackLine_canonical {l : BLine} (h : s.Canonical) : (s.writeBackLine l).Canonical := by
  fun_cases State.writeBackLine s l
  · exact hbmSetLine_canonical h
  · exact h

theorem writeBack_canonical {f : BLine → Bool} (h : s.Canonical) : (s.writeBack c f).Canonical := by
  fun_cases State.writeBack s c f
  · exact h
  · exact foldl_canonical h fun _ _ hs => setLine_canonical (writeBackLine_canonical hs)

theorem dropLines_canonical {f : BLine → Bool} (h : s.Canonical) : (s.dropLines c f).Canonical := h

theorem releaseSystem_canonical (h : s.Canonical) : (s.releaseSystem ctx).Canonical :=
  foldl_canonical h fun _ _ hs => writeBack_canonical hs

theorem mayEvict_canonical (h : s.Canonical) : (s.mayEvict c).Canonical := by
  fun_cases State.mayEvict s c
  · exact dropLine_canonical (writeBackLine_canonical (snd_canonical (takeFree_canonical h) ‹_›))
  · exact snd_canonical (takeFree_canonical h) ‹_›
  · exact snd_canonical (takeFree_canonical h) ‹_›

theorem makeRoom_canonical (h : s.Canonical) : (s.makeRoom c ctx w).Canonical := by
  unfold State.makeRoom
  dsimp only
  split
  · exact h
  · split
    · exact dropLine_canonical (writeBackLine_canonical (takeFree_canonical h))
    · exact takeFree_canonical h

theorem freeLine_canonical (h : s.Canonical) : s.freeLine.2.Canonical := h

theorem bsLine_canonical {p : Phys} (h : s.Canonical) : (s.bsLine ctx p va).2.Canonical := by
  unfold State.bsLine
  split
  · exact freeLine_canonical h
  · split
    · exact h
    · dsimp only
      split
      · exact beyond_canonical (mayEvict_canonical h)
      · split
        · exact beyond_canonical (mayEvict_canonical h)
        · exact setLine_canonical
            (makeRoom_canonical (takeFree_canonical (beyond_canonical (mayEvict_canonical h))))

theorem wakeMonitors_canonical {q : Bool} (h : s.Canonical) : (s.wakeMonitors c a v q).Canonical := by
  unfold State.wakeMonitors
  refine foldl_canonical h fun _ _ hs => ?_
  split
  · exact ite_canonical hs (ite_canonical hs hs)
  · exact hs

theorem wakeLine_canonical {q : Bool} (h : s.Canonical) : (s.wakeLine c key bs q).Canonical :=
  foldl_canonical h fun _ _ hs => wakeMonitors_canonical hs

theorem bsWrite_canonical {p : Phys} {q : Bool} (h : s.Canonical) : (s.bsWrite ctx p va bs q).Canonical := by
  unfold State.bsWrite
  split
  · exact h
  · split
    next hx =>
    refine wakeLine_canonical ?_
    split
    · exact setLine_canonical (snd_canonical (bsLine_canonical h) hx)
    · exact hbmSetLine_canonical (snd_canonical (bsLine_canonical h) hx)

theorem memEndPut_canonical {p : Bool} (h : s.Canonical) : (s.memEndPut pa bs p).Canonical := by
  unfold State.memEndPut
  refine foldl_canonical (foldl_canonical (hbmPut_canonical (foldl_canonical (beyond_canonical h) fun _ _ hs =>
    writeBack_canonical hs)) fun _ _ hs => hs) fun _ _ hs => ?_
  split
  · split
    · exact wakeLine_canonical hs
    · exact hs
  · exact hs

theorem memEndLine_canonical {p : Phys} {q : Bool} (h : s.Canonical) : (s.memEndLine p va bs q).Canonical := by
  fun_cases State.memEndLine s p va bs q
  · exact h
  · exact wakeLine_canonical (dropLine_canonical (hbmSetLine_canonical (writeBack_canonical h)))

theorem peerLine_canonical {port : Nat} (h : s.Canonical) : (s.peerLine port).2.Canonical := by
  fun_cases State.peerLine s port <;> exact h

/-! ### `Sys2Proof/Machine/Ops.lean` -/

theorem fabricTime_canonical {near : Bool} {bound far : Nat} (h : s.Canonical) :
    (s.fabricTime near bound far).2.Canonical :=
  takeIn_canonical h

theorem sendHome_canonical (h : s.Canonical) : (s.sendHome t slot what a b pois sig c scope).Canonical :=
  flyDev_canonical h

theorem arriveSlot_canonical (h : s.Canonical) : (s.arriveSlot t e c handle slot pois).Canonical := by
  fun_cases State.arriveSlot s t e c handle slot pois
  · exact h
  · exact sendHome_canonical h

theorem pushToken_canonical (h : s.Canonical) : (s.pushToken t e c d pois).Canonical := by
  fun_cases State.pushToken s t e c d pois <;> exact h

theorem signalObj_canonical (h : s.Canonical) : (s.signalObj t e c sig pois).Canonical := by
  fun_cases State.signalObj s t e c sig pois
  · exact arriveSlot_canonical h
  · exact pushToken_canonical h
  · exact h
  · exact h
  · exact h

theorem signal_canonical (h : s.Canonical) : (s.signal t e c sig pois).Canonical :=
  updTile_canonical (signalObj_canonical h)

theorem signalNow_canonical (h : s.Canonical) : (s.signalNow t e c sig pois).Canonical := by
  fun_cases State.signalNow s t e c sig pois
  · exact h
  · exact retest_canonical (signal_canonical h)

theorem signalIn_canonical (h : s.Canonical) : (s.signalIn t e c sig l pois).Canonical := by
  fun_cases State.signalIn s t e c sig l pois <;> exact h

theorem register_canonical (h : s.Canonical) : (s.register t p w).Canonical := by
  fun_cases State.register s t p w <;> exact h

theorem waitBar_canonical (h : s.Canonical) : (s.waitBar t p handle).state.Canonical := by
  fun_cases State.waitBar s t p handle <;> exact h

theorem testWait_canonical (h : s.Canonical) : (s.testWait t p w).state.Canonical := by
  fun_cases State.testWait s t p w
  case case3 => exact register_canonical h
  case case2 => exact ite_canonical h h
  case case4 | case5 =>
    next sem _ =>
    dsimp only [sem]
    split
    · exact h
    · split
      · exact h
      · exact register_canonical h
  case case6 => exact register_canonical (state_canonical (q := .hold _) (waitBar_canonical h) ‹_›)
  case case7 => exact waitBar_canonical h
  all_goals exact h

theorem devPut_canonical {q : Bool} (h : s.Canonical) : CanonicalOpt (s.devPut ctx col va bs q) := by
  unfold State.devPut
  refine foldl_opt_canonical (some_canonical h) fun o _ ho => ?_
  split
  · exact none_canonical
  · split
    · exact some_canonical (bsWrite_canonical (ho _ rfl))
    · exact none_canonical

theorem devGet_canonical (h : s.Canonical) : (s.devGet ctx col va n).2.Canonical := by
  unfold State.devGet
  refine foldl_snd_canonical h fun _ _ hs => ?_
  split
  · exact hs
  · split
    · dsimp only
      exact bsLine_canonical hs
    · exact hs

theorem writeCwAt_canonical {p : Phys} {status : Word} {q : Bool} (h : s.Canonical) :
    (s.writeCwAt ctx p n value status q).Canonical :=
  writeBack_canonical (bsWrite_canonical h)

theorem writeCw_canonical {status : Word} (h : s.Canonical) : (s.writeCw ctx col n value status).Canonical := by
  fun_cases State.writeCw s ctx col n value status
  · exact writeCwAt_canonical h
  · exact h

theorem putCw_canonical {status : Word} (h : s.Canonical) : (s.putCw ctx col n value status).Canonical :=
  writeCw_canonical (releaseSystem_canonical h)

theorem putTeardown_canonical (h : s.Canonical) :
    (s.putTeardown ctx reason cause origin tc1 tc2).Canonical := by
  fun_cases State.putTeardown s ctx reason cause origin tc1 tc2
  · exact releaseSystem_canonical (devPut_canonical h _ ‹_›)
  · exact h

theorem dropEntries_canonical (h : s.Canonical) : (s.dropEntries ctx).Canonical :=
  foldl_canonical h fun _ _ hs => ite_canonical (Canonical_of_mem hs rfl) hs

theorem tearDown_canonical (h : s.Canonical) : (s.tearDown ctx reason cause origin tc1 tc2).Canonical := by
  unfold State.tearDown
  extract_lets late s1 x s2 s3 s4 s5 s6 s7
  have h1 : s1.Canonical := dropEntries_canonical (updContext_canonical h)
  have h2 : s2.Canonical := putTeardown_canonical h1
  have h3 : s3.Canonical := foldl_canonical h2 fun _ _ hs => scrubTile_canonical hs
  have h4 : s4.Canonical := foldl_canonical h3 fun _ _ hs => hs
  have h5 : s5.Canonical := foldl_canonical h4 fun _ _ hs => dropLines_canonical (writeBack_canonical hs)
  have h6 : s6.Canonical := zeroScratch_canonical h5
  have h7 : s7.Canonical := resumeFrom_canonical (foldl_canonical h6 fun _ _ hs => hs)
  clear_value s7
  exact h7

theorem trap_canonical {epc : Nat} {i : TrapInfo} (h : s.Canonical) :
    (s.trap t c cause epc val i).Canonical := by
  fun_cases State.trap s t c cause epc val i
  · exact tearDown_canonical h
  · exact h

theorem wordTrap_canonical (h : s.Canonical) : (s.wordTrap t c cause val).Canonical := trap_canonical h

theorem reachFork_canonical (h : s.Canonical) : (s.reachFork t e).Canonical := by
  fun_cases State.reachFork s t e <;> exact h

theorem passSource_canonical (h : s.Canonical) : (s.passSource t e).Canonical := by
  fun_cases State.passSource s t e <;> exact h

theorem pass_canonical (h : s.Canonical) : (s.pass t e).Canonical := by
  fun_cases State.pass s t e
  · exact h
  · exact h
  · exact passSource_canonical h
  · exact h
  · exact passSource_canonical h

theorem stopEngine_canonical {roff : Nat} {wdone pfx begun : Bool} {group rest : List RWord} (h : s.Canonical) :
    (s.stopEngine t e cause tval roff wdone pfx begun group rest).Canonical :=
  h

theorem stopUnit_canonical {group kept : List RWord} (h : s.Canonical) :
    (s.stopUnit t e cause tval group kept).Canonical := by
  fun_cases State.stopUnit s t e cause tval group kept <;> exact h

theorem decodeFault_canonical (h : s.Canonical) : (s.decodeFault t e cause).Canonical := by
  fun_cases State.decodeFault s t e cause
  · exact h
  · exact signalNow_canonical h
  · exact h

theorem execFault_canonical (h : s.Canonical) : (s.execFault t e cause tval sig).Canonical :=
  signalNow_canonical h

theorem begin_canonical (h : s.Canonical) : (s.begin t e).Canonical := by
  unfold State.begin
  refine updEng_canonical ?_
  split
  · exact pass_canonical h
  · exact h

theorem unhold_canonical (h : s.Canonical) : (s.unhold t e).Canonical := h

theorem engResume_canonical {k : EngChecks} {eff : Nat → Nat → State → State} (h : s.Canonical) (hk : k.Keeps)
    (heff : ∀ i j u, u.Canonical → (eff i j u).Canonical) : CanonicalOut (engResume s k t e sig eff) := by
  fun_cases engResume s k t e sig eff
  · exact finish_canonical (hk _ _ _ h _ ‹_›)
  · exact finish_canonical (heff _ _ _ h)

/-- The result of a wait that is tested unless it has been satisfied before. -/
theorem waited_canonical {b : Bool} (h : s.Canonical) :
    (if b then .pass s else s.testWait t p w : WaitRes).state.Canonical := by
  split
  · exact h
  · exact testWait_canonical h

theorem engIssue_canonical {k : EngChecks} {eff : Nat → Nat → State → State} (h : s.Canonical) (hk : k.Keeps)
    (heff : ∀ t sig s, s.Canonical → (eff t sig s).Canonical) : CanonicalOut (engIssue hd s k eff) := by
  unfold engIssue
  dsimp only
  split
  · exact engResume_canonical h hk heff
  · split
    · exact finish_canonical (decodeFault_canonical h)
    · split
      · next hx => exact finish_canonical (state_canonical (waited_canonical h) hx)
      · next hx =>
        exact finish_canonical (signalNow_canonical (begin_canonical (state_canonical (waited_canonical h) hx)))
      · next w hx =>
        have hw : w.Canonical := state_canonical (waited_canonical h) hx
        split
        · exact finish_canonical h
        · split
          · next hy => exact finish_canonical (hk _ _ _ (updEng_canonical (begin_canonical hw)) _ hy)
          · exact finish_canonical (heff _ _ _ (begin_canonical hw))

theorem ctlNext_canonical (h : s.Canonical) : (s.ctlNext t c l).Canonical := h

theorem observe_canonical {_c : Nat} (h : s.Canonical) : (s.observe t _c wait).Canonical := by
  fun_cases State.observe s t _c wait <;> exact h

theorem ctlWait_canonical (h : s.Canonical) : (s.ctlWait t c wait).state.Canonical := by
  fun_cases State.ctlWait s t c wait
  · exact state_canonical (testWait_canonical h) ‹_›
  · exact h
  · exact testWait_canonical h

theorem ctlIssue_canonical {k : CtlChecks} {eff : Nat → Nat → Nat → State → State} (h : s.Canonical)
    (hk : k.Keeps) (heff : ∀ i j k u, u.Canonical → (eff i j k u).Canonical) :
    CanonicalOut (ctlIssue hd s k eff) := by
  unfold ctlIssue
  dsimp only
  split
  · exact finish_canonical (wordTrap_canonical h)
  · split
    · exact finish_canonical (wordTrap_canonical h)
    · split
      · next hx => exact finish_canonical (state_canonical (ctlWait_canonical h) hx)
      · next hx => exact finish_canonical (wordTrap_canonical (state_canonical (ctlWait_canonical h) hx))
      · next hx =>
        split
        · exact finish_canonical h
        · split
          · next hy => exact finish_canonical (updCc_canonical (hk.hold _ _ _ h _ hy))
          · split
            · exact finish_canonical (hk.onTrap _ _ _ (wordTrap_canonical h))
            · exact finish_canonical
                (heff _ _ _ _ (observe_canonical (state_canonical (ctlWait_canonical h) hx)))

theorem putS_canonical {v : RegV} {flag : Nat} (h : s.Canonical) : (s.putS t c r v l flag).Canonical := by
  fun_cases State.putS s t c r v l flag <;> exact h

theorem orFlags_canonical {bits : Nat} (h : s.Canonical) : (s.orFlags t e bits).Canonical := by
  fun_cases State.orFlags s t e bits <;> exact h

/-! ### `Sys2Proof/Machine/Access.lean` -/

theorem readAt_canonical {xs : List (Nat × Phys)} (h : s.Canonical) :
    (s.readAt t sp unit a n xs).2.Canonical := by
  fun_cases State.readAt s t sp unit a n xs
  case case3 => exact snd_canonical (freeLine_canonical h) ‹_›
  case case5 => exact snd_canonical (bsLine_canonical h) ‹_›
  case case9 => exact snd_canonical (peerLine_canonical h) ‹_›
  all_goals exact h

theorem readUnit_canonical (h : s.Canonical) : (s.readUnit t sp unit a n).2.Canonical := readAt_canonical h

theorem writeAt_canonical {q : Bool} {xs : List (Nat × Phys)} (h : s.Canonical) :
    (s.writeAt t sp unit a bs q xs).Canonical := by
  fun_cases State.writeAt s t sp unit a bs q xs
  case case1 => exact putGranule_canonical h
  case case2 => exact cimPut_canonical h
  case case4 => exact wakeLine_canonical (putGranule_canonical h)
  case case5 => exact bsWrite_canonical h
  case case7 => exact memPut_wf h
  all_goals exact h

theorem writeUnit_canonical {q : Bool} (h : s.Canonical) : (s.writeUnit t sp unit a bs q).Canonical :=
  writeAt_canonical h

theorem readRange_canonical (h : s.Canonical) : (s.readRange t sp unit a n).2.Canonical :=
  foldl_snd_canonical h fun _ _ hs => readUnit_canonical hs

/-! ### `Sys2Proof/Machine/CtlAlu.lean` -/

theorem ctlWrite_canonical {v : State → Nat → Nat → RegV} (h : s.Canonical) :
    CanonicalOut (ctlWrite hd s d l v) :=
  ctlIssue_canonical h (.plain rfl rfl) fun _ _ _ _ hs =>
    ctlNext_canonical (signalIn_canonical (putS_canonical hs))

theorem ctlRRR_canonical {f : Word → Word → Word} (h : s.Canonical) : CanonicalOut (ctlRRR hd s d a b l f) :=
  ctlWrite_canonical h

theorem ctlRR_canonical {f : Word → Word} (h : s.Canonical) : CanonicalOut (ctlRR hd s d a l f) :=
  ctlWrite_canonical h

theorem useDivider_canonical (h : s.Canonical) : (s.useDivider t c).Canonical := h

theorem ctlDivide_canonical {rem : Bool} (h : s.Canonical) : CanonicalOut (ctlDivide rem hd d a b x s) := by
  unfold ctlDivide
  refine ctlIssue_canonical h ⟨fun _ _ _ _ => none_canonical, fun _ _ _ hs => useDivider_canonical hs⟩
    fun t c sig s' hs => ?_
  exact ctlNext_canonical (signalIn_canonical (useDivider_canonical (putS_canonical hs)))

/-! ### `Sys2Proof/Machine/CtlFlow.lean` -/

theorem branch_canonical (h : s.Canonical) : (s.branch t c target l).Canonical := h

theorem linkS_canonical {v : RegV} (h : s.Canonical) : (s.linkS t c r target v).Canonical := by
  fun_cases State.linkS s t c r target v
  · exact putS_canonical h
  · exact h

theorem execB_canonical (h : s.Canonical) : CanonicalOut (execB hd cond a off s) :=
  ctlIssue_canonical h (.plain rfl rfl) fun _ _ _ _ hs => signalNow_canonical (ite_canonical hs hs)

theorem execLoop_canonical (h : s.Canonical) : CanonicalOut (execLoop hd a off s) := by
  unfold execLoop
  refine ctlIssue_canonical h (.plain rfl rfl) fun _ _ _ _ hs => ?_
  dsimp only
  split
  · exact branch_canonical (signalIn_canonical (linkS_canonical hs))
  · exact ctlNext_canonical (signalIn_canonical (putS_canonical hs))

theorem finishHend_canonical (h : s.Canonical) : (s.finishHend t c sig).Canonical :=
  updCc_canonical (signalNow_canonical h)

theorem execHend_canonical (h : s.Canonical) : CanonicalOut (execHend hd s) :=
  ctlIssue_canonical h (.plain rfl rfl) fun _ _ _ _ hs => ite_canonical (finishHend_canonical hs) hs

theorem prefixTrap_canonical (h : s.Canonical) : (s.prefixTrap t c cause).Canonical := trap_canonical h

theorem prefixFault_canonical (h : s.Canonical) : (s.prefixFault t e cause).Canonical := by
  fun_cases State.prefixFault s t e cause
  · exact h
  · exact signalNow_canonical h
  · exact h

theorem latchPrefix_canonical {dup : Latch → Bool} {put : Latch → Latch} (h : s.Canonical) :
    CanonicalOut (latchPrefix s dup put) := by
  fun_cases latchPrefix s dup put
  · exact next_canonical (prefixTrap_canonical h)
  · exact next_canonical h
  · exact next_canonical h
  · exact next_canonical (prefixFault_canonical h)
  · exact next_canonical (updEng_canonical (pass_canonical h))

theorem decodeCause_canonical (h : s.Canonical) : (s.decodeCause cause).Canonical := by
  fun_cases State.decodeCause s cause
  · exact prefixTrap_canonical h
  · exact wordTrap_canonical h
  · exact prefixFault_canonical h
  · exact decodeFault_canonical h
  · exact h

/-! ### `Sys2Proof/Machine/CtlSync.lean` -/

theorem ctlLater_canonical {k : CtlChecks} {fl : State → Nat → Nat → Fl} (h : s.Canonical) (hk : k.Keeps) :
    CanonicalOut (ctlLater hd s k fl) :=
  ctlIssue_canonical h hk fun _ _ _ _ hs => ctlNext_canonical (signalIn_canonical hs)

theorem ringPush_canonical (h : s.Canonical) : CanonicalOut (ringPush hd d rs eng s) :=
  ctlIssue_canonical h (.plain rfl rfl) fun _ _ _ _ hs =>
    ctlNext_canonical (putS_canonical (signalIn_canonical hs))

theorem execFork_canonical {routine : Nat} (h : s.Canonical) :
    CanonicalOut (execFork hd eng routine cnt s) := by
  unfold execFork
  exact ctlLater_canonical h (.plain rfl rfl)

theorem pushRing_canonical {ws : List Word} (h : s.Canonical) : (s.pushRing t e ws).Canonical :=
  foldl_canonical h fun _ _ hs => updTile_canonical (put_canonical hs)

theorem ctlSample_canonical {v : Tile → Word} (h : s.Canonical) : CanonicalOut (ctlSample hd s d v) :=
  ctlIssue_canonical h (.plain rfl rfl) fun _ _ _ _ hs =>
    ctlNext_canonical (signalIn_canonical (putS_canonical hs))

theorem sysPut_canonical {reg : Nat} {v : Word} {p : Bool} (h : s.Canonical) :
    (s.sysPut t c reg v p).Canonical := by
  fun_cases State.sysPut s t c reg v p
  case case11 => exact foldl_canonical h fun _ _ hs => ite_canonical hs hs
  all_goals exact h

theorem holdAccess_canonical {w : HeldWhat} (h : s.Canonical) :
    (s.holdAccess col w ctx va kind origin entry).Canonical := by
  fun_cases State.holdAccess s col w ctx va kind origin entry
  · exact h
  · exact hostRecord_canonical h

theorem cwHeld_canonical (h : s.Canonical) : CanonicalOpt (s.cwHeld t c n kind) := by
  rw [State.cwHeld]
  split
  · exact some_canonical (holdAccess_canonical h)
  · exact none_canonical

theorem objIssue_canonical {k : CtlChecks} {eff : Nat → Nat → Nat → Obj → State → State} (h : s.Canonical)
    (hk : k.Keeps) (heff : ∀ i j k l u, u.Canonical → (eff i j k l u).Canonical) :
    CanonicalOut (objIssue hd s kind col foreign idx need k eff) := by
  unfold objIssue
  refine ctlIssue_canonical h (⟨fun _ _ _ hs => ?_, fun _ _ _ hs => hk.onTrap _ _ _ hs⟩) fun _ _ _ _ hs =>
    heff _ _ _ _ _ hs
  split
  · exact cwHeld_canonical hs
  · exact none_canonical

theorem await_canonical {dst : Nat} (h : s.Canonical) : (s.await t c dst sig op l vs).Canonical := h
theorem post_canonical (h : s.Canonical) : (s.post t c sig op l vs).Canonical := h

theorem holdSc_canonical (h : s.Canonical) : (s.holdSc t c sig op order).Canonical := by
  fun_cases State.holdSc s t c sig op order <;> exact h

theorem atLeast_canonical (h : s.Canonical) : (s.atLeast base).2.Canonical := takeFree_canonical h

theorem execSynrd_canonical {cfg : Nat} (h : s.Canonical) :
    CanonicalOut (execSynrd hd d cfg kind col foreign idx s) := by
  unfold execSynrd
  refine objIssue_canonical h (.plain rfl rfl) fun _ _ _ _ _ hs => ?_
  dsimp only
  split
  · exact ctlNext_canonical (signalIn_canonical (putS_canonical hs))
  · exact ctlNext_canonical (signalIn_canonical (putS_canonical hs))
  · split
    · exact ctlNext_canonical (signalIn_canonical (putS_canonical hs))
    · split
      · exact ctlNext_canonical (signalIn_canonical (putS_canonical hs))
      · exact await_canonical (fabricTime_canonical hs)
  · exact await_canonical (atLeast_canonical hs)
  · exact await_canonical (atLeast_canonical hs)

theorem synValue_canonical (h : s.Canonical) : (s.synValue t vs).2.Canonical := by
  fun_cases State.synValue s t vs
  case case5 | case6 => exact snd_canonical (devGet_canonical h) ‹_›
  all_goals exact h

theorem execScrub_canonical {rst : Nat} (h : s.Canonical) :
    CanonicalOut (execScrub hd kind col foreign idx rst s) := by
  unfold execScrub
  refine objIssue_canonical h (.plain rfl rfl) fun _ _ _ _ _ hs => ?_
  dsimp only
  split
  · exact ctlNext_canonical (signalIn_canonical hs)
  · exact ctlNext_canonical (signalIn_canonical hs)
  · exact ite_canonical (ctlNext_canonical (signalIn_canonical hs)) (sendHome_canonical hs)
  · exact post_canonical (takeIn_canonical hs)
  · exact post_canonical (atLeast_canonical hs)

theorem execPoison_canonical (h : s.Canonical) : CanonicalOut (execPoison hd kind col foreign idx cause s) := by
  unfold execPoison
  refine objIssue_canonical h (.plain rfl rfl) fun _ _ _ _ _ hs => ?_
  dsimp only
  split
  · refine ctlNext_canonical (signalIn_canonical (flyTile_canonical ?_))
    exact ite_canonical (releaseSystem_canonical hs) hs
  · refine ctlNext_canonical (signalIn_canonical (flyTile_canonical ?_))
    exact ite_canonical (releaseSystem_canonical hs) hs
  · split
    · refine ctlNext_canonical (signalIn_canonical (flyTile_canonical ?_))
      exact ite_canonical (releaseSystem_canonical hs) hs
    · refine holdSc_canonical (sendHome_canonical (ctlNext_canonical ?_))
      exact ite_canonical (releaseSystem_canonical hs) hs
  · exact holdSc_canonical (post_canonical (takeIn_canonical (ite_canonical (releaseSystem_canonical hs) hs)))
  · exact holdSc_canonical (post_canonical (atLeast_canonical (ite_canonical (releaseSystem_canonical hs) hs)))

theorem binitWide_canonical {home : Nat} (h : s.Canonical) :
    CanonicalOut (binitWide hd slot scope home target s) :=
  ctlIssue_canonical h (.plain rfl rfl) fun _ _ _ _ hs => sendHome_canonical hs

theorem execCwpost_canonical (h : s.Canonical) : CanonicalOut (execCwpost hd n a s) := by
  unfold execCwpost
  refine objIssue_canonical h (.plain rfl rfl) fun _ _ _ _ _ hs => ?_
  dsimp only
  exact holdSc_canonical (post_canonical (takeIn_canonical hs))

theorem execCtlFence_canonical (h : s.Canonical) : CanonicalOut (execCtlFence hd s) := by
  unfold execCtlFence
  refine ctlIssue_canonical h (.plain rfl rfl) fun _ _ _ _ hs => signalNow_canonical (ctlNext_canonical ?_)
  exact ite_canonical (releaseSystem_canonical hs) hs

/-! ### `Sys2Proof/Machine/CtlSys.lean` -/

theorem bankWord_canonical {count : Nat} (h : s.Canonical) :
    CanonicalOut (bankWord hd op col foreign first count s) := by
  unfold bankWord
  refine ctlIssue_canonical h (.plain rfl rfl) fun _ _ _ _ hs => ?_
  extract_lets
  split
  · exact signalNow_canonical hs
  · split
    next hx =>
    refine post_canonical (snd_canonical ?_ hx)
    split
    · exact atLeast_canonical hs
    · exact takeIn_canonical hs

theorem execBspset_canonical (h : s.Canonical) : CanonicalOut (execBspset hd d n s) := by
  unfold execBspset
  refine ctlIssue_canonical h (.plain rfl rfl) fun _ _ _ _ hs => ?_
  dsimp only
  refine post_canonical (putS_canonical (updContext_canonical (zeroWays_canonical ?_)))
  split
  · exact hs
  · exact takeIn_canonical hs

theorem execLaunch_canonical {cwen cw : Nat} (h : s.Canonical) :
    CanonicalOut (execLaunch hd sheaf cwen cw s) := by
  unfold execLaunch
  refine ctlIssue_canonical h (.plain rfl rfl) fun _ _ _ _ hs => ?_
  dsimp only
  exact holdSc_canonical (flyDev_canonical (ctlNext_canonical (atLeast_canonical hs)))

theorem tileWord_canonical {arg : Nat} (h : s.Canonical) : CanonicalOut (tileWord hd op row col arg s) := by
  unfold tileWord
  refine ctlIssue_canonical h (.plain rfl rfl) fun _ _ _ _ hs => ?_
  dsimp only
  exact post_canonical (takeIn_canonical hs)

theorem slotChecks_keeps {saved : Bool} : (slotChecks row col saved).Keeps :=
  .of_hold fun _ _ _ h => by
    split
    · exact some_canonical (holdAccess_canonical h)
    · exact none_canonical

theorem slotWord_canonical {saved : Bool} (h : s.Canonical) :
    CanonicalOut (slotWord hd op row col full saved s) := by
  unfold slotWord
  refine ctlIssue_canonical h slotChecks_keeps fun _ _ _ _ hs => ?_
  dsimp only
  exact post_canonical (atLeast_canonical hs)

theorem execCtxkill_canonical (h : s.Canonical) : CanonicalOut (execCtxkill hd cause s) := by
  unfold execCtxkill
  refine ctlIssue_canonical h (.plain rfl rfl) fun _ _ _ _ hs => ?_
  dsimp only
  exact post_canonical (atLeast_canonical hs)

theorem tldHold_canonical (h : s.Canonical) : CanonicalOpt (tldHold a b s t c) := by
  fun_cases tldHold a b s t c
  · exact none_canonical
  · exact some_canonical (holdAccess_canonical h)
  · exact none_canonical

theorem execTld_canonical (h : s.Canonical) : CanonicalOut (execTld hd d a b s) := by
  unfold execTld
  refine ctlIssue_canonical h ⟨fun _ _ _ hs => tldHold_canonical hs, fun _ _ _ hs => hs⟩ fun _ _ _ _ hs => ?_
  dsimp only
  exact await_canonical (atLeast_canonical hs)

theorem execTrde_canonical (h : s.Canonical) : CanonicalOut (execTrde hd d a b x s) := by
  unfold execTrde
  refine ctlIssue_canonical h (.plain rfl rfl) fun _ _ _ _ hs => ?_
  dsimp only
  exact await_canonical (atLeast_canonical hs)

theorem execTmap_canonical (h : s.Canonical) : CanonicalOut (execTmap hd d a b s) := by
  unfold execTmap
  refine ctlIssue_canonical h (.plain rfl rfl) fun _ _ _ _ hs => ?_
  dsimp only
  exact await_canonical (atLeast_canonical hs)

theorem execTunmap_canonical (h : s.Canonical) : CanonicalOut (execTunmap hd d a st ret s) := by
  unfold execTunmap
  refine ctlIssue_canonical h (.plain rfl rfl) fun _ _ _ _ hs => ?_
  dsimp only
  exact await_canonical (atLeast_canonical hs)

theorem execTshd_canonical {sys : Nat} (h : s.Canonical) : CanonicalOut (execTshd hd d a b sys inv s) := by
  unfold execTshd
  refine ctlIssue_canonical h (.plain rfl rfl) fun _ _ _ _ hs => ?_
  dsimp only
  exact await_canonical (atLeast_canonical hs)

theorem spillChecks_keeps : (spillChecks f l off need).Keeps :=
  .of_hold fun _ _ _ h => by
    split
    · exact some_canonical (holdAccess_canonical h)
    · exact none_canonical

theorem execTspill_canonical (h : s.Canonical) : CanonicalOut (execTspill hd f l off s) := by
  unfold execTspill
  refine ctlIssue_canonical h spillChecks_keeps fun _ _ _ _ hs => ?_
  dsimp only
  exact await_canonical (atLeast_canonical hs)

theorem execTfill_canonical (h : s.Canonical) : CanonicalOut (execTfill hd f l off s) := by
  unfold execTfill
  refine ctlIssue_canonical h spillChecks_keeps fun _ _ _ _ hs => ?_
  dsimp only
  exact await_canonical (atLeast_canonical hs)

theorem execStest_canonical (h : s.Canonical) : CanonicalOut (execStest hd d eng part s) := by
  unfold execStest
  refine ctlIssue_canonical h (.plain rfl rfl) fun _ _ _ _ hs => ?_
  dsimp only
  exact updTile_canonical (flyTile_canonical (updCc_canonical (ctlNext_canonical (takeIn_canonical hs))))

theorem execErrrdSt_canonical (h : s.Canonical) : CanonicalOut (execErrrdSt hd d clr s) := by
  unfold execErrrdSt
  refine ctlIssue_canonical h (.plain rfl rfl) fun _ _ _ _ hs => ?_
  split
  · exact updTile_canonical (ctlNext_canonical (signalIn_canonical (putS_canonical hs)))
  · exact ctlNext_canonical (signalIn_canonical (putS_canonical hs))

/-! ### `Sys2Proof/Machine/AccAlu.lean` -/

theorem accWrite_canonical {v : State → Nat → RegV} (h : s.Canonical) : CanonicalOut (accWrite hd s d l rs v) :=
  engIssue_canonical h (.plain rfl) fun _ _ _ hs => signalIn_canonical hs

theorem accRRR_canonical {f : Word → Word → Word} (h : s.Canonical) : CanonicalOut (accRRR hd s d a b l f) :=
  accWrite_canonical h

theorem accRR_canonical {f : Word → Word} (h : s.Canonical) : CanonicalOut (accRR hd s d a l f) :=
  accWrite_canonical h

theorem accDerive_canonical {f : Cap → Nat → Cap} (h : s.Canonical) :
    CanonicalOut (accDerive hd d a b f s) := by
  unfold accDerive
  refine engIssue_canonical h (.plain rfl) fun _ _ _ hs => ?_
  dsimp only
  split
  · exact execFault_canonical hs
  · split
    · exact execFault_canonical hs
    · exact ite_canonical (execFault_canonical hs) (signalIn_canonical hs)

theorem qdropStep_canonical (h : s.Canonical) : (s.qdropStep t q n sig).Canonical := by
  unfold State.qdropStep
  dsimp only
  split
  · exact ite_canonical (signalNow_canonical h) h
  · split <;> exact ite_canonical (signalNow_canonical h) h

theorem execRdset_canonical (h : s.Canonical) : CanonicalOut (execRdset hd eng a s) :=
  engIssue_canonical h (.plain rfl) fun _ _ _ hs => ite_canonical (execFault_canonical hs) hs

theorem rdsetStep_canonical {v : Word} (h : s.Canonical) : (s.rdsetStep t e v sig).Canonical := by
  fun_cases State.rdsetStep s t e v sig
  · exact h
  · exact signalNow_canonical h

theorem dropL1_canonical {hit : Nat → Bool} (h : s.Canonical) : (s.dropL1 t hit).Canonical := h

theorem orderDone_canonical (h : s.Canonical) : (s.orderDone t scope order).Canonical := by
  unfold State.orderDone
  dsimp only
  split
  · exact releaseSystem_canonical (ite_canonical (ite_canonical h h) h)
  · exact ite_canonical (ite_canonical h h) h

theorem tellCim_canonical (h : s.Canonical) : (s.tellCim t).Canonical := h

theorem markStep_canonical {last : Nat} (h : s.Canonical) : (s.markStep t sig scope order last).Canonical := by
  fun_cases State.markStep s t sig scope order last
  · exact h
  · exact signalNow_canonical (updEng_canonical
      (orderDone_canonical (tellCim_canonical (ite_canonical (releaseSystem_canonical h) h))))

theorem acquireL1_canonical (h : s.Canonical) : (s.acquireL1 t scope order).Canonical := by
  fun_cases State.acquireL1 s t scope order <;> exact h

/-! ### `Sys2Proof/Machine/AccMem.lean` -/

theorem accIssue_canonical {k : AccWord} {eff : Nat → Nat → State → State} (h : s.Canonical)
    (heff : ∀ i j u, u.Canonical → (eff i j u).Canonical) : CanonicalOut (accIssue hd s k eff) := by
  unfold accIssue
  extract_lets held
  have hheld (b : Bool) (u : State) (t : Nat) (hu : u.Canonical) : CanonicalOpt (held b u t) := by
    unfold held
    extract_lets check
    have hcheck : CanonicalOpt (check u) := by
      unfold check
      split
      · exact some_canonical (holdAccess_canonical hu)
      · exact none_canonical
    split
    · exact hcheck
    · split
      · exact some_canonical hu
      · split
        · exact some_canonical hu
        · exact hcheck
  refine engIssue_canonical h hheld fun _ _ _ hs => ?_
  split
  · exact execFault_canonical hs
  · exact heff _ _ _ hs

theorem send_canonical {a : Access} (h : s.Canonical) : (s.send a).Canonical :=
  flyDev_canonical (acquireL1_canonical h)

theorem queueLoad_canonical {regs sinks : List Nat} {indexed : Bool} {list : State → Nat → Option Xl}
    {rows : State → Nat → List RowAt} (h : s.Canonical) :
    CanonicalOut (queueLoad hd op q c regs sinks indexed list rows s) :=
  accIssue_canonical h fun _ _ _ hs => send_canonical hs

theorem queueStore_canonical {regs sinks : List Nat} {indexed : Bool} {list : State → Nat → Option Xl}
    {rows : State → Nat → List RowAt} (h : s.Canonical) :
    CanonicalOut (queueStore hd op q c regs sinks indexed list rows s) :=
  accIssue_canonical h fun _ _ _ hs => send_canonical hs

theorem scalarLoad_canonical (h : s.Canonical) : CanonicalOut (scalarLoad hd op n d a imm s) := by
  unfold scalarLoad
  refine accIssue_canonical h fun _ _ _ hs => ?_
  dsimp only
  split
  · exact send_canonical hs
  · split
    · exact signalIn_canonical (flyTile_canonical (takeFree_canonical hs))
    · exact send_canonical (dropL1_canonical (takeFree_canonical hs))

theorem scalarStore_canonical (h : s.Canonical) : CanonicalOut (scalarStore hd op n d a imm s) :=
  accIssue_canonical h fun _ _ _ hs => send_canonical hs

theorem atomic_canonical (h : s.Canonical) : CanonicalOut (atomic hd op d a b w u s) := by
  unfold atomic
  refine accIssue_canonical h fun _ _ _ hs => send_canonical ?_
  split <;> exact hs

theorem execMwait_canonical (h : s.Canonical) : CanonicalOut (execMwait hd d a b k s) :=
  accIssue_canonical h fun _ _ _ hs => send_canonical hs

theorem sendPut_canonical {cs cd so dof : Nat} {sem : Option Nat} {handler : Nat} {arg : Word} (h : s.Canonical) :
    (s.sendPut hd t kind cs cd so dof n op ty sem handler arg sig).Canonical :=
  flyDev_canonical (acquireL1_canonical h)

theorem dequeWord_canonical {dq : Nat} (h : s.Canonical) :
    CanonicalOut (dequeWord hd op dq v st col foreign s) :=
  engIssue_canonical h (.plain rfl) fun _ _ _ hs => send_canonical hs

theorem execPref_canonical {index scale disp : Nat} (h : s.Canonical) :
    CanonicalOut (execPref hd q c index scale disp s) := by
  unfold execPref
  refine engIssue_canonical h (.plain rfl) fun _ _ _ hs => signalIn_canonical ?_
  split
  · exact hs
  · exact send_canonical hs

/-! ### `Sys2Proof/Machine/AccUnit.lean` -/

theorem refly_canonical {fl : Fl} (h : s.Canonical) : (s.refly id due fl).Canonical := h

theorem leaveL1_canonical {a : Access} (h : s.Canonical) : (s.leaveL1 a va).Canonical := by
  fun_cases State.leaveL1 s a va <;> exact h

theorem readThroughL1_canonical {a : Access} (h : s.Canonical) : (s.readThroughL1 a va).2.Canonical := by
  unfold State.readThroughL1
  split
  next hx =>
  split
  · split
    · exact leaveL1_canonical (snd_canonical (readAt_canonical h) hx)
    · exact updTile_canonical (snd_canonical (readAt_canonical h) hx)
  · exact snd_canonical (readAt_canonical h) hx

theorem prefetchLines_canonical (h : s.Canonical) : (s.prefetchLines t va n).Canonical := by
  unfold State.prefetchLines
  refine foldl_canonical h fun _ _ hs => ?_
  dsimp only
  split
  · exact bsLine_canonical hs
  · exact hs

theorem prefetch_canonical (h : s.Canonical) : (s.prefetch t va).Canonical := prefetchLines_canonical h

theorem dequeOp_canonical {a : Access} (h : s.Canonical) : (s.dequeOp a).2.Canonical := by
  fun_cases State.dequeOp s a <;> exact h

theorem atomicOp_canonical {a : Access} (h : s.Canonical) : (s.atomicOp a va).2.Canonical := by
  fun_cases State.atomicOp s a va
  · exact snd_canonical (readAt_canonical h) ‹_›
  · exact snd_canonical (readAt_canonical h) ‹_›
  · exact writeAt_canonical (snd_canonical (readAt_canonical h) ‹_›)

theorem performPiece_canonical {a : Access} {k : Nat × Nat} (h : s.Canonical) :
    (s.performPiece a k).2.Canonical := by
  unfold State.performPiece
  extract_lets a1 s1 sw n sx r s2
  have h1 : s1.Canonical := by
    unfold s1
    exact ite_canonical (releaseSystem_canonical h) h
  have hr : r.2.Canonical := by
    unfold r
    clear_value s1 a1
    split
    · exact dequeOp_canonical h1
    · split
      · split
        · exact pair_canonical (prefetch_canonical h1)
        · exact pair_canonical (readThroughL1_canonical h1)
      · split
        · split
          next hx => exact pair_canonical (leaveL1_canonical (snd_canonical (readAt_canonical h1) hx))
        · split
          · split
            next hx =>
            refine snd_canonical ?_ hx
            split
            · exact readThroughL1_canonical h1
            · exact readAt_canonical h1
          · split
            · dsimp only
              exact readUnit_canonical h1
            · split
              · exact pair_canonical (Canonical_of_mem (writeUnit_canonical h1) rfl)
              · split
                · exact atomicOp_canonical h1
                · split
                  · dsimp only
                    exact readAt_canonical h1
                  · split
                    · exact h1
                    · exact pair_canonical (writeAt_canonical h1)
  split
  · split
    · exact writeBack_canonical hr
    · exact hr
  · exact hr

theorem performSome_canonical {a : Access} (h : s.Canonical) : (State.performSome n id a s).2.Canonical := by
  have free {s u : State} {n : Nat} (hs : s.Canonical) (e : takeFree s = (n, u)) : u.Canonical :=
    snd_canonical (takeFree_canonical hs) e
  fun_induction State.performSome n id a s
  · exact h
  · next hx _ => exact free h hx
  · next hx _ _ _ => exact free h hx
  · next hx _ _ _ _ _ _ ih => exact ih (free h hx)
  · next hx _ _ _ _ _ _ _ _ hp ih => exact ih (snd_canonical (performPiece_canonical (free h hx)) hp)

theorem mwaitStep_canonical {a : Access} (h : s.Canonical) : (s.mwaitStep id a).Canonical := by
  unfold State.mwaitStep
  split
  · dsimp only
    split
    · exact h
    · split <;> exact ite_canonical h h
  · exact h

theorem lateFault_canonical {grp : List RWord} (h : s.Canonical) :
    (s.lateFault t cause tval sig grp).Canonical :=
  signalNow_canonical (stopUnit_canonical h)

theorem accessFault_canonical {a : Access} (h : s.Canonical) : (s.accessFault id a cause va).Canonical :=
  lateFault_canonical (ite_canonical (unhold_canonical (ite_canonical h h)) (ite_canonical h h))

theorem accSignal_canonical {a : Access} (h : s.Canonical) : (s.accSignal a).Canonical := signalNow_canonical h

theorem accessEnd_canonical {a : Access} (h : s.Canonical) : (s.accessEnd id a).Canonical := by
  have free {u : State} {n : Nat}
    (e : (if a.space = 3 then takeFree (s.land id) else (0, s.land id)) = (n, u)) :
      u.Canonical := snd_canonical (by split <;> exact h) e
  fun_cases State.accessEnd s id a
  · exact accessFault_canonical (free ‹_›)
  · exact accSignal_canonical
      (ite_canonical (updTile_canonical (updTile_canonical (free ‹_›))) (updTile_canonical (free ‹_›)))
  · exact accSignal_canonical (free ‹_›)
  · exact accSignal_canonical
      (ite_canonical (updEng_canonical (free ‹_›)) (updTile_canonical (updEng_canonical (free ‹_›))))
  case case8 => exact accSignal_canonical (free ‹_›)
  all_goals exact accSignal_canonical (updTile_canonical (free ‹_›))

theorem accessTurn_canonical {a : Access} (h : s.Canonical) : (s.accessTurn id a).Canonical := by
  have perform {n m : Nat} {a b : Access} {u v : State} (hu : takeFree s = (n, u))
    (hv : State.performSome m id a u = (b, v)) :
      v.Canonical := snd_canonical (performSome_canonical (snd_canonical (takeFree_canonical h) hu)) hv
  fun_cases State.accessTurn s id a
  case case1 => exact signalNow_canonical (orderDone_canonical (land_canonical (ite_canonical h h)))
  case case5 => exact accessFault_canonical h
  case case6 => exact holdAccess_canonical h
  case case7 => exact refly_canonical (perform ‹_› ‹_›)
  case case8 => exact mwaitStep_canonical (perform ‹_› ‹_›)
  case case9 => exact land_canonical (perform ‹_› ‹_›)
  case case10 => exact refly_canonical (snd_canonical (takeFree_canonical (perform ‹_› ‹_›)) ‹_›)
  case case13 => exact accessEnd_canonical h
  all_goals exact h

theorem execAccessResponse_canonical (h : s.Canonical) : CanonicalOut (execAccessResponse id s) := by
  fun_cases execAccessResponse id s
  · exact finish_canonical (accessTurn_canonical h)
  · exact finish_canonical h
  · exact finish_canonical h

theorem execMonitorWake_canonical (h : s.Canonical) : CanonicalOut (execMonitorWake t v s) := by
  unfold execMonitorWake
  (repeat' split) <;> exact finish_canonical h

theorem execMwaitTimeout_canonical (h : s.Canonical) : CanonicalOut (execMwaitTimeout t s) := by
  fun_cases execMwaitTimeout t s
  · exact finish_canonical (signalNow_canonical h)
  · exact finish_canonical h

theorem mwaitAgain_canonical (h : s.Canonical) : (s.mwaitAgain t).Canonical := by
  fun_cases State.mwaitAgain s t
  · exact flyDev_canonical (acquireL1_canonical h)
  · exact h

theorem deliver_canonical {p : Put} (h : s.Canonical) : (s.deliver p i).Canonical := by
  fun_cases State.deliver s p i
  · exact h
  · exact putGranule_canonical h
  · exact putGranule_canonical h

theorem putComplete_canonical {p : Put} (h : s.Canonical) : (s.putComplete id p).Canonical := by
  unfold State.putComplete
  refine refly_canonical (takeFree_canonical ?_)
  split
  · refine updTile_canonical ?_
    split <;> exact h
  · split <;> exact h

theorem putTurn_canonical {p : Put} (h : s.Canonical) : (s.putTurn id p).Canonical := by
  have hrel : (if isRel p.order && p.scope == 3 then s.releaseSystem (s.tile p.t).ctx else s).Canonical :=
    ite_canonical (releaseSystem_canonical h) h
  have free {s u : State} {n : Nat} (hs : s.Canonical) (e : takeFree s = (n, u)) : u.Canonical :=
    snd_canonical (takeFree_canonical hs) e
  fun_cases State.putTurn s id p
  · exact h
  · exact h
  · exact signalNow_canonical h
  · exact signalNow_canonical h
  · exact h
  · exact h
  · exact h
  · exact h
  · exact h
  · next hx _ _ _ => exact lateFault_canonical (land_canonical (free hrel hx))
  · next hx _ _ _ _ _ _ _ hy _ _ _ _ =>
    exact refly_canonical (foldl_canonical (free (free hrel hx) hy) fun _ _ hs => deliver_canonical hs)
  · next hx _ _ _ _ _ _ _ hy _ _ _ _ =>
    exact putComplete_canonical (foldl_canonical (free (free hrel hx) hy) fun _ _ hs => deliver_canonical hs)

theorem putEvent_canonical (h : s.Canonical) : (s.putEvent id).Canonical := by
  fun_cases State.putEvent s id
  · exact putTurn_canonical h
  · exact h
  · exact h

/-! ### `Sys2Proof/Machine/Operands.lean` -/

theorem putV_canonical {m : MReg} {v : VVal} {flags : Nat} (h : s.Canonical) :
    (s.putV t d l m v flags).Canonical := by
  fun_cases State.putV s t d l m v flags <;> exact h

theorem vecIssue_canonical {ds : List Nat} {eff : Nat → Tile → State → State} (h : s.Canonical)
    (heff : ∀ i j u, u.Canonical → (eff i j u).Canonical) : CanonicalOut (vecIssue hd s rs ds l eff) :=
  engIssue_canonical h (.plain rfl) fun _ _ _ hs => signalIn_canonical (heff _ _ _ hs)

theorem vecWord_canonical {f : List VReg → Nat → Nat → Nat × Nat} (h : s.Canonical) :
    CanonicalOut (vecWord hd s d rs l f) :=
  vecIssue_canonical h fun _ _ _ hs => putV_canonical hs

theorem vecLane_canonical {f : List Nat → Nat × Nat} (h : s.Canonical) : CanonicalOut (vecLane hd s d rs l f) :=
  vecWord_canonical h

theorem vecWhole_canonical {f : (Nat → Nat → Bool) → List VReg → VReg × Nat} (h : s.Canonical) :
    CanonicalOut (vecWhole hd s d rs l f) :=
  vecIssue_canonical h fun _ _ _ hs => putV_canonical hs

/-! ### `Sys2Proof/Machine/VecAlu.lean` -/

theorem vecFloat_canonical {f : List FV → FX} (h : s.Canonical) :
    CanonicalOut (vecFloat hd s d rs l ty rnd sat f) :=
  vecLane_canonical h

theorem vecInt_canonical {f : List Int → Int} (h : s.Canonical) : CanonicalOut (vecInt hd s d rs l ty sat f) :=
  vecLane_canonical h

theorem vecToMask_canonical {f : List Nat → Bool × Nat} (h : s.Canonical) :
    CanonicalOut (vecToMask hd s d rs l f) :=
  vecIssue_canonical h fun _ _ _ hs => hs

/-! ### `Sys2Proof/Machine/VecMove.lean` -/

theorem maskWord_canonical {f : List MReg → MReg} (h : s.Canonical) : CanonicalOut (maskWord hd s d rs f) :=
  vecIssue_canonical h fun _ _ _ hs => hs

theorem vecMove_canonical {f : List VReg → Nat → Nat → Nat} (h : s.Canonical) :
    CanonicalOut (vecMove hd s d rs l f) :=
  vecWord_canonical h

theorem execVloop_canonical (h : s.Canonical) : CanonicalOut (execVloop hd cnt off s) := by
  fun_cases execVloop hd cnt off s
  · exact finish_canonical (decodeFault_canonical h)
  · exact engIssue_canonical h (.plain rfl) fun _ _ _ hs => signalNow_canonical (ite_canonical hs hs)
  · exact finish_canonical (decodeFault_canonical h)

/-! ### `Sys2Proof/Machine/Mtx.lean` -/

theorem mtxFlags_canonical (h : s.Canonical) : (s.mtxFlags t win fl).Canonical := by
  fun_cases State.mtxFlags s t win fl
  · exact h
  · exact orFlags_canonical h
  · exact orFlags_canonical h

theorem mtxDone_canonical (h : s.Canonical) : (s.mtxDone t win k sig).Canonical := by
  fun_cases State.mtxDone s t win k sig
  · exact h
  · exact signalNow_canonical h
  · exact signalNow_canonical h

theorem closeWindow_canonical (h : s.Canonical) : (s.closeWindow t).Canonical := by
  fun_cases State.closeWindow s t
  · exact h
  · exact foldl_canonical (orFlags_canonical h) fun _ _ hs => signalNow_canonical hs

theorem enterWindow_canonical {stay : Option (Int × Int)} (h : s.Canonical) :
    (s.enterWindow t sig stay).2.Canonical := by
  fun_cases State.enterWindow s t sig stay
  · exact h
  · exact h
  · exact closeWindow_canonical h

theorem mtxIssue_canonical {busy : State → Nat → Bool} {stay : Option (Int × Int)}
    {eff : Nat → Nat → Tile → State → State} (h : s.Canonical)
    (heff : ∀ i j k u, u.Canonical → (eff i j k u).Canonical) :
    CanonicalOut (mtxIssue hd s busy stay l eff) := by
  unfold mtxIssue
  refine engIssue_canonical h (.plain rfl) fun _ _ _ hs => ?_
  split
  next hx =>
  split
  · exact heff _ _ _ _ (snd_canonical (enterWindow_canonical hs) hx)
  · exact flyTile_canonical (heff _ _ _ _ (snd_canonical (enterWindow_canonical hs) hx))

theorem mtxDec_canonical {bad : Bool} {go : Out} (h : s.Canonical) (hgo : CanonicalOut go) :
    CanonicalOut (mtxDec s bad go) := by
  fun_cases mtxDec s bad go
  · exact finish_canonical (decodeFault_canonical h)
  · exact hgo

theorem mgoWord_canonical {nest : Bool} {g : MgoArgs} (h : s.Canonical) :
    CanonicalOut (mgoWord hd nest g s) := by
  unfold mgoWord
  refine engIssue_canonical h (.plain rfl) fun _ _ _ hs => ?_
  split
  · exact execFault_canonical hs
  · split
    next hx =>
    dsimp only
    split
    · exact snd_canonical (enterWindow_canonical hs) hx
    · exact updEng_canonical (updTile_canonical (snd_canonical (enterWindow_canonical hs) hx))

theorem matrixStep_canonical (h : s.Canonical) : (s.matrixStep t).Canonical := by
  fun_cases State.matrixStep s t <;> exact h

theorem stepLands_canonical {rows : Nat} {adds : List Tile32} {p : Bool} (h : s.Canonical) :
    (s.stepLands t r rows win adds p fl).Canonical :=
  mtxFlags_canonical h

theorem execMtzero_canonical (h : s.Canonical) : CanonicalOut (execMtzero hd d n s) := by
  unfold execMtzero
  exact mtxIssue_canonical h fun _ _ _ _ hs => foldl_canonical hs fun _ _ ht => ht

theorem accWord_canonical {srcs : List Nat} {f : List Nat → Nat × Nat} (h : s.Canonical) :
    CanonicalOut (accWord hd d srcs f s) := by
  unfold accWord
  exact mtxIssue_canonical h fun _ _ _ _ hs => hs

theorem execMrstat_canonical (h : s.Canonical) : CanonicalOut (execMrstat hd d clr s) :=
  mtxIssue_canonical h fun _ _ _ _ hs => ite_canonical hs hs

theorem endWindow_canonical (h : s.Canonical) : (s.endWindow t sig).Canonical := by
  fun_cases State.endWindow s t sig
  · exact signalNow_canonical h
  · exact signalNow_canonical (closeWindow_canonical h)
  · exact fly_canonical (closeWindow_canonical h)

theorem execNop_canonical (h : s.Canonical) : CanonicalOut (execNop hd s) := by
  fun_cases execNop hd s
  · exact ctlIssue_canonical h (.plain rfl rfl) fun _ _ _ _ hs => signalNow_canonical hs
  · exact mtxIssue_canonical h fun _ _ _ _ hs => hs
  · exact engIssue_canonical h (.plain rfl) fun _ _ _ hs => signalNow_canonical (ite_canonical hs hs)

/-! ### `Sys2Proof/Machine/Xbr.lean` -/

theorem updArray_canonical {f : XArray → XArray} (h : s.Canonical) : (s.updArray t a f).Canonical := h

theorem xconfig_canonical {bad : Tile → Option Nat} {fl : Nat → Tile → Fl} (h : s.Canonical) :
    CanonicalOut (xconfig hd a n bad fl s) := by
  unfold xconfig
  refine engIssue_canonical h (.plain rfl) fun _ _ _ hs => ?_
  split
  · exact execFault_canonical hs
  · exact signalIn_canonical hs

theorem xbrDec_canonical {bad : Bool} {go : Out} (h : s.Canonical) (hgo : CanonicalOut go) :
    CanonicalOut (xbrDec s bad go) := by
  fun_cases xbrDec s bad go
  · exact finish_canonical (decodeFault_canonical h)
  · exact hgo

theorem tableEffect_canonical (h : s.Canonical) : (s.tableEffect t op vs).Canonical := by
  fun_cases State.tableEffect s t op vs
  · exact h
  · exact foldl_canonical h fun _ _ hs => hs
  · exact h
  · exact h
  · exact foldl_canonical h fun _ _ hs => hs
  · exact foldl_canonical h fun _ _ hs => hs

theorem mvmWord_canonical {acc : Bool} {g o inoff outoff nvec vm : Nat} (h : s.Canonical) :
    CanonicalOut (mvmWord acc hd g i o inoff outoff nvec route vm s) := by
  unfold mvmWord
  refine engIssue_canonical h (.plain rfl) fun _ _ _ hs => ?_
  split
  · exact execFault_canonical hs
  · exact hs

theorem xbrFault_canonical {grp : List RWord} (h : s.Canonical) : (s.xbrFault t cause tval sig grp).Canonical :=
  signalNow_canonical (stopUnit_canonical h)

theorem setXcmd_canonical {c : XCmd} (h : s.Canonical) : (s.setXcmd t k c).Canonical := h
theorem dropXcmd_canonical (h : s.Canonical) : (s.dropXcmd t k).Canonical := h

theorem countOps_canonical {arrays routes : List Nat} (h : s.Canonical) :
    (s.countOps t arrays routes).2.Canonical := by
  unfold State.countOps
  refine foldl_snd_canonical h fun _ _ hs => ?_
  split
  · exact hs
  · dsimp only
    (repeat' split) <;> exact hs

theorem xcmdStart_canonical {c : XCmd} (h : s.Canonical) : (s.xcmdStart t k c).Canonical := by
  unfold State.xcmdStart
  split
  · exact xbrFault_canonical h
  · dsimp only
    refine setXcmd_canonical ?_
    split
    · exact h
    · exact countOps_canonical h

theorem arrayOut_canonical {A : XArray} {x : List Nat} (h : s.Canonical) :
    (s.arrayOut A route e x).2.Canonical := by
  unfold State.arrayOut
  split
  next hx =>
  split
  next hy =>
  split
  · exact snd_canonical (takeFree_canonical (snd_canonical h hx)) hy
  · exact snd_canonical (takeFree_canonical (snd_canonical h hx)) hy

theorem analogue_canonical {c : XCmd} {x : List Nat} (h : s.Canonical) : (s.analogue t c i x).2.Canonical :=
  arrayOut_canonical h

theorem landRow_canonical {c : XCmd} {shs : FM Shadow} (h : s.Canonical) :
    (s.landRow t k c shs v).Canonical := by
  unfold State.landRow
  refine setXcmd_canonical (foldl_canonical (foldl_snd_canonical h fun _ _ hs => ?_) fun _ _ hs =>
    foldl_canonical ?_ fun _ _ ht => putGranule_canonical ht)
  · split
    · exact hs
    · dsimp only
      split
      · exact analogue_canonical hs
      · exact orFlags_canonical (updTile_canonical (analogue_canonical hs))
  · split <;> exact ite_canonical (orFlags_canonical hs) hs

theorem xcmdEnd_canonical (h : s.Canonical) : (s.xcmdEnd t k).Canonical := by
  unfold State.xcmdEnd
  split
  · exact h
  · split
    · exact h
    · refine signalNow_canonical ?_
      split <;> exact h

theorem vectorLands_canonical (h : s.Canonical) : (s.vectorLands t k).Canonical := by
  unfold State.vectorLands
  split
  · exact h
  · split
    · exact h
    · refine xcmdEnd_canonical ?_
      split
      · exact landRow_canonical h
      · exact h

theorem devLine_canonical {o : (List (List Nat) × List Bool) × State} (ho : o.2.Canonical) :
    (devLine ctx col va o i).2.Canonical := by
  fun_cases devLine ctx col va o i
  · exact snd_canonical (bsLine_canonical ho) ‹_›
  · exact ho

theorem devRead_canonical (h : s.Canonical) : (s.devRead ctx col va n).2.Canonical := by
  fun_cases State.devRead s ctx col va n
  · exact h
  · exact foldl_snd_canonical h fun _ _ hs => devLine_canonical hs

theorem xbrRead_canonical (h : s.Canonical) : (s.xbrRead t va n).2.Canonical := devRead_canonical h

theorem shadowsOf_canonical {as : List Nat} (h : s.Canonical) : (s.shadowsOf ctx col t as).2.Canonical := by
  unfold State.shadowsOf
  refine foldl_snd_canonical h fun _ _ hs => ?_
  split
  · exact hs
  · dsimp only
    split
    · next hx => exact snd_canonical (devRead_canonical hs) hx
    · next hx => exact snd_canonical (devRead_canonical hs) hx

theorem readShadows_canonical {as : List Nat} (h : s.Canonical) : (s.readShadows t as).2.Canonical :=
  shadowsOf_canonical h

theorem digitalStep_canonical (h : s.Canonical) : (s.digitalStep t k).Canonical := by
  have read {as : List Nat} {e : _} {u : State} (hu : s.readShadows t as = (e, u)) : u.Canonical :=
    snd_canonical (readShadows_canonical h) hu
  fun_cases State.digitalStep s t k
  case case5 => exact holdAccess_canonical (read ‹_›)
  case case6 => exact xbrFault_canonical (dropXcmd_canonical (read ‹_›))
  case case7 => exact read ‹_›
  case case8 =>
    refine xcmdEnd_canonical (foldl_canonical (setXcmd_canonical (read ‹_›)) fun _ _ hs => ?_)
    split
    · exact landRow_canonical hs
    · exact hs
  all_goals exact h

theorem poisonOutputs_canonical {c : XCmd} (h : s.Canonical) : (s.poisonOutputs t c a).Canonical :=
  foldl_canonical h fun _ _ hs => foldl_canonical hs fun _ _ ht => foldl_canonical ht fun _ _ hu => hu

theorem auditEnds_canonical {c : XCmd} (h : s.Canonical) : (s.auditEnds t k c a).Canonical := by
  have read {va n : Nat} {e : _} {u : State} (hu : s.xbrRead t va n = (e, u)) : u.Canonical :=
    snd_canonical (xbrRead_canonical h) hu
  fun_cases State.auditEnds s t k c a
  · exact holdAccess_canonical (read ‹_›)
  · exact xcmdEnd_canonical (setXcmd_canonical (read ‹_›))
  · exact read ‹_›
  · exact xcmdEnd_canonical (setXcmd_canonical (read ‹_›))
  · exact xcmdEnd_canonical (setXcmd_canonical
      (ite_canonical (poisonOutputs_canonical (updArray_canonical (read ‹_›))) (updArray_canonical (read ‹_›))))

theorem auditStep_canonical (h : s.Canonical) : (s.auditStep t k).Canonical := by
  fun_cases State.auditStep s t k
  · exact h
  · exact h
  · exact auditEnds_canonical h

theorem execAuditOverdue_canonical (h : s.Canonical) : CanonicalOut (execAuditOverdue t s) := by
  fun_cases execAuditOverdue t s
  · exact finish_canonical (auditStep_canonical h)
  · exact finish_canonical h

theorem statusWordX_canonical {bad : Tile → Bool} (h : s.Canonical) :
    CanonicalOut (statusWordX hd op a vs bad s) := by
  unfold statusWordX
  refine engIssue_canonical h (.plain rfl) fun _ _ _ hs => ?_
  exact ite_canonical (execFault_canonical hs) (signalIn_canonical hs)

theorem statusEffect_canonical (h : s.Canonical) : (s.statusEffect t op vs).Canonical := by
  fun_cases State.statusEffect s t op vs <;> exact h

/-! ### `Sys2Proof/Machine/Cal.lean` -/

theorem takeMeans_canonical (h : s.Canonical) : (takeMeans s).2.Canonical := h

theorem calRead_canonical {r : CalRead} (h : s.Canonical) : (s.calRead t a r).2.Canonical := by
  fun_cases State.calRead s t a r
  case case1 => exact h
  all_goals exact snd_canonical (xbrRead_canonical h) ‹_›

theorem calIssue_canonical {priv : Bool} {own : Tile → Option (Nat × Nat)}
    {own2 : List Nat → Tile → Option (Nat × Nat)} {rd : CalRead} {onFail : Nat → Nat → State → State}
    {eff : Nat → Nat → List Nat → State → State} (h : s.Canonical)
    (honFail : ∀ i j u, u.Canonical → (onFail i j u).Canonical)
    (heff : ∀ i j k u, u.Canonical → (eff i j k u).Canonical) :
    CanonicalOut (calIssue hd a n priv own own2 rd onFail eff s) := by
  unfold calIssue
  extract_lets first hold
  have hhold (b : Bool) (u : State) (t : Nat) (hu : u.Canonical) : CanonicalOpt (hold b u t) := by
    unfold hold
    split
    · exact none_canonical
    · split
      · next hx => exact some_canonical (holdAccess_canonical (snd_canonical (calRead_canonical hu) hx))
      · exact none_canonical
  refine engIssue_canonical h hhold fun _ _ _ hs => ?_
  split
  · exact execFault_canonical (honFail _ _ _ hs)
  · split
    · exact execFault_canonical hs
    · split
      · next hx => exact heff _ _ _ _ (snd_canonical (calRead_canonical hs) hx)
      · next hx => exact execFault_canonical (snd_canonical (calRead_canonical hs) hx)
      · next hx => exact snd_canonical (calRead_canonical hs) hx

theorem calWork_canonical {priv : Bool} {own : Tile → Option (Nat × Nat)}
    {own2 : List Nat → Tile → Option (Nat × Nat)} {rd : CalRead} (h : s.Canonical) :
    CanonicalOut (calWork hd op a vs priv own own2 rd s) :=
  calIssue_canonical h (fun _ _ _ hs => hs) fun _ _ _ _ hs => hs

theorem calQuick_canonical {priv : Bool} {own : Tile → Option (Nat × Nat)}
    {own2 : List Nat → Tile → Option (Nat × Nat)} {rd : CalRead} {onFail : Nat → Nat → State → State}
    (h : s.Canonical) (honFail : ∀ i j u, u.Canonical → (onFail i j u).Canonical) :
    CanonicalOut (calQuick hd op a n l vs priv own own2 rd onFail s) :=
  calIssue_canonical h (fun _ _ _ hs => honFail _ _ _ hs) fun _ _ _ _ hs => signalIn_canonical hs

theorem execXremap_canonical (h : s.Canonical) : CanonicalOut (execXremap hd a col s) :=
  calQuick_canonical h fun _ _ _ hs => ite_canonical hs hs

theorem calQuickEffect_canonical (h : s.Canonical) : (s.calQuickEffect t op vs).Canonical := by
  fun_cases State.calQuickEffect s t op vs
  · exact put_canonical h
  · exact tableEffect_canonical h

theorem setCal_canonical {w : CalW} (h : s.Canonical) : (s.setCal t k w).Canonical := h
theorem dropCal_canonical (h : s.Canonical) : (s.dropCal t k).Canonical := h

theorem rowTime_canonical {w : CalW} {A : XArray} (h : s.Canonical) : (s.rowTime w A).2.2.Canonical := by
  fun_cases State.rowTime s w A
  case case5 | case7 => exact snd_canonical h ‹_›
  all_goals exact h

theorem calStart_canonical {w : CalW} (h : s.Canonical) : (s.calStart t k w).Canonical :=
  setCal_canonical (rowTime_canonical (ite_canonical h h))

theorem execArrayWorkStart_canonical (h : s.Canonical) : CanonicalOut (execArrayWorkStart t k s) := by
  fun_cases execArrayWorkStart t k s
  · exact finish_canonical (xcmdStart_canonical h)
  · exact finish_canonical (calStart_canonical h)
  · exact finish_canonical h

theorem rowEffect_canonical {w : CalW} (h : s.Canonical) : (s.rowEffect t w).Canonical := by
  unfold State.rowEffect
  split
  · exact h
  · exact h
  · exact ite_canonical (put_canonical h) (put_canonical h)
  · exact h
  · exact h

theorem calReport_canonical {w : CalW} (h : s.Canonical) : (s.calReport t w).Canonical := put_canonical h
theorem calEnd_canonical {w : CalW} (h : s.Canonical) : (s.calEnd t k w).Canonical := signalNow_canonical h

theorem calFault_canonical {w : CalW} (h : s.Canonical) : (s.calFault t k w cause).Canonical :=
  xbrFault_canonical h

theorem calNext_canonical {w : CalW} (h : s.Canonical) : (s.calNext t k w).Canonical := by
  fun_cases State.calNext s t k w
  · exact h
  · exact setCal_canonical (snd_snd_canonical (rowTime_canonical h) ‹_›)

theorem remapStep_canonical {w : CalW} (h : s.Canonical) : (s.remapStep t k w).Canonical := by
  unfold State.remapStep
  dsimp only
  split
  · exact calEnd_canonical (calReport_canonical h)
  · split
    · exact calFault_canonical (updArray_canonical (calReport_canonical h))
    · exact calNext_canonical h

theorem calFinal_canonical {w : CalW} (h : s.Canonical) : (s.calFinal t k w).Canonical := by
  fun_cases State.calFinal s t k w
  case case4 | case6 => exact calEnd_canonical (calReport_canonical (updArray_canonical h))
  case case5 => exact remapStep_canonical (updArray_canonical h)
  case case9 => exact setCal_canonical h
  case case10 => exact calFault_canonical (updArray_canonical (snd_canonical (takeMeans_canonical h) ‹_›))
  case case13 => exact dropCal_canonical (updArray_canonical (snd_canonical (takeMeans_canonical h) ‹_›))
  case case1 | case2 => exact calEnd_canonical h
  case case3 => exact calEnd_canonical (updArray_canonical h)
  case case11 =>
    exact calEnd_canonical (updArray_canonical (updArray_canonical (snd_canonical (takeMeans_canonical h) ‹_›)))
  all_goals exact calEnd_canonical (updArray_canonical (snd_canonical (takeMeans_canonical h) ‹_›))

theorem calUnitEnds_canonical (h : s.Canonical) : (s.calUnitEnds t k).Canonical := by
  fun_cases State.calUnitEnds s t k
  · exact h
  · exact calEnd_canonical (updArray_canonical (snd_canonical (takeFree_canonical h) ‹_›))
  · exact calNext_canonical (rowEffect_canonical h)
  · exact calFault_canonical (updArray_canonical (rowEffect_canonical h))
  · exact calNext_canonical (rowEffect_canonical h)
  · exact calFinal_canonical (setCal_canonical (rowEffect_canonical h))
  · exact calFinal_canonical h

theorem execAutomaticMeasurement_canonical (h : s.Canonical) :
    CanonicalOut (execAutomaticMeasurement t a s) := by
  fun_cases execAutomaticMeasurement t a s
  · exact finish_canonical (calFinal_canonical h)
  · exact finish_canonical h
  · exact finish_canonical h

/-! ### `Sys2Proof/Machine/Nmu.lean` -/

theorem setNmu_canonical {v : Nmu} (h : s.Canonical) : (s.setNmu ch v).Canonical := h

theorem nmuRaw_canonical {f : NmuRun → NmuRun} (h : s.Canonical) : CanonicalOut (nmuRaw s f) := by
  fun_cases nmuRaw s f <;> exact finish_canonical h

theorem nmuWord_canonical {f : NmuRun → NmuRun} (h : s.Canonical) : CanonicalOut (nmuWord s f) :=
  nmuRaw_canonical h

theorem nmuElems_canonical {f : List Nat → Nat × Nat} (h : s.Canonical) : CanonicalOut (nmuElems s d rs w f) :=
  nmuWord_canonical h

theorem nmuTyped_canonical {f : List FV → FX} {g : List Int → Int} (h : s.Canonical) :
    CanonicalOut (nmuTyped s d rs ty rnd sat f g) := by
  unfold nmuTyped
  exact nmuElems_canonical h

theorem nmuCmp_canonical (h : s.Canonical) : CanonicalOut (nmuCmp s d a b ty cond) := by
  unfold nmuCmp
  exact nmuElems_canonical h

theorem nmuBits_canonical {f : List Line → Line} (h : s.Canonical) : CanonicalOut (nmuBits s d rs f) :=
  nmuWord_canonical h

theorem nmuRed_canonical (h : s.Canonical) : CanonicalOut (nmuRed s d a ty op rnd sat) := nmuWord_canonical h

theorem execNramax_canonical (h : s.Canonical) : CanonicalOut (execNramax d a rnd sat ty s) :=
  nmuWord_canonical h

theorem execNclamp_canonical (h : s.Canonical) : CanonicalOut (execNclamp d a b rnd sat ty s) := by
  unfold execNclamp
  exact nmuElems_canonical h

/-! ### `Sys2Proof/Machine/Cpy.lean` -/

theorem setCcmd_canonical {c : CCmd} (h : s.Canonical) : (s.setCcmd t k c).Canonical := h

theorem cpyDec_canonical {bad : Bool} {go : Out} (h : s.Canonical) (hgo : CanonicalOut go) :
    CanonicalOut (cpyDec rec' bad s go) := by
  fun_cases cpyDec rec' bad s go
  · exact finish_canonical (decodeFault_canonical h)
  · exact hgo

theorem cpyWord_canonical {used : List Nat} {chk : State → Nat → CDesc → CFail}
    {mk : State → Nat → CDesc → CCmd → CCmd} (h : s.Canonical) :
    CanonicalOut (cpyWord hd op sub rec' desc used chk mk s) := by
  unfold cpyWord
  refine cpyDec_canonical h (engIssue_canonical h (.plain rfl) fun _ _ _ hs => ?_)
  dsimp only
  split
  · exact execFault_canonical hs
  · exact hs

theorem cpygWord_canonical {sct : Nat} (h : s.Canonical) : CanonicalOut (cpygWord sct hd rec desc s) :=
  cpyWord_canonical h

theorem kvgWord_canonical {mask : Bool} (h : s.Canonical) : CanonicalOut (kvgWord mask hd rec desc s) :=
  cpyWord_canonical h

theorem kvMove_canonical {out : Bool} (h : s.Canonical) : CanonicalOut (kvMove out hd rec desc s) :=
  cpyWord_canonical h

theorem cpyRecord_canonical {c : CCmd} (h : s.Canonical) : (s.cpyRecord t k c).Canonical :=
  setCcmd_canonical (ite_canonical h (put_canonical h))

theorem cpySignal_canonical {c : CCmd} (h : s.Canonical) : (s.cpySignal t k c).Canonical := by
  unfold State.cpySignal
  refine signalNow_canonical (orFlags_canonical ?_)
  split <;> exact h

theorem cpyAbort_canonical {c : CCmd} {result : Nat} (h : s.Canonical) :
    (s.cpyAbort t k c status cause origin result).Canonical :=
  h

theorem cpyFault_canonical {c : CCmd} (h : s.Canonical) : (s.cpyFault t k c cause va).Canonical := by
  fun_cases State.cpyFault s t k c cause va
  · exact h
  · exact setCcmd_canonical (stopUnit_canonical h)
  · exact cpyAbort_canonical (stopUnit_canonical h)

theorem cpyRestart_canonical {skip : Bool} (h : s.Canonical) : (s.cpyRestart t e skip).Canonical := by
  fun_cases State.cpyRestart s t e skip <;> exact h

theorem cpyXl_canonical {c : CCmd} {x : Xl} (h : s.Canonical) : (s.cpyXl t k c x kind).Canonical := by
  fun_cases State.cpyXl s t k c x kind
  · exact holdAccess_canonical h
  · exact cpyFault_canonical h
  · exact h

theorem cpyFlush_canonical {xs : List (Nat × Phys)} (h : s.Canonical) : (s.cpyFlush t a xs).Canonical := by
  fun_cases State.cpyFlush s t a xs
  · exact writeBack_canonical h
  · exact h

theorem cpyPut_canonical {c : CCmd} {xs : List (Nat × Phys)} {g : Nat × List Nat × Bool} (h : s.Canonical) :
    (s.cpyPut t c xs g).Canonical := by
  fun_cases State.cpyPut s t c xs g
  · exact memEndLine_canonical (beyond_canonical h)
  · exact memEndPut_canonical h
  · exact h
  · exact cpyFlush_canonical (writeAt_canonical h)
  · exact writeAt_canonical h

theorem hostError_canonical {c : CReg} (h : s.Canonical) : (s.hostError c).2.Canonical := by
  fun_cases State.hostError s c
  · exact snd_canonical h ‹_›
  · exact h

theorem flushRange_canonical {inv : Bool} {xs : List (Nat × Phys)} (h : s.Canonical) :
    (s.flushRange t va n inv xs).Canonical := by
  unfold State.flushRange
  refine foldl_canonical h fun _ _ hs => ?_
  split
  · dsimp only
    exact ite_canonical (dropLine_canonical (writeBack_canonical hs)) (writeBack_canonical hs)
  · exact hs

theorem outEnds_canonical {c : CCmd} {o : COut} (h : s.Canonical) : (s.outEnds t k c o).Canonical := by
  unfold State.outEnds
  split
  · exact h
  · refine setCcmd_canonical ?_
    split <;> exact h

theorem outStep_canonical {c : CCmd} {o : COut} {all : Bool} (h : s.Canonical) :
    (s.outStep t k c o all).Canonical := by
  unfold State.outStep
  split
  next hx =>
  dsimp only
  split
  · refine outEnds_canonical (foldl_canonical (snd_canonical (takeFree_canonical h) hx) fun _ _ hs => ?_)
    exact ite_canonical (cpyPut_canonical hs) hs
  · refine setCcmd_canonical (foldl_canonical (snd_canonical (takeFree_canonical h) hx) fun _ _ hs => ?_)
    exact ite_canonical (cpyPut_canonical hs) hs

theorem cpyBegin_canonical {c c' : CCmd} {gs : List (Nat × List Nat × Bool)} {xs : List (Nat × Phys)}
    (h : s.Canonical) : (s.cpyBegin t k c c' gs xs).Canonical := by
  have host {e : Bool} {u : State} (hu : s.hostError (c.cap 1) = (e, u)) : u.Canonical :=
    snd_canonical (hostError_canonical h) hu
  fun_cases State.cpyBegin s t k c c' gs xs
  · exact cpyXl_canonical h
  · exact cpyFault_canonical h
  · exact cpyFault_canonical (host ‹_›)
  · exact cpyAbort_canonical (host ‹_›)
  · next hu _ _ v _ =>
    have hv : v.Canonical := ite_canonical (releaseSystem_canonical (host hu)) (host hu)
    exact setCcmd_canonical (ite_canonical (flushRange_canonical hv) hv)

theorem columnOf_canonical {c : CCmd} (h : s.Canonical) : (s.columnOf t c j).2.Canonical := by
  fun_cases State.columnOf s t c j
  · exact h
  · exact foldl_snd_canonical h fun _ _ hs => readUnit_canonical hs

theorem unitData_canonical {c : CCmd} (h : s.Canonical) : (s.unitData t c j).2.Canonical := by
  fun_cases State.unitData s t c j
  case case3 => exact columnOf_canonical h
  case case5 => exact snd_canonical (hostError_canonical h) ‹_›
  case case6 => exact snd_canonical (readRange_canonical (snd_canonical (hostError_canonical h) ‹_›)) ‹_›
  all_goals exact h

theorem moveRead_canonical {c : CCmd} (h : s.Canonical) : (s.moveRead t c j).2.Canonical := by
  fun_cases State.moveRead s t c j <;> exact snd_canonical (unitData_canonical h) ‹_›

theorem readList_canonical {c : CCmd} (h : s.Canonical) : (s.readList t k c).Canonical := by
  unfold State.readList
  dsimp only
  split
  · exact cpyXl_canonical h
  · exact setCcmd_canonical (readRange_canonical h)

theorem writeAhead_canonical {c : CCmd} {r : CRead} (h : s.Canonical) : (s.writeAhead t k c r).Canonical :=
  cpyBegin_canonical h

theorem pipeStep_canonical {read : State → Nat → CCmd → Nat → URes × State} {c : CCmd} (h : s.Canonical)
    (hread : ∀ u i j k, u.Canonical → (read u i j k).2.Canonical) : (s.pipeStep read t k c).Canonical := by
  have free {n : Nat} {u : State} (hu : takeFree s = (n, u)) : u.Canonical :=
    snd_canonical (takeFree_canonical h) hu
  have ahead {n i j : Nat} {e : URes} {c : CCmd} {u v : State} (hu : takeFree s = (n, u))
    (hv : read u i c j = (e, v)) :
      v.Canonical := snd_canonical (hread _ _ _ _ (free hu)) hv
  fun_cases State.pipeStep read s t k c
  · exact writeAhead_canonical (free ‹_›)
  · exact free ‹_›
  · exact setCcmd_canonical (ahead ‹_› ‹_›)
  · exact ahead ‹_› ‹_›
  · exact cpyXl_canonical (ahead ‹_› ‹_›)
  · exact ahead ‹_› ‹_›

theorem moveStep_canonical {c : CCmd} (h : s.Canonical) : (s.moveStep t k c).Canonical := by
  fun_cases State.moveStep s t k c
  · exact h
  · exact readList_canonical h
  · exact pipeStep_canonical h fun _ _ _ _ hs => moveRead_canonical hs

theorem prefetchStep_canonical {c : CCmd} (h : s.Canonical) : (s.prefetchStep t k c).Canonical :=
  setCcmd_canonical (prefetchLines_canonical h)

theorem checksumStep_canonical {c : CCmd} (h : s.Canonical) : (s.checksumStep t k c).Canonical := by
  fun_cases State.checksumStep s t k c
  · exact cpyXl_canonical (snd_canonical (unitData_canonical h) ‹_›)
  · exact cpyAbort_canonical (snd_canonical (takeFree_canonical (snd_canonical (unitData_canonical h) ‹_›)) ‹_›)
  · exact setCcmd_canonical (snd_canonical (unitData_canonical h) ‹_›)

theorem nmuldStep_canonical {c : CCmd} (h : s.Canonical) : (s.nmuldStep t k c).Canonical := by
  fun_cases State.nmuldStep s t k c <;> exact h

theorem xQueue_canonical {c : CCmd} (h : s.Canonical) : (s.xQueue t k c).Canonical := by
  fun_cases State.xQueue s t k c
  case case2 | case4 => exact cpyXl_canonical h
  all_goals exact h

theorem cpyxStep_canonical {c : CCmd} (h : s.Canonical) : (s.cpyxStep t k c).Canonical := by
  fun_cases State.cpyxStep s t k c
  · exact xQueue_canonical (snd_canonical (takeFree_canonical h) ‹_›)
  · exact cpyFault_canonical (snd_canonical (takeFree_canonical h) ‹_›)
  · exact cpyAbort_canonical (snd_canonical (takeFree_canonical h) ‹_›)
  · exact xQueue_canonical (snd_canonical (takeFree_canonical h) ‹_›)
  · exact cpyBegin_canonical (snd_canonical (takeFree_canonical h) ‹_›)
  · exact xQueue_canonical (snd_canonical (takeFree_canonical h) ‹_›)

theorem runEnds_canonical {c : CCmd} {ps : List Bool} (h : s.Canonical) :
    (s.runEnds ch t k c j bs ps fl).Canonical :=
  h

theorem runInputs_canonical {c : CCmd} {r : CRun} (h : s.Canonical) : (s.runInputs t c r).2.2.Canonical := by
  unfold State.runInputs
  dsimp only
  split
  · refine foldl_snd_canonical ?_ fun _ _ hs => readAt_canonical hs
    split
    · exact flushRange_canonical (ite_canonical (flushRange_canonical h) h)
    · exact ite_canonical (flushRange_canonical h) h
  · dsimp only
    split
    · exact flushRange_canonical (ite_canonical (flushRange_canonical h) h)
    · exact ite_canonical (flushRange_canonical h) h

theorem runStarts_canonical {c : CCmd} {r : CRun} (h : s.Canonical) : (s.runStarts ch t k c r).Canonical := by
  unfold State.runStarts
  dsimp only
  split
  · exact h
  · split
    · exact setCcmd_canonical (hostError_canonical h)
    · split
      · exact setCcmd_canonical (setNmu_canonical (runInputs_canonical (hostError_canonical h)))
      · exact runEnds_canonical (runInputs_canonical (hostError_canonical h))

theorem nmuRunStep_canonical (h : s.Canonical) : (s.nmuRunStep ch).Canonical := by
  fun_cases State.nmuRunStep s ch
  case case7 => exact runStarts_canonical h
  all_goals exact h

theorem execNmuParityAbort_canonical (h : s.Canonical) : CanonicalOut (execNmuParityAbort ch s) := by
  fun_cases execNmuParityAbort ch s <;> exact finish_canonical h

theorem kvoutRead_canonical {c : CCmd} (h : s.Canonical) : (s.kvoutRead t c j).2.Canonical := by
  fun_cases State.kvoutRead s t c j
  · exact h
  · exact h
  · exact h
  · exact flushRange_canonical h
  · exact flushRange_canonical h

theorem kvinRead_canonical {c : CCmd} (h : s.Canonical) : (s.kvinRead t c j).2.Canonical := by
  unfold State.kvinRead
  dsimp only
  split
  · exact h
  · split
    · exact h
    · split
      · exact h
      · split
        · exact hostError_canonical h
        · exact readRange_canonical (hostError_canonical h)

/-! ### `Sys2Proof/Machine/Bfill.lean` -/

theorem updBf_canonical {f : BfCtx → BfCtx} (h : s.Canonical) : (s.updBf c ctx f).Canonical := h

theorem code_canonical (h : s.Canonical) : (s.code ctx col map tok).2.Canonical := by
  fun_cases State.code s ctx col map tok <;> exact snd_canonical (devGet_canonical h) ‹_›

theorem setCode_canonical (h : s.Canonical) : (s.setCode ctx col map tok v).Canonical := by
  fun_cases State.setCode s ctx col map tok v
  · exact getD_canonical (devPut_canonical (snd_canonical (devGet_canonical h) ‹_›))
      (snd_canonical (devGet_canonical h) ‹_›)
  · exact snd_canonical (devGet_canonical h) ‹_›

theorem execBfq_canonical {img : Nat} (h : s.Canonical) : CanonicalOut (execBfq hd rec desc img s) := by
  unfold execBfq
  exact cpyWord_canonical h

theorem bfqCode_canonical {c : CCmd} {m : Nat} (h : s.Canonical) : (s.bfqCode t col c m tok v).Canonical := by
  fun_cases State.bfqCode s t col c m tok v
  · exact cpyFlush_canonical (setCode_canonical h)
  · exact setCode_canonical h

theorem bfqStep_canonical {c : CCmd} (h : s.Canonical) : (s.bfqStep t k c).Canonical := by
  fun_cases State.bfqStep s t k c
  · exact h
  · exact cpyXl_canonical h
  · exact h
  · exact setCcmd_canonical (flushRange_canonical (ite_canonical (releaseSystem_canonical h) h))
  · exact setCcmd_canonical (bfqCode_canonical (snd_canonical (code_canonical h) ‹_›))
  · exact cpyFault_canonical
      (foldl_canonical (snd_canonical (code_canonical h) ‹_›) fun _ _ hs => bfqCode_canonical hs)
  · exact h

theorem bfctlWord_canonical {mk : State → Nat → CCmd → CCmd} (h : s.Canonical) :
    CanonicalOut (bfctlWord sub hd rec mk s) :=
  cpyDec_canonical h (engIssue_canonical h (.plain rfl) fun _ _ _ hs => hs)

theorem loadTable_canonical {c : CCmd} (h : s.Canonical) : (s.loadTable t k c).Canonical := by
  unfold State.loadTable
  dsimp only
  split
  · exact h
  · split
    · exact cpyXl_canonical h
    · split
      · exact cpyFault_canonical (readRange_canonical h)
      · split
        · exact cpyFault_canonical (readRange_canonical h)
        · exact setCcmd_canonical (updBf_canonical (readRange_canonical h))

theorem bfctlStep_canonical {c : CCmd} (h : s.Canonical) : (s.bfctlStep t k c).Canonical := by
  fun_cases State.bfctlStep s t k c
  case case1 => exact loadTable_canonical h
  all_goals exact h

theorem capRead_canonical {cap : CReg} {a : Int} (h : s.Canonical) : (s.capRead t cap a n).2.Canonical := by
  fun_cases State.capRead s t cap a n
  · exact h
  · exact snd_canonical (readRange_canonical h) ‹_›

theorem boost_canonical (h : s.Canonical) : (s.boost ctx tok map).Canonical :=
  foldl_canonical h fun _ _ hs => hs

theorem kvEntry_canonical {c : CCmd} (h : s.Canonical) : (s.kvEntry t c j).2.Canonical := by
  fun_cases State.kvEntry s t c j <;> exact snd_canonical (capRead_canonical h) ‹_›

theorem kvgRead_canonical {c : CCmd} (h : s.Canonical) : (s.kvgRead t c j).2.Canonical := by
  have read {e : _} {u : State} (hu : s.capRead t (c.cap 3) (c.kv j).map 1 = (e, u)) : u.Canonical :=
    snd_canonical (capRead_canonical h) hu
  have entry {e f : _} {u v : State} (hu : s.capRead t (c.cap 3) (c.kv j).map 1 = (e, u))
      (hv : u.kvEntry t c j = (f, v)) : v.Canonical := snd_canonical (kvEntry_canonical (read hu)) hv
  fun_cases State.kvgRead s t c j
  case case5 => exact boost_canonical (read ‹_›)
  case case6 | case7 => exact entry ‹_› ‹_›
  case case8 | case9 => exact snd_canonical (capRead_canonical (entry ‹_› ‹_›)) ‹_›
  all_goals exact read ‹_›

theorem kvstRead_canonical {c : CCmd} (h : s.Canonical) : (s.kvstRead t c j).2.Canonical := by
  have read {i n : Nat} {e : _} {u : State} {m : Int} (hu : s.capRead t (c.cap i) m n = (e, u)) : u.Canonical :=
    snd_canonical (capRead_canonical h) hu
  have entry {i n : Nat} {e f : _} {m : Int} {u v : State} (hu : s.capRead t (c.cap i) m n = (e, u))
      (hv : u.kvEntry t c j = (f, v)) : v.Canonical := snd_canonical (kvEntry_canonical (read hu)) hv
  fun_cases State.kvstRead s t c j
  · exact read ‹_›
  · exact read ‹_›
  · exact entry ‹_› ‹_›
  · exact entry ‹_› ‹_›
  · exact snd_canonical (capRead_canonical (entry ‹_› ‹_›)) ‹_›
  · exact snd_canonical (capRead_canonical (entry ‹_› ‹_›)) ‹_›

theorem unitsDone_canonical {c : CCmd} (h : s.Canonical) : (s.unitsDone t k c).Canonical := by
  fun_cases State.unitsDone s t k c <;> exact h

theorem drainStep_canonical {c : CCmd} (h : s.Canonical) : (s.drainStep t k c).Canonical :=
  ite_canonical h (cpySignal_canonical (ite_canonical (releaseSystem_canonical h) h))

theorem unitStep_canonical {c : CCmd} (h : s.Canonical) : (s.unitStep t k c).Canonical := by
  fun_cases State.unitStep s t k c
  · exact cpyxStep_canonical h
  · exact h
  · exact prefetchStep_canonical h
  · exact h
  · exact checksumStep_canonical h
  · exact h
  · exact nmuldStep_canonical h
  · exact pipeStep_canonical h fun _ _ _ _ hs => kvgRead_canonical hs
  · exact pipeStep_canonical h fun _ _ _ _ hs => kvoutRead_canonical hs
  · exact pipeStep_canonical h fun _ _ _ _ hs => kvinRead_canonical hs
  · exact pipeStep_canonical h fun _ _ _ _ hs => kvstRead_canonical hs
  · exact h
  · exact bfqStep_canonical h
  · exact h
  · exact bfctlStep_canonical h
  · exact moveStep_canonical h

theorem copyStep_canonical {c : CCmd} (h : s.Canonical) : (s.copyStep t k c).Canonical := by
  fun_cases State.copyStep s t k c
  · exact h
  · exact cpySignal_canonical h
  · exact cpyRecord_canonical h
  · exact drainStep_canonical h
  · exact outStep_canonical h
  · exact h
  · exact unitsDone_canonical h
  · exact unitStep_canonical h

theorem execCopyUnit_canonical (h : s.Canonical) : CanonicalOut (execCopyUnit t k s) := by
  fun_cases execCopyUnit t k s
  · exact finish_canonical (copyStep_canonical h)
  · exact finish_canonical h

theorem stopCopy_canonical (h : s.Canonical) : (s.stopCopy t k).Canonical := by
  unfold State.stopCopy
  refine updTile_canonical ?_
  split
  · split
    · exact outStep_canonical h
    · refine foldl_canonical h fun _ _ hs => ?_
      split
      · exact ite_canonical (bfqStep_canonical hs) hs
      · exact hs
  · exact h

theorem bfAbort_canonical {q : BfReq} (h : s.Canonical) : (s.bfAbort c q l cause).Canonical := by
  unfold State.bfAbort
  refine updBf_canonical (updCol_canonical (foldl_canonical h fun _ _ hs => ?_))
  dsimp only
  split
  · next hx => exact setCode_canonical (snd_canonical (code_canonical hs) hx)
  · next hy => exact snd_canonical (code_canonical hs) hy

theorem bfHold_canonical (h : s.Canonical) : (s.bfHold c ctx va kind entry).Canonical := holdAccess_canonical h

theorem batchStart_canonical (h : s.Canonical) : (s.batchStart c).Canonical := by
  fun_cases State.batchStart s c
  case case3 | case5 | case7 => exact foldl_canonical h fun _ _ hs => bfAbort_canonical hs
  case case6 => exact bfHold_canonical h
  case case8 =>
    exact updCol_canonical (foldl_canonical (snd_canonical (countOps_canonical h) ‹_›) fun _ _ hs => hs)
  all_goals exact h

theorem batchValues_canonical {b : Batch} {B : BfCtx} {shs : FM Shadow} (h : s.Canonical) :
    (s.batchValues b B shs).2.Canonical := by
  unfold State.batchValues
  refine foldl_snd_canonical h fun _ _ hs => foldl_snd_canonical hs fun _ _ ht => ?_
  split
  · exact ht
  · exact updTile_canonical (arrayOut_canonical ht)

theorem batchValued_canonical {b : Batch} (h : s.Canonical) : (s.batchValued c ctx b).2.Canonical := by
  unfold State.batchValued
  dsimp only
  split
  · next hx => exact snd_canonical (shadowsOf_canonical h) hx
  · next hx => exact updTile_canonical (batchValues_canonical (snd_canonical (shadowsOf_canonical h) hx))

theorem batchAudit_canonical {b : Batch} (h : s.Canonical) : (s.batchAudit c ctx b a).2.Canonical := by
  fun_cases State.batchAudit s c ctx b a
  · exact snd_canonical (devRead_canonical h) ‹_›
  · exact snd_canonical (devRead_canonical h) ‹_›
  · exact updArray_canonical (snd_canonical (devRead_canonical h) ‹_›)

theorem bfNext_canonical {b : Batch} (h : s.Canonical) : (s.bfNext c b).Canonical := h

theorem bfFill_canonical {q : BfReq} (h : s.Canonical) : (s.bfFill c q l).Canonical := by
  fun_cases State.bfFill s c q l
  · exact updBf_canonical (updCol_canonical (setCode_canonical (snd_canonical (code_canonical h) ‹_›)))
  · exact updCol_canonical (setCode_canonical (snd_canonical (code_canonical h) ‹_›))
  · exact bfAbort_canonical (snd_canonical (code_canonical h) ‹_›)

theorem bfStop_canonical {b : Batch} {q : BfReq} (h : s.Canonical) (x : Xl) :
    (match x with
      | .held i va => s.bfHold c ctx va kind i
      | .fault cause _ => (s.bfAbort c q l cause).bfNext c b
      | .ok _ => s).Canonical := by
  split
  · exact bfHold_canonical h
  · exact bfNext_canonical (bfAbort_canonical h)
  · exact h

theorem bfMember_canonical {b : Batch} {q : BfReq} {bytes : List Nat} {ps : List Bool} (h : s.Canonical) :
    (s.bfMember c b q bytes ps).Canonical := by
  fun_cases State.bfMember s c b q bytes ps
  · exact bfStop_canonical h _
  · next hg => exact snd_canonical (devGet_canonical h) hg
  · next hg _ => exact bfNext_canonical (bfAbort_canonical (snd_canonical (devGet_canonical h) hg))
  · next hg _ => exact updCol_canonical (snd_canonical (devGet_canonical h) hg)
  · exact bfStop_canonical h _
  · exact bfNext_canonical (bfFill_canonical h)
  · exact bfStop_canonical h _
  · next hn _ _ =>
    refine updCol_canonical (foldl_canonical (snd_canonical (takeFree_canonical h) hn) fun _ _ hs => ?_)
    split
    · exact memEndLine_canonical (beyond_canonical hs)
    · exact hs

theorem bfAbandon_canonical {b : Batch} (h : s.Canonical) : (s.bfAbandon c b).Canonical := h

theorem bfStops_canonical {b : Batch} {x : Xl} (h : s.Canonical) : (s.bfStops c ctx b x).Canonical := by
  fun_cases State.bfStops s c ctx b x
  · exact bfHold_canonical h
  · exact bfAbandon_canonical (foldl_canonical h fun _ _ hs => bfAbort_canonical hs)
  · exact h

theorem layerStep_canonical (h : s.Canonical) : (s.layerStep c).Canonical := by
  fun_cases State.layerStep s c
  case case6 => exact bfStops_canonical (snd_canonical (batchValued_canonical h) ‹_›)
  case case7 => exact updCol_canonical (snd_canonical (batchValued_canonical h) ‹_›)
  case case8 => exact bfStops_canonical (snd_canonical (batchAudit_canonical h) ‹_›)
  case case9 => exact updCol_canonical (snd_canonical (batchAudit_canonical h) ‹_›)
  case case11 => exact bfMember_canonical h
  all_goals exact h

/-! ### `Sys2Proof/Machine/Snap.lean` -/

theorem stopAccess_canonical (h : s.Canonical) : (s.stopAccess t).Canonical := by
  unfold State.stopAccess
  refine foldl_canonical h fun _ _ hs => ?_
  split
  · split
    · exact hs
    · split
      · exact hs
      · split
        · exact hs
        · dsimp only
          exact ite_canonical hs (Canonical_of_mem hs rfl)
  · split
    · exact hs
    · dsimp only
      exact ite_canonical hs (Canonical_of_mem hs rfl)
  · exact hs

theorem stopTile_canonical (h : s.Canonical) : (s.stopTile t).Canonical := by
  unfold State.stopTile
  extract_lets T s1 s2 s3 s4
  split
  · exact h
  · have h1 : s1.Canonical := stopAccess_canonical h
    have h2 : s2.Canonical := foldl_canonical h1 fun _ _ hs => stopCopy_canonical hs
    have h3 : s3.Canonical := foldl_canonical h2 fun _ _ hs => by
      split <;> exact hs
    clear_value s3
    exact h3

theorem resumeTile_canonical (h : s.Canonical) : (s.resumeTile t).Canonical :=
  retest_canonical (ite_canonical h (mwaitAgain_canonical h))

theorem snapPut_canonical {v : Word} (h : s.Canonical) : (s.snapPut t n v).Canonical := by
  fun_cases State.snapPut s t n v <;> exact h

theorem snapWrite_canonical {v : Word} (h : s.Canonical) : (s.snapWrite t n v).Canonical := by
  fun_cases State.snapWrite s t n v
  · exact h
  · exact snapPut_canonical h
  · exact h

theorem execSnaprd_canonical (h : s.Canonical) : CanonicalOut (execSnaprd hd d n row col s) := by
  unfold execSnaprd
  refine ctlIssue_canonical h (.plain rfl rfl) fun _ _ _ _ hs => ?_
  dsimp only
  split
  · exact ctlNext_canonical (signalIn_canonical (putS_canonical hs))
  · exact await_canonical (atLeast_canonical hs)

theorem execSnapwr_canonical (h : s.Canonical) : CanonicalOut (execSnapwr hd a n row col s) := by
  unfold execSnapwr
  refine ctlIssue_canonical h (.plain rfl rfl) fun _ _ _ _ hs => ?_
  dsimp only
  exact post_canonical (atLeast_canonical hs)

theorem slotPut_canonical (h : s.Canonical) : (s.slotPut t col va bs).Canonical := by
  unfold State.slotPut
  refine foldl_canonical h fun _ _ hs => ?_
  split
  · exact memEndLine_canonical (beyond_canonical hs)
  · exact hs

theorem saveTile_canonical (h : s.Canonical) : (s.saveTile t col full).Canonical := by
  unfold State.saveTile
  extract_lets T va lo mine
  split
  next s1 zmap hx =>
  extract_lets s2 s3 src copy s4 x0 x
  have h1 : s1.Canonical := by
    refine fst_canonical (foldl_fst_canonical h fun o _ ho => ?_) hx
    dsimp only
    split
    · exact ho
    · split
      · exact ho
      · exact slotPut_canonical ho
  have h2 : s2.Canonical := slotPut_canonical h1
  clear_value s2
  have h3 : s3.Canonical := by
    unfold s3
    exact foldl_canonical h2 fun _ _ hs => slotPut_canonical (freeLine_canonical hs)
  have h4 : s4.Canonical := slotPut_canonical (slotPut_canonical (slotPut_canonical h3))
  clear_value s4 copy
  have h5 : x0.Canonical := scrubTile_canonical h4
  clear_value x0
  exact updTile_canonical (Canonical_of_mem h5 rfl)

theorem restoreTile_canonical (h : s.Canonical) : (s.restoreTile t col).Canonical := by
  unfold State.restoreTile
  split
  · exact h
  · split
    · exact h
    · extract_lets va now s1 bytes copy get item val bad qs lo lines pages badWords T mine s2
      have h1 : s1.Canonical := by
        unfold s1
        exact foldl_canonical h fun _ _ hs => writeBack_canonical hs
      clear_value s1 pages
      refine resumeTile_canonical ?_
      show Memory.wf _ = true
      exact foldl_wf _ (fun _ _ hm => memPut_wf hm) _ h1

/-! ### `Sys2Proof/Machine/Bind.lean` -/

theorem toTile_canonical {fl : Fl} (h : s.Canonical) : (s.toTile t d fl).Canonical := by
  fun_cases State.toTile s t d fl <;> exact h

theorem report_canonical (h : s.Canonical) : (s.report t c sig).Canonical := by
  fun_cases State.report s t c sig
  · exact h
  · exact toTile_canonical h

theorem updTask_canonical {f : Tile → Tile} (h : s.Canonical) : (s.updTask t f).Canonical := by
  fun_cases State.updTask s t f <;> exact h

theorem clearRmt_canonical (h : s.Canonical) : (s.clearRmt t c op).Canonical := by
  fun_cases State.clearRmt s t c op
  · exact h
  · exact h
  · exact updTask_canonical h
  · exact updTask_canonical h
  · exact h

theorem updLaunch_canonical {f : Launch → Launch} (h : s.Canonical) : (s.updLaunch id f).Canonical := h

theorem acceptLaunch_canonical {cw : Option Nat} (h : s.Canonical) : (s.acceptLaunch ctx sheaf cw).Canonical :=
  h

theorem launchArrives_canonical (h : s.Canonical) : (s.launchArrives id).Canonical := by
  fun_cases State.launchArrives s id
  · exact h
  · exact h
  · exact clearRmt_canonical
      (report_canonical (acceptLaunch_canonical (ite_canonical (releaseSystem_canonical h) h)))
  · exact h

theorem readEntry_canonical (h : s.Canonical) : s.readEntry.Canonical := by
  fun_cases State.readEntry s
  case case2 | case4 | case5 => exact hostRecord_canonical h
  all_goals exact h

theorem clearTile_canonical (h : s.Canonical) : (s.clearTile t).Canonical :=
  updTile_canonical (saveTile_canonical h)

theorem bindTask_canonical {l : Launch} (h : s.Canonical) : (s.bindTask l k p t).Canonical := h

theorem countPasses_canonical {ks : List Nat} {cur : Nat} (h : s.Canonical) :
    (s.countPasses id ks cur).Canonical :=
  h

theorem bindCand_canonical {c : Cand} (h : s.Canonical) : (s.bindCand c).Canonical := by
  unfold State.bindCand
  refine countPasses_canonical
    (foldl_canonical (foldl_canonical h fun _ _ hs => ?_) fun _ _ hs => bindTask_canonical hs)
  exact ite_canonical (clearTile_canonical hs) hs

theorem preempt_canonical (h : s.Canonical) : s.preempt.Canonical := by
  fun_cases State.preempt s
  · exact h
  · exact h
  · exact foldl_canonical h fun _ _ hs => updTile_canonical (stopTile_canonical hs)

theorem evictTile_canonical (h : s.Canonical) : (s.evictTile t).Canonical := by
  fun_cases State.evictTile s t
  · exact countPasses_canonical (bindTask_canonical (clearTile_canonical h))
  · exact h
  · exact clearTile_canonical h
  · exact h
  · exact resumeTile_canonical h

theorem resumeSaved_canonical (h : s.Canonical) : s.resumeSaved.Canonical := by
  unfold State.resumeSaved
  refine foldl_canonical h fun _ _ hs => ?_
  dsimp only
  split
  · refine foldl_canonical hs fun _ _ ht => ?_
    exact ite_canonical (stopTile_canonical (restoreTile_canonical ht)) (restoreTile_canonical ht)
  · exact hs

theorem decideBinding_canonical (h : s.Canonical) : s.decideBinding.Canonical := by
  unfold State.decideBinding
  dsimp only
  split
  · refine bindCand_canonical (foldl_canonical (resumeSaved_canonical h) fun _ _ hs => ?_)
    exact ite_canonical (evictTile_canonical hs) hs
  · refine preempt_canonical (foldl_canonical (resumeSaved_canonical h) fun _ _ hs => ?_)
    exact ite_canonical (evictTile_canonical hs) hs

theorem bindRefused_canonical {l : Launch} (h : s.Canonical) : (s.bindRefused t l cause).Canonical := by
  unfold State.bindRefused
  refine updTile_canonical (updLaunch_canonical ?_)
  split
  · exact writeCw_canonical h
  · exact h

theorem bindArrives_canonical (h : s.Canonical) : (s.bindArrives id).Canonical := by
  fun_cases State.bindArrives s id
  · exact h
  · exact h
  · exact refly_canonical (ite_canonical h (hostRecord_canonical h))
  · exact refly_canonical (ite_canonical h (hostRecord_canonical h))
  · exact bindRefused_canonical h
  · exact updTile_canonical (stopTile_canonical (retest_canonical (memPut_wf h)))
  · exact retest_canonical (memPut_wf h)
  · exact h

theorem streamNext_canonical (h : s.Canonical) : (s.streamNext t).Canonical := by
  unfold State.streamNext
  split
  · exact h
  · refine foldl_canonical h fun _ _ hs => ?_
    split
    exact ite_canonical (ite_canonical (updTile_canonical (memPut_wf hs)) (memPut_wf hs)) (put_canonical hs)

theorem taskDone_canonical (h : s.Canonical) : (s.taskDone t).Canonical := by
  fun_cases State.taskDone s t
  · exact h
  · exact signalNow_canonical h
  · exact updTile_canonical (ite_canonical (zeroScratch_canonical (scrubTile_canonical h)) h)

theorem launchFlush_canonical {l : Launch} (h : s.Canonical) : (s.launchFlush l).Canonical :=
  foldl_canonical h fun _ _ hs => writeBack_canonical hs

theorem nodeDone_canonical (h : s.Canonical) : (s.nodeDone id k).Canonical := by
  unfold State.nodeDone
  dsimp only
  split
  · exact h
  · split
    · exact h
    · show Memory.wf _ = true
      dsimp only
      split
      · exact h
      · exact writeCw_canonical (launchFlush_canonical h)

/-! ### `Sys2Proof/Machine/Land.lean` -/

theorem scrubObj_canonical {rst : Bool} (h : s.Canonical) : (s.scrubObj t kind i rst).Canonical :=
  retest_canonical (ite_canonical h h)

theorem reportP_canonical (h : s.Canonical) : (s.reportP t c sig pois).Canonical := by
  fun_cases State.reportP s t c sig pois
  · exact h
  · exact toTile_canonical h

theorem remoteEnd_canonical {r : Remote} (h : s.Canonical) : (s.remoteEnd t c r).Canonical :=
  clearRmt_canonical (report_canonical h)

theorem answer_canonical {r : Remote} {v : Word} (h : s.Canonical) : (s.answer t c r v).Canonical := by
  fun_cases State.answer s t c r v
  · exact updCc_canonical (clearRmt_canonical (signalIn_canonical (putS_canonical h)))
  · exact toTile_canonical h

theorem shootDown_canonical {inv : Bool} (h : s.Canonical) : (s.shootDown ctx base len inv).Canonical :=
  foldl_canonical h fun _ _ hs => hs

theorem installTable_canonical {f : Word} {es : List Cap} (h : s.Canonical) :
    (s.installTable ctx va f es).Canonical := by
  unfold State.installTable
  refine foldl_canonical h fun _ _ hs => ?_
  split
  exact hs

theorem mapFrame_canonical {perms : Nat} (h : s.Canonical) : (s.mapFrame ctx col va perms f big).Canonical := by
  fun_cases State.mapFrame s ctx col va perms f big
  · exact h
  · exact foldl_canonical (foldl_canonical h fun _ _ hs =>
      hbmSetLine_canonical (foldl_canonical hs fun _ _ ht => ht)) fun _ _ hs => hs

theorem unmapPage_canonical {frame : Nat} (h : s.Canonical) :
    (s.unmapPage ctx va st ret frame big).Canonical := by
  fun_cases State.unmapPage s ctx va st ret frame big
  · exact updContext_canonical (foldl_canonical h fun _ _ hs => hs)
  · exact foldl_canonical h fun _ _ hs => hs

theorem editCw_canonical {f : Word → Word → Word × Word} (h : s.Canonical) :
    (s.editCw ctx col n f).Canonical := by
  fun_cases State.editCw s ctx col n f
  · exact putCw_canonical (snd_canonical (devGet_canonical h) ‹_›)
  · exact snd_canonical (devGet_canonical h) ‹_›

theorem cwEnd_canonical {r : Remote} {f : State → State} (h : s.Canonical)
    (hf : ∀ u, u.Canonical → (f u).Canonical) : (s.cwEnd t c r n f).Canonical := by
  fun_cases State.cwEnd s t c r n f
  · exact clearRmt_canonical (reportP_canonical h)
  · exact remoteEnd_canonical (hf _ h)

theorem cwpostEnd_canonical {r : Remote} {q : Bool} (h : s.Canonical) : (s.cwpostEnd t c r vs q).Canonical := by
  unfold State.cwpostEnd
  dsimp only
  split
  · exact remoteEnd_canonical (ite_canonical (releaseSystem_canonical h) h)
  · split
    · split
      · exact clearRmt_canonical (reportP_canonical (releaseSystem_canonical h))
      · exact remoteEnd_canonical (writeCwAt_canonical (releaseSystem_canonical h))
    · split
      · exact clearRmt_canonical (reportP_canonical h)
      · exact remoteEnd_canonical (writeCwAt_canonical h)

theorem remoteObj_canonical {r : Remote} (h : s.Canonical) : (s.remoteObj t c r vs).Canonical := by
  fun_cases State.remoteObj s t c r vs
  · exact clearRmt_canonical (reportP_canonical h)
  · exact remoteEnd_canonical h
  · exact cwEnd_canonical h fun _ hs => editCw_canonical hs

theorem spillOne_canonical {fill : Bool} {x : Spill} (h : s.Canonical) :
    (s.spillOne t fill x j).2.Canonical := by
  unfold State.spillOne
  dsimp only
  split
  · exact readAt_canonical h
  · split
    · exact h
    · exact writeAt_canonical h

theorem spillEnds_canonical {r : Remote} {fill : Bool} {x : Spill} (h : s.Canonical) :
    (s.spillEnds t c r fill x).Canonical := by
  fun_cases State.spillEnds s t c r fill x
  · exact toTile_canonical (foldl_canonical h fun _ _ hs => ite_canonical hs (toTile_canonical hs))
  · exact clearRmt_canonical (reportP_canonical h)

theorem spillTurn_canonical {r : Remote} (h : s.Canonical) : (s.spillTurn id t c r vs).Canonical := by
  have store {p : Prop} [Decidable p] {fill : Bool} {o : Spill × State} {j : Nat} (ho : o.2.Canonical) :
      (if p then o.2.spillOne t fill o.1 j else o).2.Canonical := by
    split
    · exact spillOne_canonical ho
    · exact ho
  fun_cases State.spillTurn s id t c r vs
  case case2 => exact trap_canonical (clearRmt_canonical h)
  case case4 => exact refly_canonical (holdAccess_canonical h)
  case case5 =>
    next hu _ _ _ hv _ _ _ =>
    have hs := snd_canonical (foldl_snd_canonical (snd_canonical (takeFree_canonical h) hu) fun _ _ => store) hv
    exact spillEnds_canonical (land_canonical hs)
  case case6 =>
    next hu _ _ _ hv _ _ _ =>
    exact refly_canonical
      (snd_canonical (foldl_snd_canonical (snd_canonical (takeFree_canonical h) hu) fun _ _ => store) hv)
  all_goals exact h

theorem stestEnds_canonical {r : Remote} (h : s.Canonical) : (s.stestEnds t c r u).Canonical :=
  clearRmt_canonical (signalIn_canonical (putS_canonical h))

theorem remotePerform_canonical {r : Remote} (h : s.Canonical) : (s.remotePerform t c r vs).Canonical := by
  unfold State.remotePerform
  dsimp only
  split
  · exact clearRmt_canonical (orFlags_canonical (signalNow_canonical (ite_canonical h h)))
  · exact ite_canonical (clearRmt_canonical (reportP_canonical h)) (answer_canonical (synValue_canonical h))
  · exact remoteObj_canonical h
  · exact remoteObj_canonical h
  · exact cwpostEnd_canonical h
  · exact remoteEnd_canonical (writeBack_canonical h)
  · exact remoteEnd_canonical (dropLines_canonical (writeBack_canonical h))
  · exact remoteEnd_canonical (ite_canonical h (updTile_canonical (stopTile_canonical h)))
  · exact ite_canonical (flyDev_canonical (resumeTile_canonical h)) (remoteEnd_canonical h)
  · exact answer_canonical h
  · exact remoteEnd_canonical (snapWrite_canonical h)
  · exact ite_canonical (flyDev_canonical (saveTile_canonical h)) (remoteEnd_canonical h)
  · exact remoteEnd_canonical (updTile_canonical (restoreTile_canonical h))
  · exact tearDown_canonical h
  · exact answer_canonical (installTable_canonical h)
  · exact answer_canonical h
  · exact answer_canonical (mapFrame_canonical h)
  · split
    · exact answer_canonical h
    · exact answer_canonical (unmapPage_canonical h)
  · split <;> exact ite_canonical (answer_canonical (shootDown_canonical h))
      (flyDev_canonical (shootDown_canonical h))
  · exact stestEnds_canonical h
  · exact remoteEnd_canonical h

theorem remoteTurn_canonical {r : Remote} (h : s.Canonical) : (s.remoteTurn id t c r vs).Canonical := by
  fun_cases State.remoteTurn s id t c r vs
  · exact spillTurn_canonical h
  · exact h
  · exact h
  · exact remotePerform_canonical h

theorem landQ_canonical {v : VVal} (h : s.Canonical) : (s.landQ t e q idx v fl).Canonical := orFlags_canonical h

theorem landing_canonical {fl : Fl} (h : s.Canonical) : (s.landing id fl).Canonical := by
  fun_cases State.landing s id fl
  case case1 => exact orFlags_canonical (ite_canonical h h)
  case case2 | case3 | case4 | case5 | case6 | case12 => exact orFlags_canonical h
  case case7 => exact mtxFlags_canonical h
  case case8 => exact stepLands_canonical h
  case case9 => exact mtxDone_canonical h
  case case10 => exact endWindow_canonical h
  case case11 => exact landQ_canonical h
  case case13 => exact signalNow_canonical h
  case case14 => exact sysPut_canonical h
  case case15 => exact finishHend_canonical h
  case case20 => exact scrubObj_canonical h
  case case22 => exact pushRing_canonical h
  case case33 => exact put_canonical h
  case case35 => exact statusEffect_canonical h
  case case36 => exact calQuickEffect_canonical h
  case case37 => exact remoteTurn_canonical h
  all_goals exact h

theorem execPendingWriteLands_canonical (h : s.Canonical) : CanonicalOut (execPendingWriteLands id s) := by
  fun_cases execPendingWriteLands id s
  · exact finish_canonical (landing_canonical h)
  · exact finish_canonical h

theorem deliverFault_canonical (h : s.Canonical) : (s.deliverFault t).Canonical := by
  fun_cases State.deliverFault s t
  · exact h
  · exact h
  · exact trap_canonical h

theorem efltRst_canonical (h : s.Canonical) : (s.efltRst t e).Canonical := by
  fun_cases State.efltRst s t e
  · exact h
  · exact updEng_canonical (cpyRestart_canonical h)

theorem efltSkip_canonical (h : s.Canonical) : (s.efltSkip t e).Canonical := by
  fun_cases State.efltSkip s t e
  · exact h
  · exact updEng_canonical (cpyRestart_canonical h)
  · exact passSource_canonical (updEng_canonical (cpyRestart_canonical h))

theorem arrivalSent_canonical (h : s.Canonical) : (s.arrivalSent t id).Canonical := updTask_canonical h

theorem pushWaiting_canonical (h : s.Canonical) : (s.pushWaiting t q).Canonical := by
  fun_cases State.pushWaiting s t q <;> exact h

theorem startHandler_canonical (h : s.Canonical) : (s.startHandler t).Canonical := by
  fun_cases State.startHandler s t <;> exact h

theorem sendUpdate_canonical {near : Bool} {fl : Fl} (h : s.Canonical) :
    (s.sendUpdate t slot near fl).Canonical :=
  fly_canonical h

theorem sendUpdates_canonical {r : HomeRec} {f : Option PField} (h : s.Canonical) :
    (s.sendUpdates slot r f).Canonical :=
  foldl_canonical h fun _ _ hs => sendUpdate_canonical hs

theorem poisonHome_canonical (h : s.Canonical) : (s.poisonHome c key cause origin).Canonical := by
  fun_cases State.poisonHome s c key cause origin
  · exact h
  · exact sendUpdates_canonical h

theorem homeTells_canonical {r r' : HomeRec} (h : s.Canonical) : (s.homeTells slot r r').Canonical := by
  fun_cases State.homeTells s slot r r'
  · exact sendUpdates_canonical h
  · exact sendUpdates_canonical h
  · exact h

theorem homePerform_canonical (h : s.Canonical) : (s.homePerform t slot what a b pois sig c).Canonical := by
  fun_cases State.homePerform s t slot what a b pois sig c
  · exact sendUpdate_canonical h
  · exact sendUpdate_canonical (sendUpdate_canonical h)
  · exact h
  · exact homeTells_canonical (updCol_canonical h)
  · exact sendUpdate_canonical (homeTells_canonical (updCol_canonical h))
  · next u =>
    have hu : u.Canonical := by
      unfold u
      split
      · exact h
      · exact homeTells_canonical (updCol_canonical h)
    exact sendUpdate_canonical hu

theorem execHomeArrival_canonical (h : s.Canonical) : CanonicalOut (execHomeArrival id s) := by
  fun_cases execHomeArrival id s
  · exact finish_canonical
      (ite_canonical (arrivalSent_canonical (homePerform_canonical h)) (homePerform_canonical h))
  · exact finish_canonical h
  · exact finish_canonical h

theorem updateLands_canonical (h : s.Canonical) : (s.updateLands id).Canonical := by
  fun_cases State.updateLands s id
  case case5 => exact clearRmt_canonical (report_canonical h)
  case case6 => exact clearRmt_canonical (reportP_canonical h)
  all_goals exact h

/-! ### `Sys2Proof/Machine/HostIf.lean` -/

theorem regWrite_canonical (h : s.Canonical) : (s.regWrite off v).Canonical := by
  fun_cases State.regWrite s off v <;> exact h

theorem doorbell_canonical (h : s.Canonical) : (s.doorbell v).Canonical := by
  fun_cases State.doorbell s v <;> exact h

theorem writeWaiting_canonical (h : s.Canonical) : s.writeWaiting.Canonical := by
  fun_cases State.writeWaiting s
  · exact h
  · exact writeRecord_canonical h
  · exact h

theorem replayTo_canonical (h : s.Canonical) : (s.replayTo c n).Canonical := by
  fun_cases State.replayTo s c n <;> exact h

theorem execReplay_canonical (h : s.Canonical) : CanonicalOut (execReplay c n s) := by
  fun_cases execReplay c n s
  · exact finish_canonical (replayTo_canonical h)
  · exact finish_canonical h

theorem wireFalls_canonical (h : s.Canonical) : (s.wireFalls c holder).Canonical := by
  fun_cases State.wireFalls s c holder
  · exact h
  · exact resumeFrom_canonical h

theorem refillEntry_canonical (h : s.Canonical) : (s.refillEntry c ctx i).2.Canonical := by
  fun_cases State.refillEntry s c ctx i
  · exact h
  · exact h
  · exact snd_canonical (devGet_canonical h) ‹_›
  · exact snd_canonical (devGet_canonical h) ‹_›

theorem refillAll_canonical (h : s.Canonical) : (s.refillAll c ctx first n).Canonical := by
  unfold State.refillAll
  refine foldl_canonical h fun _ _ hs => ?_
  split
  next hx =>
  split
  · exact updCol_canonical (snd_canonical (refillEntry_canonical hs) hx)
  · exact updCol_canonical (snd_canonical (refillEntry_canonical hs) hx)

theorem refillWrite_canonical (h : s.Canonical) : (s.refillWrite c v).Canonical := by
  fun_cases State.refillWrite s c v
  · exact h
  · exact h
  · exact refillAll_canonical h

theorem execRefill_canonical (h : s.Canonical) : CanonicalOut (execRefill c v s) := by
  fun_cases execRefill c v s
  · exact finish_canonical (refillWrite_canonical h)
  · exact finish_canonical h

theorem mboxEnd_canonical {resp : List Nat} (h : s.Canonical) : (s.mboxEnd status resp).Canonical := h

theorem request_canonical {good : Sys → Bool} {run : State → State} (h : s.Canonical)
    (hrun : ∀ u, u.Canonical → (run u).Canonical) : (s.request op good run).Canonical := by
  fun_cases State.request s op good run
  · exact h
  · exact h
  · exact hrun _ h

theorem execMboxUnknownOpcode_canonical (h : s.Canonical) : CanonicalOut (execMboxUnknownOpcode s) :=
  finish_canonical (ite_canonical h h)

theorem create_canonical (h : s.Canonical) : s.create.Canonical := by
  fun_cases State.create s
  · exact h
  · exact mboxEnd_canonical (foldl_canonical (foldl_canonical h fun _ _ hs => hs) fun _ _ hs => hs)

theorem execTearDownContext_canonical (h : s.Canonical) : CanonicalOut (execTearDownContext s) := by
  unfold execTearDownContext
  refine finish_canonical (request_canonical h fun _ hs => ?_)
  exact ite_canonical (mboxEnd_canonical (tearDown_canonical hs)) hs

theorem execLoadMatterKeySlot_canonical (h : s.Canonical) : CanonicalOut (execLoadMatterKeySlot s) := by
  unfold execLoadMatterKeySlot
  refine finish_canonical (request_canonical h fun _ hs => ?_)
  dsimp only
  split
  · exact ite_canonical hs hs
  · exact hs

theorem execClearMatterKeySlot_canonical (h : s.Canonical) : CanonicalOut (execClearMatterKeySlot s) :=
  finish_canonical (request_canonical h fun _ hs => ite_canonical hs hs)

theorem execFillReservePool_canonical (h : s.Canonical) : CanonicalOut (execFillReservePool s) := by
  unfold execFillReservePool
  refine finish_canonical (request_canonical h fun _ hs => ?_)
  dsimp only
  split <;> exact ite_canonical hs hs

theorem execClearQuarantine_canonical (h : s.Canonical) : CanonicalOut (execClearQuarantine s) := by
  unfold execClearQuarantine
  refine finish_canonical (request_canonical h fun _ hs => ?_)
  dsimp only
  split
  · exact hs
  · split
    · exact hs
    · split
      · exact hs
      · exact mboxEnd_canonical (foldl_canonical (foldl_canonical hs fun _ _ ht =>
          hbmSetLine_canonical (foldl_canonical ht fun _ _ hu => hu)) fun _ _ ht => ht)

theorem execMovePageHome_canonical (h : s.Canonical) : CanonicalOut (execMovePageHome s) := by
  unfold execMovePageHome
  refine finish_canonical (request_canonical h fun _ hs => ?_)
  dsimp only
  split
  · exact hs
  · split
    · exact hs
    · split
      · exact hs
      · refine mboxEnd_canonical (foldl_canonical (dropLines_canonical ?_) fun _ _ ht => ht)
        split
        · exact foldl_canonical hs fun _ _ ht => enterSector_canonical (enterSector_canonical ht)
        · exact writeBack_canonical hs

theorem execAttestationQuote_canonical (h : s.Canonical) : CanonicalOut (execAttestationQuote s) :=
  finish_canonical (request_canonical h fun _ hs => ite_canonical hs hs)

theorem failPort_canonical (h : s.Canonical) : (s.failPort p).Canonical := by
  fun_cases State.failPort s p
  · exact h
  · exact hostRecord_canonical h

theorem execPeerFlitCrcFailure_canonical (h : s.Canonical) : CanonicalOut (execPeerFlitCrcFailure p s) := by
  fun_cases execPeerFlitCrcFailure p s
  · exact finish_canonical h
  · exact finish_canonical (ite_canonical (failPort_canonical h) h)

theorem shootSettle_canonical {f : Flight} {fenced : Bool} (h : s.Canonical) :
    (s.shootSettle f p fenced).Canonical := by
  fun_cases State.shootSettle s f p fenced
  · exact answer_canonical h
  · exact h
  · exact h

theorem execPeerShootdownAcknowledgement_canonical (h : s.Canonical) :
    CanonicalOut (execPeerShootdownAcknowledgement p s) := by
  fun_cases execPeerShootdownAcknowledgement p s
  · exact finish_canonical (shootSettle_canonical h)
  · exact finish_canonical h

theorem execPeerShootdownRequest_canonical (h : s.Canonical) :
    CanonicalOut (execPeerShootdownRequest p ctx base len inv s) := by
  fun_cases execPeerShootdownRequest p ctx base len inv s
  · exact finish_canonical h
  · exact finish_canonical (shootDown_canonical h)

theorem peerReduce_canonical {vals : List Nat} (h : s.Canonical) : (s.peerReduce pa op ty vals).Canonical := by
  unfold State.peerReduce
  refine foldl_canonical h fun _ _ hs => ?_
  split
  · exact hs
  · dsimp only
    exact memEndLine_canonical (writeBack_canonical hs)

theorem execPeerReduceReceive_canonical {vals : List Nat} (h : s.Canonical) :
    CanonicalOut (execPeerReduceReceive p pa op ty vals s) := by
  fun_cases execPeerReduceReceive p pa op ty vals s
  · exact finish_canonical h
  · exact finish_canonical (peerReduce_canonical h)

theorem inbound_canonical (h : s.Canonical) : (s.inbound pa bs).Canonical :=
  foldl_canonical h fun _ _ hs => memEndPut_canonical hs

/-! ### `Sys2Proof/Machine/Load.lean` -/

theorem putCode_canonical (h : s.Canonical) : (s.putCode ctx va bs).Canonical := by
  unfold State.putCode
  refine foldl_canonical h fun _ _ hs => ?_
  split
  · split
    · dsimp only
      exact memEndLine_canonical (writeBack_canonical hs)
    · exact hs
  · exact hs

theorem resite_canonical (h : s.Canonical) : (s.resite c).Canonical := by
  fun_cases State.resite s c
  · exact h
  · exact foldl_canonical h fun _ _ hs => setTile_canonical (ite_canonical (scrubTile_canonical hs) hs)

theorem load_canonical (h : s.Canonical) : (s.load ctx pa len).Canonical := by
  fun_cases State.load s ctx pa len
  case case6 =>
    exact mboxEnd_canonical (updContext_canonical (foldl_canonical h fun _ _ hs => putCode_canonical hs))
  all_goals exact h

theorem execLoadObject_canonical (h : s.Canonical) : CanonicalOut (execLoadObject s) := by
  unfold execLoadObject
  refine finish_canonical (request_canonical h fun _ hs => ?_)
  exact ite_canonical (load_canonical (foldl_canonical hs fun _ _ ht => resite_canonical ht)) hs

/-! ### `Sys2Proof/Machine/Repair.lean` -/

theorem haltTile_canonical (h : s.Canonical) : (s.haltTile t).Canonical :=
  updTile_canonical (stopTile_canonical h)

theorem poisonLaunches_canonical {tiles : List Nat} (h : s.Canonical) :
    (s.poisonLaunches col tiles cause origin).Canonical := by
  unfold State.poisonLaunches
  refine foldl_canonical h fun _ _ hs => ?_
  split
  · exact writeCw_canonical hs
  · exact hs

theorem poisonHomes_canonical {f : Nat → HomeRec → Bool} (h : s.Canonical) :
    (s.poisonHomes f cause origin).Canonical :=
  foldl_canonical h fun _ _ hs => foldl_canonical hs fun _ _ ht => poisonHome_canonical ht

theorem fenceColumn_canonical (h : s.Canonical) : (s.fenceColumn c).Canonical := by
  unfold State.fenceColumn
  split
  · exact h
  · extract_lets o tiles s1 s2 s3 s4 y
    have h2 : s2.Canonical := foldl_canonical h fun _ _ hs => haltTile_canonical hs
    have h4 : s4.Canonical := poisonHomes_canonical (poisonLaunches_canonical h2)
    clear_value s4
    exact hostRecord_canonical h4

theorem fenceTile_canonical (h : s.Canonical) : (s.fenceTile t).Canonical := by
  unfold State.fenceTile
  extract_lets c T o s1 s2 y s3 s4
  split
  · exact h
  · have h1 : s1.Canonical := poisonLaunches_canonical (haltTile_canonical h)
    have h2 : s2.Canonical := poisonHomes_canonical h1
    clear_value s2
    exact hostRecord_canonical (ite_canonical h2 (fenceColumn_canonical h2))

theorem repairWire_canonical {log : Bool} (h : s.Canonical) : (s.repairWire c sh w log).Canonical :=
  ite_canonical (fenceColumn_canonical (ite_canonical h h)) (ite_canonical h h)

theorem reapply_canonical (h : s.Canonical) : (s.reapply c).Canonical :=
  foldl_canonical h fun _ _ hs => repairWire_canonical hs

theorem coldBase_canonical (h : s.Canonical) : s.coldBase.Canonical := memFilter_wf _ h
theorem warmBase_canonical (h : s.Canonical) : s.warmBase.Canonical := memFilter_wf _ h
theorem bootAt_canonical {stage err : Nat} (h : s.Canonical) : (s.bootAt stage err).Canonical := h

theorem bootRepair_canonical (h : s.Canonical) : s.bootRepair.Canonical :=
  foldl_canonical h fun _ _ hs => ite_canonical hs (reapply_canonical hs)

theorem bootStep_canonical (h : s.Canonical) : s.bootStep.Canonical := by
  have take {n : Nat} {u : State} (hu : takeIn 0 1 s = (n, u)) : u.Canonical :=
    snd_canonical (takeIn_canonical h) hu
  fun_cases State.bootStep s
  case case5 => exact bootAt_canonical (bootRepair_canonical (take ‹_›))
  case case7 => next hx _ _ => exact Canonical_of_mem (take hx) rfl
  case case8 => exact take ‹_›
  all_goals exact bootAt_canonical (take ‹_›)

theorem warmReset_canonical (h : s.Canonical) : s.warmReset.Canonical := by
  fun_cases State.warmReset s
  · exact h
  · exact bootAt_canonical (warmBase_canonical h)

theorem becomesReady_canonical (h : s.Canonical) : (s.becomesReady f).Canonical := by
  fun_cases State.becomesReady s f <;> exact h

theorem unmark_canonical (h : s.Canonical) : (s.unmark c).Canonical := by
  fun_cases State.unmark s c
  · exact h
  · exact updCol_canonical (reapply_canonical h)

theorem poisonPiece_canonical {f : Flight} {a : Access} (h : s.Canonical) : (s.poisonPiece f a).Canonical := by
  fun_cases State.poisonPiece s f a
  · exact h
  · exact refly_canonical (snd_canonical (performPiece_canonical h) ‹_›)
  · exact h

theorem poisonFlit_canonical {f : Flight} (h : s.Canonical) : (s.poisonFlit f).Canonical := by
  fun_cases State.poisonFlit s f
  case case2 => exact poisonPiece_canonical h
  case case4 => exact cwpostEnd_canonical h
  case case8 => exact refly_canonical (deliver_canonical h)
  case case9 => exact putComplete_canonical (deliver_canonical h)
  all_goals exact h

theorem poisonSlot_canonical (h : s.Canonical) : (s.poisonSlot t).Canonical := by
  fun_cases State.poisonSlot s t
  · exact h
  · exact snd_canonical (takeIn_canonical h) ‹_›
  · exact enterSector_canonical (snd_canonical (takeIn_canonical h) ‹_›)
  · exact snd_canonical (takeIn_canonical h) ‹_›

theorem poisonNumber_canonical (h : s.Canonical) : (s.poisonNumber c id).Canonical := by
  fun_cases State.poisonNumber s c id
  case case1 => exact poisonSlot_canonical h
  case case5 => exact poisonFlit_canonical h
  all_goals exact h

theorem crcFailure_canonical (h : s.Canonical) : (s.crcFailure c sh w id).Canonical := by
  fun_cases State.crcFailure s c sh w id
  · exact soon_canonical (ite_canonical (poisonNumber_canonical h) h)
  · exact ite_canonical (poisonNumber_canonical h) h

theorem execFlitCrcFailure_canonical (h : s.Canonical) : CanonicalOut (execFlitCrcFailure c sh wire id s) := by
  fun_cases execFlitCrcFailure c sh wire id s
  · exact finish_canonical h
  · exact finish_canonical (crcFailure_canonical h)

theorem declareWire_canonical (h : s.Canonical) : (s.declareWire c sh w).Canonical := by
  fun_cases State.declareWire s c sh w <;> exact h

theorem execWireFailureDeclared_canonical (h : s.Canonical) :
    CanonicalOut (execWireFailureDeclared c sh wire s) := by
  fun_cases execWireFailureDeclared c sh wire s
  · exact finish_canonical h
  · exact finish_canonical (declareWire_canonical h)

theorem softRepair_canonical (h : s.Canonical) : (s.softRepair c).Canonical :=
  foldl_canonical h fun _ _ hs => ite_canonical hs (repairWire_canonical hs)

theorem poisonInWay_canonical (h : s.Canonical) : (s.poisonInWay c x w n).Canonical := by
  fun_cases State.poisonInWay s c x w n <;> exact h

theorem spareSwitch_canonical {isCol : Bool} (h : s.Canonical) : (s.spareSwitch c way isCol bad).Canonical := by
  fun_cases State.spareSwitch s c way isCol bad
  · exact ite_canonical h h
  · exact poisonInWay_canonical (ite_canonical h h)
  · exact ite_canonical h h

theorem execBankStoreSpareSwitch_canonical {isCol : Nat} (h : s.Canonical) :
    CanonicalOut (execBankStoreSpareSwitch c way isCol bad s) := by
  fun_cases execBankStoreSpareSwitch c way isCol bad s
  · exact finish_canonical h
  · exact finish_canonical (spareSwitch_canonical h)

theorem execRefreshBurst_canonical (h : s.Canonical) : CanonicalOut (execRefreshBurst ch s) := by
  fun_cases execRefreshBurst ch s <;> exact finish_canonical h

theorem governor_canonical {watts : Nat} (h : s.Canonical) : (s.governor watts).Canonical := by
  fun_cases State.governor s watts
  · next hx _ _ _ _ _ =>
    exact resumeFrom_canonical
      (foldl_canonical (Canonical_of_mem (snd_canonical (takeFree_canonical h) hx) rfl) fun _ _ hs => hs)
  · next hx _ _ _ _ _ => exact Canonical_of_mem (snd_canonical (takeFree_canonical h) hx) rfl

theorem execGovernorThrottlePeriod_canonical {up : Nat} (h : s.Canonical) :
    CanonicalOut (execGovernorThrottlePeriod c up s) := by
  fun_cases execGovernorThrottlePeriod c up s
  · exact finish_canonical h
  · exact finish_canonical (resumeFrom_canonical h)

theorem execHbmUncorrectableRead_canonical (h : s.Canonical) :
    CanonicalOut (execHbmUncorrectableRead pa s) := by
  fun_cases execHbmUncorrectableRead pa s
  · exact finish_canonical h
  · exact finish_canonical (enterSector_canonical h)

/-! ### `Sys2Proof/Machine/Check.lean` -/

theorem ctlError_canonical {w : Word} (h : s.Canonical) : (s.ctlError t id w).Canonical := by
  fun_cases State.ctlError s t id w
  · exact h
  · exact h
  · exact trap_canonical h

theorem accError_canonical {w : Word} (h : s.Canonical) : (s.accError t w).Canonical := by
  unfold State.accError
  dsimp only
  split
  · exact h
  · split
    · exact h
    · split <;> exact ite_canonical (signalNow_canonical h) h

theorem vecError_canonical {w : Word} (h : s.Canonical) : (s.vecError t part w).Canonical := by
  unfold State.vecError
  dsimp only
  split <;> exact ite_canonical h h

theorem windowLost_canonical {w : Window} (h : s.Canonical) : (s.windowLost t w lw).Canonical :=
  stopEngine_canonical (foldl_canonical h fun _ _ hs => signalNow_canonical hs)

theorem mtxError_canonical (h : s.Canonical) : (s.mtxError t lw).Canonical := by
  fun_cases State.mtxError s t lw
  case case1 => exact h
  case case2 | case3 =>
    next u _ _ =>
    have hu : u.Canonical := by
      unfold u
      split
      · exact signalNow_canonical h
      · exact signalNow_canonical h
      · exact h
    exact hu

theorem mtxMismatch_canonical (h : s.Canonical) : (s.mtxMismatch t lw).Canonical := by
  fun_cases State.mtxMismatch s t lw
  · exact mtxError_canonical h
  · exact h
  · exact windowLost_canonical h
  · exact mtxError_canonical h

theorem xbrError_canonical (h : s.Canonical) : (s.xbrError t lw).Canonical := by
  fun_cases State.xbrError s t lw
  · exact h
  · exact stopUnit_canonical h

theorem digitalError_canonical (h : s.Canonical) : (s.digitalError t).Canonical := by
  fun_cases State.digitalError s t <;> exact h

theorem auditError_canonical (h : s.Canonical) : (s.auditError t).Canonical := by
  fun_cases State.auditError s t
  · exact h
  · exact xcmdEnd_canonical h

theorem copyError_canonical (h : s.Canonical) : (s.copyError t lw).Canonical := by
  fun_cases State.copyError s t lw
  · exact h
  · exact cpyFault_canonical h

theorem receiveError_canonical (h : s.Canonical) : (s.receiveError t).Canonical := by
  unfold State.receiveError
  dsimp only
  split
  · exact h
  · refine flyTile_canonical (land_canonical ?_)
    split
    · exact retest_canonical (updTile_canonical (foldl_canonical h fun _ _ hs => deliver_canonical hs))
    · exact foldl_canonical h fun _ _ hs => deliver_canonical hs

theorem unitError_canonical (h : s.Canonical) : (s.unitError t u id lw).Canonical := by
  fun_cases State.unitError s t u id lw
  · exact vecError_canonical h
  · exact ctlError_canonical h
  · exact accError_canonical h
  · exact xbrError_canonical h
  · exact copyError_canonical h
  · exact receiveError_canonical h
  · exact digitalError_canonical h
  · exact auditError_canonical h
  · exact h

theorem testBegins_canonical (h : s.Canonical) : (s.testBegins t u n i id).Canonical := h

theorem mismatch_canonical (h : s.Canonical) : (s.mismatch t u fails).Canonical := by
  fun_cases State.mismatch s t u fails
  · exact h
  · exact testBegins_canonical (snd_canonical h ‹_›)

theorem execCheckerMismatch_canonical (h : s.Canonical) : CanonicalOut (execCheckerMismatch t u fails s) := by
  fun_cases execCheckerMismatch t u fails s
  · exact finish_canonical h
  · exact finish_canonical (mismatch_canonical h)

theorem nmuVerdict_canonical {fail : Bool} (h : s.Canonical) : (s.nmuVerdict ch fail).Canonical := by
  fun_cases State.nmuVerdict s ch fail <;> exact h

theorem verdict_canonical {fail : Bool} (h : s.Canonical) : (s.verdict t u fail).Canonical := by
  fun_cases State.verdict s t u fail
  · exact nmuVerdict_canonical h
  · exact h
  · exact fenceTile_canonical h
  · exact h
  · exact fenceTile_canonical h
  · exact testBegins_canonical (ite_canonical (mtxMismatch_canonical (ite_canonical h h))
      (ite_canonical (ite_canonical h h) (unitError_canonical (ite_canonical h h))))
  · exact ite_canonical (mtxMismatch_canonical (ite_canonical h h))
      (ite_canonical (ite_canonical h h) (unitError_canonical (ite_canonical h h)))

theorem execSelfTestVerdict_canonical {fail : Nat} (h : s.Canonical) :
    CanonicalOut (execSelfTestVerdict t u fail s) := by
  fun_cases execSelfTestVerdict t u fail s
  · exact finish_canonical h
  · exact finish_canonical (verdict_canonical h)

theorem sramError_canonical (h : s.Canonical) : (s.sramError t holder i).Canonical := by
  fun_cases State.sramError s t holder i <;> exact h

theorem execSramUncorrectableError_canonical (h : s.Canonical) :
    CanonicalOut (execSramUncorrectableError t holder idx s) := by
  fun_cases execSramUncorrectableError t holder idx s
  · exact finish_canonical h
  · exact finish_canonical (sramError_canonical h)

theorem execSramCorrectableError_canonical (h : s.Canonical) :
    CanonicalOut (execSramCorrectableError t u s) := by
  fun_cases execSramCorrectableError t u s <;> exact finish_canonical h

/-! ### `Sys2Proof/Machine/Dispatch.lean` -/

/-- Executing any instruction of the model, in the order of its constructors, keeps memory canonical. -/
theorem exec_canonical {i : Instr} (h : s.Canonical) : CanonicalOut (exec i s) := by
  unfold exec
  cases i with
  | imx | scp | pmt => exact latchPrefix_canonical h
  | nop => exact execNop_canonical h
  | add | sub | mul | mulh | and | or | xor | andn | shl | shr | rot | min | max | ins | fsh | cmp | crng =>
    exact ctlRRR_canonical h
  | div | rem => exact ctlDivide_canonical h
  | clz | ctz | popc | addi | muli | andi | ori | xori | shli | shri | sext | ext | exts | seqi | slti
      | sltui => exact ctlRR_canonical h
  | li | sel | errrd => exact ctlWrite_canonical h
  | b => exact execB_canonical h
  | jmp | ret | tret => exact ctlIssue_canonical h (.plain rfl rfl) fun _ _ _ _ hs => signalNow_canonical hs
  | call | callr =>
    exact ctlIssue_canonical h (.plain rfl rfl) fun _ _ _ _ hs =>
      branch_canonical (signalIn_canonical (linkS_canonical hs))
  | loop => exact execLoop_canonical h
  | fork => exact execFork_canonical h
  | ringp | ringp2 => exact ringPush_canonical h
  | ringq | sysrd | tprb =>
    exact ctlIssue_canonical h (.plain rfl rfl) fun _ _ _ _ hs =>
      ctlNext_canonical (signalIn_canonical (putS_canonical hs))
  | semset | bhmap | mtwr | syswr | binitTile => exact ctlLater_canonical h (.plain rfl rfl)
  | semrd | tokrd => exact ctlSample_canonical h
  | done | ctxscrub => exact ctlIssue_canonical h (.plain rfl rfl) fun _ _ _ _ hs => hs
  | hend => exact execHend_canonical h
  | synrd => exact execSynrd_canonical h
  | scrub => exact execScrub_canonical h
  | poison => exact execPoison_canonical h
  | binitCol | binitDev => exact binitWide_canonical h
  | cwpost => exact execCwpost_canonical h
  | ctlFence => exact execCtlFence_canonical h
  | bsflush | bsinv => exact bankWord_canonical h
  | bspset => exact execBspset_canonical h
  | launch => exact execLaunch_canonical h
  | preemptStop | preemptResume => exact tileWord_canonical h
  | snaprd => exact execSnaprd_canonical h
  | snapwr => exact execSnapwr_canonical h
  | ctxsave | ctxrest => exact slotWord_canonical h
  | ctxkill => exact execCtxkill_canonical h
  | tld => exact execTld_canonical h
  | trde => exact execTrde_canonical h
  | tmap => exact execTmap_canonical h
  | tunmap => exact execTunmap_canonical h
  | tshd => exact execTshd_canonical h
  | trap => exact ctlIssue_canonical h (.plain rfl rfl) fun _ _ _ _ hs => wordTrap_canonical h
  | tspill => exact execTspill_canonical h
  | tfill => exact execTfill_canonical h
  | stest => exact execStest_canonical h
  | errrdSt => exact execErrrdSt_canonical h
  | ldq | ldqs | ldqg => exact queueLoad_canonical h
  | stq | stqs | stqg => exact queueStore_canonical h
  | ldb | ldh | ldw | ldd => exact scalarLoad_canonical h
  | stb | sth | stw | std => exact scalarStore_canonical h
  | cld | cst => exact accIssue_canonical h fun _ _ _ hs => send_canonical hs
  | cder | cderLen => exact accDerive_canonical h
  | cperm | l1inv | l1inva | xgrp | xringSet | xringVmask | crec =>
    exact engIssue_canonical h (.plain rfl) fun _ _ _ hs => signalIn_canonical hs
  | cget | ctest | ali | rdget | qrd => exact accWrite_canonical h
  | aadd | asub => exact accRRR_canonical h
  | aaddi | amuli | ashli | aandi => exact accRR_canonical h
  | rdset => exact execRdset_canonical h
  | mark | qdrop | mtend | sbar | cdrain => exact engIssue_canonical h (.plain rfl) fun _ _ _ hs => hs
  | amoadd | amofadd | amomin | amomax | amoand | amoor | amoxor | amoswp | amocas =>
    exact atomic_canonical h
  | mwait => exact execMwait_canonical h
  | putr | puth | rred => exact accIssue_canonical h fun _ _ _ hs => sendPut_canonical hs
  | dqpush | dqpop | dqsteal => exact dequeWord_canonical h
  | pref => exact execPref_canonical h
  | accFence => exact engIssue_canonical h (.plain rfl) fun _ _ _ hs =>
    flyDev_canonical (acquireL1_canonical hs)
  | vadd | vsub | vmul | vfma | vfms | vdiv | vmin | vmax | vabs | vneg | vsqrt | vrsq | vrcp | vexp | vexp2
      | vlog | vlog2 | vtanh | vsigm | vgelu | vsilu | vsin | vcos | verf => exact vecFloat_canonical h
  | viadd | visub | vimul | vimulh | vimad | viabs | vimin | vimax => exact vecInt_canonical h
  | vand | vor | vxor | vandn | vshl | vshr | vshli | vshri | vext | vins | vfsh | vpopc | vclz | vcvt
      | vpack | vunpk | vclamp => exact vecLane_canonical h
  | vqnt => exact vecIssue_canonical h fun _ _ _ hs => putV_canonical (putV_canonical hs)
  | vdqnt | expnrm => exact vecWord_canonical h
  | vcmp | vcmpi | vtom => exact vecToMask_canonical h
  | vsel | mpopc | vmovfa | expmax | vwelm | mtov =>
    exact vecIssue_canonical h fun _ _ _ hs => putV_canonical hs
  | mand | mor | mxor | mnot | mset => exact maskWord_canonical h
  | vmov | vsplat | vbcr | vbcc | vrotr | vrotc | vperm | vlut | vtrn | vrng | vidx =>
    exact vecMove_canonical h
  | vredr | vredc | vscan | vwelu | vargmx => exact vecWhole_canonical h
  | vmovta | conft => exact vecIssue_canonical h fun _ _ _ hs => hs
  | vrotset => exact engIssue_canonical h (.plain rfl) fun _ _ _ hs => signalNow_canonical hs
  | vloop => exact execVloop_canonical h
  | mgo | mgos => exact mgoWord_canonical h
  | mtstart | mtsel | mtselLq | mtrd | mringSet | maccst | mcvt | mflag =>
    exact mtxIssue_canonical h fun _ _ _ _ hs => hs
  | mringAdv | mspmeta => exact mtxDec_canonical h (mtxIssue_canonical h fun _ _ _ _ hs => hs)
  | mtzero => exact execMtzero_canonical h
  | maccld => exact mtxIssue_canonical h fun _ _ _ _ hs => foldl_canonical hs fun _ _ ht => ht
  | maccadd | mscale => exact accWord_canonical h
  | mrstat => exact execMrstat_canonical h
  | xcfg | xpriv | xprivRel => exact xconfig_canonical h
  | xmask => exact xbrDec_canonical h (xconfig_canonical h)
  | xringAdv =>
    exact xbrDec_canonical h (engIssue_canonical h (.plain rfl) fun _ _ _ hs => signalIn_canonical hs)
  | xmvm | xmvma => exact mvmWord_canonical h
  | xclip | xstat | xcsum => exact statusWordX_canonical h
  | xprogSet | xprogRst | xvfy | xsteep | xrefMeas | xrefBase | xrefProg | xcal | xcert | xcld | xrd | xerase
      | xeraseRt => exact calWork_canonical h
  | xremap => exact execXremap_canonical h
  | xdrift | xoffw | xgainw | xcrd | xfallOff | xfallMan | xfallAuto | xaudit =>
    exact calQuick_canonical h fun _ _ _ hs => hs
  | cpy | cpys | cpyt | cpyx | fill | chksum | kvst | bfctlLoad => exact cpyWord_canonical h
  | cpyg | cpygSct => exact cpygWord_canonical h
  | pfch | cstat | nmuld | nmustat =>
    exact cpyDec_canonical h (engIssue_canonical h (.plain rfl) fun _ _ _ hs => hs)
  | kvgWait | kvgMask => exact kvgWord_canonical h
  | kvout | kvin => exact kvMove_canonical h
  | bfq => exact execBfq_canonical h
  | bfctlStat | bfctlDrain | bfctlPause | bfctlRun => exact bfctlWord_canonical h
  | nadd | nsub | nmul | nfma | nmin | nmax | nabs | nneg | nrcp => exact nmuTyped_canonical h
  | ncmpeq | ncmplt | ncmple | ncmpne => exact nmuCmp_canonical h
  | nsel | nand | nor | nxor | nbcst | nli | nmov | nandn | nshuf => exact nmuBits_canonical h
  | nshl | nshr | nlih => exact nmuElems_canonical h
  | ncvt | nld | nst | nldp | nskip | nnop | nscl => exact nmuWord_canonical h
  | nrsum | nrmin | nrmax => exact nmuRed_canonical h
  | nloop1 | nloop2 | nend => exact nmuRaw_canonical h
  | nclamp => exact execNclamp_canonical h
  | nramax => exact execNramax_canonical h
  | engineFaultDelivery => exact finish_canonical (deliverFault_canonical h)
  | efltRst => exact finish_canonical (efltRst_canonical h)
  | efltSkip => exact finish_canonical (efltSkip_canonical h)
  | pendingWriteLands => exact execPendingWriteLands_canonical h
  | tokenPushTakesEffect => exact finish_canonical (pushWaiting_canonical h)
  | handlerStart => exact finish_canonical (startHandler_canonical h)
  | putDelivery | puthRetry => exact finish_canonical (putEvent_canonical h)
  | homeArrival => exact execHomeArrival_canonical h
  | homeUpdate => exact finish_canonical (updateLands_canonical h)
  | monitorWake => exact execMonitorWake_canonical h
  | mwaitTimeout => exact execMwaitTimeout_canonical h
  | monitorRetry => exact finish_canonical (mwaitAgain_canonical h)
  | matrixStep => exact finish_canonical (matrixStep_canonical h)
  | arrayWorkStart => exact execArrayWorkStart_canonical h
  | vectorRowsLand => exact finish_canonical (vectorLands_canonical h)
  | digitalRouteStep => exact finish_canonical (digitalStep_canonical h)
  | audit => exact finish_canonical (auditStep_canonical h)
  | auditOverdue => exact execAuditOverdue_canonical h
  | automaticMeasurement => exact execAutomaticMeasurement_canonical h
  | copyUnit => exact execCopyUnit_canonical h
  | nmuRun => exact finish_canonical (nmuRunStep_canonical h)
  | nmuParityAbort => exact execNmuParityAbort_canonical h
  | backfillBatch => exact finish_canonical (batchStart_canonical h)
  | backfillLayerComplete => exact finish_canonical (layerStep_canonical h)
  | checkerMismatch => exact execCheckerMismatch_canonical h
  | selfTestVerdict => exact execSelfTestVerdict_canonical h
  | sramUncorrectableError => exact execSramUncorrectableError_canonical h
  | cimUncorrectableFetch | fetchBeyondCimImage => exact finish_canonical (trap_canonical h)
  | hbmUncorrectableRead => exact execHbmUncorrectableRead_canonical h
  | faultRecordWrite => exact finish_canonical (writeWaiting_canonical h)
  | launchAcceptance => exact finish_canonical (launchArrives_canonical h)
  | submissionEntryRead => exact finish_canonical (readEntry_canonical h)
  | bindingDecision => exact finish_canonical (decideBinding_canonical h)
  | priorityPromotion | hbmTemperatureRead | thermalStopBinding | thermalPowerOff =>
    exact finish_canonical h
  | taskBind => exact finish_canonical (bindArrives_canonical h)
  | nodeCompletion => exact finish_canonical (nodeDone_canonical h)
  | doneCompletion => exact finish_canonical (taskDone_canonical h)
  | stallWireFall => exact finish_canonical (wireFalls_canonical h)
  | replay => exact execReplay_canonical h
  | refill => exact execRefill_canonical h
  | sqdb => exact finish_canonical (doorbell_canonical h)
  | registerWrite => exact finish_canonical (regWrite_canonical h)
  | createContext => exact finish_canonical (request_canonical h fun _ hs => create_canonical hs)
  | tearDownContext => exact execTearDownContext_canonical h
  | loadMatterKeySlot => exact execLoadMatterKeySlot_canonical h
  | clearMatterKeySlot => exact execClearMatterKeySlot_canonical h
  | loadObject => exact execLoadObject_canonical h
  | fillReservePool => exact execFillReservePool_canonical h
  | clearQuarantine => exact execClearQuarantine_canonical h
  | movePageHome => exact execMovePageHome_canonical h
  | attestationQuote => exact execAttestationQuote_canonical h
  | mboxUnknownOpcode => exact execMboxUnknownOpcode_canonical h
  | coldReset => exact finish_canonical (bootAt_canonical (coldBase_canonical h))
  | warmReset => exact finish_canonical (warmReset_canonical h)
  | functionReady => exact finish_canonical (becomesReady_canonical h)
  | repairReapplied => exact finish_canonical (unmark_canonical h)
  | flitCrcFailure => exact execFlitCrcFailure_canonical h
  | wireFailureDeclared => exact execWireFailureDeclared_canonical h
  | softRepair => exact finish_canonical (softRepair_canonical h)
  | bankStoreSpareSwitch => exact execBankStoreSpareSwitch_canonical h
  | refreshBurst => exact execRefreshBurst_canonical h
  | governorMeasurement => exact finish_canonical (governor_canonical h)
  | governorThrottlePeriod => exact execGovernorThrottlePeriod_canonical h
  | peerFlitCrcFailure => exact execPeerFlitCrcFailure_canonical h
  | peerShootdownTimeout =>
    exact finish_canonical
      (foldl_canonical h fun _ _ hs => shootSettle_canonical (hostRecord_canonical (failPort_canonical hs)))
  | peerReduceReceive => exact execPeerReduceReceive_canonical h
  | wordNotAnInstruction => exact finish_canonical (decodeCause_canonical h)
  | accessResponse => exact execAccessResponse_canonical h
  | inboundMemoryAccess => exact finish_canonical (inbound_canonical h)
  | peerShootdownRequest => exact execPeerShootdownRequest_canonical h
  | peerShootdownAcknowledgement => exact execPeerShootdownAcknowledgement_canonical h
  | imageStream => exact finish_canonical (streamNext_canonical h)
  | calibrationWordComplete => exact finish_canonical (calUnitEnds_canonical h)
  | sramCorrectableError => exact execSramCorrectableError_canonical h

/-! ### `Sys2Proof/Machine/Sched.lean` -/

theorem runDecoded_canonical {r : Except Nat Instr} (h : s.Canonical) : CanonicalOut (s.runDecoded r) := by
  fun_cases State.runDecoded s r
  · exact exec_canonical h
  · exact finish_canonical (decodeCause_canonical h)

theorem ctlRun_canonical (h : s.Canonical) : CanonicalOut (s.ctlRun t c) := by
  fun_cases State.ctlRun s t c
  · exact exec_canonical h
  · exact exec_canonical h
  · exact runDecoded_canonical h

theorem ctlTurn_canonical (h : s.Canonical) : CanonicalOut (s.ctlTurn t c) := by
  fun_cases State.ctlTurn s t c
  · exact next_canonical h
  · exact ctlRun_canonical h

theorem faultTurn_canonical {held : Bool} (h : s.Canonical) : CanonicalOut (s.faultTurn t held) := by
  fun_cases State.faultTurn s t held
  · exact next_canonical (ctlTurn_canonical h _ ‹_›)
  · exact exec_canonical h
  · exact ctlTurn_canonical h

theorem portATurn_canonical (h : s.Canonical) : CanonicalOut (s.portATurn t) := by
  fun_cases State.portATurn s t
  · exact faultTurn_canonical h
  · exact ctlTurn_canonical h

theorem portBTurn_canonical (h : s.Canonical) : CanonicalOut (s.portBTurn t c) := by
  fun_cases State.portBTurn s t c
  · exact next_canonical h
  · exact next_canonical (updTile_canonical (ctlTurn_canonical h _ ‹_›))
  · exact next_canonical (ctlTurn_canonical h _ ‹_›)
  · exact ctlTurn_canonical h

theorem ringWordTurn_canonical (h : s.Canonical) : CanonicalOut (s.ringWordTurn t e) := by
  fun_cases State.ringWordTurn s t e
  · exact next_canonical (reachFork_canonical h)
  · exact next_canonical (reachFork_canonical h)
  · exact runDecoded_canonical (reachFork_canonical h)

theorem issuedTurn_canonical (h : s.Canonical) : CanonicalOut (s.issuedTurn t e) := by
  fun_cases State.issuedTurn s t e
  · exact runDecoded_canonical h
  · exact next_canonical h

theorem engineTurn_canonical (h : s.Canonical) : CanonicalOut (s.engineTurn t e) := by
  fun_cases State.engineTurn s t e
  · exact next_canonical h
  · exact ringWordTurn_canonical h
  · exact finish_canonical (markStep_canonical h)
  · exact finish_canonical (qdropStep_canonical h)
  · exact finish_canonical (rdsetStep_canonical h)
  · exact issuedTurn_canonical h
  · exact next_canonical h

theorem earlyTurn_canonical (h : s.Canonical) : CanonicalOut (s.earlyTurn t e) := by
  fun_cases State.earlyTurn s t e
  case case3 | case7 => exact engineTurn_canonical h
  case case5 => exact next_canonical (engineTurn_canonical h _ ‹_›)
  all_goals exact next_canonical h

theorem nmuTurn_canonical (h : s.Canonical) : CanonicalOut (s.nmuTurn ch) := by
  fun_cases State.nmuTurn s ch
  · exact next_canonical h
  · exact next_canonical h
  · exact exec_canonical h
  · exact next_canonical h

theorem landTurn_canonical (h : s.Canonical) : CanonicalOut (s.landTurn id) := by
  fun_cases State.landTurn s id
  · exact next_canonical h
  · exact exec_canonical h

theorem releasedTurn_canonical {wh : HeldWhat} (h : s.Canonical) : CanonicalOut (s.releasedTurn c wh) := by
  fun_cases State.releasedTurn s c wh
  · exact issuedTurn_canonical h
  · exact exec_canonical h
  · exact next_canonical h
  · exact ctlRun_canonical h
  · exact next_canonical h
  · exact exec_canonical h
  · exact next_canonical h
  · exact issuedTurn_canonical h
  · exact next_canonical h
  · exact exec_canonical h
  · exact exec_canonical h
  · exact next_canonical h
  · exact exec_canonical h

theorem takeTurn_canonical {turn : Turn} (h : s.Canonical) : CanonicalOut (s.takeTurn turn) := by
  fun_cases State.takeTurn s turn
  · exact portATurn_canonical h
  · exact faultTurn_canonical h
  · exact next_canonical h
  · exact earlyTurn_canonical h
  · exact portBTurn_canonical h
  · exact engineTurn_canonical h
  · exact nmuTurn_canonical h
  · exact landTurn_canonical h
  · exact exec_canonical h
  · exact exec_canonical h
  · exact exec_canonical h
  · exact releasedTurn_canonical h
  · exact finish_canonical (mayEvict_canonical h)
  · exact finish_canonical (ite_canonical (bootStep_canonical h) h)
  · exact exec_canonical h
  · exact next_canonical h

theorem oneStep_canonical (h : s.Canonical) : CanonicalOut s.oneStep := by
  fun_cases State.oneStep s
  · exact exec_canonical h
  · exact exec_canonical h
  · exact next_canonical h
  · exact next_canonical h
  · exact takeTurn_canonical h

/-! ### `Sys2Proof/Machine/Step.lean` -/

/-- Every step keeps memory canonical: an arrival, an event or a turn, and the passing of time. -/
theorem step_canonical (h : s.Canonical) : CanonicalOut (step s) := oneStep_canonical h

end

/-- Settles O7: `step_canonical` composes the lemmas above, one for each function by which a step makes its next
state. -/
theorem stepKeepsMemoryCanonical : Obligations.StepKeepsMemoryCanonical := by
  unfold Obligations.StepKeepsMemoryCanonical
  exact fun _ u h hu => step_canonical h u hu

end Sys2Proof.Machine
end

/-! ### Command words, encoded and decoded (O1 to O4)

`decode` and `encode` work from the rows of one table, so the argument goes row by row and then no further into the
instructions. `rowsOf_faithful` says that a row allows the operands that `WellFormed` allows; `laidOut_of_mem` and
`rowsOf_before` say how a row lies in the word and how the rows of one opcode exclude one another, which are facts about
the tables that evaluate; `row_of_instrParts` says which row writes an instruction. From these, packing and reading
fields is bit arithmetic (`bitsAt_packSub`), and the decoder's checks are R29's. -/

section
namespace Sys2Proof

/-! ### Bits of packed operands -/

/-- A run of bits, given by its first bit and its width. -/
abbrev Run := Nat × Nat

/-- The runs share no bit. -/
abbrev Apart (a b : Run) : Prop := a.1 + a.2 ≤ b.1 ∨ b.1 + b.2 ≤ a.1

/-- The run of a fixed field. -/
def runOf (s : Nat × Nat × Nat) : Run := (s.1, s.2.1)

/-- Fixed fields whose runs share no bit and whose values fit. -/
def Packed (segs : List (Nat × Nat × Nat)) : Prop :=
  (segs.map runOf).Pairwise Apart ∧ ∀ s ∈ segs, s.2.2 < 2 ^ s.2.1

/-- The number of a set bit lies below the width of the value. -/
theorem lt_of_testBit {a w j : Nat} (ha : a < 2 ^ w) (hj : a.testBit j = true) : j < w :=
  (Nat.pow_lt_pow_iff_right Nat.one_lt_two).mp ((Nat.ge_two_pow_of_testBit hj).trans_lt ha)

theorem add_eq_or_of_and_eq_zero {x y : Nat} (h : x &&& y = 0) : x + y = x ||| y := by
  have lt : x + y < 2 ^ (x + y) := Nat.lt_two_pow_self
  have hv := congrArg BitVec.toNat (BitVec.add_eq_or_of_and_eq_zero (BitVec.ofNat (x + y) x) (BitVec.ofNat (x + y) y)
    (by rw [← BitVec.ofNat_and, h]))
  rwa [BitVec.toNat_add, BitVec.toNat_or, BitVec.toNat_ofNat, BitVec.toNat_ofNat, Nat.mod_eq_of_lt (by omega : x < _),
    Nat.mod_eq_of_lt (by omega : y < _), Nat.mod_eq_of_lt lt] at hv

/-- A bit of packed fields is a bit of one of them. -/
theorem testBit_packSub {segs : List (Nat × Nat × Nat)} (h : Packed segs) (k : Nat) :
    (packSub segs).testBit k = true ↔ ∃ s ∈ segs, s.1 ≤ k ∧ s.2.2.testBit (k - s.1) = true := by
  induction segs generalizing k with
  | nil => simp [packSub]
  | cons s segs ih =>
    obtain ⟨lo, w, v⟩ := s
    obtain ⟨apart, fits⟩ := h
    obtain ⟨apart_s, apart_segs⟩ := List.pairwise_cons.mp apart
    have fit_s : v < 2 ^ w := fits _ List.mem_cons_self
    have ih := ih ⟨apart_segs, fun t ht => fits t (List.mem_cons_of_mem _ ht)⟩
    have disjoint : v * 2 ^ lo &&& packSub segs = 0 := by
      refine Nat.eq_of_testBit_eq fun j => ?_
      rw [Nat.testBit_and, Nat.zero_testBit, Bool.and_eq_false_imp, ← Nat.shiftLeft_eq, Nat.testBit_shiftLeft]
      intro hj
      obtain ⟨hlo, hv⟩ := Bool.and_eq_true_iff.mp hj
      refine Bool.eq_false_iff.mpr fun hrest => ?_
      obtain ⟨t, ht, htlo, htv⟩ := (ih j).mp hrest
      have := lt_of_testBit fit_s hv
      have := lt_of_testBit (fits t (List.mem_cons_of_mem _ ht)) htv
      have := apart_s _ (List.mem_map_of_mem ht)
      simp only [Apart, runOf, ge_iff_le, decide_eq_true_eq] at this hlo
      omega
    rw [packSub, add_eq_or_of_and_eq_zero disjoint, Nat.testBit_or, Bool.or_eq_true, ih, ← Nat.shiftLeft_eq,
      Nat.testBit_shiftLeft]
    simp

theorem testBit_bitsAt (x lo w k : Nat) : (bitsAt x lo w).testBit k = (decide (k < w) && x.testBit (lo + k)) := by
  rw [bitsAt, Nat.testBit_mod_two_pow, Nat.testBit_div_two_pow, Nat.add_comm]

theorem bitsAt_lt (x lo w : Nat) : bitsAt x lo w < 2 ^ w := Nat.mod_lt _ (Nat.two_pow_pos w)

/-- Of packed fields, the one whose run holds bit `k` is the only one. -/
theorem Packed.eq_of_mem {segs : List (Nat × Nat × Nat)} (h : Packed segs) {s t : Nat × Nat × Nat} (hs : s ∈ segs)
    (ht : t ∈ segs) {k : Nat} (hsk : s.1 ≤ k ∧ k < s.1 + s.2.1) (htk : t.1 ≤ k ∧ k < t.1 + t.2.1) : s = t := by
  by_contra hne
  have symm : Std.Symm fun a b => Apart (runOf a) (runOf b) := ⟨fun _ _ => Or.symm⟩
  have apart : Apart (runOf s) (runOf t) := (List.pairwise_map.mp h.1).forall hs ht hne
  simp only [Apart, runOf] at apart
  omega

/-- Packed fields read back. -/
theorem bitsAt_packSub {segs : List (Nat × Nat × Nat)} (h : Packed segs) {s : Nat × Nat × Nat} (hs : s ∈ segs) :
    bitsAt (packSub segs) s.1 s.2.1 = s.2.2 := by
  refine Nat.eq_of_testBit_eq fun k => Bool.eq_iff_iff.mpr ?_
  rw [testBit_bitsAt, Bool.and_eq_true, decide_eq_true_eq, testBit_packSub h]
  constructor
  · rintro ⟨hk, t, ht, hlo, hbit⟩
    have := lt_of_testBit (h.2 t ht) hbit
    obtain rfl := h.eq_of_mem hs ht (k := s.1 + k) (by omega) (by omega)
    rwa [Nat.add_sub_cancel_left] at hbit
  · intro hbit
    exact ⟨lt_of_testBit (h.2 s hs) hbit, s, hs, Nat.le_add_right .., by rwa [Nat.add_sub_cancel_left]⟩

theorem packSub_lt {segs : List (Nat × Nat × Nat)} (h : Packed segs) {n : Nat} (hn : ∀ s ∈ segs, s.1 + s.2.1 ≤ n) :
    packSub segs < 2 ^ n := by
  refine Nat.lt_pow_two_of_testBit _ fun k hk => Bool.eq_false_iff.mpr fun hbit => ?_
  obtain ⟨s, hs, hlo, hbit⟩ := (testBit_packSub h k).mp hbit
  have := lt_of_testBit (h.2 s hs) hbit
  have := hn s hs
  omega

theorem packSub_append (a b : List (Nat × Nat × Nat)) : packSub (a ++ b) = packSub a + packSub b := by
  induction a with
  | nil => simp [packSub]
  | cons s a ih => simp [packSub, ih, Nat.add_assoc]

/-! ### Operand fields -/

/-- The bits of the word that the operand `v` fills, as a fixed field. -/
def Fld.lowSeg (f : Fld) (v : Nat) : Nat × Nat × Nat := (f.lo, f.w, v % 2 ^ f.w)

/-- The bits of IMX that the operand `v` fills. -/
def Fld.highSeg (f : Fld) (v : Nat) : Nat × Nat × Nat := (f.elo, f.ew, v / 2 ^ f.w % 2 ^ f.ew)

theorem packLow_eq : ∀ (fs : List Fld) (vs : List Nat), packLow fs vs = packSub (List.zipWith Fld.lowSeg fs vs)
  | [], _ | _ :: _, [] => by simp [packLow, packSub]
  | f :: fs, v :: vs => by simp [packLow, packSub, packLow_eq fs vs, Fld.lowSeg, Fld.low]

theorem packHigh_eq : ∀ (fs : List Fld) (vs : List Nat), packHigh fs vs = packSub (List.zipWith Fld.highSeg fs vs)
  | [], _ | _ :: _, [] => by simp [packHigh, packSub]
  | f :: fs, v :: vs => by simp [packHigh, packSub, packHigh_eq fs vs, Fld.highSeg, Fld.high]

/-- A value that the field's bits, with those of IMX, can say. -/
@[simp] def Fld.inRange (f : Fld) (v : Nat) : Bool :=
  if f.sg then fitsS (f.w + f.ew) v else decide (v < 2 ^ (f.w + f.ew))

/-- `v` is in the range of the field, and the field's check accepts it. -/
@[simp] def Fld.admits (f : Fld) (v : Nat) : Bool :=
  f.inRange v && f.chk.okMod v && f.chk.okReg v && f.chk.okRng v

theorem Fld.admits_iff (f : Fld) (v : Nat) : f.admits v = true ↔
    f.inRange v = true ∧ f.chk.okMod v = true ∧ f.chk.okReg v = true ∧ f.chk.okRng v = true := by
  simp only [admits, Bool.and_eq_true, and_assoc]

/-- An unsigned operand without bits in IMX fits its bits of the word. -/
theorem Fld.lt_of_inRange {f : Fld} {v : Nat} (hew : f.ew = 0) (hsg : f.sg = false) (hv : f.inRange v = true) :
    v < 2 ^ f.w := by
  simpa [inRange, hew, hsg] using hv

theorem fitsS_iff (n v : Nat) : fitsS n v = true ↔ v < 2 ^ 64 ∧ (v < 2 ^ (n - 1) ∨ 2 ^ 64 - 2 ^ (n - 1) ≤ v) := by
  simp [fitsS]

/-- The powers of two that sign extension from `m + 1` bits to 64 speaks of. -/
theorem signExt_pow {m : Nat} (hm : m + 1 ≤ 64) :
    2 ^ (m + 1) = 2 * 2 ^ m ∧ 2 ^ (m + 1) * (2 ^ (64 - (m + 1)) - 1) + 2 ^ (m + 1) = 2 ^ 64 := by
  refine ⟨by rw [Nat.pow_succ, Nat.mul_comm], ?_⟩
  rw [Nat.mul_sub, Nat.mul_one, ← Nat.pow_add, Nat.add_sub_cancel' hm]
  exact Nat.sub_add_cancel (Nat.pow_le_pow_right (by omega) hm)

/-- Sign extension gives back a signed value that fits. -/
theorem signExt_mod {n v : Nat} (hn : 1 ≤ n ∧ n ≤ 64) (hv : fitsS n v = true) : signExt n (v % 2 ^ n) = v := by
  obtain ⟨m, rfl⟩ := Nat.exists_eq_add_of_le' hn.1
  obtain ⟨double, whole⟩ := signExt_pow hn.2
  obtain ⟨hlt, hfit⟩ := (fitsS_iff _ v).mp hv
  rw [signExt, Nat.add_sub_cancel] at *
  rcases hfit with hpos | hneg
  · rw [Nat.mod_eq_of_lt (by omega), if_pos hpos]
  · obtain ⟨d, hd⟩ := Nat.exists_eq_add_of_le
      (by omega : 2 ^ (m + 1) * (2 ^ (64 - (m + 1)) - 1) ≤ v)
    have hmod : v % 2 ^ (m + 1) = d := by rw [hd, Nat.mul_add_mod, Nat.mod_eq_of_lt (by omega)]
    rw [hmod, if_neg (by omega)]
    omega

/-- A sign-extended value fits the field it came from, and any wider one. -/
theorem fitsS_signExt {n m v : Nat} (hn : 1 ≤ n ∧ n ≤ m ∧ m ≤ 64) (hv : v < 2 ^ n) : fitsS m (signExt n v) = true := by
  obtain ⟨k, rfl⟩ := Nat.exists_eq_add_of_le' hn.1
  obtain ⟨double, whole⟩ := signExt_pow (hn.2.1.trans hn.2.2)
  have le_m : 2 ^ k ≤ 2 ^ (m - 1) := Nat.pow_le_pow_right (by omega) (by omega)
  rw [fitsS_iff, signExt, Nat.add_sub_cancel]
  split <;> omega

/-- The bits of an operand come back as the operand, with the IMX extension that its width asks for. -/
theorem Fld.value_of_bits {f : Fld} {v opnd : Nat} {imx : Option Nat} (hw : (f.sg = true → 1 ≤ f.w) ∧ f.w + f.ew ≤ 64)
    (hv : f.inRange v = true) (hlow : bitsAt opnd f.lo f.w = v % 2 ^ f.w) (hfit : imx = none → f.fits v = true)
    (hhigh : ∀ e, imx = some e → bitsAt e f.elo f.ew = v / 2 ^ f.w % 2 ^ f.ew) : f.value opnd imx = v := by
  cases imx with
  | none =>
    have fits := hfit rfl
    simp only [Fld.value, Fld.fits, hlow] at fits ⊢
    split <;> rename_i hsg
    · have := hw.1 hsg
      exact signExt_mod (by omega) (by rwa [if_pos hsg] at fits)
    · rw [if_neg hsg, decide_eq_true_eq] at fits
      exact Nat.mod_eq_of_lt fits
  | some e =>
    have hmod : v % 2 ^ f.w + 2 ^ f.w * (v / 2 ^ f.w % 2 ^ f.ew) = v % 2 ^ (f.w + f.ew) := by
      rw [Nat.pow_add, Nat.mod_mul]
    simp only [Fld.value, Fld.inRange, hlow, hhigh e rfl, hmod] at hv ⊢
    split <;> rename_i hsg
    · have := hw.1 hsg
      exact signExt_mod (by omega) (by rwa [if_pos hsg] at hv)
    · rw [if_neg hsg, decide_eq_true_eq] at hv
      exact Nat.mod_eq_of_lt hv

/-- What a field holds is in its range. -/
theorem Fld.inRange_value {f : Fld} (hw : (f.sg = true → 1 ≤ f.w) ∧ f.w + f.ew ≤ 64) (opnd : Nat) (imx : Option Nat) :
    f.inRange (f.value opnd imx) = true := by
  have low_lt := bitsAt_lt opnd f.lo f.w
  cases imx with
  | none =>
    simp only [Fld.value, Fld.inRange]
    split <;> rename_i hsg
    · have := hw.1 hsg
      exact fitsS_signExt (by omega) low_lt
    · exact decide_eq_true (low_lt.trans_le (Nat.pow_le_pow_right (by omega) (by omega)))
  | some e =>
    have lt : bitsAt opnd f.lo f.w + 2 ^ f.w * bitsAt e f.elo f.ew < 2 ^ (f.w + f.ew) := by
      have := Nat.mul_le_mul_left (2 ^ f.w) (Nat.succ_le_of_lt (bitsAt_lt e f.elo f.ew))
      rw [Nat.mul_succ, ← Nat.pow_add] at this
      omega
    simp only [Fld.value, Fld.inRange]
    split <;> rename_i hsg
    · have := hw.1 hsg
      exact fitsS_signExt (by omega) lt
    · exact decide_eq_true lt

/-- Without bits in IMX, an operand in range fits the word. -/
theorem Fld.fits_of_inRange {f : Fld} {v : Nat} (hew : f.ew = 0) (hv : f.inRange v = true) : f.fits v = true := by
  rwa [Fld.inRange, hew] at hv

/-- The fields from operand `k` on accept their operands. -/
@[simp] def admitsFrom : List Fld → Nat → List Nat → Bool
  | [], _, _ => true
  | f :: fs, k, vs => f.admits (vs.getD k 0) && admitsFrom fs (k + 1) vs

theorem admitsFrom_iff {fs : List Fld} {k : Nat} {vs : List Nat} (hlen : vs.length = k + fs.length) :
    admitsFrom fs k vs = true ↔ List.Forall₂ (fun f v => f.admits v = true) fs (vs.drop k) := by
  induction fs generalizing k with
  | nil => simp [List.drop_eq_nil_of_le, hlen]
  | cons f fs ih =>
    have hk : k < vs.length := by rw [hlen, List.length_cons]; omega
    rw [List.drop_eq_getElem_cons hk, List.forall₂_cons, ← ih (by rw [hlen, List.length_cons]; omega), admitsFrom,
      Bool.and_eq_true, List.getD_eq_getElem _ _ hk]

theorem allFit_iff : ∀ {fs : List Fld} {vs : List Nat}, vs.length = fs.length →
    (allFit fs vs = true ↔ List.Forall₂ (fun f v => f.fits v = true) fs vs)
  | [], [], _ => by simp [allFit]
  | f :: fs, v :: vs, h => by rw [allFit, Bool.and_eq_true, allFit_iff (by simpa using h), List.forall₂_cons]

/-! ### Rows of the tables -/

/-- The words that a row says besides its operands' own checks: DONE sends no signal and HEND does not wait (04 R122,
R124). -/
@[simp] def endOk (cls : Engine) (op : Nat) (h : Hdr) : Bool :=
  decide (cls = .ctl → op = 0x36 → h.sig = 0) && decide (cls = .ctl → op = 0x37 → h.wait = 0)

/-- A word of the row can carry the header and the operands. -/
@[simp] def Row.allows (cls : Engine) (r : Row) (h : Hdr) (vs : List Nat) : Bool :=
  h.ok cls.id r.acc.orders r.acc.pmts && admitsFrom r.flds 0 vs && r.x6 vs && r.x8 vs && endOk cls r.op h

/-- `WellFormed` allows what the row allows, in the row's class. -/
def Row.Faithful (cls : Engine) (r : Row) : Prop :=
  ∀ c h vs, instrOk c (r.build h vs) = (decide (c = cls) && r.allows cls h vs)

/-- The row's fields and fixed fields share no bit and lie in 40 bits, in the word and in IMX; a format
without IMX has no field with bits there; the opcode is that of a word of a class. -/
def Row.laidOut (r : Row) : Bool :=
  decide ((r.flds.map (fun f => (f.lo, f.w)) ++ r.sub.map runOf).Pairwise Apart) &&
  decide ((r.flds.map fun f => (f.elo, f.ew)).Pairwise Apart) &&
  r.flds.all (fun f => decide ((f.sg = true → 1 ≤ f.w) ∧ f.w + f.ew ≤ 64 ∧ f.lo + f.w ≤ 40 ∧ f.elo + f.ew ≤ 40 ∧
    (r.fmt.takesImx = true ∨ f.ew = 0))) &&
  r.sub.all (fun s => decide (s.1 + s.2.1 ≤ 40 ∧ s.2.2 < 2 ^ s.2.1)) &&
  decide (1 ≤ r.op ∧ r.op < 0xFC)

/-- A word of row `r` does not have the fixed fields of row `a`: it has another value in one of them, or a register
specifier that no such value is. -/
def Row.excludes (r a : Row) : Bool :=
  a.sub.any fun s =>
    r.sub.any (fun t => decide (runOf t = runOf s ∧ t.2.2 ≠ s.2.2)) ||
    r.flds.any fun f => decide ((f.lo, f.w) = runOf s ∧ f.ew = 0 ∧ f.sg = false) && !f.chk.okReg s.2.2

/-- Of two rows of one opcode, both accept the same prefixes, ask the same privilege, and the later excludes the
earlier. -/
def Row.before (a r : Row) : Bool :=
  a.op != r.op ||
    (decide (a.acc.orders = r.acc.orders ∧ a.acc.pmts = r.acc.pmts ∧ a.acc.sup = r.acc.sup ∧ a.fmt = r.fmt) && r.excludes a)

theorem laidOut_of_mem {cls : Engine} {r : Row} (hr : r ∈ rowsOf cls) : r.laidOut = true := by
  have all : ∀ cls, (rowsOf cls).all Row.laidOut = true := by intro cls; cases cls <;> decide +kernel
  exact List.all_eq_true.mp (all cls) r hr

theorem rowsOf_before (cls : Engine) : (rowsOf cls).Pairwise fun a r => a.before r = true := by
  cases cls <;> decide +kernel


theorem laidOut_iff (r : Row) : r.laidOut = true ↔
    (r.flds.map (fun f => (f.lo, f.w)) ++ r.sub.map runOf).Pairwise Apart ∧
    (r.flds.map fun f => (f.elo, f.ew)).Pairwise Apart ∧
    (∀ f ∈ r.flds, ((f.sg = true → 1 ≤ f.w) ∧ f.w + f.ew ≤ 64) ∧ f.lo + f.w ≤ 40 ∧ f.elo + f.ew ≤ 40 ∧
      (r.fmt.takesImx = true ∨ f.ew = 0)) ∧
    (∀ s ∈ r.sub, s.1 + s.2.1 ≤ 40 ∧ s.2.2 < 2 ^ s.2.1) ∧ 1 ≤ r.op ∧ r.op < 0xFC := by
  simp only [Row.laidOut, Bool.and_eq_true, decide_eq_true_eq, List.all_eq_true, and_assoc]

theorem map_runOf_lowSeg : ∀ {fs : List Fld} {vs : List Nat}, vs.length = fs.length →
    (List.zipWith Fld.lowSeg fs vs).map runOf = fs.map fun f => (f.lo, f.w)
  | [], [], _ => rfl
  | f :: fs, v :: vs, h => by
    simpa [Fld.lowSeg, runOf] using map_runOf_lowSeg (fs := fs) (vs := vs) (by simpa using h)

theorem map_runOf_highSeg : ∀ {fs : List Fld} {vs : List Nat}, vs.length = fs.length →
    (List.zipWith Fld.highSeg fs vs).map runOf = fs.map fun f => (f.elo, f.ew)
  | [], [], _ => rfl
  | f :: fs, v :: vs, h => by
    simpa [Fld.highSeg, runOf] using map_runOf_highSeg (fs := fs) (vs := vs) (by simpa using h)

/-- A member of `zipWith` comes from a pair of members. -/
theorem exists_of_mem_zipWith {α β γ : Type} {f : α → β → γ} {as : List α} {bs : List β} {c : γ}
    (h : c ∈ List.zipWith f as bs) : ∃ a b, (a, b) ∈ as.zip bs ∧ c = f a b := by
  rw [← List.map_uncurry_zip_eq_zipWith] at h
  obtain ⟨⟨a, b⟩, hab, rfl⟩ := List.mem_map.mp h
  exact ⟨a, b, hab, rfl⟩

theorem mem_zipWith_of_mem_zip {α β γ : Type} (f : α → β → γ) {as : List α} {bs : List β} {a : α} {b : β}
    (h : (a, b) ∈ as.zip bs) : f a b ∈ List.zipWith f as bs := by
  rw [← List.map_uncurry_zip_eq_zipWith]
  exact List.mem_map.mpr ⟨(a, b), h, rfl⟩

/-- The operand field of a word of the row. -/
def Row.operand (r : Row) (vs : List Nat) : Nat := packLow r.flds vs + packSub r.sub

/-- The fields and fixed fields of a word of the row. -/
def Row.segs (r : Row) (vs : List Nat) : List (Nat × Nat × Nat) := List.zipWith Fld.lowSeg r.flds vs ++ r.sub

theorem Row.operand_eq (r : Row) (vs : List Nat) : r.operand vs = packSub (r.segs vs) := by
  rw [operand, segs, packSub_append, packLow_eq]

section
variable {r : Row} {vs : List Nat} (hr : r.laidOut = true) (hlen : vs.length = r.flds.length)
include hr hlen

theorem Row.segs_packed : Packed (r.segs vs) := by
  obtain ⟨apart, -, -, sub, -⟩ := (laidOut_iff r).mp hr
  refine ⟨by rwa [segs, List.map_append, map_runOf_lowSeg hlen], fun s hs => ?_⟩
  rcases List.mem_append.mp hs with hs | hs
  · obtain ⟨f, v, -, rfl⟩ := exists_of_mem_zipWith hs
    exact Nat.mod_lt _ (Nat.two_pow_pos _)
  · exact (sub s hs).2

theorem Row.operand_lt_of {n : Nat} (hf : ∀ f ∈ r.flds, f.lo + f.w ≤ n) (hs : ∀ s ∈ r.sub, s.1 + s.2.1 ≤ n) :
    r.operand vs < 2 ^ n := by
  rw [operand_eq]
  refine packSub_lt (segs_packed hr hlen) fun s hseg => ?_
  rcases List.mem_append.mp hseg with hseg | hseg
  · obtain ⟨f, v, hfv, rfl⟩ := exists_of_mem_zipWith hseg
    exact hf f (List.of_mem_zip hfv).1
  · exact hs s hseg

theorem Row.operand_lt : r.operand vs < 2 ^ 40 := by
  obtain ⟨-, -, flds, sub, -⟩ := (laidOut_iff r).mp hr
  exact operand_lt_of hr hlen (fun f hf => (flds f hf).2.1) fun s hs => (sub s hs).1

theorem Row.bitsAt_operand_field : List.Forall₂ (fun f v => bitsAt (r.operand vs) f.lo f.w = v % 2 ^ f.w) r.flds vs := by
  refine List.forall₂_iff_zip.mpr ⟨hlen.symm, fun {f v} hfv => ?_⟩
  rw [operand_eq]
  exact bitsAt_packSub (segs_packed hr hlen) (List.mem_append_left _ (mem_zipWith_of_mem_zip Fld.lowSeg hfv))

theorem Row.bitsAt_operand_sub {s : Nat × Nat × Nat} (hs : s ∈ r.sub) : bitsAt (r.operand vs) s.1 s.2.1 = s.2.2 := by
  rw [operand_eq]
  exact bitsAt_packSub (segs_packed hr hlen) (List.mem_append_right _ hs)

theorem Row.packHigh_packed : Packed (List.zipWith Fld.highSeg r.flds vs) := by
  obtain ⟨-, apart, -⟩ := (laidOut_iff r).mp hr
  refine ⟨by rwa [map_runOf_highSeg hlen], fun s hs => ?_⟩
  obtain ⟨f, v, -, rfl⟩ := exists_of_mem_zipWith hs
  exact Nat.mod_lt _ (Nat.two_pow_pos _)

theorem Row.packHigh_lt : packHigh r.flds vs < 2 ^ 40 := by
  obtain ⟨-, -, flds, -⟩ := (laidOut_iff r).mp hr
  rw [packHigh_eq]
  refine packSub_lt (packHigh_packed hr hlen) fun s hs => ?_
  obtain ⟨f, v, hfv, rfl⟩ := exists_of_mem_zipWith hs
  exact (flds f (List.of_mem_zip hfv).1).2.2.1

theorem Row.bitsAt_packHigh :
    List.Forall₂ (fun f v => bitsAt (packHigh r.flds vs) f.elo f.ew = v / 2 ^ f.w % 2 ^ f.ew) r.flds vs := by
  refine List.forall₂_iff_zip.mpr ⟨hlen.symm, fun {f v} hfv => ?_⟩
  rw [packHigh_eq]
  exact bitsAt_packSub (packHigh_packed hr hlen) (mem_zipWith_of_mem_zip Fld.highSeg hfv)

theorem Row.subMatches_operand : subMatches r.sub (r.operand vs) = true :=
  List.all_eq_true.mpr fun _ hs => beq_iff_eq.mpr (bitsAt_operand_sub hr hlen hs)

end

theorem foldr_bits_eq_packLow {fs : List Fld} {vs : List Nat} {x : Nat}
    (h : List.Forall₂ (fun f v => bitsAt x f.lo f.w = v % 2 ^ f.w) fs vs) :
    fs.foldr (fun f a => bitsAt x f.lo f.w * 2 ^ f.lo + a) 0 = packLow fs vs := by
  induction h with
  | nil => rfl
  | cons hf _ ih => rw [List.foldr_cons, ih, hf, packLow, Fld.low]

theorem foldr_bits_eq_packHigh {fs : List Fld} {vs : List Nat} {x : Nat}
    (h : List.Forall₂ (fun f v => bitsAt x f.elo f.ew = v / 2 ^ f.w % 2 ^ f.ew) fs vs) :
    fs.foldr (fun f a => bitsAt x f.elo f.ew * 2 ^ f.elo + a) 0 = packHigh fs vs := by
  induction h with
  | nil => rfl
  | cons hf _ ih => rw [List.foldr_cons, ih, hf, packHigh, Fld.high]

theorem map_eq_of_forall₂ {α β : Type} {f : α → β} {as : List α} {bs : List β}
    (h : List.Forall₂ (fun a b => f a = b) as bs) : as.map f = bs := by
  induction h with
  | nil => rfl
  | cons hf _ ih => rw [List.map_cons, hf, ih]

/-- The IMX extension with which the row's operands are written, if they need one. -/
def Row.imxOf (r : Row) (vs : List Nat) : Option Nat := if allFit r.flds vs then none else some (packHigh r.flds vs)

theorem Row.imxOf_cases (r : Row) (vs : List Nat) :
    r.imxOf vs = none ∧ allFit r.flds vs = true ∨
      r.imxOf vs = some (packHigh r.flds vs) ∧ allFit r.flds vs = false := by
  unfold imxOf
  cases h : allFit r.flds vs <;> simp

section
variable {r : Row} {vs : List Nat} (hr : r.laidOut = true) (hlen : vs.length = r.flds.length)
include hr hlen

theorem Row.reservedZero_operand : reservedZero r (r.operand vs) (r.imxOf vs) = true := by
  have lows := foldr_bits_eq_packLow (bitsAt_operand_field hr hlen)
  have highs := foldr_bits_eq_packHigh (bitsAt_packHigh hr hlen)
  have low : (r.operand vs == packLow r.flds vs + packSub r.sub) = true := beq_self_eq_true _
  rcases r.imxOf_cases vs with ⟨h, -⟩ | ⟨h, -⟩ <;> simp [reservedZero, h, lows, highs, low]

/-- The operands of a word of the row come back from its bits and those of its IMX extension. -/
theorem Row.map_value_operand (hv : List.Forall₂ (fun f v => f.inRange v = true) r.flds vs) :
    (r.flds.map fun f => f.value (r.operand vs) (r.imxOf vs)) = vs := by
  obtain ⟨-, -, flds, -⟩ := (laidOut_iff r).mp hr
  refine map_eq_of_forall₂ (List.forall₂_iff_zip.mpr ⟨hlen.symm, fun {f v} hfv => ?_⟩)
  refine Fld.value_of_bits (flds f (List.of_mem_zip hfv).1).1 ((List.forall₂_iff_zip.mp hv).2 hfv)
    ((List.forall₂_iff_zip.mp (bitsAt_operand_field hr hlen)).2 hfv) ?_ ?_
  · intro hnone
    rcases r.imxOf_cases vs with ⟨-, fit⟩ | ⟨hsome, -⟩
    · exact (List.forall₂_iff_zip.mp ((allFit_iff hlen).mp fit)).2 hfv
    · rw [hnone] at hsome; cases hsome
  · intro e he
    rcases r.imxOf_cases vs with ⟨hnone, -⟩ | ⟨hsome, -⟩
    · rw [he] at hnone; cases hnone
    · obtain rfl : e = _ := Option.some.inj (he.symm.trans hsome)
      exact (List.forall₂_iff_zip.mp (bitsAt_packHigh hr hlen)).2 hfv

/-- A format without IMX writes its operands without it. -/
theorem Row.imxOf_isNone (hv : List.Forall₂ (fun f v => f.inRange v = true) r.flds vs) :
    ((r.imxOf vs).isNone || r.fmt.takesImx) = true := by
  obtain ⟨-, -, flds, -⟩ := (laidOut_iff r).mp hr
  cases htakes : r.fmt.takesImx with
  | true => exact Bool.or_true _
  | false =>
    have fit : allFit r.flds vs = true := by
      refine (allFit_iff hlen).mpr (List.forall₂_iff_zip.mpr ⟨hlen.symm, fun {f v} hfv => ?_⟩)
      have few := (flds f (List.of_mem_zip hfv).1).2.2.2
      rw [htakes] at few
      exact Fld.fits_of_inRange (by simpa using few) ((List.forall₂_iff_zip.mp hv).2 hfv)
    rw [imxOf, if_pos fit]; rfl

/-- A word of the row does not have the fixed fields of a row that it excludes. -/
theorem Row.not_subMatches_of_excludes {a : Row} (h : r.excludes a = true)
    (hv : List.Forall₂ (fun f v => f.admits v = true) r.flds vs) : subMatches a.sub (r.operand vs) = false := by
  obtain ⟨s, hs, hex⟩ := List.any_eq_true.mp h
  refine List.all_eq_false.mpr ⟨s, hs, ?_⟩
  rw [beq_iff_eq]
  rcases Bool.or_eq_true_iff.mp hex with hsub | hfld
  · obtain ⟨t, ht, hts⟩ := List.any_eq_true.mp hsub
    simp only [runOf, Prod.mk.injEq, decide_eq_true_eq] at hts
    obtain ⟨⟨hlo, hw⟩, hne⟩ := hts
    rw [← hlo, ← hw, bitsAt_operand_sub hr hlen ht]
    exact hne
  · obtain ⟨f, hf, hfs⟩ := List.any_eq_true.mp hfld
    simp only [runOf, Prod.mk.injEq, Bool.and_eq_true, decide_eq_true_eq, Bool.not_eq_true'] at hfs
    obtain ⟨⟨⟨hlo, hw⟩, hew, hsg⟩, hreg⟩ := hfs
    rw [← List.map_fst_zip hlen.ge] at hf
    obtain ⟨⟨f, v⟩, hfv, rfl⟩ := List.mem_map.mp hf
    obtain ⟨hrange, -, hok, -⟩ := (Fld.admits_iff f v).mp ((List.forall₂_iff_zip.mp hv).2 hfv)
    rw [← hlo, ← hw, (List.forall₂_iff_zip.mp (bitsAt_operand_field hr hlen)).2 hfv,
      Nat.mod_eq_of_lt (Fld.lt_of_inRange hew hsg hrange)]
    rintro rfl
    exact Bool.noConfusion (hok.symm.trans hreg)

end

/-! ### Headers and checks -/

theorem syncByteOk_lt {own b : Nat} (h : syncByteOk own b = true) : b < 256 := by
  simp only [syncByteOk, Bool.and_eq_true, decide_eq_true_eq] at h
  exact h.1

theorem Hdr.ok_iff (own : Nat) (orders pmts : List Nat) (h : Hdr) : h.ok own orders pmts = true ↔
    syncByteOk own h.wait = true ∧ syncByteOk own h.sig = true ∧ (∀ v, h.scp = some v → v < 32 ∧ v / 4 ∈ orders) ∧
      ∀ v, h.pmt = some v → v ∈ pmts := by
  obtain ⟨wait, sig, scp, pmt⟩ := h
  cases scp <;> cases pmt <;> simp [Hdr.ok, and_assoc]

theorem latchesOk_iff (env : DecEnv) (r : Row) : latchesOk env r = true ↔
    (env.imx.isNone || r.fmt.takesImx) = true ∧ (∀ v, env.scp = some v → v / 4 ∈ r.acc.orders) ∧
      ∀ v, env.pmt = some v → v ∈ r.acc.pmts := by
  obtain ⟨cls, sup, handler, imx, scp, pmt⟩ := env
  cases scp <;> cases pmt <;> simp [latchesOk, and_assoc]

theorem operandChecks_eq_ok_iff {r : Row} {vs : List Nat} : operandChecks r vs = .ok () ↔
    (∀ p ∈ r.flds.zip vs, p.1.chk.okMod p.2 = true ∧ p.1.chk.okReg p.2 = true ∧ p.1.chk.okRng p.2 = true) ∧
      r.x6 vs = true ∧ r.x8 vs = true := by
  simp only [forall_and, ← List.all_eq_true (p := fun p : Fld × Nat => _), operandChecks]
  split_ifs with hmod hreg hrng
  · refine iff_of_false nofun ?_
    rintro ⟨⟨h, -⟩, h6, -⟩
    simp [h, h6] at hmod
  · refine iff_of_false nofun ?_
    rintro ⟨⟨-, h, -⟩, -⟩
    simp [h] at hreg
  · refine iff_of_false nofun ?_
    rintro ⟨⟨-, -, h⟩, -, h8⟩
    simp [h, h8] at hrng
  · simp_all

theorem operandChecks_error {r : Row} {vs : List Nat} {c : Nat} (h : operandChecks r vs = .error c) :
    c ∈ [0x03, 0x04, 0x09] := by
  unfold operandChecks at h
  dsimp only at h
  split_ifs at h <;> cases h <;> decide

/-- A row allows a header and operands that pass the checks of R29. -/
theorem Row.allows_iff {cls : Engine} {r : Row} {h : Hdr} {vs : List Nat} (hlen : vs.length = r.flds.length) :
    r.allows cls h vs = true ↔ h.ok cls.id r.acc.orders r.acc.pmts = true ∧
      List.Forall₂ (fun f v => f.inRange v = true) r.flds vs ∧ operandChecks r vs = .ok () ∧
      endOk cls r.op h = true := by
  have fields : admitsFrom r.flds 0 vs = true ↔ List.Forall₂ (fun f v => f.inRange v = true) r.flds vs ∧
      ∀ p ∈ r.flds.zip vs, p.1.chk.okMod p.2 = true ∧ p.1.chk.okReg p.2 = true ∧ p.1.chk.okRng p.2 = true := by
    rw [admitsFrom_iff (by rw [Nat.zero_add, hlen]), List.drop_zero, List.forall₂_iff_zip, List.forall₂_iff_zip]
    simp only [Fld.admits_iff, Prod.forall]
    grind
  simp only [allows, Bool.and_eq_true, fields, operandChecks_eq_ok_iff, and_assoc]

/-! ### The decoder -/

theorem decodeRows_eq_ok_iff {env : DecEnv} {w : Nat} {r0 : Row} {cands : List Row} {i : Instr} :
    decodeRows env w r0 cands = .ok i ↔
      privilegeOk env (bitsAt w 40 8) r0.acc.sup = true ∧ latchesOk env r0 = true ∧
      syncOk env (bitsAt w 40 8) (bitsAt w 56 8) (bitsAt w 48 8) = true ∧
      ∃ r, cands.find? (fun r => subMatches r.sub (bitsAt w 0 40)) = some r ∧
        reservedZero r (bitsAt w 0 40) env.imx = true ∧
        operandChecks r (r.flds.map fun f => f.value (bitsAt w 0 40) env.imx) = .ok () ∧
        r.build ⟨bitsAt w 56 8, bitsAt w 48 8, env.scp, env.pmt⟩
          (r.flds.map fun f => f.value (bitsAt w 0 40) env.imx) = i := by
  unfold decodeRows
  dsimp only
  split_ifs with hp hl hs
  · simp_all
  · simp_all
  · simp_all
  · cases hfind : cands.find? fun r => subMatches r.sub (bitsAt w 0 40) with
    | none => simp
    | some r =>
      dsimp only
      split_ifs with hz
      · simp_all
      · split <;> simp_all

theorem decodeRows_error {env : DecEnv} {w c : Nat} {r0 : Row} {cands : List Row}
    (h : decodeRows env w r0 cands = .error c) : c ∈ [0x03, 0x04, 0x05, 0x07, 0x08, 0x09] := by
  unfold decodeRows at h
  dsimp only at h
  split_ifs at h
  · cases h; decide
  · cases h; decide
  · cases h; decide
  · split at h
    · cases h; decide
    · split_ifs at h
      · cases h; decide
      · split at h
        · rename_i hc
          cases h
          have := operandChecks_error hc
          simp at this ⊢
          omega
        · cases h

/-! ### The tables say what `WellFormed` says

Each lemma goes through the rows of one table: a row's checks and the clause of `instrOk` for the instruction that it
builds are the same conditions, in the same order. -/

/-- All rows of a part of a table are faithful to `WellFormed`. -/
def RowsFaithful (cls : Engine) (rs : List Row) : Prop := ∀ r ∈ rs, r.Faithful cls

theorem rowsFaithful_cons {cls : Engine} {r : Row} {rs : List Row} :
    RowsFaithful cls (r :: rs) ↔ r.Faithful cls ∧ RowsFaithful cls rs := List.forall_mem_cons

theorem rowsFaithful_nil {cls : Engine} : RowsFaithful cls [] := List.forall_mem_nil _

theorem RowsFaithful.append {cls : Engine} {as bs : List Row} (ha : RowsFaithful cls as) (hb : RowsFaithful cls bs) :
    RowsFaithful cls (as ++ bs) := List.forall_mem_append.mpr ⟨ha, hb⟩

theorem ctlRows1_faithful : RowsFaithful .ctl ctlRows1 := by
  simp only [ctlRows1, rowsFaithful_cons, rowsFaithful_nil, and_true]
  and_intros <;> intro c h vs <;> delta instrOk <;> simp [Chk.okMod, Chk.okReg, Chk.okRng, Engine.id, Bool.and_assoc]

theorem ctlRows2_faithful : RowsFaithful .ctl ctlRows2 := by
  simp only [ctlRows2, rowsFaithful_cons, rowsFaithful_nil, and_true]
  and_intros <;> intro c h vs <;> delta instrOk <;> simp [Chk.okMod, Chk.okReg, Chk.okRng, Engine.id, Bool.and_assoc]

theorem ctlRows3_faithful : RowsFaithful .ctl ctlRows3 := by
  simp only [ctlRows3, rowsFaithful_cons, rowsFaithful_nil, and_true]
  and_intros <;> intro c h vs <;> delta instrOk <;> simp [Chk.okMod, Chk.okReg, Chk.okRng, Engine.id, Bool.and_assoc]

theorem ctlRows4_faithful : RowsFaithful .ctl ctlRows4 := by
  simp only [ctlRows4, rowsFaithful_cons, rowsFaithful_nil, and_true]
  and_intros <;> intro c h vs <;> delta instrOk <;> simp [Chk.okMod, Chk.okReg, Chk.okRng, Engine.id, Bool.and_assoc]

theorem accRows1_faithful : RowsFaithful .acc accRows1 := by
  simp only [accRows1, rowsFaithful_cons, rowsFaithful_nil, and_true]
  and_intros <;> intro c h vs <;> delta instrOk <;> simp [Chk.okMod, Chk.okReg, Chk.okRng, Engine.id, Bool.and_assoc]

theorem accRows2_faithful : RowsFaithful .acc accRows2 := by
  simp only [accRows2, rowsFaithful_cons, rowsFaithful_nil, and_true]
  and_intros <;> intro c h vs <;> delta instrOk <;> simp [Chk.okMod, Chk.okReg, Chk.okRng, Engine.id, Bool.and_assoc]

theorem accRows3_faithful : RowsFaithful .acc accRows3 := by
  simp only [accRows3, rowsFaithful_cons, rowsFaithful_nil, and_true]
  and_intros <;> intro c h vs <;> delta instrOk <;> simp [Chk.okMod, Chk.okReg, Chk.okRng, Engine.id, Bool.and_assoc]

theorem vecRows1_faithful : RowsFaithful .vec vecRows1 := by
  simp only [vecRows1, rowsFaithful_cons, rowsFaithful_nil, and_true]
  and_intros <;> intro c h vs <;> delta instrOk <;> simp [Chk.okMod, Chk.okReg, Chk.okRng, Engine.id, Bool.and_assoc]

theorem vecRows2_faithful : RowsFaithful .vec vecRows2 := by
  simp only [vecRows2, rowsFaithful_cons, rowsFaithful_nil, and_true]
  and_intros <;> intro c h vs <;> delta instrOk <;> simp [Chk.okMod, Chk.okReg, Chk.okRng, Engine.id, Bool.and_assoc]

theorem vecRows3_faithful : RowsFaithful .vec vecRows3 := by
  simp only [vecRows3, rowsFaithful_cons, rowsFaithful_nil, and_true]
  and_intros <;> intro c h vs <;> delta instrOk <;> simp [Chk.okMod, Chk.okReg, Chk.okRng, Engine.id, Bool.and_assoc]

theorem vecRows4_faithful : RowsFaithful .vec vecRows4 := by
  simp only [vecRows4, rowsFaithful_cons, rowsFaithful_nil, and_true]
  and_intros <;> intro c h vs <;> delta instrOk <;> simp [Chk.okMod, Chk.okReg, Chk.okRng, Engine.id, Bool.and_assoc]

theorem mtxRows1_faithful : RowsFaithful .mtx mtxRows1 := by
  simp only [mtxRows1, rowsFaithful_cons, rowsFaithful_nil, and_true]
  and_intros <;> intro c h vs <;> delta instrOk <;> simp [Chk.okMod, Chk.okReg, Chk.okRng, Engine.id, Bool.and_assoc]

theorem xbrRows1_faithful : RowsFaithful .xbr xbrRows1 := by
  simp only [xbrRows1, rowsFaithful_cons, rowsFaithful_nil, and_true]
  and_intros <;> intro c h vs <;> delta instrOk <;> simp [Chk.okMod, Chk.okReg, Chk.okRng, Engine.id, Bool.and_assoc]

theorem xbrRows2_faithful : RowsFaithful .xbr xbrRows2 := by
  simp only [xbrRows2, rowsFaithful_cons, rowsFaithful_nil, and_true]
  and_intros <;> intro c h vs <;> delta instrOk <;> simp [Chk.okMod, Chk.okReg, Chk.okRng, Engine.id, Bool.and_assoc]

theorem cpyRows1_faithful : RowsFaithful .cpy cpyRows1 := by
  simp only [cpyRows1, rowsFaithful_cons, rowsFaithful_nil, and_true]
  and_intros <;> intro c h vs <;> delta instrOk <;> simp [Chk.okMod, Chk.okReg, Chk.okRng, Engine.id, Bool.and_assoc]

theorem cpyRows2_faithful : RowsFaithful .cpy cpyRows2 := by
  simp only [cpyRows2, rowsFaithful_cons, rowsFaithful_nil, and_true]
  and_intros <;> intro c h vs <;> delta instrOk <;> simp [Chk.okMod, Chk.okReg, Chk.okRng, Engine.id, Bool.and_assoc]

theorem rowsOf_faithful (cls : Engine) : RowsFaithful cls (rowsOf cls) := by
  cases cls with
  | ctl => exact ((ctlRows1_faithful.append ctlRows2_faithful).append ctlRows3_faithful).append ctlRows4_faithful
  | acc => exact (accRows1_faithful.append accRows2_faithful).append accRows3_faithful
  | vec => exact ((vecRows1_faithful.append vecRows2_faithful).append vecRows3_faithful).append vecRows4_faithful
  | mtx => exact mtxRows1_faithful
  | xbr => exact xbrRows1_faithful.append xbrRows2_faithful
  | cpy => exact cpyRows1_faithful.append cpyRows2_faithful

/-- An instruction with parts is what its row builds of them. -/
theorem row_of_instrParts {i : Instr} {cls : Engine} {k : Nat} {h : Hdr} {vs : List Nat}
    (hi : instrParts i = some (cls, k, h, vs)) :
    ∃ r, (rowsOf cls)[k]? = some r ∧ vs.length = r.flds.length ∧ r.build h vs = i := by
  cases i <;> cases hi <;> exact ⟨_, rfl, rfl, rfl⟩

/-! ### What `decode` does with a word -/

theorem decode_shared {env : DecEnv} {w : Nat} (hw : w ≠ 0) (hop : 0xFC ≤ bitsAt w 40 8) :
    decode env w = decodeShared env w := by
  rw [decode, if_neg hw, if_pos hop]

theorem decode_unassigned {env : DecEnv} {w : Nat} (hop : bitsAt w 40 8 < 0xFC)
    (hrow : ∀ r ∈ rowsOf env.cls, r.op ≠ bitsAt w 40 8) : decode env w = .ok (.wordNotAnInstruction w) := by
  have none : (rowsOf env.cls).filter (fun r => r.op == bitsAt w 40 8) = [] :=
    List.filter_eq_nil_iff.mpr fun r hr => by simpa using hrow r hr
  unfold decode
  dsimp only
  split_ifs with hw
  · rw [hw]
  · omega
  · rw [none]

theorem decode_rows {env : DecEnv} {w : Nat} {r0 : Row} (hw : w ≠ 0) (hop : bitsAt w 40 8 < 0xFC)
    (hrow : (rowsOf env.cls).find? (fun r => r.op == bitsAt w 40 8) = some r0) :
    decode env w = decodeRows env w r0 ((rowsOf env.cls).filter fun r => r.op == bitsAt w 40 8) := by
  rw [← List.head?_filter, List.head?_eq_some_iff] at hrow
  obtain ⟨rs, hrs⟩ := hrow
  rw [decode, if_neg hw, if_neg (by omega), hrs]

/-- Every word is a shared word, a word of one of the rows of its opcode, or no instruction. -/
theorem decode_cases (env : DecEnv) (w : Nat) :
    decode env w = .ok (.wordNotAnInstruction w) ∨ decode env w = decodeShared env w ∨
      ∃ r0, (rowsOf env.cls).find? (fun r => r.op == bitsAt w 40 8) = some r0 ∧
        decode env w = decodeRows env w r0 ((rowsOf env.cls).filter fun r => r.op == bitsAt w 40 8) := by
  by_cases hw : w = 0
  · exact .inl (by rw [hw, decode, if_pos rfl])
  by_cases hop : 0xFC ≤ bitsAt w 40 8
  · exact .inr (.inl (decode_shared hw hop))
  cases hfind : (rowsOf env.cls).find? fun r => r.op == bitsAt w 40 8 with
  | none => exact .inl (decode_unassigned (by omega) fun r hr => by simpa using List.find?_eq_none.mp hfind r hr)
  | some r0 => exact .inr (.inr ⟨r0, rfl, decode_rows hw (by omega) hfind⟩)

/-! ### Rows of one opcode -/

/-- What `rowsOf_before` says of two rows of one opcode. -/
def Row.sameOp (a r : Row) : Prop := a.acc = r.acc ∧ a.fmt = r.fmt ∧ r.excludes a = true

theorem Row.sameOp_of_before {a r : Row} (h : a.before r = true) (hop : a.op = r.op) : a.sameOp r := by
  simp only [before, hop, bne_self_eq_false, Bool.false_or, Bool.and_eq_true, decide_eq_true_eq] at h
  obtain ⟨⟨horders, hpmts, hsup, hfmt⟩, hex⟩ := h
  refine ⟨?_, hfmt, hex⟩
  revert horders hpmts hsup
  cases a.acc
  cases r.acc
  rintro rfl rfl rfl
  rfl

/-- The rows of one opcode stand in the order in which their words exclude one another. -/
theorem pairwise_sameOp (cls : Engine) (op : Nat) :
    ((rowsOf cls).filter fun r => r.op == op).Pairwise Row.sameOp := by
  refine ((rowsOf_before cls).filter _).imp_of_mem fun {a r} ha hr h => Row.sameOp_of_before h ?_
  rw [beq_iff_eq.mp (List.mem_filter.mp ha).2, beq_iff_eq.mp (List.mem_filter.mp hr).2]

theorem find?_eq_some_of_pairwise {α : Type} {R : α → α → Prop} {l : List α} {p : α → Bool} {a : α}
    (hl : l.Pairwise R) (ha : a ∈ l) (hp : p a = true) (hR : ∀ b ∈ l, R b a → p b = false) : l.find? p = some a := by
  induction l with
  | nil => cases ha
  | cons b l ih =>
    obtain ⟨hb, hl⟩ := List.pairwise_cons.mp hl
    rcases List.mem_cons.mp ha with rfl | ha
    · rw [List.find?_cons_of_pos hp]
    · rw [List.find?_cons_of_neg (by rw [hR b List.mem_cons_self (hb a ha)]; decide)]
      exact ih hl ha fun c hc => hR c (List.mem_cons_of_mem _ hc)

/-- The first row of a row's opcode accepts the same prefixes and asks the same privilege. -/
theorem acc_eq_of_find? {cls : Engine} {r r0 : Row} (hr : r ∈ rowsOf cls)
    (h0 : (rowsOf cls).find? (fun a => a.op == r.op) = some r0) : r0.acc = r.acc ∧ r0.fmt = r.fmt := by
  have hmem : r ∈ (rowsOf cls).filter fun a => a.op == r.op := List.mem_filter.mpr ⟨hr, beq_self_eq_true _⟩
  have hpair := pairwise_sameOp cls r.op
  rw [← List.head?_filter, List.head?_eq_some_iff] at h0
  obtain ⟨rs, hrs⟩ := h0
  rw [hrs] at hmem hpair
  rcases List.mem_cons.mp hmem with rfl | hmem
  · exact ⟨rfl, rfl⟩
  · obtain ⟨hacc, hfmt, -⟩ := List.rel_of_pairwise_cons hpair hmem
    exact ⟨hacc, hfmt⟩

/-! ### Words of a row decode to what the row builds -/

theorem wordOf_bits {h : Hdr} {op opnd : Nat} (hwait : h.wait < 256) (hsig : h.sig < 256) (hop : op < 256)
    (hopnd : opnd < 2 ^ 40) : wordOf h op opnd < 2 ^ 64 ∧ bitsAt (wordOf h op opnd) 40 8 = op ∧
      bitsAt (wordOf h op opnd) 48 8 = h.sig ∧ bitsAt (wordOf h op opnd) 56 8 = h.wait ∧
      bitsAt (wordOf h op opnd) 0 40 = opnd ∧ (op ≠ 0 → wordOf h op opnd ≠ 0) := by
  unfold wordOf bitsAt
  omega

theorem privilegeOk_iff (env : DecEnv) (op : Nat) (sup : Bool) : privilegeOk env op sup = true ↔
    (sup = true → env.sup = true) ∧ (env.cls = .ctl → env.handler = true → op ∉ taskOnlyOps) ∧
      (env.cls = .ctl → env.handler = false → op ≠ 0x37) := by
  obtain ⟨cls, _ | _, _ | _, _⟩ := env <;> cases sup <;> simp [privilegeOk, imp_iff_not_or]

theorem syncOk_iff (env : DecEnv) (op wait sig : Nat) : syncOk env op wait sig = true ↔
    syncByteOk env.cls.id wait = true ∧ syncByteOk env.cls.id sig = true ∧
      (env.cls = .ctl → env.handler = true → wait = 0) ∧ (env.cls = .ctl → op = 0x36 → sig = 0) := by
  obtain ⟨cls, _, _ | _, _⟩ := env <;> simp [syncOk, and_assoc, imp_iff_not_or, or_assoc]

theorem decode_word {cls : Engine} {r : Row} {h : Hdr} {vs : List Nat} {handler : Bool} (hr : r ∈ rowsOf cls)
    (hlen : vs.length = r.flds.length) (hallow : r.allows cls h vs = true)
    (hhandler : handler = true ↔ cls = .ctl ∧ r.op = 0x37) :
    wordOf h r.op (r.operand vs) < 2 ^ 64 ∧
      decode ⟨cls, true, handler, r.imxOf vs, h.scp, h.pmt⟩ (wordOf h r.op (r.operand vs)) = .ok (r.build h vs) := by
  have laid := laidOut_of_mem hr
  obtain ⟨-, -, -, -, hop⟩ := (laidOut_iff r).mp laid
  obtain ⟨hhdr, hrange, hchecks, hend⟩ := (Row.allows_iff hlen).mp hallow
  obtain ⟨hwait, hsig, hscp, hpmt⟩ := (Hdr.ok_iff ..).mp hhdr
  have hadm : List.Forall₂ (fun f v => f.admits v = true) r.flds vs := by
    simp only [Row.allows, Bool.and_eq_true] at hallow
    exact (admitsFrom_iff (k := 0) (by omega)).mp hallow.1.1.1.2
  obtain ⟨hlt, bop, bsig, bwait, bopnd, hne⟩ := wordOf_bits (syncByteOk_lt hwait) (syncByteOk_lt hsig)
    (by omega : r.op < 256) (Row.operand_lt laid hlen)
  refine ⟨hlt, ?_⟩
  have hmem : r ∈ (rowsOf cls).filter fun a => a.op == r.op := List.mem_filter.mpr ⟨hr, beq_self_eq_true _⟩
  obtain ⟨r0, h0⟩ : ∃ r0, (rowsOf cls).find? (fun a => a.op == r.op) = some r0 :=
    Option.isSome_iff_exists.mp (List.find?_isSome.mpr ⟨r, hr, beq_self_eq_true _⟩)
  obtain ⟨hacc, hfmt⟩ := acc_eq_of_find? hr h0
  have hfind : ((rowsOf cls).filter fun a => a.op == r.op).find? (fun a => subMatches a.sub (r.operand vs)) = some r :=
    find?_eq_some_of_pairwise (pairwise_sameOp cls r.op) hmem (Row.subMatches_operand laid hlen)
      fun a _ ha => Row.not_subMatches_of_excludes laid hlen ha.2.2 hadm
  rw [decode_rows (hne (by omega)) (by omega) (by rw [bop]; exact h0), decodeRows_eq_ok_iff, bop, bsig, bwait, bopnd]
  simp only [endOk, Bool.and_eq_true, decide_eq_true_eq] at hend
  refine ⟨(privilegeOk_iff ..).mpr ⟨fun _ => rfl, fun _ hh => ?_, fun hctl hh hop => ?_⟩, ?_,
    (syncOk_iff ..).mpr ⟨hwait, hsig, fun hctl hh => hend.2 hctl (hhandler.mp hh).2, hend.1⟩, r, hfind,
    Row.reservedZero_operand laid hlen, ?_, ?_⟩
  · rw [(hhandler.mp hh).2]; decide
  · exact Bool.noConfusion (hh.symm.trans (hhandler.mpr ⟨hctl, hop⟩))
  · rw [latchesOk_iff, hacc, hfmt]
    exact ⟨Row.imxOf_isNone laid hlen hrange, fun v hv => (hscp v hv).2, hpmt⟩
  · rwa [Row.map_value_operand laid hlen hrange]
  · rw [Row.map_value_operand laid hlen hrange]

/-! ### Encoding, and back -/

/-- HEND is the one word of opcode 0x37 of the control core. -/
theorem isHend_iff {i : Instr} {cls : Engine} {k : Nat} {h : Hdr} {vs : List Nat} {r : Row}
    (hi : instrParts i = some (cls, k, h, vs)) (hr : (rowsOf cls)[k]? = some r) (hbuild : r.build h vs = i) :
    (∃ h', i = .hend h') ↔ cls = .ctl ∧ r.op = 0x37 := by
  constructor
  · rintro ⟨h', rfl⟩
    obtain ⟨rfl, rfl, rfl, rfl⟩ : Engine.ctl = cls ∧ 55 = k ∧ h' = h ∧ [] = vs := by simpa [instrParts] using hi
    obtain rfl : _ = r := Option.some.inj hr
    exact ⟨rfl, rfl⟩
  · rintro ⟨rfl, hop⟩
    have only : ∀ p ∈ (rowsOf .ctl).zipIdx, p.1.op = 0x37 → p.2 = 55 := by decide +kernel
    obtain rfl := only (r, k) (List.mem_zipIdx_iff_getElem?.mpr hr) hop
    obtain rfl : _ = r := Option.some.inj hr
    exact ⟨h, hbuild.symm⟩

theorem encode_of_instrParts {i : Instr} {cls : Engine} {k : Nat} {h : Hdr} {vs : List Nat} {r : Row}
    (hi : instrParts i = some (cls, k, h, vs)) (hr : (rowsOf cls)[k]? = some r) :
    encode i = some ⟨r.imxOf vs, h.scp, h.pmt, wordOf h r.op (r.operand vs)⟩ := by
  unfold encode
  split
  · cases hi
  · cases hi
  · cases hi
  · cases hi
  · simp [hi, hr, Row.imxOf, Row.operand]

/-- The words of an instruction of a table decode to it. -/
theorem decode_encode_of_instrParts {cls c : Engine} {i : Instr} {k : Nat} {h : Hdr} {vs : List Nat} {g : Group}
    {handler : Bool} (hi : instrParts i = some (c, k, h, vs)) (hwf : WellFormed cls i) (hg : encode i = some g)
    (hhandler : handler = true ↔ ∃ h, i = .hend h) :
    g.word < 2 ^ 64 ∧ (∀ e, g.imx = some e → e < 2 ^ 40) ∧ decode (g.env cls true handler) g.word = .ok i := by
  obtain ⟨r, hr, hlen, hbuild⟩ := row_of_instrParts hi
  have hmem := List.mem_of_getElem? hr
  have hok := rowsOf_faithful c r hmem cls h vs
  rw [hbuild, hwf] at hok
  obtain ⟨rfl, hallow⟩ : cls = c ∧ r.allows c h vs = true := by
    simpa only [Bool.and_eq_true, decide_eq_true_eq] using hok.symm
  obtain rfl := Option.some.inj ((encode_of_instrParts hi hr).symm.trans hg)
  obtain ⟨hlt, hdec⟩ := decode_word hmem hlen hallow (hhandler.trans (isHend_iff hi hr hbuild))
  refine ⟨hlt, fun e he => ?_, hbuild ▸ hdec⟩
  rcases r.imxOf_cases vs with ⟨hnone, -⟩ | ⟨hsome, -⟩
  · exact nomatch hnone.symm.trans he
  · obtain rfl := Option.some.inj (hsome.symm.trans he)
    exact Row.packHigh_lt (laidOut_of_mem hmem) hlen

theorem wellFormed_imx {cls : Engine} {h : Hdr} {ext : Nat} :
    WellFormed cls (.imx h ext) ↔ h = .plain ∧ ext < 2 ^ 40 := by
  change (decide _ && decide _) = true ↔ _
  simp

theorem wellFormed_scp {cls : Engine} {h : Hdr} {scope order : Nat} :
    WellFormed cls (.scp h scope order) ↔ h = .plain ∧ scope < 4 ∧ order ≤ 4 := by
  change (decide _ && decide _ && decide _) = true ↔ _
  simp [and_assoc]

theorem wellFormed_pmt {cls : Engine} {h : Hdr} {sink clear : Nat} :
    WellFormed cls (.pmt h sink clear) ↔ h = .plain ∧ sink < 2 ∧ clear < 2 ∧ sink + clear ≠ 0 := by
  change (decide _ && decide _ && decide _ && decide _) = true ↔ _
  simp only [Bool.and_eq_true, decide_eq_true_eq, and_assoc]

theorem wellFormed_nop {cls : Engine} {h : Hdr} : WellFormed cls (.nop h) ↔ h.ok cls.id [] [] = true := Iff.rfl

theorem wordOf_plain_bits {op opnd : Nat} (hop : op < 256) (hopnd : opnd < 2 ^ 40) :
    wordOf .plain op opnd < 2 ^ 64 ∧ bitsAt (wordOf .plain op opnd) 40 8 = op ∧ bitsAt (wordOf .plain op opnd) 48 8 = 0 ∧
      bitsAt (wordOf .plain op opnd) 56 8 = 0 ∧ bitsAt (wordOf .plain op opnd) 0 40 = opnd ∧
      (op ≠ 0 → wordOf .plain op opnd ≠ 0) :=
  wordOf_bits (h := .plain) (by decide) (by decide) hop hopnd

/-- The words that every class has, outside a handler and without prefixes, decode to themselves. -/
theorem decode_imx (cls : Engine) {ext : Nat} (hext : ext < 2 ^ 40) :
    wordOf .plain 0xFC ext < 2 ^ 64 ∧
      decode ⟨cls, true, false, none, none, none⟩ (wordOf .plain 0xFC ext) = .ok (.imx .plain ext) := by
  obtain ⟨hlt, bop, bsig, bwait, bopnd, hne⟩ := wordOf_plain_bits (op := 0xFC) (by decide) hext
  refine ⟨hlt, ?_⟩
  rw [decode_shared (hne (by decide)) (by omega)]
  simp [decodeShared, bop, bsig, bwait, bopnd]

theorem decode_scp (cls : Engine) {scope order : Nat} (hscope : scope < 4) (horder : order ≤ 4) :
    wordOf .plain 0xFD (scope + 4 * order) < 2 ^ 64 ∧
      decode ⟨cls, true, false, none, none, none⟩ (wordOf .plain 0xFD (scope + 4 * order)) =
        .ok (.scp .plain scope order) := by
  obtain ⟨hlt, bop, bsig, bwait, bopnd, hne⟩ := wordOf_plain_bits (op := 0xFD) (opnd := scope + 4 * order)
    (by decide) (by omega)
  have hmod : (scope + 4 * order) % 4 = scope := by omega
  have hdiv : (scope + 4 * order) / 4 = order := by omega
  refine ⟨hlt, ?_⟩
  rw [decode_shared (hne (by decide)) (by omega)]
  simp [decodeShared, bop, bsig, bwait, bopnd, hmod, hdiv]
  omega

theorem decode_pmt (cls : Engine) {sink clear : Nat} (hsink : sink < 2) (hclear : clear < 2) (hne0 : sink + clear ≠ 0) :
    wordOf .plain 0xFE (sink + 2 * clear) < 2 ^ 64 ∧
      decode ⟨cls, true, false, none, none, none⟩ (wordOf .plain 0xFE (sink + 2 * clear)) = .ok (.pmt .plain sink clear) := by
  obtain ⟨hlt, bop, bsig, bwait, bopnd, hne⟩ := wordOf_plain_bits (op := 0xFE) (opnd := sink + 2 * clear)
    (by decide) (by omega)
  have hmod : (sink + 2 * clear) % 2 = sink := by omega
  have hdiv : (sink + 2 * clear) / 2 = clear := by omega
  refine ⟨hlt, ?_⟩
  rw [decode_shared (hne (by decide)) (by omega)]
  simp [decodeShared, bop, bsig, bwait, bopnd, hmod, hdiv]
  omega

/-- NOP's word: its prefixes, then its wait and signal bytes, then its operand field (02 R50). -/
theorem decode_nopWord {env : DecEnv} {h : Hdr} {opnd : Nat} (hwait : h.wait < 256) (hsig : h.sig < 256) (hopnd : opnd < 2 ^ 40) :
    decode env (wordOf h 0xFF opnd) =
      if !(env.imx.isNone && env.scp.isNone && env.pmt.isNone) then .error 0x07
      else if !syncOk env 0xFF h.wait h.sig then .error 0x05
      else if opnd ≠ 0 then .error 0x03
      else .ok (.nop ⟨h.wait, h.sig, none, none⟩) := by
  obtain ⟨hlt, bop, bsig, bwait, bopnd, hne⟩ := wordOf_bits (op := 0xFF) hwait hsig (by decide) hopnd
  rw [decode_shared (hne (by decide)) (by omega)]
  simp only [decodeShared, bop, bsig, bwait, bopnd, if_true]

theorem decode_nop {cls : Engine} {h : Hdr} (hok : h.ok cls.id [] [] = true) :
    wordOf h 0xFF 0 < 2 ^ 64 ∧ decode ⟨cls, true, false, none, none, none⟩ (wordOf h 0xFF 0) = .ok (.nop h) := by
  obtain ⟨hwait, hsig, hscp, hpmt⟩ := (Hdr.ok_iff ..).mp hok
  have hsync : syncOk ⟨cls, true, false, none, none, none⟩ 0xFF h.wait h.sig = true :=
    (syncOk_iff ..).mpr ⟨hwait, hsig, nofun, nofun⟩
  refine ⟨(wordOf_bits (syncByteOk_lt hwait) (syncByteOk_lt hsig) (by decide) (by decide)).1, ?_⟩
  rw [decode_nopWord (syncByteOk_lt hwait) (syncByteOk_lt hsig) (by decide), hsync]
  obtain ⟨wait, sig, scp, pmt⟩ := h
  cases scp with
  | some v => exact absurd (hscp v rfl).2 List.not_mem_nil
  | none =>
    cases pmt with
    | some v => exact absurd (hpmt v rfl) List.not_mem_nil
    | none => rfl

theorem decode_encode {cls : Engine} {i : Instr} {g : Group} {handler : Bool} (hwf : WellFormed cls i)
    (hg : encode i = some g) (hhandler : handler = true ↔ ∃ h, i = .hend h) :
    g.word < 2 ^ 64 ∧ (∀ e, g.imx = some e → e < 2 ^ 40) ∧ decode (g.env cls true handler) g.word = .ok i := by
  have outside (hne : ¬ ∃ h, i = .hend h) : handler = false := by simpa [hne] using hhandler
  cases hi : instrParts i with
  | some p => exact decode_encode_of_instrParts hi hwf hg hhandler
  | none =>
    unfold encode at hg
    split at hg
    · obtain rfl := outside nofun
      obtain rfl := Option.some.inj hg
      obtain ⟨rfl, hext⟩ := wellFormed_imx.mp hwf
      obtain ⟨hlt, hdec⟩ := decode_imx cls hext
      exact ⟨hlt, nofun, hdec⟩
    · obtain rfl := outside nofun
      obtain rfl := Option.some.inj hg
      obtain ⟨rfl, hscope, horder⟩ := wellFormed_scp.mp hwf
      obtain ⟨hlt, hdec⟩ := decode_scp cls hscope horder
      exact ⟨hlt, nofun, hdec⟩
    · obtain rfl := outside nofun
      obtain rfl := Option.some.inj hg
      obtain ⟨rfl, hsink, hclear, hne⟩ := wellFormed_pmt.mp hwf
      obtain ⟨hlt, hdec⟩ := decode_pmt cls hsink hclear hne
      exact ⟨hlt, nofun, hdec⟩
    · obtain rfl := outside nofun
      obtain rfl := Option.some.inj hg
      obtain ⟨hlt, hdec⟩ := decode_nop (wellFormed_nop.mp hwf)
      exact ⟨hlt, nofun, hdec⟩
    · rw [hi] at hg; cases hg

/-! ### Near-memory instructions (10 R291) -/

/-- A near-memory row as the row of a word that has its fields. -/
def NmuRow.toRow (r : NmuRow) : Row := ⟨r.op, .none, [], ⟨[], [], false⟩, r.flds, fun _ => true, r.x, fun _ => r.build⟩

/-- `WellFormed` allows what the near-memory row allows. -/
def NmuRow.Faithful (r : NmuRow) : Prop := ∀ c vs, instrOk c (r.build vs) = (admitsFrom r.flds 0 vs && r.x vs)

/-- The check defines no modifier values. -/
def Chk.isMods : Chk → Bool
  | .mods _ => true
  | _ => false

/-- The row's fields share no bit and lie in 26 bits, and none is signed, extended or a modifier. -/
def NmuRow.laidOut (r : NmuRow) : Bool :=
  r.toRow.laidOut && decide (r.op < 64) &&
  r.flds.all fun f => decide (f.lo + f.w ≤ 26 ∧ f.ew = 0 ∧ f.sg = false) && !f.chk.isMods

theorem Chk.okMod_of_not_isMods {c : Chk} (h : c.isMods = false) (v : Nat) : c.okMod v = true := by
  cases c with
  | mods vs => exact nomatch h
  | _ => rfl

theorem nmuRows1_faithful : ∀ r ∈ nmuRows1, r.Faithful := by
  simp only [nmuRows1, List.forall_mem_cons, List.not_mem_nil, false_imp_iff, implies_true, and_true]
  and_intros <;> intro c vs <;> delta instrOk <;> simp [Chk.okMod, Chk.okReg, Chk.okRng, Bool.and_assoc]

theorem nmuRows2_faithful : ∀ r ∈ nmuRows2, r.Faithful := by
  simp only [nmuRows2, List.forall_mem_cons, List.not_mem_nil, false_imp_iff, implies_true, and_true]
  and_intros <;> intro c vs <;> delta instrOk <;> simp [Chk.okMod, Chk.okReg, Chk.okRng, Bool.and_assoc]

theorem nmuRows_faithful : ∀ r ∈ nmuRows, r.Faithful :=
  List.forall_mem_append.mpr ⟨nmuRows1_faithful, nmuRows2_faithful⟩

theorem nmuRows_laidOut : ∀ r ∈ nmuRows, r.laidOut = true := by decide +kernel

theorem nmuRows_op : nmuRows.Pairwise fun a r => a.op ≠ r.op := by decide +kernel

theorem nmuLaidOut_iff (r : NmuRow) : r.laidOut = true ↔ r.toRow.laidOut = true ∧ r.op < 64 ∧
    ∀ f ∈ r.flds, (f.lo + f.w ≤ 26 ∧ f.ew = 0 ∧ f.sg = false) ∧ f.chk.isMods = false := by
  simp only [NmuRow.laidOut, Bool.and_eq_true, decide_eq_true_eq, List.all_eq_true, Bool.not_eq_true', and_assoc]

/-- An instruction with near-memory parts is what its row builds of them. -/
theorem nmuRow_of_nmuParts {i : Instr} {k : Nat} {vs : List Nat} (hi : nmuParts i = some (k, vs)) :
    ∃ r, nmuRows[k]? = some r ∧ vs.length = r.flds.length ∧ r.build vs = i := by
  cases i <;> cases hi <;> exact ⟨_, rfl, rfl, rfl⟩

theorem decodeNmu_eq_ok_iff {w : Nat} {i : Instr} : decodeNmu w = .ok i ↔
    ∃ r, nmuRows.find? (fun r => r.op == bitsAt w 26 6) = some r ∧
      (∀ p ∈ r.flds.zip (r.flds.map fun f => bitsAt (bitsAt w 0 26) f.lo f.w),
        p.1.chk.okReg p.2 = true ∧ p.1.chk.okRng p.2 = true) ∧
      bitsAt w 0 26 = r.flds.foldr (fun f a => bitsAt (bitsAt w 0 26) f.lo f.w * 2 ^ f.lo + a) 0 ∧
      r.x (r.flds.map fun f => bitsAt (bitsAt w 0 26) f.lo f.w) = true ∧
      r.build (r.flds.map fun f => bitsAt (bitsAt w 0 26) f.lo f.w) = i := by
  unfold decodeNmu
  cases nmuRows.find? fun r => r.op == bitsAt w 26 6 with
  | none => simp
  | some r =>
    simp only [Option.some.injEq, exists_eq_left', forall_and, ← List.all_eq_true (p := fun p : Fld × Nat => _),
      ← beq_iff_eq (a := bitsAt w 0 26)]
    split_ifs with hreg hzero hrng
    · refine iff_of_false nofun fun h => ?_
      rw [h.1.1] at hreg
      cases hreg
    · refine iff_of_false nofun fun h => ?_
      rw [bne, h.2.1] at hzero
      cases hzero
    · refine iff_of_false nofun fun h => ?_
      rw [h.1.2, h.2.2.1] at hrng
      cases hrng
    · simp only [Bool.not_eq_true', Bool.not_eq_false, Bool.or_eq_true, not_or, bne] at hreg hzero hrng
      simp only [hreg, hzero, hrng, true_and, Except.ok.injEq]

theorem nmuWord_bits {op opnd : Nat} (hop : op < 64) (hopnd : opnd < 2 ^ 26) : op * 2 ^ 26 + opnd < 2 ^ 32 ∧
    bitsAt (op * 2 ^ 26 + opnd) 26 6 = op ∧ bitsAt (op * 2 ^ 26 + opnd) 0 26 = opnd := by
  unfold bitsAt
  omega

/-- The words of near-memory instructions decode to them. -/
theorem decodeNmu_encodeNmu {cls : Engine} {i : Instr} {w : Nat} (hwf : WellFormed cls i) (hw : encodeNmu i = some w) :
    w < 2 ^ 32 ∧ decodeNmu w = .ok i := by
  unfold encodeNmu at hw
  split at hw
  · cases hw
  rename_i k vs hi
  obtain ⟨r, hr, hlen, rfl⟩ := nmuRow_of_nmuParts hi
  rw [hr] at hw
  obtain rfl := Option.some.inj hw
  have hmem := List.mem_of_getElem? hr
  obtain ⟨laid, hop, flds⟩ := (nmuLaidOut_iff r).mp (nmuRows_laidOut r hmem)
  have hok := nmuRows_faithful r hmem cls vs
  rw [hwf, eq_comm, Bool.and_eq_true, admitsFrom_iff (by rw [Nat.zero_add, hlen]), List.drop_zero] at hok
  obtain ⟨hadm, hx⟩ := hok
  have hopnd : packLow r.flds vs < 2 ^ 26 :=
    Row.operand_lt_of (r := r.toRow) laid hlen (fun f hf => (flds f hf).1.1) nofun
  obtain ⟨hlt, bop, bopnd⟩ := nmuWord_bits hop hopnd
  have bits := Row.bitsAt_operand_field (r := r.toRow) laid hlen
  have values : (r.flds.map fun f => bitsAt (packLow r.flds vs) f.lo f.w) = vs := by
    refine map_eq_of_forall₂ (List.forall₂_iff_zip.mpr ⟨hlen.symm, fun {f v} hfv => ?_⟩)
    obtain ⟨⟨-, hew, hsg⟩, -⟩ := flds f (List.of_mem_zip hfv).1
    obtain ⟨hrange, -⟩ := (Fld.admits_iff f v).mp ((List.forall₂_iff_zip.mp hadm).2 hfv)
    exact ((List.forall₂_iff_zip.mp bits).2 hfv).trans (Nat.mod_eq_of_lt (Fld.lt_of_inRange hew hsg hrange))
  have hfind : nmuRows.find? (fun a => a.op == r.op) = some r :=
    find?_eq_some_of_pairwise nmuRows_op hmem (beq_self_eq_true _) fun a _ ha => beq_false_of_ne ha
  refine ⟨hlt, decodeNmu_eq_ok_iff.mpr ⟨r, ?_, ?_, ?_, ?_, ?_⟩⟩
  · rwa [bop]
  · rw [bopnd, values]
    rintro ⟨f, v⟩ hfv
    obtain ⟨-, -, hreg, hrng⟩ := (Fld.admits_iff f v).mp ((List.forall₂_iff_zip.mp hadm).2 hfv)
    exact ⟨hreg, hrng⟩
  · rw [bopnd]
    exact (foldr_bits_eq_packLow bits).symm
  · rwa [bopnd, values]
  · rw [bopnd, values]

/-- Settles O2: `decode_encode` takes an encoded word back through the row that wrote it, and `decodeNmu_encodeNmu` does
the same for near-memory instructions. -/
theorem encodedWordsDecodeBack : Obligations.EncodedWordsDecodeBack :=
  ⟨fun _ _ _ _ hwf hg hhandler => decode_encode hwf hg hhandler, fun _ _ _ hwf hw => decodeNmu_encodeNmu hwf hw⟩

/-! ### What decodes is well-formed -/

theorem wellFormed_of_decodeShared {env : DecEnv} {w : Nat} {i : Instr} (h : decodeShared env w = .ok i) :
    WellFormed env.cls i := by
  unfold decodeShared at h
  dsimp only at h
  split_ifs at h with _ _ hsync <;> cases h
  · obtain ⟨hwait, hsig, -⟩ := (syncOk_iff ..).mp (by simpa using hsync)
    exact wellFormed_nop.mpr ((Hdr.ok_iff ..).mpr ⟨hwait, hsig, nofun, nofun⟩)
  · exact wellFormed_imx.mpr ⟨rfl, bitsAt_lt ..⟩
  · exact wellFormed_scp.mpr ⟨rfl, by omega, by omega⟩
  · exact wellFormed_pmt.mpr ⟨rfl, by omega, by omega, by omega⟩

theorem wellFormed_of_decodeRows {env : DecEnv} {w : Nat} {r0 : Row} {i : Instr} (hscp : ∀ v, env.scp = some v → v < 20)
    (h0 : (rowsOf env.cls).find? (fun r => r.op == bitsAt w 40 8) = some r0)
    (h : decodeRows env w r0 ((rowsOf env.cls).filter fun r => r.op == bitsAt w 40 8) = .ok i) :
    WellFormed env.cls i := by
  obtain ⟨hpriv, hlatch, hsync, r, hr, -, hchecks, rfl⟩ := decodeRows_eq_ok_iff.mp h
  obtain ⟨hmem, hop⟩ := List.mem_filter.mp (List.mem_of_find?_eq_some hr)
  rw [beq_iff_eq] at hop
  rw [← hop] at h0 hpriv hsync
  obtain ⟨hacc, -⟩ := acc_eq_of_find? hmem h0
  rw [latchesOk_iff, hacc] at hlatch
  obtain ⟨-, horders, hpmts⟩ := hlatch
  obtain ⟨hwait, hsig, hquiet, hdone⟩ := (syncOk_iff ..).mp hsync
  obtain ⟨-, -, hhend⟩ := (privilegeOk_iff ..).mp hpriv
  obtain ⟨-, -, flds, -⟩ := (laidOut_iff r).mp (laidOut_of_mem hmem)
  refine (rowsOf_faithful env.cls r hmem env.cls _ _).trans ?_
  rw [decide_eq_true rfl, Bool.true_and, Row.allows_iff (List.length_map _)]
  refine ⟨(Hdr.ok_iff ..).mpr ⟨hwait, hsig, fun v hv => ⟨(hscp v hv).trans (by decide), horders v hv⟩, hpmts⟩,
    ?_, hchecks, ?_⟩
  · exact List.forall₂_map_right_iff.mpr (List.forall₂_same.mpr fun f hf => Fld.inRange_value (flds f hf).1 ..)
  · simp only [endOk, Bool.and_eq_true, decide_eq_true_eq]
    exact ⟨hdone, fun hctl hop => hquiet hctl (by simpa using mt (hhend hctl) (not_not.mpr hop))⟩

theorem wellFormed_of_decode {env : DecEnv} {w : Nat} {i : Instr} (hscp : ∀ v, env.scp = some v → v < 20)
    (h : decode env w = .ok i) : WellFormed env.cls i := by
  rcases decode_cases env w with hnone | hshared | ⟨r0, h0, hrows⟩
  · obtain rfl := Except.ok.inj (hnone.symm.trans h)
    rfl
  · exact wellFormed_of_decodeShared (hshared.symm.trans h)
  · exact wellFormed_of_decodeRows hscp h0 (hrows.symm.trans h)

theorem wellFormed_of_decodeNmu {cls : Engine} {w : Nat} {i : Instr} (h : decodeNmu w = .ok i) : WellFormed cls i := by
  obtain ⟨r, hr, hchecks, -, hx, rfl⟩ := decodeNmu_eq_ok_iff.mp h
  have hmem := List.mem_of_find?_eq_some hr
  obtain ⟨-, -, flds⟩ := (nmuLaidOut_iff r).mp (nmuRows_laidOut r hmem)
  refine (nmuRows_faithful r hmem cls _).trans ?_
  rw [hx, Bool.and_true, admitsFrom_iff (by rw [List.length_map, Nat.zero_add]), List.drop_zero]
  refine List.forall₂_iff_zip.mpr ⟨(List.length_map _).symm, fun {f v} hfv => (Fld.admits_iff f v).mpr ?_⟩
  obtain ⟨⟨-, hew, hsg⟩, hmods⟩ := flds f (List.of_mem_zip hfv).1
  obtain ⟨hreg, hrng⟩ := hchecks (f, v) hfv
  refine ⟨?_, Chk.okMod_of_not_isMods hmods v, hreg, hrng⟩
  rw [← List.map_prod_left_eq_zip] at hfv
  obtain ⟨f, -, ⟨⟩⟩ := List.mem_map.mp hfv
  simpa [hew, hsg] using bitsAt_lt ..

theorem decodeShared_error {env : DecEnv} {w c : Nat} (h : decodeShared env w = .error c) : c ∈ [0x03, 0x05, 0x07] := by
  unfold decodeShared at h
  dsimp only at h
  split_ifs at h <;> cases h <;> decide

theorem decode_error {env : DecEnv} {w c : Nat} (h : decode env w = .error c) :
    c ∈ [0x03, 0x04, 0x05, 0x07, 0x08, 0x09] := by
  rcases decode_cases env w with hnone | hshared | ⟨r0, -, hrows⟩
  · exact nomatch hnone.symm.trans h
  · have := decodeShared_error (hshared.symm.trans h)
    simp at this ⊢
    omega
  · exact decodeRows_error (hrows.symm.trans h)

/-! ### The order of the checks -/

section
variable {env : DecEnv} {w : Nat} {r0 : Row} {cands : List Row}

theorem decodeRows_privilege (hp : privilegeOk env (bitsAt w 40 8) r0.acc.sup = false) :
    decodeRows env w r0 cands = .error 0x08 := by
  simp [decodeRows, hp]

variable (hp : privilegeOk env (bitsAt w 40 8) r0.acc.sup = true)
include hp

theorem decodeRows_latches (hl : latchesOk env r0 = false) : decodeRows env w r0 cands = .error 0x07 := by
  simp [decodeRows, hp, hl]

variable (hl : latchesOk env r0 = true)
include hl

theorem decodeRows_sync (hs : syncOk env (bitsAt w 40 8) (bitsAt w 56 8) (bitsAt w 48 8) = false) :
    decodeRows env w r0 cands = .error 0x05 := by
  simp [decodeRows, hp, hl, hs]

variable (hs : syncOk env (bitsAt w 40 8) (bitsAt w 56 8) (bitsAt w 48 8) = true)
include hs

theorem decodeRows_noRow (hr : cands.find? (fun r => subMatches r.sub (bitsAt w 0 40)) = none) :
    decodeRows env w r0 cands = .error 0x03 := by
  simp [decodeRows, hp, hl, hs, hr]

variable {r : Row} (hr : cands.find? (fun r => subMatches r.sub (bitsAt w 0 40)) = some r)
include hr

theorem decodeRows_reserved (hz : reservedZero r (bitsAt w 0 40) env.imx = false) :
    decodeRows env w r0 cands = .error 0x03 := by
  simp [decodeRows, hp, hl, hs, hr, hz]

variable (hz : reservedZero r (bitsAt w 0 40) env.imx = true)
include hz

theorem decodeRows_operands {c : Nat}
    (hc : operandChecks r (r.flds.map fun f => f.value (bitsAt w 0 40) env.imx) = .error c) :
    decodeRows env w r0 cands = .error c := by
  simp [decodeRows, hp, hl, hs, hr, hz, hc]

theorem decodeRows_ok (hc : operandChecks r (r.flds.map fun f => f.value (bitsAt w 0 40) env.imx) = .ok ()) :
    decodeRows env w r0 cands = .ok (r.build ⟨bitsAt w 56 8, bitsAt w 48 8, env.scp, env.pmt⟩
      (r.flds.map fun f => f.value (bitsAt w 0 40) env.imx)) :=
  decodeRows_eq_ok_iff.mpr ⟨hp, hl, hs, r, hr, hz, hc, rfl⟩

end

/-- Settles O3: what decodes is what a row builds of operands that passed its checks, which `rowsOf_faithful` holds
against `WellFormed`; the causes follow the order in which `decodeRows` makes its checks. -/
theorem decodedWordsAreWellFormed : Obligations.DecodedWordsAreWellFormed := by
  refine ⟨fun env w i _ _ hscp _ h => wellFormed_of_decode hscp h, fun w i cls h => wellFormed_of_decodeNmu h,
    fun env w c h => decode_error h, ?_, fun env w r hw hop hr => ?_⟩
  · rintro env w (rfl | ⟨hop, hrow⟩)
    · rw [decode, if_pos rfl]
    · exact decode_unassigned hop hrow
  · dsimp only
    rw [decode_rows hw hop hr]
    exact ⟨decodeRows_privilege, fun hp => ⟨decodeRows_latches hp, fun hl => ⟨decodeRows_sync hp hl, fun hs =>
      ⟨decodeRows_noRow hp hl hs, fun r' hr' => ⟨decodeRows_reserved hp hl hs hr', fun hz =>
        ⟨fun _ => decodeRows_operands hp hl hs hr' hz, decodeRows_ok hp hl hs hr' hz⟩⟩⟩⟩⟩⟩

/-! ### Wait and signal bytes -/

theorem syncByteOk_eq_false_iff {own b : Nat} (hb : b < 256) : syncByteOk own b = false ↔
    (b / 32 = 5 ∨ b / 32 = 6 ∨ b / 32 = 7) ∨ (b / 32 = 0 ∧ b % 32 ≠ 0) ∨ (b / 32 = 1 ∧ (5 < b % 32 ∨ b % 32 = own)) := by
  have kind : b / 32 ≤ 7 := by omega
  simp only [syncByteOk, hb, decide_true, Bool.true_and]
  split_ifs with h0 h1 <;> simp only [decide_eq_false_iff_not] <;> omega

/-- An invalid wait or signal byte fails check 5. -/
theorem syncOk_eq_false {env : DecEnv} {op wait sig : Nat}
    (h : syncByteOk env.cls.id wait = false ∨ syncByteOk env.cls.id sig = false) : syncOk env op wait sig = false := by
  rcases h with h | h <;> simp [syncOk, h]

/-- Settles O4: `syncByteOk` by the kind of the byte, and the check that it stands in. -/
theorem invalidSyncBytes : Obligations.InvalidSyncBytes := by
  refine ⟨fun cls b hb => syncByteOk_eq_false_iff hb, fun env w hw hbyte =>
    ⟨fun r hop hr hp hl => ?_, fun hop himx hscp hpmt => ?_⟩⟩
  · rw [decode_rows hw hop hr]
    exact decodeRows_sync hp hl (syncOk_eq_false hbyte)
  · rw [decode_shared hw (by omega)]
    simp [decodeShared, hop, himx, hscp, hpmt, syncOk_eq_false hbyte]

/-- Settles O1: the decoder evaluates on each word. -/
theorem sampleWordsDecode : Obligations.SampleWordsDecode := by
  refine ⟨rfl, rfl, rfl, rfl, rfl, rfl, rfl, rfl, rfl, rfl, rfl, rfl, rfl, rfl, rfl, rfl, rfl, rfl,
    fun cls => rfl, fun cls => ?_⟩
  cases cls <;> rfl

end Sys2Proof
end

section
namespace Sys2Proof.Machine

/-! ### Waits and signals (O23, O24) -/

/-- A wait on semaphore `n` (02 R30: bytes 64 to 127), by the cases of 11 R304 and R307. -/
theorem testWait_sem {s : State} {t p n : Nat} (hn : n < 64) : s.testWait t p (64 + n) =
    if ((s.tile t).semOf n).pois.bit then .poisoned s (statusWord ((s.tile t).semOf n).count ((s.tile t).semOf n).pois)
      ((s.tile t).semOf n).pois.cause ((s.tile t).semOf n).pois.origin
    else if (s.tile t).earlierWaiters p (64 + n) < ((s.tile t).semOf n).count then
      .pass (s.setTile t ((s.tile t).setSem n { (s.tile t).semOf n with count := ((s.tile t).semOf n).count - 1 }))
    else .hold (s.register t p (64 + n)) := by
  unfold State.testWait
  by_cases low : n < 32
  · have kind : (64 + n) / 32 = 2 := by omega
    have idx : (64 + n) % 32 = n := by omega
    simp only [kind, idx]
  · have kind : (64 + n) / 32 = 3 := by omega
    have idx : 32 + (64 + n) % 32 = n := by omega
    simp only [kind, idx]

/-- A wait on the token queue fed by engine `e` (02 R30: bytes 32 to 37), by the cases of 11 R304 and R308. -/
theorem testWait_queue {s : State} {t p e : Nat} (he : e < 6) : s.testWait t p (32 + e) =
    if ((s.tile t).tqOf (tqIndex e p)).pois.bit then
      .poisoned s (statusWord ((s.tile t).tqOf (tqIndex e p)).count ((s.tile t).tqOf (tqIndex e p)).pois)
        ((s.tile t).tqOf (tqIndex e p)).pois.cause ((s.tile t).tqOf (tqIndex e p)).pois.origin
    else if 0 < ((s.tile t).tqOf (tqIndex e p)).count then
      let u := s.setTile t ((s.tile t).setTq (tqIndex e p)
        { (s.tile t).tqOf (tqIndex e p) with count := ((s.tile t).tqOf (tqIndex e p)).count - 1 })
      .pass (if (s.tile t).pushes.any fun x => x.prod == e && x.cons == p then u.soon [.pushes t (tqIndex e p)] else u)
    else .hold (s.register t p (32 + e)) := by
  have kind : (32 + e) / 32 = 1 := by omega
  have idx : (32 + e) % 32 = e := by omega
  unfold State.testWait
  simp only [kind, idx]

@[simp] theorem Tile.setSem_semOf (T : Tile) (n : Nat) (o : SObj) : (T.setSem n o).semOf n = o := FM.get_set_same ..
theorem Tile.setSem_other (T : Tile) {n m : Nat} (o : SObj) (h : m ≠ n) : (T.setSem n o).semOf m = T.semOf m :=
  FM.get_set_other _ _ _ h
@[simp] theorem Tile.setSem_tq (T : Tile) (n : Nat) (o : SObj) : (T.setSem n o).tq = T.tq := rfl
@[simp] theorem Tile.setTq_tqOf (T : Tile) (q : Nat) (o : SObj) : (T.setTq q o).tqOf q = o := FM.get_set_same ..
theorem Tile.setTq_other (T : Tile) {q r : Nat} (o : SObj) (h : r ≠ q) : (T.setTq q o).tqOf r = T.tqOf r :=
  FM.get_set_other _ _ _ h
@[simp] theorem Tile.setTq_sem (T : Tile) (q : Nat) (o : SObj) : (T.setTq q o).sem = T.sem := rfl
@[simp] theorem Tile.setTq_pushes (T : Tile) (q : Nat) (o : SObj) : (T.setTq q o).pushes = T.pushes := rfl

@[simp] theorem State.soon_tile (s : State) (ts : List Turn) (t : Nat) : (s.soon ts).tile t = s.tile t := rfl

/-- Registering a wait changes no semaphore and no token queue. -/
theorem State.register_sem_tq (s : State) (t p w : Nat) :
    ((s.register t p w).tile t).sem = (s.tile t).sem ∧ ((s.register t p w).tile t).tq = (s.tile t).tq := by
  simp only [State.register]
  split
  · exact ⟨rfl, rfl⟩
  · split <;> simp [State.updCc, State.updEng, Tile.setCc, Tile.setEngine]

/-- Settles O23: `testWait_sem` and `testWait_queue` say what a wait does with its object; each case reads that object
and its neighbours back. -/
theorem waitsTakeOneCount : Obligations.WaitsTakeOneCount := by
  intro s t p n e hn he
  dsimp only
  rw [testWait_sem hn, testWait_queue he]
  refine ⟨fun clean few => ?_, fun clean empty => ?_, fun bad => if_pos bad, fun clean some => ?_, fun clean empty => ?_,
    fun bad => if_pos bad⟩
  · rw [if_neg (by rw [clean]; decide), if_pos few]
    exact ⟨_, rfl, by simp, fun m hm => by simp [Tile.setSem_other _ _ hm], by simp⟩
  · rw [if_neg (by rw [clean]; decide), if_neg (by omega)]
    exact ⟨_, rfl, (s.register_sem_tq ..).1⟩
  · rw [if_neg (by rw [clean]; decide), if_pos some]
    refine ⟨_, rfl, ?_⟩
    split <;> exact ⟨by simp, fun m hm => by simp [Tile.setTq_other _ _ hm], by simp⟩
  · rw [if_neg (by rw [clean]; decide), if_neg (by omega)]
    exact ⟨_, rfl, (s.register_sem_tq ..).2⟩

/-- A semaphore after a signal: one count more, or the poison of the signal or of an overflow (11 R302, R307). -/
def SObj.signalled (o : SObj) (origin : Nat) : Option (Nat × Nat) → SObj
  | some (cause, source) => { o with pois := o.pois.poison cause source }
  | none => o.inc origin

/-- A signal to semaphore `n` (02 R30: bytes 64 to 127). -/
theorem signalObj_sem {s : State} {t e c n : Nat} {pois : Option (Nat × Nat)} (hn : n < 64) :
    s.signalObj t e c (64 + n) pois =
      s.setTile t ((s.tile t).setSem n (((s.tile t).semOf n).signalled (originOf t e) pois)) := by
  have small : ¬ 256 ≤ 64 + n := by omega
  unfold State.signalObj
  by_cases low : n < 32
  · have kind : (64 + n) / 32 = 2 := by omega
    have idx : (64 + n) % 32 = n := by omega
    cases pois <;> simp only [small, if_false, kind, idx, SObj.signalled]
  · have kind : (64 + n) / 32 = 3 := by omega
    have idx : 32 + (64 + n) % 32 = n := by omega
    cases pois <;> simp only [small, if_false, kind, idx, SObj.signalled]

/-- A signal to the token queue that feeds engine `d` (02 R30: bytes 32 to 37) is a push. -/
theorem signalObj_push {s : State} {t e c d : Nat} {pois : Option (Nat × Nat)} (hd : d < 6) :
    s.signalObj t e c (32 + d) pois = s.pushToken t e c d pois := by
  have small : ¬ 256 ≤ 32 + d := by omega
  have kind : (32 + d) / 32 = 1 := by omega
  have idx : (32 + d) % 32 = d := by omega
  unfold State.signalObj
  simp only [small, if_false, kind, idx]

/-- What an object's signal teaches it changes no semaphore, no queue and no waiting push. -/
theorem Tile.tell_sync (T : Tile) (k : Nat) (ks : List Nat) :
    (T.tell k ks).sem = T.sem ∧ (T.tell k ks).tq = T.tq ∧ (T.tell k ks).pushes = T.pushes := by
  unfold Tile.tell
  split <;> exact ⟨rfl, rfl, rfl⟩

theorem State.signal_sync (s : State) (t e c sig : Nat) (pois : Option (Nat × Nat)) :
    ((s.signal t e c sig pois).tile t).sem = ((s.signalObj t e c sig pois).tile t).sem ∧
    ((s.signal t e c sig pois).tile t).tq = ((s.signalObj t e c sig pois).tile t).tq ∧
    ((s.signal t e c sig pois).tile t).pushes = ((s.signalObj t e c sig pois).tile t).pushes := by
  rw [State.signal, State.updTile_tile]
  exact Tile.tell_sync ..

/-- The semaphore after a signal to it. -/
theorem signal_semOf {s : State} {t e c n : Nat} {pois : Option (Nat × Nat)} (hn : n < 64) :
    ((s.signal t e c (64 + n) pois).tile t).semOf n = ((s.tile t).semOf n).signalled (originOf t e) pois := by
  rw [Tile.semOf, (s.signal_sync ..).1, signalObj_sem hn, State.setTile_tile]
  exact Tile.setSem_semOf ..

/-- The queue and the waiting pushes after a push. -/
theorem signal_push {s : State} {t e c d : Nat} {pois : Option (Nat × Nat)} (hd : d < 6) :
    ((s.signal t e c (32 + d) pois).tile t).tq = ((s.pushToken t e c d pois).tile t).tq ∧
    ((s.signal t e c (32 + d) pois).tile t).pushes = ((s.pushToken t e c d pois).tile t).pushes := by
  obtain ⟨-, htq, hpushes⟩ := s.signal_sync t e c (32 + d) pois
  rw [signalObj_push hd] at htq hpushes
  exact ⟨htq, hpushes⟩

/-- Settles O24: a signal's object after it (`signal_semOf`, `signal_push`), by the cases of an increment and a push. -/
theorem signalsAddOneCount : Obligations.SignalsAddOneCount := by
  intro s t e c n d cause origin hn hd
  obtain ⟨push_tq, push_pushes⟩ := signal_push (s := s) (t := t) (e := e) (c := c) (pois := none) hd
  obtain ⟨bad_tq, bad_pushes⟩ := signal_push (s := s) (t := t) (e := e) (c := c) (pois := some (cause, origin)) hd
  dsimp only
  refine ⟨fun room => ?_, fun full => ?_, ?_, fun room alone => ?_, fun wait => ?_, ?_, ?_⟩
  · rw [signal_semOf hn]
    exact if_pos room
  · rw [signal_semOf hn]
    simp only [SObj.signalled, SObj.inc, if_neg (Nat.not_lt.mpr full), PField.poison]
    exact ⟨trivial, fun bad => if_pos bad, fun clean => if_neg (by rw [clean]; decide)⟩
  · rw [signal_semOf hn]
    rfl
  · rw [Tile.tqOf, push_tq, push_pushes]
    simp only [State.pushToken]
    rw [if_pos ⟨room, by rw [alone]; rfl⟩, State.setTile_tile]
    exact ⟨Tile.setTq_tqOf .., rfl⟩
  · rw [push_tq, push_pushes]
    simp only [State.pushToken]
    rw [if_neg (by rintro ⟨room, alone⟩; rcases wait with h | h <;> simp_all; omega), State.setTile_tile]
    exact ⟨rfl, rfl⟩
  · rw [Tile.tqOf, bad_tq, State.pushToken, State.setTile_tile]
    exact Tile.setTq_tqOf ..
  · rw [bad_pushes, State.pushToken, State.setTile_tile]
    rfl

/-! ### Latched words (O25) -/

/-- IMX, SCP and PMT in a control-core context (02 R44). -/
theorem latchPrefix_ctl {s : State} {t c : Nat} (cur : s.cur = .ctl t c) (dup : Latch → Bool) (put : Latch → Latch) :
    latchPrefix s dup put = if dup (s.cc t c).latch then .next (s.prefixTrap t c 0x06)
      else .next (s.updCc t c fun x => { x with
        latch := { put x.latch with start := some (x.latch.start.getD x.pc) }
        pc := x.pc + 1, waitFrom := none, waitDone := false, nextAt := (s.tile t).clk + 1 }) := by
  simp only [latchPrefix, cur]

/-- IMX, SCP and PMT in a ring-fed engine. -/
theorem latchPrefix_ring {s : State} {t e : Nat} {w : RWord} (cur : s.cur = .ring t e) (peek : s.peek t e = some w)
    (dup : Latch → Bool) (put : Latch → Latch) :
    latchPrefix s dup put = if dup ((s.tile t).engine e).latch then .next (s.prefixFault t e 0x06)
      else .next ((s.pass t e).updEng t e fun x => { x with
        latch := { put x.latch with start := some (x.latch.start.getD w.off) }
        nextAt := ((s.pass t e).tile t).clk + 1 }) := by
  simp only [latchPrefix, cur, State.curTile, State.curEng, peek]

/-- A word of these without a signal byte that faults poisons nothing. -/
theorem prefixFault_eq {s : State} {t e cause : Nat} {w : RWord} (peek : s.peek t e = some w)
    (sig : w.w.toNat / 2 ^ 48 % 256 = 0) : s.prefixFault t e cause =
      s.stopEngine t e cause w.w w.off false false false [w] (((s.tile t).engine e).again.drop 1) := by
  simp only [State.prefixFault, peek, sig]
  split <;> rfl

/-- Settles O25: `latchPrefix` on the control core and in a ring-fed engine, for each kind of word that is latched. -/
theorem prefixesAreLatched : Obligations.PrefixesAreLatched := by
  intro s t c h ext scope order sink clear
  refine ⟨fun cur => ?_, fun cur w peek sig => ?_⟩
  · rw [exec_imx, exec_scp, exec_pmt, execImx, execScp, execPmt, latchPrefix_ctl cur, latchPrefix_ctl cur,
      latchPrefix_ctl cur]
    exact ⟨rfl, rfl, rfl⟩
  · dsimp only
    rw [exec_imx, exec_scp, exec_pmt, execImx, execScp, execPmt, latchPrefix_ring cur peek, latchPrefix_ring cur peek,
      latchPrefix_ring cur peek, prefixFault_eq peek sig]
    exact ⟨rfl, rfl, rfl⟩

/-! ### NOP (O26) -/

@[simp] theorem State.orFlags_bad (s : State) (t e bits : Nat) : (s.orFlags t e bits).bad = s.bad := by
  unfold State.orFlags
  split <;> rfl

@[simp] theorem State.closeWindow_bad (s : State) (t : Nat) : (s.closeWindow t).bad = s.bad := by
  have signals (rs : List Retained) (u : State) :
      (rs.foldl (fun s r => s.signalNow t 3 0 r.sig none) u).bad = u.bad := by
    induction rs generalizing u with
    | nil => rfl
    | cons r rs ih => rw [List.foldl_cons, ih, State.signalNow_bad]
  unfold State.closeWindow
  split
  · rfl
  · dsimp only
    rw [signals, State.orFlags_bad, State.updTile_bad]

@[simp] theorem State.enterWindow_bad (s : State) (t sig : Nat) (stay : Option (Int × Int)) :
    (s.enterWindow t sig stay).2.bad = s.bad := by
  fun_cases State.enterWindow s t sig stay <;> simp

/-- NOP of the control core. -/
theorem nop_ctl {s w : State} {t c : Nat} {h : Hdr} (g : CtlGoes s t c h w) : exec (.nop h) s =
    .next (((w.observe t c h.wait).ctlNext t c 1).signalNow t 0 c ((s.tile t).resolveSig h.sig) none) := by
  rw [exec_nop, execNop]
  simp only [g.agent]
  rw [ctlIssue_goes g _ _ rfl rfl rfl rfl, finish_eq_next (by simp [g.bad])]

/-- NOP of the engines whose words hold no pipe and no window. -/
theorem nop_ring {s w : State} {t e : Nat} {h : Hdr} (g : RingGoes s t e h w) (he : e = 1 ∨ e = 4 ∨ e = 5) :
    exec (.nop h) s = .next ((w.begin t e).signalNow t e 0 ((s.tile t).resolveSig h.sig) none) := by
  have h3 : e ≠ 3 := by omega
  have h2 : e ≠ 2 := by omega
  rw [exec_nop, execNop]
  simp only [g.agent, g.curEng, h3, h2, if_false]
  rw [engIssue_goes g _ _ (by simp [g.curEng, h2]) fun _ => rfl, finish_eq_next (by simp [g.bad])]

/-- NOP of the vector engine takes a pipe (06 R161). -/
theorem nop_vec {s w : State} {t : Nat} {h : Hdr} (g : RingGoes s t 2 h w) (free : (s.tile t).pipeBusy = false) :
    exec (.nop h) s = .next (((w.begin t 2).updTile t fun T => { T with lastPipe := some T.clk }).signalNow t 2 0
      ((s.tile t).resolveSig h.sig) none) := by
  rw [exec_nop, execNop]
  simp only [g.agent, g.curEng]
  rw [if_neg (by decide), engIssue_goes g _ _ (by simp [free]) fun _ => rfl, finish_eq_next (by simp [g.bad])]
  rfl

/-- A matrix word that nothing holds begins, enters the window or closes it, and has its effect (07 R209, R220). -/
theorem mtxIssue_goes {s w : State} {t : Nat} {h : Hdr} (g : RingGoes s t 3 h w) {busy : State → Nat → Bool}
    (stay : Option (Int × Int)) (l : Nat) {eff : Nat → Nat → Tile → State → State} (hb : busy s t = false)
    (f : Nat → State → State) (heff : ∀ win u T, eff t win T u = f win u) (hbad : ∀ win u, (f win u).bad = u.bad) :
    mtxIssue h s busy stay l eff = .next (mtxDid s w t h stay l f) := by
  rw [mtxIssue, engIssue_goes g _ _ hb fun _ => rfl, finish_eq_next]
  · simp only [heff]; rfl
  · simp only [heff]
    split <;> simp [hbad, g.bad]

/-- NOP of the matrix engine. -/
theorem nop_mtx {s w : State} {t : Nat} {h : Hdr} (g : RingGoes s t 3 h w) :
    exec (.nop h) s = .next (mtxDid s w t h (some (0, -1)) 1 fun _ u => u) := by
  rw [exec_nop, execNop]
  simp only [g.agent, g.curEng, if_true]
  exact mtxIssue_goes g _ _ rfl _ (fun _ _ _ => rfl) fun _ _ => rfl

/-- Settles O26: NOP in each engine, and its word by `decode_nopWord`. -/
theorem nopWaitsAndSignals : Obligations.NopWaitsAndSignals := by
  refine ⟨fun s w t c h => nop_ctl, fun s w t e h => nop_ring, fun s w t h => nop_vec, fun s w t h => nop_mtx, ?_⟩
  intro env wait sig opnd hwait hsig hopnd valid
  dsimp only
  rw [decode_nopWord hwait hsig hopnd]
  refine ⟨fun latched => if_pos ?_, fun imx scp pmt => ⟨fun bad => ?_, fun zero => ?_⟩⟩
  · rcases latched with h | h | h <;> simp [Option.isNone_eq_false_iff.mpr h]
  · simp [imx, scp, pmt, valid, bad]
  · simp [imx, scp, pmt, valid, zero]

end Sys2Proof.Machine
end

section
namespace Sys2Proof.Machine

/-! ### Steps (O5) -/

/-- A device without power comes up by a cold reset. -/
theorem step_off {s : State} (off : s.sys.powered = false) : step s = exec .coldReset { s with cur := .none } := by
  simp only [step, State.oneStep, off, Bool.not_false, if_true]

/-- The next entry of the agenda has its turn. -/
theorem step_turn {s : State} {us : List Turn} {u : Turn} (on : s.sys.powered = true) (quiet : s.dueInput = none)
    (next : s.turns = u :: us) : step s = State.takeTurn { s with turns := us, cur := .none } u := by
  simp only [step, State.oneStep, on, quiet, next, Bool.not_true, Bool.false_eq_true, if_false]

/-- An input that is due comes before the agenda. -/
theorem step_input {s : State} {p : Nat × Instr} (on : s.sys.powered = true) (due : s.dueInput = some p) :
    step s = if isOutside p.2 = true then exec p.2 { s with inputs := s.inputs.erase p, cur := .none }
      else .next { s with inputs := s.inputs.erase p, cur := .none } := by
  simp only [step, State.oneStep, on, due, Bool.not_true, Bool.false_eq_true, if_false]

/-- With an empty agenda, time passes. -/
theorem step_tick {s : State} (on : s.sys.powered = true) (quiet : s.dueInput = none) (done : s.turns = []) :
    step s = .next s.tick := by
  simp only [step, State.oneStep, on, quiet, done, Bool.not_true, Bool.false_eq_true, if_false]

/-- With no earlier word that may still be fetched, a context that keeps no word fetches the bytes at its pc. -/
theorem ctlFetch_bytes {s : State} {t c : Nat} (olds : ∀ o ∈ (s.tile t).cimOld, o.idx ≠ (s.cc t c).pc)
    (kept : (s.cc t c).fetched = none ∨ ∃ pc at' w, (s.cc t c).fetched = some (pc, at', w) ∧
      (pc ≠ (s.cc t c).pc ∨ at' ≠ (s.cc t c).nextAt)) :
    s.ctlFetch t c =
      (BitVec.ofNat 64 (s.nat (cimBase t + 8 * (s.cc t c).pc) 8), setHas (s.tile t).cimBad (s.cc t c).pc) := by
  have none_old : ((List.range (s.tile t).cimOld.length).zip (s.tile t).cimOld).filter
      (fun k => k.2.idx == (s.cc t c).pc) = [] :=
    List.filter_eq_nil_iff.mpr fun k hk => by simpa using olds k.2 (List.of_mem_zip hk).2
  have only : s.fetchable t c (s.cc t c).pc =
      [(BitVec.ofNat 64 (s.nat (cimBase t + 8 * (s.cc t c).pc) 8), setHas (s.tile t).cimBad (s.cc t c).pc)] := by
    simp only [State.fetchable, none_old, List.filter_nil, List.map_nil, State.cimWord]
  unfold State.ctlFetch
  rcases kept with none | ⟨pc, at', w, some, other⟩
  · simp only [none, only]
  · have : ¬ (pc = (s.cc t c).pc ∧ at' = (s.cc t c).nextAt) := by tauto
    simp only [some, only, this, if_false]

/-- A context keeps the word that it has fetched and not issued. -/
theorem ctlFetch_kept {s : State} {t c : Nat} {w : Word}
    (kept : (s.cc t c).fetched = some ((s.cc t c).pc, (s.cc t c).nextAt, w)) :
    s.ctlFetch t c = (w, false) := by
  simp only [State.ctlFetch, kept, and_self, if_true]

section
variable {t c e : Nat}

/-! A control-core context's chance, by what it fetches and how that decodes (02 R29, 04 R93). -/

theorem ctlTurn_notReady {v : State} (h : v.ctlReady t c = false) : v.ctlTurn t c = .next v := by
  simp [State.ctlTurn, h]

theorem ctlTurn_beyond {v : State} (h : v.ctlReady t c = true) (beyond : (v.tile t).cimLen ≤ (v.cc t c).pc) :
    v.ctlTurn t c = exec (.fetchBeyondCimImage t c) { v with cur := .ctl t c } := by
  simp only [State.ctlTurn, h, Bool.not_true, Bool.false_eq_true, if_false, State.ctlRun, if_pos beyond]

theorem ctlTurn_bad {v : State} (h : v.ctlReady t c = true) (inside : ¬ (v.tile t).cimLen ≤ (v.cc t c).pc)
    (bad : (v.ctlFetch t c).2 = true) : v.ctlTurn t c = exec (.cimUncorrectableFetch t c) { v with cur := .ctl t c } := by
  simp only [State.ctlTurn, h, Bool.not_true, Bool.false_eq_true, if_false, State.ctlRun, if_neg inside, if_pos bad]

theorem ctlTurn_word {v : State} (h : v.ctlReady t c = true) (inside : ¬ (v.tile t).cimLen ≤ (v.cc t c).pc)
    (good : ¬ (v.ctlFetch t c).2 = true) : v.ctlTurn t c =
      State.runDecoded { v.keepWord t c with cur := .ctl t c } (decode (v.ctlEnv t c) (v.ctlWord t c).toNat) := by
  simp only [State.ctlTurn, h, Bool.not_true, Bool.false_eq_true, if_false, State.ctlRun, if_neg inside, if_neg good]

theorem ctlTurn_ok {v : State} {i : Instr} (h : v.ctlReady t c = true) (inside : ¬ (v.tile t).cimLen ≤ (v.cc t c).pc)
    (good : ¬ (v.ctlFetch t c).2 = true) (dec : decode (v.ctlEnv t c) (v.ctlWord t c).toNat = .ok i) :
    v.ctlTurn t c = exec i { v.keepWord t c with cur := .ctl t c } := by
  rw [ctlTurn_word h inside good, dec]; rfl

theorem ctlTurn_error {v : State} {k : Nat} (h : v.ctlReady t c = true) (inside : ¬ (v.tile t).cimLen ≤ (v.cc t c).pc)
    (good : ¬ (v.ctlFetch t c).2 = true) (dec : decode (v.ctlEnv t c) (v.ctlWord t c).toNat = .error k) :
    v.ctlTurn t c = finish (State.decodeCause { v.keepWord t c with cur := .ctl t c } k) := by
  rw [ctlTurn_word h inside good, dec]; rfl

@[simp] theorem CtlCtx.moved_self (x : CtlCtx) : x.moved x = false := by simp [CtlCtx.moved]

/-- What follows the word of context 0 where an engine fault is there to deliver (16 R424). -/
theorem faultTurn_next {v z : State} {held : Bool} {p : Prop} [Decidable p] (h : v.ctlTurn t 0 = .next z)
    (hp : (z.cc t 0).tlvl = 0 ∧ (z.tile t).bound = true ∧ (held = true ∨ (v.cc t 0).moved (z.cc t 0) = true) ↔ p) :
    v.faultTurn t held = if p then exec (.engineFaultDelivery t) v else .next z := by
  unfold State.faultTurn
  simp only [h]
  rw [← ite_not]
  exact if_congr (by rw [← hp]; cases held <;> simp) rfl rfl

theorem faultTurn_notReady {v : State} {held : Bool} {p : Prop} [Decidable p] (h : v.ctlReady t 0 = false)
    (hp : held = true ∧ (v.cc t 0).tlvl = 0 ∧ (v.tile t).bound = true ↔ p) :
    v.faultTurn t held = if p then exec (.engineFaultDelivery t) v else .next v :=
  faultTurn_next (ctlTurn_notReady h) (by rw [← hp, CtlCtx.moved_self]; tauto)

/-- What follows the word of a handler context at port B (04 R94). -/
theorem portBTurn_next {v z : State} (free : ¬ (v.tile t).rr / 4 = (v.tile t).clk + 1) (h : v.ctlTurn t c = .next z) :
    v.portBTurn t c = if (v.cc t c).moved (z.cc t c) = true ∧ (z.tile t).bound = true then
      .next (z.updTile t fun U => { U with rr := 4 * ((v.tile t).clk + 1) + c }) else .next z := by
  simp only [State.portBTurn, if_neg free, h, Bool.and_eq_true]

theorem portBTurn_stops {v : State} {o : Out} (free : ¬ (v.tile t).rr / 4 = (v.tile t).clk + 1) (h : v.ctlTurn t c = o)
    (stops : ∀ z, o ≠ .next z) : v.portBTurn t c = o := by
  simp only [State.portBTurn, if_neg free, h]

theorem portBTurn_passed {v : State} (passed : (v.tile t).rr / 4 = (v.tile t).clk + 1) : v.portBTurn t c = .next v :=
  if_pos passed

theorem portBTurn_notReady {v : State} (h : v.ctlReady t c = false) : v.portBTurn t c = .next v := by
  by_cases passed : (v.tile t).rr / 4 = (v.tile t).clk + 1
  · exact portBTurn_passed passed
  · rw [portBTurn_next passed (ctlTurn_notReady h), CtlCtx.moved_self, if_neg (by simp)]

/-- The chance of a ring-fed engine that holds no word. -/
theorem engineTurn_idle {v : State} (ready : v.ringReady t e = true) (idle : ((v.tile t).engine e).hold = .none) :
    v.engineTurn t e = v.ringWordTurn t e := by
  simp only [State.engineTurn, ready, Bool.not_true, Bool.false_eq_true, if_false, idle]

theorem ringWordTurn_empty {v : State} (h : (v.reachFork t e).peek t e = none) :
    v.ringWordTurn t e = .next (v.reachFork t e) := by
  simp only [State.ringWordTurn, h]

theorem ringWordTurn_word {v z : State} {w : RWord} (hz : v.reachFork t e = z) (h : z.peek t e = some w)
    (here : (z.tile t).awaits (spBase t + ((z.tile t).ring e).base + 8 * w.off) = false) : v.ringWordTurn t e =
      State.runDecoded { z with cur := .ring t e } (decode (z.ringEnv t e) w.w.toNat) := by
  simp only [State.ringWordTurn, hz, h, here, Bool.false_eq_true, if_false]

/-- The chance of a ring-fed engine whose word has issued and is held. -/
theorem engineTurn_issued {v : State} {sig : Nat} {l : Latch} {w : RWord} (ready : v.ringReady t e = true)
    (held : ((v.tile t).engine e).hold = .issued sig l) (last : ((v.tile t).engine e).group.getLast? = some w) :
    v.engineTurn t e = State.runDecoded { v with cur := .ring t e }
      (decode ⟨engineOf e, (v.tile t).sup, false, l.imx, l.scp, l.pmt⟩ w.w.toNat) := by
  simp only [State.engineTurn, ready, Bool.not_true, Bool.false_eq_true, if_false, held, State.issuedTurn, last]

theorem nmuTurn_word {v : State} {ch : Nat} {r : NmuRun} {i : Instr} (run : (v.nmu ch).run = some r) (on : r.ended = false)
    (dec : decodeNmu (r.prog.getD r.pc 0) = .ok i) : v.nmuTurn ch = exec i { v with cur := .nmu ch } := by
  simp only [State.nmuTurn, run, on, Bool.false_eq_true, if_false, dec]

theorem runDecoded_ok {v : State} {d : Except Nat Instr} {i : Instr} (h : d = .ok i) : v.runDecoded d = exec i v := by
  rw [h]; rfl

theorem runDecoded_error {v : State} {d : Except Nat Instr} {k : Nat} (h : d = .error k) :
    v.runDecoded d = finish (v.decodeCause k) := by
  rw [h]; rfl

end

/-- Settles O5: the next entry of the agenda has its turn (`step_turn`), by the cases of that turn. What a turn finds in
the state without its entry is what the state itself holds, so the obligation's hypotheses serve there as they stand. -/
theorem stepRunsDecodedWord : Obligations.StepRunsDecodedWord := by
  refine ⟨fun s off => step_off off, fun s p on due => step_input on due,
    fun s on quiet done => step_tick on quiet done,
    fun s t c => ⟨fun kept olds => ctlFetch_bytes olds kept, fun w kept => ctlFetch_kept kept⟩, ?_⟩
  intro s us u on quiet next v word at' beyond bad
  have turn : step s = v.takeTurn u := step_turn on quiet next
  refine ⟨?_, ?_, ?_, ?_, ?_, ?_, ?_⟩
  · rintro t rfl calm
    have portA : step s = v.ctlTurn t 0 := by
      refine turn.trans (if_neg ?_)
      rcases calm with h | h
      · have : (v.tile t).pendingFault = none := h
        simp [this]
      · have : v.takesFaults t = false := h
        simp [this]
    refine ⟨fun hr => ?_, fun hr => ⟨fun hb => ?_, fun hb hx => ?_, fun hb hx => ⟨fun i hi => ?_, fun k hk => ?_⟩⟩⟩
    · exact portA.trans (ctlTurn_notReady (v := v) hr)
    · exact portA.trans (ctlTurn_beyond (v := v) hr hb)
    · exact portA.trans (ctlTurn_bad (v := v) hr hb hx)
    · exact portA.trans (ctlTurn_ok (v := v) hr hb hx hi)
    · exact portA.trans (ctlTurn_error (v := v) hr hb hx hk)
  · intro t hu pend takes
    obtain ⟨held, hheld, fault⟩ : ∃ held : Bool, (held = true ↔ u = .faultA t) ∧
        step s = v.faultTurn t held := by
      have due : ((s.tile t).pendingFault.isSome && s.takesFaults t) = true := by
        rw [takes, Bool.and_true]
        exact Option.isSome_iff_ne_none.mpr pend
      rcases hu with rfl | rfl
      · exact ⟨false, by simp, turn.trans (if_pos due)⟩
      · exact ⟨true, by simp, turn.trans (if_pos due)⟩
    refine ⟨fun hr => ?_, fun hr hb hx i z hi hz => ?_⟩
    · exact fault.trans (faultTurn_notReady (v := v) hr (and_congr_left fun _ => hheld))
    · have run := (ctlTurn_ok (v := v) hr hb hx hi).trans hz
      exact fault.trans (faultTurn_next (v := v) run
        (and_congr_right fun _ => and_congr_right fun _ => or_congr hheld Iff.rfl))
  · rintro t c rfl
    refine ⟨fun h => ?_, fun hr free hb hx i hi => ?_⟩
    · rcases h with notReady | passed
      · exact turn.trans (portBTurn_notReady (v := v) notReady)
      · exact turn.trans (portBTurn_passed (v := v) passed)
    · have run := ctlTurn_ok (v := v) hr hb hx hi
      refine turn.trans ?_
      cases hx : exec i { s.keepWord t c with turns := us, cur := .ctl t c } with
      | next z => exact portBTurn_next (v := v) free (run.trans hx)
      | fault r => exact portBTurn_stops (v := v) free (run.trans hx) nofun
      | refused r => exact portBTurn_stops (v := v) free (run.trans hx) nofun
  · rintro t e rfl
    refine ⟨fun hr => turn.trans (if_pos ?_), fun hr idle => ?_, fun hr sig l w i held last dec => ?_⟩
    · simp only [Bool.not_eq_true']
      exact hr
    · have word := turn.trans (engineTurn_idle (v := v) hr idle)
      exact ⟨fun none => word.trans (ringWordTurn_empty none), fun w hw here =>
        ⟨fun i hi => word.trans ((ringWordTurn_word rfl hw here).trans (runDecoded_ok hi)),
          fun k hk => word.trans ((ringWordTurn_word rfl hw here).trans (runDecoded_error hk))⟩⟩
    · exact turn.trans ((engineTurn_issued (v := v) hr held last).trans (runDecoded_ok dec))
  · rintro ch r i rfl run on' dec
    exact turn.trans (nmuTurn_word (v := v) run on' dec)
  · rintro i rfl
    exact turn
  · rintro id f rfl hf
    have found : v.flight? id = some f := hf
    exact turn.trans (by simp only [State.takeTurn, State.landTurn, found])

end Sys2Proof.Machine
end

section
namespace Sys2Proof.Machine

/-! ### Values of the control core's words (04 R104 to R108) -/

/-- A control-core word of two registers writes its value of them, poisoned when one is (04 R97, R99). -/
theorem ctlRRR_goes {s w : State} {t c : Nat} {h : Hdr} (g : CtlGoes s t c h w) (d a b l : Nat) (f : Word → Word → Word) :
    ctlRRR h s d a b l f = .next (ctlWrote s w t c h d l
      ⟨f (s.sreg t c a).v (s.sreg t c b).v, (s.sreg t c a).p || (s.sreg t c b).p⟩ 0) :=
  ctlWrite_goes g d l _

/-- A control-core word of one register writes its value of it, poisoned when it is. -/
theorem ctlRR_goes {s w : State} {t c : Nat} {h : Hdr} (g : CtlGoes s t c h w) (d a l : Nat) (f : Word → Word) :
    ctlRR h s d a l f = .next (ctlWrote s w t c h d l ⟨f (s.sreg t c a).v, (s.sreg t c a).p⟩ 0) :=
  ctlWrite_goes g d l _

theorem mulHigh_natCast (x y : Nat) : mulHigh x y = BitVec.ofNat 64 (x * y / 2 ^ 64) := by
  rw [← BitVec.ofInt_natCast]
  rfl

theorem shl64_eq (x y : Word) : shl64 x y = x <<< y.toNat := by
  unfold shl64
  split
  · rfl
  · next h => exact (BitVec.shiftLeft_eq_zero (Nat.not_lt.mp h)).symm

theorem shr64_eq (x y : Word) : shr64 x y = x >>> y.toNat := by
  unfold shr64
  split
  · rfl
  · next h => exact (BitVec.ushiftRight_eq_zero (Nat.not_lt.mp h)).symm

/-- A shift by more than the width brings in nothing but the sign, as one by the width does. -/
theorem sar64_eq (x y : Word) : sar64 x y = x.sshiftRight y.toNat := by
  have saturates (n : Nat) : x.sshiftRight n = x.sshiftRight (min n 64) := by
    rcases le_total n 64 with small | large
    · rw [min_eq_left small]
    · ext i hi
      have out : ¬ n + i < 64 := by omega
      simp [BitVec.getElem_sshiftRight, min_eq_right large, out]
  rw [saturates, BitVec.sshiftRight, Int.shiftRight_eq_div_pow, sar64]
  norm_cast

theorem rotr_eq (x : Word) (n : Nat) : rotr x n = x.rotateRight n := by
  apply BitVec.eq_of_toNat_eq
  rw [BitVec.toNat_rotateRight, Nat.shiftRight_eq_div_pow, Nat.shiftLeft_eq, rotr, rotr64, BitVec.toNat_ofNat,
    Nat.or_mod_two_pow, Nat.mod_mod, Nat.mod_eq_of_lt ((Nat.div_le_self _ _).trans_lt x.isLt)]

/-- Of equal operands, either is the least and the greatest. -/
theorem minS_eq (x y : Word) : minS x y = if x.slt y then x else y := by
  have same : x.toInt = y.toInt → x = y := BitVec.eq_of_toInt_eq
  rw [minS, BitVec.slt_eq_decide]
  grind

theorem maxS_eq (x y : Word) : maxS x y = if x.slt y then y else x := by
  have same : x.toInt = y.toInt → x = y := BitVec.eq_of_toInt_eq
  rw [maxS, BitVec.slt_eq_decide]
  grind

theorem minU_eq (x y : Word) : minU x y = if x.ult y then x else y := by
  have same : x.toNat = y.toNat → x = y := BitVec.eq_of_toNat_eq
  rw [minU, BitVec.ult_eq_decide]
  grind

theorem maxU_eq (x y : Word) : maxU x y = if x.ult y then y else x := by
  have same : x.toNat = y.toNat → x = y := BitVec.eq_of_toNat_eq
  rw [maxU, BitVec.ult_eq_decide]
  grind

/-- The count of leading zeros of an `n`-bit value: what is left of its width holds the value, and one bit less does not. -/
theorem clzN_spec {n v : Nat} (hv : v < 2 ^ n) :
    clzN n v ≤ n ∧ v < 2 ^ (n - clzN n v) ∧ (clzN n v < n → 2 ^ (n - 1 - clzN n v) ≤ v) := by
  unfold clzN
  split
  · next h => simp [h]
  · next h =>
    have top : Nat.log2 v < n := (Nat.log2_lt h).mpr hv
    have width : n - (n - (Nat.log2 v + 1)) = Nat.log2 v + 1 := by omega
    have high : n - 1 - (n - (Nat.log2 v + 1)) = Nat.log2 v := by omega
    rw [width, high]
    exact ⟨Nat.sub_le .., Nat.lt_log2_self, fun _ => Nat.log2_self_le h⟩

/-- The count of trailing zeros among `n` bits: so many bits are zero, and the next is not. -/
theorem ctzN_spec (n v : Nat) : ctzN n v ≤ n ∧ 2 ^ ctzN n v ∣ v ∧ (ctzN n v < n → v.testBit (ctzN n v) = true) := by
  induction n generalizing v with
  | zero => simp [ctzN]
  | succ n ih =>
    obtain ⟨le, dvd, bit⟩ := ih (v / 2)
    unfold ctzN
    split
    · next odd => simp [odd]
    · next even =>
      have twice : v = 2 * (v / 2) := by omega
      refine ⟨by omega, ?_, fun h => ?_⟩
      · rw [Nat.pow_add, pow_one]
        exact (Nat.mul_dvd_mul_left 2 dvd).trans (dvd_of_eq twice.symm)
      · rw [Nat.add_comm, Nat.testBit_succ]
        exact bit (by omega)

theorem popN_eq (n v : Nat) : popN n v = ((List.range n).filter v.testBit).length := by
  induction n generalizing v with
  | zero => rfl
  | succ n ih =>
    have shifted : v.testBit ∘ Nat.succ = (v / 2).testBit := funext fun i => Nat.testBit_succ v i
    rw [popN, ih, List.range_succ_eq_map, List.filter_cons, List.filter_map, shifted]
    rcases Nat.mod_two_eq_zero_or_one v with h | h <;> simp [h]; omega

/-- Settles O17: each word writes its function of the operands (`ctlRRR_goes`, `ctlRR_goes`), which is the rule's value. -/
theorem controlArithmeticWords : Obligations.ControlArithmeticWords := by
  intro s w t c h d a b g x y out one
  have rrr (l : Nat) (f : Word → Word → Word) {v : Word} (hv : f x.v y.v = v) : ctlRRR h s d a b l f = out l v :=
    hv ▸ ctlRRR_goes g d a b l f
  have rr (f : Word → Word) {n : Nat} (hn : f x.v = BitVec.ofNat 64 n) : ctlRR h s d a 1 f = one n := by
    rw [ctlRR_goes g, hn]
  simp only [exec_add, exec_sub, exec_mul, exec_mulh, exec_and, exec_or, exec_xor, exec_andn, exec_shl, exec_shr, exec_rot,
    exec_min, exec_max, exec_clz, exec_ctz, exec_popc]
  refine ⟨rrr 1 _ rfl, rrr 1 _ rfl, rrr 3 _ rfl, rrr 3 _ rfl, rrr 3 _ (mulHigh_natCast ..), rrr 3 _ rfl, rrr 1 _ rfl,
    rrr 1 _ rfl, rrr 1 _ rfl, rrr 1 _ rfl, rrr 1 _ (shl64_eq ..), rrr 1 _ (shr64_eq ..), rrr 1 _ (sar64_eq ..),
    rrr 1 _ (rotr_eq ..), rrr 1 _ (minS_eq ..), rrr 1 _ (minU_eq ..), rrr 1 _ (maxS_eq ..), rrr 1 _ (maxU_eq ..),
    ⟨_, rr _ rfl, ?_⟩, ⟨_, rr _ rfl, ctzN_spec 64 x.v.toNat⟩, rr _ (congrArg (BitVec.ofNat 64) (popN_eq 64 x.v.toNat))⟩
  exact clzN_spec x.v.isLt

/-- Settles O18: each word writes its function of s[a] and the immediate; the shifts are those of `shl64_eq`, `shr64_eq`
and `sar64_eq` by a count below 64. -/
theorem controlImmediateWords : Obligations.ControlImmediateWords := by
  intro s w t c h d a i n g x y out
  have rr (l : Nat) (f : Word → Word) {v : Word} (hv : f x.v = v) : ctlRR h s d a l f = out l v :=
    hv ▸ ctlRR_goes g d a l f
  simp only [exec_addi, exec_muli, exec_andi, exec_ori, exec_xori, exec_shli, exec_shri, exec_li]
  refine ⟨rr 1 _ rfl, rr 3 _ rfl, rr 1 _ rfl, rr 1 _ rfl, rr 1 _ rfl, fun hn => ?_, ctlWrite_goes g d 1 _⟩
  have count : (w64 n).toNat = n := Nat.mod_eq_of_lt (by omega)
  exact ⟨rr 1 _ (by rw [shl64_eq, count]), rr 1 _ (by rw [if_pos rfl, shr64_eq, count]),
    rr 1 _ (by rw [if_neg (by decide), sar64_eq, count])⟩

/-! ### Division (04 R98, R106; 03 R70) -/

theorem divide_quotient {x y : Word} (hy : y ≠ 0) :
    divide false false x y = x.sdiv y ∧ divide true false x y = x / y := by
  simp only [divide, if_neg hy]
  refine ⟨BitVec.eq_of_toInt_eq ?_, BitVec.eq_of_toNat_eq ?_⟩
  · simp [BitVec.toInt_sdiv]
  · simpa [w64] using Nat.mod_eq_of_lt ((Nat.div_le_self _ _).trans_lt x.isLt)

theorem divide_remainder {x y : Word} (hy : y ≠ 0) :
    divide false true x y = x.srem y ∧ divide true true x y = x % y := by
  simp only [divide, if_neg hy]
  refine ⟨BitVec.eq_of_toInt_eq ?_, BitVec.eq_of_toNat_eq ?_⟩
  · simp [← BitVec.toInt_srem]
  · simpa [w64] using Nat.mod_eq_of_lt ((Nat.mod_le _ _).trans_lt x.isLt)

/-- DIV and REM with the divider free and no trap. -/
theorem ctlDivide_goes {s w : State} {t c : Nat} {h : Hdr} (g : CtlGoes s t c h w) (rem : Bool) (d a b k : Nat)
    (free : (s.tile t).divFree c ≤ (s.tile t).clk) (passes : (s.sreg t c b).v ≠ 0 ∨ s.dz t c = false) :
    ctlDivide rem h d a b k s = .next (ctlDid s w t c h 20 fun u =>
      (u.putS t c d ⟨divide (k == 1) rem (s.sreg t c a).v (s.sreg t c b).v, (s.sreg t c a).p || (s.sreg t c b).p⟩ 20
        (if (s.sreg t c b).v = 0 then 2 else 0)).useDivider t c) := by
  rw [ctlDivide, ctlIssue_goes g _ _ rfl (by simpa using free) rfl, finish_eq_next (by simp [g.bad])]
  · rfl
  · rcases passes with nonzero | quiet
    · exact if_neg fun both => nonzero both.1
    · exact if_neg (by simp [quiet])

/-- DIV and REM by zero where TSTATE.dz asks for the trap. -/
theorem ctlDivide_traps {s w : State} {t c : Nat} {h : Hdr} (g : CtlGoes s t c h w) (rem : Bool) (d a b k : Nat)
    (free : (s.tile t).divFree c ≤ (s.tile t).clk) (zero : (s.sreg t c b).v = 0) (dz : s.dz t c = true)
    (level : (s.cc t c).tlvl < 2) :
    ctlDivide rem h d a b k s = .next ((s.wordTrap t c 0x10 (s.sreg t c a).v).useDivider t c) := by
  rw [ctlDivide, ctlIssue_traps g _ _ rfl (by simpa using free) rfl (by simp only [zero, dz, and_self, if_true]; rfl),
    finish_eq_next]
  simpa using wordTrap_bad g.sound level

/-- DIV and REM while the divider is busy. -/
theorem ctlDivide_held {s w : State} {t c : Nat} {h : Hdr} (g : CtlGoes s t c h w) (rem : Bool) (d a b k : Nat)
    (busy : (s.tile t).clk < (s.tile t).divFree c) : ctlDivide rem h d a b k s = .next s :=
  ctlIssue_busy g _ _ rfl (by simpa using busy)

/-- Settles O19: the three cases of `ctlDivide`, with the values of `divide_quotient` and `divide_remainder`. -/
theorem controlDivisionWords : Obligations.ControlDivisionWords := by
  intro s w t c h d a b g x y out
  simp only [exec_div, exec_rem]
  refine ⟨fun free => ⟨fun nonzero => ?_, fun zero quiet k => ?_, fun zero dz level k =>
    ⟨ctlDivide_traps g _ d a b k free zero dz level, ctlDivide_traps g _ d a b k free zero dz level⟩⟩,
    fun busy k => ⟨ctlDivide_held g _ d a b k busy, ctlDivide_held g _ d a b k busy⟩⟩
  · have goes (rem : Bool) (k : Nat) {v : Word} (hv : divide (k == 1) rem x.v y.v = v) : ctlDivide rem h d a b k s = out v :=
      hv ▸ ctlDivide_goes g rem d a b k free (.inl nonzero)
    obtain ⟨signed_q, unsigned_q⟩ := divide_quotient (x := x.v) nonzero
    obtain ⟨signed_r, unsigned_r⟩ := divide_remainder (x := x.v) nonzero
    exact ⟨goes false 0 signed_q, goes false 1 unsigned_q, goes true 0 signed_r, goes true 1 unsigned_r⟩
  · have goes (rem : Bool) {v : Word} (hv : divide (k == 1) rem x.v y.v = v) : ctlDivide rem h d a b k s = out v :=
      hv ▸ ctlDivide_goes g rem d a b k free (.inr quiet)
    exact ⟨goes false (by simp [divide, zero]), goes true (by simp [divide, zero])⟩

/-! ### Bit fields and comparisons (04 R107, R108) -/

theorem testBit_field (x : Word) (pos width i : Nat) :
    (field x pos width).testBit i = (decide (i < width) && x.getLsbD (pos + i)) := by
  rw [field, Nat.testBit_mod_two_pow, Nat.testBit_div_two_pow, BitVec.getLsbD, Nat.add_comm]

theorem field_lt (x : Word) (pos width : Nat) : field x pos width < 2 ^ width := Nat.mod_lt _ (Nat.two_pow_pos _)

theorem getLsbD_w64 (n : Nat) {i : Nat} (hi : i < 64) : (w64 n).getLsbD i = n.testBit i := by
  rw [w64, BitVec.getLsbD_ofNat, decide_eq_true hi, Bool.true_and]

/-- A value of `n` bits read as signed is the value of its sign extension. -/
theorem ofInt_signed {n v : Nat} (hn : 1 ≤ n) (hv : v < 2 ^ n) :
    BitVec.ofInt 64 (signed n v) = (BitVec.ofNat n v).signExtend 64 := by
  obtain ⟨m, rfl⟩ := Nat.exists_eq_add_of_le' hn
  rw [BitVec.signExtend, BitVec.toInt_eq_toNat_cond, BitVec.toNat_ofNat, Nat.mod_eq_of_lt hv, signed,
    Nat.add_sub_cancel, Nat.pow_succ]
  congr 1
  have : v < 2 ^ m ↔ 2 * v < 2 ^ m * 2 := by omega
  simp only [this]
  norm_cast

/-- Bit `i` of a sign-extended field of `n` bits: the field's own bits, then its highest. -/
theorem getLsbD_signed {n v i : Nat} (hn : 1 ≤ n) (hv : v < 2 ^ n) (hi : i < 64) :
    (BitVec.ofInt 64 (signed n v)).getLsbD i = v.testBit (min i (n - 1)) := by
  rw [ofInt_signed hn hv, BitVec.getLsbD_signExtend, decide_eq_true hi, Bool.true_and]
  split
  · next low => rw [BitVec.getLsbD_ofNat, decide_eq_true low, Bool.true_and, min_eq_left (by omega)]
  · next high =>
    rw [BitVec.msb_eq_getLsbD_last, BitVec.getLsbD_ofNat, decide_eq_true (by omega), Bool.true_and, min_eq_right (by omega)]

/-- A number with `width` of its bits from `pos` on replaced. -/
theorem testBit_replace {x y pos width i : Nat} (hy : y < 2 ^ width) :
    (x - x / 2 ^ pos % 2 ^ width * 2 ^ pos + y * 2 ^ pos).testBit i =
      if pos ≤ i ∧ i < pos + width then y.testBit (i - pos) else x.testBit i := by
  have hlow : x % 2 ^ pos < 2 ^ pos := Nat.mod_lt _ (Nat.two_pow_pos _)
  have split : x = 2 ^ pos * (2 ^ width * (x / 2 ^ pos / 2 ^ width) + x / 2 ^ pos % 2 ^ width) + x % 2 ^ pos := by
    rw [Nat.div_add_mod, Nat.div_add_mod]
  have value : x - x / 2 ^ pos % 2 ^ width * 2 ^ pos + y * 2 ^ pos =
      2 ^ pos * (2 ^ width * (x / 2 ^ pos / 2 ^ width) + y) + x % 2 ^ pos := by
    generalize x / 2 ^ pos / 2 ^ width = high at *
    generalize x / 2 ^ pos % 2 ^ width = mid at *
    generalize x % 2 ^ pos = l at *
    subst split
    rw [Nat.mul_add, Nat.mul_add, Nat.mul_comm mid, Nat.mul_comm y]
    omega
  rw [value, Nat.testBit_two_pow_mul_add _ hlow, Nat.testBit_two_pow_mul_add _ hy]
  split
  · next below => rw [if_neg (by omega), Nat.testBit_mod_two_pow, decide_eq_true below, Bool.true_and]
  · next above =>
    split
    · next inside => rw [if_pos (by omega)]
    · next beyond =>
      rw [if_neg (by omega), Nat.testBit_div_two_pow, Nat.testBit_div_two_pow]
      congr 1
      omega

/-- The low half of a pair of words, shifted down by less than a word. -/
theorem funnel_eq (x y : Word) {n : Nat} (hn : n < 64) :
    w64 ((x.toNat * 2 ^ 64 + y.toNat) / 2 ^ n) = (x <<< (64 - n)) ||| (y >>> n) := by
  apply BitVec.eq_of_getLsbD_eq
  intro i hi
  rw [getLsbD_w64 _ hi, Nat.testBit_div_two_pow, Nat.mul_comm, Nat.testBit_two_pow_mul_add _ y.isLt, BitVec.getLsbD_or,
    BitVec.getLsbD_shiftLeft, BitVec.getLsbD_ushiftRight]
  split
  · next low =>
    simp only [BitVec.getLsbD, Nat.add_comm i n] 
    have : decide (i < 64 - n) = true := by simp; omega
    simp [this]
  · next high =>
    have out : y.toNat.testBit (n + i) = false := BitVec.getLsbD_of_ge y _ (by omega)
    have : decide (i < 64 - n) = false := by simp; omega
    have idx : i + n - 64 = i - (64 - n) := by omega
    simp [out, this, hi, BitVec.getLsbD, idx]

/-- The conditions of CMP on signed and unsigned readings. -/
theorem cmpHolds_eq (x y : Word) : cmpHolds 0 x y = (x == y) ∧ cmpHolds 1 x y = (x != y) ∧ cmpHolds 2 x y = x.slt y ∧
    cmpHolds 3 x y = !x.slt y ∧ cmpHolds 4 x y = x.ult y ∧ cmpHolds 5 x y = !x.ult y := by
  simp [cmpHolds, BitVec.slt_eq_decide, BitVec.ult_eq_decide, ← decide_not]

end Sys2Proof.Machine
end
section
namespace Sys2Proof

/-! ### Words of the control core with three registers and a modifier (02 R36; 04 R108, R112) -/

/-- A row with three s-register operands and the modifier fields `mods`. -/
def rrrRow (op : Nat) (mods : List Fld) (build : Hdr → List Nat → Instr) : Row :=
  ⟨op, .rrr, [], ⟨[], [], false⟩, [⟨29, 11, 0, 0, false, .regS⟩, ⟨18, 11, 0, 0, false, .regS⟩, ⟨7, 11, 0, 0, false, .regS⟩] ++ mods,
    fun _ => true, fun _ => true, build⟩

theorem find_cmp : (rowsOf .ctl).find? (fun a => a.op == 0x20) = some (rrrRow 0x20 [⟨0, 7, 0, 0, false, .mods [0, 1, 2, 3, 4, 5]⟩]
    fun h v => .cmp h (v.getD 0 0) (v.getD 1 0) (v.getD 2 0) (v.getD 3 0)) := rfl

theorem find_sel : (rowsOf .ctl).find? (fun a => a.op == 0x24) = some (rrrRow 0x24 [⟨0, 5, 0, 0, false, .any⟩]
    fun h v => .sel h (v.getD 0 0) (v.getD 1 0) (v.getD 2 0) (v.getD 3 0)) := rfl

theorem find_crng : (rowsOf .ctl).find? (fun a => a.op == 0x2B) = some (rrrRow 0x2B []
    fun h v => .crng h (v.getD 0 0) (v.getD 1 0) (v.getD 2 0)) := rfl

/-- Of the elements that pass a test, the first is the first that passes a further one too, if it does. -/
theorem find?_filter_of_find? {α : Type} {l : List α} {p q : α → Bool} {a : α} (h : l.find? p = some a) (hq : q a = true) :
    (l.filter p).find? q = some a := by
  rw [← List.head?_filter] at h
  obtain ⟨rest, hrest⟩ := List.head?_eq_some_iff.mp h
  rw [hrest, List.find?_cons_of_pos hq]

/-- A plain word of the control core with the opcode of such a row. -/
theorem decode_rrrRow {op opnd : Nat} {mods : List Fld} {build : Hdr → List Nat → Instr}
    (row : (rowsOf .ctl).find? (fun a => a.op == op) = some (rrrRow op mods build))
    (hop : op ≠ 0 ∧ op < 0xFC ∧ op ≠ 0x37) (hopnd : opnd < 2 ^ 40) :
    decode (.plain .ctl) (wordOf .plain op opnd) = if reservedZero (rrrRow op mods build) opnd none = true then
      (operandChecks (rrrRow op mods build) ((rrrRow op mods build).flds.map fun f => f.value opnd none)).map fun _ =>
        build .plain ((rrrRow op mods build).flds.map fun f => f.value opnd none)
      else .error 0x03 := by
  obtain ⟨nonzero, low, noHend⟩ := hop
  obtain ⟨-, bop, bsig, bwait, bopnd, hne⟩ := wordOf_plain_bits (by omega : op < 256) hopnd
  generalize wordOf .plain op opnd = w at *
  have privilege : privilegeOk (.plain .ctl) (bitsAt w 40 8) false = true :=
    (privilegeOk_iff ..).mpr ⟨nofun, nofun, fun _ _ => by rwa [bop]⟩
  have latches : latchesOk (.plain .ctl) (rrrRow op mods build) = true := rfl
  have sync : syncOk (.plain .ctl) (bitsAt w 40 8) (bitsAt w 56 8) (bitsAt w 48 8) = true :=
    (syncOk_iff ..).mpr ⟨by rw [bwait]; decide, by rw [bsig]; decide, fun _ _ => bwait, fun _ _ => bsig⟩
  have cand : ((rowsOf .ctl).filter fun a => a.op == bitsAt w 40 8).find? (fun a => subMatches a.sub (bitsAt w 0 40)) =
      some (rrrRow op mods build) := find?_filter_of_find? (by rw [bop]; exact row) rfl
  rw [decode_rows (env := .plain .ctl) (hne nonzero) (by rw [bop]; exact low) (by rw [bop]; exact row), ← bopnd]
  by_cases zero : reservedZero (rrrRow op mods build) (bitsAt w 0 40) none = true
  · rw [if_pos zero]
    cases checks : operandChecks (rrrRow op mods build)
        ((rrrRow op mods build).flds.map fun f => f.value (bitsAt w 0 40) none) with
    | error c => exact decodeRows_operands privilege latches sync cand zero checks
    | ok _ =>
      refine (decodeRows_ok privilege latches sync cand zero checks).trans ?_
      rw [bwait, bsig]
      rfl
  · rw [if_neg zero]
    exact decodeRows_reserved privilege latches sync cand (Bool.eq_false_of_not_eq_true zero)

/-- The checks of such a word with one modifier: its value must be defined, and the registers must exist. -/
theorem operandChecks_rrrRow {m : Fld} (reg : ∀ v, m.chk.okReg v = true) (rng : ∀ v, m.chk.okRng v = true)
    (op d a b y : Nat) (build : Hdr → List Nat → Instr) : operandChecks (rrrRow op [m] build) [d, a, b, y] =
      if m.chk.okMod y = true then if d < 32 ∧ a < 32 ∧ b < 32 then .ok () else .error 0x04 else .error 0x03 := by
  have all_mod : ((rrrRow op [m] build).flds.zip [d, a, b, y]).all (fun p => p.1.chk.okMod p.2) = m.chk.okMod y :=
    Bool.and_true _
  have all_reg : ((rrrRow op [m] build).flds.zip [d, a, b, y]).all (fun p => p.1.chk.okReg p.2) =
      decide (d < 32 ∧ a < 32 ∧ b < 32) := by
    change (decide (d < 32) && (decide (a < 32) && (decide (b < 32) && (m.chk.okReg y && true)))) = _
    simp only [reg, Bool.and_true, Bool.decide_and]
  have all_rng : ((rrrRow op [m] build).flds.zip [d, a, b, y]).all (fun p => p.1.chk.okRng p.2) = m.chk.okRng y :=
    Bool.and_true _
  have x6 : (rrrRow op [m] build).x6 [d, a, b, y] = true := rfl
  have x8 : (rrrRow op [m] build).x8 [d, a, b, y] = true := rfl
  simp only [operandChecks, all_mod, all_reg, all_rng, rng, x6, x8]
  cases m.chk.okMod y <;> by_cases hr : d < 32 ∧ a < 32 ∧ b < 32 <;> simp only [hr] <;> rfl

section
variable {opnd d a b x : Nat} (word : opnd = d * 2 ^ 29 + a * 2 ^ 18 + b * 2 ^ 7 + x) (hd : d < 2 ^ 11) (ha : a < 2 ^ 11)
  (hb : b < 2 ^ 11) (hx : x < 2 ^ 7)
include word hd ha hb hx

/-- The fields of three register operands and a modifier of seven bits, or of five. -/
theorem bitsAt_rrr : opnd < 2 ^ 40 ∧ bitsAt opnd 29 11 = d ∧ bitsAt opnd 18 11 = a ∧ bitsAt opnd 7 11 = b ∧
    bitsAt opnd 0 7 = x ∧ bitsAt opnd 0 5 = x % 32 := by
  unfold bitsAt
  omega

/-- The bits of such a word that no field reads must be zero; 2 ^ 29 stays unevaluated for the kernel. -/
theorem reservedZero_rrrRow (op : Nat) (mods : List Fld) (build : Hdr → List Nat → Instr) :
    reservedZero (rrrRow op mods build) opnd none =
      (opnd == d * 2 ^ 29 + (a * 2 ^ 18 + (b * 2 ^ 7 + mods.foldr (fun f z => bitsAt opnd f.lo f.w * 2 ^ f.lo + z) 0))) := by
  simp -implicitDefEqProofs only [rrrRow, reservedZero, List.cons_append, List.nil_append, List.foldr_cons,
    bitsAt_rrr word hd ha hb hx, packSub, Nat.add_zero, Bool.and_true]

theorem value_rrrRow (op : Nat) (mods : List Fld) (build : Hdr → List Nat → Instr) :
    ((rrrRow op mods build).flds.map fun f => f.value opnd none) = d :: a :: b :: mods.map fun f => f.value opnd none := by
  simp -implicitDefEqProofs [rrrRow, Fld.value, bitsAt_rrr word hd ha hb hx]

/-- CMP defines the conditions 0 to 5. -/
theorem decode_cmp : decode (.plain .ctl) (wordOf .plain 0x20 opnd) = if 6 ≤ x then .error 0x03
    else if d < 32 ∧ a < 32 ∧ b < 32 then .ok (.cmp .plain d a b x) else .error 0x04 := by
  obtain ⟨hopnd, -, -, -, fx, -⟩ := bitsAt_rrr word hd ha hb hx
  have fields : opnd = d * 2 ^ 29 + (a * 2 ^ 18 + (b * 2 ^ 7 + x)) := by simpa only [Nat.add_assoc] using word
  have defined : Chk.okMod (.mods [0, 1, 2, 3, 4, 5]) x = true ↔ ¬ 6 ≤ x := by
    simp only [Chk.okMod, List.contains_eq_mem, List.mem_cons, List.not_mem_nil, or_false, decide_eq_true_eq]
    omega
  rw [decode_rrrRow find_cmp (by decide) hopnd, reservedZero_rrrRow word hd ha hb hx, value_rrrRow word hd ha hb hx]
  simp -implicitDefEqProofs only [Fld.value, List.map_cons, List.map_nil, List.foldr_cons, List.foldr_nil, fx, Nat.mul_one,
    Nat.add_zero, Nat.pow_zero, Bool.false_eq_true, if_false]
  rw [← fields, beq_self_eq_true, if_pos rfl, operandChecks_rrrRow (fun _ => rfl) fun _ => rfl]
  by_cases high : 6 ≤ x
  · rw [if_pos high, if_neg (mt defined.mp (not_not.mpr high))]
    rfl
  · rw [if_neg high, if_pos (defined.mpr high)]
    split_ifs <;> rfl

/-- SEL has no bits 5 and 6 of its modifier. -/
theorem decode_sel : decode (.plain .ctl) (wordOf .plain 0x24 opnd) = if 32 ≤ x then .error 0x03
    else if d < 32 ∧ a < 32 ∧ b < 32 then .ok (.sel .plain d a b x) else .error 0x04 := by
  obtain ⟨hopnd, -, -, -, -, fx⟩ := bitsAt_rrr word hd ha hb hx
  have fields : opnd = d * 2 ^ 29 + (a * 2 ^ 18 + (b * 2 ^ 7 + x % 32)) ↔ x < 32 := by omega
  rw [decode_rrrRow find_sel (by decide) hopnd, reservedZero_rrrRow word hd ha hb hx, value_rrrRow word hd ha hb hx]
  simp -implicitDefEqProofs only [Fld.value, List.map_cons, List.map_nil, List.foldr_cons, List.foldr_nil, fx, Nat.mul_one,
    Nat.add_zero, Nat.pow_zero, Bool.false_eq_true, if_false, beq_iff_eq, fields]
  by_cases high : 32 ≤ x
  · rw [if_pos high, if_neg (by omega)]
  · rw [if_neg high, if_pos (by omega), operandChecks_rrrRow (fun _ => rfl) fun _ => rfl, Nat.mod_eq_of_lt (by omega),
      if_pos (show Chk.okMod .any x = true from rfl)]
    split_ifs <;> rfl

/-- CRNG has no modifier. -/
theorem decode_crng_modifier (some : x ≠ 0) : decode (.plain .ctl) (wordOf .plain 0x2B opnd) = .error 0x03 := by
  have hopnd := (bitsAt_rrr word hd ha hb hx).1
  rw [decode_rrrRow find_crng (by decide) hopnd, reservedZero_rrrRow word hd ha hb hx]
  refine if_neg ?_
  simp -implicitDefEqProofs only [List.foldr_nil, beq_iff_eq]
  omega

end
end Sys2Proof
end

section
namespace Sys2Proof.Machine

/-- The sign-extended reading of a field, bit by bit. -/
theorem getLsbD_exts (x : Word) {pos width i : Nat} (hw : 1 ≤ width) (hi : i < 64) :
    (BitVec.ofInt 64 (signed width (field x pos width))).getLsbD i = x.getLsbD (pos + min i (width - 1)) := by
  rw [getLsbD_signed hw (field_lt ..) hi, testBit_field, decide_eq_true (by omega), Bool.true_and]

/-- INS: the low bits of `x` stand in `old` from `pos` on. -/
theorem getLsbD_ins (old x : Word) {pos width i : Nat} (hi : i < 64) :
    (w64 (old.toNat - field old pos width * 2 ^ pos + field x 0 width * 2 ^ pos)).getLsbD i =
      if pos ≤ i ∧ i < pos + width then x.getLsbD (i - pos) else old.getLsbD i := by
  have replaced := testBit_replace (x := old.toNat) (pos := pos) (i := i) (field_lt x 0 width)
  rw [getLsbD_w64 _ hi, field, replaced, testBit_field, Nat.zero_add]
  split
  · rw [decide_eq_true (by omega), Bool.true_and]
  · rfl

/-- Settles O20: the bits of each field (`getLsbD_exts`, `getLsbD_ins`, `funnel_eq`), the conditions (`cmpHolds_eq`), and
the words of CMP and SEL (`decode_cmp`, `decode_sel`). -/
theorem controlBitFieldsAndCompares : Obligations.ControlBitFieldsAndCompares := by
  refine ⟨?_, ?_, ?_⟩
  · intro s w t c h d a b n pos width g hw hfit hn hn64 x y o out
    simp only [exec_ext, exec_exts, exec_ins, exec_sext, exec_fsh]
    refine ⟨⟨_, ctlRR_goes g .., fun i hi => ?_⟩, ⟨_, ctlRR_goes g .., fun i hi => getLsbD_exts _ hw hi⟩,
      ⟨_, ctlRRR_goes g .., fun i hi => getLsbD_ins _ _ hi⟩, ⟨_, ctlRR_goes g .., fun i hi => ?_⟩, fun low => ?_, ?_⟩
    · rw [getLsbD_w64 _ hi, testBit_field]
    · rw [getLsbD_exts _ hn hi, Nat.zero_add]
    · exact funnel_eq x.v y.v low ▸ ctlRRR_goes g ..
    · have whole := funnel_eq x.v y.v (n := 0) (by decide)
      rw [execFsh, ctlRRR_goes g, whole]
      simp [out, x, y]
  · intro s w t c h d a b k i g x y z m out
    obtain ⟨eq, ne, lt, ge, ltu, geu⟩ := cmpHolds_eq x.v y.v
    obtain ⟨eqi, -, lti, -, ltui, -⟩ := cmpHolds_eq x.v m
    have cmp (j : Nat) {q : Bool} (hq : cmpHolds j x.v y.v = q) : execCmp h d a b j s = out q (x.p || y.p) :=
      hq ▸ ctlRRR_goes g ..
    simp only [exec_cmp, exec_seqi, exec_slti, exec_sltui, exec_sel]
    refine ⟨cmp 0 eq, cmp 1 ne, cmp 2 lt, cmp 3 ge, cmp 4 ltu, cmp 5 geu, eqi ▸ ctlRR_goes g .., lti ▸ ctlRR_goes g ..,
      ltui ▸ ctlRR_goes g .., ?_⟩
    rw [execSel, ctlWrite_goes g]
    simp only [ite_not]
    rfl
  · intro d a b x hd ha hb hx
    rw [decode_cmp rfl hd ha hb hx, decode_sel rfl hd ha hb hx]
    exact ⟨fun high => if_pos high, fun high => if_pos high,
      fun low hd ha hb => by rw [if_neg (by omega), if_pos ⟨hd, ha, hb⟩],
      fun low hd ha hb => by rw [if_neg (by omega), if_pos ⟨hd, ha, hb⟩]⟩

/-- Settles O21: `crng` is the four equations, and CRNG has no modifier (`decode_crng_modifier`). -/
theorem counterGeneratorValue : Obligations.CounterGeneratorValue := by
  refine ⟨?_, fun d a b x hd ha hb hx => decode_crng_modifier rfl hd ha hb hx⟩
  rintro s w t c h d a b g z0 z1 z2 z3 rfl rfl rfl rfl
  rw [exec_crng]
  exact ctlRRR_goes g d a b 4 crng

end Sys2Proof.Machine
end

section
namespace Sys2Proof.Machine

/-! ### Branches, calls and loops (04 R100, R109 to R111) -/

theorem sinkOf_clean {s : State} {t c : Nat} {rs : List Nat} (h : ∀ r ∈ rs, (s.sreg t c r).p = false) :
    sinkOf s t c rs = none := by
  rw [sinkOf, List.find?_eq_none.mpr fun r hr => by simp [h r hr], Option.map_none]

/-- The first register of a list of sinks that is poisoned is reported. -/
theorem sinkOf_first {s : State} {t c a : Nat} (rs : List Nat) (h : (s.sreg t c a).p = true) :
    sinkOf s t c (a :: rs) = some (0x31, BitVec.ofNat 64 a) := by
  rw [sinkOf, List.find?_cons_of_pos (p := fun r => (s.sreg t c r).p) h]
  rfl

/-- A word with poison sinks whose registers are clean has its effect. -/
theorem ctlIssue_sinks_goes {s w : State} {t c : Nat} {h : Hdr} (g : CtlGoes s t c h w) {rs : List Nat}
    (eff : Nat → Nat → Nat → State → State) (clean : ∀ r ∈ rs, (s.sreg t c r).p = false)
    (sound : (eff t c ((s.tile t).resolveSig h.sig) (w.observe t c h.wait)).bad = none) :
    ctlIssue h s (sinks rs) eff = .next (eff t c ((s.tile t).resolveSig h.sig) (w.observe t c h.wait)) := by
  rw [ctlIssue_goes g _ _ rfl rfl rfl (sinkOf_clean clean), finish_eq_next sound]

/-- A word whose first sink is poisoned traps with that register's number. -/
theorem ctlIssue_sinks_traps {s w : State} {t c a : Nat} {h : Hdr} (g : CtlGoes s t c h w) (rs : List Nat)
    (eff : Nat → Nat → Nat → State → State) (level : (s.cc t c).tlvl < 2) (poisoned : (s.sreg t c a).p = true) :
    ctlIssue h s (sinks (a :: rs)) eff = .next (s.wordTrap t c 0x31 (BitVec.ofNat 64 a)) := by
  rw [ctlIssue_traps g _ _ rfl rfl rfl (sinkOf_first rs poisoned)]
  exact finish_eq_next (wordTrap_bad g.sound level)

/-- The conditions of B, on the signed reading of s[a]. -/
theorem bTaken_iff {k : Nat} (hk : k ≤ 6) (x : Word) : bTaken k x = true ↔ k = 0 ∨ (k = 1 ∧ x = 0) ∨ (k = 2 ∧ x ≠ 0) ∨
    (k = 3 ∧ x.slt 0) ∨ (k = 4 ∧ !x.slt 0) ∨ (k = 5 ∧ (0 : Word).slt x) ∨ (k = 6 ∧ !(0 : Word).slt x) := by
  interval_cases k <;> simp [bTaken, BitVec.slt_eq_decide]

section
variable {s w : State} {t c : Nat} {h : Hdr} (g : CtlGoes s t c h w)
include g

/-- B, where its sink is clean. -/
theorem execB_goes (k a off : Nat) (clean : k = 0 ∨ (s.sreg t c a).p = false) : execB h k a off s =
    .next ((if bTaken k (s.sreg t c a).v = true then
      (w.observe t c h.wait).branch t c (brTarget (s.cc t c).pc off) 3 else (w.observe t c h.wait).ctlNext t c 1).signalNow t 0 c
        ((s.tile t).resolveSig h.sig) none) := by
  refine ctlIssue_sinks_goes g _ (fun r hr => ?_) ?_
  · split at hr
    · cases hr
    · next hk => exact List.mem_singleton.mp hr ▸ clean.resolve_left hk
  · split <;> simp [g.bad]

/-- LOOP that goes back, and LOOP that is done. -/
theorem execLoop_back (a off : Nat) (clean : (s.sreg t c a).p = false) (more : (s.sreg t c a).v ≠ 1) :
    execLoop h a off s = .next (let u := w.observe t c h.wait
      let here := brTarget (s.cc t c).pc off
      ((u.linkS t c a here ⟨(s.sreg t c a).v - 1, false⟩).signalIn t 0 c ((s.tile t).resolveSig h.sig) 1 none).branch t c
        here 1) := by
  have left : (s.sreg t c a).v - 1 ≠ 0 := sub_ne_zero.mpr more
  rw [execLoop, ctlIssue_sinks_goes g _ (by simpa using clean)] <;> simp only [if_pos left]
  simp [g.bad]

theorem execLoop_done (a off : Nat) (clean : (s.sreg t c a).p = false) (last : (s.sreg t c a).v = 1) :
    execLoop h a off s = .next (ctlWrote s w t c h a 1 ⟨0, false⟩ 0) := by
  have none_left : (s.sreg t c a).v - 1 = 0 := sub_eq_zero.mpr last
  rw [execLoop, ctlIssue_sinks_goes g _ (by simpa using clean)] <;>
    simp only [none_left, ne_eq, not_true_eq_false, if_false]
  · rfl
  · simp [g.bad]

end

/-- Settles O22: each word's effect where its sinks are clean, and its trap where the first is not. -/
theorem controlFlowWords : Obligations.ControlFlowWords := by
  intro s w t c h d a k off g x r pc m here u sig holds goes links stops
  simp only [exec_b, exec_jmp, exec_ret, exec_call, exec_callr, exec_loop]
  refine ⟨fun hk clean taken => ?_, fun hk clean past => ?_, fun clean => ?_, fun clean => ?_, ?_, fun clean => ?_,
    execLoop_back g a off, execLoop_done g a off, fun level => ⟨fun bad => ⟨fun hk => ?_, ?_, ?_, ?_⟩, fun bad => ?_⟩⟩
  · rw [execB_goes g k a off clean, if_pos ((bTaken_iff hk x.v).mpr taken)]
    rfl
  · rw [execB_goes g k a off (.inr clean), if_neg (mt (bTaken_iff hk x.v).mp past)]
  · exact ctlIssue_sinks_goes g _ (by simpa using clean) (by simp [g.bad])
  · exact ctlIssue_sinks_goes g _ (by simpa using clean) (by simp [g.bad])
  · rw [execCall, ctlIssue_goes g _ _ rfl rfl rfl rfl, finish_eq_next (by simp [g.bad])]
    rfl
  · exact ctlIssue_sinks_goes g _ (by simpa using clean) (by simp [g.bad])
  · rw [execB, if_neg (by omega)]
    exact ctlIssue_sinks_traps g [] _ level bad
  · exact ctlIssue_sinks_traps g [] _ level bad
  · exact ctlIssue_sinks_traps g [] _ level bad
  · exact ctlIssue_sinks_traps g [] _ level bad
  · exact ctlIssue_sinks_traps g [] _ level bad

end Sys2Proof.Machine
end

section
namespace Sys2Proof.Machine

/-! ### Command rings (04 R113 to R117) -/

/-- The limits of a word that pushes `n` slots, in a declared ring that can hold them. -/
theorem ringChecks_declared {s : State} {t c e n : Nat} {rs : List Nat} (declared : ((s.tile t).ring e).size ≠ 0)
    (fits : n ≤ ((s.tile t).ring e).cap) : (ringChecks e n rs).dec s t c = none :=
  if_neg fun limit => limit.elim declared (Nat.not_lt.mpr fits)

/-- FORK's checks: those of one slot, after its routine. -/
def forkChecks (e k : Nat) : CtlChecks :=
  { ringChecks e 1 [] with
    dec := fun s t c => if ((s.tile t).ring e).routines.length ≤ k then some 0x09 else (ringChecks e 1 []).dec s t c }

theorem execFork_eq (h : Hdr) (e k cnt : Nat) (s : State) :
    execFork h e k cnt s = ctlLater h s (forkChecks e k) fun _ t _ => .ringFork t e k (cnt + 1) := rfl

/-- The limits of FORK of a routine that the ring has. -/
theorem forkChecks_known {s : State} {t c e k : Nat} (declared : ((s.tile t).ring e).size ≠ 0)
    (cap : 1 ≤ ((s.tile t).ring e).cap) (known : k < ((s.tile t).ring e).routines.length) :
    (forkChecks e k).dec s t c = none :=
  (if_neg (Nat.not_le.mpr known)).trans (ringChecks_declared declared cap)

/-- FORK of an unknown routine, or in a ring that is not declared. -/
theorem forkChecks_unknown {s : State} {t c e k : Nat}
    (unknown : ((s.tile t).ring e).routines.length ≤ k ∨ ((s.tile t).ring e).size = 0) :
    (forkChecks e k).dec s t c = some 0x09 := by
  by_cases few : ((s.tile t).ring e).routines.length ≤ k
  · exact if_pos few
  · exact (if_neg few).trans (if_pos (.inl (unknown.resolve_left few)))

/-- RINGQ's checks: the ring must be declared. -/
def ringqChecks (e : Nat) : CtlChecks := { CtlChecks.none with dec := (ringChecks e 0 []).dec }

theorem execRingq_eq (h : Hdr) (d e : Nat) (s : State) : execRingq h d e s = ctlIssue h s (ringqChecks e) fun t c sig s' =>
    ((s'.putS t c d ⟨s.ringState t e, false⟩ 2 0).signalIn t 0 c sig 2 none).ctlNext t c 1 := rfl

section
variable {s w : State} {t c : Nat} {h : Hdr} (g : CtlGoes s t c h w)
include g

/-- A word whose effect lands a tc later, where nothing holds or fails it. -/
theorem ctlLater_goes (k : CtlChecks) (fl : State → Nat → Nat → Fl) (dec : k.dec s t c = none) (busy : k.busy s t c = false)
    (hold : k.hold s t c = none) (chk : k.chk s t c = none) :
    ctlLater h s k fl = .next (ctlDid s w t c h 1 fun u => u.flyTile t 1 (fl s t c)) := by
  rw [ctlLater, ctlIssue_goes g _ _ dec busy hold chk, finish_eq_next (by simp [g.bad])]
  rfl

/-- A word beyond a limit fixed at decode traps with itself in TVAL. -/
theorem ctlIssue_limit (k : CtlChecks) (eff : Nat → Nat → Nat → State → State) {cause : Nat} (level : (s.cc t c).tlvl < 2)
    (dec : k.dec s t c = some cause) : ctlIssue h s k eff = .next (s.wordTrap t c cause (s.ctlWord t c)) := by
  rw [ctlIssue_decodes g.agent g.waitMapped g.sigMapped k eff dec]
  exact finish_eq_next (wordTrap_bad g.sound level)

variable {d e : Nat} {rs : List Nat}

/-- RINGP and RINGP.2 with room for their words and clean sources. -/
theorem ringPush_goes (declared : ((s.tile t).ring e).size ≠ 0) (fits : rs.length ≤ ((s.tile t).ring e).cap)
    (room : rs.length ≤ ((s.tile t).ring e).free) (clean : ∀ r ∈ rs, (s.sreg t c r).p = false) : ringPush h d rs e s =
      .next ((((((w.observe t c h.wait).flyTile t 1 (.ringw t e (rs.map fun r => (s.sreg t c r).v))).signalIn t 0 c
        ((s.tile t).resolveSig h.sig) 1 none).putS t c d ⟨BitVec.ofNat 64 (((s.tile t).ring e).free - rs.length), false⟩ 2 0)).ctlNext
          t c 1) := by
  rw [ringPush, ctlIssue_goes g _ _ (ringChecks_declared declared fits) (decide_eq_false (Nat.not_lt.mpr room)) rfl
    (sinkOf_clean clean), finish_eq_next (by simp [g.bad])]
  rfl

/-- RINGP and RINGP.2 with room and a poisoned first source. -/
theorem ringPush_traps {a : Nat} (declared : ((s.tile t).ring e).size ≠ 0) (fits : (a :: rs).length ≤ ((s.tile t).ring e).cap)
    (room : (a :: rs).length ≤ ((s.tile t).ring e).free) (poisoned : (s.sreg t c a).p = true) (level : (s.cc t c).tlvl < 2) :
    ringPush h d (a :: rs) e s = .next (s.wordTrap t c 0x31 (BitVec.ofNat 64 a)) := by
  rw [ringPush, ctlIssue_traps g _ _ (ringChecks_declared declared fits) (decide_eq_false (Nat.not_lt.mpr room)) rfl
    (sinkOf_first rs poisoned)]
  exact finish_eq_next (wordTrap_bad g.sound level)

/-- RINGP and RINGP.2 without room are held. -/
theorem ringPush_held (declared : ((s.tile t).ring e).size ≠ 0) (fits : rs.length ≤ ((s.tile t).ring e).cap)
    (full : ((s.tile t).ring e).free < rs.length) : ringPush h d rs e s = .next s :=
  ctlIssue_busy g _ _ (ringChecks_declared declared fits) (decide_eq_true full)

/-- RINGP and RINGP.2 on a ring that is not declared, or never holds their words. -/
theorem ringPush_limit (level : (s.cc t c).tlvl < 2)
    (small : ((s.tile t).ring e).size = 0 ∨ ((s.tile t).ring e).cap < rs.length) :
    ringPush h d rs e s = .next (s.wordTrap t c 0x09 (s.ctlWord t c)) :=
  ctlIssue_limit g _ _ level (if_pos small)

variable {k cnt : Nat}

theorem execFork_goes (declared : ((s.tile t).ring e).size ≠ 0) (cap : 1 ≤ ((s.tile t).ring e).cap)
    (known : k < ((s.tile t).ring e).routines.length) (room : 1 ≤ ((s.tile t).ring e).free) :
    execFork h e k cnt s = .next (ctlDid s w t c h 1 fun u => u.flyTile t 1 (.ringFork t e k (cnt + 1))) := by
  rw [execFork_eq, ctlLater_goes g _ _ (forkChecks_known declared cap known) (decide_eq_false (Nat.not_lt.mpr room)) rfl rfl]

theorem execFork_held (declared : ((s.tile t).ring e).size ≠ 0) (cap : 1 ≤ ((s.tile t).ring e).cap)
    (known : k < ((s.tile t).ring e).routines.length) (full : ((s.tile t).ring e).free = 0) :
    execFork h e k cnt s = .next s := by
  rw [execFork_eq, ctlLater, ctlIssue_busy g _ _ (forkChecks_known declared cap known) (decide_eq_true (full ▸ Nat.one_pos))]

theorem execFork_limit (level : (s.cc t c).tlvl < 2)
    (unknown : ((s.tile t).ring e).routines.length ≤ k ∨ ((s.tile t).ring e).size = 0) :
    execFork h e k cnt s = .next (s.wordTrap t c 0x09 (s.ctlWord t c)) := by
  rw [execFork_eq, ctlLater, ctlIssue_limit g _ _ level (forkChecks_unknown unknown)]

theorem execRingq_goes (declared : ((s.tile t).ring e).size ≠ 0) :
    execRingq h d e s = .next (ctlWrote s w t c h d 2 ⟨s.ringState t e, false⟩ 0) := by
  rw [execRingq_eq, ctlIssue_goes g _ _ (show (ringqChecks e).dec s t c = none from
    ringChecks_declared (rs := []) declared (Nat.zero_le _)) rfl rfl rfl, finish_eq_next (by simp [g.bad])]
  rfl

theorem execRingq_limit (level : (s.cc t c).tlvl < 2) (missing : ((s.tile t).ring e).size = 0) :
    execRingq h d e s = .next (s.wordTrap t c 0x09 (s.ctlWord t c)) := by
  rw [execRingq_eq, ctlIssue_limit g _ _ level (show (ringqChecks e).dec s t c = some 0x09 from if_pos (.inl missing))]

end

/-- Settles O29: RINGP and RINGP.2 by the cases of `ringPush`, FORK and RINGQ by those of the ring's limits. -/
theorem ringWords : Obligations.RingWords := by
  intro s w t c h d a b e k cnt g x y r push limit
  simp only [exec_ringp, exec_ringp2, exec_fork, exec_ringq, execRingp, execRingp2]
  refine ⟨fun declared cap => ⟨fun room clean => ?_, fun room bad level => ringPush_traps g declared cap room bad level,
    fun full => ringPush_held g declared cap (Nat.lt_succ_of_le full.le), fun cap2 room cx cy => ?_,
    fun cap2 full => ringPush_held g declared cap2 full, execFork_goes g declared cap, execFork_held g declared cap⟩,
    execRingq_goes g, fun level => ⟨fun missing => ⟨ringPush_limit g level (.inl missing),
    ringPush_limit g level (.inl missing), execFork_limit g level (.inr missing), execRingq_limit g level missing⟩,
    fun small => ringPush_limit g level (.inr small), fun unknown => execFork_limit g level (.inl unknown)⟩⟩
  · exact ringPush_goes g declared cap room fun r hr => List.mem_singleton.mp hr ▸ clean
  · exact ringPush_goes g declared cap2 room (List.forall_mem_cons.mpr ⟨cx, fun r hr => List.mem_singleton.mp hr ▸ cy⟩)

/-! ### Objects, handles and system registers (04 R101, R118, R119, R121) -/

/-- A word that reads an object writes what it finds after its own wait. -/
theorem ctlSample_goes {s w : State} {t c : Nat} {h : Hdr} (g : CtlGoes s t c h w) (d : Nat) (v : Tile → Word) :
    ctlSample h s d v = .next (ctlWrote s w t c h d 3 ⟨v ((w.observe t c h.wait).tile t), false⟩ 0) := by
  rw [ctlSample, ctlIssue_goes g _ _ rfl rfl rfl rfl, finish_eq_next (by simp [g.bad])]
  rfl

/-- What a satisfied wait learns of stores to the CIM changes no semaphore and no token queue. -/
theorem State.observe_sync (w : State) (t c n : Nat) :
    ((w.observe t c n).tile t).sem = (w.tile t).sem ∧ ((w.observe t c n).tile t).tq = (w.tile t).tq := by
  unfold State.observe
  split
  · exact ⟨rfl, rfl⟩
  · rw [State.updTile_tile]
    obtain ⟨sem, tq, -⟩ := (w.tile t).tell_sync (streamKey 0 0) ((w.tile t).knows ((w.tile t).waitKey 0 n))
    exact ⟨sem, tq⟩

/-- The supervisor's registers in a context with privilege, and in one without (16 R417). -/
theorem sysChecks_dec (s : State) (t c reg : Nat) : (sysChecks reg).dec s t c =
    if (0x82 ≤ reg ∧ reg ≤ 0x8A) ∧ s.ctlSup t c = false then some 0x08 else none := by
  simp [sysChecks, sysSup]

/-- SYSWR's checks: those of its register, then its source, but for the windows onto a-registers (04 R100). -/
def syswrChecks (a reg : Nat) : CtlChecks :=
  { sysChecks reg with chk := fun s t c => if 0x100 ≤ reg then none else sinkOf s t c [a] }

theorem execSyswr_eq (h : Hdr) (a reg : Nat) (s : State) : execSyswr h a reg s =
    ctlLater h s (syswrChecks a reg) fun s t c => .sysw t c reg (s.sreg t c a).v (s.sreg t c a).p := rfl

/-- A source that is clean, or goes to a window, is no reason to trap. -/
theorem syswrChecks_pass {s : State} {t c a reg : Nat} (clean : (s.sreg t c a).p = false ∨ 0x100 ≤ reg) :
    (syswrChecks a reg).chk s t c = none := by
  by_cases window : 0x100 ≤ reg
  · exact if_pos window
  · exact (if_neg window).trans (sinkOf_clean (List.forall_mem_singleton.mpr (clean.resolve_right window)))

/-- A poisoned source of a register that is no window traps. -/
theorem syswrChecks_poisoned {s : State} {t c a reg : Nat} (poisoned : (s.sreg t c a).p = true) (low : reg < 0x100) :
    (syswrChecks a reg).chk s t c = some (0x31, BitVec.ofNat 64 a) :=
  (if_neg (Nat.not_le.mpr low)).trans (sinkOf_first [] poisoned)

/-- A word whose source fails its check traps, where its checks add nothing to the trap. -/
theorem ctlLater_traps {s w : State} {t c : Nat} {h : Hdr} (g : CtlGoes s t c h w) (k : CtlChecks) (fl : State → Nat → Nat → Fl)
    {cause : Nat} {v : Word} (level : (s.cc t c).tlvl < 2) (dec : k.dec s t c = none) (busy : k.busy s t c = false)
    (hold : k.hold s t c = none) (chk : k.chk s t c = some (cause, v)) (plain : ∀ u, k.onTrap u t c = u) :
    ctlLater h s k fl = .next (s.wordTrap t c cause v) := by
  rw [ctlLater, ctlIssue_traps g _ _ dec busy hold chk, plain]
  exact finish_eq_next (wordTrap_bad g.sound level)

/-- Settles O30: the words that read an object by `ctlSample_goes`, those whose write lands later by `ctlLater_goes`, and
the system registers by `sysChecks_dec`. -/
theorem objectAndRegisterWords : Obligations.ObjectAndRegisterWords := by
  intro s w t c h d a n v p q k reg g x o z view later privileged
  simp only [exec_semset, exec_semrd, exec_tokrd, exec_bhmap, exec_mtwr, exec_sysrd, exec_syswr]
  obtain ⟨sem, tq⟩ := w.observe_sync t c h.wait
  have userDec : 0x82 ≤ reg ∧ reg ≤ 0x8A → s.ctlSup t c = false → (sysChecks reg).dec s t c = some 0x08 := fun priv user => by
    rw [sysChecks_dec, if_pos ⟨priv, user⟩]
  have freeDec : ¬ (0x82 ≤ reg ∧ reg ≤ 0x8A) ∨ s.ctlSup t c = true → (sysChecks reg).dec s t c = none := fun allowed => by
    rw [sysChecks_dec, if_neg]
    rintro ⟨priv, user⟩
    exact allowed.elim (absurd priv) fun sup => Bool.noConfusion (sup.symm.trans user)
  refine ⟨ctlLater_goes g _ _ rfl rfl rfl rfl, ?_, ?_, ctlLater_goes g _ _ rfl rfl rfl rfl, fun clean => ?_,
    fun allowed => ⟨?_, fun clean => ?_⟩, fun level => ⟨fun priv user => ⟨?_, ?_⟩, fun bad => ?_, fun bad low => ?_⟩⟩
  · rw [execSemrd, ctlSample_goes g, Tile.semOf, sem]
    rfl
  · rw [execTokrd, ctlSample_goes g, Tile.tqOf, tq]
    rfl
  · exact ctlLater_goes g _ _ rfl rfl rfl (sinkOf_clean (List.forall_mem_singleton.mpr clean))
  · rw [execSysrd, ctlIssue_goes g _ _ (freeDec allowed) rfl rfl rfl, finish_eq_next (by simp [g.bad])]
    rfl
  · rw [execSyswr_eq, ctlLater_goes g (syswrChecks a reg) _ (freeDec allowed) rfl rfl (syswrChecks_pass clean)]
  · rw [execSysrd, ctlIssue_limit g _ _ level (userDec priv user)]
  · rw [execSyswr_eq, ctlLater, ctlIssue_limit g (syswrChecks a reg) _ level (userDec priv user)]
  · exact ctlLater_traps g _ _ level rfl rfl rfl (sinkOf_first [] bad) fun _ => rfl
  · rw [execSyswr_eq, ctlLater_traps g (syswrChecks a reg) _ level (freeDec (.inl fun priv => absurd low (Nat.not_lt.mpr priv.1))) rfl rfl
      (syswrChecks_poisoned bad (by omega)) fun _ => rfl]

end Sys2Proof.Machine
end

section
namespace Sys2Proof.Machine

/-! ### System registers as they are read (04 R102, R103; 16 R417 to R421) -/

theorem maskOf_succ (n : Nat) (f : Nat → Bool) : maskOf (n + 1) f = maskOf n f + bit (f n) n := by
  simp [maskOf, List.range_succ]

theorem maskOf_lt (n : Nat) (f : Nat → Bool) : maskOf n f < 2 ^ n := by
  induction n with
  | zero => exact Nat.one_pos
  | succ n ih =>
    rw [maskOf_succ, pow_succ, bit]
    split <;> omega

/-- A set as a mask has bit `i` where it has `i`. -/
theorem maskOf_testBit (n i : Nat) (f : Nat → Bool) : (maskOf n f).testBit i = (decide (i < n) && f i) := by
  induction n with
  | zero => simp [maskOf]
  | succ n ih =>
    have split : maskOf (n + 1) f = 2 ^ n * (f n).toNat + maskOf n f := by
      rw [maskOf_succ, bit]
      cases f n <;> simp [Nat.add_comm]
    rw [split, Nat.testBit_two_pow_mul_add _ (maskOf_lt n f)]
    by_cases low : i < n
    · rw [if_pos low, ih, decide_eq_true low, decide_eq_true (Nat.lt_succ_of_lt low)]
    · rw [if_neg low, Nat.testBit_bool_toNat]
      by_cases top : i = n
      · simp [top]
      · simp [show ¬ i < n + 1 by omega, show ¬ i - n = 0 by omega]

theorem bit_add (b : Bool) (m n : Nat) : bit b (m + n) = 2 ^ m * bit b n := by
  cases b <;> simp [bit, pow_add]

/-- EFLT is its stop bits below its pend bits (16 R421). -/
theorem Tile.eflt_eq (T : Tile) : T.eflt = 2 ^ 24 * maskOf 6 (fun e => (T.engine e).pend && decide (0 < e)) +
    maskOf 6 fun e => (T.engine e).stop && decide (0 < e) := by
  simp only [Tile.eflt, bit_add]
  simp only [maskOf, List.range_succ, List.range_zero, List.nil_append, List.cons_append, List.map_cons, List.map_nil,
    List.foldl_cons, List.foldl_nil]
  omega

/-- The stop and pend bits of an engine that EFLT names. -/
theorem Tile.eflt_testBit (T : Tile) {e : Nat} (first : 1 ≤ e) (last : e ≤ 5) :
    T.eflt.testBit e = (T.engine e).stop ∧ T.eflt.testBit (24 + e) = (T.engine e).pend := by
  have low : maskOf 6 (fun e => (T.engine e).stop && decide (0 < e)) < 2 ^ 24 := (maskOf_lt 6 _).trans (by decide)
  rw [Tile.eflt_eq, Nat.testBit_two_pow_mul_add _ low, Nat.testBit_two_pow_mul_add _ low, if_pos (by omega), if_neg (by omega),
    Nat.add_sub_cancel_left, maskOf_testBit, maskOf_testBit]
  simp [show e < 6 by omega, show 0 < e by omega]

/-- Where the save-area capabilities are read (16 R420). -/
theorem State.sysreg_tsa (s : State) (t c : Nat) {k : Nat} (few : k < 3) :
    (s.sysreg t c (0x90 + 2 * k)).v = (FM.get 0 (s.tile t).tsa k).setWidth 64 ∧
    (s.sysreg t c (0x91 + 2 * k)).v = ((FM.get 0 (s.tile t).tsa k) >>> 64).setWidth 64 := by
  have even : s.sysreg t c (0x90 + 2 * k) = ⟨w64 ((FM.get 0 (s.tile t).tsa k).toNat % 2 ^ 64), false⟩ := by
    unfold State.sysreg
    rw [if_neg (by omega), if_pos (by omega), show (0x90 + 2 * k - 0x90) / 2 = k by omega]
    exact congrArg (fun n => RegV.mk (w64 n) false) (if_pos (by omega))
  have odd : s.sysreg t c (0x91 + 2 * k) = ⟨w64 ((FM.get 0 (s.tile t).tsa k).toNat / 2 ^ 64), false⟩ := by
    unfold State.sysreg
    rw [if_neg (by omega), if_pos (by omega), show (0x91 + 2 * k - 0x90) / 2 = k by omega]
    exact congrArg (fun n => RegV.mk (w64 n) false) (if_neg (by omega))
  rw [even, odd]
  exact ⟨BitVec.eq_of_toNat_eq (by simp [w64]), BitVec.eq_of_toNat_eq (by simp [w64, Nat.shiftRight_eq_div_pow])⟩

theorem State.sysreg_eflag (s : State) (t c : Nat) {e : Nat} (few : e < 6) :
    s.sysreg t c (0x10 + e) = ⟨w64 (FM.get 0 (s.tile t).eflag e), false⟩ := by
  unfold State.sysreg
  rw [if_neg (by omega), if_neg (by omega), if_pos (by omega), Nat.add_sub_cancel_left]

theorem State.sysreg_window (s : State) (t c a : Nat) : s.sysreg t c (0x100 + a) = FM.get RegV.zero (s.tile t).aregs a := by
  unfold State.sysreg
  rw [if_pos (by omega), Nat.add_sub_cancel_left]

/-- No register but a window reads poisoned. -/
theorem State.sysreg_clean (s : State) (t c : Nat) {reg : Nat} (low : reg < 0x100) : (s.sysreg t c reg).p = false := by
  unfold State.sysreg
  rw [if_neg (by omega)]
  split
  · rfl
  · split
    · rfl
    · split <;> rfl

/-- Settles O31: each register by its own line of the table, the groups by the lemmas above. -/
theorem systemRegisterValues : Obligations.SystemRegisterValues := by
  intro s t c T x n64
  refine ⟨rfl, rfl, rfl, rfl, rfl, rfl, fun e few => congrArg RegV.v (s.sysreg_eflag t c few), rfl, rfl, rfl, rfl, rfl, rfl, rfl, rfl,
    rfl, rfl, fun k few => s.sysreg_tsa t c few, rfl, fun e first last => ?_, fun a _ => s.sysreg_window t c a,
    fun reg low => s.sysreg_clean t c low⟩
  have value : (s.sysreg t c 0x08A).v = w64 T.eflt := rfl
  rw [value, getLsbD_w64 _ (by omega), getLsbD_w64 _ (by omega)]
  exact T.eflt_testBit first last

end Sys2Proof.Machine
end

section
namespace Sys2Proof.Machine

/-! ### What a control-core word leaves alone (04 R93, R97) -/

theorem FM.set_set {α : Type} (m : FM α) (n : Nat) (v w : α) : FM.set (FM.set m n v) n w = FM.set m n w := by
  induction m with
  | nil => simp [FM.set]
  | cons p m ih =>
    obtain ⟨k, x⟩ := p
    by_cases below : n < k
    · simp [FM.set, below]
    · by_cases same : n = k
      · simp [FM.set, same]
      · simp [FM.set, below, same, ih]

theorem SameMemory.trans {s v u : State} (a : SameMemory s v) (b : SameMemory v u) : SameMemory s u := fun k => by
  obtain ⟨mem, pois, tag⟩ := b k
  rw [mem, pois, tag]
  exact a k

theorem SameMemory.of_eq {s u : State} (mem : u.mem = s.mem) (pois : u.pois = s.pois) (tags : u.tags = s.tags) : SameMemory s u :=
  fun k => by
    unfold State.poisAt State.tagAt
    rw [mem, pois, tags]
    exact ⟨rfl, rfl, rfl⟩

theorem SameDevice.trans {s v u : State} (a : SameDevice s v) (b : SameDevice v u) : SameDevice s u :=
  ⟨b.tc.trans a.tc, b.cols.trans a.cols, b.ctxs.trans a.ctxs, b.launches.trans a.launches, b.nmus.trans a.nmus, b.sys.trans a.sys,
    b.saved.trans a.saved, b.parked.trans a.parked, b.sectors.trans a.sectors, b.badPages.trans a.badPages⟩

theorem SameOthers.trans {s v u : State} {t : Nat} (a : SameOthers s v t) (b : SameOthers v u t) : SameOthers s u t :=
  fun k ne => (b k ne).trans (a k ne)

theorem SameOthers.setTile (s : State) (t : Nat) (T : Tile) : SameOthers s (s.setTile t T) t := fun _ ne => s.setTile_other T ne

theorem SameDevice.setTile (s : State) (t : Nat) (T : Tile) : SameDevice s (s.setTile t T) :=
  ⟨rfl, rfl, rfl, rfl, rfl, rfl, rfl, rfl, rfl, rfl⟩

theorem TileButSync.refl (T : Tile) : TileButSync T T := rfl

theorem TileButSync.trans {T U V : Tile} (a : TileButSync T U) (b : TileButSync U V) : TileButSync T V := by
  unfold TileButSync at a b ⊢
  rw [b, a]

/-- A tile whose contexts stand too: only objects of waits and signals, and what was learned, differ. -/
def SyncOnly (T U : Tile) : Prop := TileButSync T U ∧ U.ctxs = T.ctxs

theorem SyncOnly.refl (T : Tile) : SyncOnly T T := ⟨rfl, rfl⟩

theorem SyncOnly.trans {T U V : Tile} (a : SyncOnly T U) (b : SyncOnly U V) : SyncOnly T V :=
  ⟨a.1.trans b.1, b.2.trans a.2⟩

theorem Tile.tell_syncOnly (T : Tile) (k : Nat) (ks : List Nat) : SyncOnly T (T.tell k ks) := by
  unfold Tile.tell
  split <;> exact ⟨rfl, rfl⟩

/-- A step that changes a tile in its objects of waits and signals alone, and nothing else but what is in flight. -/
structure SyncStep (s u : State) (t : Nat) : Prop where
  memory : SameMemory s u
  device : SameDevice s u
  others : SameOthers s u t
  tile : SyncOnly (s.tile t) (u.tile t)

theorem SyncStep.trans {s v u : State} {t : Nat} (a : SyncStep s v t) (b : SyncStep v u t) : SyncStep s u t :=
  ⟨a.memory.trans b.memory, a.device.trans b.device, a.others.trans b.others, a.tile.trans b.tile⟩

theorem SyncStep.setTile (s : State) {t : Nat} {T : Tile} (sync : SyncOnly (s.tile t) T) : SyncStep s (s.setTile t T) t :=
  ⟨.of_eq rfl rfl rfl, .setTile s t T, .setTile s t T, by rwa [State.setTile_tile]⟩

theorem SyncStep.refl (s : State) (t : Nat) : SyncStep s s t := ⟨.of_eq rfl rfl rfl, .refl s, fun _ _ => rfl, .refl _⟩

theorem SyncStep.fly {s u : State} {t : Nat} (a : SyncStep s u t) (clk : Clk) (due : Nat) (fl : Fl) : SyncStep s (u.fly clk due fl) t :=
  a.trans ⟨.of_eq rfl rfl rfl, ⟨rfl, rfl, rfl, rfl, rfl, rfl, rfl, rfl, rfl, rfl⟩, fun _ _ => rfl, .refl _⟩

theorem SyncStep.takeFree {s u : State} {t : Nat} (a : SyncStep s u t) : SyncStep s (takeFree u).2 t :=
  a.trans ⟨.of_eq rfl rfl rfl, ⟨rfl, rfl, rfl, rfl, rfl, rfl, rfl, rfl, rfl, rfl⟩, fun _ _ => rfl, .refl _⟩

theorem SyncStep.turns {s u : State} {t : Nat} (a : SyncStep s u t) (ts : List Turn) : SyncStep s { u with turns := ts } t :=
  a.trans ⟨.of_eq rfl rfl rfl, ⟨rfl, rfl, rfl, rfl, rfl, rfl, rfl, rfl, rfl, rfl⟩, fun _ _ => rfl, .refl _⟩

theorem SyncStep.soon (s : State) {t : Nat} {T : Tile} (sync : SyncOnly (s.tile t) T) (ts : List Turn) :
    SyncStep s ((s.setTile t T).soon ts) t :=
  (SyncStep.setTile s sync).turns _

theorem SyncStep.observe {s w : State} {t : Nat} (a : SyncStep s w t) (c n : Nat) : SyncStep s (w.observe t c n) t := by
  unfold State.observe
  split
  · exact a
  · exact a.trans (.setTile w (Tile.tell_syncOnly ..))

theorem waitBar_syncStep {s w : State} {t p n : Nat} (h : s.waitBar t p n = .pass w) : SyncStep s w t := by
  simp only [State.waitBar] at h
  repeat' split at h
  all_goals cases h
  all_goals exact .setTile s ⟨rfl, rfl⟩

/-- A wait that is satisfied changes its object alone. -/
theorem testWait_syncStep {s w : State} {t p b : Nat} (h : s.testWait t p b = .pass w) : SyncStep s w t := by
  simp only [State.testWait] at h
  split at h
  · split at h
    · cases h
    · split at h
      · split at h
        · cases h; exact SyncStep.soon s (t := t) (T := (s.tile t).setTq _ _) ⟨rfl, rfl⟩ _
        · cases h; exact .setTile s ⟨rfl, rfl⟩
      · cases h
  iterate 2
    · split at h
      · cases h
      · split at h
        · cases h; exact .setTile s ⟨rfl, rfl⟩
        · cases h
  · split at h
    · cases h
    · exact waitBar_syncStep h
  · cases h; exact .refl s t

theorem CtlGoes.syncStep {s w : State} {t c : Nat} {h : Hdr} (g : CtlGoes s t c h w) : SyncStep s (w.observe t c h.wait) t :=
  (testWait_syncStep g.passes).observe c h.wait

/-- A home message is in flight and takes a free time. -/
theorem SyncStep.sendHome {s u : State} {t : Nat} (st : SyncStep s u t) (slot what a b : Nat) (pois : Option (Nat × Nat))
    (sig c scope : Nat) : SyncStep s (u.sendHome t slot what a b pois sig c scope) t :=
  st.takeFree.fly ..

theorem SyncStep.arriveSlot (s : State) (t e c handle slot : Nat) (pois : Option (Nat × Nat)) :
    SyncStep s (s.arriveSlot t e c handle slot pois) t := by
  have pended : SyncOnly (s.tile t) (if e ≠ 0 ∨ c = 0 then
      { s.tile t with bpend := FM.set (s.tile t).bpend (32 * e + handle) ((s.tile t).barOf slot).gen } else s.tile t) := by
    split <;> exact ⟨rfl, rfl⟩
  simp only [State.arriveSlot]
  split
  · exact (SyncStep.setTile s pended).trans (.setTile _ (by rw [State.setTile_tile]; exact ⟨rfl, rfl⟩))
  · exact (SyncStep.setTile s pended).sendHome ..

/-- A signal changes its object, and what the object has learned, alone. -/
theorem SyncStep.signal (s : State) (t e c sig : Nat) (pois : Option (Nat × Nat)) : SyncStep s (s.signal t e c sig pois) t := by
  have object : SyncStep s (s.signalObj t e c sig pois) t := by
    unfold State.signalObj
    split
    · exact .arriveSlot ..
    · split
      · simp only [State.pushToken]
        repeat' split
        all_goals exact .setTile s ⟨rfl, rfl⟩
      · exact .setTile s ⟨rfl, rfl⟩
      · exact .setTile s ⟨rfl, rfl⟩
      · exact .refl s t
  exact object.trans (.setTile _ (Tile.tell_syncOnly ..))

theorem SyncStep.signalNow (s : State) (t e c sig : Nat) (pois : Option (Nat × Nat)) : SyncStep s (s.signalNow t e c sig pois) t := by
  unfold State.signalNow
  split
  · exact .refl s t
  · exact (SyncStep.signal ..).turns _

/-! A control-core word's own changes, after its wait. -/

theorem SyncStep.sameCc {s u : State} {t : Nat} (st : SyncStep s u t) (d : Nat) : u.cc t d = s.cc t d := by
  unfold State.cc Tile.cc
  rw [st.tile.2]

theorem SameRegs.refl (x : CtlCtx) : SameRegs x x := ⟨rfl, rfl, rfl, rfl, rfl, rfl⟩

theorem SameRegs.trans {x y z : CtlCtx} (a : SameRegs x y) (b : SameRegs y z) : SameRegs x z :=
  ⟨b.regs.trans a.regs, b.tlvl.trans a.tlvl, b.tcause.trans a.tcause, b.tepc.trans a.tepc, b.tval.trans a.tval, b.tstate.trans a.tstate⟩

/-- The word's wait. -/
theorem CtlFrame.ofSync {s u : State} {t : Nat} (st : SyncStep s u t) (flights : u.flights = s.flights) (c : Nat) (ds : List Nat) :
    CtlFrame s u t c ds where
  memory := st.memory
  device := st.device
  others := st.others
  regs d := st.sameCc d ▸ .refl _
  contexts d _ := st.sameCc d
  tile := st.tile.1
  flights := ⟨[], by rw [flights, List.append_nil], by simp⟩

theorem CtlFrame.trans {s v u : State} {t c : Nat} {ds : List Nat} (a : CtlFrame s v t c ds) (b : CtlFrame v u t c ds) :
    CtlFrame s u t c ds := by
  obtain ⟨xs, addedX, kindX⟩ := a.flights
  obtain ⟨ys, addedY, kindY⟩ := b.flights
  exact ⟨a.memory.trans b.memory, a.device.trans b.device, a.others.trans b.others, fun d => (a.regs d).trans (b.regs d),
    fun d ne => (b.contexts d ne).trans (a.contexts d ne), a.tile.trans b.tile, xs ++ ys, by rw [addedY, addedX, List.append_assoc],
    fun f mem => (List.mem_append.mp mem).elim (kindX f) (kindY f)⟩

theorem CtlFrame.refl (s : State) (t c : Nat) (ds : List Nat) : CtlFrame s s t c ds := .ofSync (.refl s t) rfl c ds

/-- The write to the word's register, or its signal, is in flight. -/
theorem CtlFrame.fly (s : State) (t c : Nat) {ds : List Nat} (l : Nat) (fl : Fl)
    (own : (∃ d ∈ ds, ∃ v flag, fl = .sreg t c d v flag) ∨ ∃ sig, fl = .signal t 0 sig c none) : CtlFrame s (s.flyTile t l fl) t c ds where
  memory := .of_eq rfl rfl rfl
  device := ⟨rfl, rfl, rfl, rfl, rfl, rfl, rfl, rfl, rfl, rfl⟩
  others _ _ := rfl
  regs _ := .refl _
  contexts _ _ := rfl
  tile := .refl _
  flights := ⟨_, rfl, fun f mem => by rwa [List.mem_singleton.mp mem]⟩

theorem CtlFrame.putS (s : State) (t c : Nat) {d : Nat} {ds : List Nat} (own : d ∈ ds) (v : RegV) (l flag : Nat) :
    CtlFrame s (s.putS t c d v l flag) t c ds := by
  unfold State.putS
  split
  · exact .refl ..
  · exact .fly s t c l _ (.inl ⟨d, own, v, flag, rfl⟩)

theorem CtlFrame.signalIn (s : State) (t c sig l : Nat) (ds : List Nat) : CtlFrame s (s.signalIn t 0 c sig l none) t c ds := by
  unfold State.signalIn
  split
  · exact .refl ..
  · exact .fly s t c l _ (.inr ⟨sig, rfl⟩)

/-- A context's own change that leaves its registers and trap registers. -/
theorem CtlFrame.updCc (s : State) (t c : Nat) (ds : List Nat) {f : CtlCtx → CtlCtx} (regs : SameRegs (s.cc t c) (f (s.cc t c))) :
    CtlFrame s (s.updCc t c f) t c ds where
  memory := .of_eq rfl rfl rfl
  device := .setTile s t _
  others := .setTile s t _
  regs d := by
    by_cases own : d = c
    · rw [own, State.updCc_cc]
      exact regs
    · rw [State.updCc_other s t f own]
      exact .refl _
  contexts _ other := State.updCc_other s t f other
  tile := by
    rw [State.updCc, State.updTile_tile]
    rfl
  flights := ⟨[], (List.append_nil _).symm, by simp⟩

theorem CtlFrame.ctlNext (s : State) (t c l : Nat) (ds : List Nat) : CtlFrame s (s.ctlNext t c l) t c ds :=
  .updCc s t c ds ⟨rfl, rfl, rfl, rfl, rfl, rfl⟩

theorem State.observe_flights (s : State) (t c n : Nat) : (s.observe t c n).flights = s.flights := by
  unfold State.observe
  split <;> rfl

theorem CtlGoes.frame {s w : State} {t c : Nat} {h : Hdr} (g : CtlGoes s t c h w) (ds : List Nat) :
    CtlFrame s (w.observe t c h.wait) t c ds :=
  .ofSync g.syncStep ((w.observe_flights t c h.wait).trans g.keeps.flights) c ds

/-- A word that only writes a register. -/
theorem ctlWrote_frame {s w : State} {t c : Nat} {h : Hdr} (g : CtlGoes s t c h w) (d l : Nat) (v : RegV) (flag : Nat) :
    CtlFrame s (ctlWrote s w t c h d l v flag) t c [d] :=
  (((g.frame [d]).trans (.putS _ t c (List.mem_singleton.mpr rfl) v l flag)).trans (.signalIn ..)).trans (.ctlNext ..)

/-- The words that only write a register with a value of registers, or of an object, `l` tc later. -/
def WritesRegister (i : Instr) (h : Hdr) (d : Nat) : Prop :=
  (∃ l v, ∀ s, exec i s = ctlWrite h s d l v) ∨ ∃ v, ∀ s, exec i s = ctlSample h s d v

theorem WritesRegister.value {i : Instr} {h : Hdr} {d l : Nat} {v : State → Nat → Nat → RegV}
    (word : ∀ s, exec i s = ctlWrite h s d l v) : WritesRegister i h d := .inl ⟨l, v, word⟩

theorem WritesRegister.two {i : Instr} {h : Hdr} {d a b l : Nat} {f : Word → Word → Word}
    (word : ∀ s, exec i s = ctlRRR h s d a b l f) : WritesRegister i h d := .inl ⟨l, _, fun s => by rw [word s, ctlRRR]⟩

theorem WritesRegister.one {i : Instr} {h : Hdr} {d a l : Nat} {f : Word → Word} (word : ∀ s, exec i s = ctlRR h s d a l f) :
    WritesRegister i h d := .inl ⟨l, _, fun s => by rw [word s, ctlRR]⟩

theorem WritesRegister.sample {i : Instr} {h : Hdr} {d : Nat} {v : Tile → Word} (word : ∀ s, exec i s = ctlSample h s d v) :
    WritesRegister i h d := .inr ⟨v, word⟩

theorem WritesRegister.frame {i : Instr} {s u w : State} {t c d : Nat} {h : Hdr} (writes : WritesRegister i h d) (g : CtlGoes s t c h w)
    (ends : exec i s = .next u) : CtlFrame s u t c [d] := by
  obtain ⟨l, v, word⟩ | ⟨v, word⟩ := writes
  · rw [word, ctlWrite_goes g] at ends
    cases ends
    exact ctlWrote_frame g ..
  · rw [word, ctlSample_goes g] at ends
    cases ends
    exact ctlWrote_frame g ..

theorem controlWords_writeRegister (h : Hdr) (d a b k m n : Nat) :
    ∀ i ∈ [Instr.add h d a b, .sub h d a b, .mul h d a b, .mulh h d a b k, .and h d a b, .or h d a b, .xor h d a b, .andn h d a b,
        .shl h d a b, .shr h d a b k, .rot h d a b, .min h d a b k, .max h d a b k, .clz h d a, .ctz h d a, .popc h d a,
        .addi h d a m, .muli h d a m, .andi h d a m, .ori h d a m, .xori h d a m, .shli h d a n, .shri h d a n k, .li h d m,
        .sext h d a n, .ext h d a m n, .exts h d a m n, .ins h d a m n, .fsh h d a b n, .cmp h d a b k, .seqi h d a m,
        .slti h d a m, .sltui h d a m, .sel h d a b k, .crng h d a b, .semrd h n d, .tokrd h m n d, .errrd h d n k],
      WritesRegister i h d := by
  simp only [List.forall_mem_cons]
  exact ⟨.two fun _ => exec_add .., .two fun _ => exec_sub .., .two fun _ => exec_mul .., .two fun _ => exec_mulh ..,
    .two fun _ => exec_and .., .two fun _ => exec_or .., .two fun _ => exec_xor .., .two fun _ => exec_andn ..,
    .two fun _ => exec_shl .., .two fun _ => exec_shr .., .two fun _ => exec_rot .., .two fun _ => exec_min ..,
    .two fun _ => exec_max .., .one fun _ => exec_clz .., .one fun _ => exec_ctz .., .one fun _ => exec_popc ..,
    .one fun _ => exec_addi .., .one fun _ => exec_muli .., .one fun _ => exec_andi .., .one fun _ => exec_ori ..,
    .one fun _ => exec_xori .., .one fun _ => exec_shli .., .one fun _ => exec_shri .., .value fun _ => exec_li ..,
    .one fun _ => exec_sext .., .one fun _ => exec_ext .., .one fun _ => exec_exts .., .two fun _ => exec_ins ..,
    .two fun _ => exec_fsh .., .two fun _ => exec_cmp .., .one fun _ => exec_seqi .., .one fun _ => exec_slti ..,
    .one fun _ => exec_sltui .., .value fun _ => exec_sel .., .two fun _ => exec_crng .., .sample fun _ => exec_semrd ..,
    .sample fun _ => exec_tokrd .., .value fun _ => exec_errrd .., List.forall_mem_nil _⟩

/-! The division words. -/

theorem State.updTile_updTile (s : State) (t : Nat) (f k : Tile → Tile) : (s.updTile t f).updTile t k = s.updTile t (k ∘ f) := by
  unfold State.updTile
  rw [State.setTile_tile]
  simp only [State.setTile, FM.set_set, Function.comp]

/-- Taking the divider changes nothing that a signal or the next word reads. -/
theorem useDivider_moves (s : State) (t c sig l : Nat) :
    ((s.useDivider t c).signalIn t 0 c sig l none).ctlNext t c 1 =
      ((s.signalIn t 0 c sig l none).ctlNext t c 1).useDivider t c := by
  have signal : (s.useDivider t c).signalIn t 0 c sig l none = (s.signalIn t 0 c sig l none).useDivider t c := by
    have clk : ((s.useDivider t c).tile t).clk = (s.tile t).clk := by
      rw [State.useDivider, State.updTile_tile]
      split <;> rfl
    unfold State.signalIn
    split
    · rfl
    · rw [State.flyTile, State.flyTile, clk]
      rfl
  rw [signal]
  simp only [State.ctlNext, State.updCc, State.useDivider, State.updTile_updTile, State.updTile_tile]
  refine congrArg (State.updTile _ t) (funext fun T => ?_)
  by_cases first : c = 0 <;> simp [first, Tile.setCc, Tile.cc]

/-- Taking a divider changes the times of the dividers alone. -/
theorem useDivider_eq (s : State) (t c : Nat) : s.useDivider t c = s.updTile t fun T =>
    { T with divA := ((s.useDivider t c).tile t).divA, divB := ((s.useDivider t c).tile t).divB } := by
  simp only [State.useDivider, State.updTile_tile]
  refine congrArg (s.setTile t) ?_
  by_cases first : c = 0 <;> simp [first]

/-- A division word that does not trap writes its register and takes the divider. -/
theorem ctlDivide_frame {s u w : State} {t c : Nat} {h : Hdr} (g : CtlGoes s t c h w) (rem : Bool) (d a b k : Nat)
    (passes : (s.sreg t c b).v ≠ 0 ∨ s.dz t c = false) (ends : ctlDivide rem h d a b k s = .next u) :
    ∃ v, CtlFrame s v t c [d] ∧ (u = v ∨ u = v.updTile t fun T => { T with divA := (u.tile t).divA, divB := (u.tile t).divB }) := by
  by_cases free : (s.tile t).divFree c ≤ (s.tile t).clk
  · rw [ctlDivide_goes g rem d a b k free passes] at ends
    cases ends
    have did (x : RegV) (flag : Nat) : (ctlDid s w t c h 20 fun u => (u.putS t c d x 20 flag).useDivider t c) =
        (ctlWrote s w t c h d 20 x flag).useDivider t c := useDivider_moves ..
    rw [did]
    exact ⟨_, ctlWrote_frame g d 20 _ _, .inr (useDivider_eq _ t c)⟩
  · rw [ctlDivide_held g rem d a b k (Nat.lt_of_not_le free)] at ends
    cases ends
    exact ⟨s, .refl .., .inl rfl⟩

end Sys2Proof.Machine
end

section
namespace Sys2Proof.Machine

/-! ### What the words with effects in flight or elsewhere leave alone -/

theorem CtlFrame.stays {s u : State} {t c : Nat} {ds : List Nat} (f : CtlFrame s u t c ds) : CtlStays s u t :=
  ⟨f.memory, f.device, f.others, fun d => (f.regs d).regs, f.tile⟩

theorem SyncStep.stays {s u : State} {t : Nat} (st : SyncStep s u t) : CtlStays s u t :=
  ⟨st.memory, st.device, st.others, fun d => congrArg CtlCtx.regs (st.sameCc d), st.tile.1⟩

namespace CtlStays
variable {s v u : State} {t : Nat}

theorem trans (a : CtlStays s v t) (b : CtlStays v u t) : CtlStays s u t :=
  ⟨a.memory.trans b.memory, a.device.trans b.device, a.others.trans b.others, fun d => (b.regs d).trans (a.regs d), a.tile.trans b.tile⟩

theorem refl (s : State) (t : Nat) : CtlStays s s t := (SyncStep.refl s t).stays

theorem fly (st : CtlStays s u t) (clk : Clk) (due : Nat) (fl : Fl) : CtlStays s (u.fly clk due fl) t :=
  st.trans ((SyncStep.refl u t).fly clk due fl).stays

theorem takeFree (st : CtlStays s u t) : CtlStays s (takeFree u).2 t := st.trans (SyncStep.refl u t).takeFree.stays

theorem updCc (st : CtlStays s u t) (c : Nat) {f : CtlCtx → CtlCtx} (regs : (f (u.cc t c)).regs = (u.cc t c).regs) :
    CtlStays s (u.updCc t c f) t := by
  refine st.trans ⟨.of_eq rfl rfl rfl, .setTile u t _, .setTile u t _, fun d => ?_, ?_⟩
  · by_cases own : d = c
    · rw [own, State.updCc_cc, regs]
    · rw [State.updCc_other u t f own]
  · rw [State.updCc, State.updTile_tile]
    rfl

theorem ctlNext (st : CtlStays s u t) (c l : Nat) : CtlStays s (u.ctlNext t c l) t := st.updCc c rfl

theorem branch (st : CtlStays s u t) (c target l : Nat) : CtlStays s (u.branch t c target l) t := (st.ctlNext c l).updCc c rfl

theorem putS (st : CtlStays s u t) (c d : Nat) (v : RegV) (l flag : Nat) : CtlStays s (u.putS t c d v l flag) t :=
  st.trans (CtlFrame.putS u t c (List.mem_singleton.mpr rfl) v l flag).stays

theorem linkS (st : CtlStays s u t) (c r target : Nat) (v : RegV) : CtlStays s (u.linkS t c r target v) t := by
  unfold State.linkS
  split
  · exact st.putS c r v 1 0
  · exact st

theorem signalIn (st : CtlStays s u t) (c sig l : Nat) : CtlStays s (u.signalIn t 0 c sig l none) t :=
  st.trans (CtlFrame.signalIn u t c sig l []).stays

theorem signalNow (st : CtlStays s u t) (c sig : Nat) (pois : Option (Nat × Nat)) : CtlStays s (u.signalNow t 0 c sig pois) t :=
  st.trans (SyncStep.signalNow u t 0 c sig pois).stays

theorem sendHome (st : CtlStays s u t) (slot what a b : Nat) (pois : Option (Nat × Nat)) (sig c scope : Nat) :
    CtlStays s (u.sendHome t slot what a b pois sig c scope) t := st.trans ((SyncStep.refl u t).sendHome ..).stays

theorem post (st : CtlStays s u t) (c sig op l : Nat) (vs : List Nat) : CtlStays s (u.post t c sig op l vs) t :=
  (st.ctlNext c 1).fly ..

theorem await (st : CtlStays s u t) (c d sig op l : Nat) (vs : List Nat) : CtlStays s (u.await t c d sig op l vs) t :=
  ((st.ctlNext c 1).updCc c rfl).fly ..

theorem holdSc (st : CtlStays s u t) (c sig op order : Nat) : CtlStays s (u.holdSc t c sig op order) t := by
  unfold State.holdSc
  split
  · exact st.updCc c rfl
  · exact st

/-- A trap at level 0 or 1 (16 R422). -/
theorem wordTrap (s : State) {t c : Nat} (cause : Nat) (val : Word) (level : (s.cc t c).tlvl < 2) :
    CtlStays s (s.wordTrap t c cause val) t := by
  unfold State.wordTrap State.trap
  rw [if_neg (by omega)]
  exact (refl s t).updCc c rfl

end CtlStays

/-- A control-core word is held or traps, which changes no register, or has its effect after its wait. -/
theorem ctlIssue_ends {s u w : State} {t c : Nat} {h : Hdr} (g : CtlGoes s t c h w) (level : (s.cc t c).tlvl < 2) {k : CtlChecks}
    {eff : Nat → Nat → Nat → State → State} (hold : k.hold s t c = none) (plain : ∀ v, k.onTrap v t c = v)
    (ends : ctlIssue h s k eff = .next u) :
    CtlStays s u t ∨ u = eff t c ((s.tile t).resolveSig h.sig) (w.observe t c h.wait) := by
  cases dec : k.dec s t c with
  | some cause =>
    rw [ctlIssue_limit g k eff level dec] at ends
    cases ends
    exact .inl (.wordTrap s cause _ level)
  | none =>
    cases busy : k.busy s t c with
    | true =>
      rw [ctlIssue_busy g k eff dec busy] at ends
      cases ends
      exact .inl (.refl s t)
    | false =>
      cases chk : k.chk s t c with
      | some r =>
        obtain ⟨cause, val⟩ := r
        rw [ctlIssue_traps g k eff dec busy hold chk, plain] at ends
        rw [(of_finish_eq_next ends).1]
        exact .inl (.wordTrap s cause val level)
      | none =>
        rw [ctlIssue_goes g k eff dec busy hold chk] at ends
        exact .inr (of_finish_eq_next ends).1

theorem ctlIssue_stays {s u w : State} {t c : Nat} {h : Hdr} (g : CtlGoes s t c h w) (level : (s.cc t c).tlvl < 2) {k : CtlChecks}
    {eff : Nat → Nat → Nat → State → State} (hold : k.hold s t c = none) (plain : ∀ v, k.onTrap v t c = v)
    (stays : ∀ v sig, CtlStays s v t → CtlStays s (eff t c sig v) t) (ends : ctlIssue h s k eff = .next u) : CtlStays s u t := by
  obtain st | effect := ctlIssue_ends g level hold plain ends
  · exact st
  · exact effect ▸ stays _ _ g.syncStep.stays

/-- A word whose effect lands a tc later. -/
theorem ctlLater_stays {s u w : State} {t c : Nat} {h : Hdr} (g : CtlGoes s t c h w) (level : (s.cc t c).tlvl < 2) {k : CtlChecks}
    {fl : State → Nat → Nat → Fl} (hold : k.hold s t c = none) (plain : ∀ v, k.onTrap v t c = v)
    (ends : ctlLater h s k fl = .next u) : CtlStays s u t :=
  ctlIssue_stays g level hold plain (fun _ _ st => ((st.fly ..).signalIn ..).ctlNext ..) ends

/-- RINGP and RINGP.2. -/
theorem ringPush_stays {s u w : State} {t c : Nat} {h : Hdr} (g : CtlGoes s t c h w) (level : (s.cc t c).tlvl < 2) {d e : Nat}
    {rs : List Nat} (ends : ringPush h d rs e s = .next u) : CtlStays s u t :=
  ctlIssue_stays g level rfl (fun _ => rfl) (fun _ _ st => (((st.fly ..).signalIn ..).putS ..).ctlNext ..) ends

/-- What BSFLUSH and BSINV send. -/
theorem bankWord_stays {s u w : State} {t c : Nat} {h : Hdr} (g : CtlGoes s t c h w) (level : (s.cc t c).tlvl < 2)
    {op col foreign first count : Nat} (ends : bankWord h op col foreign first count s = .next u) : CtlStays s u t := by
  refine ctlIssue_stays g level rfl (fun _ => rfl) (fun v sig st => ?_) ends
  refine iteInduction (motive := fun x => CtlStays s x t) (fun _ => (st.ctlNext ..).signalNow ..) fun _ => ?_
  have drawn (p : Prop) [Decidable p] : CtlStays s (if p then v.atLeast 260 else takeIn 1 576 v).2 t := by
    split <;> exact st.takeFree
  exact (drawn _).post ..

theorem tileWord_stays {s u w : State} {t c : Nat} {h : Hdr} (g : CtlGoes s t c h w) (level : (s.cc t c).tlvl < 2)
    {op row col arg : Nat} (ends : tileWord h op row col arg s = .next u) : CtlStays s u t :=
  ctlIssue_stays g level rfl (fun _ => rfl) (fun _ _ st => st.takeFree.post ..) ends

theorem binitWide_stays {s u w : State} {t c : Nat} {h : Hdr} (g : CtlGoes s t c h w) (level : (s.cc t c).tlvl < 2)
    {slot scope home target : Nat} (ends : binitWide h slot scope home target s = .next u) : CtlStays s u t :=
  ctlIssue_stays g level rfl (fun _ => rfl) (fun _ _ st => (st.ctlNext ..).sendHome ..) ends

theorem execB_stays {s u w : State} {t c : Nat} {h : Hdr} (g : CtlGoes s t c h w) (level : (s.cc t c).tlvl < 2) {k a m : Nat}
    (ends : execB h k a m s = .next u) : CtlStays s u t := by
  refine ctlIssue_stays g level rfl (fun _ => rfl) (fun v sig st => .signalNow ?_ ..) ends
  split
  · exact st.branch ..
  · exact st.ctlNext ..

theorem execLoop_stays {s u w : State} {t c : Nat} {h : Hdr} (g : CtlGoes s t c h w) (level : (s.cc t c).tlvl < 2) {a m : Nat}
    (ends : execLoop h a m s = .next u) : CtlStays s u t := by
  refine ctlIssue_stays g level rfl (fun _ => rfl) (fun v sig st => ?_) ends
  dsimp only
  split
  · exact ((st.linkS ..).signalIn ..).branch ..
  · exact ((st.putS ..).signalIn ..).ctlNext ..

theorem execNop_stays {s u w : State} {t c : Nat} {h : Hdr} (g : CtlGoes s t c h w) (level : (s.cc t c).tlvl < 2)
    (ends : execNop h s = .next u) : CtlStays s u t := by
  simp only [execNop, g.agent] at ends
  exact ctlIssue_stays g level rfl (fun _ => rfl) (fun v sig st => (st.ctlNext ..).signalNow ..) ends

theorem execSnaprd_stays {s u w : State} {t c : Nat} {h : Hdr} (g : CtlGoes s t c h w) (level : (s.cc t c).tlvl < 2) {d n row col : Nat}
    (ends : execSnaprd h d n row col s = .next u) : CtlStays s u t := by
  refine ctlIssue_stays g level rfl (fun _ => rfl) (fun v sig st => ?_) ends
  dsimp only
  split
  · exact ((st.putS ..).signalIn ..).ctlNext ..
  · exact st.takeFree.await ..

/-- STEST has issued, and its answer is on its way. -/
def stestSent (v : State) (t c d sig eng part : Nat) : State :=
  (((takeIn 1 4096 v).2.ctlNext t c 1).updCc t c fun x => { x with rmt := some ⟨d, sig, 0x53⟩ }).flyTile t (takeIn 1 4096 v).1
    (.remote t c ⟨d, sig, 0x53⟩ [eng, part])

/-- STEST of a ring-fed engine marks its unit as under test, besides. -/
theorem execStest_stays {s u w : State} {t c : Nat} {h : Hdr} (g : CtlGoes s t c h w) (level : (s.cc t c).tlvl < 2) {d k m : Nat}
    (ends : execStest h d (k + 1) m s = .next u) :
    ∃ v, CtlStays s v t ∧ (u = v ∨ u = v.updTile t fun T => { T with testing := (u.tile t).testing }) := by
  obtain st | effect := ctlIssue_ends g level rfl (fun _ => rfl) ends
  · exact ⟨u, st, .inl rfl⟩
  · refine ⟨stestSent (w.observe t c h.wait) t c d ((s.tile t).resolveSig h.sig) (k + 1) m,
      ((g.syncStep.stays.takeFree.ctlNext c 1).updCc c rfl).fly .., .inr ?_⟩
    have marks : u = (stestSent (w.observe t c h.wait) t c d ((s.tile t).resolveSig h.sig) (k + 1) m).updTile t fun T =>
        { T with testing := FM.set T.testing (unitOf (k + 1) m) (0, s.tc + (takeIn 1 4096 (w.observe t c h.wait)).1, 0) } := effect
    rw [marks, State.updTile_tile]
    rfl

/-- Settles O36: `WritesRegister.frame` and `ctlDivide_frame` for the words that write a register, `ctlIssue_stays` for the
effect of each of the others. -/
theorem controlWordsFrame : Obligations.ControlWordsFrame := by
  refine ⟨fun s u w t c h d a b k m n g => ⟨fun i mem => (controlWords_writeRegister h d a b k m n i mem).frame g, fun passes => ?_⟩,
    fun s u w t c h d a b k m n g level => ⟨?_, fun ends => execStest_stays g level ((exec_stest ..).symm.trans ends)⟩⟩
  · simp only [List.forall_mem_cons, exec_div, exec_rem]
    exact ⟨ctlDivide_frame g false d a b k passes, ctlDivide_frame g true d a b k passes, List.forall_mem_nil _⟩
  · simp only [List.forall_mem_cons, exec_b, exec_jmp, exec_call, exec_callr, exec_ret, exec_loop, exec_nop, exec_trap, exec_tret, exec_done,
      exec_ringp, exec_ringp2, exec_ringq, exec_fork, exec_semset, exec_bhmap, exec_mtwr, exec_sysrd, exec_syswr, exec_binitTile,
      exec_binitCol, exec_binitDev, exec_launch, exec_preemptStop, exec_preemptResume, exec_ctxkill, exec_bsflush, exec_bsinv,
      exec_snaprd, exec_snapwr, exec_trde, exec_tunmap, exec_tshd, exec_tprb, execRingq_eq, execFork_eq, execSyswr_eq]
    exact ⟨execB_stays g level,
      ctlIssue_stays g level rfl (fun _ => rfl) fun _ _ st => (st.branch ..).signalNow ..,
      ctlIssue_stays g level rfl (fun _ => rfl) fun _ _ st => ((st.linkS ..).signalIn ..).branch ..,
      ctlIssue_stays g level rfl (fun _ => rfl) fun _ _ st => ((st.linkS ..).signalIn ..).branch ..,
      ctlIssue_stays g level rfl (fun _ => rfl) fun _ _ st => (st.branch ..).signalNow ..,
      execLoop_stays g level, execNop_stays g level,
      ctlIssue_stays g level rfl (fun _ => rfl) fun _ _ _ => .wordTrap s k _ level,
      ctlIssue_stays g level rfl (fun _ => rfl) fun _ _ st => (st.updCc c rfl).signalNow ..,
      ctlIssue_stays g level rfl (fun _ => rfl) fun _ _ st => st.updCc c rfl,
      ringPush_stays g level, ringPush_stays g level,
      ctlIssue_stays g level rfl (fun _ => rfl) fun _ _ st => ((st.putS ..).signalIn ..).ctlNext ..,
      ctlLater_stays g level rfl fun _ => rfl, ctlLater_stays g level rfl fun _ => rfl, ctlLater_stays g level rfl fun _ => rfl,
      ctlLater_stays g level rfl fun _ => rfl,
      ctlIssue_stays g level rfl (fun _ => rfl) fun _ _ st => ((st.putS ..).signalIn ..).ctlNext ..,
      ctlLater_stays g level rfl fun _ => rfl, ctlLater_stays g level rfl fun _ => rfl, binitWide_stays g level, binitWide_stays g level,
      ctlIssue_stays g level rfl (fun _ => rfl) fun _ _ st => ((st.takeFree.ctlNext ..).fly ..).holdSc ..,
      tileWord_stays g level, tileWord_stays g level,
      ctlIssue_stays g level rfl (fun _ => rfl) fun _ _ st => st.takeFree.post ..,
      bankWord_stays g level, bankWord_stays g level, execSnaprd_stays g level,
      ctlIssue_stays g level rfl (fun _ => rfl) fun _ _ st => st.takeFree.post ..,
      ctlIssue_stays g level rfl (fun _ => rfl) fun _ _ st => st.takeFree.await ..,
      ctlIssue_stays g level rfl (fun _ => rfl) fun _ _ st => st.takeFree.await ..,
      ctlIssue_stays g level rfl (fun _ => rfl) fun _ _ st => st.takeFree.await ..,
      ctlIssue_stays g level rfl (fun _ => rfl) fun _ _ st => ((st.putS ..).signalIn ..).ctlNext .., List.forall_mem_nil _⟩

end Sys2Proof.Machine
end

section
namespace Sys2Proof.Machine

/-! ### Pending writes that land (04 R97; 06 R162, R168) -/

theorem mbit_eq (m : MReg) (i j : Nat) : mbit m i j = m.getLsbD (64 * i + j) := by
  rw [mbit, ← BitVec.testBit_toNat, Nat.testBit_eq_decide_div_mod_eq]
  exact beq_eq_decide ..

theorem mbit_fullMask {i j : Nat} (hi : i < 16) (hj : j < 64) : mbit fullMask i j = true := by
  rw [mbit_eq, fullMask, BitVec.getLsbD_allOnes]
  exact decide_eq_true (by omega)

theorem lane_lt (v : VReg) (i j : Nat) : lane v i j < 2 ^ 32 := Nat.mod_lt _ (Nat.two_pow_pos 32)

/-- What a masked write leaves of the lanes: the new ones where the mask has its bit. -/
theorem lane_merge (m : MReg) (new old : VReg) {i j : Nat} (hi : i < 16) (hj : j < 64) :
    lane (buildV fun i j => if mbit m i j then lane new i j else lane old i j) i j =
      if mbit m i j then lane new i j else lane old i j := by
  rw [lane_buildV _ hi hj]
  split <;> exact Nat.mod_eq_of_lt (lane_lt ..)

theorem mbit_merge (m new old : MReg) {i j : Nat} (hi : i < 16) (hj : j < 64) :
    mbit ((new &&& m) ||| (old &&& ~~~m)) i j = if mbit m i j then mbit new i j else mbit old i j := by
  have inside : 64 * i + j < 1024 := by omega
  simp only [mbit_eq, BitVec.getLsbD_or, BitVec.getLsbD_and, BitVec.getLsbD_not, inside, decide_true, Bool.true_and]
  cases m.getLsbD (64 * i + j) <;> simp

@[simp] theorem State.orFlags_zero (s : State) (t e : Nat) : s.orFlags t e 0 = s := rfl

/-- Sticky flags gather, and change nothing else of the tile. -/
theorem State.orFlags_tile (s : State) (t e b : Nat) : (s.orFlags t e b).tile t = { s.tile t with eflag := ((s.orFlags t e b).tile t).eflag } ∧
    FM.get 0 ((s.orFlags t e b).tile t).eflag e = FM.get 0 (s.tile t).eflag e ||| b := by
  unfold State.orFlags
  split
  · next none => exact ⟨rfl, by rw [none, Nat.or_zero]⟩
  · rw [State.updTile_tile]
    exact ⟨rfl, FM.get_set_same ..⟩

@[simp] theorem State.land_tile (s : State) (id t : Nat) : (s.land id).tile t = s.tile t := rfl

/-- What is due lands, where nothing beyond device memory was reached. -/
theorem pendingWriteLands_eq {s : State} {id due : Nat} {clk : Clk} {fl : Fl} (found : s.flight? id = some ⟨id, clk, due, fl⟩)
    (sound : (s.landing id fl).bad = none) : exec (.pendingWriteLands id) s = .next (s.landing id fl) := by
  rw [exec_pendingWriteLands, execPendingWriteLands, found]
  exact finish_eq_next sound

/-- A register write that lands, without flags. -/
theorem landing_sreg (s : State) (id t c : Nat) {r : Nat} (x : RegV) (named : r ≠ 0) :
    s.landing id (.sreg t c r x 0) = (s.land id).updCc t c fun y => { y with regs := FM.set y.regs r x } := by
  rw [State.landing, if_neg named, State.orFlags_zero]

theorem sreg_lands {s : State} (id t c : Nat) {r : Nat} (x : RegV) (named : r ≠ 0) :
    let u := (s.land id).updCc t c fun y => { y with regs := FM.set y.regs r x }
    u.sreg t c r = x ∧ ∀ d, d ≠ r → u.sreg t c d = s.sreg t c d := by
  refine ⟨?_, fun d other => ?_⟩
  · rw [State.sreg, if_neg named, State.updCc_cc]
    exact FM.get_set_same ..
  · unfold State.sreg
    rw [State.updCc_cc]
    by_cases zero : d = 0
    · rw [if_pos zero, if_pos zero]
    · rw [if_neg zero, if_neg zero]
      exact FM.get_set_other _ _ _ other

theorem State.clearRmt_bad (s : State) (t c op : Nat) : (s.clearRmt t c op).bad = s.bad := by
  have task (f : Tile → Tile) : (s.updTask t f).bad = s.bad := by
    unfold State.updTask
    split <;> rfl
  unfold State.clearRmt
  split
  · rfl
  · split
    · split
      · rfl
      · exact task _
    · split
      · exact task _
      · rfl

/-- A vector write that lands: the lanes of its mask, and the old poison where the write is partial. -/
theorem landV_vreg (s : State) (t r : Nat) (m : MReg) (x : VVal) :
    (∀ i j, i < 16 → j < 64 → lane (((s.landV t r m x).tile t).vreg r).v i j =
      if mbit m i j then lane x.v i j else lane ((s.tile t).vreg r).v i j) ∧
    (((s.landV t r m x).tile t).vreg r).p = (x.p || (decide (m ≠ fullMask) && ((s.tile t).vreg r).p)) ∧
    ∀ q, q ≠ r → ((s.landV t r m x).tile t).vreg q = (s.tile t).vreg q := by
  have other (T : Tile) (q : Nat) (v : VVal) (ds : List Nat) (ne : q ≠ r) :
      ({ T with vregs := FM.set T.vregs r v, dirty := ds } : Tile).vreg q = T.vreg q := FM.get_set_other _ _ _ ne
  have own (T : Tile) (v : VVal) (ds : List Nat) : ({ T with vregs := FM.set T.vregs r v, dirty := ds } : Tile).vreg r = v :=
    FM.get_set_same ..
  rw [State.landV, State.updTile_tile]
  dsimp only
  refine ⟨fun i j hi hj => ?_, ?_, fun q ne => other _ q _ _ ne⟩ <;> rw [own]
  · by_cases full : m = fullMask
    · rw [if_pos full, full, mbit_fullMask hi hj, if_pos rfl]
    · rw [if_neg full, lane_merge m x.v _ hi hj]
  · by_cases full : m = fullMask <;> simp [full]

/-- A mask write that lands. -/
theorem landM_mreg (s : State) (t r : Nat) (m : MReg) (x : MVal) :
    (∀ i j, i < 16 → j < 64 → mbit (((s.landM t r m x).tile t).mreg r).v i j =
      if mbit m i j then mbit x.v i j else mbit ((s.tile t).mreg r).v i j) ∧
    (((s.landM t r m x).tile t).mreg r).p = (x.p || (decide (m ≠ fullMask) && ((s.tile t).mreg r).p)) ∧
    ∀ q, q ≠ r → ((s.landM t r m x).tile t).mreg q = (s.tile t).mreg q := by
  have other (T : Tile) (q : Nat) (v : MVal) (ne : q ≠ r) :
      ({ T with mregs := FM.set T.mregs r v } : Tile).mreg q = T.mreg q := FM.get_set_other _ _ _ ne
  have own (T : Tile) (v : MVal) : ({ T with mregs := FM.set T.mregs r v } : Tile).mreg r = v := FM.get_set_same ..
  rw [State.landM, State.updTile_tile]
  dsimp only
  refine ⟨fun i j hi hj => ?_, ?_, fun q ne => other _ q _ ne⟩ <;> rw [own]
  · by_cases full : m = fullMask
    · rw [if_pos full, full, mbit_fullMask hi hj, if_pos rfl]
    · rw [if_neg full, mbit_merge m x.v _ hi hj]
  · by_cases full : m = fullMask <;> simp [full]

/-- A queue's entry is filled by its index; the other queues stand. -/
theorem setQueue_fill (T : Tile) (q i : Nat) (x : VVal) :
    ((T.setQueue q ((T.queue q).fill i x)).queue q).ents =
      (T.queue q).ents.map (fun y => if y.idx = i ∧ y.data = none then { y with data := some x } else y) ∧
    ∀ k, k % 1024 ≠ q % 1024 → (T.setQueue q ((T.queue q).fill i x)).queue k = T.queue k := by
  refine ⟨?_, fun k ne => FM.get_set_other _ _ _ ne⟩
  rw [Tile.setQueue, Tile.queue, FM.get_set_same]
  simp [Queue.fill]

/-- The answer of a word that another unit performed. -/
theorem landing_answer (s : State) (id t c v p : Nat) {r : Remote} (op : r.op = 0) (named : r.dst ≠ 0) :
    s.landing id (.remote t c r [v, p]) = (((s.land id).updCc t c fun y => { y with
      regs := FM.set y.regs r.dst ⟨w64 v, p == 1⟩ }).signalNow t 0 c r.sig none).clearRmt t c 0 := by
  have free : s.remoteWaits id t c r [v, p] = false := by simp only [State.remoteWaits, op]
  simp only [State.landing, State.remoteTurn, State.remotePerform, free, op]
  simp [named]

/-- An a-register write that lands, without flags. -/
theorem landing_areg (s : State) (id t r : Nat) (x : RegV) :
    let u := s.landing id (.areg t r x 0)
    u.areg t r = x ∧ (∀ d, d ≠ r → u.areg t d = s.areg t d) ∧ u.tile t = { s.tile t with aregs := (u.tile t).aregs } ∧
      SameOthers s u t := by
  have tile : (s.landing id (.areg t r x 0)).tile t = { s.tile t with aregs := FM.set (s.tile t).aregs r x } := by
    rw [State.landing, State.orFlags_zero, State.updTile_tile]
    rfl
  refine ⟨?_, fun d ne => ?_, ?_, .setTile (s.land id) t _⟩
  · rw [State.areg, tile]
    exact FM.get_set_same ..
  · rw [State.areg, tile]
    exact FM.get_set_other _ _ _ ne
  · rw [tile]

/-! ### Engine faults and EFLT (16 R422, R424, R425) -/

/-- What TSTATE holds of an engine fault, which is never imprecise (16 R419). -/
theorem faultEntry_bits (e off : Nat) (pfx wdone : Bool) :
    bit true 8 + e * 2 ^ 9 + bit pfx 12 + bit false 13 + off * 2 ^ 16 + bit wdone 30 =
      2 ^ 8 + e * 2 ^ 9 + (if pfx then 2 ^ 12 else 0) + off * 2 ^ 16 + (if wdone then 2 ^ 30 else 0) := by
  have ring : bit true 8 = 2 ^ 8 := if_pos rfl
  have precise : bit false 13 = 0 := if_neg Bool.false_ne_true
  rw [ring, precise, Nat.add_zero, bit, bit]

/-- The trap of a waiting engine fault. -/
theorem engineFault_taken {s : State} {t e : Nat} {f : Fault0} (sound : s.bad = none) (pending : (s.tile t).pendingFault = some (e, f))
    (takes : s.takesFaults t = true) :
    let w := (s.updEng t e fun y => { y with pend := false }).updTile t fun T => { T with endSig := none }
    ∃ u, exec (.engineFaultDelivery t) s = .next u ∧
      TrapTaken w u t 0 f.cause ((s.cc t 0).latch.start.getD (s.cc t 0).pc) f.tval (2 ^ 8 + e * 2 ^ 9 + (if f.pfx then 2 ^ 12 else 0) +
        f.roff % 8192 * 2 ^ 16 + (if f.wdone then 2 ^ 30 else 0)) := by
  intro w
  have same : w.cc t 0 = s.cc t 0 := by
    simp only [w, State.cc, State.updEng, State.updTile_tile]
    rfl
  have level : (w.cc t 0).tlvl < 2 := by
    rw [same]
    simp only [State.takesFaults, Bool.and_eq_true, beq_iff_eq] at takes
    omega
  have delivers : s.deliverFault t = w.trap t 0 f.cause ((s.cc t 0).latch.start.getD (s.cc t 0).pc) f.tval
      ⟨true, e, f.pfx, false, f.roff, f.wdone⟩ := by
    simp only [State.deliverFault, pending, takes]
    rfl
  refine ⟨_, ?_, faultEntry_bits e (f.roff % 8192) f.pfx f.wdone ▸
    trap_taken (i := ⟨true, e, f.pfx, false, f.roff, f.wdone⟩) level⟩
  rw [exec_engineFaultDelivery, execEngineFaultDelivery, delivers]
  exact finish_eq_next (trap_bad sound level)

theorem engineFault_waits {s : State} {t e : Nat} {f : Fault0} (sound : s.bad = none) (pending : (s.tile t).pendingFault = some (e, f))
    (waits : s.takesFaults t = false) : exec (.engineFaultDelivery t) s = .next s := by
  rw [exec_engineFaultDelivery, execEngineFaultDelivery, State.deliverFault, pending]
  simp [waits, finish_eq_next sound]

/-- The engines but the copy engine have nothing else to restart. -/
theorem cpyRestart_other (s : State) (t : Nat) {e : Nat} (skip : Bool) (other : e ≠ 5) : s.cpyRestart t e skip = s := by
  rw [State.cpyRestart, if_pos other]

/-- An engine executes the kept group of the fault that it stood at again. -/
def Eng.restarts (clk : Nat) (f : Fault0) (x : Eng) : Eng := { x with
  stop := false, latch := .empty, waitFrom := none, waitDone := f.wdone && !f.group.isEmpty
  again := f.group ++ x.again, nextAt := max x.nextAt clk }

/-- rst of EFLT on an engine that stands at a fault. -/
theorem efltRst_eq {s : State} {t e : Nat} {f : Fault0} (other : e ≠ 5) (acts : (s.tile t).efltActs e = true)
    (fault : ((s.tile t).engine e).fault = some f) :
    s.efltRst t e = (s.landEflt t e).updEng t e (Eng.restarts (s.tile t).clk f) := by
  have kept : (s.landEflt t e).tile t = s.tile t := rfl
  simp only [State.efltRst, kept, acts, cpyRestart_other _ t false other]
  simp [State.updEng, State.updTile, kept, fault, Eng.restarts]

/-- Past a word that its ring holds, the head moves on. -/
theorem passSource_head {s : State} {t e : Nat} (ring : ((s.tile t).engine e).routine = none) :
    (((s.passSource t e).tile t).ring e).head = (((s.tile t).ring e).head + 1) % (2 * ((s.tile t).ring e).cap) := by
  simp only [State.passSource, ring, State.setTile_tile]
  rw [Tile.ring, FM.get_set_same]

/-- An engine goes on past the fault that it stood at. -/
def Eng.skips (clk : Nat) (x : Eng) : Eng :=
  { x with stop := false, latch := .empty, waitFrom := none, waitDone := false, fault := none, nextAt := max x.nextAt clk }

/-- skip of EFLT on an engine that stands at a fault. -/
theorem efltSkip_eq {s : State} {t e : Nat} {f : Fault0} (other : e ≠ 5) (acts : (s.tile t).efltActs e = true)
    (fault : ((s.tile t).engine e).fault = some f) : s.efltSkip t e =
      if f.begun then (s.landEflt t e).updEng t e (Eng.skips (s.tile t).clk)
      else ((s.landEflt t e).updEng t e (Eng.skips (s.tile t).clk)).passSource t e := by
  have kept : (s.landEflt t e).tile t = s.tile t := rfl
  simp only [State.efltSkip, kept, acts, cpyRestart_other _ t true other, fault]
  rfl

/-! ### Waiting pushes and handlers (02 R32; 04 R125) -/

/-- A push that has taken effect ends at most a command of its engine. -/
theorem Tile.pushSent_sync (T : Tile) (p : PushW) : (T.pushSent p).tq = T.tq ∧ (T.pushSent p).pushes = T.pushes := by
  unfold Tile.pushSent
  repeat' split
  all_goals exact ⟨rfl, rfl⟩

/-- The tile where push `p` has come into queue `q`. -/
def Tile.letIn (T : Tile) (q : Nat) (p : PushW) : Tile :=
  { T.setTq q { T.tqOf q with count := (T.tqOf q).count + 1 } with pushes := T.pushes.erase p }.pushSent p

theorem Tile.letIn_sync (T : Tile) (q : Nat) (p : PushW) :
    (T.letIn q p).tqOf q = { T.tqOf q with count := (T.tqOf q).count + 1 } ∧ (T.letIn q p).pushes = T.pushes.erase p := by
  obtain ⟨queues, pushes⟩ := Tile.pushSent_sync
    { T.setTq q { T.tqOf q with count := (T.tqOf q).count + 1 } with pushes := T.pushes.erase p } p
  refine ⟨?_, pushes⟩
  rw [Tile.tqOf, Tile.letIn, queues]
  exact FM.get_set_same ..

theorem pushWaiting_eq {s : State} {t q : Nat} {p : PushW} (first : (s.tile t).pushes.find? (fun p => 8 * p.prod + p.cons == q) = some p) :
    s.pushWaiting t q = if 63 ≤ ((s.tile t).tqOf q).count then s else (s.setTile t ((s.tile t).letIn q p)).retest t := by
  simp only [State.pushWaiting, tqIndex, first, Tile.letIn]

/-- The handler context that starts is the lowest that may. -/
theorem Tile.freeHandler_eq {T : Tile} {k : Nat} (low : 1 ≤ k) (high : k ≤ 3) (dormant : (T.cc k).run = .dormant)
    (enabled : T.handlerEnabled k = true) (lowest : ∀ j, 1 ≤ j → j < k → (T.cc j).run ≠ .dormant ∨ T.handlerEnabled j = false) :
    T.freeHandler = some k := by
  have free : ((T.cc k).run == .dormant && T.handlerEnabled k) = true := by rw [dormant, enabled]; rfl
  have taken (j : Nat) (first : 1 ≤ j) (below : j < k) : ((T.cc j).run == .dormant && T.handlerEnabled j) = false := by
    rcases lowest j first below with busy | off
    · rw [beq_eq_false_iff_ne.mpr busy, Bool.false_and]
    · rw [off, Bool.and_false]
  obtain rfl | rfl | rfl : k = 1 ∨ k = 2 ∨ k = 3 := by omega
  · simp [Tile.freeHandler, free]
  · simp [Tile.freeHandler, free, taken 1]
  · simp [Tile.freeHandler, free, taken 1, taken 2]

/-- What a handler starts with. -/
def handlerRegs (h : HEntry) : FM RegV := [(1, ⟨w64 h.off, false⟩), (2, ⟨w64 h.len, false⟩), (3, ⟨w64 h.origin, false⟩), (4, ⟨h.arg, false⟩)]

/-- The tile in which handler context `k` has started with entry `h`. -/
def State.handlerAt (s : State) (t k : Nat) (h : HEntry) (hs : List HEntry) : State :=
  s.setTile t { (s.tile t).setCc k { CtlCtx.ended (s.cc t k) with
    regs := handlerRegs h, pc := h.pc, run := .running, nextAt := (s.tile t).clk + 1 } with hq := hs }

theorem startHandler_eq {s : State} {t k : Nat} {h : HEntry} {hs : List HEntry} (queue : (s.tile t).hq = h :: hs)
    (starts : (s.tile t).freeHandler = some k) : s.startHandler t = s.handlerAt t k h hs := by
  simp only [State.startHandler, queue, starts]
  rfl

/-- How a handler starts: s1 to s4 from its entry, every other register 0. -/
theorem handlerStarted (s : State) (t k : Nat) (h : HEntry) (hs : List HEntry) :
    let u := s.handlerAt t k h hs
    (u.tile t).hq = hs ∧ (u.cc t k).run = .running ∧ (u.cc t k).pc = h.pc ∧
      u.sreg t k 1 = ⟨BitVec.ofNat 64 h.off, false⟩ ∧ u.sreg t k 2 = ⟨BitVec.ofNat 64 h.len, false⟩ ∧
      u.sreg t k 3 = ⟨BitVec.ofNat 64 h.origin, false⟩ ∧ u.sreg t k 4 = ⟨h.arg, false⟩ ∧
      (∀ r, 5 ≤ r → u.sreg t k r = RegV.zero) ∧ (u.cc t k).latch = .empty ∧ (u.cc t k).nextAt = (s.tile t).clk + 1 ∧
      (∀ d, d ≠ k → u.cc t d = s.cc t d) ∧ SameMemory s u ∧ SameDevice s u ∧ SameOthers s u t := by
  intro u
  have context : u.cc t k = { CtlCtx.ended (s.cc t k) with
      regs := handlerRegs h, pc := h.pc, run := .running, nextAt := (s.tile t).clk + 1 } := by
    simp only [u, State.handlerAt, State.cc, State.setTile_tile]
    exact FM.get_set_same ..
  have others (d : Nat) (ne : d ≠ k) : u.cc t d = s.cc t d := by
    simp only [u, State.handlerAt, State.cc, State.setTile_tile]
    exact FM.get_set_other _ _ _ ne
  have sreg (r : Nat) : u.sreg t k r = if r = 0 then RegV.zero else FM.get RegV.zero (handlerRegs h) r := by
    rw [State.sreg, context]
  have rest (r : Nat) (high : 5 ≤ r) : FM.get RegV.zero (handlerRegs h) r = RegV.zero := by
    simp [FM.get, handlerRegs, show r ≠ 1 by omega, show r ≠ 2 by omega, show r ≠ 3 by omega, show r ≠ 4 by omega]
  refine ⟨?_, by rw [context], by rw [context], sreg 1, sreg 2, sreg 3, sreg 4, fun r high => ?_, by rw [context]; rfl, by rw [context],
    others, .of_eq rfl rfl rfl, .setTile s t _, .setTile s t _⟩
  · simp only [u, State.handlerAt, State.setTile_tile]
  · rw [sreg, rest r high, ite_self]

theorem Tile.handlerEnabled_iff (T : Tile) (k : Nat) :
    T.handlerEnabled k = true ↔ T.hctl.testBit k = true ∨ (T.cc 0).run = .inDone := by
  rw [Tile.handlerEnabled, Nat.testBit_eq_decide_div_mod_eq, Bool.or_eq_true, beq_iff_eq, beq_iff_eq, decide_eq_true_iff]
  exact or_comm

/-- Settles O37: what each flight does as it lands (`State.landing`), the trap of a waiting engine fault, EFLT's two actions,
and the push and the handler that go next. -/
theorem tileLandings : Obligations.TileLandings := by
  refine ⟨fun s id due clk fl sound found => ?_, fun s t e f sound pending => ?_, fun s t e f sound other acts fault => ?_,
    fun s t q p sound first => ?_, fun s t k h hs sound queue low high dormant enabled lowest => ?_⟩
  · have lands : (s.landing id fl).bad = none → exec (.pendingWriteLands id) s = .next (s.landing id fl) := pendingWriteLands_eq found
    refine ⟨fun t c r x eq named => ?_, fun t c b eq => ?_, fun t r x eq => ?_, fun t r m x b eq => ?_, fun t r m x eq => ?_,
      fun t e q i x eq => ?_, fun t e sig c p eq => ?_, fun t c r v p eq op named => ?_⟩ <;> subst eq
    · rw [landing_sreg s id t c x named] at lands
      obtain ⟨own, other⟩ := sreg_lands (s := s) id t c x named
      exact ⟨_, lands sound, own, other, fun d ne => State.updCc_other _ t _ ne, .of_eq rfl rfl rfl,
        ⟨rfl, rfl, rfl, rfl, rfl, rfl, rfl, rfl, rfl, rfl⟩, fun v ne => State.setTile_other _ _ ne, rfl⟩
    · obtain ⟨rest, flags⟩ := (s.land id).orFlags_tile t 0 b
      exact ⟨(s.land id).orFlags t 0 b, lands ((State.orFlags_bad ..).trans sound), flags, rest⟩
    · exact ⟨_, lands sound, landing_areg s id t r x⟩
    · obtain ⟨lanes, poison, others⟩ := landV_vreg (s.land id) t r m x
      obtain ⟨rest, flags⟩ := ((s.land id).landV t r m x).orFlags_tile t 2 b
      have same (q : Nat) : ((((s.land id).landV t r m x).orFlags t 2 b).tile t).vreg q = (((s.land id).landV t r m x).tile t).vreg q := by
        rw [rest]
        rfl
      refine ⟨_, lands ((State.orFlags_bad ..).trans sound), fun i j hi hj => ?_, ?_, fun q ne => (same q).trans (others q ne), ?_⟩
      · exact (congrArg (fun v : VVal => lane v.v i j) (same r)).trans (lanes i j hi hj)
      · exact (congrArg VVal.p (same r)).trans poison
      · refine flags.trans ?_
        rw [State.landV, State.updTile_tile]
        rfl
    · exact ⟨_, lands sound, landM_mreg (s.land id) t r m x⟩
    · obtain ⟨filled, others⟩ := setQueue_fill (s.tile t) q i x
      refine ⟨_, lands sound, ?_, fun k ne => ?_⟩
      · rw [State.landing, State.landQ, State.orFlags_zero, State.updTile_tile]
        exact filled
      · rw [State.landing, State.landQ, State.orFlags_zero, State.updTile_tile]
        exact others k ne
    · exact lands ((State.signalNow_bad ..).trans sound)
    · rw [landing_answer s id t c v p op named] at lands
      refine ⟨_, lands ?_, ?_⟩
      · rw [State.clearRmt_bad, State.signalNow_bad]
        exact sound
      · exact (sreg_lands (s := s) id t c _ named).1
  · exact ⟨engineFault_taken sound pending, engineFault_waits sound pending⟩
  · refine ⟨⟨(s.landEflt t e).updEng t e (Eng.restarts (s.tile t).clk f), ?_, State.updEng_engine ..⟩,
      fun begun => ⟨(s.landEflt t e).updEng t e (Eng.skips (s.tile t).clk), ?_, State.updEng_engine .., ?_⟩,
      fun begun ring => ⟨((s.landEflt t e).updEng t e (Eng.skips (s.tile t).clk)).passSource t e, ?_, ?_⟩⟩
    · rw [exec_efltRst, execEfltRst, efltRst_eq other acts fault]
      exact finish_eq_next sound
    · rw [exec_efltSkip, execEfltSkip, efltSkip_eq other acts fault, if_pos begun]
      exact finish_eq_next sound
    · rw [State.updEng, State.updTile_tile]
      rfl
    · rw [exec_efltSkip, execEfltSkip, efltSkip_eq other acts fault, if_neg (Bool.eq_false_iff.mp begun)]
      exact finish_eq_next ((State.passSource_bad ..).trans sound)
    · have same : (((s.landEflt t e).updEng t e (Eng.skips (s.tile t).clk)).tile t).ring e = (s.tile t).ring e := by
        rw [State.updEng, State.updTile_tile]
        rfl
      rw [passSource_head, same]
      rw [State.updEng_engine]
      exact ring
  · rw [exec_tokenPushTakesEffect, execTokenPushTakesEffect, pushWaiting_eq first]
    refine ⟨fun room => ⟨(s.setTile t ((s.tile t).letIn q p)).retest t, ?_, ?_⟩, fun full => ?_⟩
    · rw [if_neg (Nat.not_le.mpr room)]
      exact finish_eq_next sound
    · have tile : ((s.setTile t ((s.tile t).letIn q p)).retest t).tile t = (s.tile t).letIn q p := State.setTile_tile ..
      rw [tile]
      exact (s.tile t).letIn_sync q p
    · rw [if_pos full, finish_eq_next sound]
  · have starts := Tile.freeHandler_eq low high dormant ((Tile.handlerEnabled_iff ..).mpr enabled) fun j first below => by
      refine (lowest j first below).imp_right fun off => Bool.eq_false_iff.mpr fun on => ?_
      rcases (Tile.handlerEnabled_iff ..).mp on with bit | done
      · exact Bool.noConfusion (bit.symm.trans off.1)
      · exact off.2 done
    refine ⟨_, ?_, handlerStarted s t k h hs⟩
    rw [exec_handlerStart, execHandlerStart, startHandler_eq queue starts]
    exact finish_eq_next sound

end Sys2Proof.Machine
end

section
namespace Sys2Proof.Machine

/-! ### Launches accepted, and submission entries (14 R379, R395; 18 R451) -/

theorem State.toTile_bad (s : State) (t d : Nat) (fl : Fl) : (s.toTile t d fl).bad = s.bad := by
  unfold State.toTile
  split <;> rfl

theorem State.report_bad (s : State) (t c sig : Nat) : (s.report t c sig).bad = s.bad := by
  unfold State.report
  split
  · rfl
  · exact State.toTile_bad ..

/-- The record of a launch as the dispatcher accepts it, with the context's next number. -/
def State.newLaunch (s : State) (ctx sheaf : Nat) (cw : Option Nat) : Launch :=
  ⟨s.nextLaunch, ctx, sheaf, ((s.context ctx).accepted + 1) % 2 ^ 64, cw,
    (FM.get ⟨[], []⟩ (s.context ctx).sheaves sheaf).nodes.map fun n => ⟨0, 0, false, 0, n.prio⟩, none⟩

/-- What a LAUNCH does as it reaches the dispatcher. -/
theorem launchAcceptance_eq {s : State} {id due t ctx sheaf sig : Nat} {clk : Clk} {cw : Option Nat} {rel sys : Bool}
    (found : s.flight? id = some ⟨id, clk, due, .launch t ctx sheaf cw sig rel sys⟩) :
    exec (.launchAcceptance id) s = finish (
      if (rel && !s.ctlDrained t 0 id) = true then s.refly id (s.tc + 1) (.launch t ctx sheaf cw sig rel sys)
      else if (s.context ctx).tearing then
        (s.land id).setContext ctx { s.context ctx with dropped := ((s.context ctx).dropped + 1) % 2 ^ 32 }
      else ((((if (rel && sys) = true then (s.land id).releaseSystem ctx else s.land id).acceptLaunch ctx sheaf cw).report t 0
        sig).clearRmt t 0 0x41)) := by
  rw [exec_launchAcceptance, execLaunchAcceptance, State.launchArrives, found]
  rfl

/-- The clause of O42 about launches. -/
theorem launches_accepted {s : State} {id due t ctx sheaf sig : Nat} {clk : Clk} {cw : Option Nat} {rel sys : Bool} (sound : s.bad = none)
    (found : s.flight? id = some ⟨id, clk, due, .launch t ctx sheaf cw sig rel sys⟩) :
    let x := s.context ctx
    (rel = true → s.ctlDrained t 0 id = false →
      exec (.launchAcceptance id) s = .next (s.refly id (s.tc + 1) (.launch t ctx sheaf cw sig rel sys))) ∧
    (rel = false ∨ (s.ctlDrained t 0 id = true ∧ sys = false) →
      (x.tearing = true → exec (.launchAcceptance id) s =
        .next ((s.land id).setContext ctx { x with dropped := (x.dropped + 1) % 2 ^ 32 })) ∧
      (x.tearing = false → ∃ (u : State) (l : Launch), exec (.launchAcceptance id) s = .next ((u.report t 0 sig).clearRmt t 0 0x41) ∧
        u.context ctx = { x with accepted := (x.accepted + 1) % 2 ^ 64 } ∧ u.launches = s.launches ++ [l] ∧
        u.nextLaunch = s.nextLaunch + 1 ∧ l.id = s.nextLaunch ∧ l.ctx = ctx ∧ l.sheaf = sheaf ∧ l.cw = cw ∧ l.killed = none ∧
        l.number = (x.accepted + 1) % 2 ^ 64 ∧ l.nodes = (s.sheafOf l).nodes.map fun n => ⟨0, 0, false, 0, n.prio⟩)) := by
  intro x
  rw [launchAcceptance_eq found]
  refine ⟨fun release busy => ?_, fun released => ?_⟩
  · rw [if_pos (by rw [release, busy]; rfl)]
    exact finish_eq_next sound
  · have drained : (rel && !s.ctlDrained t 0 id) = false := by
      rcases released with plain | ⟨drained, -⟩
      · rw [plain, Bool.false_and]
      · rw [drained, Bool.not_true, Bool.and_false]
    have nearby : (rel && sys) = false := by
      rcases released with plain | ⟨-, near⟩
      · rw [plain, Bool.false_and]
      · rw [near, Bool.and_false]
    rw [drained, nearby, if_neg Bool.false_ne_true, if_neg Bool.false_ne_true]
    refine ⟨fun tearing => ?_, fun live => ⟨(s.land id).acceptLaunch ctx sheaf cw, s.newLaunch ctx sheaf cw, ?_, ?_⟩⟩
    · rw [if_pos tearing]
      exact finish_eq_next sound
    · rw [if_neg (Bool.eq_false_iff.mp live), finish_eq_next]
      rw [State.clearRmt_bad, State.report_bad]
      exact sound
    · exact ⟨State.setContext_context .., rfl, rfl, rfl, rfl, rfl, rfl, rfl, rfl, rfl⟩

theorem leNat_cut_two (e : List Nat) (o : Nat) (long : o + 2 ≤ e.length) :
    leNat (cut e o 2) = e.getD o 0 % 256 + 256 * (e.getD (o + 1) 0 % 256) := by
  have head : cut e o 2 = [e.getD o 0, e.getD (o + 1) 0] := by
    rw [cut, List.drop_eq_getElem_cons (show o < e.length by omega), List.drop_eq_getElem_cons (show o + 1 < e.length by omega),
      List.getD_eq_getElem _ _ (show o < e.length by omega), List.getD_eq_getElem _ _ (show o + 1 < e.length by omega)]
    rfl
  rw [head]
  simp [leNat]

/-- What a write to memory, or to the host, leaves alone. -/
structure DispatchKept (s u : State) : Prop where
  bad : u.bad = s.bad
  launches : u.launches = s.launches
  ctxs : u.ctxs = s.ctxs
  flights : u.flights = s.flights
  tc : u.tc = s.tc

theorem DispatchKept.trans {s v u : State} (a : DispatchKept s v) (b : DispatchKept v u) : DispatchKept s u :=
  ⟨b.bad.trans a.bad, b.launches.trans a.launches, b.ctxs.trans a.ctxs, b.flights.trans a.flights, b.tc.trans a.tc⟩

theorem DispatchKept.putGranule (s : State) (a : Nat) (bs : List Nat) (p : Bool) : DispatchKept s (s.putGranule a bs p) := by
  have marked : DispatchKept s (s.markDirty a) := by
    unfold State.markDirty
    split <;> exact ⟨rfl, rfl, rfl, rfl, rfl⟩
  exact ⟨marked.bad, marked.launches, marked.ctxs, marked.flights, marked.tc⟩

theorem DispatchKept.put (s : State) (a : Nat) (bs : List Nat) (p : Bool) : DispatchKept s (s.put a bs p) :=
  List.foldlRecOn (motive := DispatchKept s) _ _ ⟨rfl, rfl, rfl, rfl, rfl⟩ fun _ kept _ _ => kept.trans (.putGranule ..)

/-- A record for the host changes host memory, its column's count and the host interface alone. -/
theorem DispatchKept.hostRecord (s : State) (r : FRec) : DispatchKept s (s.hostRecord r) := by
  unfold State.hostRecord
  split
  · obtain ⟨bad, launches, ctxs, flights, tc⟩ := DispatchKept.put s (hostBase + s.sys.fqBase + 32 * (s.sys.fqTail % s.sys.fqSize))
      { r with seq := (s.col r.col).seqNo + 1 }.toBytes false
    exact ⟨bad, launches, ctxs, flights, tc⟩
  · exact ⟨rfl, rfl, rfl, rfl, rfl⟩

/-- The submission entry at the head. -/
def State.submission (s : State) : List Nat := s.bytes (hostBase + s.sys.sqBase + 64 * (s.sys.sqHead % s.sys.sqSize)) 64

/-- The head past the entry. -/
def State.pastEntry (s : State) (head : Nat) : State := { s with sys := { s.sys with sqHead := head } }

theorem submission_sheaf (s : State) : leNat (cut s.submission 4 2) = s.submission.getD 4 0 % 256 + 256 * (s.submission.getD 5 0 % 256) :=
  leNat_cut_two _ 4 (by simp [State.submission, State.bytes, memBytes])

/-- The refusals of a submission entry in the order in which they are tested, and what follows where none applies. -/
theorem readEntry_eq (s : State) (size : s.sys.sqSize ≠ 0) (more : s.sys.sqHead ≠ s.sys.sqTail) :
    let e := s.submission
    let ctx := e.getD 0 0
    let sheaf := e.getD 4 0 % 256 + 256 * (e.getD 5 0 % 256)
    let head := (s.sys.sqHead + 1) % (2 * s.sys.sqSize)
    let refuse (code : Nat) : State := (s.hostRecord (.of 8 ctx 0 0 0 (s.sys.sqHead % s.sys.sqSize) code 0)).pastEntry head
    let x := s.context ctx
    s.readEntry = if 16 ≤ ctx ∨ (x.rec' = [] ∧ !x.tearing) then refuse 1
      else if x.tearing then (s.updContext ctx fun x => { x with dropped := (x.dropped + 1) % 2 ^ 32 }).pastEntry head
      else if (FM.find? x.sheaves sheaf).isNone then refuse 2
      else if 2 ≤ e.getD 1 0 ∨ e.getD 3 0 ≠ 0 ∨ (e.drop 6).any (fun b => b != 0) then refuse 3
      else if 64 ≤ s.openLaunches ctx then s
      else (s.acceptLaunch ctx sheaf (if e.getD 1 0 = 1 then some (e.getD 2 0) else none)).pastEntry head := by
  intro e ctx sheaf head refuse x
  unfold State.readEntry
  rw [if_neg (not_or.mpr ⟨more, size⟩)]
  simp only [sheaf, e, ← submission_sheaf]
  rfl

/-- When an entry's own fields are in order (18 R451). -/
theorem entryGood_iff (e : List Nat) : (e.getD 1 0 < 2 ∧ e.getD 3 0 = 0 ∧ ∀ b ∈ e.drop 6, b = 0) ↔
    ¬ (2 ≤ e.getD 1 0 ∨ e.getD 3 0 ≠ 0 ∨ (e.drop 6).any (fun b => b != 0)) := by
  rw [not_or, not_or, Nat.not_le, not_not, List.any_eq_true]
  simp

/-- The clause of O42 about submission entries: the refusals, the entry that waits, and the launch. -/
theorem submissions_read {s : State} (sound : s.bad = none) (size : s.sys.sqSize ≠ 0) (more : s.sys.sqHead ≠ s.sys.sqTail) :
    let e := s.submission
    let ctx := e.getD 0 0
    let sheaf := e.getD 4 0 % 256 + 256 * (e.getD 5 0 % 256)
    let x := s.context ctx
    let live : Prop := ctx < 16 ∧ x.rec' ≠ [] ∧ x.tearing = false
    let good : Prop := e.getD 1 0 < 2 ∧ e.getD 3 0 = 0 ∧ ∀ b ∈ e.drop 6, b = 0
    let openOnes := (s.launches.filter fun l => l.ctx == ctx).length
    let passes (u : State) : Prop := exec .submissionEntryRead s = .next u ∧ u.sys.sqHead = (s.sys.sqHead + 1) % (2 * s.sys.sqSize)
    (live → (FM.find? x.sheaves sheaf).isSome = true → good → openOnes < 64 → ∃ u l, passes u ∧ u.launches = s.launches ++ [l] ∧
      l.ctx = ctx ∧ l.sheaf = sheaf ∧ l.number = (x.accepted + 1) % 2 ^ 64 ∧
      l.cw = if e.getD 1 0 = 1 then some (e.getD 2 0) else none) ∧
    (live → (FM.find? x.sheaves sheaf).isSome = true → good → 64 ≤ openOnes → exec .submissionEntryRead s = .next s) ∧
    ((16 ≤ ctx ∨ (x.rec' = [] ∧ x.tearing = false) ∨ (live ∧ FM.find? x.sheaves sheaf = none) ∨ (live ∧ ¬ good)) →
      ∃ u, passes u ∧ u.launches = s.launches ∧ u.ctxs = s.ctxs) ∧
    (ctx < 16 → x.tearing = true → ∃ u, passes u ∧ u.launches = s.launches ∧
      u.context ctx = { x with dropped := (x.dropped + 1) % 2 ^ 32 }) := by
  intro e ctx sheaf x live good openOnes passes
  have reads := readEntry_eq s size more
  dsimp only at reads
  have step : exec .submissionEntryRead s = finish s.readEntry := by rw [exec_submissionEntryRead, execSubmissionEntryRead]
  have ends {u : State} (eq : s.readEntry = u) (bad : u.bad = none) : exec .submissionEntryRead s = .next u := by
    rw [step, eq, finish_eq_next bad]
  have first (l : live) : ¬ (16 ≤ ctx ∨ (x.rec' = [] ∧ !x.tearing)) := by
    obtain ⟨small, kept, -⟩ := l
    exact not_or.mpr ⟨Nat.not_le.mpr small, fun empty => kept empty.1⟩
  have named (known : (FM.find? x.sheaves sheaf).isSome = true) : ¬ (FM.find? x.sheaves sheaf).isNone = true := by
    rw [Option.isNone_iff_eq_none, ← Option.not_isSome_iff_eq_none, known]
    exact not_not.mpr rfl
  have refused (code : Nat) (eq : s.readEntry = (s.hostRecord (.of 8 ctx 0 0 0 (s.sys.sqHead % s.sys.sqSize) code 0)).pastEntry
      ((s.sys.sqHead + 1) % (2 * s.sys.sqSize))) : ∃ u, passes u ∧ u.launches = s.launches ∧ u.ctxs = s.ctxs := by
    have kept := DispatchKept.hostRecord s (.of 8 ctx 0 0 0 (s.sys.sqHead % s.sys.sqSize) code 0)
    exact ⟨_, ⟨ends eq (kept.bad.trans sound), rfl⟩, kept.launches, kept.ctxs⟩
  refine ⟨fun l known ok room => ?_, fun l known ok full => ?_, fun bad => ?_, fun small tearing => ?_⟩
  · have eq : s.readEntry = (s.acceptLaunch ctx sheaf (if e.getD 1 0 = 1 then some (e.getD 2 0) else none)).pastEntry
        ((s.sys.sqHead + 1) % (2 * s.sys.sqSize)) := by
      rw [reads, if_neg (first l), if_neg (Bool.eq_false_iff.mp l.2.2), if_neg (named known), if_neg ((entryGood_iff e).mp ok),
        if_neg (show ¬ 64 ≤ s.openLaunches ctx from Nat.not_le.mpr room)]
    exact ⟨_, s.newLaunch ctx sheaf (if e.getD 1 0 = 1 then some (e.getD 2 0) else none), ⟨ends eq sound, rfl⟩,
      rfl, rfl, rfl, rfl, rfl⟩
  · refine ends ?_ sound
    rw [reads, if_neg (first l), if_neg (Bool.eq_false_iff.mp l.2.2), if_neg (named known), if_neg ((entryGood_iff e).mp ok),
      if_pos (show 64 ≤ s.openLaunches ctx from full)]
  · by_cases one : 16 ≤ ctx ∨ (x.rec' = [] ∧ !x.tearing)
    · exact refused 1 (by rw [reads, if_pos one])
    · have l : live := by
        rcases bad with big | ⟨empty, still⟩ | ⟨l, -⟩ | ⟨l, -⟩
        · exact absurd (.inl big) one
        · exact absurd (.inr ⟨empty, by rw [still]; rfl⟩) one
        · exact l
        · exact l
      by_cases two : (FM.find? x.sheaves sheaf).isNone = true
      · exact refused 2 (by rw [reads, if_neg one, if_neg (Bool.eq_false_iff.mp l.2.2), if_pos two])
      · have three : ¬ good := by
          rcases bad with big | ⟨empty, -⟩ | ⟨-, missing⟩ | ⟨-, notGood⟩
          · exact absurd (.inl big) one
          · exact absurd empty l.2.1
          · exact absurd (by rw [missing]; rfl) two
          · exact notGood
        exact refused 3 (by rw [reads, if_neg one, if_neg (Bool.eq_false_iff.mp l.2.2), if_neg two, if_pos (not_not.mp (mt (entryGood_iff e).mpr three))])
  · have one : ¬ (16 ≤ ctx ∨ (x.rec' = [] ∧ !x.tearing)) := by
      refine not_or.mpr ⟨Nat.not_le.mpr small, fun empty => ?_⟩
      rw [tearing] at empty
      exact Bool.false_ne_true empty.2
    exact ⟨(s.updContext ctx fun x => { x with dropped := (x.dropped + 1) % 2 ^ 32 }).pastEntry ((s.sys.sqHead + 1) % (2 * s.sys.sqSize)),
      ⟨ends (by rw [reads, if_neg one, if_pos tearing]) sound, rfl⟩, rfl, State.setContext_context ..⟩

end Sys2Proof.Machine
end

section
namespace Sys2Proof.Machine

/-! ### Binding decisions (14 R374 to R376) -/

/-- Every tile that an assignment gives is one of those offered. -/
theorem assignTiles_mem {P : Nat → Prop} (cs : List (List Nat)) (offered : ∀ c ∈ cs, ∀ t ∈ c, P t) (used ts : List Nat)
    (assigned : assignTiles cs used = some ts) : ∀ t ∈ ts, P t := by
  induction cs generalizing used ts with
  | nil =>
    cases assigned
    exact List.forall_mem_nil P
  | cons c cs ih =>
    rw [assignTiles] at assigned
    obtain ⟨t, mem, gives⟩ := List.exists_of_findSome?_eq_some assigned
    split at gives
    · cases gives
    · obtain ⟨rest, tail, rfl⟩ := Option.map_eq_some_iff.mp gives
      exact List.forall_mem_cons.mpr ⟨offered c List.mem_cons_self t mem,
        ih (fun c mem => offered c (List.mem_cons_of_mem _ mem)) _ rest tail⟩

/-- A candidate's tiles are among the device's. -/
theorem cand?_tiles {s : State} {l : Launch} {k : Nat} {c : Cand} (cand : s.cand? l k = some c) : ∀ t ∈ c.tiles, t < 176 := by
  have below (p : Nat → Bool) (t : Nat) (mem : t ∈ (List.range 176).filter p) : t < 176 :=
    List.mem_range.mp (List.mem_filter.mp mem).1
  simp only [State.cand?] at cand
  split at cand
  · cases cand
  · split at cand
    · obtain ⟨t, head, rfl⟩ := Option.map_eq_some_iff.mp cand
      exact List.forall_mem_singleton.mpr (below _ t (List.mem_of_head? head))
    · split at cand
      · cases cand
      · split at cand
        · cases cand
        · obtain ⟨ts, assigned, rfl⟩ := Option.map_eq_some_iff.mp cand
          refine assignTiles_mem _ (fun c mem t inside => ?_) _ ts assigned
          obtain ⟨p, -, rfl⟩ := List.mem_map.mp mem
          exact below _ t inside

/-- A candidate, if there is one, is one of a node. -/
def State.FromNode (s : State) (b : Option Cand) : Prop := ∀ c, b = some c → ∃ l k, s.cand? l k = some c

/-- The candidate of a decision is one of a node. -/
theorem bestCand_cand? (s : State) : s.FromNode s.bestCand := by
  have start : s.FromNode none := fun c absent => absurd absent (Option.some_ne_none c).symm
  refine List.foldlRecOn (motive := s.FromNode) s.launches _ start fun b cands l _ => ?_
  refine List.foldlRecOn (motive := s.FromNode) (List.range l.nodes.length) _ cands fun b cands k _ => ?_
  intro c taken
  split at taken
  · next x y second =>
    split at taken
    · exact ⟨l, k, second.trans taken⟩
    · exact cands c taken
  · exact ⟨l, k, taken⟩
  · exact cands c taken

theorem foldl_fixed_of_mem {α β : Type} (f : α → β → α) (a : α) (l : List β) (fixed : ∀ b ∈ l, f a b = a) : l.foldl f a = a := by
  induction l with
  | nil => rfl
  | cons b l ih =>
    rw [List.foldl_cons, fixed b List.mem_cons_self, ih fun b mem => fixed b (List.mem_cons_of_mem _ mem)]

theorem resumeSaved_none {s : State} (saved : s.saved = []) : s.resumeSaved = s := (congrArg (List.foldl _ s) saved).trans List.foldl_nil

/-- No tile whose task is to be saved. -/
theorem evictTiles_none {s : State} (quiet : ∀ t, t < 176 → (s.tile t).evict = false) :
    (List.range 176).foldl (fun s t => if s.evictReady t then s.evictTile t else s) s = s := by
  refine foldl_fixed_of_mem _ _ _ fun t mem => if_neg ?_
  simp only [State.evictReady, quiet t (List.mem_range.mp mem), Bool.false_and, Bool.false_eq_true, not_false_iff]

/-- With no saved task and none being stopped, a decision binds the best candidate, or stops a victim. -/
theorem decideBinding_takes {s : State} (saved : s.saved = []) (quiet : ∀ t, t < 176 → (s.tile t).evict = false) {c : Cand}
    (best : s.bestCand = some c) : s.decideBinding = s.bindCand c := by
  unfold State.decideBinding
  simp only [resumeSaved_none saved, evictTiles_none quiet, best]

theorem decideBinding_none {s : State} (saved : s.saved = []) (quiet : ∀ t, t < 176 → (s.tile t).evict = false)
    (best : s.bestCand = none) : s.decideBinding = s.preempt := by
  unfold State.decideBinding
  simp only [resumeSaved_none saved, evictTiles_none quiet, best]

/-- The bind of one task, before the passes are counted. -/
theorem bindCand_single {s : State} {c : Cand} {k p t : Nat} (tasks : c.tasks = [(k, p)]) (tiles : c.tiles = [t])
    (free : (s.tile t).evict = false) : s.bindCand c = (s.bindTask c.l k p t).countPasses c.l.id [k] c.cur := by
  simp only [State.bindCand, tasks, tiles, List.foldl_cons, List.foldl_nil, free]
  rfl

/-- The tile of a task whose bind message is on its way. -/
def State.takenTile (s : State) (l : Launch) (k : Nat) (T : Tile) : Tile := { T with
  bound := true, ctx := l.ctx, sup := ((s.sheafOf l).node k).sup && (s.context l.ctx).supok, launch := l.id, node := k
  prio := ((s.sheafOf l).node k).prio, boundSeq := s.nextId, task := false }

theorem bindTask_eq (s : State) (l : Launch) (k p t : Nat) : s.bindTask l k p t =
    ((((takeFree s).2.updTile t (s.takenTile l k)).updLaunch l.id fun l => l.updNode k fun x =>
      { x with bound := x.bound + 1, pass := 0 }).flyDev (1 + (takeFree s).1) (.bind t l.id k p false)) := rfl

/-- What the bind of a task leaves at its tile, and on its way to it. -/
theorem bindTask_tile (s : State) (l : Launch) (k p t : Nat) :
    (s.bindTask l k p t).tile t = s.takenTile l k (s.tile t) ∧ SameOthers s (s.bindTask l k p t) t ∧
    ∃ f ∈ (s.bindTask l k p t).flights, f.fl = .bind t l.id k p false ∧ s.tc < f.due := by
  rw [bindTask_eq]
  refine ⟨State.updTile_tile (takeFree s).2 t _, fun u ne => State.updTile_other (takeFree s).2 _ ne, ?_⟩
  refine ⟨_, List.mem_append_right _ List.mem_cons_self, rfl, ?_⟩
  exact (Nat.lt_add_of_pos_right (n := s.tc) (k := 1 + (takeFree s).1) (by omega))

/-- The candidate of a node that is in no gang: its next point on the lowest eligible free tile. -/
theorem cand?_single {s : State} {l : Launch} {k : Nat} {c : Cand} (single : ((s.sheafOf l).node k).gang = none)
    (cand : s.cand? l k = some c) :
    c.tasks = [(k, (l.st k).bound)] ∧ (l.st k).bound < ((s.sheafOf l).node k).points ∧ ∃ t, c.tiles = [t] ∧ t < 176 ∧
      s.tileFree t = true ∧ ((s.sheafOf l).node k).place.testBit (tileCol t) = true ∧
      ((s.sheafOf l).node k).place.testBit (16 + tileRow t) = true ∧ (s.context l.ctx).grant.testBit t = true := by
  simp only [State.cand?, single] at cand
  split at cand
  · cases cand
  · next waits =>
    obtain ⟨t, head, rfl⟩ := Option.map_eq_some_iff.mp cand
    obtain ⟨range, fits⟩ := List.mem_filter.mp (List.mem_of_head? head)
    have points : (l.st k).bound < ((s.sheafOf l).node k).points := by
      simp only [State.nodeWaits, Bool.not_and, Bool.or_eq_true, not_or] at waits
      simpa using waits.1
    simp only [State.eligible, Context.granted, Bool.and_eq_true, beq_iff_eq] at fits
    obtain ⟨⟨⟨⟨column, row⟩, granted⟩, -⟩, free⟩ := fits
    refine ⟨rfl, points, t, rfl, List.mem_range.mp range, free, ?_, ?_, ?_⟩ <;>
      rw [Nat.testBit_eq_decide_div_mod_eq] <;> exact decide_eq_true ‹_›

/-! ### Nodes and launches (14 R376, R379) -/

theorem updNode_getElem? (l : Launch) (k : Nat) (f : NodeSt → NodeSt) (i : Nat) :
    (l.updNode k f).nodes[i]? = l.nodes[i]?.map fun n => if i = k then f n else n := by
  simp [Launch.updNode]

theorem updLaunch_single {s : State} {l : Launch} (only : s.launches = [l]) (f : Launch → Launch) :
    (s.updLaunch l.id f).launches = [f l] := by
  simp [State.updLaunch, only]

/-- A node passed over enough rises by one level. -/
def NodeSt.promoted (n : NodeSt) : NodeSt := if n.pass < 1024 then n else { n with cur := min 3 (n.cur + 1), pass := 0 }

/-- A promotion raises the node's current priority where it has been passed over enough. -/
theorem promotion_raises {s : State} {l : Launch} (k : Nat) (sound : s.bad = none) (only : s.launches = [l]) :
    ∃ u, exec (.priorityPromotion l.id k) s = .next u ∧ ∃ l', u.launches = [l'] ∧ ∀ i n, l.nodes[i]? = some n →
      l'.nodes[i]? = some (if i = k ∧ 1024 ≤ n.pass then { n with cur := min 3 (n.cur + 1), pass := 0 } else n) := by
  have step : exec (.priorityPromotion l.id k) s = finish (s.updLaunch l.id fun x => x.updNode k NodeSt.promoted) := by
    rw [exec_priorityPromotion]
    rfl
  refine ⟨_, step.trans (finish_eq_next sound), _, updLaunch_single only _, fun i n node => ?_⟩
  rw [updNode_getElem?, node, Option.map_some, NodeSt.promoted]
  by_cases named : i = k <;> by_cases passed : n.pass < 1024 <;> simp [named, passed, Nat.not_le.mpr, Nat.le_of_not_lt]

/-- The completion of a launch's node, before its launch is tested. -/
def Launch.nodeEnds (l : Launch) (k : Nat) : Launch := l.updNode k fun x => { x with complete := true }

/-- What remains of the only launch, with no completion word to write. -/
theorem nodeDone_single {s : State} {l : Launch} (k : Nat) (only : s.launches = [l]) :
    ((l.nodeEnds k).nodes.all (fun n => n.complete) = false → s.nodeDone l.id k = { s with launches := [l.nodeEnds k] }) ∧
    ((l.nodeEnds k).nodes.all (fun n => n.complete) = true → l.cw = none → s.nodeDone l.id k = { s with launches := [] }) := by
  have ended : s.updLaunch l.id (fun l => l.updNode k fun x => { x with complete := true }) = { s with launches := [l.nodeEnds k] } := by
    simp [State.updLaunch, only, Launch.nodeEnds]
  have found : ({ s with launches := [l.nodeEnds k] } : State).launch? l.id = some (l.nodeEnds k) := by
    simp [State.launch?, Launch.nodeEnds, Launch.updNode]
  have word : (l.nodeEnds k).cw = l.cw := rfl
  have number : (l.nodeEnds k).id = l.id := rfl
  unfold State.nodeDone
  rw [ended]
  simp only [found, word]
  refine ⟨fun more => ?_, fun all plain => ?_⟩
  · rw [more]
    rfl
  · rw [all, plain]
    simp [number]

theorem nodeEnds_getElem? (l : Launch) (k i : Nat) {n : NodeSt} (node : l.nodes[i]? = some n) :
    (l.nodeEnds k).nodes[i]? = some (if i = k then { n with complete := true } else n) := by
  rw [Launch.nodeEnds, updNode_getElem?, node, Option.map_some]

/-- Every node is complete where every other was. -/
theorem nodeEnds_all {l : Launch} {k : Nat} (others : ∀ i n, l.nodes[i]? = some n → i ≠ k → n.complete = true) :
    (l.nodeEnds k).nodes.all (fun n => n.complete) = true := by
  refine List.all_eq_true.mpr fun m mem => ?_
  obtain ⟨i, at'⟩ := List.mem_iff_getElem?.mp mem
  rw [Launch.nodeEnds, updNode_getElem?] at at'
  obtain ⟨n, node, rfl⟩ := Option.map_eq_some_iff.mp at'
  by_cases named : i = k
  · rw [if_pos named]
  · rw [if_neg named]
    exact others i n node named

theorem nodeEnds_some {l : Launch} {k i : Nat} {n : NodeSt} (node : l.nodes[i]? = some n) (other : i ≠ k) (runs : n.complete = false) :
    (l.nodeEnds k).nodes.all (fun n => n.complete) = false := by
  refine List.all_eq_false.mpr ⟨n, ?_, by rw [runs]; exact Bool.false_ne_true⟩
  have at' := nodeEnds_getElem? l k i node
  rw [if_neg other] at at'
  exact List.mem_of_getElem? at'

/-- A launch's last node ends it; another leaves it (14 R379). -/
theorem nodeCompletion_ends {s : State} {l : Launch} (k : Nat) (sound : s.bad = none) (only : s.launches = [l]) :
    ((∀ i n, l.nodes[i]? = some n → i ≠ k → n.complete = true) → l.cw = none →
      ∃ u, exec (.nodeCompletion l.id k) s = .next u ∧ u.launches = [] ∧ SameMemory s u) ∧
    (∀ i n, l.nodes[i]? = some n → i ≠ k → n.complete = false →
      ∃ u l', exec (.nodeCompletion l.id k) s = .next u ∧ u.launches = [l'] ∧ SameMemory s u ∧
        ∀ i n, l.nodes[i]? = some n → l'.nodes[i]? = some (if i = k then { n with complete := true } else n)) := by
  obtain ⟨remains, last⟩ := nodeDone_single k only
  have step : exec (.nodeCompletion l.id k) s = finish (s.nodeDone l.id k) := by
    rw [exec_nodeCompletion]
    rfl
  refine ⟨fun others plain => ⟨{ s with launches := [] }, ?_, rfl, .of_eq rfl rfl rfl⟩, fun i n node other runs =>
    ⟨{ s with launches := [l.nodeEnds k] }, l.nodeEnds k, ?_, rfl, .of_eq rfl rfl rfl, fun i n node => nodeEnds_getElem? l k i node⟩⟩
  · rw [step, last (nodeEnds_all others) plain]
    exact finish_eq_next sound
  · rw [step, remains (nodeEnds_some node other runs)]
    exact finish_eq_next sound

end Sys2Proof.Machine
end

section
namespace Sys2Proof.Machine

/-! ### Tasks bound, stopped and complete (04 R96, R122; 14 R380, R388; 15 R413) -/

/-- A binding decision with no saved task and none being stopped. -/
theorem bindingDecision_takes {s : State} (sound : s.bad = none) (saved : s.saved = [])
    (quiet : ∀ t, t < 176 → (s.tile t).evict = false) {c : Cand} {k p t : Nat} (best : s.bestCand = some c)
    (tasks : c.tasks = [(k, p)]) (tiles : c.tiles = [t]) : ∃ u, exec .bindingDecision s = .next u ∧
      (u.tile t).bound = true ∧ (u.tile t).ctx = c.l.ctx ∧ (u.tile t).launch = c.l.id ∧ (u.tile t).node = k ∧ (u.tile t).task = false ∧
      (u.tile t).sup = (((s.sheafOf c.l).node k).sup && (s.context c.l.ctx).supok) ∧ SameOthers s u t ∧
      ∃ f ∈ u.flights, f.fl = .bind t c.l.id k p false ∧ s.tc < f.due := by
  obtain ⟨l, j, node⟩ := bestCand_cand? s c best
  have small : t < 176 := cand?_tiles node t (by rw [tiles]; exact List.mem_singleton.mpr rfl)
  have step : exec .bindingDecision s = finish ((s.bindTask c.l k p t).countPasses c.l.id [k] c.cur) := by
    rw [exec_bindingDecision, execBindingDecision, decideBinding_takes saved quiet best, bindCand_single tasks tiles (quiet t small)]
  obtain ⟨tile, others, flight⟩ := bindTask_tile s c.l k p t
  have same : ((s.bindTask c.l k p t).countPasses c.l.id [k] c.cur).tile t = s.takenTile c.l k (s.tile t) := tile
  refine ⟨_, step.trans (finish_eq_next sound), ?_, ?_, ?_, ?_, ?_, ?_, others, flight⟩ <;> rw [same] <;> rfl

theorem bindingDecision_idle {s : State} (sound : s.bad = none) (saved : s.saved = [])
    (quiet : ∀ t, t < 176 → (s.tile t).evict = false) (best : s.bestCand = none) (calm : s.urgent = none) :
    exec .bindingDecision s = .next s := by
  have rests : s.preempt = s := by rw [State.preempt, calm]
  rw [exec_bindingDecision, execBindingDecision, decideBinding_none saved quiet best, rests, finish_eq_next sound]

/-- The tile of a task whose bind message has reached it. -/
def State.bindTile (s : State) (t : Nat) (n : Node) (i : Image) (p : Nat) (inc : List Incoming) : State :=
  State.retest { s.setTile t ((s.tile t).bindTo t n i p inc) with mem := memPut s.mem (cimBase t) i.head } t

/-- The state in which a bind message waits for a page, the host told once. -/
def State.pageAsked (s : State) (t : Nat) (l : Launch) (waits : Bool) (va : Nat) : State :=
  if waits then s else s.hostRecord (.of 4 l.ctx (tileCol t) 3 (originOf t 0)
    (((s.lookup l.ctx (tileCol t) va).map fun e => e.1).getD 0) va 0)

theorem pageAsked_kept (s : State) (t : Nat) (l : Launch) (waits : Bool) (va : Nat) : DispatchKept s (s.pageAsked t l waits va) := by
  unfold State.pageAsked
  split
  · exact ⟨rfl, rfl, rfl, rfl, rfl⟩
  · exact .hostRecord ..

/-- What a bind message does as it arrives. -/
theorem taskBind_eq {s : State} {id due t lid k p : Nat} {clk : Clk} {waits : Bool} {l : Launch} {i : Image}
    (found : s.flight? id = some ⟨id, clk, due, .bind t lid k p waits⟩) (launch : s.launch? lid = some l)
    (image : (s.sheafOf l).images[((s.sheafOf l).node k).image]? = some i) :
    ((s.tile t).state = .fenced ∨ s.colDisabled (tileCol t) = true → exec (.taskBind id) s = finish (s.land id)) ∧
    ((s.tile t).state ≠ .fenced → s.colDisabled (tileCol t) = false →
      (s.codeFault l.ctx t i = none → (s.tile t).evict = true → exec (.taskBind id) s =
        finish ((((s.land id).bindTile t ((s.sheafOf l).node k) i p ((s.land id).incomingOf l.ctx t i)).stopTile t).updTile t
          fun T => { T with evict := true })) ∧
      (s.codeFault l.ctx t i = none → (s.tile t).evict = false → exec (.taskBind id) s =
        finish ((s.land id).bindTile t ((s.sheafOf l).node k) i p ((s.land id).incomingOf l.ctx t i))) ∧
      (∀ cause va, s.codeFault l.ctx t i = some (.fault cause va) → cause ≠ 0x2B →
        exec (.taskBind id) s = finish ((s.land id).bindRefused t l cause)) ∧
      (∀ e va, s.codeFault l.ctx t i = some (.held e va) ∨ s.codeFault l.ctx t i = some (.fault 0x2B va) →
        exec (.taskBind id) s = finish ((s.pageAsked t l waits va).refly id ((s.pageAsked t l waits va).tc + 1) (.bind t lid k p true)))) := by
  have part : (s.sheafOf l).images.getD ((s.sheafOf l).node k).image ⟨[], 0, [], [], 0⟩ = i := by
    rw [List.getD_eq_getElem?_getD, image, Option.getD_some]
  have step : exec (.taskBind id) s = finish (s.bindArrives id) := by
    rw [exec_taskBind]
    rfl
  refine ⟨fun closed => ?_, fun runs opened => ?_⟩
  · rw [step, State.bindArrives, found]
    simp only [launch]
    rw [if_pos closed]
  · have passes : ¬ ((s.tile t).state = .fenced ∨ s.colDisabled (tileCol t) = true) :=
      not_or.mpr ⟨runs, Bool.eq_false_iff.mp opened⟩
    refine ⟨fun code evict => ?_, fun code evict => ?_, fun cause va code other => ?_, fun e va code => ?_⟩
    · rw [step, State.bindArrives, found]
      simp only [launch]
      rw [if_neg passes]
      simp only [part, code, State.land_tile, evict]
      rfl
    · rw [step, State.bindArrives, found]
      simp only [launch]
      rw [if_neg passes]
      simp only [part, code, State.land_tile, evict]
      rfl
    · rw [step, State.bindArrives, found]
      simp only [launch]
      rw [if_neg passes]
      simp only [part, code]
      rw [if_neg other]
    · rw [step, State.bindArrives, found]
      simp only [launch]
      rw [if_neg passes]
      rcases code with code | code
      · simp only [part, code]
        rfl
      · simp only [part, code, if_true]
        rfl

/-- A c-register that no capability of the image names is empty. -/
theorem bindTo_creg (caps : List (Nat × Nat)) {r : Nat} (unnamed : ∀ c ∈ caps, c.1 % 16 ≠ r) (m : FM CReg)
    (empty : FM.get CReg.zero m r = CReg.zero) :
    FM.get CReg.zero (caps.foldl (fun (m : FM CReg) c => FM.set m (c.1 % 16) ⟨BitVec.ofNat 128 c.2, true⟩) m) r = CReg.zero := by
  induction caps generalizing m with
  | nil => exact empty
  | cons c caps ih =>
    refine ih (fun c mem => unnamed c (List.mem_cons_of_mem _ mem)) _ ?_
    rw [FM.get_set_other _ _ _ (unnamed c List.mem_cons_self).symm]
    exact empty

/-- The tile of a bound task (04 R96). -/
theorem bindTile_tile (s : State) (t : Nat) (n : Node) (i : Image) (p : Nat) (inc : List Incoming) :
    (s.bindTile t n i p inc).tile t = (s.tile t).bindTo t n i p inc := State.setTile_tile ..

/-- How a task starts at its tile. -/
theorem bindTile_starts (s : State) (t : Nat) (n : Node) (i : Image) (p : Nat) (inc : List Incoming) :
    let u := s.bindTile t n i p inc
    (u.tile t).bound = true ∧ (u.tile t).task = true ∧
      (u.cc t 0).run = .running ∧ (u.cc t 0).pc = n.entry ∧ (u.cc t 0).tlvl = 0 ∧ (u.tile t).cimLen = i.words ∧
      (∀ d, d < 6 → u.sreg t 0 (d + 1) = ⟨BitVec.ofNat 64 ((n.indices p).getD d 0), false⟩) ∧
      (∀ r, 7 ≤ r → u.sreg t 0 r = RegV.zero) ∧ (∀ c, c ≠ 0 → u.cc t c = CtlCtx.dormant) ∧
      (u.tile t).mreg 0 = ⟨BitVec.allOnes 1024, false⟩ ∧ (u.tile t).vregs = [] ∧ (u.tile t).accs = [] ∧ (u.tile t).hctl = 0xE ∧
      (∀ r, (∀ c ∈ i.caps, c.1 % 16 ≠ r) → FM.get CReg.zero (u.tile t).cregs r = CReg.zero) ∧
      u.mem = memPut s.mem (cimBase t) i.head ∧ (u.tile t).sem = (s.tile t).sem ∧ SameOthers s u t := by
  intro u
  have tile : u.tile t = (s.tile t).bindTo t n i p inc := bindTile_tile ..
  have regs : (u.cc t 0).regs = (List.range 6).map fun d => (d + 1, ⟨w64 ((n.indices p).getD d 0), false⟩) := by
    rw [State.cc, tile]
    rfl
  refine ⟨?_, ?_, ?_, ?_, ?_, ?_, fun d low => ?_, fun r high => ?_, fun c other => ?_, ?_, ?_, ?_, ?_, fun r unnamed => ?_, rfl, ?_,
    .setTile s t _⟩
  case refine_7 =>
    rw [State.sreg, if_neg (Nat.succ_ne_zero d), regs]
    interval_cases d <;> rfl
  case refine_8 =>
    have beyond (d : Nat) (low : d < 6) : r ≠ d + 1 := by omega
    rw [State.sreg, if_neg (by omega), regs]
    simp [List.range_succ, FM.get, beyond 0, beyond 1, beyond 2, beyond 3, beyond 4, beyond 5]
  case refine_9 =>
    rw [State.cc, tile]
    exact if_neg other
  case refine_14 =>
    rw [tile]
    exact bindTo_creg i.caps unnamed [] rfl
  case refine_3 => rw [State.cc, tile]; rfl
  case refine_4 => rw [State.cc, tile]; rfl
  case refine_5 => rw [State.cc, tile]; rfl
  all_goals rw [tile]; rfl

/-- What a stop leaves of what a bound task starts from. -/
structure StopKept (s u : State) (t : Nat) : Prop where
  mem : u.mem = s.mem
  bad : u.bad = s.bad
  pc : (u.cc t 0).pc = (s.cc t 0).pc
  task : (u.tile t).task = (s.tile t).task

theorem StopKept.trans {s v u : State} {t : Nat} (a : StopKept s v t) (b : StopKept v u t) : StopKept s u t :=
  ⟨b.mem.trans a.mem, b.bad.trans a.bad, b.pc.trans a.pc, b.task.trans a.task⟩

theorem StopKept.stopAccess (s : State) (t : Nat) : StopKept s (s.stopAccess t) t := by
  unfold State.stopAccess
  refine List.foldlRecOn (motive := fun u => StopKept s u t) _ _ ⟨rfl, rfl, ?_, ?_⟩ fun u kept f _ => kept.trans ?_
  · rw [State.updEng, State.cc, State.updTile_tile]
    rfl
  · rw [State.updEng, State.updTile_tile]
    rfl
  · dsimp only
    repeat' split
    all_goals exact ⟨rfl, rfl, rfl, rfl⟩

/-- The words at other units that a stop holds their contexts for (14 R391). -/
def State.holdWords (s : State) (t : Nat) : State := [0, 1, 2, 3].foldl (fun s c =>
  match (s.cc t c).rmt.orElse fun _ => s.outstanding t c with
  | some r => s.updCc t c fun x => { x with rmt := some { r with op := r.op % stoppedOp + stoppedOp } }
  | none => s) s

theorem StopKept.holdWords (s : State) (t : Nat) : StopKept s (s.holdWords t) t := by
  refine List.foldlRecOn (motive := fun u => StopKept s u t) _ _ ⟨rfl, rfl, rfl, rfl⟩ fun u kept c _ => kept.trans ?_
  split
  · refine ⟨rfl, rfl, ?_, ?_⟩
    · by_cases first : 0 = c
      · rw [← first, State.updCc_cc]
      · rw [State.updCc_other _ _ _ first]
    · rw [State.updCc, State.updTile_tile]
      rfl
  · exact ⟨rfl, rfl, rfl, rfl⟩

/-- A stopped tile, its array work abandoned. -/
def Tile.standStill (T : Tile) : Tile := { T with
  state := .stopped
  xcmds := T.xcmds.map fun k => (k.1, k.2.abandon)
  xcal := T.xcal.map fun k => (k.1, k.2.abandon) }

/-- The end of a stop: the tile stands, its near-memory work abandoned too. -/
def State.standStill (s : State) (t : Nat) : State :=
  let s := s.updTile t Tile.standStill
  { s with
    turns := s.turns.filter fun u => !isIssueOf t u
    nmus := s.nmus.map fun n => (n.1, { n.2 with
      run := n.2.run.filter fun r => r.tile != t, queue := n.2.queue.filter fun q => q.1 != t }) }

theorem stopTile_eq (s : State) (t : Nat) : s.stopTile t =
    if !(s.tile t).bound || !(s.tile t).task || (s.tile t).state != .running then s
    else (((s.tile t).ccmds.foldl (fun s k => s.stopCopy t k.1) (s.stopAccess t)).holdWords t).standStill t := rfl

theorem StopKept.standStill (s : State) (t : Nat) : StopKept s (s.standStill t) t ∧ ((s.standStill t).tile t).state = .stopped := by
  have tile : (s.standStill t).tile t = (s.tile t).standStill := State.updTile_tile s t Tile.standStill
  refine ⟨⟨rfl, rfl, ?_, ?_⟩, ?_⟩
  · rw [State.cc, tile]
    rfl
  · rw [tile]
    rfl
  · rw [tile]
    rfl

/-- A stop of a running task with no copy command. -/
theorem stopTile_running {s : State} {t : Nat} (bound : (s.tile t).bound = true) (task : (s.tile t).task = true)
    (runs : (s.tile t).state = .running) (copies : (s.tile t).ccmds = []) :
    StopKept s (s.stopTile t) t ∧ ((s.stopTile t).tile t).state = .stopped := by
  have stops : ¬ (!(s.tile t).bound || !(s.tile t).task || (s.tile t).state != .running) = true := by
    rw [bound, task, runs]
    decide
  rw [stopTile_eq, if_neg stops, copies, List.foldl_nil]
  obtain ⟨kept, stopped⟩ := StopKept.standStill ((s.stopAccess t).holdWords t) t
  exact ⟨((StopKept.stopAccess s t).trans (.holdWords ..)).trans kept, stopped⟩

/-- The stop of a task that has just been bound, to be saved (14 R378). -/
theorem bindTile_stops (s : State) (t : Nat) (n : Node) (i : Image) (p : Nat) (inc : List Incoming) :
    let u := ((s.bindTile t n i p inc).stopTile t).updTile t fun T => { T with evict := true }
    u.bad = s.bad ∧ (u.tile t).task = true ∧ (u.tile t).state = .stopped ∧ (u.tile t).evict = true ∧ (u.cc t 0).pc = n.entry ∧
      u.mem = memPut s.mem (cimBase t) i.head := by
  intro u
  have tile := bindTile_tile s t n i p inc
  obtain ⟨⟨mem, bad, pc, task⟩, stopped⟩ := stopTile_running (s := s.bindTile t n i p inc) (t := t) (by rw [tile]; rfl) (by rw [tile]; rfl)
    (by rw [tile]; rfl) (by rw [tile]; rfl)
  refine ⟨bad, ?_, ?_, ?_, ?_, mem⟩
  · rw [State.updTile_tile]
    exact task.trans (by rw [tile]; rfl)
  · rw [State.updTile_tile]
    exact stopped
  · rw [State.updTile_tile]
  · rw [State.cc, State.updTile_tile]
    exact pc.trans (by rw [State.cc, tile]; rfl)

/-- A bind that is refused frees its tile and marks its launch. -/
theorem bindRefused_frees {s : State} (t : Nat) {l : Launch} (cause : Nat) (plain : l.cw = none) :
    let u := s.bindRefused t l cause
    u.bad = s.bad ∧ (u.tile t).bound = false ∧ (u.tile t).task = false ∧ u.mem = s.mem ∧
      u.launches = s.launches.map fun x => if x.id = l.id then { x with killed := some (x.killed.getD (cause, originOf t 0)) } else x := by
  have refused : s.bindRefused t l cause = (s.updLaunch l.id fun x =>
      { x with killed := some (x.killed.getD (cause, originOf t 0)) }).updTile t fun T => { T with bound := false, task := false } := by
    rw [State.bindRefused, plain]
  rw [refused]
  exact ⟨rfl, by rw [State.updTile_tile], by rw [State.updTile_tile], rfl, rfl⟩

/-! The rest of an image, and the end of a task. -/

theorem imageStream_idle {s : State} {t : Nat} (sound : s.bad = none) (nothing : (s.tile t).incoming = []) :
    exec (.imageStream t) s = .next s := by
  rw [exec_imageStream, execImageStream, State.streamNext, nothing, finish_eq_next sound]

/-- A line of the CIM's words has come. -/
def State.lineCame (s : State) (t : Nat) (i : Incoming) (rest : List Incoming) : State :=
  { s.updTile t fun T => { T with incoming := rest } with
    mem := memPut s.mem i.addr ((s.codeLine i.pa i.va i.mkey).1.take 64) }

/-- Line `j` of a part of an image comes (14 R380). -/
def State.streamLine (t : Nat) (i : Incoming) (s : State) (j : Nat) : State :=
  let (bs, q) := s.codeLine (i.pa + 64 * j) (i.va + 64 * j) i.mkey
  let o := (i.va + 64 * j) % 64
  let bs := (bs.drop o).take (min (64 - o) (i.len - 64 * j))
  let a := i.addr + 64 * j
  if cimBase t ≤ a then
    let s := { s with mem := memPut s.mem a bs }
    if q then s.updTile t fun T => { T with
      cimBad := (List.range 8).foldl (fun m w => setAdd m ((a - cimBase t) / 8 + w)) T.cimBad } else s
  else s.put a bs q

theorem streamNext_eq {s : State} {t : Nat} {i : Incoming} {rest : List Incoming} (next : (s.tile t).incoming = i :: rest) :
    s.streamNext t = (List.range ((i.len + 63) / 64)).foldl (State.streamLine t i) (s.updTile t fun T => { T with incoming := rest }) := by
  rw [State.streamNext, next]
  rfl

/-- A clean line of the CIM's words. -/
theorem streamLine_first {s : State} {t : Nat} {i : Incoming} (cim : cimBase t ≤ i.addr) (whole : i.va % 64 = 0) (line : i.len = 64)
    (clean : (s.codeLine i.pa i.va i.mkey).2 = false) : s.streamLine t i 0 =
      { s with mem := memPut s.mem i.addr ((s.codeLine i.pa i.va i.mkey).1.take 64) } := by
  unfold State.streamLine
  generalize cimBase t = b at cim ⊢
  simp -implicitDefEqProofs only [Nat.mul_zero, Nat.add_zero, whole, line, clean, List.drop_zero, Nat.sub_zero, Nat.min_self, if_pos cim]
  rfl

/-- A line of the CIM's words arrives. -/
theorem imageStream_line {s : State} {t : Nat} {i : Incoming} {rest : List Incoming} (sound : s.bad = none)
    (next : (s.tile t).incoming = i :: rest) (cim : cimBase t ≤ i.addr) (whole : i.va % 64 = 0) (line : i.len = 64)
    (clean : (s.codeLine i.pa i.va i.mkey).2 = false) : ∃ u, exec (.imageStream t) s = .next u ∧ (u.tile t).incoming = rest ∧
      u.mem = memPut s.mem i.addr ((s.codeLine i.pa i.va i.mkey).1.take 64) := by
  have streams : s.streamNext t = s.lineCame t i rest := by
    rw [streamNext_eq next, line, show (64 + 63) / 64 = 1 from rfl, List.range_one, List.foldl_cons, List.foldl_nil]
    exact streamLine_first cim whole line clean
  refine ⟨_, ?_, ?_, congrArg State.mem streams⟩
  · rw [exec_imageStream, execImageStream]
    exact finish_eq_next (by rw [streams]; exact sound)
  · rw [streams]
    exact congrArg Tile.incoming (State.updTile_tile s t fun T => { T with incoming := rest })

theorem doneCompletion_waits {s : State} {t : Nat} (sound : s.bad = none) (busy : s.doneReady t = false) :
    exec (.doneCompletion t) s = .next s := by
  rw [exec_doneCompletion, execDoneCompletion, State.taskDone, if_pos (by rw [busy]; rfl), finish_eq_next sound]

/-- CTXSCRUB's signal goes before the scrub. -/
theorem doneCompletion_signals {s : State} {t n : Nat} (sound : s.bad = none) (rest : s.doneReady t = true)
    (sig : (s.tile t).endSig = some (n + 1)) :
    exec (.doneCompletion t) s = .next ((s.updTile t fun T => { T with endSig := some 0 }).signalNow t 0 0 (n + 1) none) := by
  rw [exec_doneCompletion, execDoneCompletion, State.taskDone, if_neg (by rw [rest]; decide)]
  simp only [sig]
  exact finish_eq_next ((State.signalNow_bad ..).trans sound)

/-- A node of the task's launch counts its end. -/
def State.countEnd (s : State) (t : Nat) : State :=
  s.updLaunch (s.tile t).launch fun l => l.updNode (s.tile t).node fun x => { x with finished := x.finished + 1 }

/-- A tile whose task is gone. -/
def Tile.released (T : Tile) : Tile := { T with bound := false, task := false }

/-- The end of a task without a scrub: its node counts it, and its tile is free. -/
theorem doneCompletion_counts {s : State} {t : Nat} (sound : s.bad = none) (rest : s.doneReady t = true)
    (plain : (s.tile t).endSig = none) : ∃ u, exec (.doneCompletion t) s = .next u ∧ (u.tile t).bound = false ∧ (u.tile t).task = false ∧
      SameMemory s u ∧ SameOthers s u t ∧ ∀ l, s.launches = [l] → l.id = (s.tile t).launch → ∃ l', u.launches = [l'] ∧
        ∀ i n, l.nodes[i]? = some n →
          l'.nodes[i]? = some (if i = (s.tile t).node then { n with finished := n.finished + 1 } else n) := by
  have ends : s.taskDone t = (s.countEnd t).updTile t Tile.released := by
    rw [State.taskDone, if_neg (by rw [rest]; decide)]
    simp only [plain]
    rfl
  have tile : ((s.countEnd t).updTile t Tile.released).tile t = (s.tile t).released := State.updTile_tile ..
  refine ⟨(s.countEnd t).updTile t Tile.released, ?_, by rw [tile]; rfl, by rw [tile]; rfl, .of_eq rfl rfl rfl,
    fun v ne => State.updTile_other (s.countEnd t) _ ne, fun l only named =>
    ⟨l.updNode (s.tile t).node fun x => { x with finished := x.finished + 1 }, ?_, fun i n node => ?_⟩⟩
  · rw [exec_doneCompletion, execDoneCompletion, ends]
    exact finish_eq_next sound
  · have counted := updLaunch_single only fun l => l.updNode (s.tile t).node fun x => { x with finished := x.finished + 1 }
    rw [named] at counted
    exact counted
  · rw [updNode_getElem?, node, Option.map_some]

/-- Settles O42: the dispatcher's clauses by the lemmas on launches, submission entries, candidates, nodes, binds and ends. -/
theorem launchesAndTasks : Obligations.LaunchesAndTasks := by
  refine ⟨fun s id due t ctx sheaf sig clk cw rel sys sound found => launches_accepted sound found,
    fun s e ctx sheaf sound size more entry context number => ?_,
    fun s sound saved quiet => ⟨bindingDecision_idle sound saved quiet, fun c k p t => bindingDecision_takes sound saved quiet⟩,
    fun s l k c => cand?_single,
    fun s id k l sound only named => ?_,
    fun s id due t lid k p clk waits l i sound found launch => ?_,
    fun s t sound => ⟨imageStream_idle sound, fun i rest => imageStream_line sound, doneCompletion_waits sound,
      fun rest => ⟨fun n => doneCompletion_signals sound rest, doneCompletion_counts sound rest⟩⟩⟩
  · subst entry context number
    exact submissions_read sound size more
  · subst named
    exact ⟨promotion_raises k sound only, nodeCompletion_ends k sound only⟩
  · intro n image
    obtain ⟨closed, opened⟩ := taskBind_eq found launch image
    refine ⟨fun barred => (closed barred).trans (finish_eq_next sound), fun runs column => ?_⟩
    obtain ⟨stops, binds, refuses, waits⟩ := opened runs column
    refine ⟨fun code evict => ?_, fun code evict => ?_, fun cause va code other plain => ?_, fun e va code => ?_⟩
    · obtain ⟨bad, task, state, evicted, pc, mem⟩ := bindTile_stops (s.land id) t n i p ((s.land id).incomingOf l.ctx t i)
      exact ⟨_, (stops code evict).trans (finish_eq_next (bad.trans sound)), task, state, evicted, pc, mem⟩
    · exact ⟨_, (binds code evict).trans (finish_eq_next sound), bindTile_starts (s.land id) t n i p ((s.land id).incomingOf l.ctx t i)⟩
    · obtain ⟨bad, bound, task, mem, launches⟩ := bindRefused_frees (s := s.land id) t cause plain
      have number : l.id = lid := by simpa using List.find?_some launch
      rw [number] at launches
      exact ⟨_, (refuses cause va code other).trans (finish_eq_next (bad.trans sound)), bound, task, mem, launches⟩
    · obtain ⟨bad, -, -, flights, tc⟩ := pageAsked_kept s t l _ va
      refine ⟨_, (waits e va code).trans (finish_eq_next (bad.trans sound)), ?_⟩
      rw [tc, State.refly, flights]
      rfl

end Sys2Proof.Machine
end

section
namespace Sys2Proof.Machine

/-! ### A write of bytes and what it leaves (O8; 05 R130; 11 R324; 14 R386) -/

/-- `u` is `s` after the write of `bs` from `a` on with the poison `p`: the bytes, the poison of the granules covered, the tags
and dirty bits of what is touched, and nothing else. -/
structure Wrote (s : State) (a : Nat) (bs : List Nat) (p : Bool) (u : State) : Prop where
  canonical : u.Canonical
  bytes : ∀ k, memGet u.mem k =
    if a ≤ k ∧ k < a + bs.length then BitVec.ofNat 8 (bs.getD (k - a) 0) else memGet s.mem k
  poison : ∀ g, setHas u.pois g =
    if 64 * g + 64 ≤ a ∨ a + bs.length ≤ 64 * g ∨ bs.length = 0 then setHas s.pois g
    else if a ≤ 64 * g ∧ 64 * g + 64 ≤ a + bs.length then p else p || setHas s.pois g
  tags : ∀ k, setHas u.tags k =
    if 16 * k + 16 ≤ a ∨ a + bs.length ≤ 16 * k ∨ bs.length = 0 then setHas s.tags k else false
  rest : u = { s with mem := u.mem, pois := u.pois, tags := u.tags, tiles := u.tiles }
  tile : ∀ t, u.tile t = { s.tile t with dirty := (u.tile t).dirty }
  dirty : ∀ t k, setHas (u.tile t).dirty k = true ↔
    setHas (s.tile t).dirty k = true ∨ ∃ i, i < bs.length ∧ dirtyPage (a + i) = some (t, k)

theorem Wrote.nil {s : State} (canonical : s.Canonical) (a : Nat) (p : Bool) : Wrote s a [] p s where
  canonical := canonical
  bytes k := by rw [if_neg (by simp only [List.length_nil]; omega)]
  poison g := by rw [if_pos (.inr (.inr rfl))]
  tags k := by rw [if_pos (.inr (.inr rfl))]
  rest := rfl
  tile _ := rfl
  dirty _ _ := by simp

/-- The addresses of one granule lie in one page. -/
theorem dirtyPage_granule {a b : Nat} (same : a / 64 = b / 64) : dirtyPage a = dirtyPage b := by
  unfold dirtyPage
  by_cases inside : 2 ^ 40 ≤ a ∧ a < 2 ^ 40 + 176 * 2 ^ 20 ∧ (a - 2 ^ 40) % 2 ^ 20 < 2 ^ 19
  · have inside' : 2 ^ 40 ≤ b ∧ b < 2 ^ 40 + 176 * 2 ^ 20 ∧ (b - 2 ^ 40) % 2 ^ 20 < 2 ^ 19 := by omega
    have tile : (a - 2 ^ 40) / 2 ^ 20 = (b - 2 ^ 40) / 2 ^ 20 := by omega
    have page : (a - 2 ^ 40) % 2 ^ 20 / 4096 = (b - 2 ^ 40) % 2 ^ 20 / 4096 := by omega
    rw [if_pos inside, if_pos inside', tile, page]
  · rw [if_neg inside, if_neg (by omega)]

theorem markDirty_none {s : State} {a : Nat} (none : dirtyPage a = none) : s.markDirty a = s := by
  unfold State.markDirty
  rw [none]

theorem markDirty_some {s : State} {a v page : Nat} (some : dirtyPage a = some (v, page)) :
    s.markDirty a = s.updTile v fun T => { T with dirty := setAdd T.dirty page } := by
  unfold State.markDirty
  rw [some]
  rfl

theorem markDirty_rest (s : State) (a : Nat) : s.markDirty a = { s with tiles := (s.markDirty a).tiles } := by
  unfold State.markDirty
  split <;> rfl

theorem markDirty_tile (s : State) (a t : Nat) :
    (s.markDirty a).tile t = { s.tile t with dirty := ((s.markDirty a).tile t).dirty } ∧
    ∀ k, setHas ((s.markDirty a).tile t).dirty k = true ↔ setHas (s.tile t).dirty k = true ∨ dirtyPage a = some (t, k) := by
  cases page : dirtyPage a with
  | none =>
    rw [markDirty_none page]
    exact ⟨rfl, fun k => by simp⟩
  | some at' =>
    obtain ⟨v, n⟩ := at'
    rw [markDirty_some page]
    by_cases own : t = v
    · subst own
      rw [State.updTile_tile]
      refine ⟨rfl, fun k => ?_⟩
      rw [setHas_setAdd, Bool.or_eq_true, beq_iff_eq, Option.some_inj, Prod.mk.injEq, or_comm, eq_comm (a := k)]
      simp only [true_and]
    · rw [State.updTile_other _ _ own]
      exact ⟨rfl, fun k => by simp [Ne.symm own]⟩

/-- A write inside one granule. -/
theorem Wrote.putGranule {s : State} (canonical : s.Canonical) {a : Nat} {bs : List Nat} (some : 0 < bs.length)
    (inside : a % 64 + bs.length ≤ 64) (p : Bool) : Wrote s a bs p (s.putGranule a bs p) where
  canonical := putGranule_canonical canonical
  bytes _ := memGet_memPut canonical
  poison g := by
    change setHas (setPut s.pois (a / 64) (p || (setHas s.pois (a / 64) && bs.length != 64))) g = _
    rw [setHas_setPut]
    by_cases own : g = a / 64
    · subst own
      rw [if_pos rfl, if_neg (by omega)]
      by_cases whole : bs.length = 64
      · rw [if_pos (by omega), whole]
        simp
      · rw [if_neg (by omega), bne_iff_ne.mpr whole, Bool.and_true]
    · rw [if_neg own, if_pos (by omega)]
  tags k := by
    change setHas (s.tags.filter fun k => !(decide (a / 16 ≤ k) && decide (k < (a + bs.length + 15) / 16))) k = _
    rw [setHas_filter]
    by_cases clear : 16 * k + 16 ≤ a ∨ a + bs.length ≤ 16 * k ∨ bs.length = 0
    · have out : ¬ (a / 16 ≤ k ∧ k < (a + bs.length + 15) / 16) := by omega
      rw [if_pos clear]
      simp only [← Bool.decide_and, decide_eq_false out, Bool.not_false, Bool.true_and]
    · have into : a / 16 ≤ k ∧ k < (a + bs.length + 15) / 16 := by omega
      rw [if_neg clear]
      simp only [← Bool.decide_and, decide_eq_true into, Bool.not_true, Bool.false_and]
  rest := by
    have marked := markDirty_rest s a
    unfold State.putGranule
    dsimp only
    rw [marked]
  tile t := (markDirty_tile s a t).1
  dirty t k := by
    have page (i : Nat) (below : i < bs.length) : dirtyPage (a + i) = dirtyPage a := dirtyPage_granule (by omega)
    refine ((markDirty_tile s a t).2 k).trans (or_congr_right ⟨fun at' => ⟨0, some, at'⟩, ?_⟩)
    rintro ⟨i, below, at'⟩
    rwa [page i below] at at'

/-- Two writes of which the second starts at a granule, where the first ends, are one. -/
theorem Wrote.append {s v u : State} {a : Nat} {bs cs : List Nat} {p : Bool} (first : Wrote s a bs p v)
    (border : (a + bs.length) % 64 = 0) (second : Wrote v (a + bs.length) cs p u) : Wrote s a (bs ++ cs) p u where
  canonical := second.canonical
  bytes k := by
    rw [second.bytes, first.bytes, List.length_append]
    by_cases late : a + bs.length ≤ k
    · have skip : k - a = bs.length + (k - (a + bs.length)) := by omega
      rw [if_neg (by omega : ¬ (a ≤ k ∧ k < a + bs.length)), skip, List.getD_append_right _ _ _ _ (by omega), Nat.add_sub_cancel_left]
      exact if_congr (by omega) rfl rfl
    · rw [if_neg (by omega)]
      by_cases early : a ≤ k
      · rw [if_pos (by omega), if_pos (by omega), List.getD_append _ _ _ _ (by omega)]
      · rw [if_neg (by omega), if_neg (by omega)]
  poison g := by
    rw [second.poison, first.poison, List.length_append]
    by_cases late : a + bs.length ≤ 64 * g
    · rw [if_pos (.inr (.inl late) : 64 * g + 64 ≤ a ∨ a + bs.length ≤ 64 * g ∨ bs.length = 0)]
      by_cases out : a + bs.length + cs.length ≤ 64 * g ∨ cs.length = 0
      · rw [if_pos (by omega), if_pos (by omega)]
      · rw [if_neg (by omega),
          if_neg (by omega : ¬ (64 * g + 64 ≤ a ∨ a + (bs.length + cs.length) ≤ 64 * g ∨ bs.length + cs.length = 0))]
        exact if_congr (by omega) rfl rfl
    · rw [if_pos (by omega : 64 * g + 64 ≤ a + bs.length ∨ a + bs.length + cs.length ≤ 64 * g ∨ cs.length = 0)]
      exact if_congr (by omega) rfl (if_congr (by omega) rfl rfl)
  tags k := by
    rw [second.tags, first.tags, List.length_append]
    by_cases late : a + bs.length ≤ 16 * k
    · rw [if_pos (.inr (.inl late) : 16 * k + 16 ≤ a ∨ a + bs.length ≤ 16 * k ∨ bs.length = 0)]
      exact if_congr (by omega) rfl rfl
    · rw [if_pos (by omega : 16 * k + 16 ≤ a + bs.length ∨ a + bs.length + cs.length ≤ 16 * k ∨ cs.length = 0)]
      exact if_congr (by omega) rfl rfl
  rest := by rw [second.rest, first.rest]
  tile t := by rw [second.tile, first.tile]
  dirty t k := by
    rw [second.dirty, first.dirty, or_assoc, List.length_append]
    refine or_congr_right ⟨?_, ?_⟩
    · rintro (⟨i, below, page⟩ | ⟨i, below, page⟩)
      · exact ⟨i, by omega, page⟩
      · exact ⟨bs.length + i, by omega, by rwa [← Nat.add_assoc]⟩
    · rintro ⟨i, below, page⟩
      by_cases early : i < bs.length
      · exact .inl ⟨i, early, page⟩
      · exact .inr ⟨i - bs.length, by omega, by rwa [show a + bs.length + (i - bs.length) = a + i by omega]⟩

/-- The granules of a write, one after the other. -/
theorem Wrote.granules (p : Bool) {fuel : Nat} {s : State} (canonical : s.Canonical) (a : Nat) {bs : List Nat}
    (enough : bs.length < fuel) :
    Wrote s a bs p ((Machine.granules fuel a bs).foldl (fun s (g : Nat × List Nat) => s.putGranule g.1 g.2 p) s) := by
  induction fuel generalizing s a bs with
  | zero => omega
  | succ fuel ih =>
    cases bs with
    | nil => exact .nil canonical a p
    | cons b bs =>
      simp only [List.length_cons] at enough
      rw [Machine.granules.eq_3 _ _ _ (by simp), List.foldl_cons]
      have taken : ((b :: bs).take (64 - a % 64)).length = min (64 - a % 64) (bs.length + 1) := by simp
      have first := Wrote.putGranule canonical (a := a) (bs := (b :: bs).take (64 - a % 64)) (by omega) (by omega) p
      by_cases single : bs.length + 1 ≤ 64 - a % 64
      · rw [List.drop_eq_nil_of_le single]
        rw [List.take_of_length_le single] at first ⊢
        cases fuel <;> exact first
      · have second := ih first.canonical (a + (64 - a % 64)) (bs := (b :: bs).drop (64 - a % 64))
          (by rw [List.length_drop, List.length_cons]; omega)
        have both := first.append (by rw [taken]; omega) (cs := (b :: bs).drop (64 - a % 64))
          (by rw [taken, Nat.min_eq_left (by omega)]; exact second)
        rwa [List.take_append_drop] at both

theorem put_wrote {s : State} (canonical : s.Canonical) (a : Nat) (bs : List Nat) (p : Bool) : Wrote s a bs p (s.put a bs p) :=
  .granules p canonical a (Nat.lt_succ_self _)

/-- Settles O8: a write is made granule by granule (`put_wrote`). -/
theorem memoryReadsWhatWasWritten : Obligations.MemoryReadsWhatWasWritten := by
  intro s a bs p canonical
  have written := put_wrote canonical a bs p
  exact ⟨written.canonical, written.bytes, written.poison, written.tags, written.rest,
    fun t => ⟨written.tile t, written.dirty t⟩⟩

/-! ### The checks on a capability (O14; 05 R131, R133, R136) -/

theorem outside_eq_none {base len : Nat} {a : Int} {n : Nat} :
    outside base len a n = none ↔ (base : Int) ≤ a ∧ a + n ≤ (base : Int) + len := by
  unfold outside
  split
  · simp only [reduceCtorEq, false_iff]; omega
  · split
    · simp only [reduceCtorEq, false_iff]; omega
    · simp only [true_iff]; omega

/-- What a word accepts of a capability's space (order 3). -/
def spaceOk (sup : Bool) (c : CReg) (w : Need) : Prop :=
  capSpace c.v ∈ w.spaces ∧ (capSpace c.v = 5 → sup = true) ∧ (capSpace c.v = 0 → capForeign c.v = true → w.foreign = true)

theorem spaceOk_iff {sup : Bool} {c : CReg} {w : Need} : spaceOk sup c w ↔
    ¬ (!w.spaces.contains (capSpace c.v) || (capSpace c.v == 5 && !sup) ||
      (capSpace c.v == 0 && capForeign c.v && !w.foreign)) = true := by
  unfold spaceOk
  simp only [Bool.not_eq_true, Bool.or_eq_false_iff, Bool.not_eq_false', List.contains_iff_mem, Bool.and_eq_false_imp, beq_iff_eq,
    Bool.and_eq_true, and_imp, and_assoc]

section
variable {s : State} {t : Nat} {sup : Bool} {c : CReg} {w : Need} {a : Int} {n : Nat}

theorem checkCap_untagged (tag : c.tag = false) : ∃ v, s.checkCap t sup c w a n = some (0x20, v) := by
  simp only [State.checkCap, tag]
  exact ⟨_, rfl⟩

theorem checkCap_space (tag : c.tag = true) (space : ¬ spaceOk sup c w) : ∃ v, s.checkCap t sup c w a n = some (0x24, v) := by
  rw [spaceOk_iff, not_not] at space
  simp only [State.checkCap, tag, space]
  exact ⟨_, rfl⟩

/-- Past orders 2 and 3. -/
theorem checkCap_perms (tag : c.tag = true) (space : spaceOk sup c w) : s.checkCap t sup c w a n =
    if capPerms c.v &&& w.perms ≠ w.perms then some (0x22, (BitVec.ofInt 64 a).toNat)
    else if a % w.align ≠ 0 then some (0x23, (BitVec.ofInt 64 a).toNat)
    else (outside (capOff c.v) (capLen c.v) a n).elim
      (if capSpace c.v = 1 ∧ s.scratchSize (s.tile t).ctx (scratchCol c.v t) < a.toNat + n then
        some (0x26, max a.toNat (s.scratchSize (s.tile t).ctx (scratchCol c.v t))) else none)
      fun x => some (0x21, (BitVec.ofInt 64 x).toNat) := by
  unfold State.checkCap
  dsimp only
  rw [if_neg (by rw [tag]; decide), if_neg (spaceOk_iff.mp space)]
  cases outside (capOff c.v) (capLen c.v) a n <;> rfl

end

/-- Settles O14: each check is the first of those left (`checkCap_perms` past the second); what fails none passes. -/
theorem capabilityChecksInOrder : Obligations.CapabilityChecksInOrder := by
  intro s t sup c w a n sp cause space perms within scratch
  have untagged (tag : c.tag = false) : cause 0x20 := checkCap_untagged tag
  have spaces (tag : c.tag = true) (bad : ¬ space) : cause 0x24 := checkCap_space tag bad
  have lacks (tag : c.tag = true) (good : space) (bad : ¬ perms) : cause 0x22 :=
    ⟨_, by rw [checkCap_perms tag good, if_pos bad]⟩
  have skewed (tag : c.tag = true) (good : space) (may : perms) (bad : a % w.align ≠ 0) : cause 0x23 :=
    ⟨_, by rw [checkCap_perms tag good, if_neg (not_not.mpr may), if_pos bad]⟩
  have aligned (tag : c.tag = true) (good : space) (may : perms) (even : a % w.align = 0) : s.checkCap t sup c w a n =
      (outside (capOff c.v) (capLen c.v) a n).elim
        (if capSpace c.v = 1 ∧ s.scratchSize (s.tile t).ctx (scratchCol c.v t) < a.toNat + n then
          some (0x26, max a.toNat (s.scratchSize (s.tile t).ctx (scratchCol c.v t))) else none)
        fun x => some (0x21, (BitVec.ofInt 64 x).toNat) := by
    rw [checkCap_perms tag good, if_neg (not_not.mpr may), if_neg (not_not.mpr even)]
  have beyond (tag : c.tag = true) (good : space) (may : perms) (even : a % w.align = 0) (bad : ¬ within) : cause 0x21 := by
    obtain ⟨x, found⟩ := Option.ne_none_iff_exists'.mp (mt outside_eq_none.mp bad)
    exact ⟨_, by rw [aligned tag good may even, found, Option.elim_some]⟩
  have inside (tag : c.tag = true) (good : space) (may : perms) (even : a % w.align = 0) (fits : within) :
      s.checkCap t sup c w a n = if capSpace c.v = 1 ∧ s.scratchSize (s.tile t).ctx (scratchCol c.v t) < a.toNat + n then
        some (0x26, max a.toNat (s.scratchSize (s.tile t).ctx (scratchCol c.v t))) else none := by
    rw [aligned tag good may even, outside_eq_none.mpr fits, Option.elim_none]
  have large (tag : c.tag = true) (good : space) (may : perms) (even : a % w.align = 0) (fits : within) (bad : ¬ scratch) :
      cause 0x26 := ⟨_, by rw [inside tag good may even fits, if_pos (by simpa [scratch, sp] using bad)]⟩
  refine ⟨untagged, spaces, lacks, skewed, beyond, large, fun none => ?_, ?_⟩
  · have no (k : Nat) : ¬ cause k := by
      rintro ⟨v, fails⟩
      rw [none] at fails
      cases fails
    have tag : c.tag = true := by
      by_contra bad
      exact no _ (untagged (by simpa using bad))
    have good : space := by_contra fun bad => no _ (spaces tag bad)
    have may : perms := by_contra fun bad => no _ (lacks tag good bad)
    have even : a % w.align = 0 := by_contra fun bad => no _ (skewed tag good may bad)
    have fits : within := by_contra fun bad => no _ (beyond tag good may even bad)
    exact ⟨tag, good, may, even, fits, by_contra fun bad => no _ (large tag good may even fits bad)⟩
  · rintro ⟨tag, good, may, even, fits, small⟩
    rw [inside tag good may even fits, if_neg (by simpa [scratch, sp] using small)]

end Sys2Proof.Machine
end

section
namespace Sys2Proof.Machine

/-! ### Words of a ring-fed engine as they issue (02 R49; 05 R127, R132) -/

@[simp] theorem State.stopEngine_bad (s : State) (t e cause : Nat) (tval : Word) (roff : Nat) (wdone pfx begun : Bool)
    (group rest : List RWord) : (s.stopEngine t e cause tval roff wdone pfx begun group rest).bad = s.bad := rfl
@[simp] theorem State.execFault_bad (s : State) (t e cause : Nat) (tval : Word) (sig : Nat) :
    (s.execFault t e cause tval sig).bad = s.bad := by simp [State.execFault]
@[simp] theorem State.unhold_bad (s : State) (t e : Nat) : (s.unhold t e).bad = s.bad := rfl
@[simp] theorem State.dropL1_bad (s : State) (t : Nat) (hit : Nat → Bool) : (s.dropL1 t hit).bad = s.bad := rfl
@[simp] theorem State.acquireL1_bad (s : State) (t scope order : Nat) : (s.acquireL1 t scope order).bad = s.bad := by
  unfold State.acquireL1
  split <;> rfl
@[simp] theorem State.send_bad (s : State) (a : Access) : (s.send a).bad = s.bad := by simp [State.send]

/-- A word that goes stays where it is while something else holds its issue; otherwise it begins, and is held or has its
effect. -/
theorem engIssue_eq {s w : State} {t e : Nat} {h : Hdr} (g : RingGoes s t e h w) (k : EngChecks) (eff : Nat → Nat → State → State) :
    engIssue h s k eff = if k.busy s t then .next s
      else (k.hold true ((w.begin t e).updEng t e fun x => { x with
          hold := .issued ((s.tile t).resolveSig h.sig) ((s.tile t).engine e).latch }) t).elim
        (finish (eff t ((s.tile t).resolveSig h.sig) (w.begin t e))) finish := by
  have passes := g.passes
  simp only [engIssue, g.curTile, g.curEng, g.waitMapped, g.sigMapped, g.idle, passes, Bool.or_self, finish_eq_next g.sound]
  cases k.hold true ((w.begin t e).updEng t e fun x => { x with
    hold := .issued ((s.tile t).resolveSig h.sig) ((s.tile t).engine e).latch }) t <;> rfl

theorem engIssue_busy {s w : State} {t e : Nat} {h : Hdr} (g : RingGoes s t e h w) (k : EngChecks) (eff : Nat → Nat → State → State)
    (busy : k.busy s t = true) : engIssue h s k eff = .next s := by
  rw [engIssue_eq g, if_pos busy]

/-- A word of the access core with no write pending on its registers and nothing else to wait for. -/
theorem interlock_goes {s w : State} {t : Nat} {h : Hdr} (g : RingGoes s t 1 h w) {rs : List Nat} (free : s.accPending t rs = false)
    {eff : Nat → Nat → State → State} (sound : ∀ sig u, u.bad = none → (eff t sig u).bad = none) :
    engIssue h s (interlock rs) eff = .next (eff t ((s.tile t).resolveSig h.sig) (w.begin t 1)) := by
  rw [engIssue_goes g _ _ free fun _ => rfl, finish_eq_next (sound _ _ (by simp [g.bad]))]

/-- A word of the access core that names no register. -/
theorem accFree_goes {s w : State} {t : Nat} {h : Hdr} (g : RingGoes s t 1 h w)
    {eff : Nat → Nat → State → State} (sound : ∀ sig u, u.bad = none → (eff t sig u).bad = none) :
    engIssue h s .none eff = .next (eff t ((s.tile t).resolveSig h.sig) (w.begin t 1)) := by
  rw [engIssue_goes g _ _ rfl fun _ => rfl, finish_eq_next (sound _ _ (by simp [g.bad]))]

theorem accWrite_held {s w : State} {t : Nat} {h : Hdr} (g : RingGoes s t 1 h w) (d l : Nat) (rs : List Nat) (v : State → Nat → RegV)
    (pending : s.accPending t (d :: rs) = true) : accWrite h s d l rs v = .next s :=
  engIssue_busy g _ _ pending

end Sys2Proof.Machine
end

section
namespace Sys2Proof.Machine

/-! ### Register words of the access core (O9; 05 R143 to R145, R157) -/

/-- Which permissions of a capability a mask of R, W and bit 4 names. -/
theorem perms_named (x : Nat) (p q r : Bool) : x &&& (bit p 0 + bit q 1 + bit r 4) = bit p 0 + bit q 1 + bit r 4 ↔
    (p = true → x % 2 = 1) ∧ (q = true → x / 2 % 2 = 1) ∧ (r = true → x / 16 % 2 = 1) := by
  have low : x &&& (bit p 0 + bit q 1 + bit r 4) = x % 2 ^ 5 &&& (bit p 0 + bit q 1 + bit r 4) := by
    have small : bit p 0 + bit q 1 + bit r 4 < 2 ^ 5 := by cases p <;> cases q <;> cases r <;> decide
    rw [← Nat.mod_eq_of_lt (Nat.lt_of_le_of_lt Nat.and_le_right small), Nat.and_mod_two_pow, Nat.mod_eq_of_lt small]
  have finite : ∀ y < 32, ∀ p q r : Bool, y &&& (bit p 0 + bit q 1 + bit r 4) = bit p 0 + bit q 1 + bit r 4 ↔
    (p = true → y % 2 = 1) ∧ (q = true → y / 2 % 2 = 1) ∧ (r = true → y / 16 % 2 = 1) := by decide
  rw [low]
  refine (finite (x % 2 ^ 5) (Nat.mod_lt _ (by decide)) p q r).trans ?_
  rw [show x % 2 ^ 5 % 2 = x % 2 by omega, show x % 2 ^ 5 / 2 % 2 = x / 2 % 2 by omega,
    show x % 2 ^ 5 / 16 % 2 = x / 16 % 2 by omega]

theorem capTest_iff (c : CReg) (b need : Nat) : capTest c b need = true ↔
    c.tag = true ∧ (need % 2 = 1 → capPerms c.v % 2 = 1) ∧ (need / 2 % 2 = 1 → capPerms c.v / 2 % 2 = 1) ∧
      (need / 4 % 2 = 1 → capPerms c.v / 16 % 2 = 1) ∧ b ≤ capLen c.v := by
  have mask : (if need % 2 = 1 then 1 else 0) + (if need / 2 % 2 = 1 then 2 else 0) + (if need / 4 % 2 = 1 then 16 else 0) =
      bit (decide (need % 2 = 1)) 0 + bit (decide (need / 2 % 2 = 1)) 1 + bit (decide (need / 4 % 2 = 1)) 4 := by
    simp [bit]
  simp only [capTest]
  rw [mask, Bool.and_eq_true, Bool.and_eq_true, beq_iff_eq, perms_named]
  simp only [decide_eq_true_eq, and_assoc]

/-- Settles O9: each word writes its function of the operands (`accWrite_goes`), and stays while a write is pending. -/
theorem accessRegisterWords : Obligations.AccessRegisterWords := by
  intro s w t h d a b i n q e f need g x y k T m out
  have wr (l : Nat) (rs : List Nat) (free : s.accPending t (d :: rs) = false) (v : State → Nat → RegV) {r : Word} {p : Bool}
      (value : v s t = ⟨r, p⟩) : accWrite h s d l rs v = out l r p := by
    rw [accWrite_goes g d l rs v free, value]
  have rrr (f : Word → Word → Word) (free : s.accPending t [d, a, b] = false) :
      accRRR h s d a b 1 f = out 1 (f x.v y.v) (x.p || y.p) := wr 1 [a, b] free _ rfl
  have rr (l : Nat) (f : Word → Word) {r : Word} (free : s.accPending t [d, a] = false) (value : f x.v = r) :
      accRR h s d a l f = out l r x.p := wr l [a] free _ (value ▸ rfl)
  simp only [exec_aadd, exec_asub, exec_ctest, exec_aaddi, exec_amuli, exec_aandi, exec_ashli, exec_cget, exec_ali, exec_qrd,
    exec_rdget]
  refine ⟨fun free => ⟨rrr _ free, rrr _ free, wr 1 [a, b] free _ (congrArg (RegV.mk · y.p) ?_)⟩,
    fun free => ⟨rr 1 _ free rfl, rr 3 _ free rfl, rr 1 _ free rfl, fun below => rr 1 _ free ?_, wr 1 [a] free _ rfl,
      wr 1 [a] free _ rfl, wr 1 [a] free _ rfl, wr 1 [a] free _ rfl, wr 1 [a] free _ (congrArg (RegV.mk · false) ?_)⟩,
    fun free => ⟨wr 1 [] free _ rfl, wr 1 [] free _ rfl, fun none => wr 1 [] free _ (congrArg (RegV.mk · false) (if_pos none)),
      fun lw small size => wr 1 [] free _ (congrArg (RegV.mk · false) ?_)⟩,
    fun pending => ?_⟩
  · exact if_congr (capTest_iff ..) rfl rfl
  · rw [shl64_eq, w64, BitVec.toNat_ofNat, Nat.mod_eq_of_lt (by omega)]
  · cases tag : (s.creg t a).tag <;> simp [capField, tag, bit, w64]
  · simp only [Ring.desc, T, size, Nat.log2_two_pow, if_neg (Nat.two_pow_pos lw).ne', w64]
  · have held (f : Word → Word → Word) : accRRR h s d a b 1 f = .next s := accWrite_held g d 1 [a, b] _ pending
    exact ⟨held _, held _, accWrite_held g d 1 [a, b] _ pending⟩

end Sys2Proof.Machine
end

section
namespace Sys2Proof.Machine

/-! ### Derived capabilities (O10; 05 R129, R130, R145) -/

/-- A capability written from its upper fields, its length and its base. -/
theorem cap_fields {top len base : Nat} (tops : top < 2 ^ 32) (lens : len < 2 ^ 40) (bases : base < 2 ^ 56) :
    let v : Cap := BitVec.ofNat 128 (top * 2 ^ 96 + len * 2 ^ 56 + base)
    v.toNat / 2 ^ 96 = top ∧ capLen v = len ∧ capBase v = base := by
  have fits : top * 2 ^ 96 + len * 2 ^ 56 + base < 2 ^ 128 := by omega
  dsimp only
  rw [capLen, capBase, BitVec.toNat_ofNat, Nat.mod_eq_of_lt fits]
  omega

/-- Permissions, space and what lies above them go by the bits from 96 up. -/
theorem capTop_eq {v c : Cap} (top : v.toNat / 2 ^ 96 = c.toNat / 2 ^ 96) :
    capPerms v = capPerms c ∧ capSpace v = capSpace c ∧ v.toNat / 2 ^ 112 = c.toNat / 2 ^ 112 := by
  have split (n k : Nat) : n / 2 ^ (96 + k) = n / 2 ^ 96 / 2 ^ k := by rw [Nat.pow_add, Nat.div_div_eq_div_mul]
  unfold capPerms capSpace
  refine ⟨by rw [top], ?_, ?_⟩
  · rw [split _ 12, split _ 12, top]
  · rw [split _ 16, split _ 16, top]

theorem offBits_le (space : Nat) : offBits space ≤ 56 := by
  unfold offBits
  split <;> decide

theorem capTop_lt (c : Cap) : c.toNat / 2 ^ 96 < 2 ^ 32 := by have := c.isLt; omega

/-- CDER: the offset rises by `n` in its field, the length falls by it, the rest of the base stays. -/
theorem capAdvance_fields (c : Cap) (n : Nat) :
    (capAdvance c n).toNat / 2 ^ 96 = c.toNat / 2 ^ 96 ∧ (n ≤ capLen c → capLen (capAdvance c n) = capLen c - n) ∧
    capOff (capAdvance c n) = (capOff c + n) % 2 ^ offBits (capSpace c) ∧
    capBase (capAdvance c n) / 2 ^ offBits (capSpace c) = capBase c / 2 ^ offBits (capSpace c) := by
  have field : 0 < 2 ^ offBits (capSpace c) := Nat.two_pow_pos _
  have low : (capBase c + n) % 2 ^ offBits (capSpace c) < 2 ^ offBits (capSpace c) := Nat.mod_lt _ field
  have high : capBase c / 2 ^ offBits (capSpace c) < 2 ^ (56 - offBits (capSpace c)) := by
    rw [Nat.div_lt_iff_lt_mul field, ← Nat.pow_add, Nat.sub_add_cancel (offBits_le _)]
    exact Nat.mod_lt _ (by decide)
  have whole : capBase c / 2 ^ offBits (capSpace c) * 2 ^ offBits (capSpace c) + (capBase c + n) % 2 ^ offBits (capSpace c) < 2 ^ 56 :=
    calc _ < (capBase c / 2 ^ offBits (capSpace c) + 1) * 2 ^ offBits (capSpace c) := by rw [Nat.add_mul, Nat.one_mul]; omega
      _ ≤ 2 ^ (56 - offBits (capSpace c)) * 2 ^ offBits (capSpace c) := Nat.mul_le_mul_right _ high
      _ = 2 ^ 56 := by rw [← Nat.pow_add, Nat.sub_add_cancel (offBits_le _)]
  obtain ⟨top, len, base⟩ := cap_fields (capTop_lt c) (Nat.mod_lt (capLen c + 2 ^ 40 - n % 2 ^ 40) (by decide : 0 < 2 ^ 40)) whole
  obtain ⟨-, space, -⟩ := capTop_eq top
  have bound : capLen c < 2 ^ 40 := Nat.mod_lt _ (by decide)
  refine ⟨top, fun le => ?_, ?_, ?_⟩
  · rw [capAdvance, len]
    omega
  · rw [capOff, capAdvance, space, base, Nat.mul_comm, Nat.mul_add_mod, Nat.mod_mod, capOff, Nat.mod_add_mod]
  · rw [capAdvance, base, Nat.mul_comm, Nat.mul_add_div field, Nat.div_eq_of_lt low, Nat.add_zero]

theorem capWithLen_fields (c : Cap) (n : Nat) :
    (capWithLen c n).toNat / 2 ^ 96 = c.toNat / 2 ^ 96 ∧ capLen (capWithLen c n) = n % 2 ^ 40 ∧ capBase (capWithLen c n) = capBase c :=
  cap_fields (capTop_lt c) (Nat.mod_lt _ (by decide)) (Nat.mod_lt _ (by decide))

theorem testBit_capField (c : Cap) (lo width i : Nat) : (c.toNat / 2 ^ lo % 2 ^ width).testBit i = (decide (i < width) && c.getLsbD (lo + i)) := by
  rw [Nat.testBit_mod_two_pow, Nat.testBit_div_two_pow, Nat.add_comm, BitVec.testBit_toNat]

/-- The permissions that `mask` names, and every other bit (CPERM). -/
def capMasked (c : Cap) (mask : Nat) : Cap := c &&& ~~~(BitVec.ofNat 128 ((4095 - mask % 4096) * 2 ^ 96))

theorem getLsbD_capMasked (c : Cap) (mask : Nat) {j : Nat} :
    (capMasked c mask).getLsbD j = (c.getLsbD j && (!(decide (96 ≤ j ∧ j - 96 < 12)) || mask.testBit (j - 96))) := by
  by_cases wide : j < 128
  · have named : 4095 - mask % 4096 = 2 ^ 12 - (mask % 2 ^ 12 + 1) := by omega
    rw [capMasked, BitVec.getLsbD_and, BitVec.getLsbD_not, BitVec.getLsbD_ofNat, Nat.testBit_mul_two_pow, named,
      Nat.testBit_two_pow_sub_succ (Nat.mod_lt _ (by decide)), Nat.testBit_mod_two_pow]
    by_cases low : 96 ≤ j <;> by_cases high : j - 96 < 12 <;> simp [wide, low, high]
  · rw [BitVec.getLsbD_of_ge _ _ (by omega), BitVec.getLsbD_of_ge c _ (by omega), Bool.false_and]

theorem capMasked_fields (c : Cap) (mask : Nat) :
    capPerms (capMasked c mask) = capPerms c &&& mask ∧ capSpace (capMasked c mask) = capSpace c ∧
    capBase (capMasked c mask) = capBase c ∧ capLen (capMasked c mask) = capLen c ∧
    (capMasked c mask).toNat / 2 ^ 112 = c.toNat / 2 ^ 112 := by
  have other (lo width : Nat) (apart : lo + width ≤ 96 ∨ 108 ≤ lo) :
      (capMasked c mask).toNat / 2 ^ lo % 2 ^ width = c.toNat / 2 ^ lo % 2 ^ width := by
    refine Nat.eq_of_testBit_eq fun i => ?_
    rw [testBit_capField, testBit_capField, getLsbD_capMasked]
    by_cases inside : i < width
    · simp only [decide_eq_false (by omega : ¬ (96 ≤ lo + i ∧ lo + i - 96 < 12)), Bool.not_false, Bool.true_or, Bool.and_true]
    · simp only [inside, decide_false, Bool.false_and]
  refine ⟨Nat.eq_of_testBit_eq fun i => ?_, other 108 4 (.inr (by decide)), ?_, other 56 40 (.inl (by decide)), ?_⟩
  · change (_ / 2 ^ 96 % 2 ^ 12).testBit i = (_ / 2 ^ 96 % 2 ^ 12 &&& mask).testBit i
    rw [Nat.testBit_and, testBit_capField, testBit_capField, getLsbD_capMasked]
    by_cases inside : i < 12
    · rw [decide_eq_true (by omega : 96 ≤ 96 + i ∧ 96 + i - 96 < 12), Nat.add_sub_cancel_left, Bool.not_true, Bool.false_or, Bool.and_assoc]
    · simp only [inside, decide_false, Bool.false_and]
  · simpa [capBase] using other 0 56 (.inl (by decide))
  · have top := other 112 16 (.inr (by decide))
    rwa [Nat.mod_eq_of_lt (by have := (capMasked c mask).isLt; omega), Nat.mod_eq_of_lt (by have := c.isLt; omega)] at top

/-- CDER and CDER.LEN with `f` as their function of the source: the checks of 05 R145 in their order. -/
theorem accDerive_goes {s w : State} {t : Nat} {h : Hdr} (g : RingGoes s t 1 h w) {d a b : Nat} (f : Cap → Nat → Cap)
    (free : s.accPending t [d, a, b] = false) :
    let k := s.creg t a
    let n := (s.areg t b).v.toNat
    let u := w.begin t 1
    let sig := (s.tile t).resolveSig h.sig
    accDerive h d a b f s = .next (
      if (s.areg t b).p then u.execFault t 1 0x31 (w64 b) sig
      else if k.tag && capPerms k.v / 2 ^ 8 % 2 == 0 then u.execFault t 1 0x22 (w64 (capOff k.v + n)) sig
      else if k.tag && decide (capLen k.v < n) then u.execFault t 1 0x21 (w64 (capOff k.v + n)) sig
      else (u.flyTile t 1 (.creg t (d % 64) ⟨f k.v n, k.tag⟩ 0)).signalIn t 1 0 sig 1 none) :=
  interlock_goes g free fun sig u sound => by
    dsimp only
    repeat' split
    all_goals simp [sound]

/-- Settles O10: the branches of `accDerive_goes`, with the fields of the capability derived. -/
theorem capabilitiesOnlyNarrow : Obligations.CapabilitiesOnlyNarrow := by
  intro s w t h d a b mask g
  simp only [exec_cder, exec_cderLen, exec_cperm]
  refine ⟨fun free clean derives => ?_, fun free => ?_,
    fun free => ⟨fun poisoned => ?_, fun clean tag lacks => ?_, fun clean tag may long => ?_⟩⟩
  · have may : ((s.creg t a).tag && capPerms (s.creg t a).v / 2 ^ 8 % 2 == 0) = false := by
      rcases derives with tag | ⟨may, -⟩
      · rw [tag, Bool.false_and]
      · rw [may, Bool.and_eq_false_imp]
        exact fun _ => rfl
    have fits : ((s.creg t a).tag && decide (capLen (s.creg t a).v < (s.areg t b).v.toNat)) = false := by
      rcases derives with tag | ⟨-, fits⟩
      · rw [tag, Bool.false_and]
      · rw [decide_eq_false (Nat.not_lt.mpr fits), Bool.and_false]
    have goes (f : Cap → Nat → Cap) := accDerive_goes g f free
    simp only [clean, may, fits, Bool.false_eq_true, if_false] at goes
    obtain ⟨top, len, off, base⟩ := capAdvance_fields (s.creg t a).v (s.areg t b).v.toNat
    obtain ⟨perms, space, upper⟩ := capTop_eq top
    obtain ⟨top', len', base'⟩ := capWithLen_fields (s.creg t a).v (s.areg t b).v.toNat
    obtain ⟨perms', space', upper'⟩ := capTop_eq top'
    exact ⟨⟨_, goes capAdvance, perms, space, upper, len, off, base⟩, ⟨_, goes capWithLen, perms', space', upper', base', len'⟩⟩
  · obtain ⟨perms, space, base, len, upper⟩ := capMasked_fields (s.creg t a).v mask
    exact ⟨_, interlock_goes g free fun sig u sound => by simp [sound], perms, space, base, len, upper⟩
  · have goes (f : Cap → Nat → Cap) := accDerive_goes g f free
    simp only [poisoned, if_true] at goes
    exact ⟨goes capAdvance, goes capWithLen⟩
  · have goes (f : Cap → Nat → Cap) := accDerive_goes g f free
    simp only [clean, tag, lacks, Bool.false_eq_true, if_false, beq_self_eq_true, Bool.and_true, if_true] at goes
    exact ⟨⟨_, goes capAdvance⟩, ⟨_, goes capWithLen⟩⟩
  · have goes (f : Cap → Nat → Cap) := accDerive_goes g f free
    simp only [clean, tag, may, long, Bool.false_eq_true, if_false, Bool.true_and, decide_true, if_true,
      Nat.reduceBEq] at goes
    exact ⟨⟨_, goes capAdvance⟩, ⟨_, goes capWithLen⟩⟩

end Sys2Proof.Machine
end

section
namespace Sys2Proof.Machine

/-! ### Hints, queue and ring management, ordering words (O13; 05 R135, R143, R148, R149, R157; 12 R334) -/

/-- L1INV drops the line that its address names, if the address passes its check and names one. -/
theorem l1inv_goes {s w : State} {t : Nat} {h : Hdr} (g : RingGoes s t 1 h w) {c index scale disp : Nat}
    (free : s.accPending t (memRegs c index scale) = false) {line : Option Nat}
    (named : ((s.hintAt t c index scale disp [1, 2]).bind fun a =>
      s.l1Key t (capSpace (s.creg t c).v) (capUnit (s.creg t c).v t) a) = line) :
    execL1inv h c index scale disp s =
      .next (((w.begin t 1).dropL1 t fun x => line == some x).signalIn t 1 0 ((s.tile t).resolveSig h.sig) 1 none) := by
  subst named
  exact interlock_goes g free fun sig u sound => by simp [sound]

/-- PREF sends the fetch of a checked address. -/
theorem pref_goes {s w : State} {t : Nat} {h : Hdr} (g : RingGoes s t 1 h w) {q c index scale disp : Nat}
    (free : s.accPending t (memRegs c index scale) = false) :
    execPref h q c index scale disp s = .next (((s.hintAt t c index scale disp [2]).elim (w.begin t 1) fun a =>
      (w.begin t 1).send { newAccess h t 0x31 0 (s.creg t c) a with keys := [(a / 64 * 64, 0)], size := 64, x := 4096 + q }).signalIn
        t 1 0 ((s.tile t).resolveSig h.sig) 1 none) := by
  refine (interlock_goes g free fun sig u sound => ?_).trans ?_
  · dsimp only
    split <;> simp [sound]
  · cases s.hintAt t c index scale disp [2] <;> rfl

theorem rdset_goes {s w : State} {t : Nat} {h : Hdr} (g : RingGoes s t 1 h w) {e a : Nat} (free : s.accPending t [a] = false) :
    execRdset h e a s = .next (if !rdsetOk (s.areg t a).v.toNat then
        (w.begin t 1).execFault t 1 0x09 (((((w.begin t 1).tile t).engine 1).group.getLast?.map (·.w)).getD 0)
          ((s.tile t).resolveSig h.sig)
      else (w.begin t 1).updEng t 1 fun y => { y with hold := .rdset e (s.areg t a).v ((s.tile t).resolveSig h.sig) }) :=
  interlock_goes g free fun sig u sound => by
    dsimp only
    split <;> simp [sound]

/-- Settles O13: each word begins and drops, sends or holds what it says. -/
theorem hintAndHoldWords : Obligations.HintAndHoldWords := by
  intro s w t h q c index scale disp n e a g
  simp only [exec_l1inv, exec_pref, exec_l1inva, exec_qdrop, exec_mark, exec_accFence, exec_rdset]
  refine ⟨fun free => ⟨fun fails => ?_, fun va line hint key => ?_, fun fails => ?_, fun va hint => ?_⟩, ?_, ?_, ?_, ?_,
    fun free => ⟨fun valid => ?_, fun invalid => ?_⟩⟩
  · exact l1inv_goes g free (line := none) (by rw [fails]; rfl)
  · rw [l1inv_goes g free (line := some line) (by rw [hint]; exact key)]
    have same : (fun x => some line == some x) = fun y => y == line :=
      funext fun x => Bool.eq_iff_iff.mpr (by rw [beq_iff_eq, beq_iff_eq, Option.some_inj, eq_comm])
    rw [same]
  · rw [pref_goes g free, fails, Option.elim_none]
  · rw [pref_goes g free, hint, Option.elim_some]
    exact ⟨_, rfl, rfl, rfl, rfl⟩
  · exact accFree_goes g fun sig u sound => by simp [sound]
  · exact accFree_goes g fun sig u sound => by simp [sound]
  · exact accFree_goes g fun sig u sound => by simp [sound]
  · exact accFree_goes g fun sig u sound => by simp [sound]
  · rw [rdset_goes g free, valid]
    rfl
  · rw [rdset_goes g free, invalid]
    exact ⟨_, rfl⟩

end Sys2Proof.Machine
end

section
namespace Sys2Proof.Machine

/-! ### What a word of the access core leaves alone as it issues (05 R127) -/

/-- A tile changed at most in its engines and rings, in the objects of waits and signals, and in its L1. -/
def AccTile (T U : Tile) : Prop :=
  U = { T with eng := U.eng, rings := U.rings, sem := U.sem, tq := U.tq, pushes := U.pushes, bar := U.bar, bpend := U.bpend,
               know := U.know, l1 := U.l1 }

theorem AccTile.refl (T : Tile) : AccTile T T := rfl

theorem AccTile.trans {T U V : Tile} (a : AccTile T U) (b : AccTile U V) : AccTile T V := by
  unfold AccTile at a b ⊢
  rw [b, a]

theorem SyncOnly.accTile {T U : Tile} (sync : SyncOnly T U) : AccTile T U := by
  obtain ⟨tile, ctxs⟩ := sync
  unfold TileButSync at tile
  unfold AccTile
  rw [tile, ctxs]

/-- A step of the access core of tile `t`: besides what is in flight, the agenda and the count of free values, its tile changes as
`AccTile` says, and nothing else. -/
structure AccStep (s u : State) (t : Nat) : Prop where
  memory : SameMemory s u
  device : SameDevice s u
  others : SameOthers s u t
  tile : AccTile (s.tile t) (u.tile t)

theorem AccStep.refl (s : State) (t : Nat) : AccStep s s t := ⟨.of_eq rfl rfl rfl, .refl s, fun _ _ => rfl, .refl _⟩

theorem AccStep.trans {s v u : State} {t : Nat} (a : AccStep s v t) (b : AccStep v u t) : AccStep s u t :=
  ⟨a.memory.trans b.memory, a.device.trans b.device, a.others.trans b.others, a.tile.trans b.tile⟩

theorem SyncStep.accStep {s u : State} {t : Nat} (st : SyncStep s u t) : AccStep s u t :=
  ⟨st.memory, st.device, st.others, st.tile.accTile⟩

/-- A change of what is in flight, of the agenda and of the count of free values. -/
theorem AccStep.rest (s : State) (t : Nat) (cur : Agent) (turns : List Turn) (flights : List Flight) (nextId free : Nat) :
    AccStep s { s with cur := cur, turns := turns, flights := flights, nextId := nextId, free := free } t :=
  ⟨.of_eq rfl rfl rfl, ⟨rfl, rfl, rfl, rfl, rfl, rfl, rfl, rfl, rfl, rfl⟩, fun _ _ => rfl, .refl _⟩

theorem AccStep.setTile (s : State) {t : Nat} {T : Tile} (tile : AccTile (s.tile t) T) : AccStep s (s.setTile t T) t :=
  ⟨.of_eq rfl rfl rfl, .setTile s t T, .setTile s t T, by rwa [State.setTile_tile]⟩

theorem AccStep.updTile (s : State) (t : Nat) {f : Tile → Tile} (tile : AccTile (s.tile t) (f (s.tile t))) :
    AccStep s (s.updTile t f) t := .setTile s tile

theorem AccStep.updEng (s : State) (t : Nat) (f : Eng → Eng) : AccStep s (s.updEng t 1 f) t := .setTile s rfl

theorem AccStep.fly (s : State) (t : Nat) (clk : Clk) (due : Nat) (fl : Fl) : AccStep s (s.fly clk due fl) t :=
  .rest s t s.cur s.turns _ _ s.free

theorem AccStep.flyTile (s : State) (t l : Nat) (fl : Fl) : AccStep s (s.flyTile t l fl) t := .fly ..

theorem AccStep.flyDev (s : State) (t l : Nat) (fl : Fl) : AccStep s (s.flyDev l fl) t := .fly ..

theorem AccStep.signalIn (s : State) (t e c sig l : Nat) (pois : Option (Nat × Nat)) : AccStep s (s.signalIn t e c sig l pois) t := by
  unfold State.signalIn
  split
  · exact .refl s t
  · exact .flyTile ..

theorem AccStep.signalNow (s : State) (t e c sig : Nat) (pois : Option (Nat × Nat)) : AccStep s (s.signalNow t e c sig pois) t :=
  (SyncStep.signalNow s t e c sig pois).accStep

theorem AccStep.passSource (s : State) (t : Nat) : AccStep s (s.passSource t 1) t := by
  simp only [State.passSource]
  split <;> exact .setTile s rfl

theorem AccStep.pass (s : State) (t : Nat) : AccStep s (s.pass t 1) t := by
  simp only [State.pass]
  split
  · exact .refl s t
  · split
    · split
      · split
        · exact (AccStep.updEng s t _).trans (.updEng ..)
        · exact ((AccStep.updEng s t _).trans (.updEng ..)).trans (.passSource ..)
      · exact (AccStep.updEng s t _).trans (.updEng ..)
    · exact (AccStep.updEng s t _).trans (.passSource ..)

theorem AccStep.begin (s : State) (t : Nat) : AccStep s (s.begin t 1) t := by
  unfold State.begin
  split
  · have learns (w : RWord) := AccStep.updTile s t (f := fun T => T.learn 1 (w.w.toNat / 2 ^ 56)) (Tile.tell_syncOnly ..).accTile
    exact ((learns _).trans (.pass ..)).trans (.updEng ..)
  · exact .updEng ..

theorem AccStep.stopEngine (s : State) (t cause : Nat) (tval : Word) (roff : Nat) (wdone pfx begun : Bool) (group rest : List RWord) :
    AccStep s (s.stopEngine t 1 cause tval roff wdone pfx begun group rest) t := .updEng ..

theorem AccStep.execFault (s : State) (t cause : Nat) (tval : Word) (sig : Nat) : AccStep s (s.execFault t 1 cause tval sig) t :=
  (AccStep.stopEngine ..).trans (.signalNow ..)

theorem AccStep.dropL1 (s : State) (t : Nat) (hit : Nat → Bool) : AccStep s (s.dropL1 t hit) t :=
  (AccStep.updTile s t (f := fun T => { T with l1 := T.l1.filter fun l => !hit l.key }) rfl).trans (.rest _ t _ _ _ _ _)

theorem AccStep.acquireL1 (s : State) (t scope order : Nat) : AccStep s (s.acquireL1 t scope order) t := by
  unfold State.acquireL1
  split
  · exact .dropL1 ..
  · exact .refl s t

/-- An access is sent by its own tile. -/
theorem AccStep.send (s : State) {t : Nat} {a : Access} (own : a.t = t) : AccStep s (s.send a) t := by
  subst own
  exact (AccStep.acquireL1 s a.t a.scope a.order).trans (.flyDev ..)

theorem RingGoes.syncStep {s w : State} {t e : Nat} {h : Hdr} (g : RingGoes s t e h w) : SyncStep s w t := by
  have passes := g.passes
  split at passes
  · cases passes
    exact .refl s t
  · exact testWait_syncStep passes

/-- A word of the access core that goes and begins. -/
theorem RingGoes.begins {s w : State} {t : Nat} {h : Hdr} (g : RingGoes s t 1 h w) : AccStep s (w.begin t 1) t :=
  g.syncStep.accStep.trans (.begin ..)

/-! What the checks of a word read is as it was. -/

section
variable {s u : State} {t : Nat}

theorem AccStep.areg (st : AccStep s u t) (r : Nat) : u.areg t r = s.areg t r := by
  unfold State.areg
  rw [st.tile]

theorem AccStep.creg (st : AccStep s u t) (r : Nat) : u.creg t r = s.creg t r := by
  unfold State.creg
  rw [st.tile]

theorem AccStep.queue (st : AccStep s u t) (q : Nat) : (u.tile t).queue q = (s.tile t).queue q := by
  unfold Tile.queue
  rw [st.tile]

theorem AccStep.ctx (st : AccStep s u t) : (u.tile t).ctx = (s.tile t).ctx := by rw [st.tile]

theorem AccStep.engSup (st : AccStep s u t) : u.engSup t = s.engSup t := by
  unfold State.engSup State.ctlSup State.cc Tile.cc
  rw [st.tile]

theorem AccStep.regSink (st : AccStep s u t) (rs : List Nat) : u.regSink t rs = s.regSink t rs := by
  simp only [State.regSink, st.areg]

theorem SameDevice.translate (st : SameDevice s u) (ctx col va space need : Nat) :
    u.translate ctx col va space need = s.translate ctx col va space need := by
  unfold State.translate State.lookup State.col
  rw [st.cols, st.sys, st.badPages]

theorem AccStep.scratchSize (st : AccStep s u t) (ctx col : Nat) : u.scratchSize ctx col = s.scratchSize ctx col := by
  unfold State.scratchSize State.context
  rw [st.device.ctxs]

theorem AccStep.checkCap (st : AccStep s u t) (sup : Bool) (c : CReg) (w : Need) (a : Int) (n : Nat) :
    u.checkCap t sup c w a n = s.checkCap t sup c w a n := by
  simp only [State.checkCap, st.ctx, st.scratchSize]

theorem AccStep.checkXlate (st : AccStep s u t) (cap : Cap) (perms : Nat) (a : Int) (n : Nat) :
    u.checkXlate t cap perms a n = s.checkXlate t cap perms a n := by
  simp only [State.checkXlate, State.translateRange, st.ctx, st.device.translate]

theorem AccStep.checkRange (st : AccStep s u t) (sup : Bool) (c : CReg) (w : Need) (a : Int) (n : Nat) :
    u.checkRange t sup c w a n = s.checkRange t sup c w a n := by
  simp only [State.checkRange, st.checkCap, st.checkXlate]

theorem AccStep.rowsFail (st : AccStep s u t) (c perm : Nat) (rows : List RowAt) : u.rowsFail t c perm rows = s.rowsFail t c perm rows := by
  simp only [State.rowsFail, st.checkRange, st.engSup, st.creg]

theorem AccStep.memAddr (st : AccStep s u t) (c index scale disp : Nat) : u.memAddr t c index scale disp = s.memAddr t c index scale disp := by
  simp only [State.memAddr, st.areg, st.creg]

theorem AccStep.immAddr (st : AccStep s u t) (c imm : Nat) : u.immAddr t c imm = s.immAddr t c imm := by
  simp only [State.immAddr, st.creg]

theorem AccStep.putFail (st : AccStep s u t) {cs cd so dof : Nat} {extra : List Nat} {semField : Nat} {len : State → Nat → Option Nat}
    (lens : len u t = len s t) {spaces : List Nat} {perm align : Nat} :
    putFail cs cd so dof extra semField len spaces perm align u t = putFail cs cd so dof extra semField len spaces perm align s t := by
  simp only [Machine.putFail, st.regSink, st.creg, st.areg, st.checkRange, st.engSup, lens]

end

/-! ### The issue of a word that reaches memory (05 R131, R132; 15 R403) -/

/-- The causes that a check of a range can give (orders 2 to 8) name an address. -/
theorem checkRange_cause {s : State} {t : Nat} {sup : Bool} {c : CReg} {w : Need} {a : Int} {n cause v : Nat}
    (fails : s.checkRange t sup c w a n = some (.fault cause v)) : cause ≠ 0x03 ∧ cause ≠ 0x09 := by
  unfold State.checkRange at fails
  split at fails
  · next cap =>
    cases fails
    unfold State.checkCap at cap
    dsimp only at cap
    repeat' split at cap
    all_goals cases cap
    all_goals decide
  · unfold State.checkXlate at fails
    split at fails
    · obtain ⟨at', -, found⟩ := List.exists_of_findSome?_eq_some fails
      unfold State.translate at found
      repeat' split at found
      all_goals cases found
      all_goals decide
    · cases fails

/-- The word of the access core that has begun, issued and held (15 R403; 05 R142). -/
def issuedHeld (s w : State) (t : Nat) (h : Hdr) : State :=
  (w.begin t 1).updEng t 1 fun x => { x with hold := .issued ((s.tile t).resolveSig h.sig) ((s.tile t).engine 1).latch }

theorem RingGoes.held {s w : State} {t : Nat} {h : Hdr} (g : RingGoes s t 1 h w) : AccStep s (issuedHeld s w t h) t :=
  g.begins.trans (.updEng ..)

/-- The value of a fault: the word for a cause that says the word is wrong, else the address. -/
def faultValue (s : State) (t cause v : Nat) : Word :=
  if cause = 0x09 ∨ cause = 0x03 then ((((s.tile t).engine 1).group.getLast?).map fun w => w.w).getD 0 else w64 v

theorem faultValue_address {s : State} {t cause v : Nat} (three : cause ≠ 0x03) (nine : cause ≠ 0x09) :
    faultValue s t cause v = BitVec.ofNat 64 v := if_neg (by omega)

/-- The word of a state at a not-present-stall entry, held there. -/
def heldAt (s : State) (t kind i va : Nat) : State := s.holdAccess (tileCol t) (.acc t 0) (s.tile t).ctx va kind (originOf t 1) i

section
variable {s w : State} {t : Nat} {h : Hdr} {k : AccWord} {eff : Nat → Nat → State → State}

theorem accIssue_busy (g : RingGoes s t 1 h w) (busy : (s.accPending t k.regs || k.busy s t) = true) : accIssue h s k eff = .next s :=
  engIssue_busy g _ _ busy

/-- A word that reads a list issues and is held. -/
theorem accIssue_listed (g : RingGoes s t 1 h w) {order : Nat} (list : k.list = some order)
    (free : (s.accPending t k.regs || k.busy s t) = false) : accIssue h s k eff = .next (issuedHeld s w t h) := by
  obtain ⟨regs, busy, list', fail, kind⟩ := k
  obtain rfl : list' = some order := list
  rw [accIssue, engIssue_eq g, if_neg (ne_true_of_eq_false free)]
  exact finish_eq_next (by simp [g.bad])

/-- A word that reads no list, by what its checks say as it issues. -/
theorem accIssue_plain (g : RingGoes s t 1 h w) (plain : k.list = none) (free : (s.accPending t k.regs || k.busy s t) = false)
    (same : ∀ u, AccStep s u t → k.fail u t = k.fail s t) :
    (k.fail s t = none → accIssue h s k eff = finish (eff t ((s.tile t).resolveSig h.sig) (w.begin t 1))) ∧
    (∀ p, k.fail s t = some (.ok p) → accIssue h s k eff = finish (eff t ((s.tile t).resolveSig h.sig) (w.begin t 1))) ∧
    (∀ i va, k.fail s t = some (.held i va) → accIssue h s k eff = finish (heldAt (issuedHeld s w t h) t k.kind i va)) ∧
    (∀ cause v, k.fail s t = some (.fault cause v) → accIssue h s k eff =
      .next ((w.begin t 1).execFault t 1 cause (faultValue (w.begin t 1) t cause v) ((s.tile t).resolveSig h.sig))) := by
  obtain ⟨regs, busy, list, fail, kind⟩ := k
  obtain rfl : list = none := plain
  have again : fail (issuedHeld s w t h) t = fail s t := same _ g.held
  unfold issuedHeld at again ⊢
  rw [accIssue, engIssue_eq g, if_neg (ne_true_of_eq_false free)]
  dsimp only
  rw [again]
  refine ⟨fun passes => ?_, fun p passes => ?_, fun i va holds => ?_, fun cause v fails => ?_⟩
  · rw [passes]
    rfl
  · rw [passes]
    rfl
  · rw [holds]
    rfl
  · rw [fails]
    exact finish_eq_next (by simp [g.bad])

theorem accIssue_passes (g : RingGoes s t 1 h w) (plain : k.list = none) (free : (s.accPending t k.regs || k.busy s t) = false)
    (same : ∀ u, AccStep s u t → k.fail u t = k.fail s t) (passes : k.fail s t = none)
    (sound : ∀ sig u, u.bad = none → (eff t sig u).bad = none) :
    accIssue h s k eff = .next (eff t ((s.tile t).resolveSig h.sig) (w.begin t 1)) :=
  ((accIssue_plain g plain free same).1 passes).trans (finish_eq_next (sound _ _ (by simp [g.bad])))

theorem accIssue_fails (g : RingGoes s t 1 h w) (plain : k.list = none) (free : (s.accPending t k.regs || k.busy s t) = false)
    (same : ∀ u, AccStep s u t → k.fail u t = k.fail s t) {cause v : Nat} (fails : k.fail s t = some (.fault cause v))
    (three : cause ≠ 0x03) (nine : cause ≠ 0x09) : accIssue h s k eff =
      .next ((w.begin t 1).execFault t 1 cause (BitVec.ofNat 64 v) ((s.tile t).resolveSig h.sig)) := by
  obtain ⟨-, -, -, faults⟩ := accIssue_plain (eff := eff) g plain free same
  rw [faults cause v fails, faultValue_address three nine]

end

/-- A word that has issued and reads a list, in a later tc (05 R142, R467; log entry 9). -/
theorem accIssue_issued {s : State} {t sig : Nat} {l : Latch} {h : Hdr} {k : AccWord} {eff : Nat → Nat → State → State} {order : Nat}
    (cur : s.cur = .ring t 1) (hold : ((s.tile t).engine 1).hold = .issued sig l) (list : k.list = some order) (sound : s.bad = none) :
    (Config.freeFetch [t, s.tc] % 2 = 1 ∨ s.listReady t order = false → accIssue h s k eff = .next s) ∧
    (Config.freeFetch [t, s.tc] % 2 = 0 → s.listReady t order = true →
      (k.fail s t = none → accIssue h s k eff = finish (eff t sig (s.unhold t 1))) ∧
      (∀ cause v, k.fail s t = some (.fault cause v) → cause ≠ 0x03 → cause ≠ 0x09 →
        accIssue h s k eff = .next ((s.unhold t 1).execFault t 1 cause (BitVec.ofNat 64 v) sig))) := by
  have tile : s.curTile = t := by simp [State.curTile, cur]
  have eng : s.curEng = 1 := by simp [State.curEng, cur]
  obtain ⟨regs, busy, list', fail, kind⟩ := k
  obtain rfl : list' = some order := list
  simp only [accIssue, engIssue, tile, eng, hold, engResume]
  rw [if_neg Bool.false_ne_true]
  refine ⟨fun waits => ?_, fun now ready => ?_⟩
  · rw [if_pos (waits.imp_right fun no => by rw [no]; rfl)]
    exact finish_eq_next sound
  · rw [if_neg (by rw [now, ready]; decide)]
    refine ⟨fun passes => ?_, fun cause v fails three nine => ?_⟩
    · rw [passes]
    · rw [fails]
      exact (finish_eq_next (by simp [sound])).trans (congrArg (fun x => Host.Outcome.next (State.execFault _ t 1 cause x sig))
        (faultValue_address three nine))

end Sys2Proof.Machine
end

section
namespace Sys2Proof.Machine

/-! ### Queue and scalar loads and stores (O11; 05 R131, R132, R139 to R142, R146, R147, R467) -/

@[simp] theorem takeFree_bad (s : State) : (takeFree s).2.bad = s.bad := rfl

theorem accPending_subset {s : State} {t : Nat} {rs xs : List Nat} (sub : ∀ x ∈ xs, x ∈ rs) (free : s.accPending t rs = false) :
    s.accPending t xs = false := by
  unfold State.accPending at free ⊢
  simp only [List.any_eq_false, List.any_eq_true, not_exists, not_and] at free ⊢
  exact fun f flies x named => free f flies x (sub x named)

/-- The first failure of a list is one of its failures. -/
theorem firstFail_mem {xs : List Xl} {x : Xl} (first : firstFail xs = some x) : x ∈ xs := by
  induction xs generalizing x with
  | nil => cases first
  | cons y ys ih =>
    unfold firstFail at first
    split at first
    · cases first
      exact List.mem_cons_self ..
    · next z rest =>
      split at first
      · cases first
        exact List.mem_cons_of_mem _ (ih rest)
      · cases first
        exact List.mem_cons_self ..

theorem rowsFail_cause {s : State} {t c perm : Nat} {rows : List RowAt} {cause v : Nat}
    (fails : s.rowsFail t c perm rows = some (.fault cause v)) : cause ≠ 0x03 ∧ cause ≠ 0x09 := by
  obtain ⟨r, -, row⟩ := List.mem_filterMap.mp (firstFail_mem fails)
  exact checkRange_cause row

/-- Rows that go by registers alone. -/
def RowsKept (rows : State → Nat → List RowAt) (s : State) (t : Nat) : Prop := ∀ u, AccStep s u t → rows u t = rows s t

theorem wholeEntry_kept (c index scale disp : Nat) (s : State) (t : Nat) : RowsKept (wholeEntry c index scale disp) s t := fun u st => by
  simp only [wholeEntry, st.memAddr]

theorem stridedRows_kept (c ab astr len rows disp : Nat) (s : State) (t : Nat) : RowsKept (stridedRows c ab astr len rows disp) s t :=
  fun u st => by simp only [stridedRows, st.areg, st.creg]

section
variable {s w : State} {t : Nat} {h : Hdr} {op q c : Nat} {regs sinks : List Nat} {rows : State → Nat → List RowAt}

/-- A queue load without a list (05 R139 to R141): held while its queue is full, on its way with the tail entry once its checks
pass, a fault where they fail. -/
theorem queueLoad_issues (g : RingGoes s t 1 h w) (kept : RowsKept rows s t) (free : s.accPending t (creg c :: regs) = false) :
    (4 ≤ ((s.tile t).queue q).ents.length → queueLoad h op q c regs sinks false noList rows s = .next s) ∧
    (((s.tile t).queue q).ents.length < 4 → s.regSink t sinks = none →
      (s.rowsFail t c 1 (rows s t) = none → ∃ x : Access, queueLoad h op q c regs sinks false noList rows s =
        .next (((w.begin t 1).updTile t fun T => T.setQueue q (((w.begin t 1).tile t).queue q).alloc).send x) ∧ x.t = t ∧ x.op = op ∧
        x.sig = (s.tile t).resolveSig h.sig ∧ x.keys = (rows s t).flatMap RowAt.pieces ∧ x.dst = 1024 + q ∧ x.stage = 0) ∧
      (∀ cause v, cause ≠ 0x09 → s.rowsFail t c 1 (rows s t) = some (.fault cause v) →
        queueLoad h op q c regs sinks false noList rows s =
          .next ((w.begin t 1).execFault t 1 cause (BitVec.ofNat 64 v) ((s.tile t).resolveSig h.sig)))) := by
  refine ⟨fun full => accIssue_busy g (by simp [full]), fun room clean => ?_⟩
  have idle : (s.accPending t (creg c :: regs) || decide (4 ≤ ((s.tile t).queue q).ents.length)) = false := by
    rw [free, decide_eq_false (by omega), Bool.or_false]
  refine ⟨fun passes => ⟨_, accIssue_passes g rfl idle (fun u st => ?_) ?_ fun sig u sound => ?_, rfl, rfl, rfl, rfl, rfl, rfl⟩,
    fun cause v nine fails => accIssue_fails g rfl idle (fun u st => ?_) ?_ (rowsFail_cause fails).1 nine⟩
  · simp only [st.regSink, noList, kept u st, st.rowsFail]
  · simp only [clean, noList, passes]
  · simp [sound]
  · simp only [st.regSink, noList, kept u st, st.rowsFail]
  · simp only [clean, noList, fails]

/-- The L1 lines that the rows of a store overlap (05 R135). -/
def storeLines (s : State) (t c : Nat) (rows : List RowAt) : List Nat :=
  (rows.flatMap RowAt.pieces).filterMap fun k => s.l1Key t (capSpace (s.creg t c).v) (capUnit (s.creg t c).v t) k.1

/-- What PMT, or data that is clean or stays in the device's own memory, leaves of the sink of a store. -/
theorem storeSink_free {p waived : Bool} {space : Nat} (may : p = false ∨ space < 3 ∨ waived = true) :
    (p && (space == 3 || space == 4) && !waived) = false := by
  rcases may with clean | own | waiver
  · rw [clean, Bool.false_and, Bool.false_and]
  · rw [beq_eq_false_iff_ne.mpr (by omega), beq_eq_false_iff_ne.mpr (by omega), Bool.or_false, Bool.and_false, Bool.false_and]
  · rw [waiver, Bool.not_true, Bool.and_false]

/-- A queue store without a list: held while no entry is at the head, on its way with the head entry once its checks pass, a fault
where they fail. -/
theorem queueStore_issues (g : RingGoes s t 1 h w) (kept : RowsKept rows s t) (free : s.accPending t (creg c :: regs) = false) :
    (((s.tile t).queue q).head? = none → queueStore h op q c regs sinks false noList rows s = .next s) ∧
    (∀ v, ((s.tile t).queue q).head? = some v → s.regSink t sinks = none →
      (s.rowsFail t c 2 (rows s t) = none → v.p = false ∨ capSpace (s.creg t c).v < 3 ∨ sinkAllowed h = true →
        ∃ (x : Access) (hit : Nat → Bool), queueStore h op q c regs sinks false noList rows s =
          .next ((((w.begin t 1).updTile t fun T => T.setQueue q (T.queue q).pop).dropL1 t hit).send x) ∧ x.t = t ∧ x.op = op ∧
          x.sig = (s.tile t).resolveSig h.sig ∧ x.keys = (rows s t).flatMap RowAt.pieces ∧ x.result = v ∧ x.stage = 0) ∧
      (∀ cause f, cause ≠ 0x09 → s.rowsFail t c 2 (rows s t) = some (.fault cause f) →
        queueStore h op q c regs sinks false noList rows s =
          .next ((w.begin t 1).execFault t 1 cause (BitVec.ofNat 64 f) ((s.tile t).resolveSig h.sig)))) := by
  refine ⟨fun empty => accIssue_busy g (by simp [empty]), fun v head clean => ?_⟩
  have idle : (s.accPending t (creg c :: regs) || ((s.tile t).queue q).head?.isNone) = false := by
    rw [free, head]
    rfl
  refine ⟨fun passes may => ⟨_, fun k => (storeLines s t c (rows s t)).contains k,
      accIssue_passes g rfl idle (fun u st => ?_) ?_ fun sig u sound => ?_, rfl, rfl, rfl, rfl, ?_, rfl⟩,
    fun cause f nine fails => accIssue_fails g rfl idle (fun u st => ?_) ?_ (rowsFail_cause fails).1 nine⟩
  · simp only [st.regSink, noList, kept u st, st.rowsFail, st.queue, st.creg]
  · simp only [clean, noList, passes, head, Option.getD_some, storeSink_free may, Bool.false_eq_true, if_false]
  · simp [sound]
  · simp only [head, Option.getD_some]
  · simp only [st.regSink, noList, kept u st, st.rowsFail, st.queue, st.creg]
  · simp only [clean, noList, fails]

end

/-! A word whose list is read: issued, and held to a free tc. -/

section
variable {s : State} {t sig : Nat} {l : Latch} {h : Hdr} {k : AccWord} {eff : Nat → Nat → State → State} {order : Nat}

theorem accIssue_listWaits (cur : s.cur = .ring t 1) (hold : ((s.tile t).engine 1).hold = .issued sig l) (list : k.list = some order)
    (sound : s.bad = none) (waits : ¬ s.listReady t order = true) : accIssue h s k eff = .next s :=
  (accIssue_issued cur hold list sound).1 (.inr (by simpa using waits))

theorem accIssue_listReads (cur : s.cur = .ring t 1) (hold : ((s.tile t).engine 1).hold = .issued sig l) (list : k.list = some order)
    (sound : s.bad = none) (ready : s.listReady t order = true) (passes : k.fail s t = none)
    (kept : (eff t sig (s.unhold t 1)).bad = none) :
    accIssue h s k eff = .next (if Config.freeFetch [t, s.tc] % 2 = 0 then eff t sig (s.unhold t 1) else s) := by
  obtain ⟨later, now⟩ := accIssue_issued (h := h) (eff := eff) cur hold list sound
  by_cases free : Config.freeFetch [t, s.tc] % 2 = 0
  · rw [(now free ready).1 passes, finish_eq_next kept, if_pos free]
  · rw [later (.inl (by omega)), if_neg free]

theorem accIssue_listFails (cur : s.cur = .ring t 1) (hold : ((s.tile t).engine 1).hold = .issued sig l) (list : k.list = some order)
    (sound : s.bad = none) (ready : s.listReady t order = true) {cause v : Nat} (fails : k.fail s t = some (.fault cause v))
    (three : cause ≠ 0x03) (nine : cause ≠ 0x09) : accIssue h s k eff =
      .next (if Config.freeFetch [t, s.tc] % 2 = 0 then (s.unhold t 1).execFault t 1 cause (BitVec.ofNat 64 v) sig else s) := by
  obtain ⟨later, now⟩ := accIssue_issued (h := h) (eff := eff) cur hold list sound
  by_cases free : Config.freeFetch [t, s.tc] % 2 = 0
  · rw [(now free ready).2 cause v fails three nine, if_pos free]
  · rw [later (.inl (by omega)), if_neg free]

end

/-- LDQG and STQG once issued (05 R142, R147, R467). -/
theorem listedWords_goOn {s : State} {t : Nat} {h : Hdr} {q c cl al ab len rows sig : Nat} {l : Latch} (cur : s.cur = .ring t 1)
    (sound : s.bad = none) (hold : ((s.tile t).engine 1).hold = .issued sig l) :
    let ready := s.listReady t (scpOrder h 0) = true
    let now (v : State) : Out := .next (if Config.freeFetch [t, s.tc] % 2 = 0 then v else s)
    let u := s.unhold t 1
    let at' := listedRows c cl al ab len rows s t
    (¬ ready → execLdqg h q c cl al ab len rows s = .next s ∧ execStqg h q c cl al ab len rows s = .next s) ∧
    (ready → s.regSink t [al, ab] = none → listCheck cl al rows s t = none →
      (s.rowsFail t c 1 at' = none → ∃ x : Access, execLdqg h q c cl al ab len rows s =
        now ((u.updTile t fun T => T.setQueue q ((u.tile t).queue q).alloc).send x) ∧ x.t = t ∧ x.op = 3 ∧ x.sig = sig ∧
        x.keys = at'.flatMap RowAt.pieces ∧ x.dst = 1024 + q ∧ x.stage = 0) ∧
      (∀ v, ((s.tile t).queue q).head? = some v → s.rowsFail t c 2 at' = none →
        v.p = false ∨ capSpace (s.creg t c).v < 3 ∨ sinkAllowed h = true →
        ∃ (x : Access) (hit : Nat → Bool), execStqg h q c cl al ab len rows s =
          now (((u.updTile t fun T => T.setQueue q (T.queue q).pop).dropL1 t hit).send x) ∧ x.t = t ∧ x.op = 6 ∧
          x.sig = sig ∧ x.keys = at'.flatMap RowAt.pieces ∧ x.result = v ∧ x.stage = 0)) ∧
    (ready → s.regSink t [al, ab] = none → ∀ cause v, cause ≠ 0x09 → listCheck cl al rows s t = some (.fault cause v) →
      execLdqg h q c cl al ab len rows s = now (u.execFault t 1 cause (BitVec.ofNat 64 v) sig) ∧
      execStqg h q c cl al ab len rows s = now (u.execFault t 1 cause (BitVec.ofNat 64 v) sig)) := by
  refine ⟨fun waits => ⟨accIssue_listWaits cur hold rfl sound waits, accIssue_listWaits cur hold rfl sound waits⟩,
    fun ready clean listed => ⟨fun passes => ⟨_, accIssue_listReads cur hold rfl sound ready ?_ ?_, rfl, rfl, rfl, rfl, rfl, rfl⟩,
      fun v head passes may => ⟨_, fun k => (storeLines s t c (listedRows c cl al ab len rows s t)).contains k,
        accIssue_listReads cur hold rfl sound ready ?_ ?_, rfl, rfl, rfl, rfl, ?_, rfl⟩⟩,
    fun ready clean cause v nine fails => ⟨accIssue_listFails cur hold rfl sound ready ?_ (checkRange_cause fails).1 nine,
      accIssue_listFails cur hold rfl sound ready ?_ (checkRange_cause fails).1 nine⟩⟩
  · simp only [clean, listed, passes]
  · simp [sound]
  · simp only [clean, listed, passes, head, Option.getD_some, storeSink_free may, Bool.false_eq_true, if_false]
  · simp [sound]
  · simp only [head, Option.getD_some]
  · simp only [clean, fails]
  · simp only [clean, fails]

section
variable {s w : State} {t : Nat} {h : Hdr} {op n d a imm : Nat}

/-- A scalar load goes out, or its L1 line serves it (05 R135, R146), or its check stops the engine. -/
theorem scalarLoad_issues (g : RingGoes s t 1 h w) (free : s.accPending t [d, creg a] = false) :
    let at' := s.immAddr t a imm
    let u := w.begin t 1
    let sig := (s.tile t).resolveSig h.sig
    let check := s.checkRange t (s.engSup t) (s.creg t a) ⟨scalarSpaces, false, 1, n⟩ at' n
    (check = none →
      ∃ v, scalarLoad h op n d a imm s = .next v ∧
        ((∃ x : Access, (v = u.send x ∨ ∃ k f, v = (({ u with free := k } : State).dropL1 t f).send x) ∧
          x.t = t ∧ x.op = op ∧ x.keys = [(addrNat at', 0)] ∧ x.size = n ∧ x.dst = d ∧ x.sig = sig ∧ x.stage = 0) ∨
        (scpOrder h 0 = 0 ∧ ∃ l k, u.l1Line t (capSpace (s.creg t a).v) (capUnit (s.creg t a).v t) (addrNat at') = some l ∧
          v = (({ u with free := k } : State).flyTile t 5 (.areg t d ⟨BitVec.ofNat 64 (leNat (((bytesOfBv 64 l.data).drop
            (addrNat at' % 64)).take n)), l.p⟩ 0)).signalIn t 1 0 sig 5 none))) ∧
    (∀ cause v, cause ≠ 0x09 → check = some (.fault cause v) →
      scalarLoad h op n d a imm s = .next (u.execFault t 1 cause (BitVec.ofNat 64 v) sig)) := by
  have idle : (s.accPending t [d, creg a] || never s t) = false := by rw [free]; rfl
  refine ⟨fun passes => ⟨_, accIssue_passes g rfl idle (fun u st => ?_) passes fun sig u sound => ?_, ?_⟩,
    fun cause v nine fails => accIssue_fails g rfl idle (fun u st => ?_) fails (checkRange_cause fails).1 nine⟩
  · simp only [st.checkRange, st.engSup, st.creg, st.immAddr]
  · dsimp only
    split
    · simp [sound]
    · by_cases even : (takeFree u).1 % 2 = 0
      · simp [if_pos even, sound]
      · simp [if_neg even, sound]
  · dsimp only
    split
    · exact .inl ⟨_, .inl rfl, rfl, rfl, rfl, rfl, rfl, rfl, rfl⟩
    · next l line =>
      obtain ⟨⟨order, -⟩, line⟩ := Option.ite_none_right_eq_some.mp line
      by_cases even : (takeFree (w.begin t 1)).1 % 2 = 0
      · rw [if_pos even]
        exact .inr ⟨order, l, _, line, rfl⟩
      · rw [if_neg even]
        exact .inl ⟨_, .inr ⟨_, _, rfl⟩, rfl, rfl, rfl, rfl, rfl, rfl, rfl⟩
  · simp only [st.checkRange, st.engSup, st.creg, st.immAddr]

/-- A scalar store goes out and drops its line, or its check stops the engine. -/
theorem scalarStore_issues (g : RingGoes s t 1 h w) (free : s.accPending t [d, creg a] = false) :
    let at' := s.immAddr t a imm
    let u := w.begin t 1
    let sig := (s.tile t).resolveSig h.sig
    let check := s.checkRange t (s.engSup t) (s.creg t a) ⟨scalarSpaces, false, 2, n⟩ at' n
    (check = none → (s.areg t d).p = false ∨ capSpace (s.creg t a).v ≠ 3 ∨ sinkAllowed h = true →
      ∃ (x : Access) (hit : Nat → Bool), scalarStore h op n d a imm s = .next ((u.dropL1 t hit).send x) ∧ x.t = t ∧ x.op = op ∧
        x.keys = [(addrNat at', 0)] ∧ x.size = n ∧ x.sig = sig ∧ x.stage = 0 ∧ x.result.p = (s.areg t d).p ∧
        x.result.v = (s.areg t d).v.setWidth 32768) ∧
    (∀ cause v, cause ≠ 0x09 → check = some (.fault cause v) →
      scalarStore h op n d a imm s = .next (u.execFault t 1 cause (BitVec.ofNat 64 v) sig)) := by
  have idle : (s.accPending t [d, creg a] || never s t) = false := by rw [free]; rfl
  refine ⟨fun passes may => ⟨_, fun k => s.l1Key t (capSpace (s.creg t a).v) (capUnit (s.creg t a).v t) (addrNat (s.immAddr t a imm)) == some k,
      accIssue_passes g rfl idle (fun u st => ?_) ?_ fun sig u sound => ?_, rfl, rfl, rfl, rfl, rfl, rfl, rfl, rfl⟩,
    fun cause v nine fails => accIssue_fails g rfl idle (fun u st => ?_) ?_ (checkRange_cause fails).1 nine⟩
  · simp only [st.checkRange, st.engSup, st.creg, st.immAddr, st.areg]
  · have sink : ((s.areg t d).p && capSpace (s.creg t a).v == 3 && !sinkAllowed h) = false := by
      rcases may with clean | own | waiver
      · rw [clean, Bool.false_and, Bool.false_and]
      · rw [beq_eq_false_iff_ne.mpr own, Bool.and_false, Bool.false_and]
      · rw [waiver, Bool.not_true, Bool.and_false]
    simp only [passes, sink, Bool.false_eq_true, if_false]
  · simp [sound]
  · simp only [st.checkRange, st.engSup, st.creg, st.immAddr, st.areg]
  · simp only [fails]

end

/-- Settles O11: LDQG and STQG that have issued by `listedWords_goOn`, the words that issue by the lemma of their kind. -/
theorem loadsAndStoresIssue : Obligations.LoadsAndStoresIssue := by
  refine ⟨fun s t h q c cl al ab len rows sig l cur sound hold => ?_, fun s w t h q c index scale disp ab astr len rows cl al d a imm g => ?_⟩
  · simp only [exec_ldqg, exec_stqg]
    exact listedWords_goOn cur sound hold
  · simp only [exec_ldq, exec_ldqs, exec_ldqg, exec_stq, exec_stqs, exec_stqg, exec_ldb, exec_ldh, exec_ldw, exec_ldd, exec_stb, exec_sth,
      exec_stw, exec_std]
    have whole (free : s.accPending t (creg c :: if scale = 7 then [] else [index]) = false) :
        s.accPending t (creg c :: memRegs c index scale) = false := by
      refine accPending_subset (fun r named => ?_) free
      simpa [memRegs] using named
    refine ⟨fun free => queueLoad_issues g (wholeEntry_kept c index scale disp s t) (whole free),
      fun free => queueLoad_issues g (stridedRows_kept c ab astr len rows disp s t) free,
      fun free => ⟨fun full => accIssue_busy g ?_, fun room => accIssue_listed g rfl ?_, fun empty => accIssue_busy g ?_,
        fun head => accIssue_listed g rfl ?_⟩,
      fun free => queueStore_issues g (wholeEntry_kept c index scale disp s t) (whole free),
      fun free => queueStore_issues g (stridedRows_kept c ab astr len rows disp s t) free,
      fun free => scalarLoad_issues g free, fun free => scalarLoad_issues g free, fun free => scalarLoad_issues g free,
      fun free => scalarLoad_issues g free, fun free => scalarStore_issues g free, fun free => scalarStore_issues g free,
      fun free => scalarStore_issues g free, fun free => scalarStore_issues g free⟩
    · simp [full]
    · simp only [free, Bool.false_or, decide_eq_false (Nat.not_le.mpr room)]
    · simp [empty]
    · simp only [free, Bool.false_or, Option.isNone_eq_false_iff, Option.isSome_iff_ne_none]
      exact head

end Sys2Proof.Machine
end

section
namespace Sys2Proof.Machine

/-! ### Words whose work is done at another unit (O12; 05 R146, R150, R152 to R154, R156) -/

@[simp] theorem State.sendPut_bad (s : State) (h : Hdr) (t kind cs cd so dof n op ty : Nat) (sem : Option Nat) (handler : Nat)
    (arg : Word) (sig : Nat) : (s.sendPut h t kind cs cd so dof n op ty sem handler arg sig).bad = s.bad := by
  simp [State.sendPut]

section
variable {s u : State} {t : Nat}

theorem AccStep.capFail (st : AccStep s u t) (perm a imm : Nat) : capFail perm a imm u t = capFail perm a imm s t := by
  simp only [Machine.capFail, st.checkRange, st.engSup, st.creg, st.immAddr]

theorem AccStep.putLen (st : AccStep s u t) (ln lim : Nat) : putLen ln lim u t = putLen ln lim s t := by
  simp only [Machine.putLen, st.areg]

theorem AccStep.redLen (st : AccStep s u t) (cnt ty : Nat) : redLen cnt ty u t = redLen cnt ty s t := by
  simp only [Machine.redLen, st.areg]

end

section
variable {s w : State} {t : Nat} {h : Hdr}

theorem execCld_goes (g : RingGoes s t 1 h w) {d a imm : Nat} (free : s.accPending t [creg d, creg a] = false)
    (passes : capFail 5 a imm s t = none) : execCld h d a imm s = .next ((w.begin t 1).send
      { newAccess h t 0xF ((s.tile t).resolveSig h.sig) (s.creg t a) (addrNat (s.immAddr t a imm)) with
        keys := [(addrNat (s.immAddr t a imm), 0)], size := 16, dst := creg d }) :=
  accIssue_passes g rfl (Bool.or_eq_false_iff.mpr ⟨free, rfl⟩) (fun _ st => st.capFail ..) passes fun sig u sound => by simp [sound]

theorem execCst_goes (g : RingGoes s t 1 h w) {d a imm : Nat} (free : s.accPending t [creg d, creg a] = false)
    (passes : capFail 10 a imm s t = none) : execCst h d a imm s = .next ((w.begin t 1).send
      { newAccess h t 0x10 ((s.tile t).resolveSig h.sig) (s.creg t a) (addrNat (s.immAddr t a imm)) with
        keys := [(addrNat (s.immAddr t a imm), 0)], size := 16, cap := s.creg t d }) :=
  accIssue_passes g rfl (Bool.or_eq_false_iff.mpr ⟨free, rfl⟩) (fun _ st => st.capFail ..) passes fun sig u sound => by simp [sound]

/-- The state of the tile after an atomic has named its L1 line, if it has one (05 R148). -/
def atomicLine (s u : State) (t a : Nat) : State :=
  (s.l1Key t (capSpace (s.creg t a).v) (capUnit (s.creg t a).v t) (capOff (s.creg t a).v)).elim u fun k =>
    u.updTile t fun T => { T with amoLines := setAdd T.amoLines k }

theorem atomicLine_eq (s u : State) (t a : Nat) :
    atomicLine s u t a = u ∨ ∃ L, atomicLine s u t a = u.updTile t fun T => { T with amoLines := L } := by
  unfold atomicLine
  cases s.l1Key t (capSpace (s.creg t a).v) (capUnit (s.creg t a).v t) (capOff (s.creg t a).v) with
  | none => exact .inl rfl
  | some k => exact .inr ⟨setAdd (u.tile t).amoLines k, rfl⟩

theorem atomicLine_bad (s u : State) (t a : Nat) : (atomicLine s u t a).bad = u.bad := by
  obtain same | ⟨L, same⟩ := atomicLine_eq s u t a <;> rw [same]
  rfl

/-- An atomic as it is sent, with the operand, the expected value and the flags. -/
def atomicAccess (h : Hdr) (s : State) (t op d a b wd uns sig : Nat) : Access :=
  { newAccess h t op sig (s.creg t a) (capOff (s.creg t a).v) with
    atomic := true, keys := [(capOff (s.creg t a).v, 0)], size := if wd = 1 then 4 else 8, dst := d
    data := [((s.areg t b).v.toNat, (s.areg t b).p), ((s.areg t d).v.toNat, (s.areg t d).p), (uns, wd == 1)] }

theorem atomic_issues (g : RingGoes s t 1 h w) {op d a b wd uns : Nat} (free : s.accPending t [d, b, creg a] = false) :
    let n := if wd = 1 then 4 else 8
    let check := s.checkRange t (s.engSup t) (s.creg t a) ⟨[0, 1, 2], false, 16, n⟩ (capOff (s.creg t a).v : Nat) n
    (check = none → atomic h op d a b wd uns s =
      .next ((atomicLine s (w.begin t 1) t a).send (atomicAccess h s t op d a b wd uns ((s.tile t).resolveSig h.sig)))) ∧
    (∀ cause f, cause ≠ 0x09 → check = some (.fault cause f) →
      atomic h op d a b wd uns s = .next ((w.begin t 1).execFault t 1 cause (BitVec.ofNat 64 f) ((s.tile t).resolveSig h.sig))) := by
  have idle : (s.accPending t [d, b, creg a] || never s t) = false := by rw [free]; rfl
  have effect (sig : Nat) (u : State) : (match s.l1Key t (capSpace (s.creg t a).v) (capUnit (s.creg t a).v t) (capOff (s.creg t a).v) with
      | some k => u.updTile t fun T => { T with amoLines := setAdd T.amoLines k }
      | none => u) = atomicLine s u t a := by
    unfold atomicLine
    cases s.l1Key t (capSpace (s.creg t a).v) (capUnit (s.creg t a).v t) (capOff (s.creg t a).v) <;> rfl
  refine ⟨fun passes => ?_, fun cause f nine fails => accIssue_fails g rfl idle (fun u st => ?_) fails (checkRange_cause fails).1 nine⟩
  · refine (accIssue_passes g rfl idle (fun u st => ?_) passes fun sig u sound => ?_).trans ?_
    · simp only [st.checkRange, st.engSup, st.creg]
    · dsimp only
      rw [State.send_bad]
      exact (congrArg State.bad (effect sig u)).trans ((atomicLine_bad ..).trans sound)
    · exact congrArg (fun v => Host.Outcome.next (State.send v (atomicAccess h s t op d a b wd uns ((s.tile t).resolveSig h.sig))))
        (effect 0 (w.begin t 1))
  · simp only [st.checkRange, st.engSup, st.creg]

/-- The check-and-arm step of an MWAIT as it is sent (05 R152). -/
def mwaitAccess (h : Hdr) (s : State) (t d a b sig : Nat) : Access :=
  { newAccess h t 0x28 sig (s.creg t a) (capOff (s.creg t a).v) with
    atomic := true, keys := [(capOff (s.creg t a).v, 0)], size := 8, dst := d, data := [((s.areg t b).v.toNat, false)] }

/-- MWAIT holds the engine and sends its check. -/
theorem mwait_goes (g : RingGoes s t 1 h w) {d a b k : Nat} (free : s.accPending t [d, b, creg a] = false)
    (passes : s.checkRange t (s.engSup t) (s.creg t a) ⟨[1, 2], false, 33, 8⟩ (capOff (s.creg t a).v : Nat) 8 = none) :
    let y := mwaitAccess h s t d a b ((s.tile t).resolveSig h.sig)
    let m := s.monitorAt t y.space y.unit (capOff (s.creg t a).v)
    execMwait h d a b k s = .next (((w.begin t 1).updEng t 1 fun z => { z with
      hold := .mwait d ((s.tile t).resolveSig h.sig) (s.areg t b).v (capOff (s.creg t a).v) m.2 m.1 false
        (if k = 0 then none else some (2 ^ (k + 5))) 0 y.scope y.order }).send y) :=
  accIssue_passes g rfl (Bool.or_eq_false_iff.mpr ⟨free, rfl⟩) (fun _ st => by simp only [st.checkRange, st.engSup, st.creg])
    passes fun sig u sound => by simp [sound]

/-- A put or reduce with fewer than eight outstanding is sent once its checks pass. -/
theorem put_goes (g : RingGoes s t 1 h w) {regs : List Nat} {fail : State → Nat → Option Xl}
    (free : s.accPending t regs = false) (few : s.putsOut t < 8) (passes : fail s t = none)
    (same : ∀ u, AccStep s u t → fail u t = fail s t) {eff : Nat → Nat → State → State}
    (sound : ∀ sig u, u.bad = none → (eff t sig u).bad = none) :
    accIssue h s ⟨regs, putBusy, none, fail, 1⟩ eff = .next (eff t ((s.tile t).resolveSig h.sig) (w.begin t 1)) :=
  accIssue_passes g rfl (Bool.or_eq_false_iff.mpr ⟨free, decide_eq_false (by omega)⟩) same passes sound

/-- A deque word goes to the column that it names. -/
theorem dequeWord_goes (g : RingGoes s t 1 h w) {op dq v st col foreign : Nat} (free : s.accPending t [v, st] = false) :
    ∃ y : Access, dequeWord h op dq v st col foreign s = .next ((w.begin t 1).send y) ∧ y.t = t ∧ y.sig = (s.tile t).resolveSig h.sig ∧
      y.stage = 0 ∧ y.op = op ∧ y.va = dq ∧ y.unit = (if foreign = 1 then col else tileCol t) ∧ y.x = st ∧
      y.data = [((s.areg t v).v.toNat, (s.areg t v).p)] ∧ y.keys = [(dq, 0)] :=
  ⟨_, interlock_goes g free fun sig u sound => by simp [sound], rfl, rfl, rfl, rfl, rfl, rfl, rfl, rfl, rfl⟩

end

/-- Settles O12: each word is sent with the operands it read, by the lemma of its kind. -/
theorem remoteAccessWordsIssue : Obligations.RemoteAccessWordsIssue := by
  intro s w t h d a b k imm wd un cs cd so dof ln sen sem ha arg cnt op ty dq v st col g u sig free n x e base sends amo deque
  have amos (i : Instr) (num uns : Nat) (word : exec i s = atomic h num d a b wd uns s) : amo i num uns := fun idle => by
    obtain ⟨goes, fails⟩ := atomic_issues (op := num) (uns := uns) g idle
    exact ⟨fun passes => ⟨_, _, word.trans (goes passes), atomicLine_eq .., rfl, rfl, rfl, rfl, rfl, rfl, rfl, rfl, rfl⟩,
      fun cause f nine bad => word.trans (fails cause f nine bad)⟩
  have deques (i : Instr) (num c q foreign : Nat) (word : exec i s = dequeWord h num dq v st c foreign s)
      (unit : (if foreign = 1 then c else tileCol t) = q) : deque i num q := fun idle => by
    obtain ⟨y, goes, tile, signal, stage, op, va, at', reg, data, keys⟩ :=
      dequeWord_goes (op := num) (dq := dq) (col := c) (foreign := foreign) g idle
    exact ⟨y, u, word.trans goes, .inl rfl, tile, signal, stage, op, va, at'.trans unit, reg, data, keys⟩
  refine ⟨fun idle => ⟨fun passes => ⟨_, u, (exec_cld ..).trans (execCld_goes g idle passes), .inl rfl, rfl, rfl, rfl, rfl, rfl, rfl, rfl⟩,
      fun passes => ⟨_, u, (exec_cst ..).trans (execCst_goes g idle passes), .inl rfl, rfl, rfl, rfl, rfl, rfl, rfl, rfl⟩⟩,
    amos _ _ _ (exec_amoadd ..), amos _ _ _ (exec_amofadd ..), amos _ _ _ (exec_amomin ..), amos _ _ _ (exec_amomax ..),
    amos _ _ _ (exec_amoand ..), amos _ _ _ (exec_amoor ..), amos _ _ _ (exec_amoxor ..), amos _ _ _ (exec_amoswp ..),
    amos _ _ _ (exec_amocas ..), fun idle passes => ?_,
    fun idle => ⟨fun few passes => ?_, fun many => ?_⟩, fun idle few passes => ?_, fun idle few passes => ?_,
    deques _ _ 0 _ 0 (exec_dqpush ..) rfl, deques _ _ 0 _ 0 (exec_dqpop ..) rfl, deques _ _ 0 _ 0 (exec_dqsteal ..) rfl,
    deques _ _ col _ 1 (exec_dqsteal ..) rfl, deques _ _ col _ 1 (exec_dqpush ..) rfl, deques _ _ col _ 1 (exec_dqpop ..) rfl⟩
  · exact ⟨_, _, _, (exec_mwait ..).trans (mwait_goes g idle passes), rfl, rfl, rfl⟩
  · exact (exec_putr ..).trans (put_goes g idle few passes (fun _ st => st.putFail (st.putLen ..)) fun sig u sound => by simp [sound])
  · exact (exec_putr ..).trans (accIssue_busy g (by simp [putBusy, many]))
  · exact (exec_puth ..).trans (put_goes g idle few passes (fun _ st => st.putFail (st.putLen ..)) fun sig u sound => by simp [sound])
  · exact (exec_rred ..).trans (put_goes g idle few passes (fun _ st => st.putFail (st.redLen ..)) fun sig u sound => by simp [sound])

end Sys2Proof.Machine
end

section
namespace Sys2Proof.Machine

/-! ### What the access core's words leave alone as they issue (O16; 05 R127, R143 to R145, R157; 15 R402, R403) -/

/-- The end of a word that nothing holds once it has begun. -/
theorem engIssue_ends {s u w : State} {t e : Nat} {h : Hdr} (g : RingGoes s t e h w) {k : EngChecks} {eff : Nat → Nat → State → State}
    (never : k.hold = fun _ _ _ => none) (ends : engIssue h s k eff = .next u) :
    u = s ∨ u = eff t ((s.tile t).resolveSig h.sig) (w.begin t e) := by
  rw [engIssue_eq g, never] at ends
  split at ends
  · cases ends
    exact .inl rfl
  · exact .inr (of_finish_eq_next ends).1

theorem AccStep.engIssue {s u w : State} {t : Nat} {h : Hdr} (g : RingGoes s t 1 h w) {k : EngChecks} {eff : Nat → Nat → State → State}
    (never : k.hold = fun _ _ _ => none) (effect : ∀ sig v, AccStep v (eff t sig v) t) (ends : engIssue h s k eff = .next u) :
    AccStep s u t := by
  obtain rfl | rfl := engIssue_ends g never ends
  · exact .refl u t
  · exact g.begins.trans (effect ..)

section
variable {s u w : State} {t : Nat} {h : Hdr}

theorem AccStep.accWrite (g : RingGoes s t 1 h w) {d l : Nat} {rs : List Nat} {v : State → Nat → RegV}
    (ends : accWrite h s d l rs v = .next u) : AccStep s u t :=
  .engIssue g rfl (fun _ _ => (AccStep.flyTile ..).trans (.signalIn ..)) ends

theorem AccStep.accRRR (g : RingGoes s t 1 h w) {d a b l : Nat} {f : Word → Word → Word} (ends : accRRR h s d a b l f = .next u) :
    AccStep s u t :=
  .accWrite g ends

theorem AccStep.accRR (g : RingGoes s t 1 h w) {d a l : Nat} {f : Word → Word} (ends : accRR h s d a l f = .next u) : AccStep s u t :=
  .accWrite g ends

theorem AccStep.accDerive (g : RingGoes s t 1 h w) {d a b : Nat} {f : Cap → Nat → Cap} (ends : accDerive h d a b f s = .next u) :
    AccStep s u t := by
  refine .engIssue g rfl (fun sig v => ?_) ends
  dsimp only
  repeat' split
  iterate 3
    · exact .execFault ..
  · exact (AccStep.flyTile ..).trans (.signalIn ..)

theorem AccStep.execCperm (g : RingGoes s t 1 h w) {d a mask : Nat} (ends : execCperm h d a mask s = .next u) : AccStep s u t :=
  .engIssue g rfl (fun _ _ => (AccStep.flyTile ..).trans (.signalIn ..)) ends

theorem AccStep.execRdset (g : RingGoes s t 1 h w) {e a : Nat} (ends : execRdset h e a s = .next u) : AccStep s u t := by
  refine .engIssue g rfl (fun sig v => ?_) ends
  dsimp only
  split
  · exact .execFault ..
  · exact .updEng ..

theorem AccStep.execMark (g : RingGoes s t 1 h w) (ends : execMark h s = .next u) : AccStep s u t :=
  .engIssue g rfl (fun _ _ => .updEng ..) ends

theorem AccStep.execQdrop (g : RingGoes s t 1 h w) {q n : Nat} (ends : execQdrop h q n s = .next u) : AccStep s u t :=
  .engIssue g rfl (fun _ _ => .updEng ..) ends

theorem AccStep.dequeWord (g : RingGoes s t 1 h w) {op dq v st col foreign : Nat} (ends : dequeWord h op dq v st col foreign s = .next u) :
    AccStep s u t :=
  .engIssue g rfl (fun _ v => AccStep.send v (by rfl)) ends

theorem AccStep.execL1inva (g : RingGoes s t 1 h w) (ends : execL1inva h s = .next u) : AccStep s u t :=
  .engIssue g rfl (fun _ _ => (AccStep.dropL1 ..).trans (.signalIn ..)) ends

theorem AccStep.execAccFence (g : RingGoes s t 1 h w) (ends : execAccFence h s = .next u) : AccStep s u t :=
  .engIssue g rfl (fun _ _ => (AccStep.acquireL1 ..).trans (.flyDev ..)) ends

theorem AccStep.execL1inv (g : RingGoes s t 1 h w) {c index scale disp : Nat} (ends : execL1inv h c index scale disp s = .next u) :
    AccStep s u t :=
  .engIssue g rfl (fun _ _ => (AccStep.dropL1 ..).trans (.signalIn ..)) ends

theorem AccStep.execPref (g : RingGoes s t 1 h w) {q c index scale disp : Nat} (ends : execPref h q c index scale disp s = .next u) :
    AccStep s u t := by
  refine .engIssue g rfl (fun sig v => ?_) ends
  dsimp only
  split
  · exact .signalIn ..
  · exact (AccStep.send v (by rfl)).trans (.signalIn ..)

end

/-- What the first list of the frame says of a tile. -/
theorem AccTile.butContexts {T U : Tile} (tile : AccTile T U) :
    U = { T with eng := U.eng, rings := U.rings, sem := U.sem, tq := U.tq, pushes := U.pushes, bar := U.bar, bpend := U.bpend,
                 know := U.know, ctxs := U.ctxs, l1 := U.l1 } := by
  unfold AccTile at tile
  rw [tile]

theorem AccStep.sameCc {s u : State} {t : Nat} (st : AccStep s u t) (c : Nat) : u.cc t c = s.cc t c := by
  unfold State.cc Tile.cc
  rw [st.tile]

/-! Words that reach memory: a record for the host may be written, and queues and the lines of atomics change. -/

theorem memGet_memDel_other {m : List Host.Cell} {a k : Nat} (ne : k ≠ a) : memGet (memDel m a) k = memGet m k := by
  induction m with
  | nil => rfl
  | cons d m ih =>
    obtain ⟨x, v⟩ := d
    unfold memDel
    split
    · next same => rw [memGet, if_neg (same ▸ ne)]
    · rw [memGet, memGet, ih]

theorem memGet_memSet_other {m : List Host.Cell} {a k : Nat} {b : BitVec 8} (ne : k ≠ a) : memGet (memSet m a b) k = memGet m k := by
  unfold memSet
  split
  · exact memGet_memDel_other ne
  · rw [memGet_memIns, if_neg ne]

/-- A write leaves the bytes below it, whatever the form of memory. -/
theorem memGet_memPut_below {m : List Host.Cell} {a k : Nat} {bs : List Nat} (below : k < a) : memGet (memPut m a bs) k = memGet m k := by
  induction bs generalizing m a with
  | nil => rfl
  | cons b bs ih => rw [memPut, ih (by omega), memGet_memSet_other (by omega)]

/-- A tile changed at most as `AccTile` says, and in its queues and the lines of its atomics. -/
def AccWide (T U : Tile) : Prop :=
  U = { T with eng := U.eng, rings := U.rings, sem := U.sem, tq := U.tq, pushes := U.pushes, bar := U.bar, bpend := U.bpend,
               know := U.know, ctxs := U.ctxs, l1 := U.l1, queues := U.queues, amoLines := U.amoLines }

theorem AccWide.refl (T : Tile) : AccWide T T := rfl

theorem AccWide.trans {T U V : Tile} (a : AccWide T U) (b : AccWide U V) : AccWide T V := by
  unfold AccWide at a b ⊢
  rw [b, a]

theorem AccTile.wide {T U : Tile} (tile : AccTile T U) : AccWide T U := by
  unfold AccTile at tile
  unfold AccWide
  rw [tile]

/-- A step of the access core of tile `t` that may write to host memory, from address 2^60 on, and to its column. -/
structure AccReach (s u : State) (t : Nat) : Prop where
  memory : ∀ x, x < 2 ^ 60 → memGet u.mem x = memGet s.mem x ∧ u.poisAt x = s.poisAt x ∧ u.tagAt x = s.tagAt x
  others : SameOthers s u t
  ctxs : u.ctxs = s.ctxs
  launches : u.launches = s.launches
  nmus : u.nmus = s.nmus
  saved : u.saved = s.saved
  tile : AccWide (s.tile t) (u.tile t)

theorem AccStep.reach {s u : State} {t : Nat} (st : AccStep s u t) : AccReach s u t :=
  ⟨fun x _ => st.memory x, st.others, st.device.ctxs, st.device.launches, st.device.nmus, st.device.saved, st.tile.wide⟩

theorem AccReach.refl (s : State) (t : Nat) : AccReach s s t := (AccStep.refl s t).reach

theorem AccReach.trans {s v u : State} {t : Nat} (a : AccReach s v t) (b : AccReach v u t) : AccReach s u t where
  memory x below := by
    obtain ⟨mem, pois, tag⟩ := b.memory x below
    rw [mem, pois, tag]
    exact a.memory x below
  others := a.others.trans b.others
  ctxs := b.ctxs.trans a.ctxs
  launches := b.launches.trans a.launches
  nmus := b.nmus.trans a.nmus
  saved := b.saved.trans a.saved
  tile := a.tile.trans b.tile

theorem AccReach.updTile (s : State) (t : Nat) {f : Tile → Tile} (tile : AccWide (s.tile t) (f (s.tile t))) : AccReach s (s.updTile t f) t :=
  ⟨fun _ _ => ⟨rfl, rfl, rfl⟩, .setTile s t _, rfl, rfl, rfl, rfl, by rwa [State.updTile_tile]⟩

/-- A change of the columns and of the host interface. -/
theorem AccReach.outside (s : State) (t : Nat) (cols : FM Col) (sys : Sys) : AccReach s { s with cols := cols, sys := sys } t :=
  ⟨fun _ _ => ⟨rfl, rfl, rfl⟩, fun _ _ => rfl, rfl, rfl, rfl, rfl, .refl _⟩

theorem AccReach.putGranule (s : State) (t : Nat) {a : Nat} (host : 2 ^ 60 ≤ a) (bs : List Nat) (p : Bool) :
    AccReach s (s.putGranule a bs p) t := by
  have clean : s.markDirty a = s := markDirty_none (if_neg (by omega))
  have rest : s.putGranule a bs p = { s with mem := (s.putGranule a bs p).mem, pois := (s.putGranule a bs p).pois,
                                             tags := (s.putGranule a bs p).tags } := by
    unfold State.putGranule
    rw [clean]
  have tiles : (s.putGranule a bs p).tiles = s.tiles := by rw [rest]
  have tile (v : Nat) : (s.putGranule a bs p).tile v = s.tile v := by unfold State.tile; rw [tiles]
  refine ⟨fun x below => ⟨memGet_memPut_below (by omega), ?_, ?_⟩, fun v _ => tile v, by rw [rest], by rw [rest], by rw [rest],
    by rw [rest], (tile t).symm ▸ .refl _⟩
  · change setHas (setPut s.pois (a / 64) _) (x / 64) = setHas s.pois (x / 64)
    rw [setHas_setPut, if_neg (by omega)]
  · change setHas (s.tags.filter fun k => !(decide (a / 16 ≤ k) && decide (k < (a + bs.length + 15) / 16))) (x / 16) = setHas s.tags (x / 16)
    rw [setHas_filter, decide_eq_false (by omega : ¬ a / 16 ≤ x / 16), Bool.false_and, Bool.not_false, Bool.true_and]

theorem granules_from {fuel a : Nat} {bs : List Nat} : ∀ g ∈ granules fuel a bs, a ≤ g.1 := by
  induction fuel generalizing a bs with
  | zero => simp [granules]
  | succ fuel ih =>
    cases bs with
    | nil => simp [granules]
    | cons b bs =>
      rw [granules.eq_3 _ _ _ (by simp)]
      intro g among
      rcases List.mem_cons.mp among with rfl | among
      · exact Nat.le_refl _
      · exact Nat.le_trans (Nat.le_add_right ..) (ih g among)

theorem AccReach.put (s : State) (t : Nat) {a : Nat} (host : 2 ^ 60 ≤ a) (bs : List Nat) (p : Bool) : AccReach s (s.put a bs p) t := by
  have from' : ∀ g ∈ granules (bs.length + 1) a bs, 2 ^ 60 ≤ g.1 := fun g among => Nat.le_trans host (granules_from g among)
  unfold State.put
  generalize granules (bs.length + 1) a bs = gs at from'
  induction gs generalizing s with
  | nil => exact .refl s t
  | cons g gs ih =>
    rw [List.foldl_cons]
    exact (AccReach.putGranule s t (from' g (List.mem_cons_self ..)) g.2 p).trans
      (ih _ fun x among => from' x (List.mem_cons_of_mem _ among))

/-- A record is written to the fault queue, or kept for it (15 R402). -/
theorem AccReach.hostRecord (s : State) (t : Nat) (r : FRec) : AccReach s (s.hostRecord r) t := by
  unfold State.hostRecord
  split
  · exact (AccReach.put s t (Nat.le_trans (Nat.le_add_right hostBase s.sys.fqBase) (Nat.le_add_right _ _)) _ _).trans (.outside ..)
  · exact .outside ..

theorem AccReach.heldAt (s : State) (t kind i va : Nat) : AccReach s (heldAt s t kind i va) t := by
  unfold Machine.heldAt State.holdAccess
  split
  · exact .refl s t
  · exact (AccReach.outside s t _ s.sys).trans (.hostRecord ..)

/-- A word that reaches memory keeps what its effect keeps. -/
theorem AccReach.accIssue {s u w : State} {t : Nat} {h : Hdr} (g : RingGoes s t 1 h w) {k : AccWord} {eff : Nat → Nat → State → State}
    (same : k.list = none → ∀ u, AccStep s u t → k.fail u t = k.fail s t) (effect : ∀ sig v, AccReach v (eff t sig v) t)
    (ends : accIssue h s k eff = .next u) : AccReach s u t := by
  have begun (sig : Nat) : AccReach s (eff t sig (w.begin t 1)) t := g.begins.reach.trans (effect ..)
  by_cases free : (s.accPending t k.regs || k.busy s t) = false
  · cases list : k.list with
    | some order =>
      rw [accIssue_listed g list free] at ends
      cases ends
      exact g.held.reach
    | none =>
      obtain ⟨passes, found, holds, faults⟩ := accIssue_plain (eff := eff) g list free (same list)
      cases fail : k.fail s t with
      | none =>
        rw [passes fail] at ends
        rw [(of_finish_eq_next ends).1]
        exact begun _
      | some x =>
        cases x with
        | ok p =>
          rw [found p fail] at ends
          rw [(of_finish_eq_next ends).1]
          exact begun _
        | held i va =>
          rw [holds i va fail] at ends
          rw [(of_finish_eq_next ends).1]
          exact g.held.reach.trans (.heldAt ..)
        | fault cause v =>
          rw [faults cause v fail] at ends
          cases ends
          exact (g.begins.trans (.execFault ..)).reach
  · rw [accIssue_busy g ((Bool.not_eq_false _).mp free)] at ends
    cases ends
    exact .refl s t

theorem AccReach.setQueue (s : State) (t q : Nat) (Q : Tile → Queue) : AccReach s (s.updTile t fun T => T.setQueue q (Q T)) t :=
  .updTile s t rfl

theorem AccReach.amoLine (s : State) (t k : Nat) : AccReach s (s.updTile t fun T => { T with amoLines := setAdd T.amoLines k }) t :=
  .updTile s t rfl

theorem AccReach.send (s : State) {t : Nat} {a : Access} (own : a.t = t) : AccReach s (s.send a) t := (AccStep.send s own).reach

section
variable {s u w : State} {t : Nat} {h : Hdr} {op q c : Nat} {regs sinks : List Nat} {rows : State → Nat → List RowAt}

/-- A word with a list is held as it issues, before its rows matter. -/
theorem not_indexed {indexed : Bool} {order : Nat} (plain : (if indexed = true then some order else none) = none) : indexed = false := by
  cases indexed with
  | false => rfl
  | true => cases plain

theorem AccReach.queueLoad (g : RingGoes s t 1 h w) {indexed : Bool} {list : State → Nat → Option Xl}
    (kept : indexed = false → list = noList ∧ RowsKept rows s t)
    (ends : queueLoad h op q c regs sinks indexed list rows s = .next u) : AccReach s u t := by
  refine .accIssue g (fun plain v st => ?_) (fun sig v => (AccReach.setQueue ..).trans (.send _ rfl)) ends
  obtain ⟨rfl, rows⟩ := kept (not_indexed plain)
  simp only [st.regSink, noList, rows v st, st.rowsFail]

theorem AccReach.queueStore (g : RingGoes s t 1 h w) {indexed : Bool} {list : State → Nat → Option Xl}
    (kept : indexed = false → list = noList ∧ RowsKept rows s t)
    (ends : queueStore h op q c regs sinks indexed list rows s = .next u) : AccReach s u t := by
  refine .accIssue g (fun plain v st => ?_)
    (fun sig v => ((AccReach.setQueue ..).trans (AccStep.dropL1 ..).reach).trans (.send _ rfl)) ends
  obtain ⟨rfl, rows⟩ := kept (not_indexed plain)
  simp only [st.regSink, noList, rows v st, st.rowsFail, st.queue, st.creg]

theorem AccReach.scalarLoad (g : RingGoes s t 1 h w) {n d a imm : Nat} (ends : scalarLoad h op n d a imm s = .next u) :
    AccReach s u t := by
  refine .accIssue g (fun _ v st => ?_) (fun sig v => ?_) ends
  · simp only [st.checkRange, st.engSup, st.creg, st.immAddr]
  · have drawn : AccStep v (takeFree v).2 t := .rest v t _ _ _ _ _
    dsimp only
    split
    · exact .send v rfl
    · split
      · exact (drawn.trans ((AccStep.flyTile ..).trans (.signalIn ..))).reach
      · exact (drawn.trans (.dropL1 ..)).reach.trans (.send _ rfl)

theorem AccReach.scalarStore (g : RingGoes s t 1 h w) {n d a imm : Nat} (ends : scalarStore h op n d a imm s = .next u) :
    AccReach s u t := by
  refine .accIssue g (fun _ v st => ?_) (fun sig v => (AccStep.dropL1 ..).reach.trans (.send _ rfl)) ends
  simp only [st.checkRange, st.engSup, st.creg, st.immAddr, st.areg]

theorem AccReach.execCld (g : RingGoes s t 1 h w) {d a imm : Nat} (ends : execCld h d a imm s = .next u) : AccReach s u t :=
  .accIssue g (fun _ _ st => st.capFail ..) (fun _ v => .send v rfl) ends

theorem AccReach.execCst (g : RingGoes s t 1 h w) {d a imm : Nat} (ends : execCst h d a imm s = .next u) : AccReach s u t :=
  .accIssue g (fun _ _ st => st.capFail ..) (fun _ v => .send v rfl) ends

theorem AccReach.atomic (g : RingGoes s t 1 h w) {d a b wd uns : Nat} (ends : atomic h op d a b wd uns s = .next u) : AccReach s u t := by
  refine .accIssue g (fun _ v st => ?_) (fun sig v => ?_) ends
  · simp only [st.checkRange, st.engSup, st.creg]
  · dsimp only
    split
    · exact (AccReach.amoLine ..).trans (.send _ rfl)
    · exact .send v rfl

theorem AccReach.execMwait (g : RingGoes s t 1 h w) {d a b k : Nat} (ends : execMwait h d a b k s = .next u) : AccReach s u t := by
  refine .accIssue g (fun _ v st => ?_) (fun sig v => (AccStep.updEng ..).reach.trans (.send _ rfl)) ends
  simp only [st.checkRange, st.engSup, st.creg]

theorem AccStep.sendPut (s : State) (h : Hdr) (t kind cs cd so dof n op ty : Nat) (sem : Option Nat) (handler : Nat) (arg : Word)
    (sig : Nat) : AccStep s (s.sendPut h t kind cs cd so dof n op ty sem handler arg sig) t :=
  (AccStep.acquireL1 ..).trans (.flyDev ..)

theorem AccReach.execPutr (g : RingGoes s t 1 h w) {cs cd so dof ln sen sem : Nat}
    (ends : execPutr h cs cd so dof ln sen sem s = .next u) : AccReach s u t :=
  .accIssue g (fun _ _ st => st.putFail (st.putLen ..)) (fun _ _ => (AccStep.sendPut ..).reach) ends

theorem AccReach.execPuth (g : RingGoes s t 1 h w) {cs cd so dof ln ha arg : Nat}
    (ends : execPuth h cs cd so dof ln ha arg s = .next u) : AccReach s u t :=
  .accIssue g (fun _ _ st => st.putFail (st.putLen ..)) (fun _ _ => (AccStep.sendPut ..).reach) ends

theorem AccReach.execRred (g : RingGoes s t 1 h w) {cs cd so dof cnt ty sen sem : Nat}
    (ends : execRred h cs cd so dof cnt op ty sen sem s = .next u) : AccReach s u t :=
  .accIssue g (fun _ _ st => st.putFail (st.redLen ..)) (fun _ _ => (AccStep.sendPut ..).reach) ends

end

/-- Settles O16: each word by the lemma of its kind, whose step gives the frame. -/
theorem accessIssueFrame : Obligations.AccessIssueFrame := by
  intro s u w t h d a b k m n q g
  have kept (st : AccStep s u t) := And.intro st.memory (And.intro st.device (And.intro st.others
    (And.intro st.tile.butContexts fun c => congrArg CtlCtx.regs (st.sameCc c))))
  have reached (st : AccReach s u t) := And.intro st.memory (And.intro st.others (And.intro st.ctxs (And.intro st.launches
    (And.intro st.nmus (And.intro st.saved st.tile)))))
  have whole (_ : false = false) := And.intro (Eq.refl noList) (wholeEntry_kept k d a m s t)
  have strided (_ : false = false) := And.intro (Eq.refl noList) (stridedRows_kept k d a b m n s t)
  refine ⟨fun i among goes => kept ?_, fun i among goes => reached ?_⟩ <;> revert i
  · simp only [List.forall_mem_cons, exec_aadd, exec_asub, exec_aaddi, exec_amuli, exec_ashli, exec_aandi, exec_ali, exec_cder, exec_cderLen,
      exec_cperm, exec_cget, exec_ctest, exec_qrd, exec_rdget, exec_rdset, exec_mark, exec_qdrop, exec_dqpush, exec_dqpop, exec_dqsteal,
      exec_l1inva, exec_accFence, exec_l1inv, exec_pref]
    exact ⟨.accRRR g, .accRRR g, .accRR g, .accRR g, .accRR g, .accRR g, .accWrite g, .accDerive g, .accDerive g,
      .execCperm g, .accWrite g, .accWrite g, .accWrite g, .accWrite g, .execRdset g, .execMark g, .execQdrop g, .dequeWord g,
      .dequeWord g, .dequeWord g, .execL1inva g, .execAccFence g, .execL1inv g, .execPref g, List.forall_mem_nil _⟩
  · simp only [List.forall_mem_cons, exec_ldq, exec_ldqs, exec_ldqg, exec_stq, exec_stqs, exec_stqg, exec_ldb, exec_ldh, exec_ldw, exec_ldd,
      exec_stb, exec_sth, exec_stw, exec_std, exec_cld, exec_cst, exec_amoadd, exec_amofadd, exec_amomin, exec_amomax, exec_amoand,
      exec_amoor, exec_amoxor, exec_amoswp, exec_amocas, exec_mwait, exec_putr, exec_puth, exec_rred]
    exact ⟨.queueLoad g whole, .queueLoad g strided, .queueLoad g (fun plain => nomatch plain), .queueStore g whole,
      .queueStore g strided, .queueStore g (fun plain => nomatch plain), .scalarLoad g, .scalarLoad g, .scalarLoad g, .scalarLoad g,
      .scalarStore g, .scalarStore g, .scalarStore g, .scalarStore g, .execCld g, .execCst g, .atomic g, .atomic g, .atomic g,
      .atomic g, .atomic g, .atomic g, .atomic g, .atomic g, .atomic g, .execMwait g, .execPutr g, .execPuth g, .execRred g,
      List.forall_mem_nil _⟩

end Sys2Proof.Machine
end

section
namespace Sys2Proof.Machine

/-! ### Bank-store words, launches, and the words that stop, save and kill (O33; 05 R137, R138; 14 R379, R384 to R389) -/

@[simp] theorem State.post_bad (s : State) (t c sig op l : Nat) (vs : List Nat) : (s.post t c sig op l vs).bad = s.bad := rfl

@[simp] theorem State.await_bad (s : State) (t c d sig op l : Nat) (vs : List Nat) : (s.await t c d sig op l vs).bad = s.bad := rfl

@[simp] theorem State.holdSc_bad (s : State) (t c sig op order : Nat) : (s.holdSc t c sig op order).bad = s.bad := by
  unfold State.holdSc
  split <;> rfl

@[simp] theorem State.zeroWays_bad (s : State) (ctx m n : Nat) : (s.zeroWays ctx m n).bad = s.bad := rfl

/-- `u` with a free value drawn, or none. -/
def State.drawn (u : State) (k : Nat) : State := { u with free := k }

@[simp] theorem State.drawn_bad (u : State) (k : Nat) : (u.drawn k).bad = u.bad := rfl

section
variable {s w : State} {t c : Nat} {h : Hdr} (g : CtlGoes s t c h w) {k : CtlChecks} {eff : Nat → Nat → Nat → State → State}
include g

/-- A word that goes has its effect, where its effect reaches nothing beyond device memory. -/
theorem ctlIssue_next (dec : k.dec s t c = none) (busy : k.busy s t c = false) (hold : k.hold s t c = none) (chk : k.chk s t c = none)
    (sound : ∀ sig u, u.bad = none → (eff t c sig u).bad = none) :
    ctlIssue h s k eff = .next (eff t c ((s.tile t).resolveSig h.sig) (w.observe t c h.wait)) :=
  (ctlIssue_goes g k eff dec busy hold chk).trans (finish_eq_next (sound _ _ (by simp [g.bad])))

/-- A word whose check on its values fails traps. -/
theorem ctlIssue_faults {cause : Nat} {v : Word} (level : (s.cc t c).tlvl < 2) (dec : k.dec s t c = none) (busy : k.busy s t c = false)
    (hold : k.hold s t c = none) (chk : k.chk s t c = some (cause, v)) (plain : ∀ u, k.onTrap u t c = u) :
    ctlIssue h s k eff = .next (s.wordTrap t c cause v) := by
  rw [ctlIssue_traps g k eff dec busy hold chk, plain]
  exact finish_eq_next (wordTrap_bad g.sound level)

/-- A bank-store word within the split is sent to its column, or refused by a disabled one. -/
theorem bankWord_goes {op col foreign first count dc : Nat} (within : first + count ≤ (s.context (s.tile t).ctx).bsplit)
    (dest : (if foreign = 1 then col else tileCol t) = dc) :
    (s.colDisabled dc = false → ∃ l k, bankWord h op col foreign first count s =
      .next (((w.observe t c h.wait).drawn k).post t c ((s.tile t).resolveSig h.sig) op l [dc, first, count])) ∧
    (s.colDisabled dc = true → bankWord h op col foreign first count s =
      .next (((w.observe t c h.wait).ctlNext t c 1).signalNow t 0 c ((s.tile t).resolveSig h.sig) (some (0x57, originOf t 0)))) := by
  have sound : (w.observe t c h.wait).bad = none := by simp [g.bad]
  have chk : (if (s.context (s.tile t).ctx).bsplit < first + count then some (0x09, s.ctlWord t c) else none) = none :=
    if_neg (by omega)
  rw [bankWord, ctlIssue_goes g _ _ rfl rfl rfl chk]
  dsimp only
  rw [dest]
  refine ⟨fun up => ?_, fun down => ?_⟩
  · rw [if_neg (ne_true_of_eq_false up)]
    by_cases dirty : ((s.col dc).lines.any fun l => l.dirty && inWays (s.tile t).ctx first count l) = true
    · rw [if_pos dirty]
      exact ⟨_, _, finish_eq_next sound⟩
    · rw [if_neg dirty]
      exact ⟨_, _, finish_eq_next sound⟩
  · rw [if_pos down]
    exact finish_eq_next (by simp [g.bad])

theorem bankWord_beyond {op col foreign first count : Nat} (level : (s.cc t c).tlvl < 2)
    (beyond : (s.context (s.tile t).ctx).bsplit < first + count) :
    bankWord h op col foreign first count s = .next (s.wordTrap t c 0x09 (s.ctlWord t c)) :=
  ctlIssue_faults g level rfl rfl rfl (if_pos beyond) fun _ => rfl

/-- BSPSET within the ways, refused by no line and no access: what it changes at once, and what it sends. -/
theorem bspset_goes {d n : Nat}
    (ways : ((s.context (s.tile t).ctx).wayCols.any fun k => decide (FM.get 0 (s.context (s.tile t).ctx).nw k < n)) = false)
    (may : s.splitRefused (s.tile t).ctx n = false) :
    ∃ l k, execBspset h d n s = .next ((((((w.observe t c h.wait).drawn k).zeroWays (s.tile t).ctx (s.context (s.tile t).ctx).bsplit n).updContext
      (s.tile t).ctx fun y => { y with bsplit := n }).putS t c d ⟨BitVec.ofNat 64 (s.context (s.tile t).ctx).bsplit, false⟩ 2 0).post t c
        ((s.tile t).resolveSig h.sig) 0x40 l []) ∧ 2 ≤ l ∧ l ≤ 36870 := by
  rw [execBspset, ctlIssue_goes g _ _ rfl rfl rfl ((if_neg (ne_true_of_eq_false ways)).trans (if_neg (ne_true_of_eq_false may)))]
  dsimp only
  by_cases same : (s.context (s.tile t).ctx).bsplit = n
  · rw [if_pos same]
    exact ⟨2, (w.observe t c h.wait).free, finish_eq_next (by simp [g.bad]), by decide, by decide⟩
  · rw [if_neg same]
    refine ⟨(takeIn 2 36870 (w.observe t c h.wait)).1, (w.observe t c h.wait).free + 1, finish_eq_next ?_, ?_, ?_⟩
    · simp [takeIn, takeFree, g.bad]
    · exact Nat.le_add_left ..
    · have below := Nat.mod_lt (takeFree (w.observe t c h.wait)).1 (by decide : 0 < 36870 + 1 - 2)
      simp only [takeIn]
      omega

theorem bspset_refused {d n : Nat} (level : (s.cc t c).tlvl < 2)
    (ways : ((s.context (s.tile t).ctx).wayCols.any fun k => decide (FM.get 0 (s.context (s.tile t).ctx).nw k < n)) = false)
    (refused : s.splitRefused (s.tile t).ctx n = true) : execBspset h d n s = .next (s.wordTrap t c 0x25 (BitVec.ofNat 64 n)) :=
  ctlIssue_faults g level rfl rfl rfl ((if_neg (ne_true_of_eq_false ways)).trans (if_pos refused)) fun _ => rfl

/-- LAUNCH of a sheaf of the context: on its way to the dispatcher, or held while too many are open. -/
theorem launch_issues {n cwen cw : Nat} (known : (FM.find? (s.context (s.tile t).ctx).sheaves n).isSome) :
    (s.openLaunches (s.tile t).ctx < 64 → ∃ l k, execLaunch h n cwen cw s =
      .next (((((w.observe t c h.wait).drawn k).ctlNext t c 1).flyDev l (.launch t (s.tile t).ctx n (if cwen = 1 then some cw else none)
        ((s.tile t).resolveSig h.sig) (scpOrder h 2 != 0) (scpScope h 2 == 3))).holdSc t c ((s.tile t).resolveSig h.sig) 0x41 (scpOrder h 2))) ∧
    (64 ≤ s.openLaunches (s.tile t).ctx → execLaunch h n cwen cw s = .next s) := by
  have dec : (if (FM.find? (s.curContext t).sheaves n).isNone then some 0x09 else none) = none :=
    if_neg (by simp [State.curContext, Option.isSome_iff_ne_none.mp known])
  exact ⟨fun few => ⟨_, _, ctlIssue_next g dec (decide_eq_false (by omega)) rfl rfl fun sig u sound => by simp [State.atLeast, sound]⟩,
    fun many => ctlIssue_busy g _ _ dec (decide_eq_true many)⟩

theorem launch_unknown {n cwen cw : Nat} (level : (s.cc t c).tlvl < 2) (unknown : (FM.find? (s.context (s.tile t).ctx).sheaves n).isNone) :
    execLaunch h n cwen cw s = .next (s.wordTrap t c 0x09 (s.ctlWord t c)) :=
  ctlIssue_limit g _ _ level (if_pos unknown)

theorem ctxkill_goes {cause : Nat} : ∃ l k, execCtxkill h cause s =
    .next (((w.observe t c h.wait).drawn k).post t c ((s.tile t).resolveSig h.sig) 0x48 l [cause]) :=
  ⟨_, _, ctlIssue_next g rfl rfl rfl rfl fun sig u sound => by simp [State.atLeast, sound]⟩

end

/-! Words that name a tile. -/

/-- A tile of the context's grant other than the own one. -/
theorem tileChecks_dec {s : State} {t c row col : Nat} :
    ((row ≤ 10 ∧ (s.context (s.tile t).ctx).granted (tileAt row col) = true ∧ tileAt row col ≠ t) →
      (tileChecks row col false).dec s t c = none) ∧
    ((tileAt row col = t ∨ 10 < row ∨ (s.context (s.tile t).ctx).granted (tileAt row col) = false) →
      (tileChecks row col false).dec s t c = some 0x09) := by
  refine ⟨fun ⟨low, granted, other⟩ => if_neg ?_, fun bad => if_pos ?_⟩
  · simp [State.curContext, granted, other, Nat.not_lt.mpr low]
  · rcases bad with own | high | alien
    · simp [own]
    · simp [high]
    · simp [State.curContext, alien]

theorem snapChecks_dec {s : State} {t c row col : Nat} :
    (row ≤ 10 → (s.context (s.tile t).ctx).granted (tileAt row col) = true → (s.tile (tileAt row col)).ctx = (s.tile t).ctx →
      (s.tile (tileAt row col)).state = .stopped ∨ (s.tile (tileAt row col)).state = .saved → (snapChecks row col).dec s t c = none) ∧
    ((s.tile (tileAt row col)).state = .running → (snapChecks row col).dec s t c = some 0x09) := by
  refine ⟨fun low granted same rests => if_neg ?_, fun runs => if_pos ?_⟩
  · have still : ((s.tile (tileAt row col)).state == .stopped || (s.tile (tileAt row col)).state == .saved) = true := by
      rcases rests with stopped | saved
      · rw [stopped]
        rfl
      · rw [saved]
        rfl
    simp [State.curContext, granted, same, still, Nat.not_lt.mpr low]
  · simp [runs]

/-! A checkpoint slot has 1280 pages: its translation must not be evaluated, which the two lemmas below see to. -/

/-- The hold of checks given by their parts. -/
theorem hold_of_eq {k : CtlChecks} {D busy H C after} (is : k = CtlChecks.mk D busy H C after) {s : State} {t c : Nat} {x : Option State}
    (holds : H s t c = x) : k.hold s t c = x := by
  subst is
  exact holds

/-- The check on the values of checks given by their parts. -/
theorem chk_of_eq {k : CtlChecks} {D busy H C after} (is : k = CtlChecks.mk D busy H C after) {s : State} {t c : Nat}
    {x : Option (Nat × Word)} (checks : C s t c = x) : k.chk s t c = x := by
  subst is
  exact checks

section
variable {s : State} {t c row col : Nat} {saved : Bool}

theorem slotChecks_hold (slot : s.ctlXlate t ((s.curContext t).slotVa (tileAt row col)) 5242880 2 3 = none) :
    (slotChecks row col saved).hold s t c = none := by
  refine hold_of_eq rfl ?_
  rw [slot]

theorem slotChecks_chk (slot : s.ctlXlate t ((s.curContext t).slotVa (tileAt row col)) 5242880 2 3 = none)
    (there : saved = true → (s.tile (tileAt row col)).state = .saved ∧ (s.tile (tileAt row col)).ctx = (s.tile t).ctx ∧
      (FM.find? s.saved (tileAt row col)).isSome) : (slotChecks row col saved).chk s t c = none := by
  have kept : (saved && ((s.tile (tileAt row col)).state != .saved || (s.tile (tileAt row col)).ctx != (s.tile t).ctx ||
      (FM.find? s.saved (tileAt row col)).isNone)) = false := by
    cases saved with
    | false => rfl
    | true =>
      obtain ⟨state, ctx, copy⟩ := there rfl
      simp [state, ctx, copy]
  refine chk_of_eq rfl ?_
  dsimp only
  rw [if_neg (ne_true_of_eq_false kept), slot]

end

section
variable {s w : State} {t c : Nat} {h : Hdr} (g : CtlGoes s t c h w) {row col : Nat}
include g

theorem tileWord_goes {op arg : Nat} (dec : (tileChecks row col false).dec s t c = none) : ∃ l k, tileWord h op row col arg s =
    .next (((w.observe t c h.wait).drawn k).post t c ((s.tile t).resolveSig h.sig) op l [tileAt row col, arg]) :=
  ⟨_, _, ctlIssue_next g dec rfl rfl rfl fun sig u sound => by simp [takeIn, sound]⟩

theorem tileWord_refused {op arg cause : Nat} (level : (s.cc t c).tlvl < 2) (dec : (tileChecks row col false).dec s t c = some cause) :
    tileWord h op row col arg s = .next (s.wordTrap t c cause (s.ctlWord t c)) :=
  ctlIssue_limit g _ _ level dec

theorem slotWord_refused {op full cause : Nat} {saved : Bool} (level : (s.cc t c).tlvl < 2)
    (dec : (tileChecks row col false).dec s t c = some cause) :
    slotWord h op row col full saved s = .next (s.wordTrap t c cause (s.ctlWord t c)) :=
  ctlIssue_limit g (slotChecks row col saved) _ level dec

/-- CTXSAVE and CTXREST whose slot translates (14 R386, R387). -/
theorem slotWord_goes {op full : Nat} {saved : Bool} (dec : (tileChecks row col false).dec s t c = none)
    (slot : s.ctlXlate t ((s.context (s.tile t).ctx).slotVa (tileAt row col)) 5242880 2 3 = none)
    (there : saved = true → (s.tile (tileAt row col)).state = .saved ∧ (s.tile (tileAt row col)).ctx = (s.tile t).ctx ∧
      (FM.find? s.saved (tileAt row col)).isSome) :
    ∃ l k, slotWord h op row col full saved s =
      .next (((w.observe t c h.wait).drawn k).post t c ((s.tile t).resolveSig h.sig) op l [tileAt row col, full]) := by
  rw [slotWord, ctlIssue_goes g (slotChecks row col saved) _ dec rfl (slotChecks_hold slot) (slotChecks_chk slot there)]
  exact ⟨_, _, finish_eq_next (show (w.observe t c h.wait).bad = none by simp [g.bad])⟩

theorem snaprd_goes {d n : Nat} (dec : (snapChecks row col).dec s t c = none) :
    (col = tileCol t → execSnaprd h d n row col s =
      .next (ctlWrote s w t c h d 3 ⟨(s.snapView (tileAt row col)).snapReg (tileAt row col) n, false⟩ 0)) ∧
    (col ≠ tileCol t → ∃ l k, execSnaprd h d n row col s =
      .next (((w.observe t c h.wait).drawn k).await t c d ((s.tile t).resolveSig h.sig) 0x43 l [tileAt row col, n])) := by
  rw [execSnaprd, ctlIssue_goes g _ _ dec rfl rfl rfl]
  dsimp only
  refine ⟨fun near => ?_, fun far => ?_⟩
  · rw [if_pos near]
    exact finish_eq_next (by simp [g.bad])
  · rw [if_neg far]
    exact ⟨_, _, finish_eq_next (show (w.observe t c h.wait).bad = none by simp [g.bad])⟩

theorem snapwr_goes {a n : Nat} (dec : (snapChecks row col).dec s t c = none) : ∃ l k, execSnapwr h a n row col s =
    .next (((w.observe t c h.wait).drawn k).post t c ((s.tile t).resolveSig h.sig) 0x44 l
      [tileAt row col, n, (s.sreg t c a).v.toNat]) :=
  ⟨_, _, ctlIssue_next g dec rfl rfl rfl fun sig u sound => by simp [State.atLeast, sound]⟩

end

/-- The ways of a context hold `n` ways in each column that has any. -/
theorem wayCols_hold {x : Context} {n : Nat} (hold : ∀ k, FM.get 0 x.nw k ≠ 0 → n ≤ FM.get 0 x.nw k) :
    (x.wayCols.any fun k => decide (FM.get 0 x.nw k < n)) = false := by
  simp only [Context.wayCols, List.any_filter, List.any_eq_false, Bool.and_eq_true, bne_iff_ne, decide_eq_true_eq, not_and, Nat.not_lt]
  exact fun k _ => hold k

/-- Settles O33: each word by the lemma of its kind. -/
theorem bankLaunchAndTileWords : Obligations.BankLaunchAndTileWords := by
  intro s w t c h d a n first count col row full cause cw g T x u sig v drew sends
  refine ⟨fun within => ⟨fun up => ⟨(bankWord_goes g within (if_neg (by decide))).1 up, (bankWord_goes g within (if_neg (by decide))).1 up⟩,
      fun up => ⟨(bankWord_goes g within (if_pos rfl)).1 up, (bankWord_goes g within (if_pos rfl)).1 up⟩,
      fun down => ⟨(bankWord_goes g within (if_pos rfl)).2 down, (bankWord_goes g within (if_pos rfl)).2 down⟩⟩,
    fun ways may => bspset_goes g (wayCols_hold ways) may, fun level ways refused => bspset_refused g level (wayCols_hold ways) refused,
    fun known few => (launch_issues g known).1 few, fun known few => (launch_issues g known).1 few,
    fun known many => (launch_issues g known).2 many, fun low granted => ⟨fun other => ?_, fun same rests => ?_⟩, ctxkill_goes g,
    fun level => ⟨fun beyond => ⟨bankWord_beyond g level beyond, bankWord_beyond g level beyond⟩, fun bad => ?_, fun runs => ?_,
      fun unknown => launch_unknown g level unknown⟩⟩
  · have dec : (tileChecks row col false).dec s t c = none := tileChecks_dec.1 ⟨low, granted, other⟩
    exact ⟨tileWord_goes g dec, tileWord_goes g dec, fun slot => ⟨slotWord_goes g dec slot nofun,
      fun state ctx copy => slotWord_goes g dec slot fun _ => ⟨state, ctx, copy⟩⟩⟩
  · have dec : (snapChecks row col).dec s t c = none := snapChecks_dec.1 low granted same rests
    exact ⟨(snaprd_goes g dec).1, (snaprd_goes g dec).2, snapwr_goes g dec⟩
  · have dec : (tileChecks row col false).dec s t c = some 0x09 := tileChecks_dec.2 bad
    simp only [exec_preemptStop, exec_preemptResume, exec_ctxsave]
    exact ⟨tileWord_refused g level dec, tileWord_refused g level dec, slotWord_refused g level dec⟩
  · have dec : (snapChecks row col).dec s t c = some 0x09 := snapChecks_dec.2 runs
    simp only [exec_snaprd, exec_snapwr]
    exact ⟨ctlIssue_limit g _ _ level dec, ctlIssue_limit g _ _ level dec⟩

end Sys2Proof.Machine
end

section
namespace Sys2Proof.Machine

/-! ### What a put delivers (05 R154) -/

/-- The receive unit takes a put that it has begun, or that finds it open for a task in its place. -/
theorem receives_eq {s : State} {p : Put} (own : p.space ≠ 4) (fresh : p.done = 0) : s.receives p =
    ((s.tile p.target).recvOpen && (s.tile p.target).state != .saved && !s.forSaved p.target p.t) := by
  unfold State.receives
  rw [beq_eq_false_iff_ne.mpr own, fresh]
  rfl

theorem forSaved_none {s : State} {t u : Nat} (none : FM.find? s.saved t = none) : s.forSaved t u = false := by
  unfold State.forSaved
  rw [none]

theorem receives_open {s : State} {p : Put} (own : p.space ≠ 4) (fresh : p.done = 0) (opened : (s.tile p.target).recvOpen = true)
    (state : (s.tile p.target).state ≠ .saved) (none : FM.find? s.saved p.target = none) : s.receives p = true := by
  rw [receives_eq own fresh, opened, forSaved_none none, bne_iff_ne.mpr state]
  rfl

theorem receives_closed {s : State} {p : Put} (own : p.space ≠ 4) (fresh : p.done = 0)
    (closed : (s.tile p.target).recvOpen = false ∨ (s.tile p.target).state = .saved) : s.receives p = false := by
  rw [receives_eq own fresh]
  rcases closed with closed | saved
  · rw [closed, Bool.false_and, Bool.false_and]
  · rw [bne_eq_false_iff_eq.mpr saved, Bool.and_false, Bool.false_and]

@[simp] theorem memBytes_length (m : List Host.Cell) (a n : Nat) : (memBytes m a n).length = n := by simp [memBytes]

theorem memBytes_getD (m : List Host.Cell) (a : Nat) {n i : Nat} (below : i < n) : (memBytes m a n).getD i 0 = (memGet m (a + i)).toNat := by
  simp [memBytes, below]

theorem memBytes_append (m : List Host.Cell) (a n k : Nat) : memBytes m a (n + k) = memBytes m a n ++ memBytes m (a + n) k := by
  simp [memBytes, List.range_add, Nat.add_assoc]

theorem memBytes_drop_take (m : List Host.Cell) (a : Nat) {n i k : Nat} (within : i + k ≤ n) :
    ((memBytes m a n).drop i).take k = memBytes m (a + i) k := by
  obtain ⟨r, rfl⟩ := Nat.exists_eq_add_of_le within
  rw [Nat.add_assoc, memBytes_append, List.drop_left' (memBytes_length ..), memBytes_append, List.take_left' (memBytes_length ..)]

/-- Granules that follow each other, joined. -/
theorem memBytes_granules (m : List Host.Cell) (a i n : Nat) :
    ((List.range' i n).flatMap fun k => memBytes m (a + 64 * k) 64) = memBytes m (a + 64 * i) (64 * n) := by
  induction n generalizing i with
  | zero => rfl
  | succ n ih =>
    rw [List.range'_succ, List.flatMap_cons, ih, Nat.mul_succ 64 i, Nat.mul_succ 64 n, Nat.add_comm (64 * n), memBytes_append, Nat.add_assoc]

section
variable {s : State} {p : Put} {i : Nat}

/-- The first and last granules of the source that a part takes. -/
theorem take_drop_range {K L n : Nat} (within : K ≤ n) : ((List.range n).take K).drop L = List.range' L (K - L) := by
  rw [List.take_range, Nat.min_eq_left within, List.range_eq_range', List.drop_range']
  simp

/-- Once the source is read, a part is the bytes of its range, with the poison of the granules that they lie in. -/
theorem putPart_read (read : p.got = (List.range p.sources).map fun j => s.sourceGranule p j) :
    (p.putPart i).1 = p.dst + (p.part i).1 ∧
    (p.putPart i).2.1 = s.bytes (spBase p.t + p.src + (p.part i).1) ((p.part i).2 - (p.part i).1) ∧
    ∀ j, (p.part i).1 ≤ j → j < (p.part i).2 → s.poisAt (spBase p.t + p.src + j) = true → (p.putPart i).2.2 = true := by
  have last : (p.part i).2 ≤ p.len := Nat.min_le_left ..
  have base : spBase p.t = 64 * (2 ^ 34 + p.t * 2 ^ 14) := by unfold spBase; omega
  unfold Put.putPart
  dsimp only
  generalize (p.part i).1 = lo at *
  generalize (p.part i).2 = hi at *
  have all : (p.src % 64 + hi + 63) / 64 ≤ p.sources := by unfold Put.sources granuleCount; omega
  have taken : (p.got.take ((p.src % 64 + hi + 63) / 64)).drop ((p.src % 64 + lo) / 64) =
      (List.range' ((p.src % 64 + lo) / 64) ((p.src % 64 + hi + 63) / 64 - (p.src % 64 + lo) / 64)).map fun j => s.sourceGranule p j := by
    rw [read, ← List.map_take, ← List.map_drop, take_drop_range all]
  rw [taken]
  refine ⟨rfl, ?_, fun j low high poisoned => ?_⟩
  · rw [List.flatMap_map]
    have joined := memBytes_granules s.mem ((spBase p.t + p.src) / 64 * 64) ((p.src % 64 + lo) / 64)
      ((p.src % 64 + hi + 63) / 64 - (p.src % 64 + lo) / 64)
    refine (congrArg (fun x => (x.drop ((p.src % 64 + lo) % 64)).take (hi - lo)) joined).trans ?_
    by_cases empty : hi ≤ lo
    · rw [Nat.sub_eq_zero_of_le empty]
      rfl
    · rw [memBytes_drop_take _ _ (by omega)]
      have at' : (spBase p.t + p.src) / 64 * 64 + 64 * ((p.src % 64 + lo) / 64) + (p.src % 64 + lo) % 64 = spBase p.t + p.src + lo := by
        omega
      rw [at']
      rfl
  · refine List.any_eq_true.mpr ⟨s.sourceGranule p ((p.src % 64 + j) / 64), List.mem_map_of_mem ?_, ?_⟩
    · rw [List.mem_range'_1]
      omega
    · have same : ((spBase p.t + p.src) / 64 * 64 + 64 * ((p.src % 64 + j) / 64)) / 64 = (spBase p.t + p.src + j) / 64 := by omega
      unfold State.sourceGranule State.poisAt
      dsimp only
      rw [same]
      exact poisoned

/-- A put's delivery writes its part. -/
theorem deliver_put (own : p.space ≠ 4) (kind : p.kind ≠ 2) :
    s.deliver p i = s.putGranule (spBase p.target + (p.putPart i).1) (p.putPart i).2.1 (p.putPart i).2.2 := by
  unfold State.deliver
  dsimp only
  rw [if_neg own, if_neg kind]

theorem putGranule_rest (s : State) (a : Nat) (bs : List Nat) (q : Bool) : s.putGranule a bs q =
    { s with mem := (s.putGranule a bs q).mem, pois := (s.putGranule a bs q).pois, tags := (s.putGranule a bs q).tags,
             tiles := (s.putGranule a bs q).tiles } := by
  have marked := markDirty_rest s a
  unfold State.putGranule
  dsimp only
  rw [marked]

theorem SameDevice.putGranule (s : State) (a : Nat) (bs : List Nat) (q : Bool) : SameDevice s (s.putGranule a bs q) := by
  rw [putGranule_rest]
  exact ⟨rfl, rfl, rfl, rfl, rfl, rfl, rfl, rfl, rfl, rfl⟩

/-- Delivery of a destination granule: the source's bytes, with its poison. -/
theorem deliver_writes (canonical : s.Canonical) (own : p.space ≠ 4) (kind : p.kind ≠ 2)
    (read : p.got = (List.range p.sources).map fun j => s.sourceGranule p j) :
    (∀ j, (p.part i).1 ≤ j → j < (p.part i).2 →
      memGet (s.deliver p i).mem (spBase p.target + p.dst + j) = memGet s.mem (spBase p.t + p.src + j)) ∧
    SameBytesBut s (s.deliver p i) (spBase p.target + p.dst + (p.part i).1) ((p.part i).2 - (p.part i).1) ∧ SameDevice s (s.deliver p i) ∧
    ((p.part i).1 < (p.part i).2 → (∃ j, (p.part i).1 ≤ j ∧ j < (p.part i).2 ∧ s.poisAt (spBase p.t + p.src + j) = true) →
      (s.deliver p i).poisAt (spBase p.target + p.dst + (p.part i).1) = true) := by
  obtain ⟨at', bytes, poison⟩ := putPart_read (i := i) read
  have mem (k : Nat) := memGet_memPut (a := spBase p.target + p.dst + (p.part i).1) (k := k) (bs := (p.putPart i).2.1) canonical
  have len : (p.putPart i).2.1.length = (p.part i).2 - (p.part i).1 := by rw [bytes]; exact memBytes_length ..
  rw [deliver_put own kind, at', ← Nat.add_assoc]
  rw [len] at mem
  refine ⟨fun j low high => ?_, fun b out => ?_, .putGranule .., fun _ ⟨j, low, high, poisoned⟩ => ?_⟩
  · refine (mem _).trans ?_
    rw [if_pos (by omega), bytes, State.bytes, memBytes_getD _ _ (by omega), BitVec.ofNat_toNat, BitVec.setWidth_eq]
    congr 1
    omega
  · exact (mem b).trans (if_neg (by omega))
  · change setHas (setPut s.pois _ (_ || _)) _ = true
    rw [setHas_setPut, if_pos rfl, poison j low high poisoned, Bool.true_or]

end

end Sys2Proof.Machine
end

section
namespace Sys2Proof.Machine

/-! ### Messages to home records and from them (11 R310 to R313, R321; 16 R433) -/

theorem FM.find?_set_same {α : Type} (m : FM α) (n : Nat) (v : α) : FM.find? (FM.set m n v) n = some v := by
  induction m with
  | nil => simp [FM.set, FM.find?]
  | cons p m ih =>
    obtain ⟨k, w⟩ := p
    unfold FM.set
    split
    · simp [FM.find?]
    · split
      · simp [FM.find?]
      · next other => rw [FM.find?, if_neg other, ih]

/-- `u` is `s` with messages sent, and with nothing lost of what was in flight. -/
structure Told (s u : State) : Prop where
  cols : u.cols = s.cols
  tiles : u.tiles = s.tiles
  bad : u.bad = s.bad
  flights : ∀ f ∈ s.flights, f ∈ u.flights

theorem Told.refl (s : State) : Told s s := ⟨rfl, rfl, rfl, fun _ flies => flies⟩

theorem Told.trans {s v u : State} (a : Told s v) (b : Told v u) : Told s u :=
  ⟨b.cols.trans a.cols, b.tiles.trans a.tiles, b.bad.trans a.bad, fun f flies => b.flights f (a.flights f flies)⟩

/-- A message from a home record is on its way. -/
theorem sendUpdate_told (s : State) (t slot : Nat) (near : Bool) (fl : Fl) :
    Told s (s.sendUpdate t slot near fl) ∧ ∃ f ∈ (s.sendUpdate t slot near fl).flights, f.fl = fl :=
  ⟨⟨rfl, rfl, rfl, fun f flies => by simp [State.sendUpdate, State.fabricTime, takeIn, takeFree, flies]⟩,
    ⟨_, by rw [State.sendUpdate, State.fly_flights]; exact List.mem_append_right _ (List.mem_singleton_self _), rfl⟩⟩

/-- Every participant is told. -/
theorem sendUpdates_told (s : State) (slot : Nat) (r : HomeRec) (q : Option PField) :
    Told s (s.sendUpdates slot r q) ∧ ∀ p ∈ r.parts, ∃ f ∈ (s.sendUpdates slot r q).flights, f.fl = .update p slot r.slot.gen q := by
  unfold State.sendUpdates
  induction r.parts generalizing s with
  | nil => exact ⟨.refl s, fun _ none => nomatch none⟩
  | cons t ts ih =>
    obtain ⟨told, flies⟩ := sendUpdate_told s t slot (r.slot.scope == 1) (.update t slot r.slot.gen q)
    obtain ⟨rest, others⟩ := ih (s.sendUpdate t slot (r.slot.scope == 1) (.update t slot r.slot.gen q))
    refine ⟨told.trans rest, List.forall_mem_cons.mpr ⟨?_, others⟩⟩
    obtain ⟨f, sent, is⟩ := flies
    exact ⟨f, rest.flights f sent, is⟩

/-- A clean arrival at an unpoisoned record. -/
theorem arrive_clean {b : BSlot} {origin : Nat} (clean : b.pois.bit = false) : b.arrive none origin =
    if b.init = true then
      if b.count + 1 = b.target then { b with count := 0, gen := (b.gen + 1) % 65536 } else { b with count := b.count + 1 }
    else { b with pois := ⟨true, 0x33, origin⟩ } := by
  unfold BSlot.arrive PField.poison
  cases b.init <;> simp [clean]

/-- The state in which a record has been changed at its column. -/
def State.setHome (s : State) (dc key : Nat) (r : HomeRec) : State := s.updCol dc fun C => { C with homes := FM.set C.homes key r }

theorem setHome_homes (s : State) (dc key : Nat) (r : HomeRec) : FM.find? ((s.setHome dc key r).col dc).homes key = some r := by
  unfold State.setHome State.updCol
  rw [State.setCol_col]
  exact FM.find?_set_same ..

/-- An arrival at a record of an enabled column. -/
theorem homePerform_arrival {s : State} {t slot e sig c : Nat} {r : HomeRec} (place : (s.tile t).state ≠ .saved)
    (up : s.colDisabled (((s.tile t).barOf slot).homeCol t) = false)
    (found : FM.find? (s.col (((s.tile t).barOf slot).homeCol t)).homes (homeKey (s.tile t).ctx slot) = some r) :
    s.homePerform t slot 0 e 0 none sig c =
      (s.setHome (((s.tile t).barOf slot).homeCol t) (homeKey (s.tile t).ctx slot) { r with slot := r.slot.arrive none (originOf t e) }).homeTells
        slot r { r with slot := r.slot.arrive none (originOf t e) } := by
  have task : s.taskTile t = s.tile t := if_neg place
  unfold State.homePerform
  dsimp only
  rw [task, if_neg (by decide : ¬ 0 = 1), if_neg (ne_true_of_eq_false up), if_pos rfl, found]
  rfl

theorem homeTells_same {s : State} {slot : Nat} {r r' : HomeRec} (pois : r'.slot.pois = r.slot.pois) (gen : r'.slot.gen = r.slot.gen) :
    s.homeTells slot r r' = s := by
  rw [State.homeTells, if_neg (not_not.mpr pois), if_neg (not_not.mpr gen)]

theorem homeTells_gen {s : State} {slot : Nat} {r r' : HomeRec} (pois : r'.slot.pois = r.slot.pois) (gen : r'.slot.gen ≠ r.slot.gen) :
    s.homeTells slot r r' = s.sendUpdates slot r' none := by
  rw [State.homeTells, if_neg (not_not.mpr pois), if_pos gen]

theorem homeTells_pois {s : State} {slot : Nat} {r r' : HomeRec} (pois : r'.slot.pois ≠ r.slot.pois) :
    s.homeTells slot r r' = s.sendUpdates slot r' (some r'.slot.pois) := by
  rw [State.homeTells, if_pos pois]

theorem updTask_keeps (s : State) (t : Nat) (f : Tile → Tile) :
    (s.updTask t f).cols = s.cols ∧ (s.updTask t f).flights = s.flights ∧ (s.updTask t f).bad = s.bad := by
  unfold State.updTask
  split <;> exact ⟨rfl, rfl, rfl⟩

section
variable {s : State} {id due t slot e sig c : Nat} {clk : Clk} {r : HomeRec}

/-- What an arrival does at its record, and what it tells: the state in which the arrival's own tile knows of it besides. -/
theorem homeArrival_eq {v : State} (sound : v.bad = none) (place : (s.tile t).state ≠ .saved)
    (found : s.flight? id = some ⟨id, clk, due, .home t slot 0 e 0 none sig c⟩)
    (up : s.colDisabled (((s.tile t).barOf slot).homeCol t) = false)
    (record : FM.find? (s.col (((s.tile t).barOf slot).homeCol t)).homes (homeKey (s.tile t).ctx slot) = some r)
    (does : ((s.land id).setHome (((s.tile t).barOf slot).homeCol t) (homeKey (s.tile t).ctx slot)
      { r with slot := r.slot.arrive none (originOf t e) }).homeTells slot r { r with slot := r.slot.arrive none (originOf t e) } = v) :
    ∃ u, exec (.homeArrival id) s = .next u ∧ u.flights = v.flights ∧ ∀ k, u.col k = v.col k := by
  have performs := homePerform_arrival (s := s.land id) (sig := sig) (c := c) (e := e) place up record
  obtain ⟨cols, flights, bad⟩ := updTask_keeps v t fun T => T.arrivalSent id
  refine ⟨v.arrivalSent t id, ?_, flights, fun k => congrArg (FM.get Col.fresh · k) cols⟩
  rw [exec_homeArrival, execHomeArrival, found]
  dsimp only
  rw [if_pos rfl]
  refine (congrArg (fun x => finish (State.arrivalSent x t id)) (performs.trans does)).trans ?_
  exact finish_eq_next (bad.trans sound)

/-- A clean arrival at an unpoisoned record of an enabled column: it counts, completes the phase, or poisons a record that is not
initialised. -/
theorem homeArrival_lands (sound : s.bad = none) (place : (s.tile t).state ≠ .saved)
    (found : s.flight? id = some ⟨id, clk, due, .home t slot 0 e 0 none sig c⟩)
    (up : s.colDisabled (((s.tile t).barOf slot).homeCol t) = false)
    (record : FM.find? (s.col (((s.tile t).barOf slot).homeCol t)).homes (homeKey (s.tile t).ctx slot) = some r)
    (clean : r.slot.pois.bit = false) :
    let home (u : State) := FM.find? (u.col (((s.tile t).barOf slot).homeCol t)).homes (homeKey (s.tile t).ctx slot)
    ∃ u, exec (.homeArrival id) s = .next u ∧
      (r.slot.init = true → r.slot.count + 1 ≠ r.slot.target →
        home u = some { r with slot := { r.slot with count := r.slot.count + 1 } } ∧ u.flights = s.flights.filter fun f => f.id != id) ∧
      (r.slot.init = true → r.slot.count + 1 = r.slot.target →
        home u = some { r with slot := { r.slot with count := 0, gen := (r.slot.gen + 1) % 65536 } } ∧
        ∀ p ∈ r.parts, ∃ f ∈ u.flights, f.fl = .update p slot ((r.slot.gen + 1) % 65536) none) ∧
      (r.slot.init = false →
        home u = some { r with slot := { r.slot with pois := ⟨true, 0x33, originOf t e⟩ } } ∧
        ∀ p ∈ r.parts, ∃ f ∈ u.flights, f.fl = .update p slot r.slot.gen (some ⟨true, 0x33, originOf t e⟩)) := by
  have does := fun v sound => homeArrival_eq (v := v) sound place found up record
  rw [arrive_clean clean] at does
  have kept (r' : HomeRec) (q : Option PField) := sendUpdates_told ((s.land id).setHome (((s.tile t).barOf slot).homeCol t)
    (homeKey (s.tile t).ctx slot) r') slot r' q
  by_cases init : r.slot.init = true
  · rw [if_pos init] at does
    by_cases last : r.slot.count + 1 = r.slot.target
    · rw [if_pos last] at does
      obtain ⟨told, all⟩ := kept { r with slot := { r.slot with count := 0, gen := (r.slot.gen + 1) % 65536 } } none
      have moves : (r.slot.gen + 1) % 65536 ≠ r.slot.gen := by omega
      obtain ⟨u, ends, flights, cols⟩ := does _ (told.bad.trans sound) (homeTells_gen rfl moves)
      refine ⟨u, ends, fun _ more => absurd last more, fun _ _ => ⟨?_, flights ▸ all⟩, fun not => absurd init (by simp [not])⟩
      dsimp only
      rw [cols, State.col, told.cols]
      exact setHome_homes ..
    · rw [if_neg last] at does
      obtain ⟨u, ends, flights, cols⟩ := does ((s.land id).setHome _ _ _) sound (homeTells_same rfl rfl)
      refine ⟨u, ends, fun _ _ => ⟨?_, flights⟩, fun _ full => absurd full last, fun not => absurd init (by simp [not])⟩
      dsimp only
      rw [cols]
      exact setHome_homes ..
  · rw [if_neg init] at does
    obtain ⟨told, all⟩ := kept { r with slot := { r.slot with pois := ⟨true, 0x33, originOf t e⟩ } } (some ⟨true, 0x33, originOf t e⟩)
    have poisons : (⟨true, 0x33, originOf t e⟩ : PField) ≠ r.slot.pois := fun same => by
      rw [← same] at clean
      cases clean
    obtain ⟨u, ends, flights, cols⟩ := does _ (told.bad.trans sound) (homeTells_pois poisons)
    refine ⟨u, ends, fun is => absurd is init, fun is => absurd is init, fun _ => ⟨?_, flights ▸ all⟩⟩
    dsimp only
    rw [cols, State.col, told.cols]
    exact setHome_homes ..

end

/-- What a participant's poison field becomes: cleared, kept, or set for the first time. -/
theorem told_some (p f : PField) : p.told (some f) =
    if f.bit = false then .clean else if p.bit = true then p else f := by
  obtain ⟨bit, cause, origin⟩ := f
  cases bit <;> rfl

section
variable {s : State} {id due t slot gen : Nat} {q : Option PField} {clk : Clk}

theorem updateWaits_open (opened : (s.tile t).recvOpen = true) (place : (s.tile t).state ≠ .saved) (unsaved : FM.find? s.saved t = none)
    (first : ∀ f ∈ s.flights, ∀ p, f.fl = .put p → p.arrived = none) : s.updateWaits t slot due = false := by
  unfold State.updateWaits
  simp only [opened, beq_eq_false_iff_ne.mpr place, unsaved, Option.isSome_none, Bool.not_true, Bool.false_and, Bool.false_or,
    List.any_eq_false]
  intro f flies
  split
  · next p put => simp [first f flies p put]
  · simp

theorem updateWaits_closed (closed : (s.tile t).recvOpen = false ∨ (s.tile t).state = .saved) : s.updateWaits t slot due = true := by
  unfold State.updateWaits
  rcases closed with closed | saved
  · simp [closed]
  · simp [saved]

/-- A tile whose slot an update has reached. -/
def Tile.updated (T : Tile) (slot gen : Nat) (q : Option PField) : Tile :=
  T.setBar slot { T.barOf slot with gen := gen, pois := (T.barOf slot).pois.told q }

/-- An update reaches its participant's slot. -/
theorem homeUpdate_lands (sound : s.bad = none) (found : s.flight? id = some ⟨id, clk, due, .update t slot gen q⟩)
    (takes : s.updateWaits t slot due = false) : ∃ u, exec (.homeUpdate id) s = .next u ∧
      (u.tile t).barOf slot = { (s.tile t).barOf slot with gen := gen, pois := ((s.tile t).barOf slot).pois.told q } ∧
      (∀ k, k ≠ slot → (u.tile t).barOf k = (s.tile t).barOf k) ∧ SameMemory s u ∧ SameDevice s u ∧ SameOthers s u t := by
  let u := ((s.land id).updTile t fun T => T.updated slot gen q).retest t
  have tile : u.tile t = (s.tile t).updated slot gen q := (s.land id).updTile_tile t fun T => T.updated slot gen q
  refine ⟨u, ?_, ?_, fun k other => ?_, .of_eq rfl rfl rfl, ⟨rfl, rfl, rfl, rfl, rfl, rfl, rfl, rfl, rfl, rfl⟩, .setTile s t _⟩
  · rw [exec_homeUpdate, execHomeUpdate, State.updateLands, found]
    dsimp only
    rw [if_neg (ne_true_of_eq_false takes)]
    exact finish_eq_next sound
  · rw [tile]
    exact FM.get_set_same ..
  · rw [tile]
    exact FM.get_set_other _ _ _ other

theorem homeUpdate_waits (sound : s.bad = none) (found : s.flight? id = some ⟨id, clk, due, .update t slot gen q⟩)
    (waits : s.updateWaits t slot due = true) : exec (.homeUpdate id) s = .next s := by
  rw [exec_homeUpdate, execHomeUpdate, State.updateLands, found]
  dsimp only
  rw [if_pos waits]
  exact finish_eq_next sound

end

end Sys2Proof.Machine
end

section
namespace Sys2Proof.Machine

/-! ### Monitors and the answers of loads (05 R146, R152; 11 R317) -/

/-- Once freed, no monitor of the tile is left. -/
theorem freeMonitor_frees (s : State) (t c : Nat) : ∀ m ∈ ((s.freeMonitor t).col c).monitors, m.1 ≠ t := by
  unfold State.freeMonitor State.col
  dsimp only
  induction s.cols with
  | nil => exact fun _ none => nomatch none
  | cons x xs ih =>
    rw [List.map_cons, FM.get]
    split
    · intro m kept
      exact bne_iff_ne.mp (List.mem_filter.mp kept).2
    · exact ih

/-- The L1 that a word drops as it acquires is no part of the engines. -/
theorem acquireL1_engine (s : State) (t scope order e : Nat) : ((s.acquireL1 t scope order).tile t).engine e = (s.tile t).engine e := by
  unfold State.acquireL1
  split
  · have dropped := congrArg (Tile.engine · e) (State.updTile_tile s t fun T => { T with l1 := T.l1.filter fun l => !true })
    exact dropped
  · rfl

/-- An engine holds as it was set to. -/
theorem updEng_hold (s : State) (t e : Nat) (hold : Hold) :
    (((s.updEng t e fun x => { x with hold := hold }).tile t).engine e).hold = hold := congrArg Eng.hold (s.updEng_engine t e _)

section
variable {s : State} {t v dst sig addr key col n : Nat} {e : Word} {dl : Option Nat} {armed : Bool} {scope order : Nat}

theorem monitorWake_ends (sound : s.bad = none)
    (hold : ((s.tile t).engine 1).hold = .mwait dst sig e addr key col true dl n scope order) :
    ∃ u, exec (.monitorWake t v) s = .next u ∧ (∀ c, ∀ m ∈ (u.col c).monitors, m.1 ≠ t) ∧
      ((u.tile t).engine 1).hold = .mwait dst sig e addr key col false none 0 scope order ∧
      ∃ f ∈ u.flights, ∃ a : Access, f.fl = .access a ∧ s.tc < f.due ∧ a.t = t ∧ a.op = 0x28 ∧ a.dst = dst ∧ a.sig = sig ∧
        a.stage = 1 ∧ a.result = ⟨BitVec.ofNat 32768 (v % 2 ^ 64), decide (2 ^ 64 ≤ v)⟩ := by
  have held := updEng_hold (s.freeMonitor t) t 1 (.mwait dst sig e addr key col false none 0 scope order)
  rw [exec_monitorWake, execMonitorWake, hold]
  refine ⟨_, finish_eq_next sound, freeMonitor_frees s t, held, _, List.mem_append_right _ (List.mem_singleton_self _), _, rfl, ?_, rfl, rfl,
    rfl, rfl, rfl, rfl⟩
  exact Nat.lt_add_of_pos_right (Nat.add_pos_left Nat.one_pos _)

theorem mwaitTimeout_ends (sound : s.bad = none) {k : Nat}
    (hold : ((s.tile t).engine 1).hold = .mwait dst sig e addr key col true (some k) n scope order) :
    ∃ u : State, exec (.mwaitTimeout t) s = .next (u.signalNow t 1 0 sig none) ∧ (∀ c, ∀ m ∈ (u.col c).monitors, m.1 ≠ t) ∧
      ((u.tile t).engine 1).hold = .none ∧ u.areg t dst = ⟨e, false⟩ ∧ ∀ d, d ≠ dst → u.areg t d = s.areg t d := by
  rw [exec_mwaitTimeout, execMwaitTimeout, hold]
  refine ⟨_, finish_eq_next ?_, freeMonitor_frees s t, ?_, ?_, fun d other => ?_⟩
  · rw [State.signalNow_bad]
    exact sound
  · rw [State.updTile_tile]
    exact updEng_hold (s.freeMonitor t) t 1 .none
  · rw [State.areg, State.updTile_tile]
    exact FM.get_set_same ..
  · rw [State.areg, State.updTile_tile]
    refine (FM.get_set_other _ _ _ other).trans ?_
    exact (AccStep.updEng (s.freeMonitor t) t fun x => { x with hold := .none }).areg d

theorem monitorRetry_ends (sound : s.bad = none)
    (hold : ((s.tile t).engine 1).hold = .mwait dst sig e addr key col false dl n scope order) :
    ∃ u, exec (.monitorRetry t) s = .next u ∧
      ((u.tile t).engine 1).hold = .mwait dst sig e addr key col false dl 0 scope order ∧
      ∃ f ∈ u.flights, ∃ a : Access, f.fl = .access a ∧ f.due = s.tc + 1 ∧ a.t = t ∧ a.op = 0x28 ∧ a.dst = dst ∧ a.stage = 0 ∧
        a.keys = [(addr, 0)] ∧ a.size = 8 ∧ a.scope = scope ∧ a.order = order := by
  rw [exec_monitorRetry, execMonitorRetry, State.mwaitAgain, hold]
  refine ⟨_, finish_eq_next ?_, ?_, _, List.mem_append_right _ (List.mem_singleton_self _), _, rfl, ?_, rfl, rfl, rfl, rfl, rfl, rfl, rfl,
    rfl⟩
  · rw [State.flyDev_bad, State.acquireL1_bad]
    exact sound
  · exact (congrArg Eng.hold (acquireL1_engine ..)).trans (updEng_hold ..)
  · exact congrArg (· + 1) (AccStep.acquireL1 _ t scope order).device.tc

end

theorem Tile.tell_aregs (T : Tile) (k : Nat) (ks : List Nat) : (T.tell k ks).aregs = T.aregs := by
  unfold Tile.tell
  split <;> rfl

/-- The register of a scalar load has its value. -/
def loadAnswered (s : State) (id : Nat) (a : Access) : State :=
  (s.land id).updTile a.t fun T =>
    { T with aregs := FM.set T.aregs a.dst ⟨BitVec.ofNat 64 (a.result.v.toNat % 2 ^ 64), a.result.p⟩ }

/-- A scalar load's answer writes its register, then signals. -/
theorem loadAnswer_ends {s : State} {id due : Nat} {clk : Clk} {a : Access} (sound : s.bad = none)
    (found : s.flight? id = some ⟨id, clk, due, .access a⟩) (least : 7 ≤ a.op) (most : a.op ≤ 0xA) (answered : a.stage = 1)
    (device : a.space ≠ 3) (runs : s.tileRuns a.t = true) :
    ∃ u : State, exec (.accessResponse id) s = .next (u.signalNow a.t 1 0 a.sig a.pois) ∧
      u.areg a.t a.dst = ⟨a.result.v.setWidth 64, a.result.p⟩ ∧ (∀ d, d ≠ a.dst → u.areg a.t d = s.areg a.t d) ∧
      u.flights = s.flights.filter fun f => f.id != id := by
  have running : (s.tile a.t).state = .running := by
    simp only [State.tileRuns, Bool.and_eq_true, beq_iff_eq] at runs
    obtain ⟨⟨-, state⟩, -⟩ := runs
    exact state
  have word : BitVec.ofNat 64 (a.result.v.toNat % 2 ^ 64) = a.result.v.setWidth 64 := by
    apply BitVec.eq_of_toNat_eq
    rw [BitVec.toNat_ofNat, BitVec.toNat_setWidth, Nat.mod_mod]
  have tile : (loadAnswered s id a).tile a.t =
    { s.tile a.t with aregs := FM.set (s.tile a.t).aregs a.dst ⟨BitVec.ofNat 64 (a.result.v.toNat % 2 ^ 64), a.result.p⟩ } :=
    State.updTile_tile ..
  refine ⟨(loadAnswered s id a).updTile a.t fun T => T.tell (sigKey 1 a.sig) a.cim, ?_, ?_, fun d other => ?_, rfl⟩
  · have reads : readsMem a.op = true := by simp [readsMem, least, most]
    have word : isDeque a.op = false := by
      unfold isDeque
      rw [decide_eq_false (by omega), Bool.false_and]
    rw [exec_accessResponse, execAccessResponse, found]
    dsimp only
    rw [State.accessTurn, if_neg (by omega)]
    dsimp only
    rw [running, runs, if_neg (by decide), if_neg (by decide), State.accessEnd]
    dsimp only
    rw [if_neg device]
    dsimp only
    rw [if_neg (by decide), word, if_neg (by decide), if_neg (by omega), if_neg (by omega), if_neg (by omega), if_pos reads]
    exact finish_eq_next ((State.signalNow_bad ..).trans sound)
  · rw [State.areg, State.updTile_tile, Tile.tell_aregs, tile, ← word]
    exact FM.get_set_same ..
  · rw [State.areg, State.updTile_tile, Tile.tell_aregs, tile]
    exact FM.get_set_other _ _ _ other

end Sys2Proof.Machine
end

section
namespace Sys2Proof.Machine

/-! ### A put as it comes to its turn (O38; 05 R154, R155; 04 R125; 14 R392; 16 R433) -/

/-- `u` is `s` but for its memory and its tiles. -/
structure MemAndTiles (s u : State) : Prop where
  tc : u.tc = s.tc
  bad : u.bad = s.bad
  flights : u.flights = s.flights

theorem MemAndTiles.refl (s : State) : MemAndTiles s s := ⟨rfl, rfl, rfl⟩

theorem MemAndTiles.trans {s v u : State} (a : MemAndTiles s v) (b : MemAndTiles v u) : MemAndTiles s u :=
  ⟨b.tc.trans a.tc, b.bad.trans a.bad, b.flights.trans a.flights⟩

theorem MemAndTiles.putGranule (s : State) (a : Nat) (bs : List Nat) (q : Bool) : MemAndTiles s (s.putGranule a bs q) := by
  rw [putGranule_rest]
  exact ⟨rfl, rfl, rfl⟩

theorem MemAndTiles.deliver (s : State) (p : Put) (i : Nat) : MemAndTiles s (s.deliver p i) := by
  unfold State.deliver
  dsimp only
  split
  · exact .refl s
  · split <;> exact .putGranule ..

/-- `k` destination granules of a put delivered, from the first that it has not yet written. -/
def State.delivered (s : State) (p : Put) (k : Nat) : State := (List.range k).foldl (fun v j => v.deliver p (p.done + j)) s

theorem MemAndTiles.delivered (s : State) (p : Put) (k : Nat) : MemAndTiles s (s.delivered p k) := by
  unfold State.delivered
  induction List.range k generalizing s with
  | nil => exact .refl s
  | cons j js ih => exact (MemAndTiles.deliver s p (p.done + j)).trans (ih _)

/-- The remote semaphore of a put that is complete has counted. -/
def State.counted (s : State) (p : Put) : State :=
  p.sem.elim s fun n => (s.updTile p.target fun T => T.setSem n ((T.semOf n).inc (originOf p.t 1))).retest p.target

/-- The handler entry of a put that is complete is queued. -/
def State.queued (s : State) (p : Put) : State :=
  if p.kind = 1 then s.updTile p.target fun T => { T with hq := T.hq ++ [⟨p.handler, p.dst, p.len, originOf p.t 1, p.arg⟩] } else s

theorem putComplete_eq (s : State) (id : Nat) (p : Put) : s.putComplete id p =
    (takeFree ((s.counted p).queued p)).2.refly id
      (max (((s.counted p).queued p).tc + 1) p.ready + (takeFree ((s.counted p).queued p)).1) (.put { p with written := true }) := by
  unfold State.putComplete State.counted
  cases p.sem <;> rfl

/-- What counting and queueing leave alone. -/
theorem counted_keeps (s : State) (p : Put) : MemAndTiles s (s.counted p) ∧ (s.counted p).mem = s.mem ∧ (s.counted p).pois = s.pois ∧
    (s.counted p).tags = s.tags ∧ ((s.counted p).tile p.target).hq = (s.tile p.target).hq := by
  unfold State.counted
  cases p.sem with
  | none => exact ⟨.refl s, rfl, rfl, rfl, rfl⟩
  | some n =>
    have hq := congrArg Tile.hq (s.updTile_tile p.target fun T => T.setSem n ((T.semOf n).inc (originOf p.t 1)))
    exact ⟨⟨rfl, rfl, rfl⟩, rfl, rfl, rfl, hq⟩

theorem counted_semOf {s : State} {p : Put} {n : Nat} (sem : p.sem = some n) :
    ((s.counted p).tile p.target).semOf n = ((s.tile p.target).semOf n).inc (originOf p.t 1) := by
  unfold State.counted
  rw [sem]
  have counts := congrArg (Tile.semOf · n) (s.updTile_tile p.target fun T => T.setSem n ((T.semOf n).inc (originOf p.t 1)))
  exact counts.trans (Tile.setSem_semOf ..)

theorem queued_keeps (s : State) (p : Put) : MemAndTiles s (s.queued p) ∧ (s.queued p).mem = s.mem ∧ (s.queued p).pois = s.pois ∧
    (s.queued p).tags = s.tags ∧ ∀ n, ((s.queued p).tile p.target).semOf n = (s.tile p.target).semOf n := by
  unfold State.queued
  split
  · have sems (n : Nat) := congrArg (Tile.semOf · n) (s.updTile_tile p.target fun T =>
      { T with hq := T.hq ++ [⟨p.handler, p.dst, p.len, originOf p.t 1, p.arg⟩] })
    exact ⟨⟨rfl, rfl, rfl⟩, rfl, rfl, rfl, sems⟩
  · exact ⟨.refl s, rfl, rfl, rfl, fun _ => rfl⟩

theorem queued_hq {s : State} {p : Put} (kind : p.kind = 1) : ((s.queued p).tile p.target).hq =
    (s.tile p.target).hq ++ [⟨p.handler, p.dst, p.len, originOf p.t 1, p.arg⟩] := by
  unfold State.queued
  rw [if_pos kind]
  exact congrArg Tile.hq (State.updTile_tile ..)

/-- A put whose last granule has been delivered. -/
theorem putComplete_ends (s : State) (id : Nat) (p : Put) :
    let w := s.putComplete id p
    w.bad = s.bad ∧ w.mem = s.mem ∧ w.pois = s.pois ∧ w.tags = s.tags ∧
    (∀ q, p.sem = some q → (w.tile p.target).semOf q = ((s.tile p.target).semOf q).inc (originOf p.t 1)) ∧
    (p.kind = 1 → (w.tile p.target).hq = (s.tile p.target).hq ++ [⟨p.handler, p.dst, p.len, originOf p.t 1, p.arg⟩]) ∧
    ∃ l, s.tc < l ∧ w.flights = (s.refly id l (.put { p with written := true })).flights := by
  obtain ⟨counted, mem, pois, tags, hq⟩ := counted_keeps s p
  obtain ⟨queued, mem', pois', tags', sems⟩ := queued_keeps (s.counted p) p
  have keeps := counted.trans queued
  dsimp only
  rw [putComplete_eq]
  refine ⟨keeps.bad, mem'.trans mem, pois'.trans pois, tags'.trans tags, fun q sem => (sems q).trans (counted_semOf sem),
    fun kind => (queued_hq kind).trans (by rw [hq]), _, ?_, congrArg (List.map _) keeps.flights⟩
  rw [keeps.tc]
  exact Nat.lt_of_lt_of_le (Nat.lt_succ_self _) (Nat.le_trans (Nat.le_max_left ..) (Nat.le_add_right ..))

section
variable {s : State} {id : Nat} {p : Put}

theorem putTurn_written (written : p.written = true) (runs : s.tileRuns p.t = true) :
    s.putTurn id p = (s.land id).signalNow p.t 1 0 p.sig none := by
  have running : (s.tile p.t).state = .running := by
    simp only [State.tileRuns, Bool.and_eq_true, beq_iff_eq] at runs
    obtain ⟨⟨-, state⟩, -⟩ := runs
    exact state
  unfold State.putTurn
  dsimp only
  rw [if_pos written, running, runs, if_neg (by decide), if_neg (by decide)]

/-- What refuses a put to another tile, in order (11 R303; 16 R433). -/
theorem putRefused_eq (own : p.space ≠ 4) : s.putRefused p =
    if s.colDisabled (tileCol p.target) = true then some (0x57, originOf p.t 1)
    else if (s.tile p.target).state = .fenced then some (0x56, originOf p.t 1)
    else if (s.context (s.tile p.t).ctx).grant.testBit p.target = false then some (0x27, originOf p.t 1)
    else none := by
  have granted : (s.context (s.tile p.t).ctx).granted p.target = (s.context (s.tile p.t).ctx).grant.testBit p.target := by
    rw [Nat.testBit_eq_decide_div_mod_eq]
    rfl
  unfold State.putRefused
  rw [if_neg own, granted]
  simp only [beq_iff_eq, Bool.not_eq_true']

theorem putTurn_refused (fresh : p.written = false) {r : Nat × Nat} (refused : s.putRefused p = some r) :
    s.putTurn id p = (s.land id).signalNow p.t 1 0 p.sig (some r) := by
  unfold State.putTurn
  dsimp only
  rw [if_neg (ne_true_of_eq_false fresh), refused]

theorem putTurn_closed (fresh : p.written = false) (admitted : s.putRefused p = none) (closed : s.receives p = false) :
    s.putTurn id p = s.refly id (s.tc + 96) (.put { p with arrived := some (p.arrived.getD s.tc) }) := by
  unfold State.putTurn
  dsimp only
  rw [if_neg (ne_true_of_eq_false fresh), admitted]
  dsimp only
  rw [closed, if_pos Bool.not_false]

theorem putTaken_eq (own : p.space ≠ 4) (receives : s.receives p = true) :
    s.putTaken p = !(p.kind == 1 && decide (8 ≤ (s.tile p.target).hq.length)) := by
  unfold State.putTaken
  rw [receives, beq_eq_false_iff_ne.mpr own, Bool.false_or, Bool.true_and]

theorem putTurn_full (fresh : p.written = false) (admitted : s.putRefused p = none) (receives : s.receives p = true)
    (full : s.putTaken p = false) : s.putTurn id p = s.refly id (s.tc + 96) (.put { p with arrived := none }) := by
  unfold State.putTurn
  dsimp only
  rw [if_neg (ne_true_of_eq_false fresh), admitted]
  dsimp only
  rw [receives, full, if_neg (by decide), if_pos Bool.not_false]

theorem mayPerform_first {v : View} {unit : Nat} (first : s.before v = []) : s.mayPerform v unit = true := by
  unfold State.mayPerform
  dsimp only
  rw [first]
  rfl

/-- The put with `r` more granules of its source read. -/
def Put.reads (p : Put) (s : State) (r : Nat) : Put :=
  { p with got := p.got ++ (List.range r).map fun j => s.sourceGranule p (p.got.length + j) }

/-- A free number of destination granules whose source is read. -/
theorem takeWhile_parts {p : Put} {n k : Nat}
    (short : k ≤ ((List.range n).takeWhile fun j => p.hasPart (p.done + j)).length) :
    k ≤ n ∧ ∀ j, j < k → p.hasPart (p.done + j) = true := by
  have pre := List.takeWhile_prefix (fun j => p.hasPart (p.done + j)) (l := List.range n)
  refine ⟨Nat.le_trans short (by simpa using pre.length_le), fun j below => ?_⟩
  have inside : j < ((List.range n).takeWhile fun j => p.hasPart (p.done + j)).length := Nat.lt_of_lt_of_le below short
  have at' : ((List.range n).takeWhile fun j => p.hasPart (p.done + j))[j] = j := by
    rw [pre.getElem inside, List.getElem_range]
  have holds := List.mem_takeWhile_imp (List.getElem_mem inside)
  rwa [at'] at holds

/-- A put that may be performed reads some of its source and delivers some of what it has read. -/
theorem putTurn_delivers (fresh : p.written = false) (own : p.space ≠ 4) (admitted : s.putRefused p = none) (receives : s.receives p = true)
    (taken : s.putTaken p = true) (ahead : s.putBehind id p = false) (plain : p.order = 0) (within : p.done ≤ granuleCount p.dst p.len)
    (some' : p.got.length ≤ p.sources)
    (first : s.before ⟨id, p.t, 1, [s.putUnit p], false, true, false, false, p.order, p.scope⟩ = []) :
    ∃ r k m, p.got.length + r ≤ p.sources ∧ p.done + k ≤ granuleCount p.dst p.len ∧
      (∀ j, j < k → (p.reads s r).hasPart (p.done + j) = true) ∧ s.putTurn id p =
        if p.done + k < granuleCount p.dst p.len then
          ((s.drawn m).delivered (p.reads s r) k).refly id (((s.drawn m).delivered (p.reads s r) k).tc + 1)
            (.put { p.reads s r with done := p.done + k })
        else ((s.drawn m).delivered (p.reads s r) k).putComplete id { p.reads s r with done := p.done + k } := by
  have view : s.view? ⟨id, .dev, 0, .put p⟩ = some ⟨id, p.t, 1, [s.putUnit p], false, true, false, false, p.order, p.scope⟩ :=
    if_neg (ne_true_of_eq_false fresh)
  have acquires : (isRel p.order && p.scope == 3) = false := by rw [plain]; rfl
  unfold State.putTurn
  dsimp only
  rw [if_neg (ne_true_of_eq_false fresh), admitted]
  dsimp only
  rw [receives, taken, ahead, if_neg (by decide), if_neg (by decide), if_neg (by decide), view]
  dsimp only
  rw [mayPerform_first first, if_neg (by decide), acquires, if_neg Bool.false_ne_true, if_neg fun peer => own peer.1]
  have reads : (takeFree s).1 % (p.sources - p.got.length + 1) < p.sources - p.got.length + 1 := Nat.mod_lt _ (Nat.succ_pos _)
  generalize (takeFree s).1 % (p.sources - p.got.length + 1) = r at reads
  have short := Nat.le_of_lt_succ (Nat.mod_lt (takeFree (takeFree s).2).1 (Nat.succ_pos
    ((List.range (granuleCount p.dst p.len - p.done)).takeWhile fun j => (p.reads s r).hasPart (p.done + j)).length))
  obtain ⟨most, has⟩ := takeWhile_parts (p := p.reads s r) short
  exact ⟨r, _, s.free + 2, by omega, by omega, has, rfl⟩

end

section
variable {s : State} {id due : Nat} {clk : Clk} {p : Put} (sound : s.bad = none) (found : s.flight? id = some ⟨id, clk, due, .put p⟩)
include found

/-- Both turns of a put are the put's turn. -/
theorem putTurn_ends {u : State} (turn : s.putTurn id p = u) (kept : u.bad = none) :
    ∀ i ∈ [Instr.putDelivery id, .puthRetry id], exec i s = .next u := by
  have event : finish (s.putEvent id) = .next u := by
    rw [State.putEvent, found]
    exact (congrArg finish turn).trans (finish_eq_next kept)
  exact List.forall_mem_cons.mpr ⟨event, List.forall_mem_singleton.mpr event⟩

include sound

/-- The turn of a put for this device that is not yet delivered (05 R154, R155). -/
theorem putTurn_own {i : Instr} (among : i ∈ [Instr.putDelivery id, .puthRetry id]) (fresh : p.written = false) (own : p.space ≠ 4) :
    let c := tileCol p.target
    let U := s.tile p.target
    let n := granuleCount p.dst p.len
    let granted := (s.context (s.tile p.t).ctx).grant.testBit p.target
    let refused (cause : Nat) : Prop := exec i s = .next ((s.land id).signalNow p.t 1 0 p.sig (some (cause, originOf p.t 1)))
    (s.colDisabled c = true → refused 0x57) ∧
    (s.colDisabled c = false → U.state = .fenced → refused 0x56) ∧
    (s.colDisabled c = false → U.state ≠ .fenced → granted = false → refused 0x27) ∧
    (s.colDisabled c = false → U.state ≠ .fenced → granted = true →
      (s.receives p = false → exec i s = .next (s.refly id (s.tc + 96) (.put { p with arrived := some (p.arrived.getD s.tc) }))) ∧
      (s.receives p = true → p.kind = 1 → 8 ≤ U.hq.length → exec i s = .next (s.refly id (s.tc + 96) (.put { p with arrived := none }))) ∧
      (s.receives p = true → (p.kind = 1 → U.hq.length < 8) → s.putBehind id p = false → p.order = 0 → p.done ≤ n →
        p.got.length ≤ p.sources →
        s.before ⟨id, p.t, 1, [s.putUnit p], false, true, false, false, p.order, p.scope⟩ = [] →
        ∃ r k m, p.got.length + r ≤ p.sources ∧ p.done + k ≤ n ∧
          (∀ j, j < k → (p.reads s r).hasPart (p.done + j) = true) ∧
          (p.done + k < n → exec i s = .next (((s.drawn m).delivered (p.reads s r) k).refly id (s.tc + 1)
            (.put { p.reads s r with done := p.done + k }))) ∧
          (p.done + k = n → ∃ w, exec i s = .next w ∧ w.mem = ((s.drawn m).delivered (p.reads s r) k).mem ∧
            w.pois = ((s.drawn m).delivered (p.reads s r) k).pois ∧ w.tags = ((s.drawn m).delivered (p.reads s r) k).tags ∧
            (∀ q, p.sem = some q → (w.tile p.target).semOf q =
              ((((s.drawn m).delivered (p.reads s r) k).tile p.target).semOf q).inc (originOf p.t 1)) ∧
            (p.kind = 1 → (w.tile p.target).hq = (((s.drawn m).delivered (p.reads s r) k).tile p.target).hq ++
              [⟨p.handler, p.dst, p.len, originOf p.t 1, p.arg⟩]) ∧
            ∃ l, s.tc < l ∧ w.flights = (((s.drawn m).delivered (p.reads s r) k).refly id l
              (.put { p.reads s r with done := n, written := true })).flights))) := by
  intro c U n granted refused
  have ends {u : State} (turn : s.putTurn id p = u) (kept : u.bad = none) : exec i s = .next u := putTurn_ends found turn kept i among
  have refuses {cause : Nat} (why : s.putRefused p = some (cause, originOf p.t 1)) : refused cause :=
    ends (putTurn_refused fresh why) ((State.signalNow_bad ..).trans sound)
  refine ⟨fun down => refuses ?_, fun up fenced => refuses ?_, fun up alive alien => refuses ?_, fun up alive grant => ?_⟩
  · rw [putRefused_eq own, if_pos down]
  · rw [putRefused_eq own, if_neg (ne_true_of_eq_false up), if_pos fenced]
  · rw [putRefused_eq own, if_neg (ne_true_of_eq_false up), if_neg alive, if_pos alien]
  · have admitted : s.putRefused p = none := by
      rw [putRefused_eq own, if_neg (ne_true_of_eq_false up), if_neg alive, if_neg (ne_false_of_eq_true grant)]
    refine ⟨fun closed => ends (putTurn_closed fresh admitted closed) sound, fun receives handler full => ?_,
      fun receives room ahead plain within some' first => ?_⟩
    · exact ends (putTurn_full fresh admitted receives (by rw [putTaken_eq own receives, handler, decide_eq_true full]; rfl)) sound
    · have taken : s.putTaken p = true := by
        rw [putTaken_eq own receives]
        by_cases handler : p.kind = 1
        · rw [decide_eq_false (Nat.not_le.mpr (room handler)), Bool.and_false]
          rfl
        · rw [beq_eq_false_iff_ne.mpr handler]
          rfl
      obtain ⟨r, k, m, read, written, has, turn⟩ := putTurn_delivers fresh own admitted receives taken ahead plain within some' first
      obtain ⟨tc, bad, -⟩ := MemAndTiles.delivered (s.drawn m) (p.reads s r) k
      refine ⟨r, k, m, read, written, has, fun more => ?_, fun last => ?_⟩
      · rw [if_pos more, tc] at turn
        exact ends turn (bad.trans sound)
      · rw [if_neg (by omega), last] at turn
        obtain ⟨kept, mem, pois, tags, sems, hq, l, later, flights⟩ :=
          putComplete_ends ((s.drawn m).delivered (p.reads s r) k) id { p.reads s r with done := granuleCount p.dst p.len }
        exact ⟨_, ends turn (kept.trans (bad.trans sound)), mem, pois, tags, sems, hq, l, tc ▸ later, flights⟩

end

/-- Settles O38: puts by `putTurn_own` and `deliver_writes`, messages of home records by `homeArrival_lands` and
`homeUpdate_lands`, monitors and answers by the lemma of each. -/
theorem arrivalsAtTilesAndHomes : Obligations.ArrivalsAtTilesAndHomes := by
  refine ⟨fun s id due clk p sound found i among => ⟨fun written runs =>
      putTurn_ends found (putTurn_written written runs) ((State.signalNow_bad ..).trans sound) i among,
      fun fresh own => putTurn_own sound found among fresh own⟩,
    fun s p own fresh opened place none => receives_open own fresh opened place none,
    fun s p own fresh closed => receives_closed own fresh closed,
    fun s p i canonical own kind read => deliver_writes canonical own kind read,
    fun s id due t slot e sig c clk r sound place found up record clean => homeArrival_lands sound place found up record clean,
    fun s id due t slot gen q clk sound found => ⟨fun opened place unsaved first => ?_,
      fun closed => homeUpdate_waits sound found (updateWaits_closed closed)⟩,
    fun s t v dst sig addr key col n e dl armed scope order sound hold => ⟨fun arms => ?_, fun arms timed => ?_, fun idle => ?_⟩,
    fun s id due clk a sound found least most answered device runs => loadAnswer_ends sound found least most answered device runs⟩
  · obtain ⟨u, ends, slots, rest⟩ := homeUpdate_lands sound found (updateWaits_open opened place unsaved first)
    refine ⟨u, ends, slots.trans ?_, rest⟩
    cases q with
    | none => rfl
    | some f => exact congrArg (fun y : PField => { (s.tile t).barOf slot with gen := gen, pois := y }) (told_some ((s.tile t).barOf slot).pois f)
  · subst arms
    exact monitorWake_ends sound hold
  · subst arms
    obtain ⟨k, rfl⟩ := Option.ne_none_iff_exists'.mp timed
    exact mwaitTimeout_ends sound hold
  · subst idle
    exact monitorRetry_ends sound hold

end Sys2Proof.Machine
end

section
namespace Sys2Proof.Machine

/-! ### Words that work element by element and lane by lane (O52, O53; 06 R162 to R168, R173 to R179) -/

section
variable {s w : State} {t : Nat} {h : Hdr} {d l : Nat} {rs : List Nat} {o : Out}

/-- Elements that agree in the bits that are kept, with the same flags. -/
theorem ElemWord.congr {n : Nat} {f k : List Nat → Nat × Nat} (word : ElemWord s w t h d rs l n f o)
    (value : ∀ es, (f es).1 % 2 ^ n = (k es).1 % 2 ^ n) (flags : ∀ es, (f es).2 = (k es).2) : ElemWord s w t h d rs l n k o := by
  obtain ⟨v, fl, ends, lanes, gathered⟩ := word
  refine ⟨v, fl, ends, fun i j e hi hj he => (lanes i j e hi hj he).trans (value _), fun b => ?_⟩
  rw [gathered b]
  simp only [flags]

/-- Lanes that agree on the operands in the bits that are kept, with the same flags. -/
theorem LaneWord.congr {f k : List VReg → Nat → Nat → Nat × Nat} (word : LaneWord s w t h d rs l f o)
    (value : ∀ i j, (f (rs.map fun r => ((s.tile t).vsrc r).v) i j).1 % 2 ^ 32 =
      (k (rs.map fun r => ((s.tile t).vsrc r).v) i j).1 % 2 ^ 32)
    (flags : ∀ i j, (f (rs.map fun r => ((s.tile t).vsrc r).v) i j).2 = (k (rs.map fun r => ((s.tile t).vsrc r).v) i j).2) :
    LaneWord s w t h d rs l k o := by
  obtain ⟨v, fl, ends, lanes, gathered⟩ := word
  refine ⟨v, fl, ends, fun i j hi hj => (lanes i j hi hj).trans (value i j), fun b => ?_⟩
  rw [gathered b]
  simp only [flags]

end

section
variable {s w : State} {t : Nat} {h : Hdr} {d ty l : Nat} {rs : List Nat}

theorem vecFloat_gives (g : RingGoes s t 2 h w) {rnd sat : Nat} {f : List FV → FX} (packs : tyBits ty ∣ 32)
    (free : vecBusy rs [d] s t = false) :
    ElemWord s w t h d rs l (tyBits ty) (fun es => (ffmt ty).fit rnd (sat == 1) (f (es.map (ffmt ty).read)))
      (vecFloat h s d rs l ty rnd sat f) :=
  vecElem_gives g l _ packs free

theorem vecInt_gives (g : RingGoes s t 2 h w) {sat : Nat} {f : List Int → Int} (packs : tyBits ty ∣ 32)
    (free : vecBusy rs [d] s t = false) :
    ElemWord s w t h d rs l (tyBits ty) (fun es => (ity ty).fit (sat == 1) (f (es.map (ity ty).read))) (vecInt h s d rs l ty sat f) :=
  vecElem_gives g l _ packs free

theorem vecLane_gives (g : RingGoes s t 2 h w) (f : List Nat → Nat × Nat) (free : vecBusy rs [d] s t = false) :
    LaneWord s w t h d rs l (fun vs i j => f (vs.map fun v => lane v i j)) (vecLane h s d rs l f) :=
  vecWord_gives g l _ free

end

/-- Settles O52: each word forms its function of the elements exactly and fits it to the format (`vecFloat_gives`). -/
theorem vectorFloatWords : Obligations.VectorFloatWords := by
  intro s w t h d a b ty rnd sat g isFloat gives
  have packs : tyBits ty ∣ 32 := by rcases isFloat with rfl | rfl <;> decide
  have float {i : Instr} {rs : List Nat} {l rnd sat : Nat} {f : List FV → FX} (word : exec i s = vecFloat h s d rs l ty rnd sat f) :
      gives i rs l rnd sat f := fun free => word ▸ vecFloat_gives g packs free
  clear_value gives
  exact ⟨float (exec_vadd ..), float (exec_vsub ..), float (exec_vmul ..), float (exec_vfma ..), float (exec_vfms ..),
    float (exec_vdiv ..), float (exec_vmin ..), float (exec_vmax ..), float (exec_vabs ..), float (exec_vneg ..),
    float (exec_vsqrt ..), float (exec_vrsq ..), float (exec_vrcp ..), float (exec_vexp ..), float (exec_vexp2 ..),
    float (exec_vlog ..), float (exec_vlog2 ..), float (exec_vtanh ..), float (exec_vsigm ..), float (exec_vgelu ..),
    float (exec_vsilu ..), float (exec_vsin ..), float (exec_vcos ..), float (exec_verf ..)⟩

/-- The bits of a word that another does not have. -/
theorem toNat_and_not {n : Nat} (x y : BitVec n) : (x &&& ~~~y).toNat = x.toNat - (x &&& y).toNat := by
  have disjoint : (x &&& ~~~y) &&& (x &&& y) = 0#n := by
    ext i hi
    cases hy : y[i] <;> simp [hy]
  have whole : x &&& ~~~y ||| x &&& y = x := by
    ext i hi
    cases hy : y[i] <;> simp [hy]
  have sum := BitVec.toNat_add_of_and_eq_zero disjoint
  rw [BitVec.add_eq_or_of_and_eq_zero _ _ disjoint, whole] at sum
  omega

theorem and_not_lane {x y : Nat} (hx : x < 2 ^ 32) (hy : y < 2 ^ 32) : x &&& (2 ^ 32 - 1 - y) = x - (x &&& y) := by
  have bits := toNat_and_not (BitVec.ofNat 32 x) (BitVec.ofNat 32 y)
  rwa [BitVec.toNat_and, BitVec.toNat_and, BitVec.toNat_not, BitVec.toNat_ofNat, BitVec.toNat_ofNat, Nat.mod_eq_of_lt hx,
    Nat.mod_eq_of_lt hy] at bits

theorem fieldBad_iff (y : Nat) : fieldBad y = true ↔ y / 256 % 64 = 0 ∨ 32 < y % 32 + y / 256 % 64 := by
  rw [fieldBad, Bool.or_eq_true, beq_iff_eq, decide_eq_true_iff, fieldWidth, fieldPos]

theorem extLane_bad {sg e y : Nat} (bad : y / 256 % 64 = 0 ∨ 32 < y % 32 + y / 256 % 64) : extLane sg e y = (0, fCL) :=
  if_pos ((fieldBad_iff y).mpr bad)

/-- VEXT of a field within the lane: the field, or what its sign fills with (06 R177). -/
theorem extLane_good {sg e y : Nat} (good : ¬ (y / 256 % 64 = 0 ∨ 32 < y % 32 + y / 256 % 64)) :
    let field := e / 2 ^ (y % 32) % 2 ^ (y / 256 % 64)
    (extLane sg e y).2 = 0 ∧ (sg = 0 ∨ field < 2 ^ (y / 256 % 64 - 1) → (extLane sg e y).1 = field) ∧
      (sg = 1 → 2 ^ (y / 256 % 64 - 1) ≤ field → (extLane sg e y).1 + 2 ^ (y / 256 % 64) = 2 ^ 32 + field) := by
  intro field
  have ext : extLane sg e y = (if sg = 1 ∧ 2 ^ (y / 256 % 64 - 1) ≤ field then 2 ^ 32 - 2 ^ (y / 256 % 64) + field else field, 0) :=
    if_neg ((fieldBad_iff y).not.mpr good)
  have fits : 2 ^ (y / 256 % 64) ≤ 2 ^ 32 := Nat.pow_le_pow_right (by decide) (by omega)
  rw [ext]
  refine ⟨rfl, fun plain => if_neg (by omega), fun signed negative => ?_⟩
  rw [if_pos ⟨signed, negative⟩]
  omega

theorem insLane_bad {e y o : Nat} (bad : y / 256 % 64 = 0 ∨ 32 < y % 32 + y / 256 % 64) : insLane e y o = (o, fCL) :=
  if_pos ((fieldBad_iff y).mpr bad)

/-- VINS of a field within the lane replaces its bits (06 R177). -/
theorem insLane_good {e y o : Nat} (good : ¬ (y / 256 % 64 = 0 ∨ 32 < y % 32 + y / 256 % 64)) :
    (insLane e y o).2 = 0 ∧ ∀ m, (insLane e y o).1.testBit m =
      if y % 32 ≤ m ∧ m < y % 32 + y / 256 % 64 then e.testBit (m - y % 32) else o.testBit m := by
  have ins : insLane e y o = (o - o / 2 ^ (y % 32) % 2 ^ (y / 256 % 64) * 2 ^ (y % 32) + e % 2 ^ (y / 256 % 64) * 2 ^ (y % 32), 0) :=
    if_neg ((fieldBad_iff y).not.mpr good)
  refine ⟨by rw [ins], fun m => ?_⟩
  rw [ins, testBit_replace (Nat.mod_lt _ (Nat.two_pow_pos _))]
  refine if_ctx_congr Iff.rfl (fun inside => ?_) fun _ => rfl
  rw [Nat.testBit_mod_two_pow, decide_eq_true (by omega), Bool.true_and]

theorem testBit_slot (n k x i : Nat) : (slot n k x).testBit i = (decide (i < n) && x.testBit (n * k + i)) := by
  rw [slot, Nat.testBit_mod_two_pow, Nat.testBit_div_two_pow, Nat.add_comm]

theorem slot_eq_of_bits {n k m x y : Nat} (same : ∀ i, i < n → x.testBit (n * k + i) = y.testBit (n * m + i)) :
    slot n k x = slot n m y := by
  apply Nat.eq_of_testBit_eq
  intro i
  rw [testBit_slot, testBit_slot]
  by_cases inside : i < n
  · rw [same i inside]
  · simp [inside]

/-- VPACK replaces two slots of a lane and leaves the others (06 R179). -/
theorem testBit_packLane (n k x y o i : Nat) : (packLane n k x y o).testBit i =
    if 2 * k * n ≤ i ∧ i < 2 * k * n + 2 * n then
      (if i - 2 * k * n < n then x.testBit (i - 2 * k * n) else y.testBit (i - 2 * k * n - n)) else o.testBit i := by
  have hx : x % 2 ^ n < 2 ^ n := Nat.mod_lt _ (Nat.two_pow_pos _)
  have hy : y % 2 ^ n < 2 ^ n := Nat.mod_lt _ (Nat.two_pow_pos _)
  have pair : x % 2 ^ n + y % 2 ^ n * 2 ^ n = 2 ^ n * (y % 2 ^ n) + x % 2 ^ n := by ring
  have fits : x % 2 ^ n + y % 2 ^ n * 2 ^ n < 2 ^ (2 * n) := by
    rw [pair, two_mul, pow_add]
    exact Nat.mul_add_lt_mul_of_lt_of_lt hy hx
  unfold packLane
  rw [testBit_replace fits, pair, Nat.testBit_two_pow_mul_add _ hx]
  refine if_ctx_congr Iff.rfl (fun inside => ?_) fun _ => rfl
  simp only [Nat.testBit_mod_two_pow]
  split
  · next low => rw [decide_eq_true low, Bool.true_and]
  · next high => rw [decide_eq_true (by omega), Bool.true_and]

theorem slot_packLane (n k x y o : Nat) : slot n (2 * k) (packLane n k x y o) = slot n 0 x ∧
    slot n (2 * k + 1) (packLane n k x y o) = slot n 0 y ∧
    ∀ m, m ≠ 2 * k → m ≠ 2 * k + 1 → slot n m (packLane n k x y o) = slot n m o := by
  refine ⟨slot_eq_of_bits fun i inside => ?_, slot_eq_of_bits fun i inside => ?_,
    fun m first second => slot_eq_of_bits fun i inside => ?_⟩ <;> rw [testBit_packLane]
  · have place : n * (2 * k) = 2 * k * n := Nat.mul_comm ..
    rw [place, if_pos (by omega), if_pos (by omega)]
    congr 1
    omega
  · have place : n * (2 * k + 1) = 2 * k * n + n := by ring
    rw [place, if_pos (by omega), if_neg (by omega)]
    congr 1
    omega
  · rw [if_neg]
    rintro ⟨above, below⟩
    rcases Nat.lt_or_ge m (2 * k) with before | after
    · have : n * (m + 1) ≤ n * (2 * k) := Nat.mul_le_mul_left n before
      linarith
    · have : n * (2 * k + 2) ≤ n * m := Nat.mul_le_mul_left n (by omega)
      linarith

theorem clzN_eq (x : Nat) : clzN 32 x = if x = 0 then 32 else 31 - Nat.log2 x := by
  unfold clzN
  split <;> omega

theorem shlElem_mod (ty x n : Nat) : shlElem (ity ty) x n % 2 ^ tyBits ty = (if n < tyBits ty then x * 2 ^ n else 0) % 2 ^ tyBits ty := by
  unfold shlElem
  split
  · next below => exact (Nat.mod_mod ..).trans (congrArg (· % 2 ^ tyBits ty) (if_pos below).symm)
  · next beyond => exact congrArg (· % 2 ^ tyBits ty) (if_neg beyond).symm

theorem shrElem_logical (t : ITy) (x n : Nat) : shrElem t false x n = if n < t.w then x / 2 ^ n else 0 := if_neg Bool.false_ne_true

theorem shrElem_arithmetic (t : ITy) (x n : Nat) : shrElem t true x n = t.wrap (t.read x / 2 ^ min n t.w) := if_pos rfl

/-- Settles O53: the words on packed elements by `vecInt_gives` and `vecElem_gives`, those on lanes by `vecLane_gives`, with the
lemma of each function of the operands. -/
theorem vectorIntegerAndBitWords : Obligations.VectorIntegerAndBitWords := by
  intro s w t h d a b ty n k sat x ty2 rnd g ints elems lanes wd pos width bad field
  have goes {i : Instr} {rs : List Nat} {l : Nat} {f : List Nat → Nat × Nat} (word : exec i s = vecLane h s d rs l f)
      (free : vecBusy rs [d] s t = false) : LaneWord s w t h d rs l (fun vs i j => f (vs.map fun v => lane v i j)) (exec i s) :=
    word ▸ vecLane_gives g f free
  have plain {i : Instr} {rs : List Nat} {l : Nat} {f : List Nat → Nat × Nat} (word : exec i s = vecLane h s d rs l f) : lanes i rs l f :=
    goes word
  have agrees {i : Instr} {rs : List Nat} {l : Nat} {f k : List Nat → Nat} (word : exec i s = vecLane h s d rs l fun xs => (f xs, 0))
      (value : ∀ x : Nat → Nat, (∀ r, x r < 2 ^ 32) → f (rs.map x) % 2 ^ 32 = k (rs.map x) % 2 ^ 32) :
      lanes i rs l fun xs => (k xs, 0) := fun free => by
    refine (goes word free).congr (fun i j => ?_) fun _ _ => rfl
    rw [List.map_map]
    exact value _ fun r => lane_lt _ i j
  have fits {i : Instr} {rs : List Nat} {l sat : Nat} {f : List Int → Int} (packs : wd ∣ 32)
      (word : exec i s = vecInt h s d rs l ty sat f) : ints i rs l sat f := fun free => word ▸ vecInt_gives g packs free
  have element {i : Instr} {rs : List Nat} {f k : List Nat → Nat} (packs : wd ∣ 32)
      (word : exec i s = vecLane h s d rs 5 (packed wd fun e => (f e, 0))) (value : ∀ e, f e % 2 ^ wd = k e % 2 ^ wd) :
      elems i rs k := fun free => word ▸ (vecElem_gives g 5 _ packs free).congr value fun _ => rfl
  clear_value ints elems lanes
  refine ⟨fun isInt => ?_, plain (exec_vand ..), plain (exec_vor ..), plain (exec_vxor ..),
    agrees (exec_vandn ..) fun x small => congrArg (· % 2 ^ 32) (and_not_lane (small a) (small b)),
    fun free => ⟨_, goes (exec_vext ..) free, fun e y => ⟨extLane_bad, extLane_good⟩⟩,
    fun free => ⟨_, goes (exec_vins ..) free, fun e y o _ => ⟨insLane_bad, insLane_good⟩⟩,
    agrees (exec_vfsh ..) fun _ _ => Nat.mod_mod .., agrees (exec_vpopc ..) fun _ _ => congrArg (· % 2 ^ 32) (popN_eq ..),
    agrees (exec_vclz ..) fun _ _ => congrArg (· % 2 ^ 32) (clzN_eq _), fun _ => plain (exec_vcvt ..),
    fun free _ => ⟨fun x => packLane wd k (nv x 0) (nv x 1) (nv x 2), goes (exec_vpack ..) free, fun x y o _ => ?_⟩,
    plain (exec_vunpk ..)⟩
  · have packs : wd ∣ 32 := by rcases isInt with rfl | rfl | rfl | rfl <;> decide
    exact ⟨fits packs (exec_viadd ..), fits packs (exec_visub ..), fits packs (exec_vimul ..), fits packs (exec_vimulh ..),
      fits packs (exec_vimad ..), fits packs (exec_viabs ..), fits packs (exec_vimin ..), fits packs (exec_vimax ..),
      element packs (exec_vshl ..) fun _ => shlElem_mod ..,
      element packs (exec_vshr ..) fun _ => congrArg (· % 2 ^ wd) (shrElem_logical ..),
      element packs (exec_vshr ..) fun _ => congrArg (· % 2 ^ wd) (shrElem_arithmetic ..),
      element packs (exec_vshli ..) fun _ => shlElem_mod ..,
      element packs (exec_vshri ..) fun _ => congrArg (· % 2 ^ wd) (shrElem_logical ..),
      element packs (exec_vshri ..) fun _ => congrArg (· % 2 ^ wd) (shrElem_arithmetic ..)⟩
  · obtain ⟨first, second, rest⟩ := slot_packLane wd k x y o
    exact ⟨first, second, fun m _ => rest m⟩

end Sys2Proof.Machine
end

section
namespace Sys2Proof.Machine

/-! ### Compares, selects, masks and movement (O54; 06 R167, R181 to R185, R188) -/

section
variable {s w : State} {t : Nat} {h : Hdr} {d l : Nat} {rs ds : List Nat}

theorem vecIssue_putV (g : RingGoes s t 2 h w) {m : Tile → MReg} {v : Tile → VVal} {fl : Tile → Nat} (free : vecBusy rs ds s t = false) :
    (vecIssue h s rs ds l fun t T u => u.putV t d l (m T) (v T) (fl T)) =
      .next (vecDid s w t h rs l fun u => u.putV t d l (m (s.tile t)) (v (s.tile t)) (fl (s.tile t))) :=
  vecIssue_goes g l _ free fun u sound => (u.putV_bad ..).trans sound

theorem vecIssue_putM (g : RingGoes s t 2 h w) {m : Tile → MReg} {v : Tile → MVal} {fl : Tile → Nat} (free : vecBusy rs ds s t = false) :
    (vecIssue h s rs ds l fun t T u => u.putM t d l (m T) (v T) (fl T)) =
      .next (vecDid s w t h rs l fun u => u.putM t d l (m (s.tile t)) (v (s.tile t)) (fl (s.tile t))) :=
  vecIssue_goes g l _ free fun u sound => (u.putM_bad ..).trans sound

theorem mbit_buildMF (act : Nat → Nat → Bool) (f : Nat → Nat → Bool × Nat) {i j : Nat} (hi : i < 16) (hj : j < 64) :
    mbit (buildMF act f).1 i j = (f i j).1 := by
  have same : (buildMF act f).1 = buildM fun i j => (f i j).1 := by
    simp only [buildMF, gather, buildM, List.map_map]
    rfl
  rw [same, mbit_buildM _ hi hj]

/-- A word that writes a mask of the destination class tests the lanes of its operands. -/
theorem vecToMask_gives (g : RingGoes s t 2 h w) (f : List Nat → Bool × Nat) (free : vecBusy rs [] s t = false) :
    MaskWord s w t h d rs l (s.tile t).m0.v ((s.tile t).m0.p || rs.any fun r => ((s.tile t).vsrc r).p)
      (fun i j => (f (rs.map fun r => lane ((s.tile t).vsrc r).v i j)).1) (vecToMask h s d rs l f) := by
  let bits := buildMF (mbit (s.tile t).m0.v) fun i j => f (rs.map fun r => lane ((s.tile t).vsrc r).v i j)
  refine ⟨bits.1, bits.2, ?_, fun i j => mbit_buildMF _ _⟩
  rw [vecToMask, vecIssue_goes g l _ free fun u sound => (u.putM_bad ..).trans sound]
  simp only [List.any_map, List.map_map]
  rfl

/-- A word on masks writes its whole destination. -/
theorem maskWord_gives (g : RingGoes s t 2 h w) {f : List MReg → MReg} (free : vecBusy [] [] s t = false) :
    MaskWord s w t h d [] 4 fullMask (rs.any fun r => ((s.tile t).mreg ((s.tile t).mphys r)).p)
      (fun i j => mbit (f (rs.map fun r => ((s.tile t).mreg ((s.tile t).mphys r)).v)) i j) (maskWord h s d rs f) := by
  refine ⟨f (rs.map fun r => ((s.tile t).mreg ((s.tile t).mphys r)).v), 0, ?_, fun i j _ _ => rfl⟩
  rw [maskWord, vecIssue_goes g 4 _ free fun u sound => (u.putM_bad ..).trans sound]
  simp only [List.any_map, List.map_map]
  rfl

end

/-- The conditions of VCMP on integers (06 R181). -/
theorem iCmp_eq {cond : Nat} (known : cond < 6) (y z : Int) :
    iCmp cond y z = [decide (y = z), decide (y ≠ z), decide (y < z), decide (y ≤ z), decide (z < y), decide (z ≤ y)].getD cond false := by
  match cond, known with
  | 0, _ => exact beq_eq_decide ..
  | 1, _ => exact (congrArg not (beq_eq_decide ..)).trans (decide_not ..).symm
  | 2, _ | 3, _ | 4, _ | 5, _ => rfl

/-- An I32 value fits its type, and is given back by it. -/
theorem i32_wrap_read {x : Nat} (hx : x < 2 ^ 32) : (ity 0).wrap ((ity 0).read x) = x := by
  have width : (ity 0).w = 32 := rfl
  have signed : (ity 0).sgn = true := rfl
  simp only [ITy.wrap, ITy.read, width, signed, Nat.mod_eq_of_lt hx, Bool.true_and, decide_eq_true_eq]
  split <;> omega

theorem i32_read_range (x : Nat) : -2 ^ 31 ≤ (ity 0).read x ∧ (ity 0).read x < 2 ^ 31 := by
  have width : (ity 0).w = 32 := rfl
  have signed : (ity 0).sgn = true := rfl
  have small : x % 2 ^ 32 < 2 ^ 32 := Nat.mod_lt _ (Nat.two_pow_pos _)
  simp only [ITy.read, width, signed, Bool.true_and, decide_eq_true_eq]
  split <;> omega

/-- Values of I32 that differ have different bits. -/
theorem i32_wrap_inj {y z : Int} (hy : -2 ^ 31 ≤ y ∧ y < 2 ^ 31) (hz : -2 ^ 31 ≤ z ∧ z < 2 ^ 31)
    (same : (ity 0).wrap y = (ity 0).wrap z) : y = z := by
  have width : (ity 0).w = 32 := rfl
  simp only [ITy.wrap, width] at same
  omega

/-- VCLAMP of an I32 lane sets cl where it changes the lane (06 R182). -/
theorem clampLane_int {a b d : Nat} (hd : d < 2 ^ 32) :
    let r := min (max ((ity 0).read d) ((ity 0).read a)) ((ity 0).read b)
    clampLane 0 a b d = ((ity 0).wrap r, if (ity 0).read d = r then 0 else fCL) := by
  intro r
  have range : -2 ^ 31 ≤ r ∧ r < 2 ^ 31 := by
    have := i32_read_range a
    have := i32_read_range b
    have := i32_read_range d
    omega
  have kept : (ity 0).wrap r = d ↔ (ity 0).read d = r :=
    ⟨fun same => i32_wrap_inj (i32_read_range d) range ((i32_wrap_read hd).trans same.symm), fun same => same ▸ i32_wrap_read hd⟩
  have clamp : clampLane 0 a b d = ((ity 0).wrap r, flagIf ((ity 0).wrap r != d) fCL) := rfl
  rw [clamp, flagIf]
  by_cases same : (ity 0).read d = r
  · rw [if_pos same, kept.mpr same]
    simp
  · rw [if_neg same, if_pos (bne_iff_ne.mpr (mt kept.mp same))]

/-- MPOPC counts the bits of a row (06 R183). -/
theorem popN_row (m : MReg) (i : Nat) :
    popN 64 (m.toNat / 2 ^ (64 * i) % 2 ^ 64) = ((List.range 64).filter fun k => mbit m i k).length := by
  rw [popN_eq]
  refine congrArg List.length (List.filter_congr fun k among => ?_)
  rw [Nat.testBit_mod_two_pow, decide_eq_true (List.mem_range.mp among), Bool.true_and, Nat.testBit_div_two_pow, mbit_eq,
    BitVec.getLsbD, Nat.add_comm]

theorem popN_le (n v : Nat) : popN n v ≤ n := by
  rw [popN_eq]
  exact (List.length_filter_le ..).trans (List.length_range ..).le

/-- The elements of an accumulator tile that is built from them in order. -/
theorem elem_built (f : Nat → Nat) {i j : Nat} (hi : i < 16) (hj : j < 16) :
    elem (BitVec.ofNat 8192 (joinLanes 32 ((List.range 256).map f))) i j = f (16 * i + j) % 2 ^ 32 := by
  rw [elem, BitVec.toNat_ofNat]
  refine (div_mod_pow_of_mod (by omega)).trans ?_
  rw [joinLanes_digit]
  simp [List.getD_eq_getElem?_getD, show 16 * i + j < 256 by omega]

theorem lane_buildV_of_lt {f : Nat → Nat → Nat} {i j : Nat} (hi : i < 16) (hj : j < 64) (small : f i j < 2 ^ 32) :
    lane (buildV f) i j = f i j := (lane_buildV f hi hj).trans (Nat.mod_eq_of_lt small)

theorem elem_lt (v : Tile32) (i j : Nat) : elem v i j < 2 ^ 32 := Nat.mod_lt _ (Nat.two_pow_pos _)

/-- Settles O54: tests by `vecToMask_gives`, words on masks by `maskWord_gives`, movement by `vecWord_gives`, the others by the value
that they put on its way. -/
theorem vectorMaskAndMoveWords : Obligations.VectorMaskAndMoveWords := by
  intro s w t h d a b n q cond imm rows g T m0 mk x sx fx test moves tests masks gives
  have compares {i : Instr} {rs : List Nat} {l : Nat} {f : List Nat → Bool × Nat} {p : Nat → Nat → Bool}
      (word : exec i s = vecToMask h s d rs l f) (bit : ∀ i j, (f (rs.map fun r => x r i j)).1 = p i j) : tests i rs l p := fun free => by
    rw [word, ← funext₂ bit]
    exact vecToMask_gives g f free
  have combines {i : Instr} {rs : List Nat} {f : List MReg → MReg} {p : Nat → Nat → Bool}
      (word : exec i s = maskWord h s d rs f) (bit : ∀ i j, i < 16 → j < 64 → mbit (f (rs.map fun r => (mk r).v)) i j = p i j) :
      masks i rs p := fun free => by
    obtain ⟨v, fl, ends, bits⟩ := maskWord_gives (d := d) (rs := rs) (f := f) g free
    exact ⟨v, fl, word.trans ends, fun i j hi hj => (bits i j hi hj).trans (bit i j hi hj)⟩
  have moved {i : Instr} {rs : List Nat} {l : Nat} {f : List VReg → Nat → Nat → Nat} {k : Nat → Nat → Nat}
      (word : exec i s = vecMove h s d rs l f) (value : ∀ i j, f (rs.map fun r => (T.vsrc r).v) i j % 2 ^ 32 = k i j % 2 ^ 32) :
      moves i rs l k := fun free => word ▸ (vecWord_gives g l _ free).congr value fun _ _ => rfl
  clear_value moves tests masks
  refine ⟨fun known => ⟨compares (exec_vcmp ..) fun i j => iCmp_eq known .., compares (exec_vcmp ..) fun i j => rfl,
      compares (exec_vcmpi ..) fun i j => iCmp_eq known ..⟩,
    compares (exec_vtom ..) fun i j => (congrArg not (beq_eq_decide ..)).trans (decide_not ..).symm, fun free => ?_, fun free => ?_,
    combines (exec_mand ..) fun i j _ _ => ?_, combines (exec_mor ..) fun i j _ _ => ?_,
    combines (exec_mxor ..) fun i j _ _ => ?_, combines (exec_mnot ..) fun i j hi hj => ?_,
    combines (exec_mset ..) fun i j hi hj => ?_, fun free => ⟨?_, ?_, fun quarter => ?_⟩, fun free quarter => ?_,
    moved (exec_vmov ..) fun _ _ => rfl, moved (exec_vsplat ..) fun _ _ => Nat.mod_mod .., moved (exec_vidx ..) fun _ _ => rfl,
    moved (exec_vbcr ..) fun _ _ => rfl, moved (exec_vbcc ..) fun _ _ => rfl, moved (exec_vrotr ..) fun _ _ => rfl,
    moved (exec_vrotc ..) fun _ _ => rfl, moved (exec_vperm ..) fun _ _ => rfl, moved (exec_vlut ..) fun i j => ?_,
    moved (exec_vtrn ..) fun _ _ => rfl, moved (exec_vrng ..) fun _ _ => Nat.mod_mod ..⟩
  · exact ⟨_, _, (exec_vsel ..).trans (vecIssue_putV g free), fun i j hi hj _ =>
      lane_buildV_of_lt hi hj (by split <;> exact lane_lt ..)⟩
  · have clamp (ty : Nat) : LaneWord s w t h d [a, b, d] 5 (fun vs i j => clampLane ty (lane (vv vs 0) i j) (lane (vv vs 1) i j)
        (lane (vv vs 2) i j)) (exec (.vclamp h d a b ty) s) :=
      (exec_vclamp ..) ▸ (vecLane_gives g _ free).congr (fun _ _ => rfl) fun _ _ => rfl
    exact ⟨(clamp 0).congr (fun i j => congrArg (·.1 % 2 ^ 32) (clampLane_int (lane_lt ..)))
      fun i j => congrArg Prod.snd (clampLane_int (lane_lt ..)), _, clamp 6, fun vs i j => rfl⟩
  · simp only [mbit_eq]
    exact BitVec.getLsbD_and
  · simp only [mbit_eq]
    exact BitVec.getLsbD_or
  · simp only [mbit_eq]
    exact BitVec.getLsbD_xor
  · simp only [mbit_eq]
    exact BitVec.getLsbD_not.trans (by rw [decide_eq_true (by omega), Bool.true_and]; rfl)
  · rw [mbit_buildM _ hi hj, Nat.testBit_eq_decide_div_mod_eq, beq_eq_decide]
  · refine ⟨_, _, (exec_mpopc ..).trans (vecIssue_putV g free), fun i j hi hj _ => ?_⟩
    refine (lane_buildV_of_lt hi hj ?_).trans (if_congr Iff.rfl (popN_row ..) rfl)
    split
    · exact (popN_le ..).trans_lt (by decide)
    · decide
  · exact ⟨_, _, (exec_mtov ..).trans (vecIssue_putV g free), fun i j hi hj _ => lane_buildV_of_lt hi hj (by split <;> decide)⟩
  · refine ⟨_, fun i j hi hj => (mbit_buildM _ hi hj).trans (beq_eq_decide ..), _, _, (exec_vmovfa ..).trans (vecIssue_putV g free),
      fun i j hi hj on => ?_⟩
    have inside : j / 16 = q := beq_iff_eq.mp ((mbit_buildM _ hi hj).symm.trans on)
    rw [lane_buildV _ hi hj, if_pos inside]
    exact Nat.mod_eq_of_lt (elem_lt ..)
  · refine ⟨_, (exec_vmovta ..).trans (vecIssue_goes g 8 _ free fun u sound => sound), fun i j hi hj => ?_⟩
    refine (elem_built _ hi hj).trans ((Nat.mod_eq_of_lt (lane_lt ..)).trans ?_)
    rw [show (16 * i + j) / 16 = i by omega, show (16 * i + j) % 16 = j by omega]
  · have column : lane (T.vsrc b).v i j % 1024 % 64 = lane (T.vsrc b).v i j % 64 := by omega
    exact congrArg (lane (T.vsrc a).v (lane (T.vsrc b).v i j % 1024 / 64) · % 2 ^ 32) column

end Sys2Proof.Machine
end

section
namespace Sys2Proof.Machine

/-! ### Words that work along rows (O55; 06 R167, R180, R186, R187, R189 to R192; 03 R89, R91) -/

theorem getD_map_range {α : Type} (f : Nat → α) (z : α) {n i : Nat} (hi : i < n) : ((List.range n).map f).getD i z = f i := by
  simp [List.getD_eq_getElem?_getD, hi]

/-- A word of the source class writes a register and flags of its active elements. -/
theorem vecWhole_gives {s w : State} {t : Nat} {h : Hdr} {d l : Nat} {rs : List Nat} (g : RingGoes s t 2 h w)
    {f : (Nat → Nat → Bool) → List VReg → VReg × Nat} {p : VReg → Nat → Prop} (free : vecBusy rs [d] s t = false)
    (value : p (f (mbit (s.tile t).m0.v) (rs.map fun r => ((s.tile t).vsrc r).v)).1
      (f (mbit (s.tile t).m0.v) (rs.map fun r => ((s.tile t).vsrc r).v)).2) :
    VecGives s w t h d rs l fullMask p (vecWhole h s d rs l f) := by
  refine ⟨_, _, ?_, value⟩
  rw [vecWhole, vecIssue_goes g l _ free fun u sound => (u.putV_bad ..).trans sound]
  simp only [List.any_map, List.map_map]
  rfl

theorem VecGives.mono {s w : State} {t : Nat} {h : Hdr} {d l : Nat} {rs : List Nat} {m : MReg} {p q : VReg → Nat → Prop} {o : Out}
    (word : VecGives s w t h d rs l m p o) (weaker : ∀ v fl, p v fl → q v fl) : VecGives s w t h d rs l m q o := by
  obtain ⟨v, fl, ends, holds⟩ := word
  exact ⟨v, fl, ends, weaker v fl holds⟩

/-! The sum that a tree of I32 additions gives (03 R89). -/

/-- The sum of the elements that are there. -/
def presentSum (xs : List (Option Nat)) : Nat := (xs.map fun x => x.getD 0).sum

theorem nodeI_add (x y : Nat) : (nodeI 0 0 x y).1 % 2 ^ 32 = (x + y) % 2 ^ 32 := by
  have width : (ity 0).w = 32 := rfl
  have signed : (ity 0).sgn = true := rfl
  have node : (nodeI 0 0 x y).1 = (ity 0).wrap ((ity 0).read x + (ity 0).read y) := rfl
  rw [node]
  simp only [ITy.wrap, ITy.read, width, signed, Bool.true_and, decide_eq_true_eq]
  split <;> split <;> omega

/-- A level of the tree halves the line and keeps its sum. -/
theorem treeLevel_sum : (xs : List (Option Nat)) → (treeLevel (nodeI 0 0) xs).1.length = (xs.length + 1) / 2 ∧
    presentSum (treeLevel (nodeI 0 0) xs).1 % 2 ^ 32 = presentSum xs % 2 ^ 32
  | [] => ⟨rfl, rfl⟩
  | [_] => by simp [treeLevel]
  | a :: b :: xs => by
    obtain ⟨length, sum⟩ := treeLevel_sum xs
    have merged : ∃ c : Option Nat, (treeLevel (nodeI 0 0) (a :: b :: xs)).1 = c :: (treeLevel (nodeI 0 0) xs).1 ∧
        c.getD 0 % 2 ^ 32 = (a.getD 0 + b.getD 0) % 2 ^ 32 := by
      match a, b with
      | some x, some y => exact ⟨_, rfl, nodeI_add x y⟩
      | some x, none => exact ⟨_, rfl, rfl⟩
      | none, y => exact ⟨_, rfl, by simp⟩
    obtain ⟨c, level, value⟩ := merged
    rw [level]
    simp only [presentSum, List.length_cons, List.map_cons, List.sum_cons] at sum ⊢
    omega

theorem tree_sum (n : Nat) {xs : List (Option Nat)} (fits : xs.length ≤ 2 ^ n) :
    (tree (nodeI 0 0) n xs).1.getD 0 % 2 ^ 32 = presentSum xs % 2 ^ 32 := by
  induction n generalizing xs with
  | zero =>
    match xs, fits with
    | [], _ => rfl
    | [x], _ => simp [tree, presentSum]
  | succ n ih =>
    obtain ⟨length, sum⟩ := treeLevel_sum xs
    rw [tree, ← sum]
    exact ih (by rw [length]; omega)

theorem presentSum_active (js : List Nat) (act : Nat → Bool) (x : Nat → Nat) :
    presentSum (js.map fun j => if act j then some (x j) else none) = ((js.filter act).map x).sum := by
  induction js with
  | nil => rfl
  | cons j js ih =>
    simp only [presentSum, List.map_cons, List.sum_cons] at ih ⊢
    rw [ih, List.filter_cons]
    split <;> simp

/-- VREDR.I32.ADD without saturation sums the active lanes (06 R186). -/
theorem redRow_sum (rnd : Nat) (act : Nat → Bool) (x : Nat → Nat) :
    (redRow 0 0 rnd 0 act x).1 % 2 ^ 32 = (((List.range 64).filter act).map x).sum % 2 ^ 32 := by
  simp only [redRow, reduceI, identI]
  rw [tree_sum 6 (by simp), presentSum_active]

/-! The greatest element of a row (06 R187). -/

/-- The greatest active I32 element of the lanes below `n` and its lowest lane. -/
def greatest (act : Nat → Bool) (x : Nat → Nat) (n : Nat) : Option (Nat × Nat) :=
  (List.range n).foldl (fun best j =>
    if !act j then best
    else match best with
      | none => some (j, x j)
      | some b => if (ity 0).read b.2 < (ity 0).read (x j) then some (j, x j) else best) none

theorem argmax_int (act : Nat → Bool) (x : Nat → Nat) : argmax 0 act x = greatest act x 64 := rfl

/-- What the greatest of the lanes below `n` is. -/
def IsTopLane (act : Nat → Bool) (x : Nat → Nat) (n : Nat) : Option (Nat × Nat) → Prop
  | none => ∀ j, j < n → act j = false
  | some b => b.1 < n ∧ act b.1 = true ∧ b.2 = x b.1 ∧ ∀ j, j < n → act j = true →
      (ity 0).read (x j) ≤ (ity 0).read b.2 ∧ (j < b.1 → (ity 0).read (x j) < (ity 0).read b.2)

theorem greatest_is (act : Nat → Bool) (x : Nat → Nat) (n : Nat) : IsTopLane act x n (greatest act x n) := by
  induction n with
  | zero => exact fun j below => absurd below (Nat.not_lt_zero j)
  | succ n ih =>
    have step : greatest act x (n + 1) = if !act n then greatest act x n else match greatest act x n with
        | none => some (n, x n)
        | some b => if (ity 0).read b.2 < (ity 0).read (x n) then some (n, x n) else greatest act x n := by
      rw [greatest, List.range_succ, List.foldl_append]
      rfl
    rw [step]
    generalize greatest act x n = best at ih ⊢
    have last {j : Nat} (below : j < n + 1) (other : ¬ j < n) : j = n := by omega
    cases on : act n with
    | false =>
      have earlier {j : Nat} (below : j < n + 1) (active : act j = true) : j < n :=
        Classical.byContradiction fun other => absurd active (by rw [last below other, on]; decide)
      cases best with
      | none => exact fun j below => Bool.eq_false_of_not_eq_true fun active => absurd active (by rw [ih j (earlier below active)]; decide)
      | some b =>
        obtain ⟨inside, active, value, top⟩ := ih
        exact ⟨Nat.lt_succ_of_lt inside, active, value, fun j below act => top j (earlier below act) act⟩
    | true =>
      cases best with
      | none =>
        refine ⟨Nat.lt_succ_self n, on, rfl, fun j below active => ?_⟩
        have newest : j = n := last below fun inside => absurd active (by rw [ih j inside]; decide)
        exact ⟨newest ▸ le_rfl, fun less => absurd newest less.ne⟩
      | some b =>
        obtain ⟨inside, active, value, top⟩ := ih
        by_cases greater : (ity 0).read b.2 < (ity 0).read (x n)
        · refine (if_pos greater).symm ▸ ⟨Nat.lt_succ_self n, on, rfl, fun j below act => ?_⟩
          by_cases old : j < n
          · have less := (top j old act).1.trans_lt greater
            exact ⟨less.le, fun _ => less⟩
          · exact last below old ▸ ⟨le_rfl, fun less => absurd less (Nat.lt_irrefl _)⟩
        · refine (if_neg greater).symm ▸ ⟨Nat.lt_succ_of_lt inside, active, value, fun j below act => ?_⟩
          by_cases old : j < n
          · exact top j old act
          · exact last below old ▸ ⟨not_lt.mp greater, fun less => absurd less (Nat.lt_asymm inside)⟩

/-- What VARGMX gives of a row: the greatest's lane and element, or -1 and the identity. -/
def topLane (ty : Nat) (act : Nat → Bool) (x : Nat → Nat) : Nat × Nat :=
  (argmax ty act x).getD (2 ^ 32 - 1, if ty = 6 then fp32.infBits true else 2 ^ 31)

theorem topLane_int {act : Nat → Bool} {x : Nat → Nat} (small : ∀ j, x j < 2 ^ 32) :
    let r := topLane 0 act x
    r.1 < 2 ^ 32 ∧ r.2 < 2 ^ 32 ∧ ((∀ j, j < 64 → act j = false) → r = (2 ^ 32 - 1, 2 ^ 31)) ∧
      ∀ j, j < 64 → act j = true → r.1 < 64 ∧ act r.1 = true ∧ r.2 = x r.1 ∧ (ity 0).read (x j) ≤ (ity 0).read r.2 ∧
        (j < r.1 → (ity 0).read (x j) < (ity 0).read r.2) := by
  have top := greatest_is act x 64
  rw [topLane, argmax_int, if_neg (by decide)]
  generalize greatest act x 64 = best at top ⊢
  cases best with
  | none => exact ⟨by decide, by decide, fun _ => rfl, fun j hj active => absurd active (by rw [top j hj]; decide)⟩
  | some b =>
    obtain ⟨inside, active, value, most⟩ := top
    exact ⟨show b.1 < 2 ^ 32 by omega, value ▸ small b.1, fun nobody => absurd active (by rw [nobody b.1 inside]; decide),
      fun j hj act => ⟨inside, active, value, most j hj act⟩⟩

/-- A register of Welford states, lane by lane (06 R191). -/
def Welford.lanes (W : Welford) (j : Nat) : Nat := [W.n, W.mu, W.m2].getD j 0

theorem lane_welBuild (old : VReg) (r : Nat → Option Welford) {i j : Nat} (hi : i < 16) (hj : j < 64) :
    lane (welBuild old ((List.range 16).map r)) i j = (r i).elim (lane old i j) fun W => W.lanes j % 2 ^ 32 := by
  rw [welBuild, lane_buildV _ hi hj, getD_map_range r none hi]
  cases r i with
  | none => exact Nat.mod_eq_of_lt (lane_lt ..)
  | some W =>
    refine congrArg (· % 2 ^ 32) ?_
    match j with
    | 0 | 1 | 2 => rfl
    | j + 3 => simp [Welford.lanes]

theorem welBatch_none {act : Nat → Bool} {x : Nat → Nat} (none : ∀ k, k < 64 → act k = false) : welBatch act x = .none := by
  have nobody : (List.range 64).filter act = [] := by
    simpa using none
  simp [welBatch, nobody]

/-! Blocks of VQNT (06 R180; 03 R91). -/

theorem scaleCode_lt (ty : Nat) (xs : List FV) : (scaleCode ty xs).1 < 2 ^ 8 := by
  unfold scaleCode
  split
  · decide
  · split
    · decide
    · simp only
      omega

theorem quantBlock_scale_lt (ty : Nat) (act : Nat → Nat → Bool) (v : VReg) (i k : Nat) : (quantBlock ty act v i k).1 < 2 ^ 8 := by
  unfold quantBlock
  exact scaleCode_lt ..

/-- A register of rows of 64 lanes each. -/
theorem lane_rows (r : Nat → Nat) {i j : Nat} (hi : i < 16) (hj : j < 64) :
    lane (BitVec.ofNat 32768 (joinLanes 2048 ((List.range 16).map r))) i j = r i / 2 ^ (32 * j) % 2 ^ 32 := by
  have place : 32 * (64 * i + j) = 2048 * i + 32 * j := by ring
  rw [lane_ofNat _ hi hj, place, Nat.pow_add, ← Nat.div_div_eq_div_mul, ← div_mod_pow_of_mod (c := 2048) (by omega), joinLanes_digit,
    getD_map_range r 0 hi, div_mod_pow_of_mod (by omega)]

/-- The row of the two scales. -/
theorem scaleRow_lane {c : Nat → Nat} (small : ∀ k, c k < 2 ^ 8) (j : Nat) :
    (c 0 + c 1 * 2 ^ 32) / 2 ^ (32 * j) % 2 ^ 32 = if j < 2 then c j else 0 := by
  have low := small 0
  have high := small 1
  match j with
  | 0 => simp; omega
  | 1 => simp; omega
  | j + 2 =>
    have beyond : c 0 + c 1 * 2 ^ 32 < 2 ^ (32 * (j + 2)) :=
      (show c 0 + c 1 * 2 ^ 32 < 2 ^ 64 by omega).trans_le (Nat.pow_le_pow_right (by decide) (by omega))
    rw [Nat.div_eq_of_lt beyond, if_neg (by omega), Nat.zero_mod]

/-- The lanes of a row of two blocks of 32 elements of `n` bits: `n` lanes for each. -/
theorem blockRow_lane {n : Nat} (hn : 0 < n) (x y j : Nat) :
    joinLanes (32 * n) [x, y] / 2 ^ (32 * j) % 2 ^ 32 = [x, y].getD (j / n) 0 % 2 ^ (32 * n) / 2 ^ (32 * (j % n)) % 2 ^ 32 := by
  have place : 32 * n * (j / n) + 32 * (j % n) = 32 * j := by
    rw [Nat.mul_assoc, ← Nat.mul_add, Nat.div_add_mod]
  have inside := Nat.mod_lt j hn
  rw [← joinLanes_digit, div_mod_pow_of_mod (by omega), Nat.div_div_eq_div_mul, ← Nat.pow_add, place]

/-- The elements of a lane of a block, in order. -/
theorem slot_block {n : Nat} (hn : n ∣ 32) (es : List Nat) {r k : Nat} (hr : r < n) (hk : k < 32 / n) :
    slot n k (joinLanes n es % 2 ^ (32 * n) / 2 ^ (32 * r) % 2 ^ 32) = es.getD (32 / n * r + k) 0 % 2 ^ n := by
  have whole := Nat.mul_div_cancel' hn
  have place : 32 * r + n * k = n * (32 / n * r + k) := by
    rw [Nat.mul_add, ← Nat.mul_assoc, whole]
  have inLane : n * k + n ≤ 32 := by
    calc n * k + n = n * (k + 1) := by ring
      _ ≤ n * (32 / n) := Nat.mul_le_mul_left _ hk
      _ = 32 := whole
  rw [slot, div_mod_pow_of_mod inLane, Nat.div_div_eq_div_mul, ← Nat.pow_add, place, div_mod_pow_of_mod, joinLanes_digit]
  rw [← place]
  omega

theorem quantRow_eq {ty : Nat} (types : ty = 1 ∨ ty = 9 ∨ ty = 10 ∨ ty = 11) (x y : List Nat) :
    quantRow ty x y = joinLanes (32 * tyBits ty) [joinLanes (tyBits ty) x, joinLanes (tyBits ty) y] := by
  rcases types with rfl | rfl | rfl | rfl <;> rfl

theorem tyBits_block {ty : Nat} (types : ty = 1 ∨ ty = 9 ∨ ty = 10 ∨ ty = 11) : 0 < tyBits ty ∧ tyBits ty ∣ 32 := by
  rcases types with rfl | rfl | rfl | rfl <;> decide

theorem quantRow_beyond {ty : Nat} (types : ty = 1 ∨ ty = 9 ∨ ty = 10 ∨ ty = 11) (x y : List Nat) {j : Nat} (hj : 2 * tyBits ty ≤ j) :
    quantRow ty x y / 2 ^ (32 * j) % 2 ^ 32 = 0 := by
  obtain ⟨some, -⟩ := tyBits_block types
  have outside : 2 ≤ j / tyBits ty := (Nat.le_div_iff_mul_le some).mpr hj
  rw [quantRow_eq types, blockRow_lane some, List.getD_eq_default _ _ outside]
  simp

theorem slot_quantRow {ty : Nat} (types : ty = 1 ∨ ty = 9 ∨ ty = 10 ∨ ty = 11) (es : Nat → List Nat) {j k : Nat}
    (hk : k < 32 / tyBits ty) (hj : j < 2 * tyBits ty) : slot (tyBits ty) k (quantRow ty (es 0) (es 1) / 2 ^ (32 * j) % 2 ^ 32) =
      (es (j / tyBits ty)).getD (32 / tyBits ty * (j % tyBits ty) + k) 0 % 2 ^ tyBits ty := by
  obtain ⟨some, packs⟩ := tyBits_block types
  have block : [joinLanes (tyBits ty) (es 0), joinLanes (tyBits ty) (es 1)].getD (j / tyBits ty) 0 =
      joinLanes (tyBits ty) (es (j / tyBits ty)) := by
    match which : j / tyBits ty, (Nat.div_lt_iff_lt_mul some).mpr hj with
    | 0, _ | 1, _ => rfl
  rw [quantRow_eq types, blockRow_lane some, block, slot_block packs _ (Nat.mod_lt _ some) hk]

section
variable (bl : Nat → Nat → Nat × List Nat × Nat) {i j : Nat}

/-- The scales that VQNT writes, from its blocks. -/
theorem lane_scales (small : ∀ i k, (bl i k).1 < 2 ^ 8) (hi : i < 16) (hj : j < 64) :
    lane (BitVec.ofNat 32768 (joinLanes 2048 (((List.range 16).map fun i => (bl i 0, bl i 1)).map fun r =>
      r.1.1 + r.2.1 * 2 ^ 32))) i j = if j < 2 then (bl i j).1 else 0 := by
  rw [List.map_map, lane_rows _ hi hj, Function.comp_apply]
  exact scaleRow_lane (c := fun k => (bl i k).1) (small i) j

/-- The elements that VQNT writes, from its blocks. -/
theorem lane_quants (ty : Nat) (hi : i < 16) (hj : j < 64) :
    lane (BitVec.ofNat 32768 (joinLanes 2048 (((List.range 16).map fun i => (bl i 0, bl i 1)).map fun r =>
      quantRow ty r.1.2.1 r.2.2.1))) i j = quantRow ty (bl i 0).2.1 (bl i 1).2.1 / 2 ^ (32 * j) % 2 ^ 32 := by
  rw [List.map_map, lane_rows _ hi hj]
  rfl

end

/-- VARGMX: only a signalling element sets a flag. -/
theorem vargmx_gives {s w : State} {t : Nat} {h : Hdr} {d a : Nat} (g : RingGoes s t 2 h w) (free : vecBusy [a] [d] s t = false) (ty : Nat) :
    VecGives s w t h d [a] 20 fullMask (fun v fl => (ty ≠ 6 → fl = 0) ∧ ∀ i j, i < 16 → j < 64 → lane v i j =
      (if j = 0 then (topLane ty (mbit (s.tile t).m0.v i) (lane ((s.tile t).vsrc a).v i)).1
        else if j = 1 then (topLane ty (mbit (s.tile t).m0.v i) (lane ((s.tile t).vsrc a).v i)).2 else 0) % 2 ^ 32)
      (exec (.vargmx h d a ty) s) := by
  rw [exec_vargmx, execVargmx]
  refine vecWhole_gives g free ⟨fun other => ?_, fun i j hi hj => ?_⟩ <;> dsimp only
  · rw [beq_eq_false_iff_ne.mpr other]
    rfl
  · rw [lane_buildV _ hi hj, getD_map_range _ _ hi]
    rfl

/-- A row that holds what VARGMX.I32 gives of it. -/
theorem topLane_lanes {act : Nat → Bool} {x : Nat → Nat} (small : ∀ j, x j < 2 ^ 32) {v : VReg} {i : Nat}
    (lanes : ∀ j, j < 64 → lane v i j =
      (if j = 0 then (topLane 0 act x).1 else if j = 1 then (topLane 0 act x).2 else 0) % 2 ^ 32) :
    (∀ j, 2 ≤ j → j < 64 → lane v i j = 0) ∧
      ((∀ j, j < 64 → act j = false) → lane v i 0 = 2 ^ 32 - 1 ∧ lane v i 1 = 2 ^ 31) ∧
      ∀ j, j < 64 → act j = true → lane v i 0 < 64 ∧ act (lane v i 0) = true ∧ lane v i 1 = x (lane v i 0) ∧
        (ity 0).read (x j) ≤ (ity 0).read (lane v i 1) ∧ (j < lane v i 0 → (ity 0).read (x j) < (ity 0).read (lane v i 1)) := by
  obtain ⟨place, value, nobody, top⟩ := topLane_int small
  have first : lane v i 0 = (topLane 0 act x).1 := (lanes 0 (by decide)).trans (Nat.mod_eq_of_lt place)
  have second : lane v i 1 = (topLane 0 act x).2 := (lanes 1 (by decide)).trans (Nat.mod_eq_of_lt value)
  rw [first, second]
  refine ⟨fun j after hj => (lanes j hj).trans ?_, fun none => ?_, top⟩
  · rw [if_neg (by omega), if_neg (by omega), Nat.zero_mod]
  · rw [nobody none]
    exact ⟨rfl, rfl⟩

/-- VQNT: a row of two scales, and a row of the elements of its two blocks. -/
theorem vqnt_gives {s w : State} {t : Nat} {h : Hdr} {d a b : Nat} (g : RingGoes s t 2 h w) (free : vecBusy [a] [d, b] s t = false)
    (ty : Nat) :
    let bl := quantBlock ty (mbit (s.tile t).m0.v) ((s.tile t).vsrc a).v
    let p := ((s.tile t).vsrc a).p || (s.tile t).m0.p
    ∃ e c fl, exec (.vqnt h d a b ty) s =
      .next (vecDid s w t h [a] 16 fun u => (u.putV t d 16 fullMask ⟨e, p⟩ fl).putV t b 16 fullMask ⟨c, p⟩ 0) ∧
      ∀ i j, i < 16 → j < 64 → lane c i j = (if j < 2 then (bl i j).1 else 0) ∧
        lane e i j = quantRow ty (bl i 0).2.1 (bl i 1).2.1 / 2 ^ (32 * j) % 2 ^ 32 := by
  rw [exec_vqnt, execVqnt]
  dsimp only
  rw [vecIssue_goes g 16 _ free fun u sound => (State.putV_bad ..).trans ((u.putV_bad ..).trans sound)]
  exact ⟨_, _, _, rfl, fun i j hi hj => ⟨lane_scales _ (quantBlock_scale_lt ty _ _) hi hj, lane_quants _ ty hi hj⟩⟩

/-- Settles O55: the words of the source class by `vecWhole_gives`, the others by the value that they put on its way, row by row, with
the lemmas on the tree (`redRow_sum`), on the greatest lane (`greatest_is`), on Welford states and on blocks. -/
theorem vectorRowWords : Obligations.VectorRowWords := by
  intro s w t h d a b op ty rnd sat thr g T m0 on x free whole col0 state put
  have rows {i : Instr} {rs : List Nat} {l : Nat} {f : (Nat → Nat → Bool) → List VReg → VReg × Nat} {k : Nat → Nat → Nat}
      (word : exec i s = vecWhole h s d rs l f)
      (value : ∀ i j, i < 16 → j < 64 → lane (f on (rs.map fun r => (T.vsrc r).v)).1 i j = k i j % 2 ^ 32) : whole rs l k (exec i s) :=
    fun free => word ▸ vecWhole_gives g free value
  have reduced (op ty sat : Nat) : whole [a] 16 (col0 fun i => (redRow op ty rnd sat (on i) (x a i)).1)
      (exec (.vredr h d a op ty rnd sat) s) := by
    refine rows (exec_vredr ..) fun i j hi hj => ?_
    dsimp only
    rw [lane_buildV _ hi hj, getD_map_range _ _ hi]
    rfl
  refine ⟨reduced op ty sat, fun free => ?_, rows (exec_vredc ..) fun i j hi hj => ?_, rows (exec_vscan ..) fun i j hi hj => ?_,
    rows (exec_vscan ..) fun i j hi hj => ?_, fun free => ?_, ?_, ⟨fun free => ?_, fun free => ?_⟩,
    fun free => ?_, fun free => ?_, fun free => ?_, fun free => ?_, fun free => ?_, fun free => ?_⟩
  · obtain ⟨v, fl, ends, lanes⟩ := reduced 0 0 0 free
    refine ⟨v, fl, ends, fun i j hi hj => (lanes i j hi hj).trans ?_⟩
    by_cases first : j = 0
    · simp only [col0, if_pos first]
      exact redRow_sum ..
    · simp only [col0, if_neg first]
  · dsimp only
    rw [lane_buildV _ hi hj, getD_map_range _ _ hj]
    rfl
  · dsimp only
    rw [if_pos rfl, lane_buildV _ hi hj, getD_map_range _ _ hi]
    rfl
  · dsimp only
    rw [if_neg Nat.one_ne_zero, lane_buildV _ hi hj, getD_map_range _ _ hj]
    rfl
  · exact (vargmx_gives g free 0).mono fun v fl ⟨clean, lanes⟩ =>
      ⟨clean (by decide), fun i hi => topLane_lanes (fun j => lane_lt ..) fun j => lanes i j hi⟩
  · exact fun free => (vargmx_gives g free 6).mono fun v fl => And.right
  · rw [exec_expmax, execExpmax]
    dsimp only
    rw [vecIssue_putV g free]
    simp only [if_true, VVal.zero, Bool.or_false]
    refine ⟨_, _, rfl, fun i j hi hj => ?_⟩
    rw [lane_buildV _ hi hj, getD_map_range _ _ hi]
  · rw [exec_expmax, execExpmax]
    dsimp only
    rw [vecIssue_putV g free]
    simp only [if_neg Nat.zero_ne_one]
    refine ⟨_, _, rfl, fun i j hi hj => ?_⟩
    rw [lane_buildV _ hi hj, getD_map_range _ _ hi]
  · rw [exec_expnrm, execExpnrm]
    exact ⟨_, vecWord_gives g 20 _ free, fun vs i j => rfl⟩
  · rw [exec_vwelu, execVwelu]
    refine vecWhole_gives g free fun i j hi hj => ?_
    dsimp only
    rw [List.map_map, lane_welBuild _ _ hi hj]
    refine ⟨fun none => ?_, fun B batch => ?_⟩
    · rw [Function.comp_apply, welBatch_none none]
      rfl
    · have found : welBatch (on i) (lane (vv (List.map (fun r => (T.vsrc r).v) [a, d]) 0) i) = some B := batch
      rw [Function.comp_apply, found]
      rfl
  · rw [exec_vwelm, execVwelm]
    dsimp only
    rw [vecIssue_putV g free]
    refine ⟨_, _, rfl, fun i j hi hj => ?_⟩
    rw [List.map_map, lane_welBuild _ _ hi hj]
    rfl
  · rw [exec_conft, execConft]
    dsimp only
    rw [vecIssue_putM g free]
    refine ⟨_, _, _, rfl, fun i j hi hj => ⟨mbit_buildM _ hi hj, ?_⟩⟩
    rw [mbit_buildM _ hi hj, getD_map_range _ _ hi]
  · obtain ⟨e, c, fl, ends, lanes⟩ := vqnt_gives g free ty
    refine ⟨e, c, fl, ends, fun i j hi hj => ?_⟩
    obtain ⟨scale, elements⟩ := lanes i j hi hj
    rw [elements]
    refine ⟨scale, fun bytes above => ?_, fun nibbles above => ?_, fun k hk hj types => ?_⟩
    · exact quantRow_beyond (by tauto) _ _ (by rcases bytes with rfl | rfl | rfl <;> exact above)
    · exact quantRow_beyond (by tauto) _ _ (by subst nibbles; exact above)
    · exact slot_quantRow types (fun k => (quantBlock ty on (T.vsrc a).v i k).2.1) hk hj
  · rw [exec_vdqnt, execVdqnt]
    exact vecWord_gives g 16 _ free

end Sys2Proof.Machine
end

section
namespace Sys2Proof.Machine

/-! ### What the words of an engine change besides their effect, and the control words of the vector engine (O56; 02 R32, R49;
06 R161, R164, R170, R171) -/

/-- A tile changed at most in its engines and rings, and in the objects of waits and signals with what they learned. -/
def EngTile (T U : Tile) : Prop :=
  U = { T with eng := U.eng, rings := U.rings, sem := U.sem, tq := U.tq, pushes := U.pushes, bar := U.bar, bpend := U.bpend,
               know := U.know }

theorem EngTile.refl (T : Tile) : EngTile T T := rfl

theorem EngTile.trans {T U V : Tile} (a : EngTile T U) (b : EngTile U V) : EngTile T V := by
  unfold EngTile at a b ⊢
  rw [b, a]

theorem SyncOnly.engTile {T U : Tile} (sync : SyncOnly T U) : EngTile T U := by
  obtain ⟨tile, ctxs⟩ := sync
  unfold TileButSync at tile
  unfold EngTile
  rw [tile, ctxs]

/-- The passing of an engine of tile `t` to or past a word: besides what is in flight, the agenda and the count of free values, its tile
changes as `EngTile` says, and nothing else. -/
structure EngStep (s u : State) (t : Nat) : Prop where
  memory : SameMemory s u
  device : SameDevice s u
  others : SameOthers s u t
  tile : EngTile (s.tile t) (u.tile t)

namespace EngStep

theorem refl (s : State) (t : Nat) : EngStep s s t := ⟨.of_eq rfl rfl rfl, .refl s, fun _ _ => rfl, .refl _⟩

theorem trans {s v u : State} {t : Nat} (a : EngStep s v t) (b : EngStep v u t) : EngStep s u t :=
  ⟨a.memory.trans b.memory, a.device.trans b.device, a.others.trans b.others, a.tile.trans b.tile⟩

theorem setTile (s : State) {t : Nat} {T : Tile} (tile : EngTile (s.tile t) T) : EngStep s (s.setTile t T) t :=
  ⟨.of_eq rfl rfl rfl, .setTile s t T, .setTile s t T, by rwa [State.setTile_tile]⟩

theorem updEng (s : State) (t e : Nat) (f : Eng → Eng) : EngStep s (s.updEng t e f) t := .setTile s rfl

end EngStep

theorem SyncStep.engStep {s u : State} {t : Nat} (st : SyncStep s u t) : EngStep s u t :=
  ⟨st.memory, st.device, st.others, st.tile.engTile⟩

namespace EngStep
variable (s : State) (t e : Nat)

theorem signalNow (c sig : Nat) (pois : Option (Nat × Nat)) : EngStep s (s.signalNow t e c sig pois) t :=
  (SyncStep.signalNow s t e c sig pois).engStep

theorem passSource : EngStep s (s.passSource t e) t := by
  simp only [State.passSource]
  split <;> exact .setTile s rfl

theorem pass : EngStep s (s.pass t e) t := by
  simp only [State.pass]
  split
  · exact .refl s t
  · split
    · split
      · split
        · exact (EngStep.updEng s t e _).trans (.updEng ..)
        · exact ((EngStep.updEng s t e _).trans (.updEng ..)).trans (.passSource ..)
      · exact (EngStep.updEng s t e _).trans (.updEng ..)
    · exact (EngStep.updEng s t e _).trans (.passSource ..)

theorem begin : EngStep s (s.begin t e) t := by
  unfold State.begin
  split
  · next x _ =>
    have learns : EngStep s (s.updTile t fun T => T.learn e (x.w.toNat / 2 ^ 56)) t := .setTile s (Tile.tell_syncOnly ..).engTile
    exact (learns.trans (.pass ..)).trans (.updEng ..)
  · exact .updEng ..

theorem decodeFault (cause : Nat) : EngStep s (s.decodeFault t e cause) t := by
  unfold State.decodeFault
  split
  · exact .refl s t
  · dsimp only
    split
    · exact (EngStep.updEng s t e _).trans (.signalNow ..)
    · exact .updEng ..

end EngStep

theorem RingGoes.engStep {s w : State} {t e : Nat} {h : Hdr} (g : RingGoes s t e h w) : EngStep s (w.begin t e) t :=
  g.syncStep.engStep.trans (.begin ..)

theorem State.passSource_flights (s : State) (t e : Nat) : (s.passSource t e).flights = s.flights := by
  simp only [State.passSource]
  split <;> rfl

theorem State.pass_flights (s : State) (t e : Nat) : (s.pass t e).flights = s.flights := by
  simp only [State.pass]
  split
  · rfl
  · split
    · split
      · split
        · rfl
        · exact State.passSource_flights ..
      · rfl
    · exact State.passSource_flights ..

theorem State.begin_flights (s : State) (t e : Nat) : (s.begin t e).flights = s.flights := by
  unfold State.begin
  split
  · exact State.pass_flights ..
  · rfl

theorem State.decodeFault_bad (s : State) (t e cause : Nat) : (s.decodeFault t e cause).bad = s.bad := by
  unfold State.decodeFault
  split
  · rfl
  · dsimp only
    split
    · exact (State.signalNow_bad ..).trans (State.stopEngine_bad ..)
    · rfl

/-- A word of an engine that nothing else can hold. -/
theorem ringFree_goes {s w : State} {t e : Nat} {h : Hdr} (g : RingGoes s t e h w) {eff : Nat → Nat → State → State}
    (sound : ∀ sig u, u.bad = none → (eff t sig u).bad = none) :
    engIssue h s .none eff = .next (eff t ((s.tile t).resolveSig h.sig) (w.begin t e)) := by
  rw [engIssue_goes g _ _ rfl fun _ => rfl, finish_eq_next (sound _ _ (by simp [g.bad]))]

/-- A turn of VLOOP reads the counter, the sizes and the bases alone. -/
theorem Tile.loopTurn_of_engTile {T U : Tile} (same : EngTile T U) (cnt : Nat) : U.loopTurn cnt = { U with
    vlc := (T.loopTurn cnt).vlc, vbase := (T.loopTurn cnt).vbase, mbase := (T.loopTurn cnt).mbase } := by
  unfold EngTile at same
  rw [same]
  rfl

theorem Tile.loopTurn_vlc (T : Tile) (cnt : Nat) : (T.loopTurn cnt).vlc = (if T.vlc = 0 then cnt else T.vlc) - 1 := rfl

/-- The counter after some turns of one loop. -/
theorem loopTurns_vlc {T : Tile} {cnt k : Nat} (fresh : T.vlc = 0) (some : 0 < k) (most : k ≤ cnt) :
    (Nat.repeat (fun U : Tile => U.loopTurn cnt) k T).vlc = cnt - k := by
  induction k with
  | zero => exact absurd some (Nat.lt_irrefl 0)
  | succ k ih =>
    rw [Nat.repeat, Tile.loopTurn_vlc]
    by_cases first : k = 0
    · subst first
      simp [Nat.repeat, fresh]
    · rw [ih (Nat.pos_of_ne_zero first) (by omega), if_neg (by omega)]
      omega

/-- VLOOP in a resident routine (06 R171). -/
theorem execVloop_resident {s w : State} {t : Nat} {h : Hdr} (g : RingGoes s t 2 h w) {q : Routine} {x : RWord} {cnt off : Nat}
    (resident : ((s.tile t).engine 2).routine = some q) (word : s.peek t 2 = some x) :
    let target : Int := x.off + (BitVec.ofNat 64 off).toInt
    let v := (w.begin t 2).updTile t fun T => T.loopTurn cnt
    execVloop h cnt off s = if target < q.first ∨ x.off < target ∨ q.last < x.off then .next (s.decodeFault t 2 9)
      else .next ((if (v.tile t).vlc = 0 then v else v.updEng t 2 fun E => { E with routine := some { q with next := target.toNat } }).signalNow
        t 2 0 ((s.tile t).resolveSig h.sig) none) := by
  intro target v
  simp only [execVloop, g.curTile, resident, word]
  split
  · next outside => exact (finish_eq_next ((s.decodeFault_bad ..).trans g.sound)).trans (if_pos outside).symm
  · next inside =>
    refine (ringFree_goes g fun sig u sound => ?_).trans (if_neg inside).symm
    rw [State.signalNow_bad]
    split <;> exact sound

theorem execVloop_elsewhere {s w : State} {t : Nat} {h : Hdr} (g : RingGoes s t 2 h w) {cnt off : Nat}
    (elsewhere : ((s.tile t).engine 2).routine = none) : execVloop h cnt off s = .next (s.decodeFault t 2 9) := by
  simp only [execVloop, g.curTile, elsewhere]
  exact finish_eq_next ((s.decodeFault_bad ..).trans g.sound)

/-- Settles O56: VROTSET by `ringFree_goes`, VLOOP by its two cases, the counter by `loopTurns_vlc`. -/
theorem vectorControlWords : Obligations.VectorControlWords := by
  refine ⟨fun s w t h n m cnt off g => ?_, fun T cnt k fresh _ most some => loopTurns_vlc fresh some most⟩
  intro T u sig back vlc turned
  have turns : (u.updTile t fun T => T.loopTurn cnt) = turned := congrArg (u.setTile t) (Tile.loopTurn_of_engTile g.engStep.tile cnt)
  have counter : (turned.tile t).vlc = vlc := congrArg Tile.vlc (u.updTile_tile t _)
  refine ⟨(exec_vrotset ..).trans (ringFree_goes g fun sig u sound => (State.signalNow_bad ..).trans sound), fun q x resident word => ?_,
    fun elsewhere => (exec_vloop ..).trans (execVloop_elsewhere g elsewhere)⟩
  have goes := (exec_vloop ..).trans (execVloop_resident g (cnt := cnt) (off := off) resident word)
  refine ⟨fun first behind last => ?_, fun outside => goes.trans (if_pos outside)⟩
  rw [goes, if_neg (by omega), turns, counter]
  exact ⟨fun zero => by rw [if_pos zero], fun more => by rw [if_neg more]⟩

end Sys2Proof.Machine
end

section
namespace Sys2Proof.Machine

/-! ### What the vector words leave alone as they issue (O57; 06 R161, R162, R164, R166, R167, R169) -/

/-- A tile changed at most as an engine's issue changes it, in its queues and streams, and in when its pipes were taken. -/
def PipeTile (T U : Tile) : Prop :=
  U = { T with eng := U.eng, rings := U.rings, sem := U.sem, tq := U.tq, pushes := U.pushes, bar := U.bar, bpend := U.bpend,
               know := U.know, queues := U.queues, streams := U.streams, lastPipe := U.lastPipe }

theorem PipeTile.refl (T : Tile) : PipeTile T T := rfl

theorem PipeTile.trans {T U V : Tile} (a : PipeTile T U) (b : PipeTile U V) : PipeTile T V := by
  unfold PipeTile at a b ⊢
  rw [b, a]

theorem EngTile.pipeTile {T U : Tile} (tile : EngTile T U) : PipeTile T U := by
  unfold EngTile at tile
  unfold PipeTile
  rw [tile]

theorem PipeTile.setQueue {T U : Tile} (tile : PipeTile T U) (q : Nat) (v : Queue) : PipeTile T (U.setQueue q v) :=
  tile.trans rfl

/-- What a pipe word may add in flight: writes to the register, mask or accumulator tile that `d` names (the register `b` too), the fills
of the store-queue entries it allocated, flags of its engine and its signal. -/
def VecWrites (T : Tile) (t sig d b : Nat) (fl : Fl) : Prop :=
  (∃ r ∈ [d, b], ∃ m v g, r < 1024 ∧ fl = .vreg t (T.vphys r) m v g) ∨ (∃ m v g, fl = .mreg t (T.mphys d) m v g) ∨
  (∃ v, fl = .tile t (accIdx d) true 0 v 0) ∨ (∃ r ∈ [d, b], ∃ p v g, isSq r = true ∧ fl = .qfill t 2 r p v g) ∨
  (∃ g, fl = .flags t 2 g) ∨ fl = .signal t 2 sig 0 none

/-- A step of a pipe word of tile `t`: besides the agenda and the count of free values, its tile changes as `PipeTile` says, what it adds
in flight is `own`, and nothing else changes. -/
structure PipeStep (own : Fl → Prop) (s u : State) (t : Nat) : Prop where
  memory : SameMemory s u
  device : SameDevice s u
  others : SameOthers s u t
  tile : PipeTile (s.tile t) (u.tile t)
  flights : ∃ fs, u.flights = s.flights ++ fs ∧ ∀ f ∈ fs, own f.fl

namespace PipeStep
variable {own : Fl → Prop} {s u : State} {t : Nat}

theorem ofEng (st : EngStep s u t) (flights : u.flights = s.flights) : PipeStep own s u t :=
  ⟨st.memory, st.device, st.others, st.tile.pipeTile, [], by rw [flights, List.append_nil], by simp⟩

theorem refl (s : State) (t : Nat) : PipeStep own s s t := .ofEng (.refl s t) rfl

theorem trans {v : State} (a : PipeStep own s v t) (b : PipeStep own v u t) : PipeStep own s u t := by
  obtain ⟨xs, addedX, ownX⟩ := a.flights
  obtain ⟨ys, addedY, ownY⟩ := b.flights
  exact ⟨a.memory.trans b.memory, a.device.trans b.device, a.others.trans b.others, a.tile.trans b.tile, xs ++ ys,
    by rw [addedY, addedX, List.append_assoc], fun f among => (List.mem_append.mp among).elim (ownX f) (ownY f)⟩

theorem updTile (st : PipeStep own s u t) {f : Tile → Tile} (tile : PipeTile (u.tile t) (f (u.tile t))) :
    PipeStep own s (u.updTile t f) t :=
  st.trans ⟨.of_eq rfl rfl rfl, .setTile u t _, .setTile u t _, by rwa [State.updTile_tile], [], (List.append_nil _).symm, by simp⟩

theorem flyTile (st : PipeStep own s u t) (l : Nat) {fl : Fl} (is : own fl) : PipeStep own s (u.flyTile t l fl) t :=
  st.trans ⟨.of_eq rfl rfl rfl, ⟨rfl, rfl, rfl, rfl, rfl, rfl, rfl, rfl, rfl, rfl⟩, fun _ _ => rfl, rfl, _, rfl,
    fun f among => by rwa [List.mem_singleton.mp among]⟩

theorem nextId (st : PipeStep own s u t) (n : Nat) : PipeStep own s { u with nextId := n } t :=
  st.trans ⟨.of_eq rfl rfl rfl, ⟨rfl, rfl, rfl, rfl, rfl, rfl, rfl, rfl, rfl, rfl⟩, fun _ _ => rfl, rfl, [],
    (List.append_nil _).symm, by simp⟩

theorem signalIn (st : PipeStep own s u t) {sig : Nat} (l : Nat) (is : own (.signal t 2 sig 0 none)) :
    PipeStep own s (u.signalIn t 2 0 sig l none) t := by
  unfold State.signalIn
  split
  · exact st
  · exact st.flyTile l is

theorem popAll (st : PipeStep own s u t) (rs : List Nat) : PipeStep own s (u.popAll t rs) t := by
  refine st.updTile ?_
  have pops (qs : List Nat) (T U : Tile) (same : PipeTile T U) : PipeTile T (qs.foldl (fun T q => T.setQueue q (T.queue q).pop) U) := by
    induction qs generalizing U with
    | nil => exact same
    | cons q qs ih => exact ih _ (same.setQueue ..)
  exact pops _ _ _ rfl

end PipeStep

section
variable {s u w : State} {t : Nat} {h : Hdr} {d b : Nat}

/-- The flights of the word of tile `t` that names the destinations `d` and `b`. -/
def vecOwn (s : State) (t : Nat) (h : Hdr) (d b : Nat) : Fl → Prop := VecWrites (s.tile t) t ((s.tile t).resolveSig h.sig) d b

/-- Rotation is as it was. -/
theorem PipeTile.vphys {T U : Tile} (tile : PipeTile T U) (r : Nat) : U.vphys r = T.vphys r := by
  rw [tile]
  rfl

theorem PipeTile.mphys {T U : Tile} (tile : PipeTile T U) (r : Nat) : U.mphys r = T.mphys r := by
  rw [tile]
  rfl

theorem vecOwn_flags (g : Nat) : vecOwn s t h d b (.flags t 2 g) := .inr (.inr (.inr (.inr (.inl ⟨g, rfl⟩))))

theorem PipeStep.putV (st : PipeStep (vecOwn s t h d b) s u t) {r : Nat} (named : r ∈ [d, b]) (l : Nat) (m : MReg) (v : VVal) (fl : Nat) :
    PipeStep (vecOwn s t h d b) s (u.putV t r l m v fl) t := by
  simp only [State.putV]
  split
  · next register => exact st.flyTile l (.inl ⟨r, named, m, v, fl, register, by rw [st.tile.vphys]⟩)
  · split
    · next queue =>
      have fills (q : Nat) (x : VVal) : vecOwn s t h d b (.qfill t 2 r q x fl) :=
        .inr (.inr (.inr (.inl ⟨r, named, q, x, fl, queue, rfl⟩)))
      exact (st.updTile (PipeTile.setQueue (.refl _) ..)).flyTile l (fills ..)
    · split
      · split
        · exact (st.updTile (by exact rfl)).nextId _
        · exact (st.updTile (by exact rfl)).flyTile l (vecOwn_flags fl)
      · split
        · exact st
        · exact st.flyTile l (vecOwn_flags fl)

theorem PipeStep.putD (st : PipeStep (vecOwn s t h d b) s u t) (l : Nat) (m : MReg) (v : VVal) (fl : Nat) :
    PipeStep (vecOwn s t h d b) s (u.putV t d l m v fl) t := st.putV List.mem_cons_self l m v fl

theorem PipeStep.putM (st : PipeStep (vecOwn s t h d b) s u t) (l : Nat) (m : MReg) (v : MVal) (fl : Nat) :
    PipeStep (vecOwn s t h d b) s (u.putM t d l m v fl) t :=
  st.flyTile l (.inr (.inl ⟨m, v, fl, by rw [st.tile.mphys]⟩))

/-- The issue of a pipe word whose effect is within the step. -/
theorem PipeStep.vecIssue (g : RingGoes s t 2 h w) {rs ds : List Nat} {l : Nat} {eff : Nat → Tile → State → State}
    (effect : ∀ v, PipeStep (vecOwn s t h d b) s v t → PipeStep (vecOwn s t h d b) s (eff t (s.tile t) v) t)
    (ends : vecIssue h s rs ds l eff = .next u) : PipeStep (vecOwn s t h d b) s u t := by
  obtain rfl | rfl := engIssue_ends g rfl ends
  · exact .refl u t
  · have begun : PipeStep (vecOwn s t h d b) s (w.begin t 2) t :=
      .ofEng g.engStep ((w.begin_flights t 2).trans g.keeps.flights)
    exact (effect _ ((begun.popAll rs).updTile (by exact rfl))).signalIn l (.inr (.inr (.inr (.inr (.inr rfl)))))

theorem PipeStep.vecWord (g : RingGoes s t 2 h w) {rs : List Nat} {l : Nat} {f : List VReg → Nat → Nat → Nat × Nat}
    (ends : vecWord h s d rs l f = .next u) : PipeStep (vecOwn s t h d b) s u t :=
  .vecIssue g (fun _ st => st.putD ..) ends

theorem PipeStep.vecLane (g : RingGoes s t 2 h w) {rs : List Nat} {l : Nat} {f : List Nat → Nat × Nat}
    (ends : vecLane h s d rs l f = .next u) : PipeStep (vecOwn s t h d b) s u t :=
  .vecWord g (f := fun vs i j => f (vs.map fun v => lane v i j)) ends

theorem PipeStep.vecFloat (g : RingGoes s t 2 h w) {rs : List Nat} {l ty rnd sat : Nat} {f : List FV → FX}
    (ends : vecFloat h s d rs l ty rnd sat f = .next u) : PipeStep (vecOwn s t h d b) s u t :=
  .vecLane g (f := floatElems ty rnd sat f) ends

theorem PipeStep.vecInt (g : RingGoes s t 2 h w) {rs : List Nat} {l ty sat : Nat} {f : List Int → Int}
    (ends : vecInt h s d rs l ty sat f = .next u) : PipeStep (vecOwn s t h d b) s u t :=
  .vecLane g (f := intElems ty sat f) ends

theorem PipeStep.vecMove (g : RingGoes s t 2 h w) {rs : List Nat} {l : Nat} {f : List VReg → Nat → Nat → Nat}
    (ends : vecMove h s d rs l f = .next u) : PipeStep (vecOwn s t h d b) s u t :=
  .vecWord g (f := fun vs i j => (f vs i j, 0)) ends

theorem PipeStep.vecWhole (g : RingGoes s t 2 h w) {rs : List Nat} {l : Nat} {f : (Nat → Nat → Bool) → List VReg → VReg × Nat}
    (ends : vecWhole h s d rs l f = .next u) : PipeStep (vecOwn s t h d b) s u t :=
  .vecIssue g (fun _ st => st.putD ..) ends

theorem PipeStep.vecToMask (g : RingGoes s t 2 h w) {rs : List Nat} {l : Nat} {f : List Nat → Bool × Nat}
    (ends : vecToMask h s d rs l f = .next u) : PipeStep (vecOwn s t h d b) s u t :=
  .vecIssue g (fun _ st => st.putM ..) ends

theorem PipeStep.maskWord (g : RingGoes s t 2 h w) {rs : List Nat} {f : List MReg → MReg}
    (ends : maskWord h s d rs f = .next u) : PipeStep (vecOwn s t h d b) s u t :=
  .vecIssue g (fun _ st => st.putM ..) ends

theorem PipeStep.execVmovta (g : RingGoes s t 2 h w) {a q : Nat} (ends : execVmovta h d a q s = .next u) :
    PipeStep (vecOwn s t h d b) s u t :=
  .vecIssue g (fun _ st => st.flyTile 8 (.inr (.inr (.inl ⟨_, rfl⟩)))) ends

theorem PipeStep.execVqnt (g : RingGoes s t 2 h w) {a ty : Nat} (ends : execVqnt h d a b ty s = .next u) :
    PipeStep (vecOwn s t h d b) s u t :=
  .vecIssue g (fun _ st => (st.putD ..).putV (List.mem_cons_of_mem _ List.mem_cons_self) ..) ends

end

/-- What the frame of the pipe words says of a tile. -/
theorem PipeTile.butContexts {T U : Tile} (tile : PipeTile T U) :
    U = { T with eng := U.eng, rings := U.rings, sem := U.sem, tq := U.tq, pushes := U.pushes, bar := U.bar, bpend := U.bpend,
                 know := U.know, ctxs := U.ctxs, queues := U.queues, streams := U.streams, lastPipe := U.lastPipe } := by
  unfold PipeTile at tile
  rw [tile]

/-- A control word of the vector engine changes, besides what an engine's issue changes, the rotation and the loop counter of its tile
alone. -/
structure LoopStep (s u : State) (t : Nat) : Prop where
  memory : SameMemory s u
  device : SameDevice s u
  others : SameOthers s u t
  tile : u.tile t = { s.tile t with
    eng := (u.tile t).eng, rings := (u.tile t).rings, sem := (u.tile t).sem, tq := (u.tile t).tq, pushes := (u.tile t).pushes,
    bar := (u.tile t).bar, bpend := (u.tile t).bpend, know := (u.tile t).know, ctxs := (u.tile t).ctxs, rotN := (u.tile t).rotN,
    rotM := (u.tile t).rotM, vlc := (u.tile t).vlc, vbase := (u.tile t).vbase, mbase := (u.tile t).mbase }

theorem LoopStep.trans {s v u : State} {t : Nat} (a : LoopStep s v t) (b : LoopStep v u t) : LoopStep s u t :=
  ⟨a.memory.trans b.memory, a.device.trans b.device, a.others.trans b.others, by rw [b.tile, a.tile]⟩

theorem EngStep.loopStep {s u : State} {t : Nat} (st : EngStep s u t) : LoopStep s u t := by
  obtain ⟨memory, device, others, tile⟩ := st
  unfold EngTile at tile
  exact ⟨memory, device, others, by rw [tile]⟩

theorem LoopStep.rotate (s : State) (t n m c x y : Nat) :
    LoopStep s (s.updTile t fun T => { T with rotN := n, rotM := m, vlc := c, vbase := x, mbase := y }) t :=
  ⟨.of_eq rfl rfl rfl, .setTile s t _, .setTile s t _, by rw [State.updTile_tile]⟩

theorem LoopStep.execVrotset {s u w : State} {t : Nat} {h : Hdr} (g : RingGoes s t 2 h w) {n m : Nat}
    (ends : execVrotset h n m s = .next u) : LoopStep s u t := by
  obtain rfl | rfl := engIssue_ends g rfl ends
  · exact (EngStep.refl u t).loopStep
  · exact (g.engStep.loopStep.trans (.rotate ..)).trans (EngStep.signalNow ..).loopStep

/-- In a routine there is a word to execute. -/
theorem peek_of_routine {s : State} {t e : Nat} {q : Routine} (resident : ((s.tile t).engine e).routine = some q) :
    ∃ x, s.peek t e = some x := by
  simp only [State.peek, resident]
  split <;> exact ⟨_, rfl⟩

theorem LoopStep.execVloop {s u w : State} {t : Nat} {h : Hdr} (g : RingGoes s t 2 h w) {cnt off : Nat}
    (ends : execVloop h cnt off s = .next u) : LoopStep s u t := by
  cases resident : ((s.tile t).engine 2).routine with
  | none =>
    rw [execVloop_elsewhere g resident] at ends
    cases ends
    exact (EngStep.decodeFault ..).loopStep
  | some q =>
    obtain ⟨x, word⟩ := peek_of_routine resident
    rw [execVloop_resident g resident word] at ends
    have turned : LoopStep s ((w.begin t 2).updTile t fun T => T.loopTurn cnt) t := g.engStep.loopStep.trans (.rotate ..)
    split at ends <;> cases ends
    · exact (EngStep.decodeFault ..).loopStep
    · refine LoopStep.trans ?_ (EngStep.signalNow ..).loopStep
      split
      · exact turned
      · exact turned.trans (EngStep.updEng ..).loopStep

/-- Settles O57: each pipe word by the lemma of its kind, whose step gives the frame, the control words by `LoopStep`. -/
theorem vectorIssueFrame : Obligations.VectorIssueFrame := by
  intro s u w t h d a b k m n q g T U writes
  have framed (st : PipeStep (vecOwn s t h d b) s u t) := And.intro st.memory (And.intro st.device (And.intro st.others
    (And.intro st.tile.butContexts st.flights)))
  have looped (st : LoopStep s u t) := And.intro st.memory (And.intro st.device (And.intro st.others st.tile))
  refine ⟨fun i among ends => framed ?_, fun i among ends => looped ?_⟩ <;> revert i
  · simp only [List.forall_mem_cons, exec_vadd, exec_vsub, exec_vmul, exec_vfma, exec_vfms, exec_vdiv, exec_vmin, exec_vmax, exec_vabs,
      exec_vneg, exec_vsqrt, exec_vrsq, exec_vrcp, exec_vexp, exec_vexp2, exec_vlog, exec_vlog2, exec_vtanh, exec_vsigm, exec_vgelu,
      exec_vsilu, exec_vsin, exec_vcos, exec_verf, exec_viadd, exec_visub, exec_vimul, exec_vimulh, exec_vimad, exec_viabs, exec_vimin,
      exec_vimax, exec_vand, exec_vor, exec_vxor, exec_vandn, exec_vshl, exec_vshr, exec_vshli, exec_vshri, exec_vext, exec_vins,
      exec_vfsh, exec_vpopc, exec_vclz, exec_vcvt, exec_vpack, exec_vunpk, exec_vqnt, exec_vdqnt, exec_vcmp, exec_vcmpi, exec_vsel,
      exec_vclamp, exec_mand, exec_mor, exec_mxor, exec_mnot, exec_mset, exec_mpopc, exec_mtov, exec_vtom, exec_vmov, exec_vsplat,
      exec_vidx, exec_vbcr, exec_vbcc, exec_vrotr, exec_vrotc, exec_vperm, exec_vlut, exec_vtrn, exec_vrng, exec_vmovfa, exec_vmovta,
      exec_vredr, exec_vredc, exec_vscan, exec_vargmx, exec_expmax, exec_expnrm, exec_vwelu, exec_vwelm, exec_conft]
    refine ⟨.vecFloat g, .vecFloat g, .vecFloat g, .vecFloat g, .vecFloat g, .vecFloat g, .vecFloat g, .vecFloat g, .vecFloat g, .vecFloat
      g, .vecFloat g, .vecFloat g, .vecFloat g, .vecFloat g, .vecFloat g, .vecFloat g, .vecFloat g, .vecFloat g, .vecFloat g,
      .vecFloat g, .vecFloat g, .vecFloat g, .vecFloat g, .vecFloat g, ?_⟩
    refine ⟨.vecInt g, .vecInt g, .vecInt g, .vecInt g, .vecInt g, .vecInt g, .vecInt g, .vecInt g, .vecLane g, .vecLane g, .vecLane g,
      .vecLane g, .vecLane g, .vecLane g, .vecLane g, .vecLane g, .vecLane g, .vecLane g, .vecLane g, .vecLane g, .vecLane g, .vecLane
      g, .vecLane g, .vecLane g, .execVqnt g, .vecWord g, ?_⟩
    refine ⟨.vecToMask g, .vecToMask g, .vecIssue g fun _ st => st.putD .., .vecLane g, .maskWord g, .maskWord g, .maskWord g, .maskWord g,
      .maskWord g, .vecIssue g fun _ st => st.putD .., .vecIssue g fun _ st => st.putD .., .vecToMask g, ?_⟩
    exact ⟨.vecMove g, .vecMove g, .vecMove g, .vecMove g, .vecMove g, .vecMove g, .vecMove g, .vecMove g, .vecMove g, .vecMove g,
      .vecMove g, .vecIssue g fun _ st => st.putD .., .execVmovta g, .vecWhole g, .vecWhole g, .vecWhole g, .vecWhole g, .vecIssue g
      fun _ st => st.putD .., .vecWord g, .vecWhole g, .vecIssue g fun _ st => st.putD .., .vecIssue g fun _ st => st.putM ..,
      List.forall_mem_nil _⟩
  · simp only [List.forall_mem_cons, exec_vrotset, exec_vloop]
    exact ⟨.execVrotset g, .execVloop g, List.forall_mem_nil _⟩

end Sys2Proof.Machine
end
